-- ==== Sys2Proof/Word.lean ====
section
/-! DEFINITION. The word types of the device: bytes, 32-bit register words, 64-bit registers and tide values. -/
namespace Sys2Proof

/-- One byte of memory, of the scratchpad or of a packet. -/
abbrev Byte := BitVec 8
/-- One 32-bit register word (R37 performs 4- and 8-byte accesses). -/
abbrev Word := BitVec 32
/-- A 64-bit register, a tide value or a tick number (R10). -/
abbrev Dword := BitVec 64

end Sys2Proof
end

