-- ==== Sys2Proof/Syntax.lean ====
section
/-! DEFINITION. The commands of the device: one constructor of Instr for each row of the table of operations and
events (spec/opcode_table.json), with the stimulus that the row takes from outside as its operands. -/
namespace Sys2Proof

/-- Who issues a register access (R39, Table 3-1). A peer is named by the fabric port its operation arrived on and
the partition key it carries (R40). -/
inductive Requester where
  | host
  | serving (n : Fin 4)
  | security
  | peer (port : Fin 8) (pkey : BitVec 16)
deriving DecidableEq, Repr

/-- One register access: byte offset within space 3, size in bytes, data in the low bits (R36, R37). -/
structure RegAcc where
  off : Nat
  size : Nat
  data : Dword
deriving DecidableEq, Repr

/-- Symbol errors that a stored line has suffered since it was last read: symbol 0 to 63 are data symbols, 64 to 67
the check symbols (R216); each is XORed into the stored symbol. -/
abbrev Upset := List (Fin 68 × BitVec 16)

/-- What an access does with its line (R224, R229): read it, write bytes from a position within the line, read it and
hold it locked, or perform the unlocking write. -/
inductive LineOp where
  | read
  | write (pos : Nat) (bytes : List Byte) (poison : Bool)
  | lockRead
  | unlockWrite (pos : Nat) (bytes : List Byte) (poison : Bool)
deriving DecidableEq, Repr

/-- An access to stack memory at the core cache (R224, R225). -/
structure StackAcc where
  src : Nat
  off : Nat
  op : LineOp
  hint : BitVec 2
  upset : Upset
deriving DecidableEq, Repr

/-- A near-memory operation (R229): operands a and b serve the scalar forms, bytes the vector forms. -/
structure NmaAcc where
  src : Nat
  off : Nat
  op : BitVec 4
  bytes : List Byte
  a : Dword
  b : Dword
  poison : Bool
  upset : Upset
deriving DecidableEq, Repr

/-- An access to the board tier (space 1) at its interface (R262). -/
structure BoardAcc where
  src : Nat
  off : Nat
  op : LineOp
  upset : Upset
deriving DecidableEq, Repr

/-- An access to the host window (space 2), at most one line (R263). -/
structure HostAcc where
  src : Nat
  off : Nat
  len : Nat
  write : Option (List Byte × Bool)
deriving DecidableEq, Repr

/-- The content of a time codeword (R286, Table 12-4); t2 and t3 are in sixteenths of a ns. -/
structure TimeMsg where
  state : BitVec 8
  xseq : BitVec 16
  master : BitVec 10
  epoch : BitVec 16
  hops : BitVec 8
  t2 : Nat
  t3 : Nat
deriving DecidableEq, Repr

/-- How a PTP message is carried (R14). -/
inductive PtpTransport where
  | udp4 | udp6 | l2
deriving DecidableEq, Repr

/-- What an Announce says of a clock, as the standard compares it (R14, IEEE 1588-2019): the grandmaster's priorities, quality and
identity, and the steps removed from it. -/
structure PtpClock where
  prio1 : BitVec 8
  quality : BitVec 32
  prio2 : BitVec 8
  identity : BitVec 64
  steps : BitVec 16
  sender : BitVec 64
deriving DecidableEq, Repr

/-- The PTP messages that take part in an exchange, or in the choice of a master (R14, IEEE 1588-2019). -/
inductive PtpKind where
  | announce (c : PtpClock)
  | sync | followUp | delayReq | delayResp | pdelayReq | pdelayResp | pdelayFollowUp
deriving DecidableEq, Repr

/-- A PTP message: its number, two-step flag, correction in 2^-16 ns, and the timestamp that its kind carries, in seconds and
ns since the PTP epoch. -/
structure PtpMsg where
  transport : PtpTransport
  kind : PtpKind
  seq : BitVec 16
  twoStep : Bool
  correction : BitVec 64
  sec : BitVec 48
  ns : BitVec 32
deriving DecidableEq, Repr

/-- The arrival of a PTP message (R14): its timestamp, that of a message sent on it, both in sixteenths of a ns of tide, whether
the port runs the peer-to-peer delay mechanism (else end-to-end), and whether it answers in two steps. The spec gives no
register for the last two. -/
structure PtpEvent where
  msg : PtpMsg
  rx : Nat
  tx : Nat
  peerDelay : Bool
  replyTwoStep : Bool
deriving DecidableEq, Repr

/-- What ends QUALIFY (R277, R289): an error count per lane, the peer's good-lane mask, whether this port finds the lanes in reverse
order and corrects it, and the lanes whose polarity is inverted. Counts and polarity go by the port's own lanes, the mask by the lane
numbers that the two peers share once the reversal is corrected. -/
structure QualifyResult where
  errs : List Nat
  peerGood : BitVec 8
  reversed : Bool
  inverted : BitVec 8
deriving DecidableEq, Repr

/-- A negotiation record (Table 12-5): version range, initial credits per virtual lane, device and port number; of an Ethernet port
the rates that the peer supports: 1.6 Tbit/s, 800 and 400 Gbit/s from bit 0 on (R293). -/
structure NegRecord where
  low : BitVec 16
  high : BitVec 16
  credits : List (BitVec 16)
  dev : BitVec 10
  port : BitVec 3
  rates : BitVec 3
deriving DecidableEq, Repr

/-- A received codeword (R279, R280): the symbols that come on the active lanes, by lane in wiring order; the corrections of the
decoder, each a symbol's number and what is added to it; and of a time codeword its timestamp and that of the answer sent on it,
in sixteenths of a ns. -/
structure Codeword where
  lanes : List (List Nat)
  fix : List (Nat × Nat)
  rx : Nat
  tx : Nat
deriving DecidableEq, Repr

/-- A flit (R281, Table 12-2); rsv holds bits [31:27] and, above them, bits [127:96] of its first 16 bytes. -/
structure Flit where
  seq : BitVec 12
  ack : BitVec 12
  ackValid : Bool
  nak : Bool
  null : Bool
  cr : List Byte
  slots : List Byte
  crc : BitVec 64
  rsv : BitVec 37
deriving DecidableEq, Repr

/-- IP and UDP headers of a received packet as far as the device looks at them (R312): version, destination address as a number
with its first byte on the wire most significant, destination port, ECN field at CE. -/
structure IpHead where
  v6 : Bool
  dst : BitVec 128
  dport : BitVec 16
  ce : Bool
deriving DecidableEq, Repr

/-- A Salbuotte packet (R307 to R310): the fields of the base transport header, the words of the extension headers,
the payload and the packet CRC. -/
structure Packet where
  /-- IP and UDP headers that it came with; none on a native link, and of a packet of the device's own -/
  ip : Option IpHead
  opcode : BitVec 8
  ver : BitVec 4
  ackreq : Bool
  first : Bool
  last : Bool
  ce : Bool
  pkey : BitVec 16
  dstQpn : BitVec 16
  dstDev : BitVec 10
  psn : BitVec 24
  srcQpn : BitVec 16
  srcDev : BitVec 10
  tc : BitVec 3
  poison : Bool
  ext : List Dword
  payload : List Byte
  pcrc : Word
  /-- reserved bits of the header: word 0 [63:58] in [5:0], word 1 [63:54] in [15:6] -/
  rsv : BitVec 16
deriving DecidableEq, Repr

/-- A received Ethernet frame by its priority, length in bytes and FCS check (R292). -/
structure EthFrame where
  prio : Fin 8
  bytes : Nat
  fcsOk : Bool
  pause : Bool
deriving DecidableEq, Repr

/-- Bytes that the host has written to its own memory, from a space-2 offset on. -/
structure HostSpan where
  off : Nat
  bytes : List Byte
deriving DecidableEq, Repr

/-- The eight words of a serving command record (R368, Table 15-3). -/
structure CmdRec where
  w0 : Dword
  tag : Dword
  w2 : Dword
  w3 : Dword
  w4 : Dword
  w5 : Dword
  w6 : Dword
  w7 : Dword
deriving DecidableEq, Repr

/-- A weight page as the firmware maps it (R421): its space-0 offset, virtual address, and size as a power of two. -/
structure WeightAt where
  page : Nat
  va : Nat
  sh : Nat
deriving DecidableEq, Repr

/-- What the firmware finds when a basket row completes (R374, R381, R391, R421): the sampled token and log-probability of each query
position, the engine of the row's SAMPLE task, the scratchpad unit that its sampled output lies in, and the mapping of weights to look
at where the row is poisoned. -/
structure RowResult where
  samples : List (Word × Word)
  engine : Fin 256
  unit : Nat
  weights : Option WeightAt
deriving DecidableEq, Repr

/-- An error of the on-die SRAM of the memory path (R221): where it strikes. -/
inductive SramWhere where
  | single
  | clean (chan : Fin 4096) (line : Nat)
  | dirty (chan : Fin 4096) (line : Nat)
  | wc (entry : Nat)
  | gather (chan : Fin 4096) (line : Nat)
deriving DecidableEq, Repr

/-- Where a double-bit error of an engine's own SRAM strikes (R417). -/
inductive SpadWhere where
  | unit (u : Fin 65536)
  | acc (slot : Fin 32) (word : Fin 2048)
deriving DecidableEq, Repr

/-- One configuration record (R467, Table 19-9). -/
structure CfgRec where
  op : BitVec 4
  off : BitVec 26
  value : Dword
  mask : Dword
  time : Word
deriving DecidableEq, Repr

/-- The flash that the boot ROM reads (R462): its programmed extents, byte offset and bytes, and whether the interface reported a
read error. -/
structure FlashRead where
  extents : List (Nat × List Byte)
  err : Bool
deriving DecidableEq, Repr

/-- What the fuse block senses wrong at a load (R456): cells of the regions whose bits are three cells, by logical bit, and bits of
the 80 SECDED words of CAL and TRIM, 72 in a word with its check bits. -/
structure FuseSense where
  cells : List (Fin 8192 × Fin 3)
  bits : List (Fin 80 × Fin 72)
deriving DecidableEq, Repr

/-- A data-poison exception of a serving core (R419): the record it was reading. -/
inductive PoisonRecord where
  | hamper (i : Nat) | stepTable (row : Nat) | sampled (row : Nat) | other
deriving DecidableEq, Repr

/-- The commands, in the order of spec/opcode_table.json. -/
inductive Instr where
  | tickBoundary (power : BitVec 16)
  | timeReqSend (p : Fin 8) (t1 : Nat)
  | timeReqReceive (p : Fin 8) (m : TimeMsg) (t2 t3 : Nat)
  | timeRespReceive (p : Fin 8) (m : TimeMsg) (t4 : Nat)
  | ptpMessageReceive (p : Fin 8) (e : PtpEvent)
  | holdoverEntry
  | holdoverLimitExpiry
  | tideEnWrite (v : Bool)
  | tideMasterWrite (v : Bool)
  | setLoad
  | rebase
  | lock
  | tideJump (master : Dword)
  | stepTimerArm (n : Fin 4) (ctrl : Word)
  | stepTimerStart (n : Fin 4)
  | commitRequest (r : Requester) (a : RegAcc)
  | modeCommit (page : Nat)
  | unitLateCommit (page : Nat)
  | mixedTimeout
  | regWrite (r : Requester) (a : RegAcc)
  | blanketWrite (r : Requester) (a : RegAcc) (late : List Nat)
  | unitEnable (page : Nat)
  | gracefulDisable (page : Nat)
  | forceOff (page : Nat)
  | drainComplete (e : Fin 256)
  | forcedDisableEngine (e : Fin 256)
  | forcedDisableChannel (page : Nat)
  | forcedDisablePort (p : Fin 8)
  | queueTailWrite (e : Fin 256) (q : Fin 4) (v : Word)
  | descriptorFetch (e : Fin 256) (q : Fin 4)
  | fstopClear (e : Fin 256) (q : Fin 4)
  | invalidDescriptor (e : Fin 256) (q : Fin 4)
  | taskComplete (e : Fin 256) (q : Fin 4) (index : Word) (unitErr : Bool)
  | tokenSignalArrive
  | creditGiveArrive
  | engTcAdd (e : Fin 256) (v : Word)
  | engTcWrite (e : Fin 256) (t : Fin 64) (v : Word)
  | engCcWrite (e : Fin 256) (c : Fin 32) (v : Word)
  | stall (e : Fin 256)
  | nop (e : Fin 256) (q : Fin 4)
  | tick (e : Fin 256) (q : Fin 4)
  | event (e : Fin 256) (q : Fin 4)
  | mmaFp8 (e : Fin 256) (q : Fin 4)
  | mmaCode (e : Fin 256) (q : Fin 4)
  | mmaInt8 (e : Fin 256) (q : Fin 4)
  | mmaBf16 (e : Fin 256) (q : Fin 4)
  | tileZero (e : Fin 256) (q : Fin 4)
  | tileOut (e : Fin 256) (q : Fin 4)
  | kvAppend (e : Fin 256) (q : Fin 4)
  | tileSave (e : Fin 256) (q : Fin 4)
  | tileLoad (e : Fin 256) (q : Fin 4)
  | chain (e : Fin 256) (q : Fin 4)
  | permute (e : Fin 256) (q : Fin 4)
  | shuffle (e : Fin 256) (q : Fin 4)
  | pack (e : Fin 256) (q : Fin 4)
  | unpack (e : Fin 256) (q : Fin 4)
  | rotary (e : Fin 256) (q : Fin 4)
  | topk (e : Fin 256) (q : Fin 4)
  | sample (e : Fin 256) (q : Fin 4)
  | random (e : Fin 256) (q : Fin 4)
  | quant (e : Fin 256) (q : Fin 4)
  | attnFwd (e : Fin 256) (q : Fin 4)
  | attnMerge (e : Fin 256) (q : Fin 4)
  | attnBwd (e : Fin 256) (q : Fin 4)
  | load (e : Fin 256) (q : Fin 4)
  | store (e : Fin 256) (q : Fin 4)
  | accum (e : Fin 256) (q : Fin 4)
  | copy (e : Fin 256) (q : Fin 4)
  | brinePack (e : Fin 256) (q : Fin 4)
  | brineUnpack (e : Fin 256) (q : Fin 4)
  | stackAccess (a : StackAcc)
  | nmaOperation (a : NmaAcc)
  | lockTimeout (chan : Fin 4096)
  | scrubRead (chan : Fin 4096) (upset : Upset)
  | refresh (chan : Fin 4096)
  | dieTempReading (core : Fin 8) (die : Fin 16) (temp : BitVec 10)
  | wbAll (core : Fin 8)
  | flushDone (core : Fin 8)
  | wcFlush (core : Fin 8)
  | wcTimeout (core : Fin 8)
  | cchSramError (core : Fin 8) (w : SramWhere)
  | tgStart (chan : Fin 4096)
  | tgStop (chan : Fin 4096)
  | tgLineOperation (chan : Fin 4096) (upset : Upset)
  | tgDone (chan : Fin 4096)
  | pageWalk (engine : Option (Fin 256)) (ctx : Fin 64) (va : Nat)
  | engXlInv (e : Fin 256) (v : Dword)
  | coreXlInv (core : Fin 8) (v : Dword)
  | boardAccess (a : BoardAcc)
  | hostWindowAccess (a : HostAcc)
  | lowerTierLate (i : Nat)
  | lowerTierFailed (i : Nat)
  | boardTrained (n : Fin 16)
  | fabRetrain (p : Fin 8)
  | gtxRetrain
  | portRetryExpiry (p : Fin 8)
  | detectTimeout (p : Fin 9)
  | peerDetected (p : Fin 9) (eth : Bool)
  | equaliseDone (p : Fin 9)
  | qualifyDone (p : Fin 9) (r : QualifyResult)
  | negotiationRecord (p : Fin 9) (r : NegRecord)
  | codewordReceive (p : Fin 9) (c : Codeword)
  | flitReceive (p : Fin 9) (f : Flit)
  | llrTimeout (p : Fin 9)
  | packetSend (p : Fin 9)
  | laneLossOfLock (p : Fin 9) (lane : Fin 8)
  | laneCeLimit (p : Fin 9) (lane : Fin 8) (count : Nat)
  | retrainTimeout (p : Fin 9)
  | portDrained (p : Fin 8)
  | ethFrameReceive (p : Fin 8) (f : EthFrame)
  | pfcFrameReceive (p : Fin 8) (prio : Fin 8) (quanta : BitVec 16)
  | pfcRefresh (p : Fin 8) (prio : Fin 8)
  | pfcStorm (p : Fin 8) (prio : Fin 8)
  | regRd (tag : BitVec 16) (off : Nat) (size : Nat)
  | regWr (tag : BitVec 16) (a : RegAcc)
  | dmaCpl (tag : Nat) (status : BitVec 8) (bytes : List Byte)
  | doorbell (off : Nat) (data : Dword)
  | gtxTsDevProdWrite (v : Word)
  | tsFlushExpiry
  | tsFlush
  | gtxTsConsWrite (v : Word)
  | tsStall
  | qpDoorbell (qp : Fin 65536) (lo hi : Bool) (data : Dword)
  | sendWqe (qp : Fin 65536)
  | writeWqe (qp : Fin 65536)
  | readWqe (qp : Fin 65536)
  | atomicWqe (qp : Fin 65536)
  | addWriteWqe (qp : Fin 65536)
  | rakeWqe (qp : Fin 65536)
  | send (p : Fin 8) (k : Packet)
  | write (p : Fin 8) (k : Packet)
  | addWrite (p : Fin 8) (k : Packet)
  | readReq (p : Fin 8) (k : Packet)
  | readResp (p : Fin 8) (k : Packet)
  | atomic (p : Fin 8) (k : Packet)
  | atomicResp (p : Fin 8) (k : Packet)
  | ack (p : Fin 8) (k : Packet)
  | abort (p : Fin 8) (k : Packet)
  | cm (p : Fin 8) (k : Packet)
  | delayedAck (qp : Fin 65536)
  | retransmitTimeout (qp : Fin 65536)
  | rnrDelayExpiry (qp : Fin 65536)
  | qpInit (qp : Fin 65536)
  | qpRtr (qp : Fin 65536)
  | qpRts (qp : Fin 65536)
  | qpDrain (qp : Fin 65536)
  | qpForce (qp : Fin 65536)
  | qpCancel (qp : Fin 65536)
  | qpReset (qp : Fin 65536)
  | migrate (qp : Fin 65536) (port : Fin 8)
  | register (index : BitVec 20)
  | revokeRegion (index : BitVec 20)
  | rgnDone
  | crewEnable (n : Fin 16) (ctrl : Word)
  | crewDisable (n : Fin 16)
  | rakeReq (p : Fin 8) (k : Packet)
  | rakeReply (n : Fin 16) (e : Fin 256)
  | rakeResp (p : Fin 8) (k : Packet)
  | srvCmdTailWrite (v : Word) (wrote : List HostSpan)
  | submit
  | cancel
  | park
  | resume
  | draft
  | adapterLoad
  | adapterRetire
  | budget
  | query
  | fence
  | srvCplConsWrite (v : Word)
  | basketBuild
  | rowCompletion (row : Nat) (r : RowResult)
  | weightReloadComplete (page : Nat) (golden : List Nat) (frame : Nat)
  | rerunRelease
  | swapComplete (i : Nat) (e : Fin 256) (ok : Bool)
  | restoreComplete (i : Nat) (e : Fin 256) (ok : Bool)
  | thermosMovesComplete (i : Nat) (e : Fin 256) (ok : Bool)
  | pageRelease (i : Nat)
  | thermosExpiry (i : Nat)
  | thermosRelease (i : Nat)
  | ttftDeadlineExpiry (i : Nat)
  | srvCoreBeat (n : Fin 4)
  | cswSave (e : Fin 256) (slot : BitVec 2)
  | cswLoad (e : Fin 256) (slot : BitVec 2)
  | cswDone (e : Fin 256)
  | contextBlocked (ctx : Fin 64)
  | shareWindow
  | acctPeriod
  | staticModeEntry (v : Word)
  | evtRearm (v : Word)
  | take
  | release
  | clear
  | spadUe (e : Fin 256) (w : SpadWhere)
  | dataPoisonException (n : Fin 4) (w : PoisonRecord)
  | pwrCapWrite (v : Word)
  | pwrCapBmcWrite (v : Word)
  | emerg
  | smbSetOffset (b0 b1 : Byte)
  | smbRead
  | smbWrite (off : BitVec 12) (v : Word)
  | sensorReading (n : Fin 36) (temp : BitVec 10)
  | pwrGoodFall
  | railFault (r : Fin 38)
  | resetAssert
  | resetRelease
  | powerRemoval
  | fuseLoad (f : FuseSense)
  | fetch (f : FlashRead)
  | verify
  | config
  | wr32
  | wr64
  | poll32 (elapsed : Word)
  | delay (elapsed : Word)
  | released
  | pwrReset (v : Word)
  | warmReset
  | identityDerivation
  | mbxClaim (r : Requester) (v : Word)
  | mbxRelease (r : Requester)
  | mbxInputWord (r : Requester) (v : Dword)
  | mbxOutputRead (r : Requester)
  | getId
  | getChallenge
  | attest
  | enroll (progOk : Bool)
  | revoke (progOk : Bool)
  | setPartMode (progOk : Bool)
  | rollbackAdvance (progOk : Bool)
  | debugLock (progOk : Bool)
  | pkeyAdd
  | pkeyRemove
  | mgmtKey
  | image
  | powerUp
  | hamperTrackerStart
  | engAccDataRead (e : Fin 256) (r : Requester)
  | tideNowRead (r : Requester) (elapsed : BitVec 10)
  | pfcPauseExpiry (p : Fin 8) (prio : Fin 8)
deriving DecidableEq, Repr

end Sys2Proof
end

