-- ==== Sys2Proof/Decode.lean ====
section
/-! DEFINITION. The table of commands (spec/opcode_table.json) gives no row any bits: the commands are register
accesses, packets and events, not encoded words. No word spells a command. -/
namespace Sys2Proof

/-- The command that a word spells by the table's bits: none, since no row has bits. -/
def decodeTableWord (_nbits _w : Nat) : Option Instr := none

end Sys2Proof
end

