-- ==== Sys2Proof/Config.lean ====
section
/-! DEFINITION. What an implementation fixes and what the spec leaves open: every constant here is opaque, so that no
proof can see its value and a claim holds whatever it is. -/
namespace Sys2Proof.Config

/-- A fresh free value: number n of the run (the counter State.fresh names the next one), as a Nat that each use
reduces to the width it needs. -/
opaque free : Nat → Nat

/-- Content of a memory that a reset has lost: the reset (a number of the run), the engine, the byte address (Table 19-11,
R395 gives no content either; log 6). -/
opaque lost : Nat → Nat → Nat → Nat

/-- The choice an approximating unit makes within the error the spec allows it: operation code, then the operand bits;
the use reduces it to the allowed number of units in the last place (R133, R143, R161). -/
opaque approx : Nat → Nat → Nat

/-- The set of the core cache that a line falls in: channel and channel line index; reduced modulo 16,384 (32 MiB,
16 ways, 128-byte lines; the spec gives no set function). -/
opaque cacheSet : Nat → Nat → Nat

/-- What the model of a context gives its caches: streams, positions per page, layers, KV heads, head dimension, KV_FMT, and
whether the layout is a ring (0 no): by context and number of the item (chapter 15 leaves the model to the runtime). -/
opaque cacheModel : Nat → Nat → Nat

/-- SCORE_SCALE (item 0) and OUT_SCALE (item 1) of a layer's attention tasks in the model of a context, for a cache without scales, FP32
(chapter 15 leaves the model to the runtime). -/
opaque attnScale : Nat → Nat → Nat → BitVec 32

/-- Content of alignment and training codewords: byte by KIND and number; the initial credits that a port advertises, by port and
virtual lane (R280, R284 give none). -/
opaque pattern : Nat → Nat → BitVec 8
opaque credits : Nat → Nat → BitVec 16

/-- Stack pages of a context's pool before the firmware has taken any (R379). -/
opaque poolPages : Nat → Nat

/-- Calibration coefficient of count field i of an accounting record, which the fuse block holds in a layout that is not published
(R404). -/
opaque energyCoef : Nat → Nat

/-- What the device announces of its own clock as a PTP master, by field: priority1, quality, priority2, identity (R14, log 111). -/
opaque ptpClock : Nat → Nat

/-- How an Ethernet port sends PTP messages of its own: 0 for UDP/IPv4, 1 for UDP/IPv6, else IEEE 802.3; and whether its Sync takes two
steps (R14, log 111). -/
opaque ptpCarriage : Nat → Nat
opaque ptpTwoStep : Nat → Bool

/-- Leari's manufacturing fuses: fuse bit i of the ID, OPTIONS, CAL, TRIM, VENDOR_KEY and ID_SEED regions (R457). -/
opaque fuseFactory : Nat → Bool

end Sys2Proof.Config
end

