-- ==== Sys2Proof/Machine/RegMap.lean ====
section
/-! DEFINITION. The register map: the page of every block (R42, Table 3-2), the offset of every register, and for each
register word its access masks and reset value (R4, R44 and the register tables of the chapters). -/
namespace Sys2Proof.Machine.Reg

/-! ## Byte offsets in space 3; i is the block instance, n the index of an array of registers -/

/-- Base offset of the page of ENG (Table 3-2). -/
def engPage (i : Nat) : Nat := 0x1000 * i
/-- ENG_Qn_BASE (R78). -/
def engQBase (i : Nat) (n : Nat) : Nat := engPage i + 0x100 + 0x20 * n
/-- ENG_Qn_CFG (R78). -/
def engQCfg (i : Nat) (n : Nat) : Nat := engPage i + 0x108 + 0x20 * n
/-- ENG_Qn_TAIL (R78). -/
def engQTail (i : Nat) (n : Nat) : Nat := engPage i + 0x10C + 0x20 * n
/-- ENG_Qn_HEAD (R78). -/
def engQHead (i : Nat) (n : Nat) : Nat := engPage i + 0x110 + 0x20 * n
/-- ENG_Qn_DONE (R78). -/
def engQDone (i : Nat) (n : Nat) : Nat := engPage i + 0x114 + 0x20 * n
/-- ENG_Qn_STAT (R78). -/
def engQStat (i : Nat) (n : Nat) : Nat := engPage i + 0x118 + 0x20 * n
/-- ENG_Qn_NOTE (R78). -/
def engQNote (i : Nat) (n : Nat) : Nat := engPage i + 0x11C + 0x20 * n
/-- ENG_TCt (R78). -/
def engTc (i : Nat) (n : Nat) : Nat := engPage i + 0x200 + 0x4 * n
/-- ENG_TC_ERR (R78). -/
def engTcErr (i : Nat) : Nat := engPage i + 0x300
/-- ENG_TC_STUCK (R78). -/
def engTcStuck (i : Nat) : Nat := engPage i + 0x308
/-- ENG_TC_ADD (R78). -/
def engTcAdd (i : Nat) : Nat := engPage i + 0x310
/-- ENG_CCc (R78). -/
def engCc (i : Nat) (n : Nat) : Nat := engPage i + 0x400 + 0x4 * n
/-- ENG_CC_OVF (R78). -/
def engCcOvf (i : Nat) : Nat := engPage i + 0x480
/-- ENG_FLOGi (R78). -/
def engFlog (i : Nat) (n : Nat) : Nat := engPage i + 0x500 + 0x10 * n
/-- ENG_FLOG_WR (R78). -/
def engFlogWr (i : Nat) : Nat := engPage i + 0x600
/-- ENG_STALL_LIMIT (R78). -/
def engStallLimit (i : Nat) : Nat := engPage i + 0x608
/-- ENG_STALL_SNAP (R78). -/
def engStallSnap (i : Nat) : Nat := engPage i + 0x610
/-- ENG_SW_EVENT (R78). -/
def engSwEvent (i : Nat) : Nat := engPage i + 0x618
/-- ENG_CSW_CMD (R411). -/
def engCswCmd (i : Nat) : Nat := engPage i + 0x620
/-- ENG_CSW_STAT (R411). -/
def engCswStat (i : Nat) : Nat := engPage i + 0x624
/-- ENG_CSW_HDR (R411). -/
def engCswHdr (i : Nat) : Nat := engPage i + 0x628
/-- ENG_CSW_DATA (R411). -/
def engCswData (i : Nat) : Nat := engPage i + 0x630
/-- ENG_CSW_TCMASK (R411). -/
def engCswTcmask (i : Nat) : Nat := engPage i + 0x638
/-- ENG_CSW_CCMASK (R411). -/
def engCswCcmask (i : Nat) : Nat := engPage i + 0x640
/-- ENG_CSW_AWAYn (R411). -/
def engCswAway (i : Nat) (n : Nat) : Nat := engPage i + 0x648 + 0x8 * n
/-- ENG_TC_IMG0 (R411). -/
def engTcImg0 (i : Nat) : Nat := engPage i + 0x660
/-- ENG_TC_IMG1 (R411). -/
def engTcImg1 (i : Nat) : Nat := engPage i + 0x668
/-- ENG_CC_IMG (R411). -/
def engCcImg (i : Nat) : Nat := engPage i + 0x670
/-- ENG_SPAD_UE_CNT (R436). -/
def engSpadUeCnt (i : Nat) : Nat := engPage i + 0x678
/-- ENG_NUM_CTRL (R102). -/
def engNumCtrl (i : Nat) : Nat := engPage i + 0x700
/-- ENG_NUM_STICKY (R102). -/
def engNumSticky (i : Nat) : Nat := engPage i + 0x704
/-- ENG_NUM_EVT_SEL (R102). -/
def engNumEvtSel (i : Nat) : Nat := engPage i + 0x708
/-- ENG_MX_STAT (R127). -/
def engMxStat (i : Nat) : Nat := engPage i + 0x720
/-- ENG_TILE_BUSY (R127). -/
def engTileBusy (i : Nat) : Nat := engPage i + 0x728
/-- ENG_TILE_FLAGn (R127). -/
def engTileFlag (i : Nat) (n : Nat) : Nat := engPage i + 0x730 + 0x4 * n
/-- ENG_CONFLICT_LOG (R127). -/
def engConflictLog (i : Nat) : Nat := engPage i + 0x750
/-- ENG_ACC_SEL (R127). -/
def engAccSel (i : Nat) : Nat := engPage i + 0x760
/-- ENG_ACC_DATA (R127). -/
def engAccData (i : Nat) : Nat := engPage i + 0x764
/-- ENG_VX_STAT (R149). -/
def engVxStat (i : Nat) : Nat := engPage i + 0x780
/-- ENG_VX_CWORD (R149). -/
def engVxCword (i : Nat) : Nat := engPage i + 0x784
/-- ENG_VX_QSTAT_BASE (R149). -/
def engVxQstatBase (i : Nat) : Nat := engPage i + 0x788
/-- ENG_AT_STAT (R182). -/
def engAtStat (i : Nat) : Nat := engPage i + 0x7A0
/-- ENG_AT_FLOG (R182). -/
def engAtFlog (i : Nat) : Nat := engPage i + 0x7A8
/-- ENG_AT_FLOG_VA (R182). -/
def engAtFlogVa (i : Nat) : Nat := engPage i + 0x7B0
/-- ENG_KV_FLOG (R210). -/
def engKvFlog (i : Nat) : Nat := engPage i + 0x7C0
/-- ENG_KV_FLOG_VA (R210). -/
def engKvFlogVa (i : Nat) : Nat := engPage i + 0x7C8
/-- ENG_XL_INV (R274). -/
def engXlInv (i : Nat) : Nat := engPage i + 0x7D0
/-- ENG_XL_STAT (R274). -/
def engXlStat (i : Nat) : Nat := engPage i + 0x7D8
/-- ENG_XL_FAULT (R274). -/
def engXlFault (i : Nat) : Nat := engPage i + 0x7E0
/-- ENG_XL_FAULT_VA (R274). -/
def engXlFaultVa (i : Nat) : Nat := engPage i + 0x7E8
/-- ENG_MV_STAT (R274). -/
def engMvStat (i : Nat) : Nat := engPage i + 0x7F0

/-- Base offset of the page of CORE (Table 3-2). -/
def corePage (i : Nat) : Nat := 0x100000 + 0x1000 * i
/-- CORE_BGRP_ENGk (R50). -/
def coreBgrpEng (i : Nat) (n : Nat) : Nat := corePage i + 0x100 + 0x4 * n
/-- CORE_BGRP_CHk_m (R50), k = 9 + g. -/
def coreBgrpCh (i g m : Nat) : Nat := corePage i + 0x200 + 0x40 * g + 4 * m
/-- CORE_PAN_MODEi (R240). -/
def corePanMode (i : Nat) (n : Nat) : Nat := corePage i + 0x400 + 0x4 * n
/-- CORE_STK_TEMPd (R240, R222). -/
def coreStkTemp (i : Nat) (n : Nat) : Nat := corePage i + 0x420 + 0x4 * n
/-- CORE_STK_TLIM (R240). -/
def coreStkTlim (i : Nat) : Nat := corePage i + 0x460
/-- CORE_QUARi (R240). -/
def coreQuar (i : Nat) (n : Nat) : Nat := corePage i + 0x480 + 0x8 * n
/-- CORE_CTX_ROOTk (R275). -/
def coreCtxRoot (i : Nat) (n : Nat) : Nat := corePage i + 0x680 + 0x4 * n
/-- CORE_XL_INV (R275). -/
def coreXlInv (i : Nat) : Nat := corePage i + 0x780
/-- CORE_XL_STAT (R275). -/
def coreXlStat (i : Nat) : Nat := corePage i + 0x788
/-- CORE_WALK_CNT (R275). -/
def coreWalkCnt (i : Nat) : Nat := corePage i + 0x790

/-- Base offset of the page of CCH (Table 3-2). -/
def cchPage (i : Nat) : Nat := 0x108000 + 0x1000 * i
/-- CCH_CTRL (R241). -/
def cchCtrl (i : Nat) : Nat := cchPage i + 0x100
/-- CCH_STAT (R241). -/
def cchStat (i : Nat) : Nat := cchPage i + 0x104
/-- CCH_FLUSH (R241). -/
def cchFlush (i : Nat) : Nat := cchPage i + 0x108
/-- CCH_WC_TIMEOUT (R241). -/
def cchWcTimeout (i : Nat) : Nat := cchPage i + 0x10C
/-- CCH_HIT_CNT (R241). -/
def cchHitCnt (i : Nat) : Nat := cchPage i + 0x110
/-- CCH_MISS_CNT (R241). -/
def cchMissCnt (i : Nat) : Nat := cchPage i + 0x118
/-- CCH_WB_CNT (R241). -/
def cchWbCnt (i : Nat) : Nat := cchPage i + 0x120
/-- CCH_SRAM_CE_CNT (R241). -/
def cchSramCeCnt (i : Nat) : Nat := cchPage i + 0x128

/-- Base offset of the page of STK (Table 3-2). -/
def stkPage (i : Nat) : Nat := 0x1000000 + 0x1000 * i
/-- STK_CTRL (R239). -/
def stkCtrl (i : Nat) : Nat := stkPage i + 0x100
/-- STK_STAT (R239). -/
def stkStat (i : Nat) : Nat := stkPage i + 0x104
/-- STK_CE_CNT (R239). -/
def stkCeCnt (i : Nat) : Nat := stkPage i + 0x108
/-- STK_UE_CNT (R239). -/
def stkUeCnt (i : Nat) : Nat := stkPage i + 0x110
/-- STK_ERR_LOG (R239). -/
def stkErrLog (i : Nat) : Nat := stkPage i + 0x118
/-- STK_ERR_TICK (R239). -/
def stkErrTick (i : Nat) : Nat := stkPage i + 0x120
/-- STK_SCRUB_PERIOD (R239). -/
def stkScrubPeriod (i : Nat) : Nat := stkPage i + 0x128
/-- STK_NMA_FLAGS (R239). -/
def stkNmaFlags (i : Nat) : Nat := stkPage i + 0x12C
/-- STK_TG_CFG (R239). -/
def stkTgCfg (i : Nat) : Nat := stkPage i + 0x140
/-- STK_TG_PASSES (R239). -/
def stkTgPasses (i : Nat) : Nat := stkPage i + 0x144
/-- STK_TG_START (R239). -/
def stkTgStart (i : Nat) : Nat := stkPage i + 0x148
/-- STK_TG_END (R239). -/
def stkTgEnd (i : Nat) : Nat := stkPage i + 0x14C
/-- STK_TG_SEED (R239). -/
def stkTgSeed (i : Nat) : Nat := stkPage i + 0x150
/-- STK_TG_USER (R239). -/
def stkTgUser (i : Nat) : Nat := stkPage i + 0x158
/-- STK_TG_WR_CNT (R239). -/
def stkTgWrCnt (i : Nat) : Nat := stkPage i + 0x160
/-- STK_TG_RD_CNT (R239). -/
def stkTgRdCnt (i : Nat) : Nat := stkPage i + 0x168
/-- STK_TG_MISMATCH (R239). -/
def stkTgMismatch (i : Nat) : Nat := stkPage i + 0x170
/-- STK_TG_FAIL (R239). -/
def stkTgFail (i : Nat) : Nat := stkPage i + 0x178

/-- Base offset of the page of BRD (Table 3-2). -/
def brdPage (i : Nat) : Nat := 0x200000 + 0x1000 * i
/-- BRD_CFG (R276). -/
def brdCfg (i : Nat) : Nat := brdPage i + 0x100
/-- BRD_STAT (R276). -/
def brdStat (i : Nat) : Nat := brdPage i + 0x104
/-- BRD_CE_CNT (R276). -/
def brdCeCnt (i : Nat) : Nat := brdPage i + 0x108
/-- BRD_UE_CNT (R276). -/
def brdUeCnt (i : Nat) : Nat := brdPage i + 0x110
/-- BRD_ERR_LOG (R276). -/
def brdErrLog (i : Nat) : Nat := brdPage i + 0x118
/-- BRD_ERR_TICK (R276). -/
def brdErrTick (i : Nat) : Nat := brdPage i + 0x120

/-- Base offset of the page of BRD (Table 3-2). -/
def brdTierPage : Nat := 0x210000
/-- BRD_TIER_SIZE (R276). -/
def brdTierSize : Nat := brdTierPage + 0x100
/-- BRD_LATE_BOARD (R276). -/
def brdLateBoard : Nat := brdTierPage + 0x108
/-- BRD_LATE_HOST (R276). -/
def brdLateHost : Nat := brdTierPage + 0x10C
/-- BRD_LT_LOG (R276). -/
def brdLtLog : Nat := brdTierPage + 0x110
/-- BRD_LT_OFFSET (R276). -/
def brdLtOffset : Nat := brdTierPage + 0x118
/-- BRD_LT_TICK (R276). -/
def brdLtTick : Nat := brdTierPage + 0x120
/-- BRD_LATE_CNT (R276). -/
def brdLateCnt : Nat := brdTierPage + 0x128
/-- BRD_BRINE_IN (R276). -/
def brdBrineIn : Nat := brdTierPage + 0x130
/-- BRD_BRINE_OUT (R276). -/
def brdBrineOut : Nat := brdTierPage + 0x138
/-- BRD_BRINE_ERR (R276). -/
def brdBrineErr : Nat := brdTierPage + 0x140

/-- Base offset of the page of FAB (Table 3-2). -/
def fabPage (i : Nat) : Nat := 0x220000 + 0x1000 * i
/-- FAB_CFG (R305). -/
def fabCfg (i : Nat) : Nat := fabPage i + 0x100
/-- FAB_CTRL (R305). -/
def fabCtrl (i : Nat) : Nat := fabPage i + 0x104
/-- FAB_STAT (R305). -/
def fabStat (i : Nat) : Nat := fabPage i + 0x108
/-- FAB_PEER (R305). -/
def fabPeer (i : Nat) : Nat := fabPage i + 0x10C
/-- FAB_LANE_ERR_LIM (R305). -/
def fabLaneErrLim (i : Nat) : Nat := fabPage i + 0x110
/-- FAB_LANE_CE_LIM (R305). -/
def fabLaneCeLim (i : Nat) : Nat := fabPage i + 0x114
/-- FAB_LLR_TIMEOUT (R305). -/
def fabLlrTimeout (i : Nat) : Nat := fabPage i + 0x118
/-- FAB_RETRAIN_LIMIT (R305). -/
def fabRetrainLimit (i : Nat) : Nat := fabPage i + 0x11C
/-- FAB_RETRY (R305). -/
def fabRetry (i : Nat) : Nat := fabPage i + 0x120
/-- FAB_VL_WEIGHT (R305). -/
def fabVlWeight (i : Nat) : Nat := fabPage i + 0x124
/-- FAB_MAC (R305). -/
def fabMac (i : Nat) : Nat := fabPage i + 0x128
/-- FAB_VLAN (R305). -/
def fabVlan (i : Nat) : Nat := fabPage i + 0x130
/-- FAB_PFC_CFG (R305). -/
def fabPfcCfg (i : Nat) : Nat := fabPage i + 0x134
/-- FAB_PFC_XOFF (R305). -/
def fabPfcXoff (i : Nat) : Nat := fabPage i + 0x138
/-- FAB_PFC_XON (R305). -/
def fabPfcXon (i : Nat) : Nat := fabPage i + 0x13C
/-- FAB_PFC_STORM (R305). -/
def fabPfcStorm (i : Nat) : Nat := fabPage i + 0x140
/-- FAB_FEC_CE_CNT (R305). -/
def fabFecCeCnt (i : Nat) : Nat := fabPage i + 0x148
/-- FAB_FEC_UE_CNT (R305). -/
def fabFecUeCnt (i : Nat) : Nat := fabPage i + 0x150
/-- FAB_LLR_CNT (R305). -/
def fabLlrCnt (i : Nat) : Nat := fabPage i + 0x158

/-- Base offset of the page of XPT (Table 3-2). -/
def xptPage : Nat := 0x230000
/-- XPT_DEV (R341). -/
def xptDev : Nat := xptPage + 0x100
/-- XPT_MGMT_PKEY (R341, R489). -/
def xptMgmtPkey : Nat := xptPage + 0x104
/-- XPT_QPC_BASE (R341). -/
def xptQpcBase : Nat := xptPage + 0x108
/-- XPT_RGN_BASE (R341). -/
def xptRgnBase : Nat := xptPage + 0x110
/-- XPT_RGN_CFG (R341). -/
def xptRgnCfg : Nat := xptPage + 0x118
/-- XPT_CQ_BASE (R341). -/
def xptCqBase : Nat := xptPage + 0x120
/-- XPT_QP_CMD (R341). -/
def xptQpCmd : Nat := xptPage + 0x128
/-- XPT_QP_CMD_STAT (R341). -/
def xptQpCmdStat : Nat := xptPage + 0x12C
/-- XPT_RGN_CMD (R341). -/
def xptRgnCmd : Nat := xptPage + 0x130
/-- XPT_RGN_STAT (R341). -/
def xptRgnStat : Nat := xptPage + 0x134
/-- XPT_RGN_KEY (R341). -/
def xptRgnKey : Nat := xptPage + 0x138
/-- XPT_QRY_QPN (R341). -/
def xptQryQpn : Nat := xptPage + 0x140
/-- XPT_QRY0 (R341). -/
def xptQry0 : Nat := xptPage + 0x148
/-- XPT_QRY1 (R341). -/
def xptQry1 : Nat := xptPage + 0x150
/-- XPT_QRY2 (R341). -/
def xptQry2 : Nat := xptPage + 0x158
/-- XPT_CC_CFG (R341). -/
def xptCcCfg : Nat := xptPage + 0x160
/-- XPT_CC_MARK (R341). -/
def xptCcMark : Nat := xptPage + 0x164
/-- XPT_UDP_PORT (R341). -/
def xptUdpPort : Nat := xptPage + 0x168
/-- XPT_IP_CFG (R341). -/
def xptIpCfg : Nat := xptPage + 0x16C
/-- XPT_IP4_ADDRn (R341). -/
def xptIp4Addr (n : Nat) : Nat := xptPage + 0x180 + 0x4 * n
/-- XPT_PKEY_TABi (R341, R489). -/
def xptPkeyTab (n : Nat) : Nat := xptPage + 0x1A0 + 0x4 * n
/-- XPT_ERR_LOG (R341). -/
def xptErrLog : Nat := xptPage + 0x300
/-- XPT_ERR_TICK (R341). -/
def xptErrTick : Nat := xptPage + 0x308
/-- XPT_DROP_CNT (R341). -/
def xptDropCnt : Nat := xptPage + 0x310
/-- XPT_PKEY_CNT (R341). -/
def xptPkeyCnt : Nat := xptPage + 0x318
/-- XPT_DUP_CNT (R341). -/
def xptDupCnt : Nat := xptPage + 0x320
/-- XPT_STALE_CNT (R341). -/
def xptStaleCnt : Nat := xptPage + 0x328
/-- XPT_RETX_CNT (R341). -/
def xptRetxCnt : Nat := xptPage + 0x330
/-- XPT_RAKE_SERVED_CNT (R363). -/
def xptRakeServedCnt : Nat := xptPage + 0x338
/-- XPT_RAKE_RNR_CNT (R363). -/
def xptRakeRnrCnt : Nat := xptPage + 0x340
/-- XPT_RAKE_FAIL_CNT (R363). -/
def xptRakeFailCnt : Nat := xptPage + 0x348
/-- XPT_IP6_ADDRn (R341). -/
def xptIp6Addr (n : Nat) : Nat := xptPage + 0x380 + 0x10 * n
/-- XPT_CREWn_CTRL (R363). -/
def xptCrewCtrl (n : Nat) : Nat := xptPage + 0x400 + 0x40 * n
/-- XPT_CREWn_LAND (R363). -/
def xptCrewLand (n : Nat) : Nat := xptPage + 0x408 + 0x40 * n
/-- XPT_CREWn_SPAD (R363). -/
def xptCrewSpad (n : Nat) : Nat := xptPage + 0x410 + 0x40 * n
/-- XPT_CREWn_STAT (R363). -/
def xptCrewStat (n : Nat) : Nat := xptPage + 0x418 + 0x40 * n
/-- XPT_CREWn_KEY (R363). -/
def xptCrewKey (n : Nat) : Nat := xptPage + 0x41C + 0x40 * n
/-- XPT_CREWn_MEMBERS0 (R363). -/
def xptCrewMembers0 (n : Nat) : Nat := xptPage + 0x420 + 0x40 * n
/-- XPT_CREWn_MEMBERS1 (R363). -/
def xptCrewMembers1 (n : Nat) : Nat := xptPage + 0x428 + 0x40 * n
/-- XPT_CREWn_MEMBERS2 (R363). -/
def xptCrewMembers2 (n : Nat) : Nat := xptPage + 0x430 + 0x40 * n
/-- XPT_CREWn_MEMBERS3 (R363). -/
def xptCrewMembers3 (n : Nat) : Nat := xptPage + 0x438 + 0x40 * n

/-- Base offset of the page of GTX (Table 3-2). -/
def gtxPage : Nat := 0x231000
/-- GTX_STAT (R306). -/
def gtxStat : Nat := gtxPage + 0x100
/-- GTX_CTRL (R306). -/
def gtxCtrl : Nat := gtxPage + 0x104
/-- GTX_PEER_DEV (R306). -/
def gtxPeerDev : Nat := gtxPage + 0x108
/-- GTX_PEER_PKEY (R306). -/
def gtxPeerPkey : Nat := gtxPage + 0x10C
/-- GTX_HWIN_BASEn (R306). -/
def gtxHwinBase (n : Nat) : Nat := gtxPage + 0x200 + 0x10 * n
/-- GTX_HWIN_CTRLn (R306). -/
def gtxHwinCtrl (n : Nat) : Nat := gtxPage + 0x208 + 0x10 * n
/-- GTX_TS_DEV_BASE (R306). -/
def gtxTsDevBase : Nat := gtxPage + 0x600
/-- GTX_TS_HOST_BASE (R306). -/
def gtxTsHostBase : Nat := gtxPage + 0x608
/-- GTX_TS_HOST_PROD (R306). -/
def gtxTsHostProd : Nat := gtxPage + 0x610
/-- GTX_TS_CTRL (R306). -/
def gtxTsCtrl : Nat := gtxPage + 0x618
/-- GTX_TS_PROD (R306). -/
def gtxTsProd : Nat := gtxPage + 0x61C
/-- GTX_TS_CONS (R306). -/
def gtxTsCons : Nat := gtxPage + 0x620
/-- GTX_TS_FLUSH (R306). -/
def gtxTsFlush : Nat := gtxPage + 0x624
/-- GTX_TS_STALL (R306). -/
def gtxTsStall : Nat := gtxPage + 0x628
/-- GTX_LLR_CNT (R306). -/
def gtxLlrCnt : Nat := gtxPage + 0x630
/-- GTX_TS_DEV_PROD (R306). -/
def gtxTsDevProd : Nat := gtxPage + 0x640
/-- GTX_TS_DEV_CFG (R306). -/
def gtxTsDevCfg : Nat := gtxPage + 0x644

/-- Base offset of the page of TIDE (Table 3-2). -/
def tidePage : Nat := 0x232000
/-- TIDE_NOW (R34). -/
def tideNow : Nat := tidePage + 0x100
/-- TIDE_CTRL (R34). -/
def tideCtrl : Nat := tidePage + 0x108
/-- TIDE_STAT (R34). -/
def tideStat : Nat := tidePage + 0x10C
/-- TIDE_SET (R34). -/
def tideSet : Nat := tidePage + 0x110
/-- TIDE_COMMIT_AT (R34). -/
def tideCommitAt : Nat := tidePage + 0x118
/-- TIDE_COMMIT_GEN (R34). -/
def tideCommitGen : Nat := tidePage + 0x120
/-- TIDE_MIXED_LIMIT (R34). -/
def tideMixedLimit : Nat := tidePage + 0x124
/-- TIDE_MODE_STAT (R34). -/
def tideModeStat : Nat := tidePage + 0x128
/-- TIDE_MISS_SRC (R34). -/
def tideMissSrc : Nat := tidePage + 0x12C
/-- TIDE_OFFSET (R34). -/
def tideOffset : Nat := tidePage + 0x130
/-- TIDE_FREQ_ADJ (R34). -/
def tideFreqAdj : Nat := tidePage + 0x134
/-- TIDE_HOLDOVER_LIMIT (R34). -/
def tideHoldoverLimit : Nat := tidePage + 0x138
/-- TIDE_MASTER_ID (R34). -/
def tideMasterId : Nat := tidePage + 0x13C
/-- TIDE_MSG_PERIOD (R34). -/
def tideMsgPeriod : Nat := tidePage + 0x140
/-- TIDE_ASYM_FPn (R34). -/
def tideAsym (n : Nat) : Nat := tidePage + 0x150 + 0x4 * n
/-- TIDE_STEPn_BASE (R34). -/
def tideStepBase (n : Nat) : Nat := tidePage + 0x180 + 0x10 * n
/-- TIDE_STEPn_PERIOD (R34). -/
def tideStepPeriod (n : Nat) : Nat := tidePage + 0x188 + 0x10 * n
/-- TIDE_STEPn_CTRL (R34). -/
def tideStepCtrl (n : Nat) : Nat := tidePage + 0x18C + 0x10 * n
/-- TIDE_CNT_SNAP (R435). -/
def tideCntSnap : Nat := tidePage + 0x1C0
/-- TIDE_CNT_SNAP_TICK (R435). -/
def tideCntSnapTick : Nat := tidePage + 0x1C8
/-- TIDE_EVT_GRP (R435). -/
def tideEvtGrp : Nat := tidePage + 0x200
/-- TIDE_EVT_ARMED (R435). -/
def tideEvtArmed : Nat := tidePage + 0x204
/-- TIDE_EVT_REARM (R435). -/
def tideEvtRearm : Nat := tidePage + 0x208
/-- TIDE_EVT_VEC (R435). -/
def tideEvtVec : Nat := tidePage + 0x20C
/-- TIDE_EVT_ROUTEt (R435). -/
def tideEvtRoute (n : Nat) : Nat := tidePage + 0x210 + 0x4 * n
/-- TIDE_EVT_SUMg (R435). -/
def tideEvtSum (n : Nat) : Nat := tidePage + 0x280 + 0x4 * n

/-- Base offset of the page of SEC (Table 3-2). -/
def secPage : Nat := 0x233000
/-- SEC_BOOT_STAT (R477). -/
def secBootStat : Nat := secPage + 0x100
/-- SEC_BOOT_BUILD (R477). -/
def secBootBuild : Nat := secPage + 0x108
/-- SEC_BOOT_RECORD (R477). -/
def secBootRecord : Nat := secPage + 0x110
/-- SEC_BOOT_TICK (R477). -/
def secBootTick : Nat := secPage + 0x118
/-- SEC_MBX_CTRL (R492). -/
def secMbxCtrl : Nat := secPage + 0x200
/-- SEC_MBX_STAT (R492). -/
def secMbxStat : Nat := secPage + 0x204
/-- SEC_MBX_IN (R492). -/
def secMbxIn : Nat := secPage + 0x208
/-- SEC_MBX_IN_CNT (R492). -/
def secMbxInCnt : Nat := secPage + 0x210
/-- SEC_MBX_OUT (R492). -/
def secMbxOut : Nat := secPage + 0x218
/-- SEC_MBX_OUT_LEN (R492). -/
def secMbxOutLen : Nat := secPage + 0x220

/-- Base offset of the page of FUSE (Table 3-2). -/
def fusePage : Nat := 0x234000
/-- FUSE_STAT (R478). -/
def fuseStat : Nat := fusePage + 0x100
/-- FUSE_RD_ADDR (R478). -/
def fuseRdAddr : Nat := fusePage + 0x104
/-- FUSE_RD_DATA (R478). -/
def fuseRdData : Nat := fusePage + 0x108
/-- FUSE_PART_MODE (R478). -/
def fusePartMode : Nat := fusePage + 0x10C
/-- FUSE_ROLLBACK (R478). -/
def fuseRollback : Nat := fusePage + 0x110
/-- FUSE_OWNER (R478). -/
def fuseOwner : Nat := fusePage + 0x114
/-- FUSE_DEBUG_LOCK (R478). -/
def fuseDebugLock : Nat := fusePage + 0x118

/-- Base offset of the page of PWR (Table 3-2). -/
def pwrPage : Nat := 0x235000
/-- PWR_CAP (R454). -/
def pwrCap : Nat := pwrPage + 0x100
/-- PWR_CAP_BMC (R454). -/
def pwrCapBmc : Nat := pwrPage + 0x104
/-- PWR_CTRL (R454). -/
def pwrCtrl : Nat := pwrPage + 0x108
/-- PWR_STAT (R454). -/
def pwrStat : Nat := pwrPage + 0x10C
/-- PWR_POWER (R454). -/
def pwrPower : Nat := pwrPage + 0x110
/-- PWR_ENERGY (R454). -/
def pwrEnergy : Nat := pwrPage + 0x118
/-- PWR_RAILr (R454). -/
def pwrRail (n : Nat) : Nat := pwrPage + 0x120 + 0x8 * n
/-- PWR_TEMPs (R454). -/
def pwrTemp (n : Nat) : Nat := pwrPage + 0x260 + 0x4 * n
/-- PWR_TLIM (R454). -/
def pwrTlim : Nat := pwrPage + 0x2F0
/-- PWR_ACCT_BASE (R413). -/
def pwrAcctBase : Nat := pwrPage + 0x300
/-- PWR_ACCT_PERIOD (R413). -/
def pwrAcctPeriod : Nat := pwrPage + 0x308
/-- PWR_ACCT_CFG (R413). -/
def pwrAcctCfg : Nat := pwrPage + 0x30C
/-- PWR_ACCT_GEN (R413). -/
def pwrAcctGen : Nat := pwrPage + 0x310
/-- PWR_ACCT_SAT0 (R438). -/
def pwrAcctSat0 : Nat := pwrPage + 0x318
/-- PWR_ACCT_SAT1 (R438). -/
def pwrAcctSat1 : Nat := pwrPage + 0x320
/-- PWR_RESET (R479). -/
def pwrReset : Nat := pwrPage + 0x340
/-- PWR_RESET_STAT (R479). -/
def pwrResetStat : Nat := pwrPage + 0x344

/-- Base offset of the page of SRVC (Table 3-2). -/
def srvCorePage (i : Nat) : Nat := 0x238000 + 0x1000 * i
/-- SRV_CORE_BEAT (R392). -/
def srvCoreBeat (i : Nat) : Nat := srvCorePage i + 0x100

/-- Base offset of the page of SRV (Table 3-2). -/
def srvPage : Nat := 0x23C000
/-- SRV_CMD_BASE (R392). -/
def srvCmdBase : Nat := srvPage + 0x100
/-- SRV_CMD_CFG (R392). -/
def srvCmdCfg : Nat := srvPage + 0x108
/-- SRV_CMD_TAIL (R392). -/
def srvCmdTail : Nat := srvPage + 0x10C
/-- SRV_CMD_HEAD (R392). -/
def srvCmdHead : Nat := srvPage + 0x110
/-- SRV_CPL_BASE (R392). -/
def srvCplBase : Nat := srvPage + 0x118
/-- SRV_CPL_CFG (R392). -/
def srvCplCfg : Nat := srvPage + 0x120
/-- SRV_CPL_PROD (R392). -/
def srvCplProd : Nat := srvPage + 0x124
/-- SRV_CPL_CONS (R392). -/
def srvCplCons : Nat := srvPage + 0x128
/-- SRV_CPL_PROD_ADDR (R392). -/
def srvCplProdAddr : Nat := srvPage + 0x130
/-- SRV_HAMPER_BASE (R392). -/
def srvHamperBase : Nat := srvPage + 0x138
/-- SRV_HAMPER_CFG (R392). -/
def srvHamperCfg : Nat := srvPage + 0x140
/-- SRV_STEP_CFG (R392). -/
def srvStepCfg : Nat := srvPage + 0x144
/-- SRV_STEP_TOKENS (R392). -/
def srvStepTokens : Nat := srvPage + 0x148
/-- SRV_RESERVE (R392). -/
def srvReserve : Nat := srvPage + 0x14C
/-- SRV_STEP_NUM (R392). -/
def srvStepNum : Nat := srvPage + 0x150
/-- SRV_STAT (R392). -/
def srvStat : Nat := srvPage + 0x158
/-- SRV_LOAD (R392). -/
def srvLoad : Nat := srvPage + 0x15C
/-- SRV_BUDGET_BASE (R392). -/
def srvBudgetBase : Nat := srvPage + 0x160
/-- SRV_ADAPTER_BASE (R392). -/
def srvAdapterBase : Nat := srvPage + 0x168
/-- SRV_DRAFT_BASE (R392). -/
def srvDraftBase : Nat := srvPage + 0x170
/-- SRV_PREFIX_BASE (R392). -/
def srvPrefixBase : Nat := srvPage + 0x178
/-- SRV_PREFIX_CFG (R392). -/
def srvPrefixCfg : Nat := srvPage + 0x180
/-- SRV_CTX_SEL (R412). -/
def srvCtxSel : Nat := srvPage + 0x1D0
/-- SRV_CTX_WAIT_HINT (R412). -/
def srvCtxWaitHint : Nat := srvPage + 0x1DC
/-- SRV_CTX_BLOCK (R412). -/
def srvCtxBlock : Nat := srvPage + 0x210
/-- SRV_SHARE_WINDOW (R412). -/
def srvShareWindow : Nat := srvPage + 0x214
/-- SRV_RT_CFG (R412). -/
def srvRtCfg : Nat := srvPage + 0x218
/-- SRV_RT_STAT (R412). -/
def srvRtStat : Nat := srvPage + 0x21C
/-- SRV_ST_WCET (R412). -/
def srvStWcet : Nat := srvPage + 0x220
/-- SRV_ST_POWER (R412). -/
def srvStPower : Nat := srvPage + 0x224
/-- SRV_ST_POS_MAX (R412). -/
def srvStPosMax : Nat := srvPage + 0x228
/-- SRV_ST_PORTS (R412). -/
def srvStPorts : Nat := srvPage + 0x22C
/-- SRV_ST_OVR_LIMIT (R412). -/
def srvStOvrLimit : Nat := srvPage + 0x230
/-- SRV_DL_MARGIN (R412). -/
def srvDlMargin : Nat := srvPage + 0x234
/-- SRV_DL_HIST (R412). -/
def srvDlHist : Nat := srvPage + 0x238
/-- SRV_ADMIT_CNT (R392). -/
def srvAdmitCnt : Nat := srvPage + 0x1A0
/-- SRV_END_CNT (R392). -/
def srvEndCnt : Nat := srvPage + 0x1A8
/-- SRV_PREEMPT_CNT (R392). -/
def srvPreemptCnt : Nat := srvPage + 0x1B0
/-- SRV_DEFER_CNT (R392). -/
def srvDeferCnt : Nat := srvPage + 0x1B8
/-- SRV_SPEC_PROPOSED (R392). -/
def srvSpecProposed : Nat := srvPage + 0x1C0
/-- SRV_SPEC_ACCEPTED (R392). -/
def srvSpecAccepted : Nat := srvPage + 0x1C8
/-- SRV_SWITCH_CNT (R412). -/
def srvSwitchCnt : Nat := srvPage + 0x240
/-- SRV_ST_OVERRUN_CNT (R412). -/
def srvStOverrunCnt : Nat := srvPage + 0x248
/-- SRV_FB_ROWS_CNT (R412). -/
def srvFbRowsCnt : Nat := srvPage + 0x250
/-- SRV_WERR_CNT (R439). -/
def srvWerrCnt : Nat := srvPage + 0x258
/-- SRV_CTX_CFG (R412). -/
def srvCtxCfg : Nat := srvPage + 0x1D4
/-- SRV_CTX_STAT (R412). -/
def srvCtxStat : Nat := srvPage + 0x1D8
/-- SRV_CTX_ENGw (R412). -/
def srvCtxEng (n : Nat) : Nat := srvPage + 0x1E0 + 0x8 * n
/-- SRV_CTX_HDR (R412). -/
def srvCtxHdr : Nat := srvPage + 0x200
/-- SRV_CTX_DATA (R412). -/
def srvCtxData : Nat := srvPage + 0x208

/-! ## Access rows -/

/-- How a register word answers (R4): stored; with behaviour of its own on a write; derived on read; write-only;
a performance counter (R430); banked by SRV_CTX_SEL (R412). -/
inductive Kind where
  | plain | special | computed | wo | perf | banked
deriving DecidableEq, Repr

/-- One row of a register table: offset in the page, how many instances at which stride, width in words, masks of the
bits that are RW, W1C and SH, reset value, kind. -/
structure Row where
  off : Nat
  count : Nat
  stride : Nat
  words : Nat
  rw : Nat
  w1c : Nat
  sh : Nat
  reset : Nat
  kind : Kind
deriving DecidableEq, Repr

/-- The kinds of page (Table 3-2). -/
inductive Page where
  | eng
  | core
  | cch
  | stk
  | brd
  | brdTier
  | fab
  | xpt
  | gtx
  | tide
  | sec
  | fuse
  | pwr
  | srvCore
  | srv
deriving DecidableEq, Repr

/-- Rows of the ENG_ register tables. -/
def engRows0 : List Row :=
  [⟨0x100, 4, 0x20, 2, 0xFFFFFFFFFFFFFFC0, 0x0, 0x0, 0x0, .plain⟩,
   ⟨0x108, 4, 0x20, 1, 0x3F1F, 0x0, 0x0, 0x4, .special⟩,
   ⟨0x10C, 4, 0x20, 1, 0xFFFFFFFF, 0x0, 0x0, 0x0, .special⟩,
   ⟨0x110, 4, 0x20, 1, 0x0, 0x0, 0x0, 0x0, .plain⟩,
   ⟨0x114, 4, 0x20, 1, 0x0, 0x0, 0x0, 0x0, .plain⟩,
   ⟨0x118, 4, 0x20, 1, 0x0, 0x300, 0x0, 0x0, .special⟩,
   ⟨0x11C, 4, 0x20, 1, 0x0, 0x0, 0x0, 0x0, .plain⟩,
   ⟨0x200, 64, 0x4, 1, 0xFFFFFFFF, 0x0, 0x0, 0x0, .special⟩,
   ⟨0x300, 1, 0x0, 2, 0x0, 0xFFFFFFFFFFFFFFFF, 0x0, 0x0, .plain⟩,
   ⟨0x308, 1, 0x0, 2, 0x0, 0x0, 0x0, 0x0, .plain⟩,
   ⟨0x310, 1, 0x0, 1, 0x0, 0x0, 0x0, 0x0, .wo⟩,
   ⟨0x400, 32, 0x4, 1, 0xFFFFFFFF, 0x0, 0x0, 0xFFFF0000, .special⟩,
   ⟨0x480, 1, 0x0, 1, 0x0, 0xFFFFFFFF, 0x0, 0x0, .plain⟩,
   ⟨0x500, 16, 0x10, 4, 0x0, 0x0, 0x0, 0x0, .plain⟩,
   ⟨0x600, 1, 0x0, 1, 0x0, 0x0, 0x0, 0x0, .plain⟩,
   ⟨0x608, 1, 0x0, 1, 0xFFFFFFFF, 0x0, 0x0, 0x4000, .plain⟩,
   ⟨0x610, 1, 0x0, 1, 0x0, 0x0, 0x0, 0x0, .plain⟩,
   ⟨0x618, 1, 0x0, 1, 0x0, 0x0, 0x0, 0x0, .plain⟩,
   ⟨0x620, 1, 0x0, 1, 0x0, 0x0, 0x0, 0x0, .wo⟩,
   ⟨0x624, 1, 0x0, 1, 0x0, 0x0, 0x0, 0x0, .plain⟩,
   ⟨0x628, 1, 0x0, 2, 0xFFFFFFFFFFFFF000, 0x0, 0x0, 0x0, .plain⟩,
   ⟨0x630, 1, 0x0, 2, 0x7FFFFFFFFF001, 0x0, 0x0, 0x0, .plain⟩,
   ⟨0x638, 1, 0x0, 2, 0xFFFFFFFFFFFFFFFF, 0x0, 0x0, 0x0, .plain⟩,
   ⟨0x640, 1, 0x0, 1, 0xFFFFFFFF, 0x0, 0x0, 0x0, .plain⟩]

/-- Rows of the ENG_ register tables. -/
def engRows1 : List Row :=
  [⟨0x648, 3, 0x8, 2, 0x0, 0x0, 0x0, 0x0, .plain⟩,
   ⟨0x660, 1, 0x0, 2, 0x0, 0x0, 0x0, 0x0, .plain⟩,
   ⟨0x668, 1, 0x0, 2, 0x0, 0x0, 0x0, 0x0, .plain⟩,
   ⟨0x670, 1, 0x0, 2, 0x0, 0x0, 0x0, 0x0, .plain⟩,
   ⟨0x678, 1, 0x0, 2, 0x0, 0x0, 0x0, 0x0, .perf⟩,
   ⟨0x700, 1, 0x0, 1, 0x0, 0x0, 0x1, 0x0, .plain⟩,
   ⟨0x704, 1, 0x0, 1, 0x0, 0xFF, 0x0, 0x0, .plain⟩,
   ⟨0x708, 1, 0x0, 1, 0xFF, 0x0, 0x0, 0x0, .plain⟩,
   ⟨0x720, 1, 0x0, 1, 0x0, 0x0, 0x0, 0x0, .computed⟩,
   ⟨0x728, 1, 0x0, 1, 0x0, 0x0, 0x0, 0x0, .computed⟩,
   ⟨0x730, 8, 0x4, 1, 0x0, 0x0, 0x0, 0x0, .computed⟩,
   ⟨0x750, 1, 0x0, 1, 0x0, 0x0, 0x0, 0x0, .plain⟩,
   ⟨0x760, 1, 0x0, 1, 0x1FFFF, 0x0, 0x0, 0x0, .plain⟩,
   ⟨0x764, 1, 0x0, 1, 0x0, 0x0, 0x0, 0x0, .computed⟩,
   ⟨0x780, 1, 0x0, 1, 0x0, 0x0, 0x0, 0x0, .computed⟩,
   ⟨0x784, 1, 0x0, 1, 0x0, 0x0, 0x0, 0x0, .plain⟩,
   ⟨0x788, 1, 0x0, 2, 0xFFFFFFFFFFE0, 0x0, 0x0, 0x0, .plain⟩,
   ⟨0x7A0, 1, 0x0, 1, 0x0, 0x0, 0x0, 0x0, .computed⟩,
   ⟨0x7A8, 1, 0x0, 2, 0x0, 0x0, 0x0, 0x0, .plain⟩,
   ⟨0x7B0, 1, 0x0, 2, 0x0, 0x0, 0x0, 0x0, .plain⟩,
   ⟨0x7C0, 1, 0x0, 2, 0x0, 0x0, 0x0, 0x0, .plain⟩,
   ⟨0x7C8, 1, 0x0, 2, 0x0, 0x0, 0x0, 0x0, .plain⟩,
   ⟨0x7D0, 1, 0x0, 2, 0x0, 0x0, 0x0, 0x0, .wo⟩,
   ⟨0x7D8, 1, 0x0, 1, 0x0, 0x0, 0x0, 0x0, .computed⟩]

/-- Rows of the ENG_ register tables. -/
def engRows2 : List Row :=
  [⟨0x7E0, 1, 0x0, 2, 0x0, 0x0, 0x0, 0x0, .plain⟩,
   ⟨0x7E8, 1, 0x0, 2, 0x0, 0x0, 0x0, 0x0, .plain⟩,
   ⟨0x7F0, 1, 0x0, 1, 0x0, 0x0, 0x0, 0x0, .plain⟩]

def engRows : List Row := engRows0 ++ engRows1 ++ engRows2

/-- Rows of the CORE_ register tables. -/
def coreRows : List Row :=
  [⟨0x100, 7, 0x4, 1, 0xFFFFFFFF, 0x0, 0x0, 0x0, .plain⟩,
   ⟨0x200, 112, 0x4, 1, 0xFFFFFFFF, 0x0, 0x0, 0x0, .plain⟩,
   ⟨0x400, 6, 0x4, 1, 0xFFFFFFFF, 0x0, 0x0, 0x0, .plain⟩,
   ⟨0x420, 16, 0x4, 1, 0x0, 0x0, 0x0, 0x0, .plain⟩,
   ⟨0x460, 1, 0x0, 1, 0xFFFF, 0x0, 0x0, 0x6E69, .plain⟩,
   ⟨0x480, 64, 0x8, 2, 0x80001FFFFFFFF000, 0x0, 0x0, 0x0, .plain⟩,
   ⟨0x680, 64, 0x4, 1, 0xFFFFFFFF, 0x0, 0x0, 0x0, .plain⟩,
   ⟨0x780, 1, 0x0, 2, 0x0, 0x0, 0x0, 0x0, .wo⟩,
   ⟨0x788, 1, 0x0, 1, 0x0, 0x0, 0x0, 0x0, .computed⟩,
   ⟨0x790, 1, 0x0, 2, 0x0, 0x0, 0x0, 0x0, .perf⟩]

/-- Rows of the CCH_ register tables. -/
def cchRows : List Row :=
  [⟨0x100, 1, 0x0, 1, 0xF00, 0x0, 0x1, 0x800, .special⟩,
   ⟨0x104, 1, 0x0, 1, 0x0, 0x0, 0x0, 0x0, .computed⟩,
   ⟨0x108, 1, 0x0, 1, 0x0, 0x0, 0x0, 0x0, .wo⟩,
   ⟨0x10C, 1, 0x0, 1, 0xFFFFFFFF, 0x0, 0x0, 0x4, .plain⟩,
   ⟨0x110, 1, 0x0, 2, 0x0, 0x0, 0x0, 0x0, .perf⟩,
   ⟨0x118, 1, 0x0, 2, 0x0, 0x0, 0x0, 0x0, .perf⟩,
   ⟨0x120, 1, 0x0, 2, 0x0, 0x0, 0x0, 0x0, .perf⟩,
   ⟨0x128, 1, 0x0, 2, 0x0, 0x0, 0x0, 0x0, .perf⟩]

/-- Rows of the STK_ register tables. -/
def stkRows : List Row :=
  [⟨0x100, 1, 0x0, 1, 0x3, 0x0, 0x4, 0x2, .special⟩,
   ⟨0x104, 1, 0x0, 1, 0x0, 0x0, 0x0, 0xC, .plain⟩,
   ⟨0x108, 1, 0x0, 2, 0x0, 0x0, 0x0, 0x0, .perf⟩,
   ⟨0x110, 1, 0x0, 2, 0x0, 0x0, 0x0, 0x0, .perf⟩,
   ⟨0x118, 1, 0x0, 2, 0x0, 0x0, 0x0, 0x0, .plain⟩,
   ⟨0x120, 1, 0x0, 2, 0x0, 0x0, 0x0, 0x0, .plain⟩,
   ⟨0x128, 1, 0x0, 1, 0xFFFFFFFF, 0x0, 0x0, 0x800000, .special⟩,
   ⟨0x12C, 1, 0x0, 1, 0x0, 0xFF, 0x0, 0x0, .plain⟩,
   ⟨0x140, 1, 0x0, 1, 0x7F, 0x0, 0x0, 0x0, .plain⟩,
   ⟨0x144, 1, 0x0, 1, 0xFFFF, 0x0, 0x0, 0x0, .plain⟩,
   ⟨0x148, 1, 0x0, 1, 0x1FFFFF, 0x0, 0x0, 0x0, .plain⟩,
   ⟨0x14C, 1, 0x0, 1, 0x1FFFFF, 0x0, 0x0, 0x0, .plain⟩,
   ⟨0x150, 1, 0x0, 2, 0xFFFFFFFFFFFFFFFF, 0x0, 0x0, 0x0, .plain⟩,
   ⟨0x158, 1, 0x0, 2, 0xFFFFFFFFFFFFFFFF, 0x0, 0x0, 0x0, .plain⟩,
   ⟨0x160, 1, 0x0, 2, 0x0, 0x0, 0x0, 0x0, .perf⟩,
   ⟨0x168, 1, 0x0, 2, 0x0, 0x0, 0x0, 0x0, .perf⟩,
   ⟨0x170, 1, 0x0, 2, 0x0, 0x0, 0x0, 0x0, .perf⟩,
   ⟨0x178, 1, 0x0, 2, 0x0, 0x0, 0x0, 0x0, .plain⟩]

/-- Rows of the BRD_ register tables. -/
def brdRows : List Row :=
  [⟨0x100, 1, 0x0, 1, 0x33, 0x0, 0x0, 0x0, .plain⟩,
   ⟨0x104, 1, 0x0, 1, 0x0, 0x0, 0x0, 0x0, .computed⟩,
   ⟨0x108, 1, 0x0, 2, 0x0, 0x0, 0x0, 0x0, .perf⟩,
   ⟨0x110, 1, 0x0, 2, 0x0, 0x0, 0x0, 0x0, .perf⟩,
   ⟨0x118, 1, 0x0, 2, 0x0, 0x0, 0x0, 0x0, .plain⟩,
   ⟨0x120, 1, 0x0, 2, 0x0, 0x0, 0x0, 0x0, .plain⟩]

/-- Rows of the BRD_ register tables. -/
def brdTierRows : List Row :=
  [⟨0x100, 1, 0x0, 2, 0x0, 0x0, 0x0, 0x0, .computed⟩,
   ⟨0x108, 1, 0x0, 1, 0xFFFF, 0x0, 0x0, 0x10, .special⟩,
   ⟨0x10C, 1, 0x0, 1, 0xFFFF, 0x0, 0x0, 0x400, .special⟩,
   ⟨0x110, 1, 0x0, 1, 0x0, 0x0, 0x0, 0x0, .plain⟩,
   ⟨0x118, 1, 0x0, 2, 0x0, 0x0, 0x0, 0x0, .plain⟩,
   ⟨0x120, 1, 0x0, 2, 0x0, 0x0, 0x0, 0x0, .plain⟩,
   ⟨0x128, 1, 0x0, 2, 0x0, 0x0, 0x0, 0x0, .perf⟩,
   ⟨0x130, 1, 0x0, 2, 0x0, 0x0, 0x0, 0x0, .perf⟩,
   ⟨0x138, 1, 0x0, 2, 0x0, 0x0, 0x0, 0x0, .perf⟩,
   ⟨0x140, 1, 0x0, 2, 0x0, 0x0, 0x0, 0x0, .perf⟩]

/-- Rows of the FAB_ register tables. -/
def fabRows : List Row :=
  [⟨0x100, 1, 0x0, 1, 0x1F, 0x0, 0x0, 0x0, .plain⟩,
   ⟨0x104, 1, 0x0, 1, 0x0, 0x0, 0x0, 0x0, .wo⟩,
   ⟨0x108, 1, 0x0, 1, 0x0, 0x0, 0x0, 0x0, .plain⟩,
   ⟨0x10C, 1, 0x0, 1, 0x0, 0x0, 0x0, 0x0, .plain⟩,
   ⟨0x110, 1, 0x0, 1, 0xFFFFFFFF, 0x0, 0x0, 0xA7C6, .plain⟩,
   ⟨0x114, 1, 0x0, 1, 0xFFFFFFFF, 0x0, 0x0, 0x800, .plain⟩,
   ⟨0x118, 1, 0x0, 1, 0xFF, 0x0, 0x0, 0x4, .plain⟩,
   ⟨0x11C, 1, 0x0, 1, 0xFFFF, 0x0, 0x0, 0x400, .plain⟩,
   ⟨0x120, 1, 0x0, 1, 0xFFFFFFFF, 0x0, 0x0, 0x100000, .plain⟩,
   ⟨0x124, 1, 0x0, 1, 0xFFFFFFFF, 0x0, 0x0, 0x11111111, .plain⟩,
   ⟨0x128, 1, 0x0, 2, 0xFFFFFFFFFFFF, 0x0, 0x0, 0x0, .plain⟩,
   ⟨0x130, 1, 0x0, 1, 0x7FFF, 0x0, 0x0, 0x0, .plain⟩,
   ⟨0x134, 1, 0x0, 1, 0x1FF, 0x0, 0x0, 0x0, .plain⟩,
   ⟨0x138, 1, 0x0, 1, 0xFFFFFFFF, 0x0, 0x0, 0xA00, .plain⟩,
   ⟨0x13C, 1, 0x0, 1, 0xFFFFFFFF, 0x0, 0x0, 0x800, .plain⟩,
   ⟨0x140, 1, 0x0, 1, 0xFFFFFFFF, 0x0, 0x0, 0x10000, .plain⟩,
   ⟨0x148, 1, 0x0, 2, 0x0, 0x0, 0x0, 0x0, .perf⟩,
   ⟨0x150, 1, 0x0, 2, 0x0, 0x0, 0x0, 0x0, .perf⟩,
   ⟨0x158, 1, 0x0, 2, 0x0, 0x0, 0x0, 0x0, .perf⟩]

/-- Rows of the XPT_ register tables. -/
def xptRows0 : List Row :=
  [⟨0x100, 1, 0x0, 1, 0x3FF, 0x0, 0x0, 0x0, .special⟩,
   ⟨0x104, 1, 0x0, 1, 0x0, 0x0, 0x0, 0x0, .plain⟩,
   ⟨0x108, 1, 0x0, 2, 0xFFFFFFFFF001, 0x0, 0x0, 0x0, .plain⟩,
   ⟨0x110, 1, 0x0, 2, 0xFFFFFFFFF001, 0x0, 0x0, 0x0, .plain⟩,
   ⟨0x118, 1, 0x0, 1, 0x1F, 0x0, 0x0, 0x0, .plain⟩,
   ⟨0x120, 1, 0x0, 2, 0xFFFFFFFFF001, 0x0, 0x0, 0x0, .plain⟩,
   ⟨0x128, 1, 0x0, 1, 0x0, 0x0, 0x0, 0x0, .wo⟩,
   ⟨0x12C, 1, 0x0, 1, 0x0, 0x0, 0x0, 0x0, .plain⟩,
   ⟨0x130, 1, 0x0, 1, 0x0, 0x0, 0x0, 0x0, .wo⟩,
   ⟨0x134, 1, 0x0, 1, 0x0, 0x0, 0x0, 0x0, .plain⟩,
   ⟨0x138, 1, 0x0, 1, 0x0, 0x0, 0x0, 0x0, .plain⟩,
   ⟨0x140, 1, 0x0, 1, 0xFFFF, 0x0, 0x0, 0x0, .plain⟩,
   ⟨0x148, 1, 0x0, 2, 0x0, 0x0, 0x0, 0x0, .computed⟩,
   ⟨0x150, 1, 0x0, 2, 0x0, 0x0, 0x0, 0x0, .computed⟩,
   ⟨0x158, 1, 0x0, 2, 0x0, 0x0, 0x0, 0x0, .computed⟩,
   ⟨0x160, 1, 0x0, 1, 0xFFFF1FFF, 0x0, 0x0, 0x10400010, .plain⟩,
   ⟨0x164, 1, 0x0, 1, 0xFFFFFFFF, 0x0, 0x0, 0x100, .plain⟩,
   ⟨0x168, 1, 0x0, 1, 0xFFFF, 0x0, 0x0, 0x4D8A, .plain⟩,
   ⟨0x16C, 1, 0x0, 1, 0xFFFFF, 0x0, 0x0, 0x40, .plain⟩,
   ⟨0x180, 8, 0x4, 1, 0xFFFFFFFF, 0x0, 0x0, 0x0, .plain⟩,
   ⟨0x1A0, 64, 0x4, 1, 0x0, 0x0, 0x0, 0x0, .plain⟩,
   ⟨0x300, 1, 0x0, 2, 0x0, 0x0, 0x0, 0x0, .plain⟩,
   ⟨0x308, 1, 0x0, 2, 0x0, 0x0, 0x0, 0x0, .plain⟩,
   ⟨0x310, 1, 0x0, 2, 0x0, 0x0, 0x0, 0x0, .perf⟩]

/-- Rows of the XPT_ register tables. -/
def xptRows1 : List Row :=
  [⟨0x318, 1, 0x0, 2, 0x0, 0x0, 0x0, 0x0, .perf⟩,
   ⟨0x320, 1, 0x0, 2, 0x0, 0x0, 0x0, 0x0, .perf⟩,
   ⟨0x328, 1, 0x0, 2, 0x0, 0x0, 0x0, 0x0, .perf⟩,
   ⟨0x330, 1, 0x0, 2, 0x0, 0x0, 0x0, 0x0, .perf⟩,
   ⟨0x338, 1, 0x0, 2, 0x0, 0x0, 0x0, 0x0, .perf⟩,
   ⟨0x340, 1, 0x0, 2, 0x0, 0x0, 0x0, 0x0, .perf⟩,
   ⟨0x348, 1, 0x0, 2, 0x0, 0x0, 0x0, 0x0, .perf⟩,
   ⟨0x380, 8, 0x10, 4, 0xFFFFFFFFFFFFFFFFFFFFFFFFFFFFFFFF, 0x0, 0x0, 0x0, .plain⟩,
   ⟨0x400, 16, 0x40, 1, 0x3FFFF, 0x0, 0x0, 0x0, .special⟩,
   ⟨0x408, 16, 0x40, 2, 0xFFFFFFFF0000, 0x0, 0x0, 0x0, .plain⟩,
   ⟨0x410, 16, 0x40, 2, 0xFFFFFFFFFFFF, 0x0, 0x0, 0x0, .plain⟩,
   ⟨0x418, 16, 0x40, 1, 0x0, 0x0, 0x0, 0x0, .plain⟩,
   ⟨0x41C, 16, 0x40, 1, 0xFFFF, 0x0, 0x0, 0x0, .plain⟩,
   ⟨0x420, 16, 0x40, 2, 0xFFFFFFFFFFFFFFFF, 0x0, 0x0, 0x0, .plain⟩,
   ⟨0x428, 16, 0x40, 2, 0xFFFFFFFFFFFFFFFF, 0x0, 0x0, 0x0, .plain⟩,
   ⟨0x430, 16, 0x40, 2, 0xFFFFFFFFFFFFFFFF, 0x0, 0x0, 0x0, .plain⟩,
   ⟨0x438, 16, 0x40, 2, 0xFFFFFFFFFFFFFFFF, 0x0, 0x0, 0x0, .plain⟩]

def xptRows : List Row := xptRows0 ++ xptRows1

/-- Rows of the GTX_ register tables. -/
def gtxRows : List Row :=
  [⟨0x100, 1, 0x0, 1, 0x0, 0x0, 0x0, 0x0, .plain⟩,
   ⟨0x104, 1, 0x0, 1, 0x0, 0x0, 0x0, 0x0, .wo⟩,
   ⟨0x108, 1, 0x0, 1, 0x3FF, 0x0, 0x0, 0x0, .plain⟩,
   ⟨0x10C, 1, 0x0, 1, 0xFFFF, 0x0, 0x0, 0x0, .plain⟩,
   ⟨0x200, 64, 0x10, 2, 0xFFFFFFFFFFFFF000, 0x0, 0x0, 0x0, .plain⟩,
   ⟨0x208, 64, 0x10, 2, 0xFFFFFFF00F, 0x0, 0x0, 0x0, .plain⟩,
   ⟨0x600, 1, 0x0, 2, 0xFFFFFFFFFFFFFFF0, 0x0, 0x0, 0x0, .plain⟩,
   ⟨0x608, 1, 0x0, 2, 0xFFFFFFFFFFFFFFF0, 0x0, 0x0, 0x0, .plain⟩,
   ⟨0x610, 1, 0x0, 2, 0xFFFFFFFFFFFFFFFC, 0x0, 0x0, 0x0, .plain⟩,
   ⟨0x618, 1, 0x0, 1, 0x1F, 0x0, 0x0, 0x0, .special⟩,
   ⟨0x61C, 1, 0x0, 1, 0x0, 0x0, 0x0, 0x0, .plain⟩,
   ⟨0x620, 1, 0x0, 1, 0xFFFFFFFF, 0x0, 0x0, 0x0, .special⟩,
   ⟨0x624, 1, 0x0, 1, 0xFFFFFFFF, 0x0, 0x0, 0x1, .plain⟩,
   ⟨0x628, 1, 0x0, 1, 0xFFFFFFFF, 0x0, 0x0, 0x400, .plain⟩,
   ⟨0x630, 1, 0x0, 2, 0x0, 0x0, 0x0, 0x0, .perf⟩,
   ⟨0x640, 1, 0x0, 1, 0xFFFFFFFF, 0x0, 0x0, 0x0, .special⟩,
   ⟨0x644, 1, 0x0, 1, 0x1F, 0x0, 0x0, 0x4, .special⟩]

/-- Rows of the TIDE_ register tables. -/
def tideRows0 : List Row :=
  [⟨0x100, 1, 0x0, 2, 0x0, 0x0, 0x0, 0x0, .computed⟩,
   ⟨0x108, 1, 0x0, 1, 0xFFFF0003, 0x0, 0x0, 0x0, .special⟩,
   ⟨0x10C, 1, 0x0, 1, 0x0, 0x0, 0x0, 0xF00, .plain⟩,
   ⟨0x110, 1, 0x0, 2, 0xFFFFFFFFFFFFFFFF, 0x0, 0x0, 0x0, .plain⟩,
   ⟨0x118, 1, 0x0, 2, 0xFFFFFFFFFFFFFFFF, 0x0, 0x0, 0x0, .plain⟩,
   ⟨0x120, 1, 0x0, 1, 0x0, 0x0, 0x0, 0x0, .plain⟩,
   ⟨0x124, 1, 0x0, 1, 0xFFFFFFFF, 0x0, 0x0, 0x400, .plain⟩,
   ⟨0x128, 1, 0x0, 1, 0x0, 0x0, 0x0, 0x0, .computed⟩,
   ⟨0x12C, 1, 0x0, 1, 0x0, 0x0, 0x0, 0xFFFF, .computed⟩,
   ⟨0x130, 1, 0x0, 1, 0x0, 0x0, 0x0, 0x0, .plain⟩,
   ⟨0x134, 1, 0x0, 1, 0x0, 0x0, 0x0, 0x0, .plain⟩,
   ⟨0x138, 1, 0x0, 1, 0xFFFFFFFF, 0x0, 0x0, 0x100000, .plain⟩,
   ⟨0x13C, 1, 0x0, 1, 0x0, 0x0, 0x0, 0x0, .plain⟩,
   ⟨0x140, 1, 0x0, 1, 0xFFFFFFFF, 0x0, 0x0, 0x40, .special⟩,
   ⟨0x150, 8, 0x4, 1, 0xFFFFFFFF, 0x0, 0x0, 0x0, .plain⟩,
   ⟨0x180, 4, 0x10, 2, 0xFFFFFFFFFFFFFFFF, 0x0, 0x0, 0x0, .plain⟩,
   ⟨0x188, 4, 0x10, 1, 0xFFFFFFFF, 0x0, 0x0, 0x1, .special⟩,
   ⟨0x18C, 4, 0x10, 1, 0xFFF, 0x0, 0x0, 0x0, .special⟩,
   ⟨0x1C0, 1, 0x0, 1, 0x0, 0x0, 0x0, 0x0, .special⟩,
   ⟨0x1C8, 1, 0x0, 2, 0x0, 0x0, 0x0, 0x0, .plain⟩,
   ⟨0x200, 1, 0x0, 1, 0x0, 0x0, 0x0, 0x0, .plain⟩,
   ⟨0x204, 1, 0x0, 1, 0x0, 0x0, 0x0, 0x1FFFFFF, .plain⟩,
   ⟨0x208, 1, 0x0, 1, 0x0, 0x0, 0x0, 0x0, .wo⟩,
   ⟨0x20C, 1, 0x0, 1, 0x7FF, 0x0, 0x0, 0x0, .special⟩]

/-- Rows of the TIDE_ register tables. -/
def tideRows1 : List Row :=
  [⟨0x210, 5, 0x4, 1, 0xFFFFFFFF, 0x0, 0x0, 0x0, .plain⟩,
   ⟨0x280, 25, 0x4, 1, 0x0, 0x0, 0x0, 0x0, .plain⟩]

def tideRows : List Row := tideRows0 ++ tideRows1

/-- Rows of the SEC_ register tables. -/
def secRows : List Row :=
  [⟨0x100, 1, 0x0, 1, 0x0, 0x0, 0x0, 0x1000, .plain⟩,
   ⟨0x108, 1, 0x0, 2, 0x0, 0x0, 0x0, 0x0, .plain⟩,
   ⟨0x110, 1, 0x0, 1, 0x0, 0x0, 0x0, 0x0, .plain⟩,
   ⟨0x118, 1, 0x0, 2, 0x0, 0x0, 0x0, 0x0, .plain⟩,
   ⟨0x200, 1, 0x0, 1, 0x0, 0x0, 0x0, 0x0, .wo⟩,
   ⟨0x204, 1, 0x0, 1, 0x0, 0x0, 0x0, 0x0, .plain⟩,
   ⟨0x208, 1, 0x0, 2, 0x0, 0x0, 0x0, 0x0, .wo⟩,
   ⟨0x210, 1, 0x0, 1, 0x0, 0x0, 0x0, 0x0, .computed⟩,
   ⟨0x218, 1, 0x0, 2, 0x0, 0x0, 0x0, 0x0, .computed⟩,
   ⟨0x220, 1, 0x0, 1, 0x0, 0x0, 0x0, 0x0, .computed⟩]

/-- Rows of the FUSE_ register tables. -/
def fuseRows : List Row :=
  [⟨0x100, 1, 0x0, 1, 0x0, 0x0, 0x0, 0x0, .plain⟩,
   ⟨0x104, 1, 0x0, 1, 0xFF, 0x0, 0x0, 0x0, .plain⟩,
   ⟨0x108, 1, 0x0, 1, 0x0, 0x0, 0x0, 0x0, .computed⟩,
   ⟨0x10C, 1, 0x0, 1, 0x0, 0x0, 0x0, 0x0, .computed⟩,
   ⟨0x110, 1, 0x0, 1, 0x0, 0x0, 0x0, 0x0, .computed⟩,
   ⟨0x114, 1, 0x0, 1, 0x0, 0x0, 0x0, 0x0, .computed⟩,
   ⟨0x118, 1, 0x0, 1, 0x0, 0x0, 0x0, 0x0, .computed⟩]

/-- Rows of the PWR_ register tables. -/
def pwrRows : List Row :=
  [⟨0x100, 1, 0x0, 1, 0x7FF, 0x0, 0x0, 0x5DC, .plain⟩,
   ⟨0x104, 1, 0x0, 1, 0x7FF, 0x0, 0x0, 0x5DC, .special⟩,
   ⟨0x108, 1, 0x0, 1, 0xF7FFFF01, 0x0, 0x0, 0x22008400, .plain⟩,
   ⟨0x10C, 1, 0x0, 1, 0x0, 0x0, 0x0, 0x40, .plain⟩,
   ⟨0x110, 1, 0x0, 1, 0x0, 0x0, 0x0, 0x0, .plain⟩,
   ⟨0x118, 1, 0x0, 2, 0x0, 0x0, 0x0, 0x0, .plain⟩,
   ⟨0x120, 38, 0x8, 2, 0x0, 0x0, 0x0, 0x0, .plain⟩,
   ⟨0x260, 36, 0x4, 1, 0x0, 0x0, 0x0, 0x0, .plain⟩,
   ⟨0x2F0, 1, 0x0, 1, 0xFFFF, 0x0, 0x0, 0x6E64, .plain⟩,
   ⟨0x300, 1, 0x0, 2, 0xFFFFFFFFFFFFFF80, 0x0, 0x0, 0x0, .plain⟩,
   ⟨0x308, 1, 0x0, 1, 0xFFFFFFFF, 0x0, 0x0, 0x400, .plain⟩,
   ⟨0x30C, 1, 0x0, 1, 0x8000FFFF, 0x0, 0x0, 0x180, .plain⟩,
   ⟨0x310, 1, 0x0, 2, 0x0, 0x0, 0x0, 0x0, .plain⟩,
   ⟨0x318, 1, 0x0, 2, 0x0, 0xFFFFFFFFFFFFFFFF, 0x0, 0x0, .plain⟩,
   ⟨0x320, 1, 0x0, 1, 0x0, 0x1, 0x0, 0x0, .plain⟩,
   ⟨0x340, 1, 0x0, 1, 0x0, 0x0, 0x0, 0x0, .wo⟩,
   ⟨0x344, 1, 0x0, 1, 0x0, 0x0, 0x0, 0x0, .plain⟩]

/-- Rows of the SRVC_ register tables. -/
def srvCoreRows : List Row :=
  [⟨0x100, 1, 0x0, 1, 0x0, 0x0, 0x0, 0x0, .plain⟩]

/-- Rows of the SRV_ register tables. -/
def srvRows0 : List Row :=
  [⟨0x100, 1, 0x0, 2, 0xFFFFFFFFFFFFFFC0, 0x0, 0x0, 0x0, .plain⟩,
   ⟨0x108, 1, 0x0, 1, 0x1F, 0x0, 0x0, 0x0, .plain⟩,
   ⟨0x10C, 1, 0x0, 1, 0xFFFFFFFF, 0x0, 0x0, 0x0, .plain⟩,
   ⟨0x110, 1, 0x0, 1, 0x0, 0x0, 0x0, 0x0, .plain⟩,
   ⟨0x118, 1, 0x0, 2, 0xFFFFFFFFFFFFFFE0, 0x0, 0x0, 0x0, .plain⟩,
   ⟨0x120, 1, 0x0, 1, 0x1F, 0x0, 0x0, 0x0, .plain⟩,
   ⟨0x124, 1, 0x0, 1, 0x0, 0x0, 0x0, 0x0, .plain⟩,
   ⟨0x128, 1, 0x0, 1, 0xFFFFFFFF, 0x0, 0x0, 0x0, .plain⟩,
   ⟨0x130, 1, 0x0, 2, 0xFFFFFFFFFFFFFFFC, 0x0, 0x0, 0x0, .plain⟩,
   ⟨0x138, 1, 0x0, 2, 0xFFFFFFFFFFFFF000, 0x0, 0x0, 0x0, .plain⟩,
   ⟨0x140, 1, 0x0, 1, 0x1F, 0x0, 0x0, 0x0, .plain⟩,
   ⟨0x144, 1, 0x0, 1, 0xFFFF1FFF, 0x0, 0x0, 0x22001000, .plain⟩,
   ⟨0x148, 1, 0x0, 1, 0xFFFFFFFF, 0x0, 0x0, 0x2000, .plain⟩,
   ⟨0x14C, 1, 0x0, 1, 0xFFFFFF, 0x0, 0x0, 0x40, .plain⟩,
   ⟨0x150, 1, 0x0, 2, 0x0, 0x0, 0x0, 0x0, .plain⟩,
   ⟨0x158, 1, 0x0, 1, 0x0, 0x0, 0x0, 0x0, .plain⟩,
   ⟨0x15C, 1, 0x0, 1, 0x0, 0x0, 0x0, 0x0, .plain⟩,
   ⟨0x160, 1, 0x0, 2, 0xFFFFFFFFFFFFFFFF, 0x0, 0x0, 0x0, .plain⟩,
   ⟨0x168, 1, 0x0, 2, 0xFFFFFFFFFFFFFFFF, 0x0, 0x0, 0x0, .plain⟩,
   ⟨0x170, 1, 0x0, 2, 0xFFFFFFFFFFFFFFFF, 0x0, 0x0, 0x0, .plain⟩,
   ⟨0x178, 1, 0x0, 2, 0xFFFFFFFFFFFFFFFF, 0x0, 0x0, 0x0, .plain⟩,
   ⟨0x180, 1, 0x0, 1, 0x1F, 0x0, 0x0, 0x0, .plain⟩,
   ⟨0x1D0, 1, 0x0, 1, 0x3F, 0x0, 0x0, 0x0, .plain⟩]

/-- Rows of the SRV_ register tables. -/
def srvRows1 : List Row :=
  [⟨0x210, 1, 0x0, 1, 0xFFFFFFFF, 0x0, 0x0, 0x40, .plain⟩,
   ⟨0x214, 1, 0x0, 1, 0xFFFFFFFF, 0x0, 0x0, 0x10000, .plain⟩,
   ⟨0x218, 1, 0x0, 1, 0x3, 0x0, 0x0, 0x0, .plain⟩,
   ⟨0x21C, 1, 0x0, 1, 0x0, 0x0, 0x0, 0x0, .plain⟩,
   ⟨0x220, 1, 0x0, 1, 0xFFFFFFFF, 0x0, 0x0, 0x0, .plain⟩,
   ⟨0x224, 1, 0x0, 1, 0xFFFFFFFF, 0x0, 0x0, 0x0, .plain⟩,
   ⟨0x228, 1, 0x0, 1, 0xFFFFFF, 0x0, 0x0, 0x0, .plain⟩,
   ⟨0x22C, 1, 0x0, 1, 0xFF, 0x0, 0x0, 0x0, .plain⟩,
   ⟨0x230, 1, 0x0, 1, 0xFFFFFFFF, 0x0, 0x0, 0x8, .plain⟩,
   ⟨0x234, 1, 0x0, 1, 0xFFFFFFFF, 0x0, 0x0, 0x8, .plain⟩,
   ⟨0x238, 1, 0x0, 1, 0xFFFFFFFF, 0x0, 0x0, 0x4, .plain⟩,
   ⟨0x1A0, 1, 0x0, 2, 0x0, 0x0, 0x0, 0x0, .perf⟩,
   ⟨0x1A8, 1, 0x0, 2, 0x0, 0x0, 0x0, 0x0, .perf⟩,
   ⟨0x1B0, 1, 0x0, 2, 0x0, 0x0, 0x0, 0x0, .perf⟩,
   ⟨0x1B8, 1, 0x0, 2, 0x0, 0x0, 0x0, 0x0, .perf⟩,
   ⟨0x1C0, 1, 0x0, 2, 0x0, 0x0, 0x0, 0x0, .perf⟩,
   ⟨0x1C8, 1, 0x0, 2, 0x0, 0x0, 0x0, 0x0, .perf⟩,
   ⟨0x240, 1, 0x0, 2, 0x0, 0x0, 0x0, 0x0, .perf⟩,
   ⟨0x248, 1, 0x0, 2, 0x0, 0x0, 0x0, 0x0, .perf⟩,
   ⟨0x250, 1, 0x0, 2, 0x0, 0x0, 0x0, 0x0, .perf⟩,
   ⟨0x258, 1, 0x0, 2, 0x0, 0x0, 0x0, 0x0, .perf⟩,
   ⟨0x1D4, 1, 0x0, 1, 0x0, 0x0, 0x0, 0x1, .banked⟩,
   ⟨0x1D8, 1, 0x0, 1, 0x0, 0x0, 0x0, 0x0, .banked⟩,
   ⟨0x1DC, 1, 0x0, 1, 0x0, 0x0, 0x0, 0x400, .banked⟩,
   ⟨0x1E0, 4, 0x8, 2, 0x0, 0x0, 0x0, 0x0, .banked⟩]

/-- Rows of the SRV_ register tables. -/
def srvRows2 : List Row :=
  [⟨0x200, 1, 0x0, 2, 0x0, 0x0, 0x0, 0x0, .banked⟩,
   ⟨0x208, 1, 0x0, 2, 0x0, 0x0, 0x0, 0x0, .banked⟩]

def srvRows : List Row := srvRows0 ++ srvRows1 ++ srvRows2

/-- The rows of a kind of page. -/
def rows : Page → List Row
  | .eng => engRows
  | .core => coreRows
  | .cch => cchRows
  | .stk => stkRows
  | .brd => brdRows
  | .brdTier => brdTierRows
  | .fab => fabRows
  | .xpt => xptRows
  | .gtx => gtxRows
  | .tide => tideRows
  | .sec => secRows
  | .fuse => fuseRows
  | .pwr => pwrRows
  | .srvCore => srvCoreRows
  | .srv => srvRows

/-- The block behind a page number (offset / 0x1000): kind of page and instance (R42). -/
def page (pn : Nat) : Option (Page × Nat) :=
  if pn < 0x100 then some (.eng, pn)
  else if pn < 0x108 then some (.core, pn - 0x100)
  else if pn < 0x110 then some (.cch, pn - 0x108)
  else if pn < 0x200 then none
  else if pn < 0x210 then some (.brd, pn - 0x200)
  else if pn = 0x210 then some (.brdTier, 16)
  else if pn < 0x220 then none
  else if pn < 0x228 then some (.fab, pn - 0x220)
  else if pn = 0x230 then some (.xpt, 0)
  else if pn = 0x231 then some (.gtx, 0)
  else if pn = 0x232 then some (.tide, 0)
  else if pn = 0x233 then some (.sec, 0)
  else if pn = 0x234 then some (.fuse, 0)
  else if pn = 0x235 then some (.pwr, 0)
  else if pn < 0x238 then none
  else if pn < 0x23C then some (.srvCore, pn - 0x238)
  else if pn = 0x23C then some (.srv, 4)
  else if 0x1000 ≤ pn ∧ pn < 0x2000 then some (.stk, pn - 0x1000)
  else none

/-- Type code of a page (Table 3-2). -/
def typeCode : Page → Nat
  | .eng => 0x01 | .core => 0x02 | .cch => 0x03 | .stk => 0x04 | .brd => 0x10 | .brdTier => 0x10 | .fab => 0x11
  | .xpt => 0x12 | .gtx => 0x13 | .tide => 0x14 | .sec => 0x15 | .fuse => 0x16 | .pwr => 0x17 | .srvCore => 0x18
  | .srv => 0x18

/-- BLK_VER at stepping A1 (Table 3-2): [31:16] major, [15:0] minor; 0 in the SRV_ pages until the firmware sets it. -/
def version : Page → Nat
  | .stk => 0x10001 | .xpt => 0x10001 | .gtx => 0x10001 | .srvCore => 0 | .srv => 0 | _ => 0x10000

/-- The defined bits of BLK_EVT (Table 3-8 and the chapters' tables); BLK_EVT_MASK resets to 1 in each. -/
def evtBits : Page → Nat
  | .eng => 0x03FFFF03 | .core => 0xF03 | .cch => 0x703 | .stk => 0x7F03 | .brd => 0x1303 | .brdTier => 0x1C03
  | .fab => 0xFF03 | .xpt => 0x1FF03 | .gtx => 0x1F03 | .tide => 0xF03 | .sec => 0x303 | .fuse => 3
  | .pwr => 0x301F03 | .srvCore => 3 | .srv => 0x7FF03

/-- BLK_PROTO (Tables 3-11 and 3-14): [31:16] lowest, [15:0] highest; versions as major × 256 + minor. -/
def proto : Page → Nat
  | .gtx => 0x01000102 | .fab => 0x01000101 | .xpt => 0x01000200 | _ => 0

/-- Whether the page has EN and FORCE_OFF (Table 3-6). -/
def hasEn : Page → Bool
  | .eng | .stk | .fab | .brd => true | _ => false

/-- The header rows of a page of kind k and instance i (R44, Table 3-3). -/
def header (k : Page) (i : Nat) : List Row :=
  [⟨0x00, 1, 0, 1, 0, 0, 0, typeCode k * 0x10000 + i, .plain⟩,
   ⟨0x04, 1, 0, 1, 0, 0, 0, version k, .plain⟩,
   ⟨0x08, 1, 0, 2, 0, 0, 0, 0, .plain⟩,
   ⟨0x10, 1, 0, 1, if k = .eng then 0x104 else 4, 0, 0, if k = .eng then 0x100 else 0, .special⟩,
   ⟨0x14, 1, 0, 1, 0, 0, 0, 0, .computed⟩,
   ⟨0x18, 1, 0, 1, 0, evtBits k, 0, 0, .special⟩,
   ⟨0x1C, 1, 0, 1, evtBits k, 0, 0, evtBits k, .plain⟩,
   ⟨0x20, 1, 0, 2, 0, 0, 0, 0, .computed⟩,
   ⟨0x28, 1, 0, 1, 0, 0, 0, 0, .plain⟩,
   ⟨0x2C, 1, 0, 1, 0, 0, 0, 0, .plain⟩,
   ⟨0x30, 1, 0, 2, 0, 0, 0, 0, .plain⟩,
   ⟨0x38, 1, 0, 1, 0, 0, 0, proto k, .plain⟩,
   ⟨0x3C, 1, 0, 1, if proto k = 0 then 0 else 0xFFFF, 0, 0, proto k % 0x10000, .special⟩,
   ⟨0x40, 1, 0, 1, 0, 0, 0, 0, .plain⟩]

/-- Whether page offset x lies in a row, and in which of its words. -/
def Row.word? (r : Row) (x : Nat) : Option Nat :=
  if x < r.off then none
  else
    let d := x - r.off
    let n := if r.stride = 0 then 0 else d / r.stride
    let m := d - n * r.stride
    if n < r.count ∧ m < 4 * r.words then some (m / 4) else none

/-- One register word: its access masks and reset value. -/
structure WordInfo where
  rw : Word
  w1c : Word
  sh : Word
  reset : Word
  kind : Kind
  words : Nat
deriving DecidableEq, Repr

/-- Word j of a row. -/
def Row.info (r : Row) (j : Nat) : WordInfo :=
  let f (m : Nat) : Word := BitVec.ofNat 32 (m >>> (32 * j))
  { rw := f r.rw, w1c := f r.w1c, sh := f r.sh, reset := f r.reset, kind := r.kind, words := r.words }

/-- The first row that holds page offset x. -/
def findRow (rs : List Row) (x : Nat) : Option WordInfo :=
  match rs with
  | [] => none
  | r :: t => match r.word? x with
    | some j => some (r.info j)
    | none => findRow t x

/-- The register word at byte offset off of space 3; none where no register lies (R37, R42, R43). -/
def info (off : Nat) : Option WordInfo :=
  match page (off / 0x1000) with
  | none => none
  | some (k, i) =>
    let x := off % 0x1000
    if x < 0x100 then findRow (header k i) x
    else if x < 0x800 then findRow (rows k) x
    else none

/-- What a register word reads as when nothing has changed it. -/
def resetWord (idx : Nat) : Word :=
  match info (4 * idx) with
  | some w => w.reset
  | none => 0

end Sys2Proof.Machine.Reg
end

