-- ==== Sys2Proof/Machine/Sparse.lean ====
section
/-! DEFINITION. Sparse maps: lists of (key, value) pairs in one canonical form, keys strictly rising and no entry equal
to the default of its key. They hold the register file, the units and the memories. -/
namespace Sys2Proof

/-- A map from Nat as a sorted association list; what an unlisted key reads as is given at each read. -/
abbrev Sparse (α : Type) := List (Nat × α)

namespace Sparse

/-- The value at k, or d k where k is not listed. -/
def get {α : Type} (d : Nat → α) (m : Sparse α) (k : Nat) : α :=
  match m with
  | [] => d k
  | (j, w) :: t => if j = k then w else get d t k

/-- The map without any entry at k. -/
def drop {α : Type} (m : Sparse α) (k : Nat) : Sparse α := m.filter fun e => e.1 != k

/-- Insert (k, v) where keys rise. -/
def ins {α : Type} (m : Sparse α) (k : Nat) (v : α) : Sparse α :=
  match m with
  | [] => [(k, v)]
  | (j, w) :: t => if j < k then (j, w) :: ins t k v else (k, v) :: (j, w) :: t

/-- The map with value v at k; writing the default removes the entry. -/
def set {α : Type} [DecidableEq α] (d : Nat → α) (m : Sparse α) (k : Nat) (v : α) : Sparse α :=
  if v = d k then drop m k else ins (drop m k) k v

/-- Keys strictly rise and stay above a bound. -/
def rising {α : Type} (lo : Nat) (m : Sparse α) : Bool :=
  match m with
  | [] => true
  | (j, _) :: t => decide (lo ≤ j) && rising (j + 1) t

/-- The canonical form: keys strictly rising, no entry equal to the default of its key. -/
def wf {α : Type} [DecidableEq α] (d : Nat → α) (m : Sparse α) : Bool :=
  rising 0 m && m.all fun e => !decide (e.2 = d e.1)

end Sparse
end Sys2Proof
end

