-- ==== Sys2Proof/Machine/State.lean ====
section
/-! DEFINITION. The state of the device as plain data, its faults and refusals, and the state after a cold reset. -/
namespace Sys2Proof.Machine

/-! ## Events, tide and commits -/

/-- An event that has become pending and awaits its boundary (R16): page number, BLK_EVT bit, class (Table 2-2),
source index (Table 2-3). -/
structure Ev where
  page : Nat
  bit : Nat
  cls : Nat
  src : Nat
deriving DecidableEq, Repr

/-- Work that a boundary has made due and that has a command of its own, in the class order of R17. -/
inductive Due where
  | commit (page : Nat)
  | lateCommit (page : Nat)
  | forceEngine (e : Nat)
  | forceChannel (page : Nat)
  | forcePort (p : Nat)
  | qpCancel (qp : Nat)
  | delayedAck (qp : Nat)
  | mixedTimeout
  | schedule (prev : Nat)
  | stepTimer (n : Nat)
  | tickTask (e q : Nat) (index : Word)
deriving DecidableEq, Repr

/-- What a port offers as a source of tide (R286): epoch, hops and master of its peer's last message. -/
structure Offer where
  epoch : BitVec 16
  hops : Nat
  master : BitVec 10
deriving DecidableEq, Repr

/-- One step timer's bookkeeping (R22): the first tick at which starts count, and starts that have passed undelivered. -/
structure StepTimer where
  from_ : Nat
  lost : Nat
deriving DecidableEq, Repr

/-- An Ethernet port's PTP exchange (R14), times in 2^-16 ns: the next number of its own messages; a two-step Sync that awaits
its Follow_Up (number, arrival, correction); a Delay_Req that awaits its answer (number, master's time less own at the Sync,
time sent); a Pdelay_Req that awaits its answer (number, time sent, twice the delay and the peer's sending time where only its
Follow_Up is missing); the link's mean delay; what its last Announce said. -/
structure PtpPort where
  seq : BitVec 16
  sync : Option (BitVec 16 × Int × Int)
  asked : Option (BitVec 16 × Int × Int)
  peer : Option (BitVec 16 × Int × Option Int)
  delay : Option Int
  clock : Option PtpClock
deriving DecidableEq, Repr

/-- The tide unit beyond its registers (R10 to R33). -/
structure Tide where
  /-- the 64-bit count of nanoseconds (R10) -/
  now : Dword
  /-- the 16-bit binary fraction of a nanosecond (R12) -/
  frac : BitVec 16
  /-- tide of the boundary last delivered (R10, R19) -/
  last : Dword
  /-- TIDE_NOW[63:32] latched by a read of [31:0] (R34) -/
  latch : Word
  /-- consecutive message periods without a valid exchange, in ticks (R28) -/
  silent : Nat
  /-- ticks spent in HOLDOVER (R28) -/
  holdTicks : Nat
  /-- highest epoch seen (R31) -/
  epochSeen : BitVec 16
  /-- a higher epoch arrived and no valid exchange with its master has followed (R31) -/
  epochWait : Bool
  /-- SET_LOAD is armed for the next boundary (R33) -/
  loadArmed : Bool
  /-- LOCK is armed for the next boundary (R33) -/
  lockArmed : Bool
  /-- MASTER written, taking effect at the next boundary (R32, R33) -/
  masterArmed : Option Bool
  /-- the peers' offers by port (R286) -/
  offers : Sparse (Option Offer)
  /-- t1 and exchange number of the REQ outstanding on each port (R286) -/
  reqs : Sparse (Option (Nat × BitVec 16))
  /-- next exchange number (R286) -/
  xseq : BitVec 16
  /-- by port, 1 plus the tick at which its last REQ was sent, 0 for none (R286) -/
  reqAt : Sparse Nat
  /-- PTP exchanges of the Ethernet ports (R14) -/
  ptp : Sparse PtpPort
  /-- the offset still to be slewed out, in 2^-16 ns (R11, R12) -/
  slew : Int
  /-- the master's tide lies ahead and a forward step is due (R30) -/
  jumpDue : Bool
  /-- the four step timers (R22) -/
  steps : Sparse StepTimer
  /-- a TAKE and a CLEAR that await their boundary (R433, R434) -/
  snapTake : Bool
  snapClear : Bool
  /-- snapshot copies of the performance counters by word index (R433) -/
  snap : Sparse Word
deriving DecidableEq, Repr

/-- A unit's pending commit (R23, R24): target tick, none for the next boundary whatever its number; whether the shadow write has
reached the unit; whether a commit boundary has come at which the unit has not committed; and whether that of its newest request
has. -/
structure UnitCommit where
  target : Option Nat
  reached : Bool
  owed : Bool
  came : Bool
deriving DecidableEq, Repr

/-- The commit machinery (R23 to R26, R46). A unit of the scope that owes its commit keeps STATE at MIXED. -/
structure Commit where
  /-- pending value of each register word that holds an SH field (R23) -/
  shadow : Sparse (Option Word)
  /-- units with a commit pending, by page number -/
  units : Sparse (Option UnitCommit)
  /-- page numbers of the units whose commit boundary has come since STATE last read SETTLED (R26) -/
  scope : List Nat
  /-- tick of the commit boundary at which STATE left SETTLED (R26) -/
  since : Nat
  /-- newest generation whose commit boundary has come (TIDE_COMMIT_GEN) -/
  newest : BitVec 16
  /-- MIXED_TIMEOUT has been reached (R26) -/
  timedOut : Bool
  /-- boundary at which the first request that followed the last write of TIDE_COMMIT_AT takes force, as in a unit's commit (R23) -/
  atTarget : Option (Option Nat)
deriving DecidableEq, Repr

/-! ## Engines -/

/-- A destination of a task, poisoned when the task is cancelled or fails (Table 4-11). -/
inductive Dest where
  | spad (unit count : Nat)
  | tile (slot : Nat) (both : Bool) (rows : BitVec 64)
  | line (space off : Nat)
deriving DecidableEq, Repr

/-- A cache descriptor as read (R183, Table 9-1): the virtual address it lies at, and its fields. -/
structure KvDesc where
  va : Nat
  nlayers : Nat
  nkvh : Nat
  dch : Nat
  kvFmt : Nat
  ring : Bool
  bitmaps : Bool
  evictEn : Bool
  ssh : Nat
  vsh : Nat
  scsh : Nat
  sg : Nat
  len : Nat
  ringTop : Nat
  ringBlocks : Nat
  sinkBlocks : Nat
  kvBase : Nat
  validBase : Nat
  scoreBase : Nat
  evqBase : Nat
  decay : Nat
  thresh : Nat
  protect : Nat
  req : Nat
  reserved : Bool
deriving DecidableEq, Repr

/-- What an entry of an attention task still owes to memory: the mass of a block, or a gradient vector. It is paid when the
task completes, where reads of the entry from a lower tier were outstanding at its performance; a gradient with its entry's request and destinations
(R179, R271). -/
inductive Owed where
  | mass (entry : Nat) (k : KvDesc) (layer head n mass kvEnd : Nat) (test : Bool)
  | grad (entry va : Nat) (xs : List Nat) (poison : Bool) (req : Nat) (ranges : List (Nat × Nat))
deriving DecidableEq, Repr

/-- The entry that owes it. -/
def Owed.entry : Owed → Nat
  | .mass i .. => i
  | .grad i .. => i

/-- A started task (R59, R68): its queue and index, its descriptor, its status so far, whether it has completed and
not yet retired (R60), its destinations, and the accumulator slots it holds (R116). -/
structure Task where
  queue : Nat
  index : Word
  desc : BitVec 512
  status : Nat
  done : Bool
  dests : List Dest
  slots : BitVec 32
  flush : Bool
  /-- chain word of a CHAIN task, written to ENG_VX_CWORD at its completion (R138) -/
  cword : Word
  /-- it waits at the tile arbiter and has not acted on its tile yet (R116) -/
  held : Bool
  /-- counts of a QUANT task for its statistics record, added at its completion (R100) -/
  counts : List Nat
  /-- what entries of an attention task add to memory at its completion (R179) -/
  owed : List Owed
  /-- program of a CHAIN that waits, as it read it at its start: its words, and whether they are poisoned (R132) -/
  prog : Option (List Nat × Bool) := none
deriving DecidableEq, Repr

/-- Element format recorded for a tile (R110). -/
inductive ElemFmt where
  | open_ | fp32 | int32 | bf16
deriving DecidableEq, Repr

/-- Metadata of an accumulator slot (R110): recorded shape and format, flag byte, poison bit per tile row. -/
structure SlotMeta where
  shape : Option (BitVec 2)
  fmt : ElemFmt
  flags : Byte
  poison : BitVec 64
deriving DecidableEq, Repr

/-- A translation: context, virtual page base, log2 of its size, frame, W and BRINE (R245, R249). -/
structure XEntry where
  ctx : Nat
  va : Nat
  log2 : Nat
  frame : Nat
  w : Bool
  brine : Bool
  /-- of a brine leaf: DATA_OFF and TOTAL_BYTES of the header that its installation checked (R270) -/
  dataOff : Nat
  total : Nat
deriving DecidableEq, Repr

/-- A table pointer held in a walk cache (R249): core 0 to 7, 8 for the hub. -/
structure WalkEntry where
  core : Nat
  ctx : Nat
  level : Nat
  pfx : Nat
  table : Nat
deriving DecidableEq, Repr

/-- A SAVE or LOAD in progress (R395): operation (1 SAVE, 2 LOAD), slot, cause of failure, 0 for none, and the context whose image it
is, where the firmware knows one. -/
structure CswJob where
  op : Nat
  slot : Nat
  cause : Nat
  ctx : Option Nat
deriving DecidableEq, Repr

/-- One engine beyond its registers (R57, R104, R109, R249). -/
structure Engine where
  /-- descriptors fetched and not started, by queue, the head first (R58) -/
  fetched : Sparse (List (BitVec 512))
  /-- tasks started and not retired, oldest first (R59) -/
  tasks : List Task
  /-- the 2 MiB scratchpad (R104) -/
  spad : List Host.Cell
  /-- poison bit of each 32-byte scratchpad unit (R416) -/
  spadPoison : Sparse Bool
  /-- the accumulator memory: word w of slot s at 2048 s + w (R109, R126) -/
  acc : Sparse Word
  /-- slot metadata (R110) -/
  slots : Sparse SlotMeta
  /-- the translation cache, most recently used first (R249) -/
  xl : List XEntry
  /-- tick of the last start, completion, or write of 1 to EN, and whether STALL was raised since (R72) -/
  progress : Nat
  stalled : Bool
  /-- a forced disable is pending (R494) -/
  forcePend : Bool
  /-- a SAVE or LOAD in progress (R395) -/
  csw : Option CswJob
  /-- number of the reset that lost the scratchpad's content (the model's own field, log 6); none where every byte not
  listed is zero, as a SAVE leaves it (R395) -/
  era : Option Nat
  /-- the same of the accumulator memory, which a failed TILE_LOAD leaves zeroed too (R125) -/
  accEra : Option Nat
  /-- by queue: tasks of the other queues that have started on the unit of its head while that was ready (R69) -/
  passed : Sparse Nat
  /-- by queue: 1 plus the tick of the last start or completion of one of its tasks, 0 for none (R399) -/
  turned : Sparse Nat
deriving DecidableEq, Repr

/-- A saved image whose layout is not published (R125, R395): where it lies, what it holds, and whether it is intact. -/
structure Image where
  /-- lines it occupies: space, and stack line key (space 0) or offset / 128 -/
  lines : List (Nat × Nat)
  intact : Bool
  acc : Sparse Word
  slots : Sparse SlotMeta
  spad : List Host.Cell
  spadPoison : Sparse Bool
  era : Option Nat
  accEra : Option Nat
  /-- saved register words of Q0 to Q3, ENG_NUM_CTRL, ENG_NUM_STICKY, ENG_VX_QSTAT_BASE, by page offset -/
  regs : Sparse Word
deriving DecidableEq, Repr

/-- A token signal or a credit give on its way (R64): target engine, counter, amount, error flag. -/
structure Flight where
  engine : Nat
  counter : Nat
  amount : Nat
  err : Bool
deriving DecidableEq, Repr

/-! ## Memory -/

/-- A line of a core cache (R224 to R226): its core, channel and line key, data, poison, dirty and high retention. -/
structure CLine where
  core : Nat
  key : Nat
  data : List Byte
  poison : Bool
  dirty : Bool
  keep : Bool
deriving DecidableEq, Repr

/-- An entry of a write-combining buffer (R228). -/
structure WcEntry where
  core : Nat
  key : Nat
  mask : BitVec 128
  data : List Byte
  poison : Bool
  first : Nat
deriving DecidableEq, Repr

/-- A locked line (R229): key, holder, tide at which it was locked. -/
structure Lock where
  key : Nat
  src : Nat
  at_ : Nat
deriving DecidableEq, Repr

/-- What an access to a lower tier is for: an access of a unit (of an attention entry, a read of a line that some row sees), the fetch of a
descriptor, a walker's read, a read of a cache descriptor, length pointer or valid word, a line that no row sees, or an access of
HOST_WINDOW_ACCESS, which answers its requester. -/
inductive LowerKind where
  | access | fetch | walk | row | info | unseen
deriving DecidableEq, Repr

/-- A space-1 or space-2 access that has been issued and has not completed (R271). -/
structure Lower where
  space : Nat
  off : Nat
  /-- 0 marks a read that has been sampled late or failed: its line reads poisoned for the rest of its task -/
  len : Nat
  write : Bool
  src : Nat
  tick : Nat
  tag : Nat
  /-- the task behind it: engine, queue, index -/
  task : Option (Nat × Nat × Word)
  kind : LowerKind
  /-- of an engine's access, its virtual address, and an attention entry's or append row's request handle -/
  va : Nat
  req : Nat
  /-- destinations of an attention entry -/
  dests : List Dest
  /-- it has been reported failed, or late before its limit; the boundary samples it -/
  failed : Bool
  late : Bool
  /-- of a board write, what its line held before (R272) -/
  undo : Option (List Host.Cell × Bool × List (Nat × BitVec 16)) := none
deriving DecidableEq, Repr

/-- A host read of a task in flight (R263): its offset and length, its DMA tag, and what has arrived. -/
structure Got where
  task : Nat × Nat × Word
  off : Nat
  len : Nat
  tag : Nat
  data : Option (List Byte)
  poison : Bool
deriving DecidableEq, Repr

/-- A read that a move task in flight has made: its virtual address and length, the space-2 offset of one of the host window, else what
it gave. -/
structure Taped where
  task : Nat × Nat × Word
  va : Nat
  len : Nat
  host : Option Nat
  data : List Byte
  poison : Bool
deriving DecidableEq, Repr

/-- An access that waits at a locked line (R229). -/
inductive Waiting where
  | stack (a : StackAcc)
  | nma (a : NmaAcc)
  | wc (w : WcEntry)
deriving DecidableEq, Repr

/-- A traffic generator's position (R235): next line, passes done, checking half of OP 2, and whether it has stopped. -/
structure Tg where
  line : Nat
  pass : Nat
  check : Bool
  stop : Bool
deriving DecidableEq, Repr

/-- The memories and the memory path (R211 to R241, R258 to R271). -/
structure Mem where
  /-- stack bytes, address (channel × 2^21 + line) × 128 + byte; a line not listed was never written whole (R497) -/
  dram : List Host.Cell
  /-- stack lines stored with the poison pattern, by key (R219) -/
  dramPoison : Sparse Bool
  /-- symbol errors stored in stack lines, by key (R216) -/
  dramErr : Sparse (List (Nat × BitVec 16))
  /-- board bytes by space-1 offset, poison and errors by line -/
  board : List Host.Cell
  boardPoison : Sparse Bool
  boardErr : Sparse (List (Nat × BitVec 16))
  /-- DENSITY + 1 at which each board interface was trained, 0 untrained (R259) -/
  trained : Sparse Nat
  /-- host memory as the device last saw it, by space-2 offset (R263) -/
  host : List Host.Cell
  /-- core cache lines, most recently used first -/
  cache : List CLine
  /-- write-combining entries, oldest first -/
  wc : List WcEntry
  locks : List Lock
  /-- accesses that wait at a locked line, oldest first (R229) -/
  waiting : List Waiting
  /-- cores whose WB_ALL write-backs are complete and whose FLUSH_DONE is outstanding (R227) -/
  flushing : List Nat
  /-- dirty lines of disabled channels that a WB_ALL passed over (R227) -/
  wbOwed : List Nat
  /-- outstanding lower-tier accesses, oldest first (R271), and the next DMA tag -/
  lower : List Lower
  nextTag : Nat
  /-- the task whose reads are being made, the host reads of tasks in flight, and the reads that move tasks in flight have made: each is
  made once, and a task writes when it has them all (R250, R255, R263) -/
  reading : Option (Nat × Nat × Word)
  got : List Got
  tape : List Taped
  tg : Sparse (Option Tg)
  /-- next line that each channel scrubs (R220), next bank and row group it refreshes (R222) -/
  scrub : Sparse Nat
  refresh : Sparse Nat
  /-- dies above WARN that have raised TEMP_WARN, by 16 core + die (R223) -/
  dieWarn : Sparse Bool
  /-- walk caches of the cores and the hub, and the hub's translation cache (R249) -/
  walk : List WalkEntry
  hubXl : List XEntry
  /-- the hub's decoded brine blocks: object address, block, bytes, poison bit per line (R270) -/
  brine : List (Nat × Nat × List Byte × BitVec 32)
  /-- images of TILE_SAVE and of ENG_CSW_CMD SAVE -/
  images : List Image
  /-- bytes of the accounting period by 8 record + kind: 0 to 2 of spaces 0 to 2, 3 sent, 4 received (Table 16-6) -/
  moved : Sparse Nat
deriving DecidableEq, Repr

/-! ## Links -/

/-- A packet waiting at a port: virtual lane, slots, link TYPE, bytes. -/
structure TxPkt where
  vl : Nat
  slots : Nat
  type : Nat
  bytes : List Byte
  /-- the Salbuotte packet that the bytes spell -/
  packet : Option Packet
deriving DecidableEq, Repr

/-- What a codeword carries (R280). -/
inductive Content where
  | flit (f : Flit)
  | align
  | training
  | time (resp : Bool) (m : TimeMsg)
deriving DecidableEq, Repr

/-- One port, FP0 to FP7 or GP0, beyond its registers (R279 to R296). -/
structure Port where
  /-- tick at which it went DOWN, and at which DETECT or RETRAIN was entered -/
  downAt : Nat
  enteredAt : Nat
  /-- in RETRAIN: the states 3 and 4 belong to a RETRAIN (R287) -/
  retrain : Bool
  /-- lanes good for both peers at the last QUALIFY; lanes in use when it was last UP; FAB_CFG as of the last training -/
  good : BitVec 8
  upWidth : Nat
  cfg : Word
  /-- next sequence number to send; last sequence accepted -/
  txSeq : BitVec 12
  rxSeq : BitVec 12
  /-- replay buffer: flits sent and not acknowledged, oldest first (R283) -/
  replay : List Flit
  /-- a flit has been accepted since the training; bytes of started packets that no flit carries yet (R282) -/
  rxAny : Bool
  tx : List Byte
  /-- codewords sent and received since the training, and the scramblers' states (R279, R280) -/
  txNum : Nat
  rxNum : Nat
  txScr : Nat
  rxScr : Nat
  /-- lanes reversed, and inverted lanes, as the last full training found them (R277) -/
  reversed : Bool
  inverted : BitVec 8
  /-- BLK_PROTO_LIMIT as of the last training (R56) -/
  limit : Nat
  /-- XPT_DEV as the port last entered NEGOTIATE (R471) -/
  own : BitVec 10
  /-- an Ethernet lane has failed: the training offers the lower rates only (R293) -/
  fallback : Bool
  nakSent : Bool
  replays : Nat
  /-- tick at which an acknowledgement last advanced -/
  ackAt : Nat
  /-- credit held per virtual lane, and slots freed and not yet returned (R284) -/
  credit : Sparse Nat
  freed : Sparse Nat
  txq : List TxPkt
  /-- the lane served last and its remaining weight (R285) -/
  wrr : Nat × Nat
  /-- bytes of the received slot stream not yet assembled into packets (R282) -/
  rx : List Byte
  /-- a graceful disable took it DOWN: the retransmit timers are held (R340) -/
  graceful : Bool
  forcePend : Bool
  /-- Ethernet: receive level and PFC state by priority (R294): bytes held, XOFF sent; of a pause by the peer the tick it
  began and 1 once its storm was raised; frames discarded -/
  level : Sparse Nat
  xoff : Sparse Bool
  paused : Sparse (Option (Nat × Nat))
  dropping : Sparse Bool
deriving DecidableEq, Repr

/-! ## Transport -/

/-- A send WQE that has started (R323): index, words, its first PSN and count, packets of its reply, gather slot and
attempt of a rake (R352), reply parts received, poison seen, and whether its request has been refused STALE (R330). -/
structure Wqe where
  index : Word
  words : List Dword
  psn : BitVec 24
  count : Nat
  got : List Nat
  slot : Option Nat
  attempt : BitVec 4
  poison : Bool
  stale : Bool
  /-- message number of a SEND; bytes of a rake's record; status with which it failed and awaits its turn, 0 for none -/
  msn : BitVec 24
  size : Nat
  fail : Nat
deriving DecidableEq, Repr

/-- An RSIG accepted and not performed (R330): the signal, the PSNs of its message, whether those are all of them or only those seen
between its FIRST and LAST packets, where in the region PSN 0 would lie, and whether a packet of the message was refused STALE. -/
structure RxSig where
  sig : Word
  lo : BitVec 24
  hi : BitVec 24
  whole : Bool
  base : Nat
  stale : Bool
deriving DecidableEq, Repr

/-- A receive WQE begun (R333): its index, TAG and LSIG, the message's length and the PSN of its LAST packet once that
has come, and whether a packet came poisoned. -/
structure RecvMsg where
  index : Word
  tag : Nat
  lsig : Word
  len : Nat
  last : Option (BitVec 24)
  poison : Bool
deriving DecidableEq, Repr

/-- Device state of one queue pair (R319 to R332). -/
structure Qp where
  state : Nat
  /-- context words 0x00 to 0x3F read at INIT -/
  ctx : List Dword
  /-- egress port in force (R320, MIGRATE) -/
  port : Nat
  sqTail : Word
  sqHead : Word
  sqDone : Word
  rqTail : Word
  rqHead : Word
  rqDone : Word
  npsn : BitVec 24
  una : BitVec 24
  epsn : BitVec 24
  /-- PSNs above ePSN received out of order (selective repeat, R328) -/
  ahead : List (BitVec 24)
  /-- PSNs that a SACK has made the requester send again since the last expiry (Table 13-15) -/
  sackSent : List (BitVec 24)
  wqes : List Wqe
  cwnd : Nat
  ssthresh : Nat
  recover : BitVec 24
  retries : Nat
  rnrs : Nat
  /-- tick at which the retransmit timer started, and its doubling (R331) -/
  timerAt : Nat
  timerMul : Nat
  /-- an RNR wait: the PSN to resend from and the tick it ends (R330) -/
  rnrWait : Option (BitVec 24 × Nat)
  /-- responder: packets performed and not acknowledged, CE seen, NAK_SEQ sent for this ePSN (R328, R330) -/
  unacked : Nat
  ece : Bool
  nakSeq : Bool
  /-- responder refused fatally and accepts nothing more until RESET (R330) -/
  shut : Bool
  /-- next MSN to send; responder: receive WQEs begun and not completed -/
  msn : BitVec 24
  recv : List RecvMsg
  /-- RSIGs of accepted messages not completed, by the first PSN known (R330) -/
  rsigs : List RxSig
  /-- PSN and old value of the last four ATOMICs (R329) -/
  atomics : List (BitVec 24 × Dword × Bool)
  errStatus : Nat
  /-- FORCE written and awaiting its boundary (R339) -/
  forcePend : Bool
deriving DecidableEq, Repr

/-- A rake job held by a crew member (R347 to R351). -/
structure RakeJob where
  crew : Nat
  engine : Nat
  slot : Nat
  qp : Nat
  psn : BitVec 24
  replyPsn : BitVec 24
  packets : Nat
  got : Nat
  blockLen : Nat
  attempt : BitVec 4
  accepted : Nat
  /-- the member's job count at which its STORE's signal has come; none before the LAST packet is placed -/
  due : Option Nat
  rerun : Bool
  /-- MASS_EN and P_PREC of its attention task -/
  mass : Bool
  prec : Bool
  rows : Nat
  dch : Nat
  /-- tick at which its record was stored, and whether that signal carried the error (R345, R350) -/
  stored : Option (Nat × Bool)
  /-- its connection still takes a reply -/
  live : Bool
deriving DecidableEq, Repr

/-- A register access that the window has forwarded (R299): the peer, the tag of the host's packet, and the bytes that a read
asks for, 0 for a write. -/
structure Fwd where
  dev : Nat
  tag : BitVec 16
  read : Nat
deriving DecidableEq, Repr

/-- The transport beyond its registers. -/
structure Xpt where
  qps : Sparse Qp
  jobs : List RakeJob
  /-- jobs written to a member's queue so far, by 256 crew + engine (R350) -/
  jobCount : Sparse Nat
  /-- a region command in progress: index, operation (R316) -/
  rgn : Option (Nat × Nat)
  /-- completion queues that have overflowed and whose queue pairs are still to enter ERROR (R324) -/
  cqOvf : List Nat
  /-- forwarded register accesses that await the peer's completion, oldest first (R299) -/
  fwd : List Fwd
deriving DecidableEq, Repr

/-! ## Serving firmware -/

/-- K_SCALE and V_SCALE of a layer and KV head, FP32: SCORE_SCALE and OUT_SCALE of that layer and head are multiplied by them, and what
is appended later is stored on them (R209). -/
structure KvScale where
  layer : Nat
  head : Nat
  k : Nat
  v : Nat
deriving DecidableEq, Repr

/-- A PARK in progress (R389): tier, whether the cache is packed, TTL, HOST_TAG and ring index of the command. -/
structure Parking where
  tier : Nat
  pack : Bool
  ttl : Nat
  tag : Dword
  index : Word
deriving DecidableEq, Repr

/-- A sequence's cache in a lower tier (R273): the tier, whether it was packed, and what was copied: virtual address, bytes and
poison. -/
structure CacheCopy where
  tier : Nat
  pack : Bool
  parts : List (Nat × List Byte × Bool)
deriving DecidableEq, Repr

/-- A hamper (R365, Table 15-1), with what the firmware keeps of the request beside it. -/
structure Hamper where
  gen : BitVec 12
  state : Nat
  endReason : Nat
  priority : Nat
  logp : Bool
  import_ : Bool
  fallbackSeen : Bool
  ttftMiss : Bool
  hold : Nat
  customer : Nat
  pkey : BitVec 16
  ctx : Nat
  adapterSlot : Nat
  adapterEn : Bool
  adapterVer : Word
  lastToken : Word
  hostTag : Dword
  cdesc : Nat
  promptAddr : Dword
  promptLen : Nat
  promptDone : Nat
  genMax : Nat
  genCount : Nat
  seed : Dword
  temp : Word
  topP : Word
  topK : Nat
  nstop : Nat
  nseq : Nat
  seqLen0 : Nat
  seqLen1 : Nat
  ctxMax : Nat
  stopIds : List Word
  stopSeq : List Word
  arriveTick : Nat
  firstTick : Nat
  lastTick : Nat
  deadlineTick : Nat
  ttftLimit : Nat
  tbtLimit : Nat
  maxGap : Nat
  tbtMisses : Nat
  prefixKey : List Byte
  m0 : Nat
  m1 : Nat
  reservedPages : Nat
  /-- committed length, and stack pages held -/
  len : Nat
  pages : Nat
  /-- state that a HELD request returns to (R366) -/
  heldFrom : Nat
  /-- END record not yet written (R371) -/
  endOwed : Bool
  /-- moves of an ENDED request are still in flight (R378) -/
  moving : Bool
  /-- MODEL_ID and transfer image of SUBMIT (R369) -/
  modelId : List Byte
  importAt : Dword
  /-- tokens emitted, and prefix hashes h[0] on (R203) -/
  gens : List Word
  hashes : List (List Byte)
  /-- prefix bucket whose holder's pages it shares (R388) -/
  shared : Option Nat
  /-- moves retried once (R379, R389) -/
  retried : Bool
  /-- PARK in progress (R389) -/
  park : Option Parking
  /-- the copy of its cache in a lower tier, while it is away (R273, R379, R389) -/
  copy : Option CacheCopy
  /-- positions that its SHADOW cache holds (R410) -/
  shadow : Nat
  /-- boundary at which it expired, while its copy awaits release; then the boundary of that release (R390) -/
  expired : Option Nat
  /-- scales of a cache received with SCALES (R209) -/
  scales : List KvScale
deriving DecidableEq, Repr

/-- A customer budget entry (R376, Table 15-9). -/
structure Budget where
  rate : Nat
  burst : Nat
  balance : Nat
  last : Nat
  promptW : Nat
  unlimited : Bool
  heldSteps : Nat
deriving DecidableEq, Repr

/-- One version record of an adapter slot (Table 15-10). -/
structure AdapterVer where
  ver : Nat
  refs : Nat
  image : Nat
  vstate : Nat
  ctx : Nat
deriving DecidableEq, Repr

/-- An adapter slot (R385, Table 15-10), with the highest version it has held. -/
structure Adapter where
  state : Nat
  rank : Nat
  cur : Nat
  vers : List AdapterVer
  top : Nat
deriving DecidableEq, Repr

/-- A draft block (R382): BASE, tokens and parent bytes. -/
structure DraftBlock where
  base : Nat
  tokens : List Word
  parents : List Byte
deriving DecidableEq, Repr

/-- A row of the step basket (R374, R375): hamper and its generation, length of its prompt chunk (0 for a DECODE row),
drafts, cost, fallback, completed, length before the step, and the weight page that poisoned it (R422). -/
structure Row where
  hamper : Nat
  gen : BitVec 12
  chunk : Nat
  drafts : DraftBlock
  cost : Nat
  fallback : Bool
  done : Bool
  lenBefore : Nat
  weight : Option Nat
deriving DecidableEq, Repr

/-- The step basket (R374): rows, the boundary it started at, whether it is built and not complete, and whether it is a
re-run (R423). -/
structure Basket where
  rows : List Row
  start : Option Nat
  live : Bool
  rerun : Bool
deriving DecidableEq, Repr

/-- A completion record (R370, Table 15-6) without its phase. -/
structure CplRec where
  op : Nat
  status : Nat
  end_ : Nat
  handle : Word
  tag : Dword
  tick : Nat
  detail0 : Nat
  detail1 : Nat
deriving DecidableEq, Repr

/-- Prefix pages of a holder that has ended (R388): context, address of its cache descriptor, pages. -/
structure Retained where
  ctx : Nat
  cdesc : Nat
  pages : Nat
deriving DecidableEq, Repr

/-- A resident context of the firmware (R393, R394, Tables 16-13 and 16-14). -/
structure Ctx where
  cfg : Word
  state : Nat
  blocked : Bool
  runnable : Bool
  target : Bool
  engines : BitVec 256
  hdr : Dword
  data : Dword
  /-- the last blocked intervals in ticks, newest first (R399), and the tick the present one began -/
  waits : List Nat
  blockedAt : Nat
  runnableAt : Nat
  /-- ticks in a row in which it ran no task and no queue of it could start one (R399) -/
  quiet : Nat
  /-- SRV_CTX_WAIT_HINT (R399, Table 16-12) -/
  waitHint : Word
  /-- engine cycles used in the share window (R402) -/
  used : Nat
  /-- to be drained for another context (R402) -/
  yield_ : Bool
  /-- while the firmware switches it: whether it is switched out; engines whose SAVE, or LOAD, has completed -/
  leaving : Bool
  moved : BitVec 256
deriving DecidableEq, Repr

/-- A prefix index bucket (R205, Table 9-9). -/
structure Bucket where
  hash : List Byte
  dev : Nat
  holder : Nat
  block : Nat
  refs : Nat
  state : Nat
deriving DecidableEq, Repr

/-- A poisoned weight page (R421, R422): its context, size as a power of two, virtual address and frame, and whether no golden copy
could be read. -/
structure WeightPage where
  ctx : Nat
  sh : Nat
  va : Nat
  frame : Nat
  lost : Bool
deriving DecidableEq, Repr

/-- A command that the firmware has taken (R367): its ring index and record, the block that its W2 names (of SUBMIT and DRAFT), and
whether a boundary has sampled it. -/
structure TakenCmd where
  index : Word
  rec_ : CmdRec
  block : List Byte
  sampled : Bool
deriving DecidableEq, Repr

/-- What the firmware writes for a row into the step's tables (R364, R374, R383): length-table entries (Table 8-4), rake request blocks
(Table 14-2), append-table rows (Table 9-5), tree words (R158), and the scales of the request. -/
structure StepRow where
  hamper : Nat
  entries : List (List Byte)
  rakes : List (List Byte)
  appends : List (List Byte)
  samples : List (List Byte)
  tree : List Byte
  controls : List KvScale
  scales : List KvScale
deriving DecidableEq, Repr

/-- A connection that the firmware sets up (R326): its queue pair here, the peer device and the peer's queue pair. -/
structure Conn where
  qpn : Nat
  dev : Nat
  peer : Nat
deriving DecidableEq, Repr

/-- The serving firmware beyond its registers (R364 to R412, R421 to R425). -/
structure Srv where
  hampers : Sparse Hamper
  budgets : Sparse Budget
  adapters : Sparse Adapter
  drafts : Sparse (Option DraftBlock)
  prefixes : Sparse Bucket
  basket : Basket
  /-- boundary at which a re-run is released (R423) -/
  rerunAt : Option Nat
  /-- C of the last completed step, and the last C - S (R409) -/
  lastDone : Nat
  spans : List Nat
  /-- free stack pages of each context (R379); none until the pool is first touched -/
  pool : Sparse (Option Nat)
  retained : List Retained
  ctxs : Sparse Ctx
  weights : Sparse (Option WeightPage)
  /-- golden copies of a weight page: saltern addresses, at most three (R421) -/
  golden : Sparse (List Nat)
  /-- FENCE commands that wait for earlier PARKs (R370): HOST_TAG, hampers -/
  fences : List (Dword × List Nat)
  /-- commands taken in this tick, and commands taken and not resolved, in ring order (R367) -/
  taken : Nat
  cmds : List TakenCmd
  /-- QUERYs resolved at this boundary: host offset, hamper, and the completion that follows the record (R368) -/
  queries : List (Nat × Nat × CplRec)
  /-- the tables of the step that is built -/
  tables : List StepRow
  /-- completion records that await room in the ring (R371) -/
  owed : List CplRec
  /-- class and source of the last event that the firmware resolved at this boundary (R17), as 8,192 class + source, 0 for none; and
  of the last basket row (R374) -/
  order : Nat
  rowOrder : Nat
  /-- tick of each serving core's last beat (R392) -/
  beats : Sparse Nat
  /-- overruns of the last 1,024 static steps (R408) -/
  overruns : List Bool
  /-- tick at which the last share window ended (R402) -/
  windowAt : Nat
  /-- accounting: tick of the last period's end; switches, loaded and blocked ticks of the period by context (R403) -/
  acctAt : Nat
  switches : Sparse Nat
  loaded : Sparse Nat
  blocked : Sparse Nat
  /-- energy measured in the period, in 1/1,024 µJ, and by record the fraction carried to the next one (R404) -/
  energy : Nat
  carried : Sparse Nat
  /-- queue pairs that the firmware has given to connections (R326) -/
  conns : List Conn
deriving DecidableEq, Repr

/-! ## Power, security core -/

/-- Power controller beyond its registers (R447 to R453, R441). -/
structure Pwr where
  powered : Bool
  resetN : Bool
  /-- outputs that a trip drives low until power is removed (R453) -/
  thermTripN : Bool
  smbAlertN : Bool
  /-- powers of the last ticks in W, newest first (R449) -/
  hist : List Nat
  /-- a trip crossed and not yet sampled: cause, rail (R453) -/
  trip : Option (Nat × Nat)
  /-- offset set by the sideband (R441) -/
  smbOff : BitVec 12
  /-- a trip cannot be taken away but by power removal (R474) -/
  tripped : Bool
deriving DecidableEq, Repr

/-- The running image as verified (R465, R466, R491): its key and ROLLBACK, its digest D, its sections as they were copied to
the SRAMs of the security core and the serving cores, and the digest of its signing key. -/
structure RunImage where
  keySel : Nat
  rollback : Nat
  measure : List Byte
  secFw : List Byte
  srvFw : List Byte
  config : List Byte
  train : List Byte
  signer : List Byte
deriving DecidableEq, Repr

/-- Security core, fuses and mailbox (R455 to R492). -/
structure Sec where
  /-- logical fuse bits that the field may program: PART_LOG, ROLLBACK, OWNER, DEBUG_LOCK, the bits that are 1 (R457) -/
  fuses : List Nat
  /-- logical bits that the last fuse load sensed wrong (R456) -/
  misread : List Nat
  /-- partition mode in force since the last fuse load, and the committed PART_LOG entries that load found (R460) -/
  partMode : Nat
  partUsed : Nat
  /-- a warm reset has been requested and has not begun (R475, R476) -/
  resetWait : Bool
  /-- image bytes read or presented, whether they came through the mailbox, and what remains of its configuration records
  (R463, R468, R470) -/
  image : List Byte
  viaMbx : Bool
  records : List CfgRec
  run : Option RunImage
  /-- SRAMs of the security core and of the serving cores: the places and bytes of the sections copied there (R466, Table 19-8) -/
  secSram : List (Nat × List Byte)
  srvSram : List (Nat × List Byte)
  /-- the identity key has been derived (R481) -/
  idReady : Bool
  challenge : Option (List Byte)
  /-- mailbox: claimed operation and length, input, output (R485) -/
  mbxOp : Nat
  mbxLen : Nat
  mbxIn : List Dword
  mbxOut : List Byte
  /-- some page has had DEBUG 1 since reset (Table 20-3) -/
  debugSeen : Bool
deriving DecidableEq, Repr

/-! ## Outputs -/

/-- What the device has sent or answered, newest first. -/
inductive Out where
  /-- the answer to a register access: error response or data -/
  | reg (r : Requester) (ok : Bool) (data : Dword)
  | regCpl (tag : BitVec 16) (status : Nat) (data : Dword)
  | dmaRd (tag : Nat) (addr : Dword) (len : Nat)
  | dmaWr (addr : Dword) (relaxed : Bool) (bytes : List Byte)
  | token (addr : Dword) (records : List Byte) (prod : Word) (prodAt : Dword)
  | intr (vector : Nat)
  /-- a packet starts on its way; in Ethernet mode its frame leaves -/
  | packet (port : Nat) (k : Packet)
  | frame (port : Nat) (bytes : List Byte)
  /-- a native codeword, with the symbols on each active lane (R279) -/
  | codeword (port : Nat) (c : Content) (lanes : List (List Nat))
  /-- NEGOTIATE: the good lanes and the record that the port sends, or the rates that it offers as widths in lanes (R288, R293) -/
  | negotiate (port : Nat) (good : BitVec 8) (r : NegRecord)
  | autoneg (port : Nat) (widths : List Nat)
  | pfc (port prio : Nat) (quanta : BitVec 16)
  | ptp (port : Nat) (m : PtpMsg)
  | line (src : Nat) (ok : Bool) (poison : Bool) (bytes : List Byte)
  | forwarded (dev : BitVec 10) (pkey : BitVec 16) (tag : BitVec 16) (write : Bool) (a : RegAcc)
  | smb (ack : Bool) (data : Word)
  | mbx (r : Requester) (data : Dword)
  | srvIrq (timer : Nat)
  /-- a read of the xSPI flash: clock in MHz, dummy cycles, and DDR for 8D-8D-8D (R462) -/
  | flash (ddr : Bool) (cmd addr len mhz dummy : Nat)
deriving DecidableEq, Repr

/-! ## The machine -/

/-- Why the machine stops. The model has no command that stops it; the constructor is kept for an access to memory
that the spec says does not exist, which the spec itself completes with an access error (R242), so none raises it. Safe. -/
inductive Fault where
  | nonexistent (space off : Nat)
deriving DecidableEq, Repr

/-- Why a command is refused. notModelled: raised by no meaning, only by an arm of exec whose meaning is not written
yet. Safe. -/
inductive Refusal where
  | notModelled (mnemonic : String)
deriving DecidableEq, Repr

/-- The whole device. -/
structure State where
  /-- commands waiting, first in, first out (the model's own field) -/
  pending : List Instr
  /-- every register word that differs from its reset value, by offset / 4 (R36, R42) -/
  regs : Sparse Word
  tide : Tide
  commit : Commit
  /-- pending events in order of arrival (R16) -/
  evq : List Ev
  /-- tide of the boundary that sampled each pending BLK_EVT bit, by 32 page + bit (R19) -/
  evtAt : Sparse Nat
  /-- log records that await the boundary that samples their access: log register, value, and the register that takes
  the boundary's tide, 0 for none (R496, R271) -/
  logq : List (Nat × Dword × Nat)
  /-- due work of the last boundary (R12) -/
  due : List Due
  /-- engines by global index -/
  engines : Sparse Engine
  /-- token signals and credit gives on their way, oldest first (R64) -/
  signals : List Flight
  gives : List Flight
  /-- signals held for engines whose duty is 0 (R450) -/
  heldSignals : List Flight
  /-- channels and board interfaces with a forced disable pending, by page (R494) -/
  forced : List Nat
  mem : Mem
  ports : Sparse Port
  xpt : Xpt
  srv : Srv
  pwr : Pwr
  sec : Sec
  /-- token stream (R304): values of GTX_TS_DEV_PROD whose records wait, with the ticks at which they were written; the tick since which
  the host ring is full, and whether that has raised TS_STALL -/
  tsMarks : List (Word × Nat)
  tsFull : Option (Nat × Bool)
  out : List Out
  /-- number of the next free value (the model's own field) -/
  fresh : Nat
deriving DecidableEq, Repr

/-! ## Reset -/

/-- A slot with no recorded shape (R110). -/
def SlotMeta.empty : SlotMeta := { shape := none, fmt := .open_, flags := 0, poison := 0 }

/-- An engine after reset. -/
def Engine.reset : Engine :=
  { fetched := [], tasks := [], spad := [], spadPoison := [], acc := [], slots := [], xl := [], progress := 0,
    stalled := false, forcePend := false, csw := none, era := some 0, accEra := some 0, passed := [], turned := [] }

/-- A port after reset: DOWN, no lanes trained. -/
def Port.reset : Port :=
  { downAt := 0, enteredAt := 0, retrain := false, own := 0, good := 0, upWidth := 0, cfg := 0, txSeq := 0, rxSeq := 0xFFF, replay := [],
    rxAny := false, tx := [], txNum := 0, rxNum := 0, txScr := 0, rxScr := 0, reversed := false, inverted := 0, limit := 0,
    fallback := false, nakSent := false, replays := 0, ackAt := 0, credit := [], freed := [], txq := [], wrr := (0, 0), rx := [],
    graceful := false, forcePend := false, level := [], xoff := [], paused := [], dropping := [] }

/-- A queue pair in RESET. -/
def Qp.reset : Qp :=
  { state := 0, ctx := [], port := 0, sqTail := 0, sqHead := 0, sqDone := 0, rqTail := 0, rqHead := 0, rqDone := 0,
    npsn := 0, una := 0, epsn := 0, ahead := [], sackSent := [], wqes := [], cwnd := 0, ssthresh := 0, recover := 0, retries := 0,
    rnrs := 0, timerAt := 0, timerMul := 1, rnrWait := none, unacked := 0, ece := false, nakSeq := false,
    shut := false, msn := 0, recv := [], rsigs := [], atomics := [], errStatus := 0, forcePend := false }

/-- A FREE hamper of generation 0. -/
def Hamper.reset : Hamper :=
  { gen := 0, state := 0, endReason := 0, priority := 0, logp := false, import_ := false, fallbackSeen := false,
    ttftMiss := false, hold := 0, customer := 0, pkey := 0, ctx := 0, adapterSlot := 0, adapterEn := false,
    adapterVer := 0, lastToken := 0, hostTag := 0, cdesc := 0, promptAddr := 0, promptLen := 0, promptDone := 0,
    genMax := 0, genCount := 0, seed := 0, temp := 0, topP := 0, topK := 0, nstop := 0, nseq := 0, seqLen0 := 0,
    seqLen1 := 0, ctxMax := 0, stopIds := [], stopSeq := [], arriveTick := 0, firstTick := 0, lastTick := 0,
    deadlineTick := 0, ttftLimit := 0, tbtLimit := 0, maxGap := 0, tbtMisses := 0, prefixKey := [], m0 := 0, m1 := 0,
    reservedPages := 0, len := 0, pages := 0, heldFrom := 0, endOwed := false, moving := false, modelId := [], importAt := 0,
    gens := [], hashes := [], shared := none, retried := false, park := none, copy := none, shadow := 0,
    expired := none, scales := [] }

def Budget.reset : Budget :=
  { rate := 0, burst := 0, balance := 0, last := 0, promptW := 0, unlimited := false, heldSteps := 0 }

def AdapterVer.reset : AdapterVer := { ver := 0, refs := 0, image := 0, vstate := 0, ctx := 0 }

def Adapter.reset : Adapter :=
  { state := 0, rank := 0, cur := 0, vers := List.replicate 4 AdapterVer.reset, top := 0 }

def Bucket.reset : Bucket := { hash := [], dev := 0, holder := 0, block := 0, refs := 0, state := 0 }

def DraftBlock.none_ : DraftBlock := { base := 0, tokens := [], parents := [] }

/-- SRV_CTX_CFG resets to SHARE 1 (Table 16-13). -/
def Ctx.reset : Ctx :=
  { cfg := 1, state := 0, blocked := false, runnable := false, target := false, engines := 0, hdr := 0, data := 0,
    waits := [], blockedAt := 0, runnableAt := 0, quiet := 0, waitHint := 1024, used := 0, yield_ := false,
    leaving := false, moved := 0 }

def StepTimer.reset : StepTimer := { from_ := 0, lost := 0 }

def PtpPort.reset : PtpPort := { seq := 0, sync := none, asked := none, peer := none, delay := none, clock := none }

/-- The tide unit OFF with its count at 0 (Table 19-11). -/
def Tide.reset : Tide :=
  { now := 0, frac := 0, last := 0, latch := 0, silent := 0, holdTicks := 0, epochSeen := 0, epochWait := false,
    loadArmed := false, lockArmed := false, masterArmed := none, offers := [], reqs := [], xseq := 0, reqAt := [], ptp := [], slew := 0,
    jumpDue := false, steps := [], snapTake := false, snapClear := false, snap := [] }

def Commit.reset : Commit := { shadow := [], units := [], scope := [], since := 0, newest := 0, timedOut := false, atTarget := none }

def Mem.reset : Mem :=
  { dram := [], dramPoison := [], dramErr := [], board := [], boardPoison := [], boardErr := [], trained := [], host := [],
    cache := [], wc := [], locks := [], waiting := [], flushing := [], wbOwed := [], lower := [], nextTag := 0, reading := none, got := [], tape := [], tg := [], scrub := [],
    refresh := [], dieWarn := [], walk := [], hubXl := [], brine := [], images := [], moved := [] }

def Xpt.reset : Xpt := { qps := [], jobs := [], jobCount := [], rgn := none, cqOvf := [], fwd := [] }

def Srv.reset : Srv :=
  { hampers := [], budgets := [], adapters := [], drafts := [], prefixes := [],
    basket := { rows := [], start := none, live := false, rerun := false }, rerunAt := none, lastDone := 0, spans := [],
    pool := [], retained := [], ctxs := [], weights := [], golden := [], fences := [], taken := 0, cmds := [], queries := [], tables := [], owed := [], order := 0, rowOrder := 0,
    beats := [], overruns := [], windowAt := 0, acctAt := 0, switches := [],
    loaded := [], blocked := [], energy := 0, carried := [], conns := [] }

def Pwr.reset : Pwr :=
  { powered := true, resetN := true, thermTripN := true, smbAlertN := true, hist := [], trip := none,
    smbOff := 0, tripped := false }

def Sec.reset : Sec :=
  { fuses := [], misread := [], partMode := 0, partUsed := 0, resetWait := false, image := [], viaMbx := false, records := [],
    run := none, secSram := [], srvSram := [], idReady := false, challenge := none, mbxOp := 0, mbxLen := 0, mbxIn := [], mbxOut := [],
    debugSeen := false }

/-- The device right after a cold reset: RESET_N has risen, every register at its reset value, the security core in
FUSE_LOAD, tide OFF, no memory written (R455, R474, R497). -/
def State.reset : State :=
  { pending := [], regs := [], tide := Tide.reset, commit := Commit.reset, evq := [], evtAt := [], logq := [], due := [], engines := [],
    signals := [], gives := [], heldSignals := [], forced := [], mem := Mem.reset, ports := [], xpt := Xpt.reset,
    srv := Srv.reset, pwr := Pwr.reset, sec := Sec.reset, tsMarks := [], tsFull := none, out := [], fresh := 0 }

end Sys2Proof.Machine
end

