-- ==== Sys2Proof/Machine/Ops.lean ====
section
/-! DEFINITION. The named operations that every unit uses: bit fields, registers, events, counters, free values, outputs,
and what part of the state a command may change. -/
namespace Sys2Proof.Machine

/-! ## Bit fields and bytes -/

/-- The field of len bits from bit lo, as a number. -/
def fld {w : Nat} (v : BitVec w) (lo len : Nat) : Nat := v.toNat / 2 ^ lo % 2 ^ len

/-- v with the field of len bits from bit lo set to x. -/
def putFld {w : Nat} (v : BitVec w) (lo len x : Nat) : BitVec w :=
  let m : BitVec w := BitVec.ofNat w ((2 ^ len - 1) * 2 ^ lo)
  (v &&& ~~~m) ||| (BitVec.ofNat w (x % 2 ^ len * 2 ^ lo))

/-- The field of a Nat read as a signed number of len bits. -/
def signed (x len : Nat) : Int := if x % 2 ^ len < 2 ^ (len - 1) then (x % 2 ^ len : Nat) else (x % 2 ^ len : Nat) - 2 ^ len

/-- The n bytes of x, little-endian (R2). -/
def bytesLE (n x : Nat) : List Byte :=
  match n with
  | 0 => []
  | n + 1 => BitVec.ofNat 8 (x % 256) :: bytesLE n (x / 256)

/-- The number that bytes spell, little-endian (R2). -/
def natLE (l : List Byte) : Nat :=
  match l with
  | [] => 0
  | b :: t => b.toNat + 256 * natLE t

/-- Element i of a list, or d. -/
def nth {α : Type} (d : α) (l : List α) (i : Nat) : α := l.getD i d

/-- n bytes of a list from position i, short parts zero. -/
def slice (l : List Byte) (i n : Nat) : List Byte := ((l.drop i).take n) ++ List.replicate (n - (l.length - i)) 0

/-- A list with the bytes b laid over it from position i. -/
def overlay (l : List Byte) (i : Nat) (b : List Byte) : List Byte := l.take i ++ b ++ l.drop (i + b.length)

/-! ## Registers: raw words -/

/-- The stored word at byte offset off of space 3. -/
def State.r32 (s : State) (off : Nat) : Word := Sparse.get Reg.resetWord s.regs (off / 4)

/-- Store a register word. -/
def State.w32 (s : State) (off : Nat) (v : Word) : State :=
  { s with regs := Sparse.set Reg.resetWord s.regs (off / 4) v }

/-- The stored 64-bit register at off. -/
def State.r64 (s : State) (off : Nat) : Dword := s.r32 (off + 4) ++ s.r32 off

/-- Store a 64-bit register. -/
def State.w64 (s : State) (off : Nat) (v : Dword) : State :=
  (s.w32 off (v.setWidth 32)).w32 (off + 4) ((v >>> 32).setWidth 32)

/-- A field of a register. -/
def State.rf (s : State) (off lo len : Nat) : Nat := fld (s.r32 off) lo len

/-- A one-bit field of a register. -/
def State.rb (s : State) (off lo : Nat) : Bool := (s.r32 off).getLsbD lo

/-- Set a field of a register. -/
def State.wf (s : State) (off lo len x : Nat) : State := s.w32 off (putFld (s.r32 off) lo len x)

/-- Set a one-bit field of a register. -/
def State.wb (s : State) (off lo : Nat) (b : Bool) : State := s.wf off lo 1 b.toNat

/-- OR bits into a register. -/
def State.orReg (s : State) (off : Nat) (v : Word) : State := s.w32 off (s.r32 off ||| v)

/-! ## The common header (Table 3-3), by page number -/

def blkCtrl (pn : Nat) : Nat := 0x1000 * pn + 0x10
def blkStat (pn : Nat) : Nat := 0x1000 * pn + 0x14
def blkEvt (pn : Nat) : Nat := 0x1000 * pn + 0x18
def blkEvtMask (pn : Nat) : Nat := 0x1000 * pn + 0x1C
def blkModeShadow (pn : Nat) : Nat := 0x1000 * pn + 0x28
def blkModeActive (pn : Nat) : Nat := 0x1000 * pn + 0x2C
def blkCommitTick (pn : Nat) : Nat := 0x1000 * pn + 0x30
def blkProto (pn : Nat) : Nat := 0x1000 * pn + 0x38
def blkProtoLimit (pn : Nat) : Nat := 0x1000 * pn + 0x3C
def blkProtoActive (pn : Nat) : Nat := 0x1000 * pn + 0x40

/-- Page numbers of the blocks (Table 3-2). -/
def enPage (e : Nat) : Nat := e
def coPage (c : Nat) : Nat := 0x100 + c
def ccPage (c : Nat) : Nat := 0x108 + c
def chPage (ch : Nat) : Nat := 0x1000 + ch
def bmPage (n : Nat) : Nat := 0x200 + n
def fpPage (p : Nat) : Nat := 0x220 + p
def xptPn : Nat := 0x230
def gtxPn : Nat := 0x231
def tidePn : Nat := 0x232
def secPn : Nat := 0x233
def fusePn : Nat := 0x234
def pwrPn : Nat := 0x235
def srvPn : Nat := 0x23C

/-- The unit of a page is enabled and running, or draining (Table 3-7). -/
def State.active (s : State) (pn : Nat) : Bool := s.rb (blkStat pn) 0
/-- BLK_STAT of a unit that stands disabled. -/
def State.statOff (s : State) (pn : Nat) (forced : Bool) : State :=
  ((s.wb (blkStat pn) 0 false).wb (blkStat pn) 1 false).wb (blkStat pn) 2 forced

def State.draining (s : State) (pn : Nat) : Bool := s.rb (blkStat pn) 1

/-! ## Time -/

/-- The tick number, tide[63:10] (R10). -/
def State.tick (s : State) : Nat := s.tide.now.toNat / 1024

/-- TIDE_STAT.STATE (Table 2-5). -/
def State.tideState (s : State) : Nat := s.rf Reg.tideStat 0 3

/-- SEC_BOOT_STAT.STATE (Table 19-1). -/
def State.bootState (s : State) : Nat := s.rf Reg.secBootStat 0 3

/-- The serving cores run: their interrupts, the SRV_ pages and the token stream are active from RELEASED (R455, R469). -/
def State.released (s : State) : Bool := s.bootState == 4

/-- The serving firmware runs (Table 15-14). -/
def State.running (s : State) : Bool := s.rb Reg.srvStat 0

/-! ## Events -/

/-- An event becomes pending in a page: its bit, class and source index (R16, R17). -/
def State.raise (s : State) (pn bit cls src : Nat) : State := { s with evq := s.evq ++ [⟨pn, bit, cls, src⟩] }

/-- Raise where a condition holds. -/
def State.raiseIf (s : State) (c : Bool) (pn bit cls src : Nat) : State := if c then s.raise pn bit cls src else s

/-- An event is sampled: its BLK_EVT bit sets, with the tide of the boundary where the bit was clear (R19, R426). -/
def State.sample (s : State) (pn bit : Nat) : State :=
  if s.rb (blkEvt pn) bit then s
  else
    let s := s.wb (blkEvt pn) bit true
    { s with evtAt := Sparse.set (fun _ => 0) s.evtAt (32 * pn + bit) s.tide.last.toNat }

/-- The order in which simultaneous events are resolved: class, then source index (R17). -/
def Ev.before (a b : Ev) : Bool := a.cls < b.cls || (a.cls == b.cls && a.src ≤ b.src)

/-- Insert an event behind every pending event that is resolved no later. -/
def Ev.insert (e : Ev) (l : List Ev) : List Ev :=
  match l with
  | [] => [e]
  | a :: t => if a.before e then a :: Ev.insert e t else e :: a :: t

/-- Pending events in the order of their resolution (R17): stable by class and source index. -/
def Ev.sort (l : List Ev) : List Ev := l.foldl (fun acc e => Ev.insert e acc) []

/-- Every pending event is sampled, in order (R16, R17). -/
def State.sampleAll (s : State) : State :=
  (Ev.sort s.evq).foldl (fun s e => s.sample e.page e.bit) { s with evq := [] }

/-- BLK_EVT_TICK: the tide of the boundary that sampled the oldest pending event, 0 with none pending (R19). -/
def State.evtTick (s : State) (pn : Nat) : Nat :=
  let at_ := ((List.range 32).filter fun b => s.rb (blkEvt pn) b).map
    fun b => Sparse.get (fun _ => 0) s.evtAt (32 * pn + b)
  match at_ with
  | [] => 0
  | t :: ts => ts.foldl min t

/-- Source index of the unit behind a page (Table 2-3, R493); XPT_ events without a queue pair carry port 0's and
BRD_ instance 16's the brine unit's (DESIGN CHOICE, log 5: the index only orders events of one class). -/
def pageSrc (pn : Nat) : Nat :=
  match Reg.page pn with
  | some (.eng, e) => e
  | some (.core, c) => 281 + c
  | some (.cch, c) => 289 + c
  | some (.stk, ch) => 1024 + ch
  | some (.brd, n) => 265 + n
  | some (.brdTier, _) => 5127
  | some (.fab, n) => 256 + n
  | some (.xpt, _) => 256
  | some (.gtx, _) => 264
  | some (.tide, _) => 5125
  | some (.sec, _) => 5124
  | some (.fuse, _) => 5129
  | some (.pwr, _) => 5126
  | some (.srvCore, n) => 5120 + n
  | some (.srv, _) => 5120
  | none => 5130

/-- Fold an operation over a list. -/
def State.each {α : Type} (s : State) (l : List α) (f : State → α → State) : State := l.foldl f s

/-- Fold an operation over 0 to n - 1. -/
def State.upTo (s : State) (n : Nat) (f : State → Nat → State) : State := (List.range n).foldl f s

/-- Do f where a condition holds. -/
def State.when (s : State) (c : Bool) (f : State → State) : State := if c then f s else s

/-! ## Blanket groups (R49) -/

/-- Members of engine blanket group k (Table 3-12). -/
def State.groupEngines (s : State) (k : Nat) : List Nat :=
  (List.range 256).filter fun e =>
    if k < 8 then e / 32 == k else if k = 8 then true else (s.r32 (Reg.coreBgrpEng (e / 32) (k - 9))).getLsbD (e % 32)

def isBlanket (off : Nat) : Bool := decide (0x300000 ≤ off) && decide (off < 0x320000)
/-- Channels of a blanket group (Table 3-12). -/
def State.groupChannels (s : State) (k : Nat) : List Nat :=
  if k < 8 then (List.range 512).map fun n => 512 * k + n
  else if k = 8 then List.range 4096
  else (List.range 8).flatMap fun c => (List.range 16).flatMap fun m =>
    ((List.range 32).filter fun j => s.rb (Reg.coreBgrpCh c (k - 9) m) j).map fun j => 512 * c + 32 * m + j

/-- Member pages of a blanket page, whose offset is off. -/
def State.blanketPages (s : State) (off : Nat) : List Nat :=
  let k := off / 0x1000 % 16
  if off < 0x310000 then (s.groupEngines k).map enPage else (s.groupChannels k).map chPage

/-- A refused access sets REG_ACCESS in the page that it names: a block's, or every member's of a blanket page, which has none of its own
(R39, R40). -/
def State.refuse (s : State) (off : Nat) : State :=
  if isBlanket off then s.each (s.blanketPages off) fun s pn => s.raise pn 1 10 (pageSrc pn)
  else s.raiseIf (Reg.page (off / 0x1000)).isSome (off / 0x1000) 1 10 (pageSrc (off / 0x1000))

/-- A key is the management partition key, which 0 never is (R40). -/
def State.mgmtKeyed (s : State) (pkey : BitVec 16) : Bool := pkey != 0 && pkey.toNat == s.rf Reg.xptMgmtPkey 0 16

/-- The CNT_OVF bit of a page (Tables 17-9 and 17-10). -/
def cntOvfBit (pn : Nat) : Nat :=
  match Reg.page pn with
  | some (.eng, _) => 24
  | some (.stk, _) => 14
  | some (.core, _) => 11
  | some (.cch, _) => 10
  | some (.brd, _) => 12
  | some (.brdTier, _) => 12
  | some (.fab, _) => 15
  | some (.gtx, _) => 12
  | some (.xpt, _) => 16
  | some (.srv, _) => 16
  | _ => 31

/-- A performance counter after it has counted n: 48 bits that wrap, with the sticky bit 63; and whether it has wrapped
(R430, R431). -/
def countWord (v : Dword) (n : Nat) : Dword × Bool :=
  let c := v.toNat % 2 ^ 48 + n
  if c < 2 ^ 48 then (BitVec.ofNat 64 (v.toNat / 2 ^ 63 * 2 ^ 63 + c), false) else (BitVec.ofNat 64 (2 ^ 63 + c % 2 ^ 48), true)

/-- A performance counter counts n; where it wraps, it raises CNT_OVF (R430, R431). -/
def State.count (s : State) (off n : Nat) : State :=
  let r := countWord (s.r64 off) n
  (s.w64 off r.1).raiseIf r.2 (off / 0x1000) (cntOvfBit (off / 0x1000)) 10 (pageSrc (off / 0x1000))

/-! ## Units -/

def State.engine (s : State) (e : Nat) : Engine := Sparse.get (fun _ => Engine.reset) s.engines e
def State.setEngine (s : State) (e : Nat) (x : Engine) : State :=
  { s with engines := Sparse.set (fun _ => Engine.reset) s.engines e x }
def State.modEngine (s : State) (e : Nat) (f : Engine → Engine) : State := s.setEngine e (f (s.engine e))

def State.port (s : State) (p : Nat) : Port := Sparse.get (fun _ => Port.reset) s.ports p
def State.setPort (s : State) (p : Nat) (x : Port) : State :=
  { s with ports := Sparse.set (fun _ => Port.reset) s.ports p x }
def State.modPort (s : State) (p : Nat) (f : Port → Port) : State := s.setPort p (f (s.port p))

def State.qp (s : State) (n : Nat) : Qp := Sparse.get (fun _ => Qp.reset) s.xpt.qps n
def State.setQp (s : State) (n : Nat) (x : Qp) : State :=
  { s with xpt := { s.xpt with qps := Sparse.set (fun _ => Qp.reset) s.xpt.qps n x } }
def State.modQp (s : State) (n : Nat) (f : Qp → Qp) : State := s.setQp n (f (s.qp n))

def State.hamper (s : State) (i : Nat) : Hamper := Sparse.get (fun _ => Hamper.reset) s.srv.hampers i
def State.setHamper (s : State) (i : Nat) (x : Hamper) : State :=
  { s with srv := { s.srv with hampers := Sparse.set (fun _ => Hamper.reset) s.srv.hampers i x } }
def State.modHamper (s : State) (i : Nat) (f : Hamper → Hamper) : State := s.setHamper i (f (s.hamper i))

def State.modTide (s : State) (f : Tide → Tide) : State := { s with tide := f s.tide }
def State.modCommit (s : State) (f : Commit → Commit) : State := { s with commit := f s.commit }
def State.modMem (s : State) (f : Mem → Mem) : State := { s with mem := f s.mem }
def State.modSrv (s : State) (f : Srv → Srv) : State := { s with srv := f s.srv }
def State.modXpt (s : State) (f : Xpt → Xpt) : State := { s with xpt := f s.xpt }
def State.modPwr (s : State) (f : Pwr → Pwr) : State := { s with pwr := f s.pwr }
def State.modSec (s : State) (f : Sec → Sec) : State := { s with sec := f s.sec }

/-- A value in a sparse map of numbers, flags or absent entries. -/
def natAt (m : Sparse Nat) (k : Nat) : Nat := Sparse.get (fun _ => 0) m k
def setNat (m : Sparse Nat) (k v : Nat) : Sparse Nat := Sparse.set (fun _ => 0) m k v
def flagAt (m : Sparse Bool) (k : Nat) : Bool := Sparse.get (fun _ => false) m k
def setFlag (m : Sparse Bool) (k : Nat) (b : Bool) : Sparse Bool := Sparse.set (fun _ => false) m k b
def optAt {α : Type} (m : Sparse (Option α)) (k : Nat) : Option α := Sparse.get (fun _ => none) m k
def setOpt {α : Type} [DecidableEq α] (m : Sparse (Option α)) (k : Nat) (v : Option α) : Sparse (Option α) :=
  Sparse.set (fun _ => none) m k v

/-! ## Free values and outputs -/

/-- The next free value. -/
def State.free (s : State) : Nat := Config.free s.fresh

/-- The free value at hand has been used. -/
def State.drawn (s : State) : State := { s with fresh := s.fresh + 1 }

/-- n bytes that nothing constrains. -/
def State.freeBytes (s : State) (n : Nat) : List Byte :=
  (List.range n).map fun i => BitVec.ofNat 8 (Config.free (s.fresh + i))

/-- n free bytes have been used. -/
def State.drawnN (s : State) (n : Nat) : State := { s with fresh := s.fresh + n }

/-- The device sends or answers. -/
def State.emit (s : State) (o : Out) : State := { s with out := o :: s.out }

/-! ## What a command may change -/

/-- The parts of the state that a command may change. Outputs and the number of the next free value are in every
command's reach; the queue of waiting commands is in none's. -/
structure Footprint where
  regs : Bool := false
  tide : Bool := false
  commit : Bool := false
  events : Bool := false
  engines : Bool := false
  flights : Bool := false
  forced : Bool := false
  mem : Bool := false
  ports : Bool := false
  xpt : Bool := false
  srv : Bool := false
  pwr : Bool := false
  sec : Bool := false
  tokens : Bool := false
deriving DecidableEq, Repr

/-- The state t inside a footprint, the state s outside it. -/
def Footprint.apply (fp : Footprint) (s t : State) : State :=
  { pending := s.pending
    regs := if fp.regs then t.regs else s.regs
    tide := if fp.tide then t.tide else s.tide
    commit := if fp.commit then t.commit else s.commit
    evq := if fp.events then t.evq else s.evq
    evtAt := if fp.events then t.evtAt else s.evtAt
    logq := if fp.events then t.logq else s.logq
    due := s.due
    engines := if fp.engines then t.engines else s.engines
    signals := if fp.flights then t.signals else s.signals
    gives := if fp.flights then t.gives else s.gives
    heldSignals := if fp.flights then t.heldSignals else s.heldSignals
    forced := if fp.forced then t.forced else s.forced
    mem := if fp.mem then t.mem else s.mem
    ports := if fp.ports then t.ports else s.ports
    xpt := if fp.xpt then t.xpt else s.xpt
    srv := if fp.srv then t.srv else s.srv
    pwr := if fp.pwr then t.pwr else s.pwr
    sec := if fp.sec then t.sec else s.sec
    tsMarks := if fp.tokens then t.tsMarks else s.tsMarks
    tsFull := if fp.tokens then t.tsFull else s.tsFull
    out := t.out
    fresh := t.fresh }

/-- An operation that answers, within a footprint. -/
def Footprint.of {α : Type} (fp : Footprint) (s : State) (r : State × α) : State × α := (fp.apply s r.1, r.2)

/-- What an access to the memories of the device or of its host may change. -/
def lowFoot : Footprint := { regs := true, events := true, mem := true, ports := true }

/-- What a task that reaches memory or the host may change. -/
def moveFoot : Footprint := { regs := true, events := true, engines := true, mem := true, ports := true }

/-- f, whose changes lie inside a footprint. -/
def State.within (s : State) (fp : Footprint) (f : State → State) : State := fp.apply s (f s)

end Sys2Proof.Machine
end

