-- ==== Sys2Proof/Machine/Keccak.lean ====
section
/-! DEFINITION. SHAKE256 and SHAKE128 (FIPS 202), which the prefix index, the boot of images, the identity and the signatures use. -/
namespace Sys2Proof.Machine

/-- The walk of rho (FIPS 202, 3.2.2): lane index x + 5 y and rotation of each step t from a place. -/
def rhoWalk (n t x y : Nat) : List (Nat × Nat) :=
  match n with
  | 0 => []
  | n + 1 => (x + 5 * y, (t + 1) * (t + 2) / 2 % 64) :: rhoWalk n (t + 1) y ((2 * x + 3 * y) % 5)

/-- Rotation offset of lane x + 5 y; lane 0 stays. -/
def keccakRot : List Nat :=
  let walk := rhoWalk 24 0 1 0
  (List.range 25).map fun i => match walk.find? fun p => p.1 == i with
    | some p => p.2
    | none => 0

/-- The bits rc(t), rc(t + 1), ... of iota (FIPS 202, algorithm 5): the feedback register stands for x^t modulo
x^8 + x^6 + x^5 + x^4 + 1. -/
def iotaBits (n r : Nat) : List Bool :=
  match n with
  | 0 => []
  | n + 1 => (r % 2 == 1) :: iotaBits n (if 128 ≤ r then Nat.xor (2 * r) 0x171 else 2 * r)

/-- Round constants: bit 2^j - 1 of that of round i is rc(j + 7 i). -/
def keccakRc : List Dword :=
  let bits := iotaBits 168 1
  (List.range 24).map fun i =>
    BitVec.ofNat 64 ((List.range 7).map fun j => if nth false bits (j + 7 * i) then 2 ^ (2 ^ j - 1) else 0).sum

/-- One round on the 25 lanes. -/
def keccakRound (a : List Dword) (rc : Dword) : List Dword :=
  let at_ (l : List Dword) (i : Nat) : Dword := nth 0 l i
  let c := (List.range 5).map fun x => at_ a x ^^^ at_ a (x + 5) ^^^ at_ a (x + 10) ^^^ at_ a (x + 15) ^^^ at_ a (x + 20)
  let d := (List.range 5).map fun x => at_ c ((x + 4) % 5) ^^^ (at_ c ((x + 1) % 5)).rotateLeft 1
  let t := (List.range 25).map fun i => at_ a i ^^^ at_ d (i % 5)
  let b := (List.range 25).map fun i =>
    let j := (i % 5 + 3 * (i / 5)) % 5 + 5 * (i % 5)
    (at_ t j).rotateLeft (nth 0 keccakRot j)
  let e := (List.range 25).map fun i =>
    let y := 5 * (i / 5)
    at_ b i ^^^ (~~~(at_ b (y + (i + 1) % 5)) &&& at_ b (y + (i + 2) % 5))
  match e with
  | [] => []
  | h :: r => (h ^^^ rc) :: r

/-- The permutation. -/
def keccakF (a : List Dword) : List Dword := keccakRc.foldl keccakRound a

/-- The lanes of bytes. -/
def keccakLanes (b : List Byte) (n : Nat) : List Dword := (List.range n).map fun i => BitVec.ofNat 64 (natLE (slice b (8 * i) 8))

/-- A block of rate bytes is absorbed. -/
def keccakAbsorb (rate : Nat) (a : List Dword) (b : List Byte) : List Dword :=
  let lanes := keccakLanes b (rate / 8)
  keccakF ((List.range 25).map fun i => nth 0 a i ^^^ nth 0 lanes i)

/-- The message with the padding of a SHAKE. -/
def shakePad (rate : Nat) (m : List Byte) : List Byte :=
  let k := rate - m.length % rate
  if k = 1 then m ++ [0x9F] else m ++ [0x1F] ++ List.replicate (k - 2) 0 ++ [0x80]

/-- Blocks of output. -/
def keccakSqueeze (rate blocks : Nat) (a : List Dword) : List Byte :=
  match blocks with
  | 0 => []
  | n + 1 => (a.flatMap fun w => bytesLE 8 w.toNat).take rate ++ keccakSqueeze rate n (keccakF a)

/-- n bytes of output of the sponge with a rate in bytes. -/
def shake (rate : Nat) (m : List Byte) (n : Nat) : List Byte :=
  let p := shakePad rate m
  let a := (List.range (p.length / rate)).foldl (fun a i => keccakAbsorb rate a (slice p (rate * i) rate)) (List.replicate 25 0)
  (keccakSqueeze rate ((n + rate - 1) / rate) a).take n

/-- SHAKE256 and SHAKE128. -/
def shake256 (m : List Byte) (n : Nat) : List Byte := shake 136 m n
def shake128 (m : List Byte) (n : Nat) : List Byte := shake 168 m n

end Sys2Proof.Machine
end

