-- ==== Sys2Proof/Machine/Flags.lean ====
section
/-! DEFINITION. The numeric flag byte (R101, Table 5-8) and where its flags are gathered. -/
namespace Sys2Proof.Machine

/-- The numeric flag byte (Table 5-8). -/
abbrev Flags := BitVec 8

def Flags.none : Flags := 0
def Flags.invalid : Flags := 0x01
def Flags.overflow : Flags := 0x02
def Flags.underflow : Flags := 0x04
def Flags.flushed : Flags := 0x08
def Flags.intSat : Flags := 0x10
def Flags.intWrap : Flags := 0x20
def Flags.clip : Flags := 0x40
def Flags.badScale : Flags := 0x80

/-- A flag where a condition holds. -/
def Flags.when (c : Bool) (f : Flags) : Flags := if c then f else 0

/-- Every flag raised by a unit of an engine is ORed into ENG_NUM_STICKY; a bit that goes from 0 to 1 while
ENG_NUM_EVT_SEL selects it raises NUM, class 10 (R101, R102). -/
def State.numFlags (s : State) (e : Nat) (f : Flags) : State :=
  let old := s.r32 (Reg.engNumSticky e)
  let fresh := f.setWidth 32 &&& ~~~old &&& s.r32 (Reg.engNumEvtSel e)
  (s.w32 (Reg.engNumSticky e) (old ||| f.setWidth 32)).raiseIf (fresh != 0) (enPage e) 16 10 e

/-- Every flag of a near-memory addition is ORed into STK_NMA_FLAGS of the channel; a bit that goes from 0 to 1 raises
NMA_FLAG, class 10 (R230). -/
def State.nmaFlags (s : State) (ch : Nat) (f : Flags) : State :=
  let old := s.r32 (Reg.stkNmaFlags ch)
  (s.w32 (Reg.stkNmaFlags ch) (old ||| f.setWidth 32)).raiseIf (f.setWidth 32 &&& ~~~old != 0)
    (chPage ch) 10 10 (1024 + ch)

end Sys2Proof.Machine
end

