-- ==== Sys2Proof/Machine/Num.lean ====
section
/-! DEFINITION. Numbers (Number Formats and Quantisation): the formats of Table 5-1, exact arithmetic on their values,
and the one rounding of R81 to R84 that every result and every conversion goes through. -/
namespace Sys2Proof.Machine

/-- The formats of Table 5-1. -/
inductive Fmt where
  | e4m3 | e5m2 | fp16 | bf16 | fp32 | e3m2 | e2m1 | spine
deriving DecidableEq, Repr

/-- Width of the exponent field, of the mantissa field, and the bias (Table 5-1). -/
def Fmt.ebits : Fmt → Nat
  | .e4m3 => 4 | .e5m2 => 5 | .fp16 => 5 | .bf16 => 8 | .fp32 => 8 | .e3m2 => 3 | .e2m1 => 2 | .spine => 8
def Fmt.mbits : Fmt → Nat
  | .e4m3 => 3 | .e5m2 => 2 | .fp16 => 10 | .bf16 => 7 | .fp32 => 23 | .e3m2 => 2 | .e2m1 => 1 | .spine => 13
def Fmt.bias : Fmt → Nat
  | .e4m3 => 7 | .e5m2 => 15 | .fp16 => 15 | .bf16 => 127 | .fp32 => 127 | .e3m2 => 3 | .e2m1 => 1 | .spine => 127
/-- Bits of an encoding. -/
def Fmt.width (f : Fmt) : Nat := 1 + f.ebits + f.mbits
/-- The formats whose top exponent holds infinities and NaNs. -/
def Fmt.hasInf : Fmt → Bool
  | .e5m2 | .fp16 | .bf16 | .fp32 | .spine => true | _ => false
/-- Encoding of the largest finite magnitude (Table 5-1). -/
def Fmt.maxCode : Fmt → Nat
  | .e4m3 => 0x7E | .e5m2 => 0x7B | .fp16 => 0x7BFF | .bf16 => 0x7F7F | .fp32 => 0x7F7FFFFF | .e3m2 => 0x1F
  | .e2m1 => 7 | .spine => 0x1FDFFF
/-- The canonical NaN (R80); the code formats have none. -/
def Fmt.nanCode : Fmt → Nat
  | .e4m3 => 0x7F | .e5m2 => 0x7E | .fp16 => 0x7E00 | .bf16 => 0x7FC0 | .fp32 => 0x7FC00000 | .e3m2 => 0 | .e2m1 => 0
  | .spine => 0x1FF000

/-- A value: NaN, an infinity, or the exact number ±m × 2^e; zeros keep their sign. -/
inductive Val where
  | nan
  | inf (neg : Bool)
  | fin (neg : Bool) (m : Nat) (e : Int)
deriving DecidableEq, Repr

/-- A value with the flags raised on the way. -/
structure VF where
  v : Val
  f : Flags
deriving DecidableEq, Repr

/-- An encoding with the flags raised on the way. -/
structure NF where
  n : Nat
  f : Flags
deriving DecidableEq, Repr

/-- The value of an encoding (R79). -/
def decodeFloat (f : Fmt) (x : Nat) : Val :=
  let m := x % 2 ^ f.mbits
  let e := x / 2 ^ f.mbits % 2 ^ f.ebits
  let neg := x / 2 ^ (f.mbits + f.ebits) % 2 = 1
  if f.hasInf ∧ e = 2 ^ f.ebits - 1 then if m = 0 then .inf neg else .nan
  else if f = .e4m3 ∧ e = 15 ∧ m = 7 then .nan
  else if e = 0 then .fin neg m (1 - (f.bias : Int) - f.mbits)
  else .fin neg (2 ^ f.mbits + m) ((e : Int) - f.bias - f.mbits)

/-- Whether an encoding is subnormal. -/
def isSubnormal (f : Fmt) (x : Nat) : Bool :=
  x / 2 ^ f.mbits % 2 ^ f.ebits = 0 && x % 2 ^ f.mbits ≠ 0

/-- An operand as a unit under the flush mode reads it (R84). -/
def readFloat (f : Fmt) (flush : Bool) (x : Nat) : VF :=
  if flush && isSubnormal f x then ⟨.fin (x / 2 ^ (f.width - 1) % 2 = 1) 0 0, Flags.flushed⟩ else ⟨decodeFloat f x, 0⟩

/-- m × 2^(-s) rounded to an integer: to nearest with ties to even (R82), or toward zero. -/
def roundShift (rz : Bool) (m s : Nat) : Nat :=
  let q := m / 2 ^ s
  let r := m % 2 ^ s
  if rz ∨ s = 0 then q
  else if 2 * r > 2 ^ s ∨ (2 * r = 2 ^ s ∧ q % 2 = 1) then q + 1 else q

/-- Round a value to a format: R82 (or toward zero), R81 on overflow, R83 or, with flush, R84 when tiny. -/
def roundFloat (f : Fmt) (rz flush : Bool) (v : Val) : NF :=
  match v with
  | .nan => ⟨f.nanCode, 0⟩
  | .inf neg =>
    let sg := if neg then 2 ^ (f.width - 1) else 0
    if f.hasInf then ⟨sg + (2 ^ f.ebits - 1) * 2 ^ f.mbits, 0⟩ else ⟨sg + f.maxCode, Flags.overflow⟩
  | .fin neg m e =>
    let sg := if neg then 2 ^ (f.width - 1) else 0
    if m = 0 then ⟨sg, 0⟩
    else
      let top : Int := e + (Nat.log2 m : Nat)
      let emin : Int := 1 - f.bias
      let tiny := decide (top < emin)
      if tiny && flush then ⟨sg, Flags.flushed⟩
      else
        let q : Int := max top emin - f.mbits
        let exact := decide (q ≤ e) || m % 2 ^ (q - e).toNat == 0
        let n := if q ≤ e then m * 2 ^ (e - q).toNat else roundShift rz m (q - e).toNat
        -- a carry out of the mantissa moves to the next binade
        let code :=
          if n < 2 ^ f.mbits then n
          else if n < 2 ^ (f.mbits + 1) then (q + f.mbits + f.bias).toNat * 2 ^ f.mbits + (n - 2 ^ f.mbits)
          else (q + f.mbits + f.bias + 1).toNat * 2 ^ f.mbits + (n / 2 - 2 ^ f.mbits)
        if code > f.maxCode then ⟨sg + f.maxCode, Flags.overflow⟩
        else ⟨sg + code, Flags.when (tiny && !exact) Flags.underflow⟩

/-- Sign, negation and order. -/
def Val.isNeg : Val → Bool
  | .nan => false | .inf n => n | .fin n _ _ => n
def Val.neg : Val → Val
  | .nan => .nan | .inf n => .inf (!n) | .fin n m e => .fin (!n) m e
def Val.abs : Val → Val
  | .nan => .nan | .inf _ => .inf false | .fin _ m e => .fin false m e
def Val.isNan : Val → Bool
  | .nan => true | _ => false
def Val.isZero : Val → Bool
  | .fin _ 0 _ => true | _ => false
def Val.isInf : Val → Bool
  | .inf _ => true | _ => false

/-- The signed mantissa of a finite value brought to exponent e (no larger than its own). -/
def Val.scaled (v : Val) (e : Int) : Int :=
  match v with
  | .fin n m x => let k : Int := (m * 2 ^ (x - e).toNat : Nat); if n then -k else k
  | _ => 0

/-- A value from a signed mantissa; zero has the given sign. -/
def Val.ofInt (zneg : Bool) (k e : Int) : Val :=
  if k = 0 then .fin zneg 0 0 else .fin (decide (k < 0)) k.natAbs e

/-- a < b for values that are not NaN. -/
def Val.lt (a b : Val) : Bool :=
  match a, b with
  | .inf true, .inf true => false
  | .inf true, .nan => false
  | .inf true, _ => true
  | .inf false, _ => false
  | .fin .., .inf n => !n
  | .fin n m x, .fin n' m' x' =>
    let e := min x x'
    decide ((Val.fin n m x).scaled e < (Val.fin n' m' x').scaled e)
  | _, _ => false

/-- The larger and the smaller of two values that are not NaN, the first on a tie. -/
def Val.maxOf (a b : Val) : Val := if a.lt b then b else a
def Val.minOf (a b : Val) : Val := if b.lt a then b else a

/-- The exact sum: ∞ - ∞ is NaN and raises INVALID (R80); an exact zero sum is +0 unless both operands are -0. -/
def Val.add (a b : Val) : VF :=
  match a, b with
  | .nan, _ => ⟨.nan, 0⟩
  | _, .nan => ⟨.nan, 0⟩
  | .inf n, .inf n' => if n = n' then ⟨.inf n, 0⟩ else ⟨.nan, Flags.invalid⟩
  | .inf n, _ => ⟨.inf n, 0⟩
  | _, .inf n => ⟨.inf n, 0⟩
  | .fin n m x, .fin n' m' x' =>
    let e := min x x'
    ⟨Val.ofInt (n && n') ((Val.fin n m x).scaled e + (Val.fin n' m' x').scaled e) e, 0⟩

def Val.sub (a b : Val) : VF := a.add b.neg

/-- The exact product: 0 × ∞ is NaN and raises INVALID (R80). -/
def Val.mul (a b : Val) : VF :=
  match a, b with
  | .nan, _ => ⟨.nan, 0⟩
  | _, .nan => ⟨.nan, 0⟩
  | .inf n, .inf n' => ⟨.inf (n != n'), 0⟩
  | .inf n, .fin n' m _ => if m = 0 then ⟨.nan, Flags.invalid⟩ else ⟨.inf (n != n'), 0⟩
  | .fin n m _, .inf n' => if m = 0 then ⟨.nan, Flags.invalid⟩ else ⟨.inf (n != n'), 0⟩
  | .fin n m x, .fin n' m' x' => ⟨.fin (n != n') (m * m') (x + x'), 0⟩

/-- The exact a × b + c; a NaN addend yields NaN with no flag of the product (R80). -/
def Val.fma (a b c : Val) : VF :=
  let p := a.mul b
  let r := p.v.add c
  if c.isNan then ⟨.nan, 0⟩ else ⟨r.v, p.f ||| r.f⟩

/-- a × 2^k. -/
def Val.shift (a : Val) (k : Int) : Val :=
  match a with
  | .fin n m e => .fin n m (e + k)
  | v => v

/-- The quotient to 96 bits with a sticky bit, which rounds as the exact quotient in every format here: 0/0 and ∞/∞ are
NaN with INVALID; a finite value over zero is an infinity. -/
def Val.div (a b : Val) : VF :=
  match a, b with
  | .nan, _ => ⟨.nan, 0⟩
  | _, .nan => ⟨.nan, 0⟩
  | .inf _, .inf _ => ⟨.nan, Flags.invalid⟩
  | .inf n, .fin n' _ _ => ⟨.inf (n != n'), 0⟩
  | .fin n _ _, .inf n' => ⟨.fin (n != n') 0 0, 0⟩
  | .fin n m x, .fin n' m' x' =>
    if m' = 0 then (if m = 0 then ⟨.nan, Flags.invalid⟩ else ⟨.inf (n != n'), 0⟩)
    else if m = 0 then ⟨.fin (n != n') 0 0, 0⟩
    else
      let k := 96 + Nat.log2 m'
      let q := m * 2 ^ k / m'
      let st := if m * 2 ^ k % m' = 0 then 0 else 1
      ⟨.fin (n != n') (2 * q + st) (x - x' - k - 1), 0⟩

/-- The largest finite value with a sign, raising OVERFLOW (R81, R133). -/
def maxResult (f : Fmt) (neg : Bool) : NF :=
  ⟨(if neg then 2 ^ (f.width - 1) else 0) + f.maxCode, Flags.overflow⟩

/-- A quotient in a format: a finite non-zero value over zero is the largest finite value, with OVERFLOW (R81, R133). -/
def laneDiv (f : Fmt) (rtz flush : Bool) (a b : Val) : NF :=
  if b.isZero ∧ !a.isZero ∧ !a.isNan ∧ !a.isInf then maxResult f (a.isNeg != b.isNeg)
  else
    let r := a.div b
    let o := roundFloat f rtz flush r.v
    ⟨o.n, r.f ||| o.f⟩

/-- The integer square root by its bits, from bit i down. -/
def isqrtFrom (n : Nat) (i r : Nat) : Nat :=
  match i with
  | 0 => r
  | i + 1 => let t := r + 2 ^ i; isqrtFrom n i (if t * t ≤ n then t else r)

def isqrt (n : Nat) : Nat := isqrtFrom n (Nat.log2 n / 2 + 1) 0

/-- The square root with a sticky bit: a negative value gives NaN with INVALID; -0 gives -0. -/
def Val.sqrt (a : Val) : VF :=
  match a with
  | .nan => ⟨.nan, 0⟩
  | .inf n => if n then ⟨.nan, Flags.invalid⟩ else ⟨.inf false, 0⟩
  | .fin n m e =>
    if m = 0 then ⟨.fin n 0 0, 0⟩
    else if n then ⟨.nan, Flags.invalid⟩
    else
      let k : Nat := 128 + (if e % 2 = 0 then 0 else 1)
      let w := m * 2 ^ k
      let r := isqrt w
      let st := if r * r = w then 0 else 1
      ⟨.fin false (2 * r + st) ((e - k) / 2 - 1), 0⟩

/-- A finite value as an integer rounded to nearest even or toward zero. -/
def Val.toInt (rz : Bool) (v : Val) : Int :=
  match v with
  | .fin n m e =>
    let k : Int := if 0 ≤ e then ((m * 2 ^ e.toNat : Nat) : Int) else (roundShift rz m (-e).toNat : Nat)
    if n then -k else k
  | _ => 0

/-- An integer as a value. -/
def Val.int (k : Int) : Val := Val.ofInt false k 0

/-- Ends of a signed integer range of w bits. -/
def intMax (w : Nat) : Int := 2 ^ (w - 1) - 1
def intMin (w : Nat) : Int := -(2 ^ (w - 1))

/-- An integer result outside its range: the nearest end with INT_SAT, or modulo 2^w with INT_WRAP (R86). -/
def intResult (w : Nat) (iovf : Bool) (k : Int) : NF :=
  if intMin w ≤ k ∧ k ≤ intMax w then ⟨(k % 2 ^ w).toNat, 0⟩
  else if iovf then ⟨(k % 2 ^ w).toNat, Flags.intWrap⟩
  else ⟨((if k < 0 then intMin w else intMax w) % 2 ^ w).toNat, Flags.intSat⟩

/-- A float as an integer of w bits: saturating, NaN to 0 with INVALID (R88). -/
def floatToInt (w : Nat) (rz : Bool) (v : Val) : NF :=
  match v with
  | .nan => ⟨0, Flags.invalid⟩
  | .inf n => ⟨((if n then intMin w else intMax w) % 2 ^ w).toNat, Flags.intSat⟩
  | _ => intResult w false (v.toInt rz)

/-- Encoding-level operations, one rounding each (R82). -/
def fadd (f : Fmt) (flush : Bool) (x y : Nat) : NF :=
  let a := readFloat f flush x
  let b := readFloat f flush y
  let r := a.v.add b.v
  let o := roundFloat f false flush r.v
  ⟨o.n, a.f ||| b.f ||| r.f ||| o.f⟩

def fsub (f : Fmt) (flush : Bool) (x y : Nat) : NF :=
  let a := readFloat f flush x
  let b := readFloat f flush y
  let r := a.v.sub b.v
  let o := roundFloat f false flush r.v
  ⟨o.n, a.f ||| b.f ||| r.f ||| o.f⟩

def fmul (f : Fmt) (flush : Bool) (x y : Nat) : NF :=
  let a := readFloat f flush x
  let b := readFloat f flush y
  let r := a.v.mul b.v
  let o := roundFloat f false flush r.v
  ⟨o.n, a.f ||| b.f ||| r.f ||| o.f⟩

/-- x × y + z with one rounding. -/
def ffma (f : Fmt) (flush : Bool) (x y z : Nat) : NF :=
  let a := readFloat f flush x
  let b := readFloat f flush y
  let c := readFloat f flush z
  let r := a.v.fma b.v c.v
  let o := roundFloat f false flush r.v
  ⟨o.n, a.f ||| b.f ||| c.f ||| r.f ||| o.f⟩

/-- A conversion between float formats (Table 5-3). -/
def fconv (src dst : Fmt) (rz flush : Bool) (x : Nat) : NF :=
  let a := readFloat src flush x
  let o := roundFloat dst rz flush a.v
  ⟨o.n, a.f ||| o.f⟩

end Sys2Proof.Machine
end

