-- ==== Sys2Proof/Machine/Approx.lean ====
section
/-! DEFINITION. Approximated functions (R133, R143, R146, R161): a reference to about 190 bits, rounded once, and the free
choice among the results that the spec's error bound allows. -/
namespace Sys2Proof.Machine

/-! ## Fixed point with 192 fraction bits -/

def fxOne : Nat := 2 ^ 192
/-- ln 2, log2 e and π in fixed point; 2π with 448 fraction bits. -/
def fxLn2 : Nat := 4350955369971217654477563090224794165364344896676135745069
def fxLog2e : Nat := 9055943544797870567083544809312461607371518589544137143473
def fxPi : Nat := 19720096697726538562396133364228268891463450865190089732560
def fxTwoPi448 : Nat := 4566862393183311545136586385275626325979010364403615240910923007294927348704183561896165620001627500923357439693279426958231691379384762

/-- A finite value at 192 fraction bits, rounded down. -/
def fxOf (v : Val) : Int :=
  match v with
  | .fin n m e =>
    let k : Int := e + 192
    let a : Nat := if 0 ≤ k then m * 2 ^ k.toNat else m / 2 ^ (-k).toNat
    if n then -(a : Int) else (a : Int)
  | _ => 0

/-- Terms of e^t for t in fixed point below 1, from term number i on. -/
def fxExpTerms (fuel i term t : Nat) : Nat :=
  match fuel with
  | 0 => 0
  | fuel + 1 => term + fxExpTerms fuel (i + 1) (term * t / fxOne / (i + 1)) t

/-- 2^(x / 2^192) for an integer x, as a value with a sticky bit. -/
def exp2Fx (x : Int) : Val :=
  if x ≥ 2 ^ 202 then .fin false 1 1024
  else if x ≤ -(2 ^ 202) then .fin false 1 (-1024)
  else
    let n := x / 2 ^ 192
    let f := (x % 2 ^ 192).toNat
    if f = 0 then .fin false 1 n
    else .fin false (2 * fxExpTerms 60 0 fxOne (f * fxLn2 / fxOne) + 1) (n - 193)

/-- 2^v and e^v of a finite value. -/
def exp2Val (v : Val) : Val := exp2Fx (fxOf v)
def expVal (v : Val) : Val := exp2Fx (fxOf v * fxLog2e / 2 ^ 192)

/-- Terms of atanh u / u by powers of u², from term number i on. -/
def fxAtanhTerms (fuel i p u2 : Nat) : Nat :=
  match fuel with
  | 0 => 0
  | fuel + 1 => p / (2 * i + 1) + fxAtanhTerms fuel (i + 1) (p * u2 / fxOne) u2

/-- ln z in fixed point for z in fixed point near 1. -/
def fxLnNear (z : Nat) : Int :=
  let neg := decide (z < fxOne)
  let d := if neg then fxOne - z else z - fxOne
  let u := d * fxOne / (z + fxOne)
  let s : Int := (2 * u * fxAtanhTerms 48 0 fxOne (u * u / fxOne) / fxOne : Nat)
  if neg then -s else s

/-- Exponent n and mantissa z near 1 with v = z × 2^n, for a positive finite value. -/
def splitNear1 (m : Nat) (e : Int) : Int × Nat :=
  let l := Nat.log2 m
  let z := m * fxOne / 2 ^ l
  if 2 * z ≤ 3 * fxOne then (e + l, z) else (e + l + 1, z / 2)

/-- A fixed-point number as a value, with a sticky bit unless it is exact. -/
def fxVal (exact : Bool) (k : Int) : Val :=
  if exact then Val.ofInt false k (-192) else Val.ofInt false (if k < 0 then 2 * k - 1 else 2 * k + 1) (-193)

/-- log2 and ln of a positive finite value. -/
def log2Val (m : Nat) (e : Int) : Val :=
  let x := splitNear1 m e
  fxVal (x.2 == fxOne) (x.1 * 2 ^ 192 + fxLnNear x.2 * fxLog2e / 2 ^ 192)
def lnVal (m : Nat) (e : Int) : Val :=
  let x := splitNear1 m e
  fxVal (x.1 == 0 && x.2 == fxOne) (x.1 * fxLn2 + fxLnNear x.2)

/-- sin or cos terms of r in fixed point: alternating p, p r²/(i(i+1)) … -/
def fxTrigTerms (fuel i p r2 : Nat) : Int :=
  match fuel with
  | 0 => 0
  | fuel + 1 => (p : Int) - fxTrigTerms fuel (i + 2) (p * r2 / fxOne / (i * (i + 1))) r2

def fxSin (r : Nat) : Int := fxTrigTerms 40 2 r (r * r / fxOne)
def fxCos (r : Nat) : Int := fxTrigTerms 40 1 fxOne (r * r / fxOne)

/-- cos and sin of m × 2^e reduced modulo 2π. -/
def cosSin (neg : Bool) (m : Nat) (e : Int) : Val × Val :=
  let k : Int := e + 448
  let a : Nat := if 0 ≤ k then m * 2 ^ k.toNat else m / 2 ^ (-k).toNat
  let t := a % fxTwoPi448 / 2 ^ 256
  let h := fxPi / 2
  let q := t / h % 4
  let r := t - t / h * h
  let cs : Int × Int := match q with
    | 0 => (fxCos r, fxSin r)
    | 1 => (-fxSin r, fxCos r)
    | 2 => (-fxCos r, -fxSin r)
    | _ => (fxSin r, -fxCos r)
  let s := if neg then -cs.2 else cs.2
  if m = 0 then (Val.int 1, .fin neg 0 0) else (fxVal false cs.1, fxVal false s)

/-! ## The choice within a bound -/

/-- c lies within n units in the last place of ref, on its side of zero, and is a result the unit may write. -/
def ulpOk (f : Fmt) (flush : Bool) (n ref c : Nat) : Bool :=
  let sg := 2 ^ (f.width - 1)
  c / sg == ref / sg && decide (c % sg ≤ ref % sg + n) && decide (ref % sg ≤ c % sg + n) && decide (c % sg ≤ f.maxCode)
    && !(flush && isSubnormal f c)

/-- c lies within 2^-k of ref. -/
def absOk (f : Fmt) (flush : Bool) (k : Nat) (ref c : Nat) : Bool :=
  let sg := 2 ^ (f.width - 1)
  let d := ((decodeFloat f c).sub (decodeFloat f ref)).v.abs
  decide (c % sg ≤ f.maxCode) && !(flush && isSubnormal f c) && !(Val.lt (.fin false 1 (-(k : Int))) d)

/-- The result of an approximating unit: any encoding that ok allows, as Config.approx chooses, else the reference. -/
def approxPick (op operand width : Nat) (ok : Nat → Bool) (ref : Nat) : Nat :=
  let c := Config.approx op operand % 2 ^ width
  if ok c then c else ref

/-- Round a reference to a format and let the unit choose within n ulp (0: none) or, with absK, within 2^-absK. -/
def approxResult (f : Fmt) (flush : Bool) (op operand n : Nat) (absK : Option Nat) (v : Val) : NF :=
  let o := roundFloat f false flush v
  ⟨approxPick op operand f.width (fun c => ulpOk f flush n o.n c ||
    match absK with | some k => absOk f flush k o.n c | none => false) o.n, o.f⟩

def exactResult (f : Fmt) (v : Val) (fl : Flags) : NF := ⟨(roundFloat f false false v).n, fl⟩

/-- EXP2 and EXP, at most 2 ulp (Table 7-6). -/
def approxExp (f : Fmt) (flush base2 : Bool) (x : Val) : NF :=
  match x with
  | .nan => exactResult f .nan 0
  | .inf n => exactResult f (if n then .fin false 0 0 else .inf false) 0
  | v => approxResult f flush (if base2 then 0x10 else 0x18) (roundFloat .fp32 false false v).n 2 none
      (if base2 then exp2Val v else expVal v)

/-- SAMPLE's exp, correctly rounded to FP32 (R146, R82). -/
def expFp32 (flush : Bool) (x : Val) : NF :=
  match x with
  | .nan => exactResult .fp32 .nan 0
  | .inf n => exactResult .fp32 (if n then .fin false 0 0 else .inf false) 0
  | v => roundFloat .fp32 false flush (expVal v)

/-- SAMPLE's ln, correctly rounded to FP32 (R146, R82). -/
def lnFp32 (flush : Bool) (x : Val) : NF :=
  match x with
  | .nan => exactResult .fp32 .nan 0
  | .inf n => if n then exactResult .fp32 .nan Flags.invalid else exactResult .fp32 (.inf false) 0
  | .fin n m e =>
    if m = 0 then maxResult .fp32 true
    else if n then exactResult .fp32 .nan Flags.invalid
    else roundFloat .fp32 false flush (lnVal m e)

/-- LOG2, at most 2 ulp. -/
def approxLog (f : Fmt) (flush : Bool) (x : Val) : NF :=
  match x with
  | .nan => exactResult f .nan 0
  | .inf n => if n then exactResult f .nan Flags.invalid else exactResult f (.inf false) 0
  | .fin n m e =>
    if m = 0 then maxResult f true
    else if n then exactResult f .nan Flags.invalid
    else approxResult f flush 0x11 (roundFloat .fp32 false false x).n 2 none (log2Val m e)

/-- RCP and RSQRT, at most 1 ulp. -/
def approxRcp (f : Fmt) (flush root : Bool) (x : Val) : NF :=
  let y : VF := if root then x.sqrt else ⟨x, 0⟩
  let key := (roundFloat .fp32 false false x).n
  match y.v with
  | .nan => exactResult f .nan y.f
  | .inf n => exactResult f (.fin n 0 0) 0
  | .fin n m _ => if m = 0 then maxResult f n
    else approxResult f flush (if root then 0x13 else 0x12) key 1 none ((Val.int 1).div y.v).v

/-- SIGMOID: at most 2 ulp or 2^-24 absolute. -/
def approxSigmoid (f : Fmt) (flush : Bool) (x : Val) : NF :=
  match x with
  | .nan => exactResult f .nan 0
  | .inf n => exactResult f (if n then .fin false 0 0 else Val.int 1) 0
  | v => approxResult f flush 0x16 (roundFloat .fp32 false false v).n 2 (some 24)
      ((Val.int 1).div ((Val.int 1).add (expVal v.neg)).v).v

/-- TANH: at most 2 ulp or 2^-24 absolute; below 2^-40 the argument itself is the reference. -/
def approxTanh (f : Fmt) (flush : Bool) (x : Val) : NF :=
  let key := (roundFloat .fp32 false false x).n
  match x with
  | .nan => exactResult f .nan 0
  | .inf n => exactResult f (Val.int (if n then -1 else 1)) 0
  | v =>
    if v.isZero then exactResult f v 0
    else if Val.lt v.abs (.fin false 1 (-40)) then approxResult f flush 0x17 key 2 (some 24) v
    else
      let t := expVal (v.abs.shift 1)
      let r := ((t.sub (Val.int 1)).v.div (t.add (Val.int 1)).v).v
      approxResult f flush 0x17 key 2 (some 24) (if v.isNeg then r.neg else r)

/-- cos and sin of the angle p × f, each within 1 ulp of FP32 for an angle reduced with 40 bits (R143). -/
def approxCosSin (p : Int) (f : Val) : VF × VF :=
  match (Val.int p).mul f with
  | ⟨.fin n m e, fl⟩ =>
    let r := cosSin n m e
    let key := 2 ^ 32 * p.toNat + (roundFloat .fp32 false false f).n
    let pick (op : Nat) (v : Val) : VF :=
      ⟨decodeFloat .fp32 (approxPick op key 32 (fun c =>
        let ref := (roundFloat .fp32 false false v).n
        ulpOk .fp32 false 1 ref c || absOk .fp32 false 37 ref c) (roundFloat .fp32 false false v).n), fl⟩
    (pick 0x06 r.1, pick 0x07 r.2)
  | ⟨_, _⟩ => (⟨.nan, if f.isNan then 0 else Flags.invalid⟩, ⟨.nan, if f.isNan then 0 else Flags.invalid⟩)

end Sys2Proof.Machine
end

