-- ==== Sys2Proof/Machine/Cells.lean ====
section
/-! DEFINITION. Byte memories as lists of cells in rising order of address (Host.Cell), none for an address never written. -/
namespace Sys2Proof.Machine

/-- The listed bytes from address a, n long; none when one of them is not listed. -/
def cellRead (m : List Host.Cell) (a n : Nat) : Option (List Byte) :=
  let c := m.filter fun x => a ≤ x.1 && x.1 < a + n
  if c.length = n then some (c.map (·.2)) else none

/-- One byte, if it is listed. -/
def cellByte (m : List Host.Cell) (a : Nat) : Option Byte := (m.find? fun x => x.1 == a).map (·.2)

/-- The cells of bytes laid from address a. -/
def cellsFrom (a : Nat) (b : List Byte) : List Host.Cell :=
  match b with
  | [] => []
  | x :: t => (a, x) :: cellsFrom (a + 1) t

/-- Write bytes from address a. -/
def cellWrite (m : List Host.Cell) (a : Nat) (b : List Byte) : List Host.Cell :=
  (m.filter fun x => x.1 < a) ++ cellsFrom a b ++ m.filter fun x => a + b.length ≤ x.1

/-- The canonical form: addresses strictly rising from a bound. -/
def cellRising (lo : Nat) (m : List Host.Cell) : Bool :=
  match m with
  | [] => true
  | (a, _) :: t => decide (lo ≤ a) && cellRising (a + 1) t

/-- The canonical form of a byte memory. An unlisted byte holds no value, so no entry equals what it reads as. -/
def cellWf (m : List Host.Cell) : Bool := cellRising 0 m

/-- Every memory of the machine is in canonical form. -/
def Mem.wf (m : Mem) : Bool := cellWf m.dram && cellWf m.board && cellWf m.host

end Sys2Proof.Machine
end

