-- ==== Sys2Proof/Machine/Spad.lean ====
section
/-! DEFINITION. The engine scratchpad: 2 MiB of bytes with a poison bit for each 32-byte unit (R104, R416). -/
namespace Sys2Proof.Machine

/-- Bytes of a scratchpad. -/
def spadSize : Nat := 2097152

/-- Byte a of a scratchpad that nothing has written: what the reset left, which the spec does not give, or the zero that
a SAVE left (R395). -/
def spadUnlisted (e : Nat) (g : Engine) (a : Nat) : Byte :=
  match g.era with
  | some n => BitVec.ofNat 8 (Config.lost n e a)
  | none => 0

/-- n bytes of the scratchpad of engine e from address a. -/
def spadRead (e : Nat) (g : Engine) (a n : Nat) : List Byte :=
  let c := g.spad.filter fun x => a ≤ x.1 && x.1 < a + n
  (List.range n).map fun i => (cellByte c (a + i)).getD (spadUnlisted e g (a + i))

/-- The n-byte little-endian number at an address. -/
def spadNum (e : Nat) (g : Engine) (a n : Nat) : Nat := natLE (spadRead e g a n)

/-- The units that n bytes from address a touch. -/
def spadUnits (a n : Nat) : List Nat :=
  if n = 0 then [] else (List.range ((a + n - 1) / 32 - a / 32 + 1)).map fun i => a / 32 + i

/-- Whether a read of n bytes from address a meets a marked unit (R416). -/
def spadPoisoned (g : Engine) (a n : Nat) : Bool := (spadUnits a n).any fun u => flagAt g.spadPoison u

/-- A write of w-byte elements, each with its poison, laid one after another from address a: a unit written whole takes
the poison of its elements, a unit written in part is marked if one of them is poisoned (R416). -/
def spadStream (g : Engine) (a w : Nat) (els : List (Nat × Bool)) : Engine :=
  let len := w * els.length
  { g with
    spad := cellWrite g.spad a (els.flatMap fun x => bytesLE w x.1)
    spadPoison := (spadUnits a len).foldl (fun m u =>
      let lo := (32 * u - a) / max w 1
      let hi := (32 * u + 32 - a + w - 1) / max w 1
      let p := ((els.drop lo).take (hi - lo)).any (·.2)
      let whole := decide (a ≤ 32 * u) && decide (32 * u + 32 ≤ a + len)
      setFlag m u (if whole then p else flagAt m u || p)) g.spadPoison }

/-- A write of bytes of one poison. -/
def spadWrite (g : Engine) (a : Nat) (b : List Byte) (poison : Bool) : Engine :=
  spadStream g a 1 (b.map fun x => (x.toNat, poison))

/-- The poison mark on every unit that a range touches, the data as they are (Table 4-11). -/
def spadMark (g : Engine) (a n : Nat) : Engine :=
  { g with spadPoison := (spadUnits a n).foldl (fun m u => setFlag m u true) g.spadPoison }

/-- The destination that a scratchpad range is. -/
def spadDest (a n : Nat) : Dest := .spad (a / 32) (spadUnits a n).length

end Sys2Proof.Machine
end

