-- ==== Sys2Proof/Machine/Operands.lean ====
section
/-! DEFINITION. The task descriptor (R61, Tables 4-2 to 4-6), the operand of every opcode (Tables 4-8, 6-3, 6-4, 6-7, 7-2,
7-9, 8-2, 8-9, 9-4, 11-7, 11-8) and what makes a descriptor invalid (R62, R70, R112, R137, R157, R256). -/
namespace Sys2Proof.Machine

/-- A task descriptor of 64 bytes. -/
abbrev Desc := BitVec 512

/-- The descriptor that 64 bytes hold. -/
def Desc.ofBytes (b : List Byte) : Desc := BitVec.ofNat 512 (natLE b)

def Desc.opcode (d : Desc) : Nat := fld d 0 8
def Desc.unit (d : Desc) : Nat := fld d 8 3
def Desc.modeDep (d : Desc) : Bool := d.getLsbD 11
def Desc.ordered (d : Desc) : Bool := d.getLsbD 12
def Desc.notify (d : Desc) : Bool := d.getLsbD 13
def Desc.tag (d : Desc) : Nat := fld d 16 16

/-- A field of the 128-bit OPERAND (D6 and D7). -/
def Desc.op (d : Desc) (lo len : Nat) : Nat := fld d (384 + lo) len
def Desc.opBit (d : Desc) (lo : Nat) : Bool := d.getLsbD (384 + lo)

/-- A used wait entry (Table 4-3). -/
structure Wait where
  entry : Nat
  index : Nat
  kind : Nat
  errOk : Bool
  value : Nat
deriving DecidableEq, Repr

/-- A used signal entry (Table 4-4). -/
structure Signal where
  tc : Nat
  target : Nat
  engine : Nat
  inc : Nat
deriving DecidableEq, Repr

/-- A used credit take or give (Tables 4-5, 4-6). -/
structure Credit where
  entry : Nat
  cc : Nat
  engine : Nat
  count : Nat
deriving DecidableEq, Repr

def Desc.waits (d : Desc) : List Wait :=
  ((List.range 4).map fun i =>
    let b := 64 + 32 * i
    (⟨i, fld d b 6, fld d (b + 6) 2, d.getLsbD (b + 8), fld d (b + 9) 23⟩ : Wait)).filter fun w => w.kind != 0

def Desc.signals (d : Desc) : List Signal :=
  ((List.range 4).map fun i =>
    let b := 192 + 32 * i
    (⟨fld d b 6, fld d (b + 6) 2, fld d (b + 8) 8, fld d (b + 16) 16⟩ : Signal)).filter fun x => x.target != 0

def Desc.takes (d : Desc) : List Credit :=
  ((List.range 2).filter fun i => d.getLsbD (320 + 16 * i + 5)).map fun i =>
    let b := 320 + 16 * i
    ⟨i, fld d b 5, 0, fld d (b + 8) 8⟩

def Desc.gives (d : Desc) : List Credit :=
  ((List.range 2).filter fun i => d.getLsbD (352 + 16 * i + 13)).map fun i =>
    let b := 352 + 16 * i
    ⟨i, fld d b 5, fld d (b + 5) 8, fld d (b + 14) 2 + 1⟩

/-- The conditions of R62 that name no unit: reserved bits of D0 and of the used entries, zero counts, group numbers. -/
def Desc.badEntry (d : Desc) : Bool :=
  fld d 14 2 != 0 || fld d 32 32 != 0
  || d.waits.any (fun w => (w.kind == 1 && w.value == 0) || (w.kind == 3 && decide (4 ≤ w.index)))
  || d.signals.any (fun x => x.inc == 0 || (x.target == 3 && decide (15 < x.engine)))
  || d.takes.any (fun k => k.count == 0 || fld d (320 + 16 * k.entry + 6) 2 != 0)

/-! ## Opcodes (Tables 4-8, 6-3, 7-1, 8-1, 11-6) -/

/-- The operations of the engine's units. -/
inductive Op where
  | mmaFp8 | mmaCode | mmaInt8 | mmaBf16 | tileZero | tileOut | kvAppend | tileSave | tileLoad
  | attnFwd | attnMerge | attnBwd
  | chain | permute | shuffle | pack | unpack | rotary | topk | sample | random | quant
  | load | store | accum | copy | brinePack | brineUnpack
  | nop | tick | event
deriving DecidableEq, Repr

/-- The operation that UNIT and OPCODE name; none where either is reserved. A TILE_OUT with KV 1 is the append (R120). -/
def Desc.operation (d : Desc) : Option Op :=
  match d.unit, d.opcode with
  | 0, 0x01 => some .mmaFp8
  | 0, 0x02 => some .mmaCode
  | 0, 0x03 => some .mmaInt8
  | 0, 0x04 => some .mmaBf16
  | 0, 0x08 => some .tileZero
  | 0, 0x09 => some (if d.opBit 96 then .kvAppend else .tileOut)
  | 0, 0x0C => some .tileSave
  | 0, 0x0D => some .tileLoad
  | 1, 0x01 => some .attnFwd
  | 1, 0x02 => some .attnMerge
  | 1, 0x03 => some .attnBwd
  | 2, 0x01 => some .chain
  | 2, 0x02 => some .permute
  | 2, 0x03 => some .shuffle
  | 2, 0x04 => some .pack
  | 2, 0x05 => some .unpack
  | 2, 0x06 => some .rotary
  | 2, 0x08 => some .topk
  | 2, 0x09 => some .sample
  | 2, 0x0A => some .random
  | 2, 0x0C => some .quant
  | 3, 0x01 => some .load
  | 3, 0x02 => some .store
  | 3, 0x03 => some .accum
  | 3, 0x04 => some .copy
  | 3, 0x05 => some .brinePack
  | 3, 0x06 => some .brineUnpack
  | 4, 0x00 => some .nop
  | 4, 0x01 => some .tick
  | 4, 0x02 => some .event
  | _, _ => none

/-! ## Matrix operands (Tables 6-4, 6-7) -/

structure MmaOp where
  tile : Nat
  shape : Nat
  acc : Bool
  iovf : Bool
  aFmt : Nat
  wFmt : Nat
  codeFmt : Nat
  rows : Nat
  cols : Nat
  kch : Nat
  texp : Int
  aAddr : Nat
  wAddr : Nat
  scAddr : Nat
  auxAddr : Nat
deriving DecidableEq, Repr

def Desc.mma (d : Desc) : MmaOp :=
  { tile := d.op 0 5, shape := d.op 5 2, acc := d.opBit 7, iovf := d.opBit 8, aFmt := d.op 9 1, wFmt := d.op 10 1,
    codeFmt := d.op 11 3, rows := d.op 16 7, cols := d.op 24 7, kch := d.op 32 16, texp := signed (d.op 48 8) 8,
    aAddr := 32 * d.op 64 16, wAddr := 32 * d.op 80 16, scAddr := 32 * d.op 96 16, auxAddr := 32 * d.op 112 16 }

structure TileOp where
  tile : Nat
  shape : Nat
  outFmt : Nat
  iovf : Bool
  fuse : Nat
  merge : Bool
  bsum : Bool
  rows : Nat
  cols : Nat
  outAddr : Nat
  stride : Nat
  statAddr : Nat
  bsumAddr : Nat
  atab : Nat
  part : Nat
  colg : Nat
deriving DecidableEq, Repr

def Desc.tileOp (d : Desc) : TileOp :=
  { tile := d.op 0 5, shape := d.op 5 2, outFmt := d.op 8 3, iovf := d.opBit 11, fuse := d.op 12 2, merge := d.opBit 14,
    bsum := d.opBit 15, rows := d.op 16 7, cols := d.op 24 7, outAddr := 32 * d.op 32 16, stride := 32 * d.op 48 16,
    statAddr := 32 * d.op 64 16, bsumAddr := 32 * d.op 80 16, atab := 32 * d.op 97 16, part := d.op 113 1,
    colg := d.op 114 2 }

/-- CODE_FMT of U2, U3 and U4 (Table 5-4). -/
def asymCode (c : Nat) : Bool := decide (3 ≤ c) && decide (c ≤ 5)

/-- R112 for a tile that a task names: shape, slot, rows and columns. -/
def badTile (tile shape rows cols : Nat) : Bool :=
  shape == 3 || (shape == 0 && tile % 2 == 1) || rows == 0 || decide (64 < rows) || (shape == 1 && decide (32 < rows))
  || cols == 0 || decide (64 < cols)

/-- Invalid multiply descriptors (R112), with the fields that the opcode does not use. -/
def Desc.badMma (d : Desc) (o : Op) : Bool :=
  let m := d.mma
  let isF := o == .mmaFp8 || o == .mmaCode
  badTile m.tile m.shape m.rows m.cols || m.kch == 0 || d.op 14 2 != 0 || d.opBit 23 || d.opBit 31 || d.op 56 8 != 0
  || (m.shape == 2 && !isF) || (o != .mmaInt8 && m.iovf) || (!isF && m.aFmt != 0) || (o != .mmaFp8 && m.wFmt != 0)
  || (o != .mmaCode && m.codeFmt != 0)
  || (o == .mmaCode && asymCode m.codeFmt && m.auxAddr == 0)
  || (!(o == .mmaCode && asymCode m.codeFmt) && m.auxAddr != 0)
  || (!(o == .mmaCode || (o == .mmaInt8 && m.texp != 0)) && m.scAddr != 0)

def Desc.badTileOut (d : Desc) : Bool :=
  let t := d.tileOp
  badTile t.tile t.shape t.rows t.cols || d.opBit 7 || d.opBit 23 || d.opBit 31 || (t.bsum && t.outFmt == 7)
  || (if d.opBit 96 then d.op 116 12 != 0 else d.op 97 31 != 0)

def Desc.badTileZero (d : Desc) : Bool :=
  let t := d.tileOp
  badTile t.tile t.shape 1 1 || d.op 7 121 != 0

/-- TILE_SAVE and TILE_LOAD: a 4 KiB aligned virtual address, the other bits zero. -/
def Desc.badImage (d : Desc) : Bool := d.op 0 12 != 0 || d.op 48 80 != 0

/-! ## Vector operands (Tables 7-2, 7-9) -/

structure VecOp where
  src0 : Nat
  src1 : Nat
  src2 : Nat
  dst : Nat
  param : Nat
  len : Nat
  inFmt : Nat
  outFmt : Nat
  iovf : Bool
  rtz : Bool
  tileSrc : Bool
  tileDst : Bool
  bf16 : Bool
  rowLen : Nat
  stride : Nat
  word : Nat
deriving DecidableEq, Repr

def Desc.vec (d : Desc) : VecOp :=
  { src0 := d.op 0 16, src1 := d.op 16 16, src2 := d.op 32 16, dst := d.op 48 16, param := d.op 64 16, len := d.op 80 20,
    inFmt := d.op 100 3, outFmt := d.op 103 3, iovf := d.opBit 106, rtz := d.opBit 107, tileSrc := d.opBit 108,
    tileDst := d.opBit 109, bf16 := d.opBit 110, rowLen := 64 * d.op 112 12, stride := d.op 124 2, word := d.op 126 2 }

/-- Elements of a row: ROW_LEN × 64, or the whole stream. -/
def VecOp.row (v : VecOp) : Nat := if v.rowLen = 0 then v.len else v.rowLen

structure QuantOp where
  src : Nat
  code : Nat
  sc : Nat
  zp : Nat
  cmap : Nat
  len : Nat
  inFmt : Nat
  codeFmt : Nat
  clip : Nat
  cmapEn : Bool
  statEn : Bool
  texp : Int
  statIdx : Nat
deriving DecidableEq, Repr

def Desc.quantOp (d : Desc) : QuantOp :=
  { src := 32 * d.op 0 16, code := 32 * d.op 16 16, sc := 32 * d.op 32 16, zp := 32 * d.op 48 16, cmap := 32 * d.op 64 16,
    len := d.op 80 20, inFmt := d.op 100 3, codeFmt := d.op 103 3, clip := d.op 106 4, cmapEn := d.opBit 110,
    statEn := d.opBit 111, texp := signed (d.op 112 8) 8, statIdx := d.op 120 8 }

/-- Width of a packed field by PARAM [66:64] (R142); 0 where the code is excluded. -/
def packWidth (c : Nat) : Nat := match c with
  | 0 => 2 | 1 => 3 | 2 => 4 | 3 => 6 | 4 => 8 | 5 => 16 | _ => 0

/-- What R137 and the sections of the opcodes exclude, apart from a CHAIN's program. -/
def Desc.badVec (d : Desc) (o : Op) : Bool :=
  let v := d.vec
  let unused := fun (lo len : Nat) => d.op lo len != 0
  let rowBad := v.rowLen != 0 && v.len % v.rowLen != 0
  v.len == 0 ||
  match o with
  | .chain =>
    d.opBit 111 || rowBad || (v.inFmt == 7 && !v.tileSrc)
    || (v.bf16 && (((v.inFmt == 5 || v.inFmt == 6) && !v.tileSrc) || v.outFmt == 5 || v.outFmt == 6))
  | .permute =>
    unused 32 16 || unused 64 16 || unused 106 6 || unused 124 4 || rowBad || v.inFmt == 7 || v.outFmt != v.inFmt
  | .shuffle =>
    let pat := v.param % 8
    let g := 2 ^ (v.param / 8 % 32)
    unused 32 16 || unused 72 8 || unused 106 6 || unused 124 4 || rowBad || v.inFmt == 7 || v.outFmt != v.inFmt
    || decide (4 < pat) || decide (16 < v.param / 8 % 32) || (pat == 1 && g == 1) || (pat != 2 && v.src1 != 0)
    || v.len % (if pat == 2 || pat == 3 then 2 * g else g) != 0
  | .pack =>
    let w := packWidth (v.param % 8)
    unused 16 32 || unused 68 12 || unused 103 3 || unused 107 5 || unused 112 16 || !(v.inFmt == 5 || v.inFmt == 6)
    || w == 0 || v.len * w % 8 != 0
  | .unpack =>
    let w := packWidth (v.param % 8)
    let isFloat := v.param / 16 % 2 == 1
    unused 16 32 || unused 69 11 || unused 100 3 || unused 107 5 || unused 112 16 || w == 0 || v.len * w % 8 != 0
    || (if isFloat then !(w == 4 || w == 6) || decide (4 < v.outFmt) else !(v.outFmt == 5 || v.outFmt == 6))
  | .rotary =>
    unused 66 14 || unused 108 4 || unused 124 4 || rowBad || decide (v.inFmt < 2) || decide (4 < v.inFmt)
    || v.row % 2 != 0
  | .topk =>
    let k := d.op 64 9
    unused 16 32 || unused 73 7 || unused 103 9 || unused 124 4 || rowBad || !(v.inFmt == 2 || v.inFmt == 4)
    || k == 0 || decide (256 < k)
  | .sample =>
    let k := d.op 64 9
    unused 32 16 || unused 100 28 || k == 0 || decide (256 < k)
  | .random =>
    unused 0 16 || unused 32 16 || unused 64 16 || unused 100 3 || unused 106 22 || !(v.outFmt == 6 || v.outFmt == 4)
  | .quant =>
    let q := d.quantOp
    q.len % 32 != 0 || !(q.inFmt == 2 || q.inFmt == 4) || (!asymCode q.codeFmt && q.zp != 0)
  | _ => false
  || (o != .chain && o != .quant && (v.tileSrc || v.tileDst))

/-! ## Chain programs (Tables 7-3, 7-4) -/

structure Stage where
  op : Nat
  sa : Nat
  sb : Nat
  sc : Nat
  keep : Bool
  rtz : Bool
  iovf : Bool
  imm : Nat
  reserved : Nat
deriving DecidableEq, Repr

def Stage.ofWord (w : Nat) : Stage :=
  { op := w % 256, sa := w / 2 ^ 8 % 8, sb := w / 2 ^ 11 % 8, sc := w / 2 ^ 14 % 8, keep := w / 2 ^ 17 % 2 == 1,
    rtz := w / 2 ^ 18 % 2 == 1, iovf := w / 2 ^ 19 % 2 == 1, imm := w / 2 ^ 32 % 2 ^ 32, reserved := w / 2 ^ 20 % 2 ^ 12 }

structure Prog where
  nstages : Nat
  cwordEn : Bool
  cwordAddr : Nat
  redAddr : Nat
  reserved : Nat
  stages : List Stage
deriving DecidableEq, Repr

/-- A program by its words: the header and eight stage words (R132). -/
def progOf (l : List Nat) : Prog :=
  let h := nth 0 l 0
  let n := h % 16
  { nstages := n, cwordEn := h / 16 % 2 == 1, cwordAddr := 32 * (h / 2 ^ 16 % 2 ^ 16), redAddr := 32 * (h / 2 ^ 32 % 2 ^ 16),
    reserved := h / 32 % 2 ^ 11 + h / 2 ^ 48 % 2 ^ 16,
    stages := (List.range (min n 8)).map fun i => Stage.ofWord (nth 0 l (i + 1)) }

/-- The words of a program in the scratchpad. -/
def progWords (e : Nat) (g : Engine) (a : Nat) : List Nat := (List.range 9).map fun i => spadNum e g (a + 8 * i) 8

/-- The program at an address of the scratchpad. -/
def readProg (e : Nat) (g : Engine) (a : Nat) : Prog := progOf (progWords e g a)

/-- What a CHAIN reads of its program when it starts: its words, and whether one of them is poisoned. -/
def chainProg (e : Nat) (g : Engine) (a : Nat) : List Nat × Bool :=
  (progWords e g a, spadPoisoned g a (8 + 8 * (readProg e g a).stages.length))

/-- Operands that a stage's OP takes (Table 7-6); none where OP is reserved. -/
def stageArity (op : Nat) : Option Nat :=
  if op = 0 then none
  else if op ≤ 3 then some 2 else if op = 4 then some 3 else if op ≤ 6 then some 2 else if op ≤ 8 then some 1
  else if op = 9 then some 3 else if op = 0x0A then some 1 else if op = 0x0B then some 3 else if op ≤ 0x0D then some 2
  else if op < 0x10 then none
  else if op ≤ 0x14 then some 1 else if op = 0x15 then some 2 else if op ≤ 0x18 then some 1
  else if op < 0x20 then none
  else if op ≤ 0x29 then some 2 else if op ≤ 0x2B then some 1
  else if op < 0x30 then none
  else if op ≤ 0x35 then some 1 else none

def isReduction (op : Nat) : Bool := decide (0x30 ≤ op) && decide (op ≤ 0x35)
/-- The integer stages and the two conversions (Table 7-6); RARGMAX reads floats (R131). -/
def isIntStage (op : Nat) : Bool := (decide (0x20 ≤ op) && decide (op ≤ 0x2B)) || op == 0x35

/-- The source selects that a stage uses. -/
def Stage.selects (s : Stage) : List Nat := [s.sa, s.sb, s.sc].take ((stageArity s.op).getD 3)

/-- What makes a CHAIN invalid by its program (R137). -/
def badProg (v : VecOp) (p : Prog) : Bool :=
  let sel := p.stages.flatMap Stage.selects
  p.nstages == 0 || decide (8 < p.nstages) || p.reserved != 0
  || p.stages.any (fun s => (stageArity s.op).isNone || s.reserved != 0)
  || (p.stages.take (p.nstages - 1)).any (fun s => isReduction s.op)
  || p.stages.any (fun s => s.op == 0x0A && decide (3 < s.imm % 8))
  || (p.stages.foldl (fun (acc : Bool × Bool) s => (acc.1 || (s.selects.contains 5 && !acc.2), acc.2 || s.keep))
      (false, false)).1
  || (sel.contains 2 && sel.contains 7) || (sel.contains 3 && sel.contains 6)
  || (v.bf16 && p.stages.any (fun s => isIntStage s.op))
  -- with TILE_SRC, IN_FMT is that of SRC1 and SRC2 alone
  || (v.tileSrc && (sel.contains 2 || sel.contains 3) && (v.inFmt == 7 || (v.bf16 && (v.inFmt == 5 || v.inFmt == 6))))
  || (v.outFmt == 7 && v.len % 32 != 0 && p.stages.any (fun s => s.op == 0x34))

/-! ## Attention operands (Tables 8-2, 8-9) -/

structure AttnOp where
  ctrl : Nat
  ltab : Nat
  n : Nat
  part : Bool
  stats : Bool
  mass : Bool
  pbf16 : Bool
deriving DecidableEq, Repr

def Desc.attn (d : Desc) : AttnOp :=
  { ctrl := 32 * d.op 0 16, ltab := 32 * d.op 16 16, n := d.op 32 13, part := d.opBit 48, stats := d.opBit 49,
    mass := d.opBit 50, pbf16 := d.opBit 51 }

structure MergeOp where
  src : Nat
  stride : Nat
  n : Nat
  dst : Nat
  outFmt : Nat
  outPart : Bool
  statEn : Bool
  statAddr : Nat
  outScale : Nat
deriving DecidableEq, Repr

def Desc.mergeOp (d : Desc) : MergeOp :=
  { src := 32 * d.op 0 16, stride := 32 * d.op 16 16, n := d.op 32 8, dst := 32 * d.op 48 16, outFmt := d.op 64 3,
    outPart := d.opBit 67, statEn := d.opBit 68, statAddr := 32 * d.op 80 16, outScale := d.op 96 32 }

/-- R157 and the reserved bits of Tables 8-2 and 8-9. -/
def Desc.badAttn (d : Desc) (o : Op) : Bool :=
  match o with
  | .attnMerge =>
    d.op 40 8 != 0 || d.op 69 11 != 0 || d.op 32 8 == 0 || (!d.opBit 67 && decide (4 < d.op 64 3))
  | _ =>
    d.op 45 3 != 0 || d.op 52 76 != 0 || d.attn.n == 0 || decide (4096 < d.attn.n)
    || (o == .attnBwd && d.op 48 4 != 0)

/-! ## Move operands (Tables 11-7, 11-8) -/

structure RowsOp where
  va : Nat
  spad : Nat
  rowLen : Nat
  rows : Nat
  hint : Nat
  nmaOp : Nat
  vstride : Nat
deriving DecidableEq, Repr

def Desc.rowsOp (d : Desc) : RowsOp :=
  { va := d.op 0 48, spad := 32 * d.op 48 16, rowLen := 32 * d.op 64 16, rows := d.op 80 12 + 1, hint := d.op 92 2,
    nmaOp := d.op 96 4, vstride := 32 * d.op 100 28 }

structure CopyOp where
  src : Nat
  dst : Nat
  len : Nat
  hint : Nat
  blanket : Bool
  mask : Nat
deriving DecidableEq, Repr

def Desc.copyOp (d : Desc) : CopyOp :=
  { src := d.op 0 48, dst := d.op 48 48, len := d.op 96 20, hint := d.op 116 2, blanket := d.opBit 118, mask := d.op 120 8 }

/-- R256 and the reserved bits of Tables 11-7 and 11-8. -/
def Desc.badMove (d : Desc) (o : Op) : Bool :=
  let r := d.rowsOp
  let c := d.copyOp
  match o with
  | .load | .store => r.va % 32 != 0 || r.rowLen == 0 || d.op 94 2 != 0 || r.nmaOp != 0
  | .accum => r.va % 32 != 0 || r.rowLen == 0 || d.op 94 2 != 0 || decide (6 < r.nmaOp)
  | .copy => c.src % 32 != 0 || c.dst % 32 != 0 || c.len == 0 || d.opBit 119 || (c.blanket != (c.mask != 0))
  | .brinePack => c.src % 4096 != 0 || c.dst % 128 != 0 || c.len == 0 || d.op 118 10 != 0
  | .brineUnpack => c.src % 128 != 0 || c.dst % 4096 != 0 || c.len != 0 || d.op 118 10 != 0
  | _ => false

/-! ## Invalid descriptors (R62) -/

/-- Whether a descriptor is invalid, apart from a CHAIN's program. -/
def Desc.badStatic (d : Desc) : Bool :=
  d.badEntry ||
  match d.operation with
  | none => true
  | some o =>
    match o with
    | .nop => d.op 0 128 != 0
    | .tick => d.op 64 64 != 0
    | .event => d.op 8 120 != 0
    | .mmaFp8 | .mmaCode | .mmaInt8 | .mmaBf16 => d.badMma o
    | .tileZero => d.badTileZero
    | .tileOut | .kvAppend => d.badTileOut
    | .tileSave | .tileLoad => d.badImage
    | .attnFwd | .attnMerge | .attnBwd => d.badAttn o
    | .load | .store | .accum | .copy | .brinePack | .brineUnpack => d.badMove o
    | _ => d.badVec o

/-- Whether a descriptor is invalid at engine e: a CHAIN's program is read when the task starts (R132, R137). A program
that passes the end of the scratchpad is not read and ends the task by R130. -/
def Desc.invalid (d : Desc) (e : Nat) (g : Engine) : Bool :=
  d.badStatic ||
  (d.operation == some .chain &&
    let p := readProg e g (32 * d.vec.param)
    decide (32 * d.vec.param + 8 + 8 * p.stages.length ≤ spadSize) && badProg d.vec p)

end Sys2Proof.Machine
end

