-- ==== Sys2Proof/Machine/LineCode.lean ====
section
/-! DEFINITION. The line code of stack and board memory (R216 to R219, R261): a Reed-Solomon code over GF(2^16) with 64
data and 4 check symbols. -/
namespace Sys2Proof.Machine

/-- Multiply by α = 2 in the field of x^16 + x^12 + x^3 + x + 1 (R216). -/
def gfTimes2 (a : Nat) : Nat :=
  if a < 0x8000 then 2 * a else Nat.xor (2 * a) 0x1100B

/-- Field product by the low n bits of b. -/
def gfMulBits (n a b : Nat) : Nat :=
  match n with
  | 0 => 0
  | n + 1 => Nat.xor (if b % 2 = 1 then a else 0) (gfMulBits n (gfTimes2 a) (b / 2))

def gfMul (a b : Nat) : Nat := gfMulBits 16 a b

/-- a^(2^n - 1). -/
def gfPowOnes (n a : Nat) : Nat :=
  match n with
  | 0 => 1
  | n + 1 => let p := gfPowOnes n a; gfMul (gfMul p p) a

/-- The inverse a^(2^16 - 2). -/
def gfInv (a : Nat) : Nat := let p := gfPowOnes 15 a; gfMul p p

/-- α^k. -/
def gfExp (k : Nat) : Nat :=
  match k with
  | 0 => 1
  | k + 1 => gfTimes2 (gfExp k)

/-- The locator of symbol i, 0 to 63 data and 64 to 67 check: α^(67 - i) (R216). -/
def locator (i : Nat) : Nat := gfExp (67 - i)

/-- A symbol error: symbol and difference. -/
abbrev SymErr := Nat × BitVec 16

/-- The four syndromes of a set of symbol errors; the code word itself adds nothing. -/
def syndromes (errs : List SymErr) : List Nat :=
  (List.range 4).map fun j =>
    errs.foldl (fun acc e => Nat.xor acc (gfMul e.2.toNat (gfExp (j * (67 - e.1))))) 0

/-- The poison pattern (R219). -/
def poisonErrs : List SymErr := [(64, 0x0F0F), (65, 0x0F0F), (66, 0x0F0F), (67, 0x0F0F)]

def xorList (a b : List Nat) : List Nat := List.zipWith Nat.xor a b

/-- The one-symbol error with these syndromes, if there is one. -/
def correct1 (s : List Nat) : Option (List SymErr) :=
  let s0 := nth 0 s 0
  if s0 = 0 then none
  else
    ((List.range 68).find? fun i =>
      let x := locator i
      gfMul s0 x == nth 0 s 1 && gfMul (nth 0 s 1) x == nth 0 s 2 && gfMul (nth 0 s 2) x == nth 0 s 3).map
      fun i => [(i, BitVec.ofNat 16 s0)]

/-- The two-symbol error with these syndromes, if there is one: the locators are the roots of the locator polynomial. -/
def correct2 (s : List Nat) : Option (List SymErr) :=
  let s0 := nth 0 s 0
  let s1 := nth 0 s 1
  let s2 := nth 0 s 2
  let s3 := nth 0 s 3
  let det := Nat.xor (gfMul s0 s2) (gfMul s1 s1)
  if det = 0 then none
  else
    let inv := gfInv det
    let sig1 := gfMul (Nat.xor (gfMul s0 s3) (gfMul s1 s2)) inv
    let sig2 := gfMul (Nat.xor (gfMul s1 s3) (gfMul s2 s2)) inv
    let roots := (List.range 68).filter fun i =>
      let x := locator i
      Nat.xor (Nat.xor (gfMul x x) (gfMul sig1 x)) sig2 == 0
    match roots with
    | [i, j] =>
      let y := gfMul (Nat.xor s1 (gfMul s0 (locator j))) (gfInv (Nat.xor (locator i) (locator j)))
      let z := Nat.xor s0 y
      if y = 0 ∨ z = 0 then none else some [(i, BitVec.ofNat 16 y), (j, BitVec.ofNat 16 z)]
    | _ => none

/-- The error that a decoding mode corrects for these syndromes (Table 10-4): mode 0 up to two symbols, mode 1 one. -/
def correctable (mode1 : Bool) (s : List Nat) : Option (List SymErr) :=
  match correct1 s with
  | some e => some e
  | none => if mode1 then none else correct2 s

/-- What the decoder finds in a line: clean, corrected with the correction, poison with symbols in error, uncorrectable. -/
inductive Decoded where
  | clean
  | corrected (fix : List SymErr)
  | poison (symbols : Nat)
  | uncorrectable
deriving DecidableEq, Repr

/-- Decode a line from its symbol errors, the poison pattern's among them where it was written poisoned (R218, R219).
The poison comparison comes first; syndromes of zero are a clean line in either order. -/
def decodeLine (mode1 poisoned : Bool) (errs : List SymErr) : Decoded :=
  let s := syndromes (errs ++ if poisoned then poisonErrs else [])
  if s = [0, 0, 0, 0] then .clean
  else
    let d := xorList s (syndromes poisonErrs)
    if d = [0, 0, 0, 0] then .poison 0
    else match correctable mode1 d with
      | some e => .poison e.length
      | none => match correctable mode1 s with
        | some e => .corrected e
        | none => .uncorrectable

/-- XOR symbol differences into the data bytes of a line; check symbols hold no data. -/
def applyErrs (data : List Byte) (errs : List SymErr) : List Byte :=
  errs.foldl (fun d e =>
    if e.1 < 64 then
      let i := 2 * e.1
      let x : BitVec 16 := e.2
      (d.set i (nth 0 d i ^^^ x.setWidth 8)).set (i + 1) (nth 0 d (i + 1) ^^^ (x >>> 8).setWidth 8)
    else d) data

/-- Add an upset to stored symbol errors: differences of one symbol combine, and zero differences vanish. -/
def addErrs (errs : List SymErr) (up : Upset) : List SymErr :=
  up.foldl (fun l e =>
    let i := e.1.val
    let old : BitVec 16 := ((l.find? fun x => x.1 == i).map (·.2)).getD 0
    let rest := l.filter fun x => x.1 != i
    if old ^^^ e.2 = 0 then rest else rest ++ [(i, old ^^^ e.2)]) errs

/-- The data symbols of a line. -/
def dataSymbols (data : List Byte) : List Nat :=
  (List.range 64).map fun i => (nth 0 data (2 * i)).toNat + 256 * (nth 0 data (2 * i + 1)).toNat

/-- Coefficients of g(x) below x^4, from x^3 down (R216). -/
def genPoly : List Nat :=
  let roots := [1, 2, 4, 8]
  let g := roots.foldl (fun p r => List.zipWith Nat.xor (p ++ [0]) (0 :: p.map (gfMul r))) [1]
  g.drop 1

/-- The four check symbols of a line: the remainder of the data times x^4 divided by g (R216). -/
def checkSymbols (data : List Byte) : List Nat :=
  (dataSymbols data).foldl (fun r d =>
    let fb := Nat.xor d (nth 0 r 0)
    List.zipWith Nat.xor (r.drop 1 ++ [0]) (genPoly.map (gfMul fb))) [0, 0, 0, 0]

end Sys2Proof.Machine
end

