-- ==== Sys2Proof/Machine/Stack.lean ====
section
/-! DEFINITION. Stack memory (Aelesque Stacks and the Core Memory Path): placement, the line at its channel, the core
cache, the write-combining buffer and near-memory operations. -/
namespace Sys2Proof.Machine

/-- The answer of a memory access: data, poison, and the REASON of Table 11-5 of an access error, 0 for none. -/
structure Rd where
  data : List Byte
  poison : Bool
  err : Nat
deriving DecidableEq, Repr

/-- A poisoned line; its bytes say nothing. -/
def Rd.poisoned : Rd := { data := List.replicate 128 0, poison := true, err := 0 }
def Rd.error (reason : Nat) : Rd := { data := List.replicate 128 0, poison := false, err := reason }

/-! ## Placement (R213, R214) -/

/-- Line key: global channel × 2^21 + channel line index. -/
def lineKey (ch line : Nat) : Nat := ch * 2 ^ 21 + line
def keyChan (k : Nat) : Nat := k / 2 ^ 21
def keyLine (k : Nat) : Nat := k % 2 ^ 21
def keyCore (k : Nat) : Nat := keyChan k / 512

/-- Column, bank and row of a channel line index (R214): where a line stands in its channel's stack. -/
def lineCol (line : Nat) : Nat := line / 16 % 16
def lineBank (line : Nat) : Nat := Nat.xor (line % 16) (lineCol line)
def lineRow (line : Nat) : Nat := line / 256 % 2 ^ 13

/-- The channel line index of a column, a bank and a row: the decode of R214 loses nothing. -/
def lineAt (col bank row : Nat) : Nat := 256 * row + 16 * col + Nat.xor bank col

/-- Placement mode of pan j at core c (Table 10-2). -/
def State.panMode (s : State) (c j : Nat) : Nat := s.rf (Reg.corePanMode c (j / 16)) (2 * (j % 16)) 2

/-- The cores that set mode 2 for pan index j. -/
def State.chipCores (s : State) (j : Nat) : List Nat := (List.range 8).filter fun c => s.panMode c j == 2

/-- The line that holds space-0 offset p, by the decode of R214; none where the offset maps no stack memory (R213). -/
def State.place (s : State) (p : Nat) : Option Nat :=
  let j := p / 2 ^ 33
  let r := p % 2 ^ 33
  let n := (s.chipCores j).length
  if 96 ≤ j then none
  else if n = 8 then
    let lam := r / 2 ^ 7
    let q := Nat.xor (Nat.xor (lam % 2 ^ 12) (lam / 2 ^ 12 % 2 ^ 12)) (lam / 2 ^ 24 % 4)
    some (lineKey q (16384 * j + lam / 2 ^ 12 % 2 ^ 14))
  else if 0 < n then none
  else
    let c := r / 2 ^ 30
    match s.panMode c j with
    | 0 =>
      let lam := r / 2 ^ 7 % 2 ^ 23
      let ch := Nat.xor (Nat.xor (lam % 2 ^ 9) (lam / 2 ^ 9 % 2 ^ 9)) (lam / 2 ^ 18 % 2 ^ 5)
      some (lineKey (512 * c + ch) (16384 * j + lam / 2 ^ 9 % 2 ^ 14))
    | 1 =>
      let ch := 16 * (r / 2 ^ 25 % 32) + r / 2 ^ 7 % 16
      some (lineKey (512 * c + ch) (16384 * j + r / 2 ^ 11 % 2 ^ 14))
    | _ => none

/-- An access to a pan index with mixed chip-spread modes raises PAN_MIX at every core that sets mode 2 (R213). -/
def State.panMix (s : State) (p : Nat) : State :=
  let cs := s.chipCores (p / 2 ^ 33)
  if p / 2 ^ 33 < 96 ∧ 0 < cs.length ∧ cs.length < 8 then
    s.each cs fun s c => s.raise (coPage c) 8 10 (281 + c)
  else s

/-! ## The line at its channel (R216 to R219, R234, R496, R497) -/

/-- The channel performs accesses (R234). -/
def State.chanOn (s : State) (ch : Nat) : Bool := s.rb (blkCtrl (chPage ch)) 0

/-- A record of STK_ERR_LOG (Table 10-13), taken at the boundary that samples the access (R496). -/
def State.stkLog (s : State) (key kind symbols src : Nat) : State :=
  { s with logq := s.logq ++
      [(Reg.stkErrLog (keyChan key), BitVec.ofNat 64 (keyLine key + kind * 2 ^ 21 + symbols * 2 ^ 24 + src * 2 ^ 32),
        Reg.stkErrTick (keyChan key))] }

/-- A corrected read (R218). -/
def State.stkCe (s : State) (key symbols src kind : Nat) : State :=
  let s := s.stkLog key kind symbols src
  if symbols = 0 then s
  else (s.count (Reg.stkCeCnt (keyChan key)) symbols).raise (chPage (keyChan key)) 8 10 (1024 + keyChan key)

/-- An uncorrectable read (R218). -/
def State.stkUe (s : State) (key src : Nat) : State :=
  ((s.stkLog key 2 0 src).count (Reg.stkUeCnt (keyChan key)) 1).raise (chPage (keyChan key)) 9 2 (1024 + keyChan key)

/-- Outcome of reading a line that has never been written whole: any data, as read, corrected, uncorrectable or
poisoned (R497). -/
def State.readUnwritten (s : State) (key src : Nat) : State × Rd :=
  let f := s.free
  let data := s.drawn.freeBytes 128
  let s := s.drawn.drawnN 128
  match f % 4 with
  | 0 => (s, ⟨data, false, 0⟩)
  | 1 => (s.stkCe key (1 + f / 4 % 2) src 1, ⟨data, false, 0⟩)
  | 2 => (s.stkUe key src, Rd.poisoned)
  | _ => (s.stkLog key 3 0 src, Rd.poisoned)

/-- A line read at its channel and decoded under the mode in force (R217, R218, R219). -/
def State.chanRead (s : State) (key src : Nat) : State × Rd :=
  match cellRead s.mem.dram (128 * key) 128 with
  | none => s.readUnwritten key src
  | some d =>
    let errs := Sparse.get (fun _ => []) s.mem.dramErr key
    let mode1 := s.rb (Reg.stkCtrl (keyChan key)) 2
    match decodeLine mode1 (flagAt s.mem.dramPoison key) errs with
    | .clean => (s, ⟨applyErrs d errs, false, 0⟩)
    | .corrected fix => (s.stkCe key fix.length src 1, ⟨applyErrs d (errs ++ fix), false, 0⟩)
    | .poison n => (s.stkCe key n src 3, ⟨d, true, 0⟩)
    | .uncorrectable => (s.stkUe key src, ⟨d, true, 0⟩)

/-- An image that holds the line is intact no more. -/
def Mem.touch (m : Mem) (space id : Nat) : Mem :=
  if m.images.isEmpty then m
  else { m with images := m.images.map fun im => if (space, id) ∈ im.lines then { im with intact := false } else im }

/-- A whole line written at its channel, poisoned or not (R212, R219). -/
def State.chanWrite (s : State) (key : Nat) (data : List Byte) (poison : Bool) : State :=
  s.modMem fun m => { m with
    dram := cellWrite m.dram (128 * key) data
    dramPoison := setFlag m.dramPoison key poison
    dramErr := Sparse.set (fun _ => []) m.dramErr key [] }

/-- Symbol errors strike a stored line. -/
def State.upset (s : State) (key : Nat) (up : Upset) : State :=
  if up.isEmpty then s
  else s.modMem fun m =>
    { m with dramErr := Sparse.set (fun _ => []) m.dramErr key (addErrs (Sparse.get (fun _ => []) m.dramErr key) up) }

/-- A read of a disabled channel: poisoned, KIND 4, UE without a count (R234). -/
def State.offRead (s : State) (key src : Nat) : State × Rd :=
  ((s.stkLog key 4 0 src).raise (chPage (keyChan key)) 9 2 (1024 + keyChan key), Rd.poisoned)

/-! ## The core cache (R224 to R228) -/

/-- The set of a line in the cache of its core. -/
def cacheIdx (key : Nat) : Nat := Config.cacheSet (keyChan key) (keyLine key) % 16384

def State.cached (s : State) (key : Nat) : Option CLine := s.mem.cache.find? fun l => l.key == key

/-- A dirty line is written back; the channel of a disabled line refuses it (R234). -/
def State.writeBack (s : State) (l : CLine) : State :=
  let s := s.count (Reg.cchWbCnt l.core) 1
  if s.chanOn (keyChan l.key) then s.chanWrite l.key l.data l.poison
  else s.stkLog l.key 4 0 (289 + l.core)

def State.dropLine (s : State) (key : Nat) : State :=
  s.modMem fun m => { m with cache := m.cache.filter fun l => l.key != key }

/-- Remove a line, writing it back if dirty. -/
def State.evict (s : State) (l : CLine) : State :=
  let s := s.dropLine l.key
  if l.dirty then s.writeBack l else s

/-- The line that a new line of a set replaces (R226): lines of the set, most recently used first. -/
def victimLine (same : List CLine) (keep : Bool) (limit : Nat) : Option CLine :=
  let keeps := same.filter (·.keep)
  if keep ∧ limit ≤ keeps.length then keeps.getLast?
  else if same.length < 16 then none
  else match (same.filter fun l => !l.keep).getLast? with
    | some l => some l
    | none => same.getLast?

/-- Allocate a line, most recently used, after replacing a victim (R226). -/
def State.allocLine (s : State) (l : CLine) : State :=
  let same := s.mem.cache.filter fun x => x.core == l.core && cacheIdx x.key == cacheIdx l.key
  let s := match victimLine same l.keep (s.rf (Reg.cchCtrl l.core) 8 4) with
    | some v => s.evict v
    | none => s
  s.modMem fun m => { m with cache := l :: m.cache }

/-- A hit makes the line the most recently used, and a KEEP hit gives it high retention within the limit (R226). -/
def State.hitLine (s : State) (l : CLine) (hint : Nat) : State :=
  let same := s.mem.cache.filter fun x => x.core == l.core && cacheIdx x.key == cacheIdx l.key
  let room := decide ((same.filter (·.keep)).length < s.rf (Reg.cchCtrl l.core) 8 4)
  let l := if hint = 2 ∧ room then { l with keep := true } else l
  (s.count (Reg.cchHitCnt l.core) 1).modMem fun m => { m with cache := l :: m.cache.filter fun x => x.key != l.key }

/-- A line read through the cache under a hint (Table 10-6). -/
def State.cacheRead (s : State) (key src hint : Nat) : State × Rd :=
  match s.cached key with
  | some l =>
    let s := s.hitLine l hint
    let s := if hint = 3 then s.evict l else s
    (s, ⟨l.data, l.poison, 0⟩)
  | none =>
    let s := s.count (Reg.cchMissCnt (keyCore key)) 1
    if s.chanOn (keyChan key) then
      let r := s.chanRead key src
      if hint = 0 ∨ hint = 2 then
        (r.1.allocLine ⟨keyCore key, key, r.2.data, r.2.poison, false, hint == 2⟩, r.2)
      else r
    else s.offRead key src

/-- Bytes of new laid over old where the mask says so. -/
def mergeBytes (mask : BitVec 128) (old new : List Byte) : List Byte :=
  (List.range 128).map fun i => if mask.getLsbD i then nth 0 new i else nth 0 old i

/-- A write through the cache under a hint: the bytes of the mask; 0, or the REASON of a refusal (Table 10-6, R219). -/
def State.cacheWrite (s : State) (key src hint : Nat) (mask : BitVec 128) (data : List Byte) (poison : Bool) :
    State × Nat :=
  let whole := mask == BitVec.allOnes 128
  match s.cached key with
  | some l =>
    let l' := { l with data := mergeBytes mask l.data data, poison := if whole then poison else l.poison || poison,
                       dirty := true }
    ((s.hitLine l' hint).modMem fun m => m.touch 0 key, 0)
  | none =>
    let s := s.count (Reg.cchMissCnt (keyCore key)) 1
    if !s.chanOn (keyChan key) then (s.stkLog key 4 0 src, 14)
    else
      let r := if whole then (s, ⟨data, poison, 0⟩) else s.chanRead key src
      let d := mergeBytes mask r.2.data data
      let p := if whole then poison else r.2.poison || poison
      if hint = 0 ∨ hint = 2 then
        ((r.1.allocLine ⟨keyCore key, key, d, p, true, hint == 2⟩).modMem fun m => m.touch 0 key, 0)
      else ((r.1.chanWrite key d p).modMem fun m => m.touch 0 key, 0)

/-- A write-combining entry is written to the cache; one of a locked line waits as any access does (R228, R229). -/
def State.wcWrite (s : State) (w : WcEntry) : State :=
  let s := s.modMem fun m => { m with wc := m.wc.filter fun x => x.key != w.key }
  if s.mem.locks.any fun l => l.key == w.key then s.modMem fun m => { m with waiting := m.waiting ++ [.wc w] }
  else (s.cacheWrite w.key (289 + w.core) 0 w.mask w.data w.poison).1

/-- Whether a core's buffer behaves as the LMP-4192's (R228). -/
def State.wcCompat (s : State) (core : Nat) : Bool := s.rb (Reg.cchCtrl core) 0

/-- A partial write held in the write-combining buffer: a full entry, or the oldest of 64 when a new one is needed, is
written to the cache (R228). -/
def State.wcHold (s : State) (key : Nat) (mask : BitVec 128) (data : List Byte) (poison : Bool) : State :=
  let core := keyCore key
  match s.mem.wc.find? fun w => w.key == key with
  | some w =>
    let w' := { w with mask := w.mask ||| mask, data := mergeBytes mask w.data data, poison := w.poison || poison }
    let s := s.modMem fun m => { m with wc := m.wc.map fun x => if x.key == key then w' else x }
    if w'.mask == BitVec.allOnes 128 then s.wcWrite w' else s
  | none =>
    let mine := s.mem.wc.filter fun w => w.core == core
    let s := match mine with
      | w :: _ => if 64 ≤ mine.length then s.wcWrite w else s
      | [] => s
    s.modMem fun m => { m with wc := m.wc ++
      [⟨core, key, mask, mergeBytes mask (List.replicate 128 0) data, poison, s.tick⟩] }

/-- Mask and line image of n bytes at a position of a line. -/
def byteMask (pos n : Nat) : BitVec 128 := BitVec.ofNat 128 ((2 ^ n - 1) * 2 ^ pos)
def lineOf (pos : Nat) (b : List Byte) : List Byte := (List.replicate pos 0 ++ b ++ List.replicate 128 0).take 128

/-! ## Accesses at an offset (R224, R238) -/

/-- A quarantine entry of core c covers space-0 offset p (R238). -/
def State.quarantined (s : State) (c p : Nat) : Bool :=
  (List.range 64).any fun i =>
    let q := s.r64 (Reg.coreQuar c i)
    let sz := fld q 40 5
    q.getLsbD 63 && decide (12 ≤ sz) && decide (sz ≤ 30) && (fld q 0 40 / 2 ^ sz == p / 2 ^ sz)

/-- An access to a quarantined page is recorded with KIND 5 and raises QUAR_HIT (R238). -/
def State.quarHit (s : State) (key src : Nat) : State :=
  (s.stkLog key 5 0 src).raise (coPage (keyCore key)) 9 10 (281 + keyCore key)

/-- Read the line that holds space-0 offset p. -/
def State.stackReadNow (s : State) (p src hint : Nat) : State × Rd :=
  match s.place p with
  | none => (s.panMix p, Rd.error 11)
  | some key =>
    if s.quarantined (keyCore key) p then (s.quarHit key src, Rd.poisoned)
    else s.cacheRead key src hint

/-- Write bytes within the line that holds space-0 offset p; 0, or the REASON of a refusal. -/
def State.stackWriteNow (s : State) (p src hint : Nat) (b : List Byte) (poison : Bool) : State × Nat :=
  match s.place p with
  | none => (s.panMix p, 11)
  | some key =>
    if s.quarantined (keyCore key) p then (s.quarHit key src, 13)
    else
      let pos := p % 128
      if s.wcCompat (keyCore key) ∧ b.length < 128 then (s.wcHold key (byteMask pos b.length) (lineOf pos b) poison, 0)
      else s.cacheWrite key src hint (byteMask pos b.length) (lineOf pos b) poison

/-! ## Near-memory operations (R229 to R231) -/

/-- Bytes of one element of an operation; 0 where the code is reserved (Table 10-8). -/
def nmaWidth (op : Nat) : Nat :=
  match op with
  | 0 => 4 | 1 => 2 | 2 => 2 | 3 => 4 | 4 => 8 | 5 => 4 | 6 => 8
  | 8 => 4 | 9 => 8 | 10 => 4 | 11 => 4 | 12 => 8 | 13 => 8 | 14 => 8 | _ => 0

/-- Operations that return the old value of one element. -/
def nmaScalar (op : Nat) : Bool := decide (8 ≤ op)

/-- One element: the new value and the flags, from the old value, the operand and, for CAS, the new value. -/
def nmaElem (op old a b : Nat) : NF :=
  match op with
  | 0 => fadd .fp32 false old a
  | 1 => fadd .bf16 false old a
  | 2 => fadd .fp16 false old a
  | 3 => intResult 32 true (signed old 32 + signed a 32)
  | 4 => intResult 64 true (signed old 64 + signed a 64)
  | 5 => intResult 32 false (signed old 32 + signed a 32)
  | 6 => intResult 64 false (signed old 64 + signed a 64)
  | 8 => intResult 32 true (signed old 32 + signed a 32)
  | 9 => intResult 64 true (signed old 64 + signed a 64)
  | 10 => fadd .fp32 false old a
  | 11 => ⟨if old = a % 2 ^ 32 then b % 2 ^ 32 else old, 0⟩
  | 12 => ⟨if old = a % 2 ^ 64 then b % 2 ^ 64 else old, 0⟩
  | 13 => ⟨Nat.lor old (a % 2 ^ 64), 0⟩
  | 14 => ⟨max old (a % 2 ^ 64), 0⟩
  | _ => ⟨old, 0⟩

/-- The operation on the bytes of a line from a position: new bytes and flags. -/
def nmaBytes (op pos : Nat) (line : List Byte) (ops : List Nat) (b : Nat) : List Byte × Flags :=
  let w := nmaWidth op
  ops.zipIdx.foldl (fun acc x =>
    let at_ := pos + w * x.2
    let r := nmaElem op (natLE (slice acc.1 at_ w)) x.1 b
    (overlay acc.1 at_ (bytesLE w r.n), acc.2 ||| r.f)) (line, 0)

/-- The elements of a byte string. -/
def elems (w : Nat) (b : List Byte) : List Nat :=
  (List.range (b.length / max w 1)).map fun i => natLE (slice b (w * i) w)

/-- A near-memory operation on the line of space-0 offset p: vector forms take operand elements, scalar forms one operand
and, for CAS, the new value. The answer holds the old element, for the scalar forms. Poison of the operand or of the line is
left on the line: a vector form is performed all the same, a scalar form changes nothing else (R231, log 43). -/
def State.nmaNow (s : State) (p src op : Nat) (ops : List Nat) (b : Nat) (poison : Bool) : State × Rd :=
  let w := nmaWidth op
  match s.place p with
  | none => (s.panMix p, Rd.error 11)
  | some key =>
    if s.quarantined (keyCore key) p then (s.quarHit key src, Rd.error 13)
    else
      let pos := p % 128
      match s.cached key with
      | some l =>
        let s := s.hitLine l 1
        let old := slice l.data pos w
        let bad := l.poison || poison
        if nmaScalar op ∧ bad then
          let l' := { l with poison := true, dirty := l.dirty || !l.poison }
          (s.modMem fun m => { m with cache := m.cache.map fun x => if x.key == key then l' else x }, ⟨old, true, 0⟩)
        else
          let r := nmaBytes op pos l.data ops b
          let l' := { l with data := r.1, dirty := true, poison := bad }
          let s := s.modMem fun m => { m.touch 0 key with cache := m.cache.map fun x => if x.key == key then l' else x }
          (s.nmaFlags (keyChan key) r.2, ⟨old, bad, 0⟩)
      | none =>
        let s := s.count (Reg.cchMissCnt (keyCore key)) 1
        if !s.chanOn (keyChan key) then
          if nmaScalar op then s.offRead key src else (s.stkLog key 4 0 src, Rd.error 14)
        else
          let r := s.chanRead key src
          let old := slice r.2.data pos w
          let bad := r.2.poison || poison
          if nmaScalar op ∧ r.2.poison then (r.1, ⟨old, true, 0⟩)
          else if nmaScalar op ∧ bad then (r.1.chanWrite key r.2.data true, ⟨old, true, 0⟩)
          else
            let n := nmaBytes op pos r.2.data ops b
            (((r.1.chanWrite key n.1 bad).modMem fun m => m.touch 0 key).nmaFlags (keyChan key) n.2, ⟨old, bad, 0⟩)

/-! ## Locks, and the accesses that wait for them (R224, R229) -/

/-- The line is locked for another requester, or the requester waits for its own unlocking write (R229). -/
def State.lockHolds (s : State) (key src : Nat) : Bool := s.mem.locks.any fun l => l.key == key || l.src == src

def State.answer (s : State) (src : Nat) (r : Rd) : State := s.emit (.line src (r.err == 0) r.poison r.data)
def State.answerWrite (s : State) (src err : Nat) : State := s.emit (.line src (err == 0) false [])

/-- Bytes lie within one line. -/
def inLine (pos n : Nat) : Bool := decide (0 < n) && decide (pos + n ≤ 128)

/-- Symbol errors strike the line that holds an offset. -/
def State.upsetAt (s : State) (off : Nat) (up : Upset) : State :=
  match s.place off with
  | some key => s.upset key up
  | none => s

/-- A locked read: the line is read and held, unless the read is refused, quarantined or of a disabled channel. -/
def State.lockRead (s : State) (off src hint : Nat) : State :=
  let r := s.stackReadNow off src hint
  let s1 := r.1.answer src r.2
  match s.place off with
  | none => s1
  | some key =>
    if s.quarantined (keyCore key) off ∨ ((s.cached key).isNone ∧ !s.chanOn (keyChan key)) then s1
    else s1.modMem fun m => { m with locks := m.locks ++ [⟨key, src, s.tide.now.toNat⟩] }

/-- The unlocking write: refused where the lock has been released (R229). -/
def State.unlockWrite (s : State) (off pos src hint : Nat) (b : List Byte) (poison : Bool) : State :=
  match s.place off with
  | none => (s.panMix off).answerWrite src 11
  | some key =>
    if !(s.mem.locks.any fun l => l.key == key && l.src == src) then s.answerWrite src 14
    else
      let s := s.modMem fun m => { m with locks := m.locks.filter fun l => !(l.key == key && l.src == src) }
      let w := s.stackWriteNow (off + pos) src hint b poison
      w.1.answerWrite src w.2

/-- Operand elements of a near-memory operation, and whether it is well formed: whole elements at their natural
alignment within one line (R229). -/
def nmaOperands (a : NmaAcc) : List Nat :=
  if nmaScalar a.op.toNat then [a.a.toNat] else elems (nmaWidth a.op.toNat) a.bytes
def nmaOk (a : NmaAcc) : Bool :=
  let w := nmaWidth a.op.toNat
  let n := if nmaScalar a.op.toNat then w else a.bytes.length
  decide (0 < w) && decide (4 ≤ n) && n % w == 0 && a.off % w == 0 && decide (a.off % 128 + n ≤ 128)

/-- Its line, its requester, and whether its bytes lie within one line. An unlocking write waits for no lock. -/
def State.waitingKey (s : State) (w : Waiting) : Nat :=
  match w with
  | .stack a => (s.place (a.off / 128 * 128)).getD (2 ^ 40)
  | .nma a => (s.place a.off).getD (2 ^ 40)
  | .wc w => w.key
def Waiting.src : Waiting → Nat
  | .stack a => a.src
  | .nma a => a.src
  | .wc w => 289 + w.core
def Waiting.ok : Waiting → Bool
  | .stack a => match a.op with
    | .write pos b _ => inLine pos b.length
    | .unlockWrite pos b _ => inLine pos b.length
    | _ => true
  | .nma _ => true
  | .wc _ => true
def Waiting.unlocks : Waiting → Bool
  | .stack a => match a.op with
    | .unlockWrite .. => true
    | _ => false
  | .nma _ => false
  | .wc _ => false

/-! ## A channel that drains (R234) -/

/-- Accesses that have reached a channel and are not finished: those that wait there, and a locked read-modify-write. -/
def State.chanBusy (s : State) (ch : Nat) : Bool :=
  (s.mem.locks.any fun l => keyChan l.key == ch) || s.mem.waiting.any fun w => keyChan (s.waitingKey w) == ch

/-- A graceful disable is complete once they are performed. -/
def State.drained (s : State) (ch : Nat) : State :=
  if s.draining (chPage ch) ∧ !s.chanBusy ch then s.statOff (chPage ch) false else s

/-- An access that had reached its channel before the channel began to drain is performed all the same. -/
def State.admitted (s : State) (key : Nat) (f : State → State) : State :=
  let pn := chPage (keyChan key)
  if s.draining pn then (f (s.wb (blkCtrl pn) 0 true)).wb (blkCtrl pn) 0 false else f s

/-- A line that can still be accessed: its channel is enabled, or the cache holds it. -/
def State.served (s : State) (key : Nat) : Bool := s.chanOn (keyChan key) || (s.cached key).isSome

/-- An access is performed at the core cache; an ill-formed or reserved near-memory operation completes with an access error
(R224, R229 to R231). -/
def State.performAccess (s : State) (w : Waiting) : State :=
  match w with
  | .stack a =>
    let off := a.off / 128 * 128
    let hint := a.hint.toNat
    match a.op with
    | .read => let r := s.stackReadNow off a.src hint; r.1.answer a.src r.2
    | .write pos b poison => let w := s.stackWriteNow (off + pos) a.src hint b poison; w.1.answerWrite a.src w.2
    | .lockRead => s.lockRead off a.src hint
    | .unlockWrite pos b poison => s.unlockWrite off pos a.src hint b poison
  | .nma a =>
    if !nmaOk a then s.answerWrite a.src 10
    else
      let r := s.nmaNow a.off a.src a.op.toNat (nmaOperands a) a.b.toNat a.poison
      if nmaScalar a.op.toNat then r.1.answer a.src { r.2 with data := if r.2.err = 0 then r.2.data else [] }
      else r.1.answerWrite a.src r.2.err
  | .wc w => (s.cacheWrite w.key (289 + w.core) 0 w.mask w.data w.poison).1

/-- The accesses that wait are performed, oldest first, as far as their lines are free. -/
def State.serveLoop (s : State) (fuel : Nat) : State :=
  match fuel with
  | 0 => s
  | fuel + 1 =>
    match s.mem.waiting.findIdx? fun w => !s.lockHolds (s.waitingKey w) w.src with
    | none => s
    | some i => match s.mem.waiting[i]? with
      | none => s
      | some w =>
        let key := s.waitingKey w
        State.serveLoop (((s.modMem fun m => { m with waiting := m.waiting.eraseIdx i }).admitted key fun s =>
          s.performAccess w).drained (keyChan key)) fuel

def State.serve (s : State) : State := s.serveLoop s.mem.waiting.length

/-- An access arrives at the core cache: it waits while its line is locked, else it is performed, and what waited for it (R224,
R229). An unlocking write belongs to the access that locked the line; any other new access to a channel that drains is refused
(R234). -/
def State.arrive (s : State) (w : Waiting) : State :=
  let key := s.waitingKey w
  if !w.ok then s
  else if w.unlocks then ((s.admitted key fun s => s.performAccess w).drained (keyChan key)).serve
  else if s.lockHolds key w.src ∧ s.served key then s.modMem fun m => { m with waiting := m.waiting ++ [w] }
  else (s.performAccess w).serve

/-- The forced disable of a channel at its boundary: what waits there for a line that the cache does not hold meets the disabled
channel, a read poisoned, a write or addition dropped with an access error, a fetch operation answered poisoned (R234). -/
def State.forceChannel (s : State) (ch : Nat) : State :=
  let hit (w : Waiting) : Bool := keyChan (s.waitingKey w) == ch && (s.cached (s.waitingKey w)).isNone
  s.each (s.mem.waiting.filter hit) fun s w =>
    (s.modMem fun m => { m with waiting := m.waiting.erase w }).performAccess w

def State.stackAccess (s : State) (a : StackAcc) : State :=
  (s.upsetAt (a.off / 128 * 128) a.upset).arrive (.stack { a with upset := [] })

def State.nmaAccess (s : State) (a : NmaAcc) : State := (s.upsetAt a.off a.upset).arrive (.nma { a with upset := [] })

/-- A lock is released without its unlocking write, which will be refused (R229). -/
def State.lockExpire (s : State) (l : Lock) : State :=
  (((s.modMem fun m => { m with locks := m.locks.erase l }).stkLog l.key 6 0 l.src).raise (chPage (keyChan l.key)) 11 10
    (1024 + keyChan l.key)).drained (keyChan l.key)

/-- An access of a unit of the device to a line locked for another requester waits until the lock is released; the commands
before it have brought no unlocking write, so the lock's 2,048 ns have passed (R229; DESIGN CHOICE, log 123). What waited longer
goes first. -/
def State.pastLock (s : State) (key src fuel : Nat) : State :=
  match fuel with
  | 0 => s
  | fuel + 1 =>
    match s.mem.locks.find? fun l => l.key == key && l.src != src with
    | none => s
    | some l => State.pastLock (s.lockExpire l).serve key src fuel

/-- The same for the line that holds space-0 offset p. -/
def State.pastLockAt (s : State) (p src : Nat) : State :=
  if s.mem.locks.isEmpty then s
  else match s.place p with
    | none => s
    | some key => s.pastLock key src (s.mem.waiting.length + 1)

/-- Read the line that holds space-0 offset p. -/
def State.stackRead (s : State) (p src hint : Nat) : State × Rd := (s.pastLockAt p src).stackReadNow p src hint

/-- Write bytes within the line that holds space-0 offset p; 0, or the REASON of a refusal. -/
def State.stackWrite (s : State) (p src hint : Nat) (b : List Byte) (poison : Bool) : State × Nat :=
  (s.pastLockAt p src).stackWriteNow p src hint b poison

/-- A near-memory operation of a unit on the line of space-0 offset p. -/
def State.nma (s : State) (p src op : Nat) (ops : List Nat) (b : Nat) (poison : Bool) : State × Rd :=
  (s.pastLockAt p src).nmaNow p src op ops b poison

end Sys2Proof.Machine
end

