-- ==== Sys2Proof/Machine/Tier.lean ====
section
/-! DEFINITION. The lower tiers: board memory (R258 to R262, R272), the host window (R263, R301 to R303), late and failed
accesses (R271), and one access to any space of the device. -/
namespace Sys2Proof.Machine

/-! ## Board tier -/

/-- Usable bytes: 16 × raw capacity × 15/16 with all sixteen interfaces trained at one density, else 0 (R259). -/
def State.tierSize (s : State) : Nat :=
  let d := natAt s.mem.trained 0
  if d ≠ 0 ∧ (List.range 16).all (fun n => natAt s.mem.trained n == d) then 15 * 2 ^ (34 + (d - 1)) else 0

/-- The interface that holds space-1 offset o, and its raw line index (R260). -/
def boardIface (o : Nat) : Nat := Nat.xor (o / 4096 % 16) (o / 4096 / 16 % 16)
def boardRaw (o : Nat) : Nat :=
  let lam := (o / 4096 / 16 * 4096 + o % 4096) / 128
  16 * (lam / 15) + lam % 15

/-- A record of BRD_ERR_LOG (Table 11-19). -/
def State.brdLog (s : State) (o kind symbols src : Nat) : State :=
  { s with logq := s.logq ++
      [(Reg.brdErrLog (boardIface o), BitVec.ofNat 64 (boardRaw o + kind * 2 ^ 32 + symbols * 2 ^ 35 + src * 2 ^ 48),
        Reg.brdErrTick (boardIface o))] }

def State.brdCe (s : State) (o symbols src kind : Nat) : State :=
  let s := s.brdLog o kind symbols src
  if symbols = 0 then s
  else (s.count (Reg.brdCeCnt (boardIface o)) symbols).raise (bmPage (boardIface o)) 8 10 (265 + boardIface o)

def State.brdUe (s : State) (o src : Nat) : State :=
  ((s.brdLog o 2 0 src).count (Reg.brdUeCnt (boardIface o)) 1).raise (bmPage (boardIface o)) 9 2 (265 + boardIface o)

/-- A board line that has never been written whole (R497). -/
def State.boardUnwritten (s : State) (o src : Nat) : State × Rd :=
  let f := s.free
  let data := s.drawn.freeBytes 128
  let s := s.drawn.drawnN 128
  match f % 4 with
  | 0 => (s, ⟨data, false, 0⟩)
  | 1 => (s.brdCe o (1 + f / 4 % 2) src 1, ⟨data, false, 0⟩)
  | 2 => (s.brdUe o src, Rd.poisoned)
  | _ => (s.brdLog o 3 0 src, Rd.poisoned)

/-- The line of offset o as its interface decodes it, in mode 0 (R261). -/
def State.boardDecode (s : State) (o src : Nat) : State × Rd :=
  let id := o / 128
  match cellRead s.mem.board (128 * id) 128 with
  | none => s.boardUnwritten o src
  | some d =>
    let errs := Sparse.get (fun _ => []) s.mem.boardErr id
    match decodeLine false (flagAt s.mem.boardPoison id) errs with
    | .clean => (s, ⟨applyErrs d errs, false, 0⟩)
    | .corrected fix => (s.brdCe o fix.length src 1, ⟨applyErrs d (errs ++ fix), false, 0⟩)
    | .poison n => (s.brdCe o n src 3, ⟨d, true, 0⟩)
    | .uncorrectable => (s.brdUe o src, ⟨d, true, 0⟩)

/-- An interface performs accesses (R272). -/
def State.boardOn (s : State) (o : Nat) : Bool := s.rb (blkCtrl (bmPage (boardIface o))) 0

/-- An access to a lower tier is issued: it is outstanding until its tier completes it (R271). -/
def State.issue (s : State) (l : Lower) : State := s.modMem fun m => { m with lower := m.lower ++ [l] }

/-- An access of a unit to an offset of space 1 or 2, issued now. -/
def State.lowerOf (s : State) (space off len src : Nat) (write : Bool) : Lower :=
  { space := space, off := off, len := len, write := write, src := src, tick := s.tick, tag := 0, task := none, kind := .access
    va := 0, req := 0, dests := [], failed := false, late := false }

/-- What is known of the lower-tier accesses that were issued since s0. -/
def State.markIssued (s s0 : State) (f : Lower → Lower) : State :=
  s.modMem fun m => { m with
    lower := m.lower.take s0.mem.lower.length ++ (m.lower.drop s0.mem.lower.length).map f }

/-- The reads issued since s0 are of a kind. -/
def State.markReads (s s0 : State) (k : LowerKind) : State :=
  s.markIssued s0 fun l => if l.kind = .access ∧ !l.write then { l with kind := k } else l

/-- The accesses issued since s0, where no other task has claimed them, are of a task: of its entry or row tag, with a request
handle and the destinations that they may poison. A DMA read keeps its own tag (R271). -/
def State.adopt (s s0 : State) (t : Nat × Nat × Word) (tag req : Nat) (dests : List Dest) : State :=
  s.markIssued s0 fun l =>
    if l.task = none then { l with task := some t, tag := if l.space = 2 ∧ !l.write then l.tag else tag, req := req, dests := dests } else l

/-- An access to board interface n is outstanding (R234, R272). -/
def State.boardBusy (s : State) (n : Nat) : Bool := s.mem.lower.any fun l => l.space == 1 && l.len != 0 && boardIface l.off == n

/-- Read the line of space-1 offset o. -/
def State.boardRead (s : State) (o src : Nat) : State × Rd :=
  if s.tierSize ≤ o then (s, Rd.error 11)
  else if s.boardOn o then (s.issue (s.lowerOf 1 o 128 src false)).boardDecode o src
  else ((s.brdLog o 4 0 src).raise (bmPage (boardIface o)) 9 2 (265 + boardIface o), Rd.poisoned)

/-- Store a whole board line. -/
def State.boardStore (s : State) (o : Nat) (data : List Byte) (poison : Bool) : State :=
  let id := o / 128
  s.modMem fun m => { m.touch 1 id with
    board := cellWrite m.board (128 * id) data
    boardPoison := setFlag m.boardPoison id poison
    boardErr := Sparse.set (fun _ => []) m.boardErr id [] }

/-- What is stored of a board line: its bytes, its poison, its symbol errors. -/
def State.boardHeld (s : State) (o : Nat) : List Host.Cell × Bool × List (Nat × BitVec 16) :=
  let id := o / 128
  (s.mem.board.filter fun c => c.1 / 128 == id, flagAt s.mem.boardPoison id, Sparse.get (fun _ => []) s.mem.boardErr id)

/-- A board line holds again what it held. -/
def State.boardRestore (s : State) (o : Nat) (x : List Host.Cell × Bool × List (Nat × BitVec 16)) : State :=
  let id := o / 128
  s.modMem fun m => { m.touch 1 id with
    board := x.1.foldl (fun b c => cellWrite b c.1 [c.2]) (m.board.filter fun c => c.1 / 128 != id)
    boardPoison := setFlag m.boardPoison id x.2.1
    boardErr := Sparse.set (fun _ => []) m.boardErr id x.2.2 }

/-- Write bytes within the line of space-1 offset o; a partial write is merged at the interface and leaves a poisoned
line poisoned (R262, R219). -/
def State.boardWrite (s : State) (o src : Nat) (b : List Byte) (poison : Bool) : State × Nat :=
  if s.tierSize ≤ o then (s, 11)
  else if !s.boardOn o then (s.brdLog o 4 0 src, 14)
  else if b.length = 128 then ((s.issue { s.lowerOf 1 o 128 src true with undo := some (s.boardHeld o) }).boardStore o b poison, 0)
  else
    let r := (s.issue { s.lowerOf 1 o b.length src true with undo := some (s.boardHeld o) }).boardDecode o src
    (r.1.boardStore o (overlay r.2.data (o % 128) b) (r.2.poison || poison), 0)

/-! ## Late and failed accesses -/

/-- A late or failed access is recorded in BRD_LT_LOG at its boundary, counted, and raises LT_LATE, class 2, with the
index of the interface or of GP0 (R271). -/
def State.lowerFail (s : State) (space off src : Nat) (write failed : Bool) : State :=
  let log := BitVec.ofNat 64 (src + write.toNat * 2 ^ 16 + failed.toNat * 2 ^ 17 + space * 2 ^ 18 + 2 ^ 31)
  let s := { s with logq := s.logq ++ [(Reg.brdLtLog, log, Reg.brdLtTick), (Reg.brdLtOffset, BitVec.ofNat 64 off, 0)] }
  (s.count Reg.brdLateCnt 1).raise 0x210 10 2 (if space = 1 then 265 + boardIface off else 264)

/-! ## Host window (R301 to R303) -/

/-- A Gutex packet is sent and waits at GP0 on its virtual lane; it occupies one slot and those of its data (Table 12-8;
the spec leaves the layout of the content to the adapter's manual). -/
def State.gutexSend (s : State) (o : Out) (vl type : Nat) (data : List Byte) : State :=
  (s.emit o).modPort 8 fun p => { p with txq := p.txq ++ [⟨vl, 1 + (data.length + 15) / 16, type, data, none⟩] }

/-- REG_CPL answers a register access of the host on virtual lane 1; data go with a read that was performed (R298). -/
def State.regCpl (s : State) (tag : BitVec 16) (ok : Bool) (read : Nat) (v : Dword) : State :=
  s.gutexSend (.regCpl tag (if ok then 0 else 1) v) 1 4 (if ok then bytesLE read v.toNat else [])

/-- The port GP0 is UP (Table 12-5). -/
def State.gp0Up (s : State) : Bool := s.rf Reg.gtxStat 0 3 == 5

/-- Host address of space-2 offset o; none where no segment maps it (R301). -/
def State.hostAddr (s : State) (o : Nat) (write : Bool) : Option Nat :=
  let n := o / 2 ^ 40
  if 64 ≤ n then none
  else
    let c := s.r64 (Reg.gtxHwinCtrl n)
    if c.getLsbD 0 ∧ (!write ∨ c.getLsbD 1) ∧ o % 2 ^ 40 < 4096 * (fld c 12 28 + 1) then
      some (((s.r64 (Reg.gtxHwinBase n)).toNat + o % 2 ^ 40) % 2 ^ 64)
    else none

/-- The agreed Gutex version is at least 1.2 (R297). -/
def State.gtxVersion (s : State) : Nat := s.rf (blkProtoActive gtxPn) 0 16

/-- Host memory as the device last saw it; a byte it has never seen is free (log 10). -/
def State.hostSeen (s : State) (o n : Nat) : State × List Byte :=
  ((s.drawnN n), (List.range n).map fun i =>
    (cellByte s.mem.host (o + i)).getD (BitVec.ofNat 8 (Config.free (s.fresh + i))))

/-- REASON of a read that cannot go on until a host read of its task has arrived; it is no fault (R247 has none of this number). -/
def waitReason : Nat := 99

/-- The host read of n bytes that the task whose reads are being made has at an offset. -/
def State.gotAt (s : State) (o n : Nat) : Option Got :=
  s.mem.reading.bind fun t => s.mem.got.find? fun g => g.task == t && g.off == o && g.len == n

/-- A host read of a task has not arrived. -/
def Mem.awaits (m : Mem) (t : Nat × Nat × Word) : Bool := m.got.any fun g => g.task == t && g.data.isNone

/-- What a task's host read gives. -/
def Got.read (g : Got) : Rd :=
  match g.data with
  | some b => ⟨b, g.poison, 0⟩
  | none => ⟨List.replicate g.len 0, false, waitReason⟩

/-- The DMA read of n bytes at space-2 offset o leaves, and stays outstanding until its completion arrives; with the host link down, GP0
reports the access failed, and the next boundary samples it (R271). -/
def State.dmaRead (s : State) (o src n a : Nat) : State :=
  let l : Lower := { s.lowerOf 2 o n src false with tag := s.mem.nextTag, failed := !s.gp0Up }
  let t := (s.issue l).modMem fun m => { m with
    nextTag := m.nextTag + 1
    got := match m.reading with | some t => m.got ++ [⟨t, o, n, s.mem.nextTag, none, false⟩] | none => m.got }
  if l.failed then t else t.gutexSend (.dmaRd s.mem.nextTag (BitVec.ofNat 64 a) n) 0 5 []

/-- Read n bytes at space-2 offset o. A task waits for what its DMA read brings; any other requester is answered with host memory as the
device last saw it, and with the link down poisoned (log 10). -/
def State.hostRead (s : State) (o src n : Nat) : State × Rd :=
  match s.hostAddr o false with
  | none => (s, Rd.error 11)
  | some a =>
    match s.gotAt o n with
    | some g => (s, g.read)
    | none =>
      let t := s.dmaRead o src n a
      if s.mem.reading.isSome then (t, ⟨List.replicate n 0, false, waitReason⟩)
      else if !s.gp0Up then (t, { Rd.poisoned with data := List.replicate n 0 })
      else let r := t.hostSeen o n; (r.1, ⟨r.2, false, 0⟩)

/-- A write at space-2 offset o would fail: poisoned data are not written (R418), and GP0 needs its link. -/
def State.hostFails (s : State) (poison : Bool) : Bool := poison || !s.gp0Up

/-- Write bytes at space-2 offset o; a failing write is reported failed, and the next boundary samples it (R271, R418). -/
def State.hostWrite (s : State) (o src : Nat) (b : List Byte) (poison : Bool) : State × Nat :=
  match s.hostAddr o true with
  | none => (s, 11)
  | some a =>
    if s.hostFails poison then (s.issue { s.lowerOf 2 o b.length src true with failed := true }, 15)
    else
      let relaxed := s.rb (Reg.gtxHwinCtrl (o / 2 ^ 40)) 2 && decide (0x102 ≤ s.gtxVersion)
      (((s.issue (s.lowerOf 2 o b.length src true)).modMem fun m => { m.touch 2 (o / 128) with host := cellWrite m.host o b }).gutexSend
        (.dmaWr (BitVec.ofNat 64 a) relaxed b) 0 6 b, 0)

/-! ## One line of any space (R242) -/

/-- The device number (R36, Table 11-1). -/
def State.dev (s : State) : Nat := s.rf Reg.xptDev 0 10

/-- Saltern address fields (Table 11-1). -/
def saDev (a : Nat) : Nat := a / 2 ^ 54 % 1024
def saSpace (a : Nat) : Nat := a / 2 ^ 51 % 8
def saOff (a : Nat) : Nat := a % 2 ^ 51

/-- Read the line that holds an offset of space 0, 1 or 2; the answer is the whole line. -/
def State.lineRead (s : State) (space off src hint : Nat) : State × Rd :=
  let o := off / 128 * 128
  lowFoot.of s <| match space with
  | 0 => s.stackRead o src hint
  | 1 => s.boardRead o src
  | 2 => s.hostRead o src 128
  | _ => (s, Rd.error 10)

/-- Write bytes within one line of space 0, 1 or 2. -/
def State.lineWrite (s : State) (space off src hint : Nat) (b : List Byte) (poison : Bool) : State × Nat :=
  lowFoot.of s <| match space with
  | 0 => s.stackWrite off src hint b poison
  | 1 => s.boardWrite off src b poison
  | 2 => s.hostWrite off src b poison
  | _ => (s, 10)

/-- The parts of n bytes at an offset that lie in one line each: offset and length, in rising order. -/
def lineParts (fuel off n : Nat) : List (Nat × Nat) :=
  match fuel with
  | 0 => []
  | fuel + 1 =>
    if n = 0 then []
    else
      let k := min n (128 - off % 128)
      (off, k) :: lineParts fuel (off + k) (n - k)

/-- Read n bytes at an offset, line by line: data, poison of any line, and the first error. -/
def State.spanRead (s : State) (space off n src hint : Nat) : State × Rd :=
  (lineParts (n / 128 + 2) off n).foldl (fun acc p =>
    let r := acc.1.lineRead space p.1 src hint
    (r.1, ⟨acc.2.data ++ slice r.2.data (p.1 % 128) p.2, acc.2.poison || r.2.poison,
      if acc.2.err = 0 then r.2.err else acc.2.err⟩)) (s, ⟨[], false, 0⟩)

/-- Write bytes at an offset, line by line; the first error. -/
def State.spanWrite (s : State) (space off src hint : Nat) (b : List Byte) (poison : Bool) : State × Nat :=
  let r := (lineParts (b.length / 128 + 2) off b.length).foldl (fun (acc : State × Nat × Nat) p =>
    let w := acc.1.lineWrite space p.1 src hint (slice b acc.2.2 p.2) poison
    (w.1, if acc.2.1 = 0 then w.2 else acc.2.1, acc.2.2 + p.2)) (s, 0, 0)
  (r.1, r.2.1)

end Sys2Proof.Machine
end

