-- ==== Sys2Proof/Machine/Brine.lean ====
section
/-! DEFINITION. Brine (R264 to R270): the block code, its decoder and its compressor, and CRC-32C (R208). -/
namespace Sys2Proof.Machine

/-! ## CRC-32C -/

def crc32Bits (n c : Nat) : Nat :=
  match n with
  | 0 => c
  | n + 1 => crc32Bits n (if c % 2 = 1 then Nat.xor (c / 2) 0x82F63B78 else c / 2)

/-- CRC-32C of bytes: reflected polynomial 0x1EDC6F41, initial value and final XOR all ones (R208). -/
def crc32c (b : List Byte) : Nat :=
  Nat.xor (b.foldl (fun c x => crc32Bits 8 (Nat.xor c x.toNat)) 0xFFFFFFFF) 0xFFFFFFFF

/-! ## One block -/

/-- The token stream of a METHOD 2 block: the 4,096 bytes of t and what follows the stream; none when a run passes byte
4,096 or the stream ends early (R265, R266). acc holds t reversed. -/
def brineTokens (fuel : Nat) (b : List Byte) (n : Nat) (acc : List Byte) : Option (List Byte × List Byte) :=
  match fuel with
  | 0 => none
  | fuel + 1 =>
    if n = 4096 then some (acc.reverse, b)
    else match b with
      | [] => none
      | c :: t =>
        let k := if c.toNat < 128 then c.toNat + 1 else c.toNat - 127
        if 4096 < n + k then none
        else if c.toNat < 128 then
          if t.length < k then none else brineTokens fuel (t.drop k) (n + k) ((t.take k).reverse ++ acc)
        else brineTokens fuel t (n + k) (List.replicate k 0 ++ acc)

/-- Running XOR over a plane. -/
def xorRun (acc : Byte) (l : List Byte) : List Byte :=
  match l with
  | [] => []
  | x :: t => (x ^^^ acc) :: xorRun (x ^^^ acc) t

/-- Undo the delta of each plane and interleave the planes (R265). -/
def unplane (s : Nat) (t : List Byte) : List Byte :=
  let n := 4096 / s
  let planes := (List.range s).map fun p => xorRun 0 ((t.drop (p * n)).take n)
  (List.range 4096).map fun i => nth 0 (nth [] planes (i % s)) (i / s)

/-- METHOD and STRIDE are defined, and GRANULES matches METHOD (Table 11-12, R266). -/
def brineFields (method stride granules : Nat) : Bool :=
  match method with
  | 0 => stride == 0 && granules == 32
  | 1 | 3 => stride == 0 && granules == 0
  | 2 => decide (stride ≤ 2) && decide (1 ≤ granules) && decide (granules ≤ 31)
  | _ => false

/-- A block from its index fields and its granules; none on a decode error (R265, R266). -/
def brineBlock (method stride granules : Nat) (data : List Byte) : Option (List Byte) :=
  if !brineFields method stride granules then none
  else match method with
  | 0 => some (slice data 0 4096)
  | 1 => some (List.replicate 4096 0)
  | 2 =>
    match brineTokens (data.length + 1) data 0 [] with
    | none => none
    | some (t, rest) =>
      let raw := unplane (2 ^ stride) t
      if rest.length < 4 then none
      else if natLE (rest.take 4) = crc32c raw then some raw else none
  | _ => none

/-- The planes of a raw block with their deltas, the inverse of unplane (R267). -/
def plane (s : Nat) (raw : List Byte) : List Byte :=
  let n := 4096 / s
  (List.range s).flatMap fun p =>
    (List.range n).map fun i =>
      if i = 0 then nth 0 raw p else nth 0 raw (p + s * i) ^^^ nth 0 raw (p + s * (i - 1))

/-- Length of the literal run at the head of t: to 128 bytes, the end, or the first two consecutive zeros (R267). -/
def literalLen (fuel : Nat) (t : List Byte) : Nat :=
  match fuel, t with
  | 0, _ => 0
  | _, [] => 0
  | fuel + 1, x :: r => if x = 0 ∧ r.head? = some 0 then 0 else 1 + literalLen fuel r

def zeroLen (fuel : Nat) (t : List Byte) : Nat :=
  match fuel, t with
  | 0, _ => 0
  | _, [] => 0
  | fuel + 1, x :: r => if x = 0 then 1 + zeroLen fuel r else 0

/-- The token stream that the compressor emits for t (R267). -/
def brineEmit (fuel : Nat) (t : List Byte) : List Byte :=
  match fuel with
  | 0 => []
  | fuel + 1 =>
    match t with
    | [] => []
    | x :: _ =>
      if x = 0 then let k := zeroLen 128 t; BitVec.ofNat 8 (k + 127) :: brineEmit fuel (t.drop k)
      else let k := literalLen 128 t; (BitVec.ofNat 8 (k - 1) :: t.take k) ++ brineEmit fuel (t.drop k)

/-- A compressed block: method, stride code, data padded to granules (R267). -/
def brineCompress (raw : List Byte) (poisoned : Bool) : Nat × Nat × List Byte :=
  if poisoned then (3, 0, [])
  else if raw.all (· == 0) then (1, 0, [])
  else
    let crc := bytesLE 4 (crc32c raw)
    let codes := [0, 1, 2].map fun k => (k, brineEmit 4097 (plane (2 ^ k) raw) ++ crc)
    let best := codes.foldl (fun (a : Nat × List Byte) c => if c.2.length < a.2.length then c else a)
      (nth (0, raw) codes 0)
    if 3968 < best.2.length then (0, 0, raw)
    else (2, best.1, best.2 ++ List.replicate ((128 - best.2.length % 128) % 128) 0)

/-! ## The object -/

/-- The fields of an object header (Table 11-11). -/
structure BrineHdr where
  blocks : Nat
  raw : Nat
  dataOff : Nat
  total : Nat
  indexCrc : Nat
deriving DecidableEq, Repr

/-- The header, if its magic, version, CRC and fields are valid. -/
def brineHeader (b : List Byte) : Option BrineHdr :=
  let h : BrineHdr := ⟨natLE (slice b 8 4), natLE (slice b 0x10 8), natLE (slice b 0x18 8), natLE (slice b 0x20 8),
    natLE (slice b 0x28 4)⟩
  if natLE (slice b 0 4) = 0x4E52424C ∧ natLE (slice b 6 2) = 1
      ∧ natLE (slice b 12 4) = crc32c (overlay (slice b 0 64) 12 [0, 0, 0, 0])
      ∧ 1 ≤ h.blocks ∧ h.blocks < 2 ^ 20 ∧ h.raw = 4096 * h.blocks
      ∧ h.dataOff % 128 = 0 ∧ 64 + 8 * h.blocks ≤ h.dataOff then some h else none

/-- The bytes of a header. -/
def brineHeaderBytes (h : BrineHdr) : List Byte :=
  let b := bytesLE 4 0x4E52424C ++ bytesLE 2 0 ++ bytesLE 2 1 ++ bytesLE 4 h.blocks ++ [0, 0, 0, 0] ++ bytesLE 8 h.raw
    ++ bytesLE 8 h.dataOff ++ bytesLE 8 h.total ++ bytesLE 4 h.indexCrc ++ List.replicate 20 0
  overlay b 12 (bytesLE 4 (crc32c b))

/-- A decode error of the hub (R266). -/
def State.brineErr (s : State) : State := (s.count Reg.brdBrineErr 1).raise 0x210 11 2 5127

/-- The index fields of an entry: METHOD, STRIDE, GRANULES, GOFF (Table 11-12). -/
def brineEntry (x : Nat) : Nat × Nat × Nat × Nat := (x % 8, x / 8 % 4, x / 32 % 64, x / 2 ^ 12 % 2 ^ 40)

/-- The index fields of an entry call for no granule, or for granules that the object holds (R266). -/
def brineSound (dataOff total : Nat) (f : Nat × Nat × Nat × Nat) : Bool :=
  brineFields f.1 f.2.1 f.2.2.1 && decide (dataOff + 128 * (f.2.2.2 + f.2.2.1) ≤ total)

/-- Decode block b of the object at an offset of space 1 or 2: REASON 11 where part of it maps nothing, raw bytes and a poison
bit per line (R264 to R266). The index fields are checked before any granule is read. -/
def State.brineDecode (s : State) (space off dataOff total b : Nat) : State × Nat × List Byte × BitVec 32 :=
  let zeros := List.replicate 4096 (0 : Byte)
  let bad (s : State) : State × Nat × List Byte × BitVec 32 := (s, 0, zeros, BitVec.allOnes 32)
  let ix := s.spanRead space (off + 64 + 8 * b) 8 5127 0
  if ix.2.err ≠ 0 then (ix.1, ix.2.err, zeros, 0)
  else if ix.2.poison then bad ix.1
  else
    let f := brineEntry (natLE ix.2.data)
    let (method, stride, granules, goff) := f
    if !brineSound dataOff total f then bad ix.1.brineErr
    else if method = 3 then bad ix.1
    else
      let d := ix.1.spanRead space (off + dataOff + 128 * goff) (128 * granules) 5127 0
      if d.2.err ≠ 0 then (d.1, d.2.err, zeros, 0)
      else if method = 0 ∧ d.2.poison then
        -- a stored block keeps poison line by line
        let r := (List.range 32).foldl (fun (a : State × List Byte × Nat) i =>
          let x := a.1.spanRead space (off + dataOff + 128 * (goff + i)) 128 5127 0
          (x.1, a.2.1 ++ x.2.data, a.2.2 + if x.2.poison then 2 ^ i else 0)) (ix.1, [], 0)
        (r.1, 0, r.2.1, BitVec.ofNat 32 r.2.2)
      else if d.2.poison then bad d.1
      else match brineBlock method stride granules d.2.data with
        | some raw => (d.1, 0, raw, 0)
        | none => bad d.1.brineErr

/-- The block through the hub's cache of 64 decoded blocks (R270). -/
def State.brineCached (s : State) (space off dataOff total b : Nat) : State × Nat × List Byte × BitVec 32 :=
  let obj := space * 2 ^ 51 + off
  match s.mem.brine.find? fun x => x.1 == obj && x.2.1 == b with
  | some x => ((s.modMem fun m => { m with brine := x :: m.brine.filter fun y => y != x }), 0, x.2.2.1, x.2.2.2)
  | none =>
    let r := s.brineDecode space off dataOff total b
    if r.2.1 ≠ 0 then r
    else ((r.1.modMem fun m => { m with brine := ((obj, b, r.2.2.1, r.2.2.2) :: m.brine).take 64 }), r.2)

/-- The header of the object at an offset, or the REASON of Table 11-5: 11 where it lies where nothing is mapped, 12 where it
is invalid or read poisoned. -/
def State.brineHdr (s : State) (space off : Nat) : State × (BrineHdr ⊕ Nat) :=
  let r := s.spanRead space off 64 5127 0
  (r.1, if r.2.err ≠ 0 then .inr r.2.err
    else match (if r.2.poison then none else brineHeader r.2.data) with
      | some h => .inl h
      | none => .inr 12)

end Sys2Proof.Machine
end

