-- ==== Sys2Proof/Machine/Xlate.lean ====
section
/-! DEFINITION. Translation (R242 to R253, R270): the walk, the translation caches, invalidation, and the accesses of an
engine's units and of the hub through virtual addresses. -/
namespace Sys2Proof.Machine

/-- Who translates: an engine, through its core's walker, or the hub (R249). -/
abbrev Xlator := Option Nat

/-- The walker: core 0 to 7, 8 for the hub; and the source index of its accesses (R493). -/
def walker (x : Xlator) : Nat := match x with | some e => e / 32 | none => 8
def walkerSrc (x : Xlator) : Nat := match x with | some e => 281 + e / 32 | none => 297

/-- First virtual bit of a level's index (Table 11-3). -/
def levelLow (l : Nat) : Nat := 39 - 9 * l

/-- A page of 2^S bytes at a frame crosses a LOCAL slice or exceeds the largest page of its pan (R245, REASON 4); any
other aligned page of at most 1 GiB lies within its pan. -/
def State.crossesPan (s : State) (frame log2 : Nat) : Bool :=
  saSpace frame == 0 && (s.panMode (saOff frame / 2 ^ 30 % 8) (saOff frame / 2 ^ 33) == 1) && decide (25 < log2)

/-- The check of an entry read at a level: REASON 2, 3, 4 or 5 of Table 11-5, or 0. -/
def State.entryReason (s : State) (l : Nat) (e : Dword) : Nat :=
  let v := e.getLsbD 0
  let leaf := e.getLsbD 1
  let sz := fld e 7 5
  let frame := e.toNat / 4096 * 4096
  if !v then 2
  else if fld e 4 3 ≠ 0 then 3
  else if leaf then
    if l = 0 ∨ (l = 1 ∧ sz ≠ 30) ∨ (l = 2 ∧ (sz < 21 ∨ 29 < sz)) ∨ (l = 3 ∧ (sz < 12 ∨ 20 < sz)) then 3
    else if frame % 2 ^ sz ≠ 0 ∨ s.crossesPan frame sz then 4
    else 0
  else if l = 3 ∨ e.getLsbD 2 ∨ e.getLsbD 3 ∨ sz ≠ 0 then 3
  else if saDev frame ≠ s.dev ∨ 1 < saSpace frame then 5
  else 0

/-- A table pointer enters the walk cache: 64 entries per walker, least recently used first out (R249). -/
def State.walkKeep (s : State) (w : WalkEntry) : State :=
  s.modMem fun m =>
    let l := w :: m.walk.filter fun x => x != w
    let mine := l.filter fun x => x.core == w.core
    { m with walk := if mine.length ≤ 64 then l else
        match mine.getLast? with
        | some old => l.filter fun x => x != old
        | none => l }

/-- Bytes of an access are counted for the context that it is made for, those of the serving cores and of what follows them in Table
2-3 for record 64 (R403, Table 16-6): kind 0 to 2 for the spaces, 3 sent, 4 received. -/
def State.countBytes (s : State) (src ctx kind n : Nat) : State :=
  let i := 8 * (if 5120 ≤ src then 64 else ctx) + kind
  s.modMem fun m => { m with moved := setNat m.moved i (natAt m.moved i + n) }

/-- The walk from a table at a level down: state, REASON (0 for none), and the translation (R244 to R247). -/
def State.walkLevels (s : State) (x : Xlator) (ctx va : Nat) (levels : List Nat) (table : Nat) : State × Nat × XEntry :=
  let none_ : XEntry := ⟨ctx, 0, 0, 0, false, false, 0, 0⟩
  match levels with
  | [] => (s, 3, none_)
  | l :: rest =>
    let r0 := s.spanRead (saSpace table) (saOff table + 8 * (va / 2 ^ levelLow l % 512)) 8 (walkerSrc x) 2
    let r := ((r0.1.markIssued s fun l => { l with kind := .walk, va := va }).countBytes 0 ctx (saSpace table) 8, r0.2)
    if r.2.poison ∨ r.2.err ≠ 0 then (r.1, 6, none_)
    else
      let e := BitVec.ofNat 64 (natLE r.2.data)
      let why := r.1.entryReason l e
      if why ≠ 0 then (r.1, why, none_)
      else
        let frame := e.toNat / 4096 * 4096
        if e.getLsbD 1 then
          let sz := fld e 7 5
          (r.1, 0, ⟨ctx, va / 2 ^ sz * 2 ^ sz, sz, frame, e.getLsbD 2, e.getLsbD 3, 0, 0⟩)
        else
          State.walkLevels (r.1.walkKeep ⟨walker x, ctx, l, va / 2 ^ levelLow l, frame⟩) x ctx va rest frame

/-- A whole walk: from the deepest table pointer held in the walk cache, else from the root (R244, R249). -/
def State.walk (s : State) (x : Xlator) (ctx va : Nat) : State × Nat × XEntry :=
  let c := walker x
  let root := s.r32 (Reg.coreCtxRoot (if c = 8 then 0 else c) ctx)
  let s := if c < 8 then s.count (Reg.coreWalkCnt c) 1 else s
  if !root.getLsbD 0 then (s, 1, ⟨ctx, 0, 0, 0, false, false, 0, 0⟩)
  else
    let hit (l : Nat) := s.mem.walk.find? fun w =>
      w.core == c && w.ctx == ctx && w.level == l && w.pfx == va / 2 ^ levelLow l
    match hit 2 with
    | some w => s.walkLevels x ctx va [3] w.table
    | none => match hit 1 with
      | some w => s.walkLevels x ctx va [2, 3] w.table
      | none => match hit 0 with
        | some w => s.walkLevels x ctx va [1, 2, 3] w.table
        | none =>
          let table := s.dev * 2 ^ 54 + (fld root 1 1) * 2 ^ 51 + fld root 2 30 * 4096
          s.walkLevels x ctx va [0, 1, 2, 3] table

/-- The translation cache of an engine or of the hub. -/
def State.xlCache (s : State) (x : Xlator) : List XEntry :=
  match x with
  | some e => (s.engine e).xl
  | none => s.mem.hubXl

def State.setXlCache (s : State) (x : Xlator) (l : List XEntry) : State :=
  match x with
  | some e => s.modEngine e fun g => { g with xl := l }
  | none => s.modMem fun m => { m with hubXl := l }

/-- Install a translation, most recently used; 256 entries an engine, 1,024 the hub (R249). -/
def State.xlInstall (s : State) (x : Xlator) (t : XEntry) : State :=
  s.setXlCache x ((t :: (s.xlCache x).filter fun y => y != t).take (if x.isSome then 256 else 1024))

/-- Translate an address: through the cache, else by a walk that installs its leaf. A leaf of a brine object is installed
only after its header has passed its check (REASON 12, R270). Faults are not cached. -/
def State.translate (s : State) (x : Xlator) (ctx va : Nat) : State × Nat × XEntry :=
  moveFoot.of s <| match (s.xlCache x).find? fun t => t.ctx == ctx && t.va == va / 2 ^ t.log2 * 2 ^ t.log2 with
  | some t => (s.xlInstall x t, 0, t)
  | none =>
    let r := s.walk x ctx va
    if r.2.1 ≠ 0 then r
    else
      let t := r.2.2
      if t.brine then
        if saDev t.frame ≠ s.dev ∨ (saSpace t.frame ≠ 1 ∧ saSpace t.frame ≠ 2) then (r.1, 10, t)
        else
          let h := r.1.brineHdr (saSpace t.frame) (saOff t.frame)
          match h.2 with
          | .inl hd =>
            let t' := { t with dataOff := hd.dataOff, total := hd.total }
            if hd.raw = 2 ^ t.log2 then (h.1.xlInstall x t', 0, t') else (h.1, 12, t)
          | .inr why => (h.1, why, t)
      else (r.1.xlInstall x t, 0, t)

/-- One access of a unit through a context: translator, source index, context, spaces that the unit reaches (R243), and
what ENG_XL_FAULT records of it. -/
structure Acc where
  who : Xlator
  src : Nat
  ctx : Nat
  spaces : List Nat
  unit : Nat
  tag : Nat
deriving DecidableEq, Repr

/-- A translation fault or access error of an engine's unit is recorded in ENG_XL_FAULT (R247, Table 11-16). -/
def State.xlFault (s : State) (a : Acc) (write : Bool) (reason va : Nat) : State :=
  match a.who with
  | none => s
  | some e =>
    let v := 1 + (if 8 ≤ reason then 2 else 0) + reason * 4 + a.unit * 2 ^ 8 + write.toNat * 2 ^ 11 + a.ctx * 2 ^ 12
      + a.tag * 2 ^ 32
    (s.w64 (Reg.engXlFault e) (BitVec.ofNat 64 v)).w64 (Reg.engXlFaultVa e) (BitVec.ofNat 64 va)

/-- Saltern place of a translated address, or REASON 10 where the unit may not reach it. -/
def State.reach (s : State) (a : Acc) (t : XEntry) (va : Nat) : Nat × Nat × Nat :=
  let sa := t.frame + va % 2 ^ t.log2
  if saDev sa ≠ s.dev ∨ saSpace sa ∉ a.spaces then (10, 0, 0) else (0, saSpace sa, saOff sa)

/-- Read n bytes that lie in one line at a virtual address. An error is recorded and returned as its REASON. -/
def State.vRead (s : State) (a : Acc) (va n hint : Nat) : State × Rd :=
  let r := s.translate a.who a.ctx va
  let fail (s : State) (why : Nat) : State × Rd :=
    (if why = waitReason then s else s.xlFault a false why va, ⟨List.replicate n 0, false, why⟩)
  let t := r.2.2
  let p := r.1.reach a t va
  moveFoot.of s <| if r.2.1 ≠ 0 ∧ r.2.1 < 8 then fail r.1 r.2.1
    else if p.1 ≠ 0 then fail r.1 p.1
    else if r.2.1 ≠ 0 then fail r.1 r.2.1
    else if t.brine then
      let x := va % 2 ^ t.log2
      let b := r.1.brineCached (saSpace t.frame) (saOff t.frame) t.dataOff t.total (x / 4096)
      if b.2.1 ≠ 0 then fail b.1 b.2.1
      else ((b.1.markIssued s fun l => { l with va := va }).countBytes a.src a.ctx (saSpace t.frame) n,
        ⟨slice b.2.2.1 (x % 4096) n, b.2.2.2.getLsbD (x % 4096 / 128), 0⟩)
    else
      let d := if p.2.1 = 2 then r.1.hostRead p.2.2 a.src n
        else
          let q := r.1.lineRead p.2.1 p.2.2 a.src hint
          (q.1, { q.2 with data := slice q.2.data (p.2.2 % 128) n })
      if d.2.err ≠ 0 then fail d.1 d.2.err else ((d.1.markIssued s fun l => { l with va := va }).countBytes a.src a.ctx p.2.1 n, d.2)

/-- Write bytes that lie in one line at a virtual address; 0, or the REASON recorded. A write that its lower tier fails is
recorded at the boundary that samples the failure (R271). -/
def State.vWrite (s : State) (a : Acc) (va hint : Nat) (b : List Byte) (poison : Bool) : State × Nat :=
  let r := s.translate a.who a.ctx va
  let fail (s : State) (why : Nat) : State × Nat := (s.xlFault a true why va, why)
  moveFoot.of s <| if r.2.1 ≠ 0 ∧ r.2.1 < 8 then fail r.1 r.2.1
  else
    let t := r.2.2
    if !t.w then fail r.1 8
    else if t.brine then fail r.1 9
    else
      let p := r.1.reach a t va
      if p.1 ≠ 0 then fail r.1 p.1
      else
        let w := r.1.lineWrite p.2.1 p.2.2 a.src hint b poison
        if w.2 ≠ 0 then fail w.1 w.2
        else ((w.1.markIssued s fun l => { l with va := va }).countBytes a.src a.ctx p.2.1 b.length, 0)

/-- Why a write of less than a line, or a near-memory operation, at a place would be refused when it arrives: REASON 11, 13 or 14,
or 0. -/
def State.storeReason (s : State) (space off : Nat) (nma : Bool) : Nat :=
  match space with
  | 0 => match s.place off with
    | none => 11
    | some key =>
      if s.quarantined (keyCore key) off then 13
      else if (s.cached key).isSome ∨ (!nma ∧ s.wcCompat (keyCore key)) ∨ s.chanOn (keyChan key) then 0
      else 14
  | 1 => if s.tierSize ≤ off then 11 else if s.boardOn off then 0 else 14
  | _ => if (s.hostAddr off true).isSome then 0 else 11

/-- A near-memory operation on one line at a virtual address, in space 0 only (R243, REASON 10 elsewhere). -/
def State.vNma (s : State) (a : Acc) (va op : Nat) (ops : List Nat) (cas : Nat) (poison : Bool) : State × Rd :=
  let r := s.translate a.who a.ctx va
  let fail (s : State) (why : Nat) : State × Rd := (s.xlFault a true why va, Rd.error why)
  moveFoot.of s <| if r.2.1 ≠ 0 ∧ r.2.1 < 8 then fail r.1 r.2.1
  else
    let t := r.2.2
    if !t.w then fail r.1 8
    else if t.brine then fail r.1 9
    else
      let p := r.1.reach { a with spaces := [0] } t va
      if p.1 ≠ 0 then fail r.1 p.1
      else
        let w := r.1.nma p.2.2 a.src op ops cas poison
        if w.2.err ≠ 0 then fail w.1 w.2.err else (w.1.countBytes a.src a.ctx 0 w.2.data.length, w.2)

/-- Read n bytes at a virtual address, line by line; the first error. -/
def State.vSpanRead (s : State) (a : Acc) (va n hint : Nat) : State × Rd :=
  (lineParts (n / 128 + 2) va n).foldl (fun acc p =>
    if acc.2.err ≠ 0 then acc
    else
      let r := acc.1.vRead a p.1 p.2 hint
      (r.1, ⟨acc.2.data ++ r.2.data, acc.2.poison || r.2.poison, r.2.err⟩)) (s, ⟨[], false, 0⟩)

/-- Write bytes at a virtual address, line by line, stopping at the first error. -/
def State.vSpanWrite (s : State) (a : Acc) (va hint : Nat) (b : List Byte) (poison : Bool) : State × Nat :=
  let r := (lineParts (b.length / 128 + 2) va b.length).foldl (fun (acc : State × Nat × Nat) p =>
    if acc.2.1 ≠ 0 then acc
    else
      let w := acc.1.vWrite a p.1 hint (slice b acc.2.2 p.2) poison
      (w.1, w.2, acc.2.2 + p.2)) (s, 0, 0)
  (r.1, r.2.1)

/-! ## Invalidation (R250, R252) -/

/-- A page overlaps the aligned range of 2^span bytes around va. -/
def overlaps (pva plog2 va span : Nat) : Bool :=
  let m := max plog2 span
  pva / 2 ^ m == va / 2 ^ m

/-- The entries that an invalidation word leaves; LOG2SPAN outside 12 to 48 leaves all (Table 11-14). -/
def invKeeps (v : Dword) (ctx pva plog2 : Nat) : Bool :=
  let span := fld v 8 6
  let va := fld v 16 36 * 4096
  decide (span < 12) || decide (48 < span) || (!v.getLsbD 6 && ctx != fld v 0 6) || !overlaps pva plog2 va span

/-- ENG_XL_INV (R250): the removed entries' accesses have all been performed, each access being whole. -/
def State.engInv (s : State) (e : Nat) (v : Dword) : State :=
  s.modEngine e fun g => { g with xl := g.xl.filter fun t => invKeeps v t.ctx t.va t.log2 }

/-- CORE_XL_INV (R252): the walk cache of the core and, at C0, the hub's caches and decoded blocks. -/
def State.coreInv (s : State) (c : Nat) (v : Dword) : State :=
  let span := fld v 8 6
  s.modMem fun m =>
    let keep (w : WalkEntry) := invKeeps v w.ctx (w.pfx * 2 ^ levelLow w.level) (levelLow w.level)
    let walk := m.walk.filter fun w => (w.core != c && !(c == 0 && w.core == 8)) || keep w
    if c = 0 ∧ 12 ≤ span ∧ span ≤ 48 then
      { m with walk := walk, hubXl := m.hubXl.filter fun t => invKeeps v t.ctx t.va t.log2, brine := [] }
    else { m with walk := walk }

end Sys2Proof.Machine
end

