-- ==== Sys2Proof/Machine/Task.lean ====
section
/-! DEFINITION. Queues, waits, takes, the start of a task, its completion and its retirement (R58 to R77, R495). -/
namespace Sys2Proof.Machine

/-! ## Statuses (Table 4-11) -/

def stOk : Nat := 0
def stCancelled : Nat := 1
def stTokenErr : Nat := 2
def stPoisonIn : Nat := 3
def stFault : Nat := 4
def stDescErr : Nat := 5
def stUnitErr : Nat := 6

/-- Statuses whose signals carry the error flag, and statuses that poison every destination. -/
def stErr (st : Nat) : Bool := st != 0 && st != 3
def stPoisons (st : Nat) : Bool := st == 1 || st == 2 || st == 4 || st == 6

/-! ## Counters held in an image (R396, R397) -/

/-- IMG of token counter t and of credit counter c: the away slot that holds it, 0 for none. -/
def State.tcImg (s : State) (e t : Nat) : Nat := fld (s.r64 (if t < 32 then Reg.engTcImg0 e else Reg.engTcImg1 e)) (2 * (t % 32)) 2
def State.ccImg (s : State) (e c : Nat) : Nat := fld (s.r64 (Reg.engCcImg e)) (2 * c) 2

def State.tcErr (s : State) (e t : Nat) : Bool := (s.r64 (Reg.engTcErr e)).getLsbD t
def State.tcStuck (s : State) (e t : Nat) : Bool := (s.r64 (Reg.engTcStuck e)).getLsbD t

/-- Set a bit of a 64-bit register. -/
def State.setBit64 (s : State) (off b : Nat) (v : Bool) : State := s.w64 off (putFld (s.r64 off) b 1 v.toNat)

/-! ## Waits and takes (R65 to R68) -/

/-- (a - b) mod 2^23 < 2^22. -/
def reached (a b : Nat) : Bool := decide ((a % 2 ^ 23 + 2 ^ 23 - b) % 2 ^ 23 < 2 ^ 22)

/-- A wait is satisfied (Table 4-7); CONSUME waits that name one counter need the sum of their VALUEs, and the queue of a QUEUE
wait is INDEX[1:0], of an invalid descriptor too. -/
def State.waitMet (s : State) (e : Nat) (ws : List Wait) (w : Wait) : Bool :=
  let v := (s.r32 (Reg.engTc e w.index)).toNat
  match w.kind with
  | 1 =>
    let sum := ((ws.filter fun x => x.kind == 1 && x.index == w.index).map (·.value)).sum
    s.tcImg e w.index == 0 && !s.tcStuck e w.index && decide (sum ≤ v)
  | 2 => s.tcImg e w.index == 0 && !s.tcStuck e w.index && reached v w.value
  | 3 => reached (s.r32 (Reg.engQDone e (w.index % 4))).toNat w.value
  | _ => true

/-- A take finds its credits (R68). -/
def State.takeMet (s : State) (e : Nat) (ks : List Credit) (k : Credit) : Bool :=
  let sum := ((ks.filter fun x => x.cc == k.cc).map (·.count)).sum
  s.ccImg e k.cc == 0 && decide (sum ≤ s.rf (Reg.engCc e k.cc) 0 16)

/-- A wait meets an error (R66). -/
def State.waitErr (s : State) (e : Nat) (w : Wait) : Bool :=
  !w.errOk && (if w.kind = 3 then s.rb (Reg.engQStat e (w.index % 4)) 8 else s.tcErr e w.index)

/-- Consumptions and takes of a task, together (R68). -/
def State.consume (s : State) (e : Nat) (d : Desc) : State :=
  let s := s.each (d.waits.filter fun w => w.kind == 1) fun s w =>
    s.w32 (Reg.engTc e w.index) (BitVec.ofNat 32 ((s.r32 (Reg.engTc e w.index)).toNat - w.value))
  s.each d.takes fun s k => s.wf (Reg.engCc e k.cc) 0 16 (s.rf (Reg.engCc e k.cc) 0 16 - k.count)

/-! ## Queues (R58, R59) -/

/-- (a - b) modulo 2^32. -/
def wrapDist (a b : Word) : Nat := (a - b).toNat

def State.qTasks (s : State) (e q : Nat) : List Task := (s.engine e).tasks.filter fun t => t.queue == q

/-- An access that the task, or the start of a fetched descriptor, waits for: a read of the host window (R263), or one that was
reported late or failed and that no boundary has sampled yet (R271). -/
def Mem.lowerWait (m : Mem) (e q : Nat) (index : Word) : Bool :=
  m.lower.any fun l => l.task == some (e, q, index) && l.len != 0 && ((l.space == 2 && !l.write) || l.failed || l.late)

/-- The descriptor at the head of a queue, fetched and below TAIL; one whose fetch was reported late or failed does not start (R271,
R495). -/
def State.head (s : State) (e q : Nat) : Option Desc :=
  if wrapDist (s.r32 (Reg.engQHead e q)) (s.r32 (Reg.engQDone e q)) < wrapDist (s.r32 (Reg.engQTail e q)) (s.r32 (Reg.engQDone e q))
    ∧ s.mem.lowerWait e q (s.r32 (Reg.engQHead e q)) = false
  then (Sparse.get (fun _ => []) (s.engine e).fetched q).head? else none

/-- Tasks of a unit that have started and not completed, and how many the unit holds (R114, R128, R150, R257). -/
def State.unitLoad (s : State) (e u : Nat) : Nat := ((s.engine e).tasks.filter fun t => !t.done && Desc.unit t.desc == u).length
def unitRoom (u : Nat) : Nat := if u < 3 then 2 else 4

/-- TIDE_MODE_STAT holds mode-dependent tasks of the engine (R26). -/
def State.mixedHold (s : State) (e : Nat) : Bool := s.rf Reg.tideModeStat 0 2 != 0 && s.commit.scope.contains e

/-- The power controller issues nothing (R450: a tick of any other duty holds issue slots for every engine). -/
def State.duty (s : State) : Nat := s.rf Reg.pwrStat 0 7

/-- Why the head of a queue cannot start: the reason and entry of ENG_STALL_SNAP (Table 4-13), none where it can. The
order in which the reasons are tried is the model's (log 7). A head that is below TAIL and not fetched yet, or that could start
at once, has no reason in Table 4-13: it shows 0 (DESIGN CHOICE, log 118). -/
def State.holdReason (s : State) (e q : Nat) : Option (Nat × Nat) :=
  match s.head e q with
  | none => some (if s.rb (Reg.engQStat e q) 9 then (9, 0) else (0, 0))
  | some d =>
    let ts := s.qTasks e q
    let ws := d.waits
    let ks := d.takes
    if 8 ≤ ts.length then some (7, 0)
    else if d.ordered ∧ ts ≠ [] then some (6, 0)
    else match ws.find? fun w => !s.waitMet e ws w with
      | some w => some (1, w.entry)
      | none => match ks.find? fun k => !s.takeMet e ks k with
        | some k => some (2, k.entry)
        | none =>
          if d.modeDep ∧ s.mixedHold e then some (4, 0)
          else if s.duty = 0 then some (5, 0)
          else if d.unit < 4 ∧ unitRoom d.unit ≤ s.unitLoad e d.unit ∧ !d.invalid e (s.engine e) then some (3, 0)
          else none

/-- The head of a queue wants a unit, and nothing but the unit's room can keep it from starting. -/
def State.wantsUnit (s : State) (e q u : Nat) : Bool :=
  match s.head e q with
  | none => false
  | some d => d.unit == u && !d.invalid e (s.engine e) &&
    (match s.holdReason e q with | none => true | some r => r.1 == 3)

/-- Another queue's head has waited for the unit while 5 tasks of other queues started on it, and longer than this queue's: it
goes first. At most three heads wait so, so that none sees 8 tasks pass it (R69; the threshold is a DESIGN CHOICE, log 15). -/
def State.outrun (s : State) (e q : Nat) : Bool :=
  match s.head e q with
  | none => false
  | some d => !d.invalid e (s.engine e) && (List.range 4).any fun p =>
    let n := natAt (s.engine e).passed p
    let own := natAt (s.engine e).passed q
    p != q && decide (5 ≤ n) && (decide (own < n) || (own == n && decide (p < q))) && s.wantsUnit e p d.unit

/-- The head of a queue starts now (R68, R69). -/
def State.ready (s : State) (e q : Nat) : Bool :=
  s.active (enPage e) && s.rb (blkCtrl (enPage e)) 0 && (s.holdReason e q).isNone && !s.outrun e q

/-- The counts of R69 after a task of queue q has started on unit u. -/
def State.passedBy (s : State) (e q u : Nat) : Sparse Nat :=
  (List.range 4).foldl (fun m p =>
    match s.head e p with
    | none => setNat m p 0
    | some d =>
      if p = q then setNat m p 0
      else if d.unit ≠ u then m
      else setNat m p (if s.wantsUnit e p u then natAt m p + 1 else 0)) (s.engine e).passed

/-- Context of a queue (Table 4-13). -/
def State.qCtx (s : State) (e q : Nat) : Nat := s.rf (Reg.engQCfg e q) 8 6

/-- FLUSH as a task reads it at its start (R85). -/
def State.flushOn (s : State) (e : Nat) : Bool := s.rb (Reg.engNumCtrl e) 0

/-- The in-flight count of a queue, and of the move unit. -/
def State.qCounts (s : State) (e q : Nat) : State :=
  (s.wf (Reg.engQStat e q) 0 4 (s.qTasks e q).length).wf (Reg.engMvStat e) 0 3 (s.unitLoad e 3)

/-- The head leaves its queue and starts: consumptions, takes, HEAD (R68). -/
def State.startHead (s : State) (e q : Nat) (d : Desc) : State :=
  let passed := s.passedBy e q d.unit
  let s := s.consume e d
  let s := s.w32 (Reg.engQHead e q) (s.r32 (Reg.engQHead e q) + 1)
  s.modEngine e fun g => { g with
    fetched := Sparse.set (fun _ => []) g.fetched q (Sparse.get (fun _ => []) g.fetched q).tail
    progress := s.tick
    turned := setNat g.turned q (s.tick + 1)
    stalled := false
    passed := passed }

/-! ## Destinations (Table 4-11) -/

/-- Poison rows of the tile of a slot, which has 32 rows in SHAPE 1, else 64, by the shape recorded there (DESIGN CHOICE, log 161). -/
def Engine.poisonSlot (g : Engine) (slot : Nat) (rows : BitVec 64) : Engine :=
  let m := Sparse.get (fun _ => SlotMeta.empty) g.slots slot
  let most : BitVec 64 := if m.shape = some 1 then 0xFFFFFFFF else BitVec.allOnes 64
  { g with slots := Sparse.set (fun _ => SlotMeta.empty) g.slots slot { m with poison := m.poison ||| (rows &&& most) } }

/-- Mark one destination poisoned. Space 2 has no mark (R418). -/
def State.poisonDest (s : State) (e : Nat) (d : Dest) : State :=
  match d with
  | .spad u n => s.modEngine e fun g => spadMark g (32 * u) (32 * n)
  | .tile slot both rows => s.modEngine e fun g =>
    if both then (g.poisonSlot slot rows).poisonSlot (slot + 1) rows else g.poisonSlot slot rows
  | .line space off => if space = 2 then s else (s.lineWrite space (off / 128 * 128) e 1 (List.replicate 128 0) true).1

/-! ## Signals and gives on their way (R63, R64, R67, R74) -/

/-- The signals of a descriptor leave the engine (R74). -/
def State.sendSignals (s : State) (e : Nat) (d : Desc) (err : Bool) : State :=
  s.each d.signals fun s x =>
    let members := match x.target with
      | 1 => [e]
      | 2 => [x.engine]
      | _ => s.groupEngines (x.engine % 16)
    { s with signals := s.signals ++ members.map fun t => ⟨t, x.tc, x.inc, err⟩ }

def State.sendGives (s : State) (d : Desc) : State :=
  { s with gives := s.gives ++ d.gives.map fun g => ⟨g.engine, g.cc, g.count, false⟩ }

/-! ## Completion (R73, Table 4-9, Table 4-16) -/

/-- An entry of ENG_FLOG (Table 4-16). -/
def State.flog (s : State) (e q : Nat) (index : Word) (d : Desc) (st : Nat) : State :=
  let k := (s.r32 (Reg.engFlogWr e)).toNat
  let a := Reg.engFlog e (k % 16)
  let s := s.w32 a (BitVec.ofNat 32 (d.tag + q * 2 ^ 16 + d.unit * 2 ^ 18 + st * 2 ^ 24 + 2 ^ 31))
  let s := (s.w32 (a + 4) index).w64 (a + 8) (BitVec.ofNat 64 s.tick)
  s.w32 (Reg.engFlogWr e) (BitVec.ofNat 32 (k + 1))

/-- What a completion reports: status, log, NOTIFY, signals and gives (R73, R74). A task is cancelled at the boundary of
the forced disable, which samples its report there (class 6, R76). -/
def State.report (s : State) (e q : Nat) (index : Word) (d : Desc) (st : Nat) : State :=
  let isEvent := d.operation == some .event && st == stOk
  let s := if stErr st ∨ isEvent then s.flog e q index d st else s
  let s := if st = stCancelled then s.sample (enPage e) 8
    else if stErr st then s.raise (enPage e) 8 (if st = stUnitErr then 2 else 5) e else s
  let s := if isEvent then
      (s.w32 (Reg.engSwEvent e) (BitVec.ofNat 32 (d.op 0 8 + d.tag * 2 ^ 16))).raise (enPage e) 15 5 e else s
  let s := if d.notify then (s.w32 (Reg.engQNote e q) (BitVec.ofNat 32 d.tag)).raise (enPage e) 13 5 e else s
  (s.sendSignals e d (stErr st)).sendGives d

/-- Completed tasks at the front of the tasks of a queue retire in order (R60, R66). -/
def State.retireLoop (s : State) (e q fuel : Nat) : State :=
  match fuel with
  | 0 => s
  | fuel + 1 =>
    match (s.qTasks e q).head? with
    | none => s
    | some t =>
      if !t.done then s
      else
        let s := s.modEngine e fun g => { g with tasks := g.tasks.filter fun x => !(x.queue == q && x.index == t.index) }
        let s := s.w32 (Reg.engQDone e q) (s.r32 (Reg.engQDone e q) + 1)
        let s := if stErr t.status then s.wb (Reg.engQStat e q) 8 true else s
        State.retireLoop s e q fuel

/-- A task of a queue completes with a status, and what can retire retires. -/
def State.completeTask (s : State) (e : Nat) (t : Task) (st : Nat) : State :=
  let s := if stPoisons st then s.each t.dests fun s d => s.poisonDest e d else s
  let s := if st = stOk ∨ st = stPoisonIn then
      (match Desc.operation t.desc with
        | some .chain => s.w32 (Reg.engVxCword e) t.cword
        | some .brinePack =>
          -- cword holds the object's granules; header, index and fill lie before them (R268, Table 11-20)
          let n := (Desc.copyOp t.desc).len
          (s.count Reg.brdBrineIn (4096 * n)).count Reg.brdBrineOut ((64 + 8 * n + 127) / 128 * 128 + 128 * t.cword.toNat)
        | _ => s) else s
  let s := s.modEngine e fun g => { g with
    tasks := g.tasks.map fun x => if x.queue == t.queue && x.index == t.index then { x with status := st, done := true } else x
    progress := s.tick, turned := setNat g.turned t.queue (s.tick + 1), stalled := false }
  let key := (e, t.queue, t.index)
  let s := s.modMem fun m => { m with
    lower := m.lower.filter fun l => l.task != some key
    got := m.got.filter fun g => g.task != key, tape := m.tape.filter fun r => r.task != key }
  let s := s.report e t.queue t.index t.desc st
  (s.retireLoop e t.queue 9).qCounts e t.queue

/-- A descriptor that completes at once: its entry among the tasks of its queue and its completion (R62, R70). -/
def State.completeAtOnce (s : State) (e q : Nat) (d : Desc) (st : Nat) (dests : List Dest) : State :=
  let t : Task := { queue := q, index := s.r32 (Reg.engQHead e q) - 1, desc := d, status := st, done := false, dests := dests,
                    slots := 0, flush := s.flushOn e, cword := 0, held := false, counts := [], owed := [] }
  (s.modEngine e fun g => { g with tasks := g.tasks ++ [t] }).completeTask e t st

/-- What a unit answers for a task it performs: the state, the status, the destinations, the chain word, and the counts of a
QUANT task. -/
structure Done where
  s : State
  st : Nat
  dests : List Dest
  cword : Word := 0
  counts : List Nat := []
  owed : List Owed := []
deriving DecidableEq, Repr

/-- The accumulator slots of a task that starts while a task of another queue holds one of them: with DEBUG it is reported (R118), once,
where the wait begins, with the oldest such holder and its lowest slot in common; a later conflict replaces the log (DESIGN CHOICE,
log 160). -/
def State.slotConflict (s : State) (e q : Nat) (d : Desc) (mask : BitVec 32) : State :=
  match ((s.engine e).tasks.filter fun t => !t.done && t.queue != q && t.slots &&& mask != 0).head? with
  | some t =>
    if s.rb (blkCtrl (enPage e)) 2 then
      let slot := ((List.range 32).filter fun i => (t.slots &&& mask).getLsbD i).headD 0
      (s.w32 (Reg.engConflictLog e) (BitVec.ofNat 32 (slot + q * 2 ^ 5 + t.queue * 2 ^ 7 + d.tag * 2 ^ 16))).raise (enPage e) 17 10 e
    else s
  | none => s

/-- Whether the lower-tier accesses of a task that no part of it has claimed are the task's as a whole: those of the move unit
and of TILE_SAVE and TILE_LOAD. An append row and an attention entry claim their own. -/
def Desc.claims (d : Desc) : Bool :=
  d.unit == 3 || d.operation == some .tileSave || d.operation == some .tileLoad

def State.adoptTask (s s0 : State) (t : Nat × Nat × Word) (d : Desc) : State := if d.claims then s.adopt s0 t 0 0 [] else s

/-- The head of a queue of s, performed in r, has started: it joins the tasks in flight, and HEAD passes it (R68). -/
def State.enterTask (s r : State) (e q : Nat) (t : Task) : State :=
  let g := s.engine e
  ((r.w32 (Reg.engQHead e q) (s.r32 (Reg.engQHead e q) + 1)).modEngine e fun x => { x with
    fetched := Sparse.set (fun _ => []) g.fetched q (Sparse.get (fun _ => []) g.fetched q).tail
    tasks := g.tasks ++ [t]
    progress := s.tick
    turned := setNat g.turned q (s.tick + 1)
    stalled := false
    passed := s.passedBy e q (Desc.unit t.desc) }).qCounts e q

/-- A multiply task, which runs in the array; the unit's other tasks run in its output stage (R114). -/
def Task.multiplies (t : Task) : Bool := decide (Desc.opcode t.desc < 8)

/-- Two tasks that one unit, or one of the two stages of the matrix unit, runs one at a time in start order. -/
def sameStage (x t : Task) : Bool :=
  decide (Desc.unit x.desc < 3) && Desc.unit x.desc == Desc.unit t.desc
    && (decide (0 < Desc.unit t.desc) || x.multiplies == t.multiplies)

/-- A task that starts cannot act yet: an earlier task in flight holds one of its slots, or its unit runs an earlier one first that is held
itself (R114, R116, R128). -/
def State.heldAt (s : State) (e : Nat) (t : Task) : Bool :=
  (s.engine e).tasks.any fun x => !x.done && (x.slots &&& t.slots != 0 || (x.held && sameStage x t))

/-- Start the head of a queue if it is the operation o: it consumes and takes; where a wait meets an error it is not
performed (R66). Its whole effect comes about here, its report at TASK_COMPLETE (R68, log 8); but where an earlier task in
flight holds one of its slots, the tile arbiter holds it, and it acts when the earlier ones have completed (R116). slots names
the accumulator slots it holds, dests the destinations of a task that is not performed. -/
def State.startTask (s : State) (e q : Nat) (o : Op) (slots : Engine → Desc → BitVec 32)
    (dests : State → Nat → Nat → Desc → State × List Dest) (perform : State → Nat → Nat → Desc → Done) : State :=
  match s.head e q with
  | none => s
  | some d =>
    if !s.ready e q ∨ d.operation ≠ some o ∨ d.invalid e (s.engine e) then s
    else
      let mask := slots (s.engine e) d
      let w := (s.consume e d).slotConflict e q d mask
      let err := d.waits.any (s.waitErr e)
      let t : Task :=
        { queue := q, index := s.r32 (Reg.engQHead e q), desc := d, status := stOk, done := false, dests := [], slots := mask
          flush := s.flushOn e, cword := 0, held := false, counts := [], owed := [] }
      let held := !err && s.heldAt e t
      let r : Done :=
        if err then let x := dests w e q d; { s := x.1, st := stTokenErr, dests := x.2 }
        else if held then { s := w, st := stOk, dests := [] }
        else perform w e q d
      s.enterTask (r.s.adoptTask s (e, q, s.r32 (Reg.engQHead e q)) d) e q
        { t with status := r.st, dests := r.dests, cword := r.cword, held := held, counts := r.counts, owed := r.owed
                 prog := if held ∧ o = .chain then some (chainProg e (s.engine e) (32 * d.vec.param)) else none }

/-- No accumulator slot, and no destination. -/
def noSlots (_ : Engine) (_ : Desc) : BitVec 32 := 0
def noDests (s : State) (_ _ : Nat) (_ : Desc) : State × List Dest := (s, [])

/-- A control task that completes at once: a NOP, or a TICK whose boundary is past or which a wait's error keeps from being
performed (Table 4-8). -/
def State.startAtOnce (s : State) (e q : Nat) (o : Op) : State :=
  match s.head e q with
  | none => s
  | some d =>
    if !s.ready e q ∨ d.operation ≠ some o ∨ d.invalid e (s.engine e) then s
    else
      let st := if d.waits.any (s.waitErr e) then stTokenErr else stOk
      (s.startHead e q d).completeAtOnce e q d st []

def State.startNop (s : State) (e q : Nat) : State := s.startAtOnce e q .nop

/-- An invalid descriptor starts and completes DESC_ERR (R62). -/
def State.startInvalid (s : State) (e q : Nat) : State :=
  match s.head e q with
  | none => s
  | some d =>
    if !s.ready e q ∨ !d.invalid e (s.engine e) then s
    else (s.startHead e q d).completeAtOnce e q d stDescErr []

/-- A TICK or an EVENT starts (Table 4-8). -/
def performControl (s : State) (_ _ : Nat) (_ : Desc) : Done := ⟨s, stOk, [], 0, [], []⟩

/-- A TICK starts: it completes at once where its boundary is past, else at its boundary. -/
def State.startTick (s : State) (e q : Nat) : State :=
  match s.head e q with
  | none => s
  | some d =>
    if d.op 0 64 ≤ s.tick ∨ d.waits.any (s.waitErr e) then s.startAtOnce e q .tick
    else s.startTask e q .tick noSlots noDests performControl

/-! ## Tail, fetch, stop (R58, R495) -/

/-- A write of TAIL (R58). -/
def State.tailWrite (s : State) (e q : Nat) (v : Word) : State :=
  let done := s.r32 (Reg.engQDone e q)
  let head := s.r32 (Reg.engQHead e q)
  if wrapDist v done ≤ 2 ^ s.rf (Reg.engQCfg e q) 0 5 ∧ wrapDist head done ≤ wrapDist v done then
    -- descriptors fetched at or above a lowered TAIL are fetched again when TAIL covers them
    (s.w32 (Reg.engQTail e q) v).modEngine e fun g => { g with
      fetched := Sparse.set (fun _ => []) g.fetched q
        ((Sparse.get (fun _ => []) g.fetched q).take (wrapDist v done - wrapDist head done)) }
  else s.raise (enPage e) 11 10 e

/-- Read descriptor i of a queue; none, with FCAUSE, where its line is poisoned or its fetch refused (R495). -/
def State.readDesc (s : State) (e q : Nat) (i : Word) : State × (Desc ⊕ Nat) :=
  let a := (s.r64 (Reg.engQBase e q)).toNat / 64 * 64 + 64 * (i.toNat % 2 ^ s.rf (Reg.engQCfg e q) 0 5)
  let a := a % 2 ^ 64
  if saDev a ≠ s.dev ∨ 1 < saSpace a then (s, .inr 2)
  else
    let off := saOff a
    -- a quarantined page and a disabled channel or interface are access errors of a fetch
    let refused : Bool := match saSpace a with
      | 0 => match s.place off with
        | some key => s.quarantined (keyCore key) off || ((s.cached key).isNone && !s.chanOn (keyChan key))
        | none => false
      | _ => decide (off < s.tierSize) && !s.boardOn off
    let r := s.lineRead (saSpace a) off e 1
    if r.2.err ≠ 0 ∨ refused then (r.1, .inr 2)
    else if r.2.poison then (r.1, .inr 1)
    else (r.1, .inl (Desc.ofBytes (slice r.2.data (off % 128) 64)))

/-- A queue stops at a descriptor (R495). -/
def State.fetchStop (s : State) (e q cause : Nat) : State :=
  ((s.wb (Reg.engQStat e q) 9 true).wf (Reg.engQStat e q) 10 2 cause).raise (enPage e) 25 2 e

/-- A fetch from space 1 is outstanding until its descriptor starts; it takes the place of an earlier fetch of the same
descriptor (R271). n is the number of accesses outstanding before it. -/
def State.fetchLower (s : State) (n e q : Nat) (i : Word) : State :=
  s.modMem fun m => { m with
    lower := ((m.lower.take n).filter fun l => l.task != some (e, q, i)) ++
      ((m.lower.drop n).map fun l => { l with task := some (e, q, i), kind := .fetch }) }

/-- How many descriptors before descriptor i are fetched and not started, where it is itself one of them. -/
def State.fetchPlace (s : State) (e q : Nat) (i : Word) : Option Nat :=
  let n := (i - s.r32 (Reg.engQHead e q)).toNat
  if n < (Sparse.get (fun _ => []) (s.engine e).fetched q).length then some n else none

/-- The fetch of a descriptor that has not started was sampled late or failed: what was fetched from it on is dropped, and
the queue stops there (R271, R495). -/
def State.fetchLate (s : State) (e q : Nat) (i : Word) : State :=
  match s.fetchPlace e q i with
  | none => s
  | some n => (s.modEngine e fun g => { g with
      fetched := Sparse.set (fun _ => []) g.fetched q ((Sparse.get (fun _ => []) g.fetched q).take n) }).fetchStop e q 1

/-- The next descriptor of a queue is fetched, if it lies below TAIL (R58, R495). An engine whose ACTIVE reads 0 fetches none, also
after FSTOP has been cleared (DESIGN CHOICE, log 119). -/
def State.fetch (s : State) (e q : Nat) : State :=
  let l := Sparse.get (fun _ => []) (s.engine e).fetched q
  let i := s.r32 (Reg.engQHead e q) + BitVec.ofNat 32 l.length
  let done := s.r32 (Reg.engQDone e q)
  if !s.active (enPage e) ∨ s.rb (Reg.engQStat e q) 9 ∨ wrapDist (s.r32 (Reg.engQTail e q)) done ≤ wrapDist i done then s
  else
    let r := s.readDesc e q i
    match r.2 with
    | .inr cause => r.1.fetchStop e q cause
    | .inl d =>
      (r.1.fetchLower s.mem.lower.length e q i).modEngine e fun g => { g with fetched := Sparse.set (fun _ => []) g.fetched q (l ++ [d]) }

/-- A write of 1 to FSTOP: the queue goes on, and fetches that descriptor again (R495). -/
def State.fstopClear (s : State) (e q : Nat) : State :=
  if s.rb (Reg.engQStat e q) 9 then
    ((s.wb (Reg.engQStat e q) 9 false).wf (Reg.engQStat e q) 10 2 0).fetch e q
  else s

/-! ## Counters (R63, R67, R396, R397) -/

/-- Word of an away image's counter area (Table 16-3), in space 0. -/
def State.awayWord (s : State) (e slot off : Nat) : Nat := (s.r64 (Reg.engCswAway e (slot - 1))).toNat + off

/-- The rake jobs of a member that a signal on its crew's counter brings to their count: the signal of their STORE (R350). -/
def State.jobsStored (s : State) (f : Flight) : State :=
  let tc := (s.r32 (Reg.engTc f.engine f.counter)).toNat
  let now (j : RakeJob) : Bool :=
    j.engine == f.engine && j.stored.isNone && s.rf (Reg.xptCrewCtrl j.crew) 12 6 == f.counter && j.due.any fun d => reached tc (d % 2 ^ 23)
  s.modXpt fun x => { x with jobs := x.jobs.map fun j => if now j then { j with stored := some (s.tick, f.err) } else j }

/-- A signal at its counter: an addition in the register, or in the image that holds the counter. -/
def State.tokenAdd (s : State) (f : Flight) : State :=
  let e := f.engine
  let t := f.counter
  let img := s.tcImg e t
  if img ≠ 0 then
    -- FADD_I64 of INC on the value word, OR64 on the error word (R396)
    let s := (s.nma (s.awayWord e img (8 * t)) e 9 [f.amount] 0 false).1
    if f.err then (s.nma (s.awayWord e img 0x200) e 13 [2 ^ t] 0 false).1 else s
  else
    let s := if f.err then s.setBit64 (Reg.engTcErr e) t true else s
    let v := (s.r32 (Reg.engTc e t)).toNat
    if s.tcStuck e t then s
    else if v + f.amount < 2 ^ 32 then (s.w32 (Reg.engTc e t) (BitVec.ofNat 32 (v + f.amount))).jobsStored f
    else ((s.w32 (Reg.engTc e t) 0xFFFFFFFF).setBit64 (Reg.engTcStuck e) t true).raise (enPage e) 9 10 e

/-- A give at its counter (R67, R396). -/
def State.creditAdd (s : State) (f : Flight) : State :=
  let e := f.engine
  let c := f.counter
  let img := s.ccImg e c
  if img ≠ 0 then (s.nma (s.awayWord e img (0x240 + 8 * c)) e 9 [f.amount * 2 ^ 16] 0 false).1
  else
    let w := s.r32 (Reg.engCc e c)
    let v := fld w 0 16 + f.amount
    let limit := fld w 16 16
    if v ≤ limit then s.wf (Reg.engCc e c) 0 16 v
    else ((s.wf (Reg.engCc e c) 0 16 limit).orReg (Reg.engCcOvf e) (BitVec.ofNat 32 (2 ^ c))).raise (enPage e) 10 10 e

/-- A token signal reaches its engine: while the duty is 0 it is held to the first boundary with a duty above 0 (R450). -/
def State.tokenArrive (s : State) (f : Flight) : State :=
  if s.duty = 0 then { s with heldSignals := s.heldSignals ++ [f] } else s.tokenAdd f

/-- The oldest signal on its way arrives. -/
def State.signalArrive (s : State) : State :=
  match s.signals with
  | [] => s
  | f :: rest =>
    { s with signals := rest }.tokenArrive f

def State.giveArrive (s : State) : State :=
  match s.gives with
  | [] => s
  | f :: rest => { s with gives := rest }.creditAdd f

/-- A write of ENG_TC_ADD: a signal as if from a task; INC 0 adds nothing (Table 4-13, R396). -/
def State.tcAdd (s : State) (e : Nat) (v : Word) : State := s.tokenArrive ⟨e, fld v 0 6, fld v 16 16, v.getLsbD 8⟩

/-- A write of ENG_TCt: value set, stuck flag cleared (R63); refused while the counter is away (R397). -/
def State.tcWrite (s : State) (e t : Nat) (v : Word) : State :=
  if s.tcImg e t ≠ 0 then s.raise (enPage e) 1 10 e
  else (s.w32 (Reg.engTc e t) v).setBit64 (Reg.engTcStuck e) t false

/-- A write of ENG_CCc: a VALUE above the LIMIT of the same write is that LIMIT (R67, R397). -/
def State.ccWrite (s : State) (e c : Nat) (v : Word) : State :=
  if s.ccImg e c ≠ 0 then s.raise (enPage e) 1 10 e
  else if fld v 0 16 ≤ fld v 16 16 then s.w32 (Reg.engCc e c) v
  else ((s.w32 (Reg.engCc e c) (putFld v 0 16 (fld v 16 16))).orReg (Reg.engCcOvf e) (BitVec.ofNat 32 (2 ^ c))).raise
    (enPage e) 10 10 e

/-! ## Stall (R72) -/

/-- A queue holds a task that has not retired. -/
def State.queueBusy (s : State) (e q : Nat) : Bool := s.r32 (Reg.engQTail e q) != s.r32 (Reg.engQDone e q)

/-- ENG_STALL_SNAP: a byte for each queue. -/
def State.stallSnap (s : State) (e : Nat) : Nat :=
  ((List.range 4).map fun q =>
    let r := (s.holdReason e q).getD (0, 0)
    (r.1 + 16 * r.2) * 2 ^ (8 * q)).sum

/-- An enabled engine with work has neither started nor completed a task for ENG_STALL_LIMIT ticks (R72). -/
def State.stallCheck (s : State) (e : Nat) : State :=
  let limit := (s.r32 (Reg.engStallLimit e)).toNat
  let g := s.engine e
  if s.rb (blkCtrl (enPage e)) 0 ∧ limit ≠ 0 ∧ !g.stalled ∧ (List.range 4).any (s.queueBusy e) ∧ g.progress + limit ≤ s.tick then
    ((s.w32 (Reg.engStallSnap e) (BitVec.ofNat 32 (s.stallSnap e))).modEngine e fun g => { g with stalled := true }).raise
      (enPage e) 12 10 e
  else s

/-! ## Disabling (R75 to R77, R494) -/

/-- No task in flight at an engine. -/
def State.noneInFlight (s : State) (e : Nat) : Bool := (s.engine e).tasks.all (·.done)

/-- The last task in flight has completed: the drain is complete (R75). -/
def State.drainDone (s : State) (e : Nat) : State :=
  if s.draining (enPage e) ∧ s.noneInFlight e then
    (((s.wb (blkStat (enPage e)) 0 false).wb (blkStat (enPage e)) 1 false).wb (blkStat (enPage e)) 2 false).raise
      (enPage e) 14 5 e
  else s

/-- A write of 0 to EN of an engine: a graceful disable (R75); an idle engine's drain ends with DRAIN_COMPLETE as well. -/
def State.engineOff (s : State) (e : Nat) : State :=
  let s := s.wb (blkCtrl (enPage e)) 0 false
  if s.active (enPage e) then s.wb (blkStat (enPage e)) 1 true else s

/-- A write of 1 to EN of an engine (R75, R72). -/
def State.engineOn (s : State) (e : Nat) : State :=
  if (s.engine e).forcePend then s
  else
    let was := s.rb (blkCtrl (enPage e)) 0
    let s := s.wb (blkCtrl (enPage e)) 0 true
    let s := (s.wb (blkStat (enPage e)) 0 true).wb (blkStat (enPage e)) 1 false
    if was then s else s.modEngine e fun g => { g with progress := s.tick }

/-- FORCE_OFF taken at an engine: the forced disable is pending until its boundary (R494). -/
def State.engineForce (s : State) (e : Nat) : State := s.modEngine e fun g => { g with forcePend := true }

end Sys2Proof.Machine
end

