-- ==== Sys2Proof/Machine/Matrix.lean ====
section
/-! DEFINITION. The matrix unit (chapter 6): the reduction spine, the multiply tasks, accumulator tiles, the output stage
with its fused statistics, the accumulator image, and debug reads of the accumulator memory. -/
namespace Sys2Proof.Machine

/-! ## Tiles (R109 to R111) -/

/-- Slots of a tile. -/
def tileSlots (tile shape : Nat) : List Nat := if shape = 0 then [tile, tile + 1] else [tile]

/-- The slots of a tile as a mask. -/
def tileMask (tile shape : Nat) : BitVec 32 := BitVec.ofNat 32 ((if shape = 0 then 3 else 1) * 2 ^ tile)

/-- Rows of a tile shape. -/
def shapeRows (shape : Nat) : Nat := if shape = 1 then 32 else 64

def Engine.slot (g : Engine) (t : Nat) : SlotMeta := Sparse.get (fun _ => SlotMeta.empty) g.slots t
def Engine.setSlot (g : Engine) (t : Nat) (m : SlotMeta) : Engine :=
  { g with slots := Sparse.set (fun _ => SlotMeta.empty) g.slots t m }

/-- A word of the accumulator memory. -/
def Engine.accWord (g : Engine) (slot w : Nat) : Word := Sparse.get (fun _ => 0) g.acc (2048 * slot + w)
def Engine.setAccWord (g : Engine) (slot w : Nat) (v : Word) : Engine :=
  { g with acc := Sparse.set (fun _ => 0) g.acc (2048 * slot + w) v }

/-- Slot and word of element (r, c) in a tile of 32-bit elements (R126). -/
def elemSlot (tile shape r : Nat) : Nat := if shape = 0 then tile + r / 32 else tile
def elemWord (r c : Nat) : Nat := r % 32 * 64 + c

/-- Element (r, c) of a tile (R126). -/
def Engine.elem (g : Engine) (tile shape r c : Nat) : Nat :=
  if shape = 2 then fld (g.accWord tile ((64 * r + c) / 2)) (16 * (c % 2)) 16
  else (g.accWord (elemSlot tile shape r) (elemWord r c)).toNat

def Engine.setElem (g : Engine) (tile shape r c v : Nat) : Engine :=
  if shape = 2 then
    g.setAccWord tile ((64 * r + c) / 2) (putFld (g.accWord tile ((64 * r + c) / 2)) (16 * (c % 2)) 16 v)
  else g.setAccWord (elemSlot tile shape r) (elemWord r c) (BitVec.ofNat 32 v)

/-- A tile's recorded shape is the one named. -/
def Engine.shapeOk (g : Engine) (tile shape : Nat) : Bool :=
  (tileSlots tile shape).all fun t => (g.slot t).shape == some (BitVec.ofNat 2 shape)

/-- The recorded element format of a tile. -/
def Engine.tileFmt (g : Engine) (tile : Nat) : ElemFmt := (g.slot tile).fmt

/-- A tile's recorded shape and format match (R110, R111). -/
def Engine.tileOk (g : Engine) (tile shape : Nat) (f : ElemFmt) : Bool :=
  g.shapeOk tile shape && (tileSlots tile shape).all fun t => (g.slot t).fmt == f || (g.slot t).fmt == .open_

/-- Change the metadata of every slot of a tile. -/
def Engine.modTile (g : Engine) (tile shape : Nat) (f : SlotMeta → SlotMeta) : Engine :=
  (tileSlots tile shape).foldl (fun g t => g.setSlot t (f (g.slot t))) g

/-- A tile written from fresh: elements zero, flags and poison clear, shape and format recorded (R110). -/
def Engine.freshTile (g : Engine) (tile shape : Nat) (f : ElemFmt) : Engine :=
  let ts := tileSlots tile shape
  let g := { g with acc := g.acc.filter fun x => !ts.contains (x.1 / 2048) }
  g.modTile tile shape fun _ => { shape := some (BitVec.ofNat 2 shape), fmt := f, flags := 0, poison := 0 }

/-- The first task that adds to or writes a format-open tile records its format (R110). -/
def Engine.settleTile (g : Engine) (tile shape : Nat) (f : ElemFmt) : Engine :=
  g.modTile tile shape fun m => if m.fmt = .open_ then { m with fmt := f } else m

/-- Whether row r of a tile is poisoned: the bit of its slot, in SHAPE 0 of the even one alone (DESIGN CHOICE, log 161). -/
def Engine.rowPoison (g : Engine) (tile r : Nat) : Bool := (g.slot tile).poison.getLsbD r

/-- Poison the rows of a mask. -/
def Engine.poisonRows (g : Engine) (tile shape : Nat) (mask : BitVec 64) : Engine :=
  g.modTile tile shape fun m => { m with poison := m.poison ||| mask }

/-- A flag raised on a tile: its flag bytes, and ENG_NUM_STICKY (R110). -/
def State.tileFlags (s : State) (e tile shape : Nat) (f : Flags) : State :=
  (s.modEngine e fun g => g.modTile tile shape fun m => { m with flags := m.flags ||| f }).numFlags e f

/-- The destination that a tile is. -/
def tileDest (tile shape : Nat) : Dest := .tile tile (shape == 0) (BitVec.allOnes 64)

/-! ## The spine (R105 to R107) -/

/-- Round a value to a format, keeping the flags. -/
def VF.round (x : VF) (f : Fmt) (flush : Bool) : VF :=
  let o := roundFloat f false flush x.v
  ⟨decodeFloat f o.n, x.f ||| o.f⟩

/-- A rounded sum in a format. -/
def VF.addIn (f : Fmt) (flush : Bool) (a b : VF) : VF :=
  let r := a.v.add b.v
  VF.round ⟨r.v, a.f ||| b.f ||| r.f⟩ f flush

/-- One level of a pairwise sum. -/
def pairUp (op : VF → VF → VF) : List VF → List VF
  | a :: b :: t => op a b :: pairUp op t
  | l => l

/-- n levels of a pairwise sum. -/
def pairLevels (op : VF → VF → VF) (n : Nat) (l : List VF) : List VF :=
  match n with
  | 0 => l
  | n + 1 => pairLevels op n (pairUp op l)

/-- The pairwise sum of 64 positions in the order of R105; absent positions are +0. -/
def pairSum (op : VF → VF → VF) (l : List VF) : VF :=
  let zero : VF := ⟨.fin false 0 0, 0⟩
  (pairLevels op 6 (l ++ List.replicate (64 - l.length) zero)).headD zero

/-! ## Operands (Table 6-1, R91, R92) -/

/-- Width of a code (Table 5-4). -/
def codeBits (c : Nat) : Nat := match c with
  | 0 => 2 | 1 => 3 | 2 => 4 | 3 => 2 | 4 => 3 | 5 => 4 | 6 => 4 | _ => 6
/-- Code plane bytes per block (Table 5-4). -/
def codeBytes (c : Nat) : Nat := 4 * codeBits c

/-- The value of a code (Table 5-4). -/
def codeVal (fmt c : Nat) : Val :=
  match fmt with
  | 0 | 1 | 2 => Val.int (signed c (codeBits fmt))
  | 3 | 4 | 5 => Val.int c
  | 6 => decodeFloat .e2m1 c
  | _ => decodeFloat .e3m2 c

/-- A code expanded to E4M3 under a scale byte (R91, R92). -/
def expandCode (fmt : Nat) (flush : Bool) (scale c : Nat) : VF :=
  if scale = 0x80 then ⟨.nan, Flags.badScale⟩
  else
    let o := roundFloat .e4m3 false flush ((codeVal fmt c).shift (signed scale 8))
    let x := readFloat .e4m3 flush o.n
    ⟨x.v, o.f ||| x.f⟩

/-- Bytes of an element of A and of W. -/
def mmaSize (o : Op) : Nat := if o = .mmaBf16 then 2 else 1

/-- Address of row r of A in chunk q. -/
def MmaOp.aRow (m : MmaOp) (o : Op) (q r : Nat) : Nat := m.aAddr + (q * m.rows + r) * 64 * mmaSize o
/-- Address of row j of W in chunk q, where W is not in codes. -/
def MmaOp.wRow (m : MmaOp) (o : Op) (q j : Nat) : Nat := m.wAddr + (q * 64 + j) * 64 * mmaSize o
/-- Address of block h of row j in chunk q of the code plane, and its index in the scale and zero-point planes. -/
def MmaOp.codeBlock (m : MmaOp) (q j h : Nat) : Nat := m.wAddr + ((q * 64 + j) * 2 + h) * codeBytes m.codeFmt
def MmaOp.blockIdx (_ : MmaOp) (q j h : Nat) : Nat := (q * 64 + j) * 2 + h
/-- Address of the column sum of row r, block h of chunk q. -/
def MmaOp.colSum (m : MmaOp) (q r h : Nat) : Nat := m.auxAddr + ((q * m.rows + r) * 2 + h) * 4

/-- Format of the elements of A and, without codes, of W. -/
def MmaOp.aFormat (m : MmaOp) (o : Op) : Fmt := if o = .mmaBf16 then .bf16 else if m.aFmt = 1 then .e5m2 else .e4m3
def MmaOp.wFormat (m : MmaOp) (o : Op) : Fmt := if o = .mmaBf16 then .bf16 else if m.wFmt = 1 then .e5m2 else .e4m3

/-- The task uses zero points (R94). -/
def MmaOp.asym (m : MmaOp) (o : Op) : Bool := o == .mmaCode && asymCode m.codeFmt

/-- One past the last byte that each operand reads: the rows of W at or above N_COLS are not read (R104). -/
def MmaOp.ends (m : MmaOp) (o : Op) : List Nat :=
  let last := (m.kch - 1) * 64 + m.cols
  [m.aAddr + m.kch * m.rows * 64 * mmaSize o] ++
  (if o = .mmaCode then
    [m.wAddr + last * 2 * codeBytes m.codeFmt, m.scAddr + last * 2] ++
    (if m.asym o then [m.scAddr + 128 * m.kch + last * 2, m.auxAddr + m.kch * m.rows * 8] else [])
  else [m.wAddr + last * 64 * mmaSize o]) ++
  (if o = .mmaInt8 ∧ m.texp ≠ 0 then [m.scAddr + 4 * m.cols] else [])

/-- The 64 elements of A in a chunk, on the float paths. -/
def MmaOp.aVals (m : MmaOp) (o : Op) (e : Nat) (g : Engine) (flush : Bool) (q r : Nat) : List VF :=
  (elems (mmaSize o) (spadRead e g (m.aRow o q r) (64 * mmaSize o))).map (readFloat (m.aFormat o) flush)

/-- The 64 elements of W in a chunk, on the float paths, codes expanded. -/
def MmaOp.wVals (m : MmaOp) (o : Op) (e : Nat) (g : Engine) (flush : Bool) (q j : Nat) : List VF :=
  if o = .mmaCode then
    (List.range 64).map fun i =>
      let h := i / 32
      let b := natLE (spadRead e g (m.codeBlock q j h) (codeBytes m.codeFmt))
      let c := b / 2 ^ (codeBits m.codeFmt * (i % 32)) % 2 ^ codeBits m.codeFmt
      expandCode m.codeFmt flush (spadNum e g (m.scAddr + m.blockIdx q j h) 1) c
  else (elems (mmaSize o) (spadRead e g (m.wRow o q j) (64 * mmaSize o))).map (readFloat (m.wFormat o) flush)

/-- The 64 elements of a row of A or W on the INT8 path. -/
def intRow (e : Nat) (g : Engine) (a : Nat) : List Int := (spadRead e g a 64).map fun b => b.toInt

/-- z × 2^k of block h, exact in FP32; a block with the invalid scale has none (R93, R94). -/
def MmaOp.zeroShift (m : MmaOp) (e : Nat) (g : Engine) (q j h : Nat) : Val :=
  let i := m.blockIdx q j h
  let k := spadNum e g (m.scAddr + i) 1
  let z := spadNum e g (m.scAddr + 128 * m.kch + i) 1 % 2 ^ codeBits m.codeFmt
  if k = 0x80 then .nan else (Val.int z).shift (signed k 8)

/-- A product with one rounding, a value exact in FP32 times an FP32 encoding. -/
def corrMul (flush : Bool) (z : Val) (sum : Nat) : NF :=
  let b := readFloat .fp32 flush sum
  let r := z.mul b.v
  let o := roundFloat .fp32 false flush r.v
  ⟨o.n, b.f ||| r.f ||| o.f⟩

/-- The same with an addend. -/
def corrFma (flush : Bool) (z : Val) (sum t : Nat) : NF :=
  let b := readFloat .fp32 flush sum
  let c := readFloat .fp32 flush t
  let r := z.fma b.v c.v
  let o := roundFloat .fp32 false flush r.v
  ⟨o.n, b.f ||| c.f ||| r.f ||| o.f⟩

/-- A chunk's FP32 contribution, steps 1 to 3 of R107. -/
def MmaOp.chunk (m : MmaOp) (o : Op) (e : Nat) (g : Engine) (flush : Bool) (q r j : Nat) : NF :=
  let isBf := o == .mmaBf16
  let prods := List.zipWith (fun (a w : VF) =>
    let p := a.v.mul w.v
    let x : VF := ⟨p.v, a.f ||| w.f ||| p.f⟩
    if isBf then x.round .fp32 flush else x) (m.aVals o e g flush q r) (m.wVals o e g flush q j)
  let sum := pairSum (if isBf then VF.addIn .fp32 flush else VF.addIn .spine false) prods
  let c := roundFloat .fp32 false false sum.v
  let c : NF := ⟨c.n, sum.f ||| c.f⟩
  let c : NF :=
    if m.asym o then
      let t0 := corrMul flush (m.zeroShift e g q j 0) (spadNum e g (m.colSum q r 0) 4)
      let t1 := corrFma flush (m.zeroShift e g q j 1) (spadNum e g (m.colSum q r 1) 4) t0.n
      let d := fsub .fp32 flush c.n t1.n
      ⟨d.n, c.f ||| t0.f ||| t1.f ||| d.f⟩
    else c
  let x := readFloat .fp32 flush c.n
  let y := roundFloat .fp32 false flush (x.v.shift m.texp)
  ⟨y.n, c.f ||| x.f ||| y.f⟩

/-- A chunk's sum on the INT8 path, exact (R87). -/
def MmaOp.intChunk (m : MmaOp) (o : Op) (e : Nat) (g : Engine) (q r j : Nat) : Int :=
  (List.zipWith (· * ·) (intRow e g (m.aRow o q r)) (intRow e g (m.wRow o q j))).sum

/-- The element after every chunk of the task, from its value before it (R103, R107, R108). -/
def MmaOp.element (m : MmaOp) (o : Op) (e : Nat) (g : Engine) (flush : Bool) (r j old : Nat) : NF :=
  let f : Fmt := if m.shape = 2 then .bf16 else .fp32
  let run := (List.range m.kch).foldl (fun (acc : NF) q =>
    if o = .mmaInt8 then
      let n := intResult 32 m.iovf (signed acc.n 32 + m.intChunk o e g q r j)
      ⟨n.n, acc.f ||| n.f⟩
    else
      let c := m.chunk o e g flush q r j
      if q = 0 ∧ !m.acc then
        let w := if m.shape = 2 then fconv .fp32 .bf16 false flush c.n else ⟨c.n, 0⟩
        ⟨w.n, c.f ||| w.f⟩
      else
        let a := readFloat f flush acc.n
        let b := readFloat .fp32 flush c.n
        let x := a.v.add b.v
        let w := roundFloat f false flush x.v
        ⟨w.n, acc.f ||| c.f ||| a.f ||| b.f ||| x.f ||| w.f⟩) ⟨if m.acc then old else 0, 0⟩
  if o = .mmaInt8 ∧ m.texp ≠ 0 then
    let rj := signed (spadNum e g (m.scAddr + 4 * j) 4) 32
    let n := intResult 32 m.iovf (signed run.n 32 - m.texp * rj)
    ⟨n.n, run.f ||| n.f⟩
  else run

/-! ## Multiply tasks (R110, R111) -/

/-- Rows of the tile that the task poisons (R110). -/
def MmaOp.poisonMask (m : MmaOp) (o : Op) (g : Engine) : BitVec 64 :=
  let qs := List.range m.kch
  let weights := qs.any fun q => (List.range m.cols).any fun j =>
    if o = .mmaCode then
      [0, 1].any fun h => spadPoisoned g (m.codeBlock q j h) (codeBytes m.codeFmt)
        || spadPoisoned g (m.scAddr + m.blockIdx q j h) 1
        || (m.asym o && spadPoisoned g (m.scAddr + 128 * m.kch + m.blockIdx q j h) 1)
    else spadPoisoned g (m.wRow o q j) (64 * mmaSize o)
  let sums := o == .mmaInt8 && m.texp != 0 && spadPoisoned g m.scAddr (4 * m.cols)
  let bit (r : Nat) : Bool := qs.any fun q => spadPoisoned g (m.aRow o q r) (64 * mmaSize o)
    || (m.asym o && spadPoisoned g (m.colSum q r 0) 8)
  BitVec.ofNat 64 (((List.range m.rows).filter fun r => weights || sums || bit r).map (2 ^ ·)).sum

/-- Format of the tile that a multiply task writes. -/
def MmaOp.elemFmt (m : MmaOp) (o : Op) : ElemFmt := if o = .mmaInt8 then .int32 else if m.shape = 2 then .bf16 else .fp32

/-- A multiply task. Where its operands reach beyond the scratchpad and its tile does not match either, it completes FAULT (R104 before
R111; DESIGN CHOICE, log 159). -/
def performMma (o : Op) (s : State) (e _q : Nat) (d : Desc) : Done :=
  let m := d.mma
  let g := s.engine e
  let dest := [tileDest m.tile m.shape]
  if (m.ends o).any fun x => decide (spadSize < x) then ⟨s, stFault, dest, 0, [], []⟩
  else if m.acc ∧ !g.tileOk m.tile m.shape (m.elemFmt o) then ⟨s, stDescErr, dest, 0, [], []⟩
  else
    let g1 := if m.acc then g.settleTile m.tile m.shape (m.elemFmt o) else g.freshTile m.tile m.shape (m.elemFmt o)
    let cells := (List.range m.rows).flatMap fun r => (List.range m.cols).map fun j => (r, j)
    let r := cells.foldl (fun (acc : Engine × Flags) x =>
      let v := m.element o e g (s.flushOn e) x.1 x.2 (g.elem m.tile m.shape x.1 x.2)
      (acc.1.setElem m.tile m.shape x.1 x.2 v.n, acc.2 ||| v.f)) (g1, 0)
    let mask := m.poisonMask o g
    let held := if m.acc then (g.slot m.tile).poison &&& BitVec.ofNat 64 (2 ^ m.rows - 1) else 0
    let s := (s.setEngine e (r.1.poisonRows m.tile m.shape mask)).tileFlags e m.tile m.shape r.2
    ⟨s, if mask ||| held = 0 then stOk else stPoisonIn, dest, 0, [], []⟩

/-- Slots and destinations of a multiply task. -/
def mmaSlots (_ : Engine) (d : Desc) : BitVec 32 := tileMask d.mma.tile d.mma.shape
def mmaDests (s : State) (_ _ : Nat) (d : Desc) : State × List Dest := (s, [tileDest d.mma.tile d.mma.shape])

/-- TILE_ZERO writes +0 into a tile (R110). -/
def performTileZero (s : State) (e _q : Nat) (d : Desc) : Done :=
  let t := d.tileOp
  ⟨s.modEngine e fun g => g.freshTile t.tile t.shape (if t.shape = 2 then .bf16 else .open_), stOk,
    [tileDest t.tile t.shape], 0, [], []⟩

/-! ## The output stage (R120 to R123) -/

/-- Format of an OUT_FMT below 5. -/
def outFloat (c : Nat) : Fmt := match c with
  | 0 => .e4m3 | 1 => .e5m2 | 2 => .bf16 | 3 => .fp16 | _ => .fp32
/-- Bytes of an element in OUT_FMT. -/
def outSize (c : Nat) : Nat := match c with
  | 0 | 1 | 5 => 1 | 2 | 3 => 2 | _ => 4

/-- A tile element as the output stage reads it (R120, R84): its value. -/
def tileVal (f : ElemFmt) (shape : Nat) (flush : Bool) (x : Nat) : VF :=
  if f = .int32 then ⟨Val.int (signed x 32), 0⟩
  else if shape = 2 then readFloat .bf16 flush x else readFloat .fp32 flush x

/-- Convert a tile value to OUT_FMT (Table 5-3): an INT32 tile written as INT8 follows IOVF. -/
def convertOut (isInt : Bool) (out : Nat) (iovf flush : Bool) (v : Val) : NF :=
  if out < 5 then roundFloat (outFloat out) false flush v
  else
    let w := if out = 5 then 8 else 32
    if isInt then intResult w iovf (v.toInt false) else floatToInt w false v

/-- The value of an element as written. -/
def writtenVal (out n : Nat) : Val :=
  if out < 5 then decodeFloat (outFloat out) n else Val.int (signed n (if out = 5 then 8 else 32))

/-- FP32 of a count. -/
def natFp32 (n : Nat) : Nat := (roundFloat .fp32 false false (Val.int n)).n

/-- A division in FP32; on finite operands it never gives an infinity (R81). -/
def fdiv (flush : Bool) (x y : Nat) : NF :=
  let a := readFloat .fp32 flush x
  let b := readFloat .fp32 flush y
  let r := laneDiv .fp32 false flush a.v b.v
  ⟨r.n, a.f ||| b.f ||| r.f⟩

/-- The larger of two FP32 values, NaN where either is; of two zeros that compare equal the one that maxOf keeps (DESIGN CHOICE,
log 162). -/
def fmaxNan (flush : Bool) (x y : Nat) : NF :=
  let a := readFloat .fp32 flush x
  let b := readFloat .fp32 flush y
  if a.v.isNan ∨ b.v.isNan then ⟨Fmt.nanCode .fp32, a.f ||| b.f⟩
  else ⟨(roundFloat .fp32 false flush (a.v.maxOf b.v)).n, a.f ||| b.f⟩

/-- One Welford update in ascending column order (R122): mean, M2, flags after value v, the n-th. -/
def welford (flush : Bool) (acc : Nat × Nat × Flags) (n v : Nat) : Nat × Nat × Flags :=
  let d := fsub .fp32 flush v acc.1
  let q := fdiv flush d.n (natFp32 n)
  let mean := fadd .fp32 flush acc.1 q.n
  let d2 := fsub .fp32 flush v mean.n
  let p := fmul .fp32 flush d.n d2.n
  let m2 := fadd .fp32 flush acc.2.1 p.n
  (mean.n, m2.n, acc.2.2 ||| d.f ||| q.f ||| mean.f ||| d2.f ||| p.f ||| m2.f)

/-- A merged COUNT saturates (R122). -/
def countSat (n : Nat) : NF := if n < 2 ^ 32 then ⟨n, 0⟩ else ⟨2 ^ 32 - 1, Flags.intSat⟩

/-- The Chan merge of a new record (n, mean, M2) into the old one (R122). -/
def chanMerge (flush : Bool) (na ma m2a n mean m2 : Nat) : NF × Nat × Nat × Flags :=
  let nt := natFp32 (na + n)
  let d := fsub .fp32 flush mean ma
  let w := fdiv flush (natFp32 n) nt
  let dw := fmul .fp32 flush d.n w.n
  let mean' := fadd .fp32 flush ma dw.n
  let dd := fmul .fp32 flush d.n d.n
  let nn := fmul .fp32 flush (natFp32 na) (natFp32 n)
  let nw := fdiv flush nn.n nt
  let dnw := fmul .fp32 flush dd.n nw.n
  let s1 := fadd .fp32 flush m2a m2
  let m2' := fadd .fp32 flush s1.n dnw.n
  (countSat (na + n), mean'.n, m2'.n,
    d.f ||| w.f ||| dw.f ||| mean'.f ||| dd.f ||| nn.f ||| nw.f ||| dnw.f ||| s1.f ||| m2'.f)

/-- FP32 sum by the spine order (R121). -/
def pairSumFp32 (flush : Bool) (l : List Nat) : NF :=
  let r := pairSum (VF.addIn .fp32 flush) (l.map fun x => ⟨decodeFloat .fp32 x, 0⟩)
  let o := roundFloat .fp32 false flush r.v
  ⟨o.n, r.f ||| o.f⟩

/-- The statistics record of a row of FP32 values (R121, R122): its four words and flags. old holds the words of the
record to merge with. -/
def fusedRecord (fuse : Nat) (flush : Bool) (vals : List Nat) (old : Option (List Nat)) : List Nat × Flags :=
  let n := vals.length
  match fuse with
  | 1 =>
    let mx := vals.tail.foldl (fun (a : NF) v => let x := fmaxNan flush a.n v; ⟨x.n, a.f ||| x.f⟩)
      (let x := fmaxNan flush (vals.headD 0) (vals.headD 0); x)
    let sm := pairSumFp32 flush vals
    match old with
    | none => ([mx.n, sm.n, 0, 0], mx.f ||| sm.f)
    | some o =>
      let mx' := fmaxNan flush (nth 0 o 0) mx.n
      let sm' := fadd .fp32 flush (nth 0 o 1) sm.n
      ([mx'.n, sm'.n, 0, 0], mx.f ||| sm.f ||| mx'.f ||| sm'.f)
  | 2 =>
    let sq := vals.map fun v => fmul .fp32 flush v v
    let sm := pairSumFp32 flush (sq.map (·.n))
    let f := sq.foldl (fun f x => f ||| x.f) sm.f
    match old with
    | none => ([sm.n, n, 0, 0], f)
    | some o =>
      let sm' := fadd .fp32 flush (nth 0 o 0) sm.n
      let c := countSat (nth 0 o 1 + n)
      ([sm'.n, c.n, 0, 0], f ||| sm'.f ||| c.f)
  | _ =>
    let w := vals.zipIdx.foldl (fun acc x => welford flush acc (x.2 + 1) x.1) (0, 0, 0)
    match old with
    | none => ([n, w.1, w.2.1, 0], w.2.2)
    | some o =>
      let c := chanMerge flush (nth 0 o 0) (nth 0 o 1) (nth 0 o 2) n w.1 w.2.1
      ([c.1.n, c.2.1, c.2.2.1, 0], w.2.2 ||| c.1.f ||| c.2.2.2)

/-- A sum formed exactly and rounded once to FP32 (R123); a NaN among its operands yields NaN with no flag (R80). -/
def exactSum (flush : Bool) (l : List Val) : NF :=
  if l.any Val.isNan then ⟨Fmt.nanCode .fp32, 0⟩ else
  let r := l.foldl (fun (a : VF) v => let x := a.v.add v; ⟨x.v, a.f ||| x.f⟩) ⟨.fin false 0 0, 0⟩
  let o := roundFloat .fp32 false flush r.v
  ⟨o.n, r.f ||| o.f⟩

/-- The scratchpad ranges that TILE_OUT writes. -/
def TileOp.ranges (t : TileOp) : List (Nat × Nat) :=
  (if t.outFmt = 7 then [] else (List.range t.rows).map fun r => (t.outAddr + r * t.stride, t.cols * outSize t.outFmt)) ++
  (if t.fuse = 0 then [] else [(t.statAddr, 16 * t.rows)]) ++
  (if t.bsum then [(t.bsumAddr, 8 * t.rows)] else [])

/-- Ranges within the scratchpad as destinations. -/
def spadDests (l : List (Nat × Nat)) : List Dest :=
  (l.filter fun x => x.1 + x.2 ≤ spadSize).map fun x => spadDest x.1 x.2

/-- One row of TILE_OUT. -/
def tileOutRow (e : Nat) (t : TileOp) (flush : Bool) (acc : Engine × Flags × Bool) (r : Nat) : Engine × Flags × Bool :=
  let g := acc.1
  let f := g.tileFmt t.tile
  let poison := g.rowPoison t.tile r
  let vals := (List.range t.cols).map fun j => tileVal f t.shape flush (g.elem t.tile t.shape r j)
  let fl := vals.foldl (fun a v => a ||| v.f) acc.2.1
  let out := if t.outFmt = 7 then [] else vals.map fun v => convertOut (f == .int32) t.outFmt t.iovf flush v.v
  let fl := out.foldl (fun a v => a ||| v.f) fl
  let g := if t.outFmt = 7 then g
    else spadStream g (t.outAddr + r * t.stride) (outSize t.outFmt) (out.map fun x => (x.n, poison))
  let a := t.statAddr + 16 * r
  let merged := t.fuse != 0 && t.merge
  let recPoison := poison || (merged && spadPoisoned g a 16)
  let st := if t.fuse = 0 then ([], 0)
    else fusedRecord t.fuse flush (vals.map fun v => (roundFloat .fp32 false flush v.v).n)
      (if t.merge then some (elems 4 (spadRead e g a 16)) else none)
  let g := if t.fuse = 0 then g else spadStream g a 4 (st.1.map fun x => (x, recPoison))
  let written := out.map fun x => writtenVal t.outFmt x.n
  let b0 := exactSum flush (written.take 32)
  let b1 := exactSum flush (written.drop 32)
  let g := if t.bsum then spadStream g (t.bsumAddr + 8 * r) 4 [(b0.n, poison), (b1.n, poison)] else g
  (g, fl ||| st.2 ||| (if t.bsum then b0.f ||| b1.f else 0), acc.2.2 || recPoison)

/-- TILE_OUT to the scratchpad (R120). An output beyond the scratchpad completes FAULT (R130). -/
def performTileOut (s : State) (e _q : Nat) (d : Desc) : Done :=
  let t := d.tileOp
  let g := s.engine e
  if !g.shapeOk t.tile t.shape then ⟨s, stDescErr, [], 0, [], []⟩
  else if t.ranges.any fun x => decide (spadSize < x.1 + x.2) then ⟨s, stFault, spadDests t.ranges, 0, [], []⟩
  else
    let r := (List.range t.rows).foldl (tileOutRow e t (s.flushOn e)) (g, 0, false)
    ⟨(s.setEngine e r.1).tileFlags e t.tile t.shape r.2.1, if r.2.2 then stPoisonIn else stOk, spadDests t.ranges, 0, [], []⟩

def tileOutSlots (_ : Engine) (d : Desc) : BitVec 32 := tileMask d.tileOp.tile d.tileOp.shape
def tileOutDests (s : State) (_ _ : Nat) (d : Desc) : State × List Dest := (s, spadDests d.tileOp.ranges)
def tileZeroDests (s : State) (_ _ : Nat) (d : Desc) : State × List Dest := (s, [tileDest d.tileOp.tile d.tileOp.shape])

/-! ## Accumulator images (R125) -/

/-- Bytes and lines of an accumulator image. -/
def accImageBytes : Nat := 270336
def accImageLines : Nat := 2112

/-- All slots. -/
def allSlots (_ : Engine) (_ : Desc) : BitVec 32 := BitVec.allOnes 32
def allTileDests : List Dest := (List.range 32).map fun i => .tile i false (BitVec.allOnes 64)

/-- The access of an engine's unit in the context of a queue (R243). -/
def unitAcc (s : State) (e q unit tag : Nat) (spaces : List Nat) : Acc :=
  { who := some e, src := e, ctx := s.qCtx e q, spaces := spaces, unit := unit, tag := tag }

/-- Where a line of a space lies: the stack line's key, or offset / 128. -/
def State.lineId (s : State) (space off : Nat) : Nat × Nat :=
  if space = 0 then (0, (s.place off).getD 0) else (space, off / 128)

/-- Where the lines of n × 128 bytes at a virtual address lie; none past the first that does not translate. -/
def State.imageLines (s : State) (a : Acc) (va n : Nat) : State × List (Nat × Nat) :=
  (List.range n).foldl (fun acc i =>
    let t := acc.1.translate a.who a.ctx (va + 128 * i)
    if t.2.1 ≠ 0 then acc
    else
      let sa := t.2.2.frame + (va + 128 * i) % 2 ^ t.2.2.log2
      (t.1, acc.2 ++ [t.1.lineId (saSpace sa) (saOff sa)])) (s, [])

/-- The image of an engine's accumulator memory at a place. -/
def accImage (g : Engine) (lines : List (Nat × Nat)) : Image :=
  { lines := lines, intact := true, acc := g.acc, slots := g.slots, spad := [], spadPoison := [], era := none,
    accEra := g.accEra, regs := [] }

/-- An image takes the place of every image that it overlaps, which its writes have spoiled. -/
def Mem.addImage (m : Mem) (im : Image) : Mem := { m with images := im :: m.images.filter (·.intact) }

/-- The destination lines of an image at a virtual address, as far as they translate. -/
def State.imageDests (s : State) (a : Acc) (va n : Nat) : State × List Dest :=
  (List.range n).foldl (fun acc i =>
    let t := acc.1.translate a.who a.ctx (va + 128 * i)
    if t.2.1 ≠ 0 then acc
    else
      let sa := t.2.2.frame + (va + 128 * i) % 2 ^ t.2.2.log2
      (t.1, acc.2 ++ [.line (saSpace sa) (saOff sa)])) (s, [])

/-- TILE_SAVE writes the image; its layout is not published, so its bytes are free. -/
def performTileSave (s : State) (e q : Nat) (d : Desc) : Done :=
  let va := d.op 0 48
  let a := unitAcc s e q 0 d.tag [0, 1]
  let w := s.vSpanWrite a va 0 (s.freeBytes accImageBytes) false
  let s1 := w.1.drawnN accImageBytes
  if w.2 ≠ 0 then let x := s1.imageDests a va accImageLines; ⟨x.1, stFault, x.2, 0, [], []⟩
  else
    let l := s1.imageLines a va accImageLines
    let s2 := l.1.modMem fun m => m.addImage (accImage (s.engine e) l.2)
    let x := s2.imageDests a va accImageLines
    ⟨x.1, stOk, x.2, 0, [], []⟩

def tileSaveDests (s : State) (e q : Nat) (d : Desc) : State × List Dest :=
  s.imageDests (unitAcc s e q 0 d.tag [0, 1]) (d.op 0 48) accImageLines

/-- Every slot zeroed, as after a failed integrity check. -/
def Engine.zeroSlots (g : Engine) : Engine := { g with acc := [], slots := [], accEra := none }

/-- TILE_LOAD restores an image that is intact, else leaves every slot zeroed; its completion poisons every row. -/
def performTileLoad (s : State) (e q : Nat) (d : Desc) : Done :=
  let va := d.op 0 48
  let a := unitAcc s e q 0 d.tag [0, 1]
  let r := s.vSpanRead a va accImageBytes 0
  if r.2.err ≠ 0 then ⟨r.1, stFault, allTileDests, 0, [], []⟩
  else
    let l := r.1.imageLines a va accImageLines
    match l.1.mem.images.find? fun im => im.intact && im.lines == l.2 && !r.2.poison with
    | some im => ⟨l.1.modEngine e fun g => { g with acc := im.acc, slots := im.slots, accEra := im.accEra }, stOk, allTileDests, 0, [], []⟩
    | none => ⟨l.1.modEngine e Engine.zeroSlots, stFault, allTileDests, 0, [], []⟩

def tileLoadDests (s : State) (_ _ : Nat) (_ : Desc) : State × List Dest := (s, allTileDests)

/-! ## Registers derived from the tiles and the arbiter (R126, Tables 6-9 and 6-10) -/

/-- ENG_TILE_BUSY. -/
def State.tileBusy (s : State) (e : Nat) : BitVec 32 :=
  (s.engine e).tasks.foldl (fun m t => if t.done then m else m ||| t.slots) 0

/-- ENG_TILE_FLAGn. -/
def State.tileFlagReg (s : State) (e n : Nat) : Word :=
  BitVec.ofNat 32 ((List.range 4).map fun i => ((s.engine e).slot (4 * n + i)).flags.toNat * 2 ^ (8 * i)).sum

/-- Tasks in flight that wait at the tile arbiter: an earlier task in flight holds one of their slots (R116). -/
def waitingTasks (earlier : List Task) : List Task → List Task
  | [] => []
  | t :: rest =>
    (if !t.done && earlier.any (fun x => !x.done && x.slots &&& t.slots != 0) then [t] else [])
      ++ waitingTasks (earlier ++ [t]) rest

/-- ENG_MX_STAT: the oldest task of the array and of the output stage runs, unless it waits at the arbiter. -/
def State.mxStat (s : State) (e : Nat) : Word :=
  let wait := waitingTasks [] (s.engine e).tasks
  let live := (s.engine e).tasks.filter fun t => !t.done && Desc.unit t.desc == 0
  let mul := live.filter Task.multiplies
  let out := live.filter fun t => !t.multiplies
  let runs (l : List Task) : Bool := match l with
    | [] => false
    | t :: _ => !wait.contains t
  BitVec.ofNat 32 ((runs mul).toNat + (if runs mul ∧ 2 ≤ mul.length then 2 else 0) + (runs out).toNat * 4
    + wait.length % 32 * 256)

/-- The word that ENG_ACC_DATA reads: zero without DEBUG (R126), and with META 1 for an index of 2 or more, which then wraps (DESIGN
CHOICE, log 157). -/
def State.accData (s : State) (e : Nat) : Word :=
  if !s.rb (blkCtrl (enPage e)) 2 then 0
  else
    let sel := s.r32 (Reg.engAccSel e)
    let slot := fld sel 0 5
    let w := fld sel 5 11
    if sel.getLsbD 16 then
      if w < 2 then BitVec.ofNat 32 (fld ((s.engine e).slot slot).poison (32 * w) 32) else 0
    else
      let g := s.engine e
      -- a word of a slot that no task has written since a reset lost it (Table 19-11)
      match g.accEra with
      | some n =>
        if (g.slot slot).shape = none ∧ g.accWord slot w = 0 then BitVec.ofNat 32 (Config.lost n e (2 ^ 21 + 4 * (2048 * slot + w)))
        else g.accWord slot w
      | none => g.accWord slot w

/-- A read of ENG_ACC_DATA in debug mode advances the word index (R126). -/
def State.accAdvance (s : State) (e : Nat) : State :=
  if !s.rb (blkCtrl (enPage e)) 2 then s
  else
    let w := s.rf (Reg.engAccSel e) 5 11
    let last := if s.rb (Reg.engAccSel e) 16 then 1 else 2047
    s.wf (Reg.engAccSel e) 5 11 (if last ≤ w then 0 else w + 1)

end Sys2Proof.Machine
end

