-- ==== Sys2Proof/Machine/Kv.lean ====
section
/-! DEFINITION. The key-value cache (chapter 9): the cache descriptor, addresses, appends from the output stage, valid
bitmaps, score updates and eviction. -/
namespace Sys2Proof.Machine

/-! ## The cache descriptor (R183, R184, Table 9-1) -/

/-- A field of the 8-byte word at an offset of a record. -/
def wordField (b : List Byte) (off lo len : Nat) : Nat := natLE (slice b off 8) / 2 ^ lo % 2 ^ len

def KvDesc.ofBytes (va : Nat) (b : List Byte) : KvDesc :=
  let f := wordField b
  { va := va, nlayers := f 0 8 8 + 1, nkvh := f 0 16 8 + 1, dch := f 0 24 2, kvFmt := f 0 26 1, ring := f 0 27 1 == 1,
    bitmaps := f 0 28 1 == 1, evictEn := f 0 29 1 == 1, ssh := f 0 32 6, vsh := f 0 38 6, scsh := f 0 44 6, sg := f 0 50 3,
    len := f 8 0 24, ringTop := f 0x10 0 18, ringBlocks := f 0x18 0 18, sinkBlocks := f 0x18 18 8, kvBase := f 0x20 0 48,
    validBase := f 0x28 0 48, scoreBase := f 0x30 0 48, evqBase := f 0x38 0 48, decay := f 0x40 0 32, thresh := f 0x40 32 32,
    protect := f 0x48 0 24, req := f 0x48 32 32,
    reserved := f 0 0 8 != 1 || f 0 30 2 != 0 || f 0 53 11 != 0 || f 8 24 40 != 0 || f 0x10 18 46 != 0 || f 0x18 26 38 != 0
      || f 0x20 48 16 != 0 || f 0x28 48 16 != 0 || f 0x30 48 16 != 0 || f 0x38 48 16 != 0 || f 0x48 24 8 != 0
      || f 0x50 0 64 != 0 || f 0x58 0 64 != 0 }

/-- Head dimension, and bytes per block. -/
def KvDesc.d (k : KvDesc) : Nat := 64 * (k.dch + 1)
def KvDesc.blk (k : KvDesc) : Nat := 128 * k.d

/-- An FP32 that is NaN or negative. -/
def badFp32 (x : Nat) : Bool := let v := decodeFloat .fp32 x; v.isNan || (v.isNeg && !v.isZero)

/-- R184. -/
def KvDesc.invalid (k : KvDesc) : Bool :=
  let streams := k.nlayers * k.nkvh
  k.reserved || decide (40 < k.ssh)
  || decide (2 ^ k.ssh < (if k.ring then k.blk * (k.sinkBlocks + k.ringBlocks) else k.blk))
  || k.kvBase % 2 ^ min k.ssh 30 != 0
  || (k.bitmaps && decide (k.vsh < 3))
  || (k.scoreBase != 0 && decide (k.scsh < 4)) || k.scoreBase % 16 != 0 || k.evqBase % 16 != 0
  || (k.ring && (k.ringBlocks == 0 || k.evictEn))
  || (k.evictEn && (!k.bitmaps || k.scoreBase == 0 || k.evqBase == 0 || decide (k.protect < 64 * 2 ^ k.sg + 16)
      || badFp32 k.decay || badFp32 k.thresh))
  || decide (2 ^ 48 < k.kvBase + streams * 2 ^ k.ssh)
  || (k.bitmaps && decide (2 ^ 48 < k.validBase + streams * 2 ^ k.vsh))
  || (k.scoreBase != 0 && decide (2 ^ 48 < k.scoreBase + streams * 2 ^ k.scsh))
  || (k.evictEn && decide (2 ^ 48 < k.evqBase + 16))

/-! ## Addresses (R186, R187, R191) -/

def KvDesc.stream (k : KvDesc) (layer head : Nat) : Nat := layer * k.nkvh + head
def KvDesc.slot (k : KvDesc) (n : Nat) : Nat :=
  if k.ring ∧ k.sinkBlocks ≤ n then k.sinkBlocks + (n - k.sinkBlocks) % k.ringBlocks else n
def KvDesc.key (k : KvDesc) (layer head t : Nat) : Nat :=
  k.kvBase + k.stream layer head * 2 ^ k.ssh + k.slot (t / 64) * k.blk + t % 64 * k.d
def KvDesc.value (k : KvDesc) (layer head t : Nat) : Nat := k.key layer head t + 64 * k.d
def KvDesc.vword (k : KvDesc) (layer head n : Nat) : Nat := k.validBase + k.stream layer head * 2 ^ k.vsh + 8 * k.slot n
def KvDesc.score (k : KvDesc) (layer head n : Nat) : Nat :=
  k.scoreBase + k.stream layer head * 2 ^ k.scsh + 16 * (k.slot n / 2 ^ k.sg)

def KvDesc.addressable (k : KvDesc) (t : Nat) : Bool :=
  let slot := k.slot (t / 64)
  decide (t < 2 ^ 24) && (k.ring || decide ((slot + 1) * k.blk ≤ 2 ^ k.ssh))
  && (!k.bitmaps || decide (8 * (slot + 1) ≤ 2 ^ k.vsh))
  && (k.scoreBase == 0 || decide (16 * (slot / 2 ^ k.sg + 1) ≤ 2 ^ k.scsh))

/-- TB, the ring's tail block. -/
def KvDesc.tail (k : KvDesc) : Nat := max k.sinkBlocks (k.ringTop + 1 - k.ringBlocks)
def KvDesc.held (k : KvDesc) (n : Nat) : Bool :=
  !k.ring || decide (n < k.sinkBlocks) || (decide (k.tail ≤ n) && decide (n ≤ k.ringTop))

/-! ## Accesses through a virtual address -/

/-- CAUSE of Tables 8-13 and 9-6 for a REASON of Table 11-5: translation fault or access error. -/
def causeOf (reason : Nat) : Nat := if reason ≤ 6 then 1 else 2

/-- Translate for a read or a write: REASON (recorded), space and offset. -/
def State.vPlace (s : State) (a : Acc) (va : Nat) (write : Bool) : State × Nat × Nat × Nat :=
  let r := s.translate a.who a.ctx va
  let fail (s : State) (why : Nat) : State × Nat × Nat × Nat := (s.xlFault a write why va, why, 0, 0)
  if r.2.1 ≠ 0 ∧ (r.2.1 < 8 ∨ !write) then fail r.1 r.2.1
  else
    let t := r.2.2
    if write ∧ !t.w then fail r.1 8
    else if write ∧ t.brine then fail r.1 9
    else
      let p := r.1.reach a t va
      if p.1 ≠ 0 then fail r.1 p.1 else (r.1, 0, p.2.1, p.2.2)

/-- Find a virtual address writable, by a write or by a near-memory operation: its REASON, recorded, or 0. An access that its target
refuses is recorded there too (R213, R234, R238). -/
def State.vStore (s : State) (a : Acc) (va : Nat) (nma : Bool) : State × Nat :=
  let x := s.vPlace a va true
  if x.2.1 ≠ 0 then (x.1, x.2.1)
  else
    let why := x.1.storeReason x.2.2.1 x.2.2.2 nma
    let refused := if nma ∧ x.2.2.1 = 0 then (x.1.nma x.2.2.2 a.src 0 [] 0 false).1
      else (x.1.lineWrite x.2.2.1 x.2.2.2 a.src 0 [] false).1
    if why ≠ 0 then (refused.xlFault a true why va, why) else (x.1, 0)

/-- An indivisible read-modify-write of n bytes within a line: state, CAUSE (5 where the line is poisoned), old bytes. -/
def State.vUpdate (s : State) (a : Acc) (va n : Nat) (f : List Byte → List Byte) : State × Nat × List Byte :=
  let r := s.vRead a va n 0
  if r.2.err ≠ 0 then (r.1, causeOf r.2.err, [])
  else if r.2.poison then (r.1, 5, [])
  else
    let w := r.1.vWrite a va 0 (f r.2.data) false
    (w.1, if w.2 = 0 then 0 else causeOf w.2, r.2.data)

/-- An indivisible operation of Table 10-8 on an 8-byte word: near memory in space 0, and by a read and a write that nothing parts
in space 1, where no near-memory operation is performed (R192, R194, R262; DEDUCED, log 163). CAUSE (5 where the word is poisoned)
and old value. -/
def State.vAtomic (s : State) (a : Acc) (va op x : Nat) : State × Nat × Nat :=
  let t := s.translate a.who a.ctx va
  if t.2.1 = 0 ∧ saSpace t.2.2.frame = 1 then
    let r := s.vUpdate a va 8 fun b => bytesLE 8 (nmaElem op (natLE b) x 0).n
    (r.1, r.2.1, natLE r.2.2)
  else
    let r := s.vNma a va op [x] 0 false
    (r.1, if r.2.err ≠ 0 then causeOf r.2.err else if r.2.poison then 5 else 0, natLE r.2.data)

/-- Read a cache descriptor as one line: state, CAUSE (6 standing for an invalid descriptor), descriptor. An address that
is not 128-byte aligned names no descriptor and is taken as invalid (R183, log 11). -/
def State.kvDesc (s : State) (a : Acc) (va : Nat) : State × Nat × KvDesc :=
  let none_ := KvDesc.ofBytes va (List.replicate 128 0)
  if va % 128 ≠ 0 then (s, 6, none_)
  else
    let r := s.vRead a va 128 0
    if r.2.err ≠ 0 then (r.1, causeOf r.2.err, none_)
    else if r.2.poison then (r.1, 5, none_)
    else
      let k := KvDesc.ofBytes va r.2.data
      (r.1, if k.invalid then 6 else 0, k)

/-! ## Appends (R192 to R197, Tables 9-4 to 9-6) -/

/-- A row of an append: its descriptor, whether it is skipped, its position and request handle. -/
structure AppendRow where
  cdesc : Nat
  skip : Bool
  pos : Nat
  req : Nat
deriving DecidableEq, Repr

def appendRow (e : Nat) (g : Engine) (atab r : Nat) : AppendRow :=
  let x := spadNum e g (atab + 0x20 + 16 * r) 8
  let y := spadNum e g (atab + 0x28 + 16 * r) 8
  { cdesc := x % 2 ^ 48, skip := x / 2 ^ 48 % 2 == 1, pos := y % 2 ^ 24, req := y / 2 ^ 32 % 2 ^ 32 }

/-- Where a row goes and what it still needs (R194): its descriptor, line address and valid word. -/
structure AppendPlan where
  k : KvDesc
  va : Nat
  vword : Nat
  setBit : Bool
  raiseTop : Bool
deriving DecidableEq, Repr

/-- The checks of Table 9-6 on a row: state, CAUSE and fault address, plan. -/
def State.appendPlan (s : State) (a : Acc) (t : TileOp) (layer head : Nat) (row : AppendRow) :
    State × Nat × Nat × Option AppendPlan :=
  let r := s.kvDesc a row.cdesc
  let k := r.2.2
  if r.2.1 = 6 then (r.1, 3, 0, none)
  else if r.2.1 ≠ 0 then (r.1, r.2.1, row.cdesc, none)
  else if k.nlayers ≤ layer ∨ k.nkvh ≤ head ∨ k.dch < t.colg ∨ t.outFmt ≠ k.kvFmt then (r.1, 3, 0, none)
  else
    let n := row.pos / 64
    if k.len ≤ row.pos ∨ !k.addressable row.pos ∨ (k.ring ∧ k.sinkBlocks ≤ n ∧ n < k.tail) then (r.1, 4, 0, none)
    else
      let base := if t.part = 0 then k.key layer head row.pos else k.value layer head row.pos
      let raiseTop := k.ring && decide (k.ringTop < n)
      let setBit := k.bitmaps && t.part == 0 && t.colg == 0
      let p : AppendPlan := { k := k, va := base + 64 * t.colg, vword := k.vword layer head n, setBit := setBit,
                              raiseTop := raiseTop }
      -- a row that fails a check writes nothing: every place that it writes is translated and found writable first
      let places := [(p.va, false)] ++ (if raiseTop && k.bitmaps then [(p.vword, false)] else if setBit then [(p.vword, true)] else [])
        ++ (if raiseTop then [(row.cdesc + 0x10, true)] else [])
      let c := places.foldl (fun (acc : State × Nat × Nat) va =>
        if acc.2.1 ≠ 0 then acc
        else
          let x := acc.1.vStore a va.1 va.2
          (x.1, if x.2 = 0 then 0 else causeOf x.2, va.1)) (r.1, 0, 0)
      if c.2.1 ≠ 0 then (c.1, c.2.1, c.2.2, none) else (c.1, 0, 0, some p)

/-- The 64 values of a tile row converted to OUT_FMT. -/
def appendBytes (g : Engine) (t : TileOp) (flush : Bool) (r : Nat) : List Byte × Flags :=
  let f := g.tileFmt t.tile
  let vs := (List.range 64).map fun j =>
    let v := tileVal f t.shape flush (g.elem t.tile t.shape r j)
    let o := convertOut (f == .int32) t.outFmt t.iovf flush v.v
    (⟨o.n, v.f ||| o.f⟩ : NF)
  (vs.map fun x => BitVec.ofNat 8 x.n, vs.foldl (fun f x => f ||| x.f) 0)

/-- Perform a planned row (R192, R194): RING_TOP, the line, the valid word. CAUSE and fault address. -/
def State.appendDo (s : State) (a : Acc) (p : AppendPlan) (pos : Nat) (line : List Byte) (poison : Bool) :
    State × Nat × Nat :=
  let n := pos / 64
  let bit := 2 ^ (pos % 64)
  -- the word's other bits are 0 in a valid descriptor, so its unsigned maximum is RING_TOP's
  let top : State × Nat × Nat := if p.raiseTop then s.vAtomic a (p.k.va + 0x10) 14 n else (s, 0, n)
  let raised := decide (top.2.2 < n)
  if top.2.1 ≠ 0 then (top.1, top.2.1, p.k.va + 0x10)
  else
    let w := top.1.vWrite a p.va 0 line poison
    if w.2 ≠ 0 then (w.1, causeOf w.2, p.va)
    else if raised ∧ p.k.bitmaps then
      let v := w.1.vWrite a p.vword 0 (bytesLE 8 bit) false
      (v.1, if v.2 = 0 then 0 else causeOf v.2, p.vword)
    else if p.setBit then
      let v := w.1.vAtomic a p.vword 13 bit
      -- an OR on a poisoned word leaves it poisoned (R231)
      (v.1, if v.2.1 = 5 then 0 else v.2.1, p.vword)
    else (w.1, 0, 0)

/-- An append row fault (R195, Table 9-15). -/
def State.kvFault (s : State) (e row part cause req tag va : Nat) : State :=
  ((s.w64 (Reg.engKvFlog e) (BitVec.ofNat 64 (row + 64 * part + 256 * cause + 2 ^ 16 * req + 2 ^ 48 * tag))).w64
    (Reg.engKvFlogVa e) (BitVec.ofNat 64 (va % 2 ^ 48))).raise (enPage e) 20 5 e

/-- One row of the append: state, flags, and whether a row failed or was poisoned. -/
def appendOne (e q : Nat) (d : Desc) (layer head : Nat) (headPoison flush : Bool)
    (acc : State × Flags × Bool) (r : Nat) : State × Flags × Bool :=
  let s := acc.1
  let t := d.tileOp
  let g := s.engine e
  let a := unitAcc s e q 0 d.tag [0, 1]
  let row := appendRow e g t.atab r
  if row.skip then acc
  else if headPoison ∨ spadPoisoned g (t.atab + 0x20 + 16 * r) 16 then
    (s.kvFault e r t.part 5 row.req d.tag row.cdesc, acc.2.1, true)
  else
    let p := s.appendPlan a t layer head row
    match p.2.2.2 with
    | none => (p.1.kvFault e r t.part p.2.1 row.req d.tag p.2.2.1, acc.2.1, true)
    | some plan =>
      let b := appendBytes g t flush r
      let poison := g.rowPoison t.tile r
      let w := p.1.appendDo a plan row.pos b.1 poison
      let fl := acc.2.1 ||| b.2
      if w.2.1 ≠ 0 then (w.1.kvFault e r t.part w.2.1 row.req d.tag w.2.2, fl, true)
      else (w.1.adopt s (e, q, s.r32 (Reg.engQHead e q)) r row.req [], fl, acc.2.2 || poison)

/-- TILE_OUT with KV 1 (R193 to R195). -/
def performAppend (s : State) (e q : Nat) (d : Desc) : Done :=
  let t := d.tileOp
  let g := s.engine e
  if !g.shapeOk t.tile t.shape ∨ t.cols ≠ 64 ∨ 1 < t.outFmt ∨ t.fuse ≠ 0 ∨ t.bsum then ⟨s, stDescErr, [], 0, [], []⟩
  else if spadSize < t.atab + 0x20 + 16 * t.rows then ⟨s, stFault, [], 0, [], []⟩
  else
    let layer := spadNum e g t.atab 1
    let head := spadNum e g (t.atab + 1) 1
    let r := (List.range t.rows).foldl (appendOne e q d layer head (spadPoisoned g t.atab 2) (s.flushOn e)) (s, 0, false)
    ⟨r.1.tileFlags e t.tile t.shape r.2.1, if r.2.2 then stPoisonIn else stOk, [], 0, [], []⟩

/-- The lines that an append would write, where it is not performed or is cancelled (Table 4-11). -/
def appendDests (s : State) (e q : Nat) (d : Desc) : State × List Dest :=
  let t := d.tileOp
  let g := s.engine e
  let a := unitAcc s e q 0 d.tag [0, 1]
  if spadSize < t.atab + 0x20 + 16 * t.rows then (s, [])
  else
    (List.range t.rows).foldl (fun (acc : State × List Dest) r =>
      let row := appendRow e g t.atab r
      if row.skip then acc
      else
        let p := acc.1.appendPlan a t (spadNum e g t.atab 1) (spadNum e g (t.atab + 1) 1) row
        match p.2.2.2 with
        | none => acc
        | some plan =>
          let x := p.1.vPlace a plan.va true
          (x.1, acc.2 ++ [.line x.2.2.1 x.2.2.2])) (s, [])

/-- A performed append's destinations are found again where it is cancelled. -/
def performKvAppend (s : State) (e q : Nat) (d : Desc) : Done :=
  let x := appendDests s e q d
  let r := performAppend s e q d
  { r with dests := if r.st = stDescErr then [] else x.2 }

/-! ## Scores and eviction (R198 to R200) -/

/-- exp2 within 1 ulp of FP32. -/
def exp2Ulp (flush : Bool) (x : Nat) : NF :=
  let v := readFloat .fp32 flush x
  match v.v with
  | .nan => ⟨Fmt.nanCode .fp32, v.f⟩
  | .inf n => ⟨if n then 0 else 0x7F800000, v.f⟩
  | y => let r := approxResult .fp32 flush 0x40 x 1 none (exp2Val y); ⟨r.n, v.f ||| r.f⟩

/-- An integer in FP32. -/
def intFp32 (k : Int) : Nat := (roundFloat .fp32 false false (Val.int k)).n

/-- The score entry after an update: SCORE, LAST, UPDATES and flags (R198). -/
def scoreStep (flush : Bool) (decay kvEnd mass score last updates : Nat) : Nat × Nat × Nat × Flags :=
  let dlt : Int := (kvEnd : Int) - last
  let x := fmul .fp32 flush (intFp32 (-dlt)) decay
  let c := exp2Ulp flush x.n
  let y := fmul .fp32 flush score c.n
  let decayed : NF × Nat := if 0 < dlt then (⟨y.n, x.f ||| c.f ||| y.f⟩, kvEnd) else (⟨score, 0⟩, last)
  let z := fadd .fp32 flush decayed.1.n mass
  (z.n, decayed.2, min (updates + 1) (2 ^ 32 - 1), decayed.1.f ||| z.f)

/-- Claim a slot of the eviction ring (R200): the header after it, and the slot. -/
def evictClaim (b : List Byte) : List Byte × Option Nat :=
  let prod := natLE (slice b 0 4)
  let cons := natLE (slice b 4 4)
  let size := 2 ^ (natLE (slice b 8 1))
  let full := natLE (slice b 12 4)
  if (prod + 2 ^ 32 - cons) % 2 ^ 32 < size then
    (bytesLE 4 ((prod + 1) % 2 ^ 32) ++ slice b 4 12, some (prod % size))
  else (slice b 0 12 ++ bytesLE 4 (min (full + 1) (2 ^ 32 - 1)), none)

/-- Evict a unit (R199): claim, EVICTED, valid words, record. -/
def State.evictUnit (s : State) (a : Acc) (k : KvDesc) (layer head u kvEnd entry : Nat) : State :=
  let h := s.vUpdate a k.evqBase 16 fun b => (evictClaim b).1
  if h.2.1 ≠ 0 then h.1
  else match (evictClaim h.2.2).2 with
    | none => (h.1.vUpdate a entry 8 fun b => bytesLE 8 (Nat.lor (natLE b) (2 ^ 58))).1
    | some slot =>
      let s := (h.1.vUpdate a entry 8 fun b =>
        let v := natLE b
        bytesLE 8 (Nat.lor (v - (v / 2 ^ 58 % 2) * 2 ^ 58) (2 ^ 56))).1
      let s := s.upTo (2 ^ k.sg) fun s i => (s.vWrite a (k.vword layer head (u * 2 ^ k.sg + i)) 0 (bytesLE 8 0) false).1
      let rec0 := k.evqBase + 0x10 + 16 * slot
      let s := (s.vWrite a rec0 0 (bytesLE 8 (k.va % 2 ^ 48 + k.stream layer head % 2 ^ 16 * 2 ^ 48)) false).1
      (s.vWrite a (rec0 + 8) 0 (bytesLE 8 (u % 2 ^ 18 + 2 ^ 31 + kvEnd % 2 ^ 24 * 2 ^ 32)) false).1

/-- The mass of a block added into its unit's score, and the eviction test after the unit's last block (R198, R199). A
failed update is recorded in ENG_XL_FAULT and changes nothing else (log 12). -/
def State.scoreUpdate (s : State) (a : Acc) (e : Nat) (flush : Bool) (k : KvDesc) (layer head n mass kvEnd : Nat)
    (test : Bool) : State :=
  if k.scoreBase = 0 then s
  else
    let va := k.score layer head n
    let r := s.vRead a va 16 0
    if r.2.err ≠ 0 ∨ r.2.poison then r.1
    else
      let b := r.2.data
      let lo := natLE (slice b 0 8)
      let x := scoreStep flush k.decay kvEnd mass (lo % 2 ^ 32) (lo / 2 ^ 32 % 2 ^ 24) (natLE (slice b 8 4))
      let w := r.1.vWrite a va 0 (bytesLE 4 x.1 ++ bytesLE 3 x.2.1 ++ slice b 7 1 ++ bytesLE 4 x.2.2.1 ++ slice b 12 4) false
      let s := w.1.numFlags e x.2.2.2
      let u := n / 2 ^ k.sg
      let v := decodeFloat .fp32 x.1
      let thr := readFloat .fp32 flush k.thresh
      let s := s.numFlags e (if w.2 = 0 ∧ test ∧ k.evictEn then thr.f else 0)
      if w.2 = 0 ∧ test ∧ k.evictEn ∧ lo / 2 ^ 56 % 4 = 0 ∧ k.sinkBlocks ≤ u * 2 ^ k.sg
          ∧ 64 * 2 ^ k.sg * (u + 1) + k.protect ≤ kvEnd ∧ v.lt thr.v then
        s.evictUnit a k layer head u kvEnd va
      else s

end Sys2Proof.Machine
end

