-- ==== Sys2Proof/Machine/Vector.lean ====
section
/-! DEFINITION. The vector stream unit (chapter 7): fused chains, reductions, rearranging and packing, the rotary
transform, random words, TOPK, SAMPLE and the quantiser. -/
namespace Sys2Proof.Machine

/-! ## Formats and streams (Table 7-2, R130, R131) -/

/-- Bytes of an element in IN_FMT or OUT_FMT; 0 for code 7. -/
def vecSize (c : Nat) : Nat := match c with
  | 0 | 1 | 5 => 1 | 2 | 3 => 2 | 4 | 6 => 4 | _ => 0

/-- A lane word: 32 bits, the flags of reading it, and its poison. -/
structure Lane where
  w : Nat
  f : Flags
  p : Bool
deriving DecidableEq, Repr

/-- A float value as a lane word. -/
def laneOf (v : Val) : Nat := (roundFloat .fp32 false false v).n

/-- An element of format c as a lane word: floats widened to FP32 under FLUSH, INT8 sign-extended (R131). -/
def laneRead (c : Nat) (flush : Bool) (n : Nat) : NF :=
  match c with
  | 5 => ⟨(signed n 8 % 2 ^ 32).toNat, 0⟩
  | 6 => ⟨n, 0⟩
  | c => let x := readFloat (outFloat c) flush n; ⟨laneOf x.v, x.f⟩

/-- Element i of the stream of w-byte elements at an address. -/
def streamElem (e : Nat) (g : Engine) (a w i : Nat) : Nat × Bool :=
  (spadNum e g (a + w * i) w, spadPoisoned g (a + w * i) w)

/-- Element i of a stream as a lane word. -/
def streamLane (e : Nat) (g : Engine) (a c : Nat) (flush : Bool) (i : Nat) : Lane :=
  let x := streamElem e g a (vecSize c) i
  let l := laneRead c flush x.1
  ⟨l.n, l.f, x.2⟩

/-- The even slot of a SHAPE 0 tile that a slot belongs to, else the slot. -/
def Engine.tileBase (g : Engine) (slot : Nat) : Nat := if (g.slot slot).shape = some 0 then slot / 2 * 2 else slot

/-- Recorded shape of the tile of a slot. -/
def Engine.tileShape (g : Engine) (slot : Nat) : Option Nat := (g.slot slot).shape.map (·.toNat)

/-- Element i of a tile as a lane word, by its recorded format (R130). -/
def tileLane (g : Engine) (slot shape : Nat) (flush : Bool) (i : Nat) : Lane :=
  let n := g.elem slot shape (i / 64) (i % 64)
  let l : NF := match g.tileFmt slot with
    | .int32 => ⟨n, 0⟩
    | .bf16 => laneRead 2 flush n
    | _ => laneRead 4 flush n
  ⟨l.n, l.f, g.rowPoison slot (i / 64)⟩

/-! ## Stages (R133, R134, Table 7-6) -/

/-- Lane format: FP32, or BF16 with CFMT 1. -/
def laneFmt (bf : Bool) : Fmt := if bf then .bf16 else .fp32

/-- An encoding of the lane format as a lane word. -/
def laneWiden (bf : Bool) (x : NF) : NF := ⟨if bf then x.n * 65536 else x.n, x.f⟩

/-- A value rounded to the lane format. -/
def laneRound (bf rtz flush : Bool) (x : VF) : NF :=
  let o := roundFloat (laneFmt bf) rtz flush x.v
  laneWiden bf ⟨o.n, x.f ||| o.f⟩

/-- MAX and MIN: NaN where either is; the zeros in the order -0, +0. -/
def valMax (a b : Val) : Val :=
  if a.isNan ∨ b.isNan then .nan
  else if a.isZero ∧ b.isZero then .fin (a.isNeg && b.isNeg) 0 0
  else a.maxOf b
def valMin (a b : Val) : Val :=
  if a.isNan ∨ b.isNan then .nan
  else if a.isZero ∧ b.isZero then .fin (a.isNeg || b.isNeg) 0 0
  else a.minOf b

/-- Equality of values; NaN equals nothing. -/
def valEq (a b : Val) : Bool := !a.isNan && !b.isNan && !(a.lt b) && !(b.lt a)

/-- An element-wise stage on lane words a, b and c. -/
def stageResult (bf flush : Bool) (st : Stage) (a b c : Nat) : NF :=
  let fa := readFloat .fp32 flush a
  let fb := readFloat .fp32 flush b
  let fc := readFloat .fp32 flush c
  let ia := signed a 32
  let ib := signed b 32
  let two (x : VF) (rtz : Bool) : NF := laneRound bf rtz flush ⟨x.v, fa.f ||| fb.f ||| x.f⟩
  let one (x : NF) : NF := laneWiden bf ⟨x.n, fa.f ||| x.f⟩
  let int (k : Int) : NF := intResult 32 st.iovf k
  match st.op with
  | 0x01 => two (fa.v.add fb.v) st.rtz
  | 0x02 => two (fa.v.sub fb.v) st.rtz
  | 0x03 => two (fa.v.mul fb.v) st.rtz
  | 0x04 =>
    let x := fa.v.fma fb.v fc.v
    laneRound bf st.rtz flush ⟨x.v, fa.f ||| fb.f ||| fc.f ||| x.f⟩
  | 0x05 => two ⟨valMax fa.v fb.v, 0⟩ false
  | 0x06 => two ⟨valMin fa.v fb.v, 0⟩ false
  | 0x07 => laneRound bf false flush ⟨fa.v.abs, fa.f⟩
  | 0x08 => laneRound bf false flush ⟨fa.v.neg, fa.f⟩
  | 0x09 => laneRound bf false flush ⟨valMin (valMax fa.v fb.v) fc.v, fa.f ||| fb.f ||| fc.f⟩
  | 0x0A =>
    let o := roundFloat (outFloat (st.imm % 8)) st.rtz flush fa.v
    laneRound bf false flush ⟨decodeFloat (outFloat (st.imm % 8)) o.n, fa.f ||| o.f⟩
  | 0x0C => ⟨if fa.v.lt fb.v && !fb.v.isNan then 0x3F800000 else 0, fa.f ||| fb.f⟩
  | 0x0D => ⟨if valEq fa.v fb.v then 0x3F800000 else 0, fa.f ||| fb.f⟩
  | 0x10 => one (approxExp (laneFmt bf) flush true fa.v)
  | 0x18 => one (approxExp (laneFmt bf) flush false fa.v)
  | 0x11 => one (approxLog (laneFmt bf) flush fa.v)
  | 0x12 => one (approxRcp (laneFmt bf) flush false fa.v)
  | 0x13 => one (approxRcp (laneFmt bf) flush true fa.v)
  | 0x14 => laneRound bf st.rtz flush ⟨fa.v.sqrt.v, fa.f ||| fa.v.sqrt.f⟩
  | 0x15 =>
    let x := laneDiv (laneFmt bf) st.rtz flush fa.v fb.v
    laneWiden bf ⟨x.n, fa.f ||| fb.f ||| x.f⟩
  | 0x16 => one (approxSigmoid (laneFmt bf) flush fa.v)
  | 0x17 => one (approxTanh (laneFmt bf) flush fa.v)
  | 0x20 => int (ia + ib)
  | 0x21 => int (ia - ib)
  | 0x22 => int (ia * ib)
  | 0x23 => ⟨if ib ≤ ia then a else b, 0⟩
  | 0x24 => ⟨if ia ≤ ib then a else b, 0⟩
  | 0x25 => int (ia * 2 ^ (b % 32))
  | 0x26 => ⟨((ia / 2 ^ (b % 32)) % 2 ^ 32).toNat, 0⟩
  | 0x27 => ⟨Nat.land a b, 0⟩
  | 0x28 => ⟨Nat.lor a b, 0⟩
  | 0x29 => ⟨Nat.xor a b, 0⟩
  | 0x2A => roundFloat .fp32 st.rtz flush (Val.int ia)
  | 0x2B => let x := floatToInt 32 st.rtz fa.v; ⟨x.n, fa.f ||| x.f⟩
  | _ => ⟨a, 0⟩

/-- Whether a stage's result is an INT32 word: the integer stages but ITOF, and FTOI (Table 7-6). -/
def stageInt (op : Nat) : Bool := (decide (0x20 ≤ op) && decide (op ≤ 0x29)) || op == 0x2B

/-- Kind of a lane word: whether it is an INT32 word; none for a word that no format or stage gave a kind (R131). -/
abbrev Kind := Option Bool

/-- SEL: the chosen operand with its kind; a word without a kind takes the other operand's. An INT32 word passes with its
bits whatever FLUSH (log 41). -/
def selResult (flush : Bool) (a b c : Nat) (ka kb : Kind) : NF × Kind :=
  let fc := readFloat .fp32 flush c
  let pick := if fc.v.isZero then (b, kb.orElse fun _ => ka) else (a, ka.orElse fun _ => kb)
  if pick.2 = some true then (⟨pick.1, fc.f⟩, pick.2)
  else
    let x := readFloat .fp32 flush pick.1
    (⟨if x.f = 0 then pick.1 else laneOf x.v, fc.f ||| x.f⟩, pick.2)

/-- The kind of a stage's result. -/
def stageKind (op : Nat) : Kind := some (stageInt op)

/-- The output conversion of a lane word (R136): by its kind, under RTZ and IOVF. -/
def laneOut (isInt : Bool) (out : Nat) (iovf rtz flush : Bool) (w : Nat) : NF :=
  let x : VF := if isInt then ⟨Val.int (signed w 32), 0⟩ else readFloat .fp32 flush w
  let o : NF := match out with
    | 5 => if isInt then intResult 8 iovf (signed w 32) else floatToInt 8 rtz x.v
    | 6 => if isInt then intResult 32 iovf (signed w 32) else floatToInt 32 rtz x.v
    | c => roundFloat (outFloat c) rtz flush x.v
  ⟨o.n, x.f ||| o.f⟩

/-! ## A chain's element (R132, R138) -/

/-- What a chain works on: the descriptor's operand, its program, FLUSH, and what its tiles are. -/
structure ChainCtx where
  e : Nat
  g : Engine
  v : VecOp
  p : Prog
  flush : Bool
  srcSlot : Nat
  srcShape : Nat
  progPoison : Bool

/-- A source of element i (Table 7-5, codes 1, 2, 3, 6 and 7): converted to BF16 with CFMT 1 (R131). -/
def ChainCtx.source (c : ChainCtx) (code i : Nat) : Lane :=
  let v := c.v
  let word (a : Nat) : Lane := ⟨spadNum c.e c.g a 4, 0, spadPoisoned c.g a 4⟩
  let x : Lane := match code with
    | 1 => if v.tileSrc then tileLane c.g c.srcSlot c.srcShape c.flush i
        else streamLane c.e c.g (32 * v.src0) v.inFmt c.flush i
    | 2 => streamLane c.e c.g (32 * v.src1) v.inFmt c.flush i
    | 3 => streamLane c.e c.g (32 * v.src2) v.inFmt c.flush i
    | 6 => word (32 * v.src2 + i / v.row * (4 * 2 ^ v.stride) + 4 * v.word)
    | _ => word (32 * v.src1 + 4 * (i % v.row))
  if v.bf16 then
    let y := readFloat .fp32 c.flush x.w
    let z := laneRound true false c.flush y
    ⟨z.n, x.f ||| z.f, x.p⟩
  else x

/-- The immediate of a stage as a lane word. -/
def ChainCtx.imm (c : ChainCtx) (st : Stage) : NF :=
  if c.v.bf16 then laneRound true false c.flush (readFloat .fp32 c.flush st.imm) else ⟨st.imm, 0⟩

/-- The passage of an element through the stages: P, KEEP, flags, stages that raised one, poison. -/
structure Pass where
  p : Nat
  kind : Kind
  keep : Nat
  keepKind : Kind
  f : Flags
  stages : Nat
  poison : Bool
deriving DecidableEq, Repr

/-- An operand of stage number k (Table 7-5). A source's flags and poison count where a stage selects it. -/
def ChainCtx.operand (c : ChainCtx) (i k : Nat) (st : Stage) (x : Pass) (sel : Nat) : Lane :=
  match sel with
  | 0 => if k = 0 then c.source 1 i else ⟨x.p, 0, false⟩
  | 4 => let m := c.imm st; ⟨m.n, m.f, false⟩
  | 5 => ⟨x.keep, 0, false⟩
  | s => c.source s i

/-- Kind of a source stream. -/
def ChainCtx.srcKind (c : ChainCtx) (code : Nat) : Kind :=
  some (if code = 1 ∧ c.v.tileSrc then c.g.tileFmt c.srcSlot == .int32 else c.v.inFmt == 5 || c.v.inFmt == 6)

/-- Kind of an operand of stage number k: the immediate and the words of ROW and COL have none. -/
def ChainCtx.kindOf (c : ChainCtx) (k : Nat) (x : Pass) (sel : Nat) : Kind :=
  match sel with
  | 0 => if k = 0 then c.srcKind 1 else x.kind
  | 1 | 2 | 3 => c.srcKind sel
  | 5 => x.keepKind
  | _ => none

/-- One stage. -/
def ChainCtx.stage (c : ChainCtx) (i : Nat) (x : Pass) (k : Nat) (st : Stage) : Pass :=
  let ops := st.selects.map (c.operand i k st x)
  let arg (n : Nat) : Nat := ((ops.drop n).head?.map (·.w)).getD 0
  let o : NF × Kind :=
    if st.op = 0x0B then selResult c.flush (arg 0) (arg 1) (arg 2) (c.kindOf k x st.sa) (c.kindOf k x st.sb)
    else (stageResult c.v.bf16 c.flush st (arg 0) (arg 1) (arg 2), stageKind st.op)
  let r := o.1
  { p := r.n, kind := o.2, keep := if st.keep then r.n else x.keep, keepKind := if st.keep then o.2 else x.keepKind,
    f := ops.foldl (fun f o => f ||| o.f) (x.f ||| r.f),
    stages := x.stages + (if r.f = 0 then 0 else 2 ^ k),
    poison := x.poison || ops.any (·.p) }

/-- The element-wise stages, and the reduction stage if there is one. -/
def Prog.elementwise (p : Prog) : List Stage := p.stages.filter fun s => !isReduction s.op
def Prog.reduction (p : Prog) : Option Stage := p.stages.find? fun s => isReduction s.op

/-- An element after the element-wise stages; with none, P is the first source, which is read where the stream is written. -/
def ChainCtx.element (c : ChainCtx) (i : Nat) : Pass :=
  let st := c.p.elementwise
  let x : Pass := { p := 0, kind := none, keep := 0, keepKind := none, f := 0, stages := 0, poison := c.progPoison }
  if st = [] ∧ c.v.outFmt = 7 then { x with kind := c.srcKind 1 }
  else if st = [] then let s := c.source 1 i; { x with p := s.w, kind := c.srcKind 1, f := s.f, poison := x.poison || s.p }
  else st.zipIdx.foldl (fun x s => c.stage i x s.2 s.1) x

/-- Whether P of an element is an INT32 word; a word without a kind takes that of the input format. -/
def ChainCtx.isInt (c : ChainCtx) (x : Pass) : Bool := (x.kind.orElse fun _ => c.srcKind 1).getD false

/-! ## Reductions (R135) -/

/-- Lists of n elements, the last one shorter. -/
def chunksOf {α : Type} (n : Nat) (fuel : Nat) (l : List α) : List (List α) :=
  match fuel with
  | 0 => []
  | fuel + 1 => if l = [] then [] else l.take n :: chunksOf n fuel (l.drop n)
  termination_by structural fuel

/-- The first index of the largest value; NaN below every number; none where all are NaN. -/
def argMax (l : List Val) : Option Nat :=
  (l.zipIdx.foldl (fun (b : Option (Val × Nat)) x =>
    if x.1.isNan then b
    else match b with
      | none => some x
      | some y => if y.1.lt x.1 then some x else b) none).map (·.2)

/-- A reduction of lane words. -/
def reduceWords (flush : Bool) (st : Stage) (l : List Nat) : NF :=
  let xs := l.map (readFloat .fp32 flush)
  let fl := xs.foldl (fun f x => f ||| x.f) 0
  match st.op with
  | 0x30 =>
    let beats := (chunksOf 64 l.length xs).map (pairSum (VF.addIn .fp32 flush))
    let r := match beats with
      | [] => (⟨.fin false 0 0, 0⟩ : VF)
      | b :: rest => rest.foldl (VF.addIn .fp32 flush) b
    ⟨laneOf r.v, fl ||| r.f⟩
  | 0x31 => ⟨laneOf ((xs.map (·.v)).foldl valMax (.inf true)), fl⟩
  | 0x32 => ⟨laneOf ((xs.map (·.v)).foldl valMin (.inf false)), fl⟩
  | 0x33 => match argMax (xs.map (·.v)) with
    | some i => ⟨i, fl⟩
    | none => ⟨0, fl ||| Flags.invalid⟩
  | 0x34 => let r := exactSum flush (xs.map (·.v)); ⟨r.n, fl ||| r.f⟩
  | _ => l.foldl (fun (a : NF) w =>
      let r := intResult 32 st.iovf (signed a.n 32 + signed w 32)
      ⟨r.n, a.f ||| r.f⟩) ⟨0, 0⟩

/-- An operand of a reduction: its lane word, its poison, the flags of reading it, and whether its element raised any flag,
in the element-wise stages and the output conversion too. -/
structure ReduceItem where
  w : Nat
  poison : Bool
  f : Flags
  flagged : Bool
deriving DecidableEq, Repr

/-- What a reduction makes of a row or a group of 32 elements; count is the number of its elements that raised a flag. -/
structure ReduceOut where
  n : Nat
  poison : Bool
  f : Flags
  stages : Nat
  count : Nat
deriving DecidableEq, Repr

def reduceItem (flush : Bool) (st : Stage) (f : Flags) (poison : Bool) (x : Lane) : ReduceItem :=
  let rd := if st.op = 0x35 then 0 else (readFloat .fp32 flush x.w).f
  { w := x.w, poison := poison || x.p, f := x.f, flagged := f ||| x.f ||| rd != 0 }

/-- One reduction, stage k. A flag that only forming its result raised counts for one element (R138, log 120). -/
def reduceBlock (flush : Bool) (st : Stage) (k : Nat) (b : List ReduceItem) : ReduceOut :=
  let r := reduceWords flush st (b.map (·.w))
  { n := r.n, poison := b.any (·.poison), f := b.foldl (fun f x => f ||| x.f) r.f, stages := if r.f = 0 then 0 else 2 ^ k
    count := max (b.filter (·.flagged)).length (if r.f = 0 then 0 else 1) }

/-! ## CHAIN (R130, R136 to R140) -/

/-- The scratchpad range of a stream. -/
def streamRange (base len size : Nat) : Nat × Nat := (32 * base, len * size)

/-- Results that a reduction writes. -/
def Prog.reductions (p : Prog) (v : VecOp) : Nat :=
  match p.reduction with
  | none => 0
  | some s => if s.op = 0x34 then (v.len + 31) / 32 else v.len / v.row

/-- What the chain writes to the scratchpad: the stream and the reduction results. -/
def chainWrites (v : VecOp) (p : Prog) : List (Nat × Nat) :=
  (if v.outFmt = 7 ∨ v.tileDst then [] else [streamRange v.dst v.len (vecSize v.outFmt)]) ++
  (if p.reduction.isSome then [(p.redAddr, 4 * p.reductions v)] else [])

/-- What the chain reads: the sources that some stage selects. -/
def chainReads (v : VecOp) (p : Prog) : List (Nat × Nat) :=
  let sel := p.stages.zipIdx.flatMap fun s => s.1.selects.map fun x => if x = 0 ∧ s.2 = 0 then 1 else x
  let sel := if p.elementwise = [] ∧ v.outFmt ≠ 7 then 1 :: sel else sel
  let size := vecSize v.inFmt
  (if sel.contains 1 ∧ !v.tileSrc then [streamRange v.src0 v.len size] else []) ++
  (if sel.contains 2 then [streamRange v.src1 v.len size] else []) ++
  (if sel.contains 3 then [streamRange v.src2 v.len size] else []) ++
  (if sel.contains 6 then [(32 * v.src2, (v.len / v.row - 1) * (4 * 2 ^ v.stride) + 4 * v.word + 4)] else []) ++
  (if sel.contains 7 then [(32 * v.src1, 4 * v.row)] else [])

/-- A range reaches beyond the scratchpad (R130). -/
def anyBeyond (l : List (Nat × Nat)) : Bool := l.any fun x => decide (spadSize < x.1 + x.2)

/-- The chain word in the scratchpad: FLAGS and STAGES ORed in, COUNT added, saturating (R138). -/
def chainWordMerge (old flags stages count : Nat) : Nat :=
  Nat.lor (old % 2 ^ 17) (flags + stages % 256 * 256) + min (old / 2 ^ 17 + count) 0x7FFF * 2 ^ 17

/-- Rows of a tile that a stream of len elements covers. -/
def coveredRows (len : Nat) : BitVec 64 := BitVec.ofNat 64 (2 ^ ((len + 63) / 64) - 1)

/-- Destinations of a CHAIN. -/
def chainDestList (g : Engine) (v : VecOp) (p : Prog) : List Dest :=
  let progOk := decide (32 * v.param + 8 + 8 * p.stages.length ≤ spadSize)
  let slot := v.dst % 32
  spadDests (if progOk then chainWrites v p else
    if v.outFmt = 7 ∨ v.tileDst then [] else [streamRange v.dst v.len (vecSize v.outFmt)]) ++
  (if v.tileDst ∧ (g.slot slot).shape.isSome then
    [.tile (g.tileBase slot) ((g.slot slot).shape == some 0) (coveredRows v.len)] else [])

/-- Slots of a CHAIN's tiles (R140). -/
def chainSlots (g : Engine) (d : Desc) : BitVec 32 :=
  let v := d.vec
  let mask (slot : Nat) : BitVec 32 := match g.tileShape slot with
    | some sh => tileMask (g.tileBase slot) sh
    | none => tileMask slot 1
  (if v.tileSrc then mask (v.src0 % 32) else 0) ||| (if v.tileDst then mask (v.dst % 32) else 0)

/-- The destination tile takes the task's format (R140). -/
def chainTileOk (g : Engine) (v : VecOp) : Bool :=
  let slot := v.dst % 32
  match g.tileShape slot with
  | none => false
  | some sh => decide (v.len ≤ shapeRows sh * 64) && match g.tileFmt slot with
    | .fp32 => v.outFmt == 4
    | .int32 => v.outFmt == 6
    | .open_ => v.outFmt == 4 || v.outFmt == 6
    | .bf16 => false

/-- A CHAIN task. -/
def performChainOf (prog : List Nat × Bool) (s : State) (e : Nat) (d : Desc) : Done :=
  let v := d.vec
  let g := s.engine e
  let p := progOf prog.1
  let dests := chainDestList g v p
  let progLen := 8 + 8 * p.stages.length
  let src := v.src0 % 32
  if anyBeyond ([(32 * v.param, progLen)] ++ chainWrites v p ++ chainReads v p ++
      (if p.cwordEn then [(p.cwordAddr, 4)] else [])) then ⟨s, stFault, dests, 0, [], []⟩
  else if v.tileSrc && ((g.tileShape src).map fun sh => decide (shapeRows sh * 64 < v.len)).getD true then
    ⟨s, stDescErr, [], 0, [], []⟩
  -- CFMT 1 allows no integer format, so no INT32 tile either (R131, log 121)
  else if v.tileSrc && v.bf16 && g.tileFmt (g.tileBase src) == .int32 then ⟨s, stDescErr, [], 0, [], []⟩
  else if v.tileDst ∧ !chainTileOk g v then ⟨s, stDescErr, [], 0, [], []⟩
  else
    let c : ChainCtx := { e := e, g := g, v := v, p := p, flush := s.flushOn e, srcSlot := g.tileBase src,
                          srcShape := (g.tileShape src).getD 1, progPoison := prog.2 }
    let els := (List.range v.len).map c.element
    let writes := v.outFmt != 7
    let outs := els.map fun x => if writes then laneOut (c.isInt x) v.outFmt v.iovf v.rtz c.flush x.p else ⟨0, 0⟩
    let pairs := List.zip els outs
    -- the reduction's operand a, with the flags and poison of reading it
    let red : List ReduceOut := match p.reduction with
      | none => []
      | some st =>
        let k := p.stages.length - 1
        let arg := els.zipIdx.map fun x => c.operand x.2 k st x.1 st.sa
        let items := (List.zip pairs arg).map fun x => reduceItem c.flush st (x.1.1.f ||| x.1.2.f) x.1.1.poison x.2
        (chunksOf (if st.op = 0x34 then 32 else v.row) v.len items).map (reduceBlock c.flush st k)
    let fl := red.foldl (fun f x => f ||| x.f) (pairs.foldl (fun f x => f ||| x.1.f ||| x.2.f) 0)
    let stages := red.foldl (fun n x => Nat.lor n x.stages) (els.foldl (fun n x => Nat.lor n x.stages) 0)
    let count := if red = [] then (pairs.filter fun x => x.1.f ||| x.2.f != 0).length else (red.map (·.count)).sum
    let outconv := outs.any fun x => x.f != 0
    let slot := g.tileBase (v.dst % 32)
    let shape := (g.tileShape (v.dst % 32)).getD 1
    let g := if !writes then g
      else if v.tileDst then
        let g := g.settleTile slot shape (if v.outFmt = 6 then .int32 else .fp32)
        let g := outs.zipIdx.foldl (fun g x => g.setElem slot shape (x.2 / 64) (x.2 % 64) x.1.n) g
        let bad := ((els.zipIdx.filter fun x => x.1.poison).map fun x => x.2 / 64).eraseDups
        g.poisonRows slot shape (BitVec.ofNat 64 (bad.map (2 ^ ·)).sum)
      else spadStream g (32 * v.dst) (vecSize v.outFmt) (pairs.map fun x => (x.2.n, x.1.poison))
    let g := if red = [] then g else spadStream g p.redAddr 4 (red.map fun x => (x.n, x.poison))
    let g := if p.cwordEn then
        spadStream g p.cwordAddr 4 [(chainWordMerge (spadNum e g p.cwordAddr 4) fl.toNat stages count,
          els.any (·.poison) || red.any (·.poison) || spadPoisoned g p.cwordAddr 4)]
      else g
    let s := s.setEngine e g
    let s := if v.tileDst then s.tileFlags e slot shape fl else s.numFlags e fl
    let cword := fl.toNat + stages % 256 * 256 + (if outconv then 2 ^ 16 else 0) + min count 0x7FFF * 2 ^ 17
    let poison := els.any (·.poison) || red.any (·.poison)
    ⟨s, if poison then stPoisonIn else stOk, dests, BitVec.ofNat 32 cword, [], []⟩

/-- A CHAIN that acts when it starts. -/
def performChain (s : State) (e _q : Nat) (d : Desc) : Done := performChainOf (chainProg e (s.engine e) (32 * d.vec.param)) s e d

def chainDests (s : State) (e _q : Nat) (d : Desc) : State × List Dest :=
  (s, chainDestList (s.engine e) d.vec (readProg e (s.engine e) (32 * d.vec.param)))

/-! ## The other opcodes: a shared frame (R129, R130) -/

/-- What an opcode of this unit writes and answers: engine, flags, whether it met poison, and free values used. -/
structure VecOut where
  g : Engine
  f : Flags
  poison : Bool
  used : Nat := 0

/-- Perform an opcode whose streams lie within the scratchpad; else it completes FAULT (R130). -/
def performVec (writes reads : VecOp → List (Nat × Nat)) (run : State → Nat → VecOp → VecOut) (s : State) (e _q : Nat)
    (d : Desc) : Done :=
  let v := d.vec
  if anyBeyond (writes v ++ reads v) then ⟨s, stFault, spadDests (writes v), 0, [], []⟩
  else
    let r := run s e v
    ⟨((s.setEngine e r.g).numFlags e r.f).drawnN r.used, if r.poison then stPoisonIn else stOk, spadDests (writes v), 0, [], []⟩

def vecDests (writes : VecOp → List (Nat × Nat)) (s : State) (_ _ : Nat) (d : Desc) : State × List Dest :=
  (s, spadDests (writes d.vec))

/-- The output stream of an opcode. -/
def streamWrites (v : VecOp) : List (Nat × Nat) :=
  if v.outFmt = 7 then [] else [streamRange v.dst v.len (vecSize v.outFmt)]

/-- Whether any element of a list of (value, poison) is poisoned. -/
def anyPoison (l : List (Nat × Bool)) : Bool := l.any (·.2)

/-! ## PERMUTE and SHUFFLE (R141) -/

def permuteReads (v : VecOp) : List (Nat × Nat) :=
  [streamRange v.src0 v.len (vecSize v.inFmt), streamRange v.src1 v.row 2]

/-- Element j of each output row is element idx[j] of the same input row. -/
def runPermute (s : State) (e : Nat) (v : VecOp) : VecOut :=
  let g := s.engine e
  let w := vecSize v.inFmt
  let idx := (List.range v.row).map fun j => (signed (streamElem e g (32 * v.src1) 2 j).1 16, (streamElem e g (32 * v.src1) 2 j).2)
  let els := (List.range (v.len / v.row)).flatMap fun r => idx.map fun x =>
    if 0 ≤ x.1 ∧ x.1 < (v.row : Int) then
      let y := streamElem e g (32 * v.src0) w (r * v.row + x.1.toNat)
      (y.1, y.2 || x.2)
    else (0, x.2)
  let bad := idx.any fun x => decide (x.1 < 0) || decide ((v.row : Int) ≤ x.1)
  ⟨spadStream g (32 * v.dst) w els, Flags.when bad Flags.invalid, anyPoison els, 0⟩

def shuffleReads (v : VecOp) : List (Nat × Nat) :=
  if v.param % 8 = 2 then [streamRange v.src0 (v.len / 2) (vecSize v.inFmt), streamRange v.src1 (v.len / 2) (vecSize v.inFmt)]
  else [streamRange v.src0 v.len (vecSize v.inFmt)]

/-- Where output element o comes from: the source and its element (Table 7-8). -/
def shuffleFrom (v : VecOp) (o : Nat) : Nat × Nat :=
  let gsz := 2 ^ (v.param / 8 % 32)
  let gi := o / gsz
  let i := o % gsz
  match v.param % 8 with
  | 0 => (0, gi * gsz + (gsz - 1 - i))
  | 1 => (0, gi * gsz + (i + gsz / 2) % gsz)
  | 2 => (gi % 2, gi / 2 * gsz + i)
  | 3 => if o < v.len / 2 then (0, 2 * gi * gsz + i)
      else let o' := o - v.len / 2; (0, (2 * (o' / gsz) + 1) * gsz + o' % gsz)
  | _ => let rows := v.len / v.row; (0, o % rows * v.row + o / rows)

def runShuffle (s : State) (e : Nat) (v : VecOp) : VecOut :=
  let g := s.engine e
  let w := vecSize v.inFmt
  let els := (List.range v.len).map fun o =>
    let f := shuffleFrom v o
    streamElem e g (32 * (if f.1 = 0 then v.src0 else v.src1)) w f.2
  ⟨spadStream g (32 * v.dst) w els, 0, anyPoison els, 0⟩

/-! ## PACK and UNPACK (R142) -/

def packWrites (v : VecOp) : List (Nat × Nat) := [(32 * v.dst, v.len * packWidth (v.param % 8) / 8)]
def packReads (v : VecOp) : List (Nat × Nat) := [streamRange v.src0 v.len (vecSize v.inFmt)]

/-- An integer in a w-bit field, signed or unsigned, under IOVF (R86). -/
def packField (w : Nat) (isSigned iovf : Bool) (k : Int) : NF :=
  if isSigned then intResult w iovf k
  else if 0 ≤ k ∧ k < 2 ^ w then ⟨k.toNat, 0⟩
  else if iovf then ⟨(k % 2 ^ w).toNat, Flags.intWrap⟩
  else ⟨if k < 0 then 0 else 2 ^ w - 1, Flags.intSat⟩

/-- Bytes of a bit string of w-bit fields, each byte poisoned if a field it holds a part of is. -/
def packBytes (w : Nat) (fs : List (Nat × Bool)) : List (Nat × Bool) :=
  let bits := fs.flatMap fun x => (List.range w).map fun i => (x.1 / 2 ^ i % 2, x.2)
  (chunksOf 8 bits.length bits).map fun b =>
    ((b.zipIdx.map fun x => x.1.1 * 2 ^ x.2).sum, b.any (·.2))

def runPack (s : State) (e : Nat) (v : VecOp) : VecOut :=
  let g := s.engine e
  let w := packWidth (v.param % 8)
  let xs := (List.range v.len).map fun i =>
    let x := streamElem e g (32 * v.src0) (vecSize v.inFmt) i
    let o := packField w (v.param / 8 % 2 == 1) v.iovf (signed x.1 (8 * vecSize v.inFmt))
    (o, x.2)
  ⟨spadStream g (32 * v.dst) 1 (packBytes w (xs.map fun x => (x.1.n, x.2))),
    xs.foldl (fun f x => f ||| x.1.f) 0, xs.any (·.2), 0⟩

def unpackReads (v : VecOp) : List (Nat × Nat) := [(32 * v.src0, v.len * packWidth (v.param % 8) / 8)]

/-- Field i of the packed string, and its poison. -/
def unpackField (e : Nat) (g : Engine) (a w i : Nat) : Nat × Bool :=
  let lo := a + w * i / 8
  let n := (w * i + w + 7) / 8 - w * i / 8
  (spadNum e g lo n / 2 ^ (w * i % 8) % 2 ^ w, spadPoisoned g lo n)

def runUnpack (s : State) (e : Nat) (v : VecOp) : VecOut :=
  let g := s.engine e
  let flush := s.flushOn e
  let w := packWidth (v.param % 8)
  let isFloat := v.param / 16 % 2 == 1
  let isSigned := v.param / 8 % 2 == 1
  let els := (List.range v.len).map fun i =>
    let x := unpackField e g (32 * v.src0) w i
    let o : NF :=
      if isFloat then
        let f : Fmt := if w = 4 then .e2m1 else .e3m2
        let y := readFloat f flush x.1
        let z := roundFloat (outFloat v.outFmt) false flush y.v
        ⟨z.n, y.f ||| z.f⟩
      else intResult (8 * vecSize v.outFmt) v.iovf (if isSigned then signed x.1 w else x.1)
    (o, x.2)
  ⟨spadStream g (32 * v.dst) (vecSize v.outFmt) (els.map fun x => (x.1.n, x.2)),
    els.foldl (fun f x => f ||| x.1.f) 0, els.any (·.2), 0⟩

/-! ## ROTARY (R143) -/

def rotaryReads (v : VecOp) : List (Nat × Nat) :=
  [streamRange v.src0 v.len (vecSize v.inFmt), streamRange v.src1 (v.row / 2) 4, streamRange v.src2 (v.len / v.row) 4]

/-- A value converted to OUT_FMT under RTZ. -/
def valOut (v : VecOp) (flush : Bool) (x : VF) : NF :=
  let o : NF := match v.outFmt with
    | 5 => floatToInt 8 v.rtz x.v
    | 6 => floatToInt 32 v.rtz x.v
    | c => roundFloat (outFloat c) v.rtz flush x.v
  ⟨o.n, x.f ||| o.f⟩

/-- Element j of a row: its pair, and which of the two it is. -/
def rotaryPair (v : VecOp) (j : Nat) : Nat × Nat × Nat × Bool :=
  let h := v.row / 2
  if v.param % 2 = 0 then (j / 2, j / 2 * 2, j / 2 * 2 + 1, j % 2 == 1)
  else if j < h then (j, j, j + h, false) else (j - h, j - h, j, true)

def runRotary (s : State) (e : Nat) (v : VecOp) : VecOut :=
  let g := s.engine e
  let flush := s.flushOn e
  let w := vecSize v.inFmt
  let inverse := v.param / 2 % 2 == 1
  let els := (List.range v.len).map fun i =>
    let r := i / v.row
    let ps := streamElem e g (32 * v.src2) 4 r
    let pos := signed ps.1 32
    let elem (k : Nat) : VF × Bool :=
      let x := streamElem e g (32 * v.src0) w k
      (readFloat (outFloat v.inFmt) flush x.1, x.2)
    if pos < 0 ∨ 2 ^ 24 ≤ pos then
      let x := elem i
      let o := valOut v flush x.1
      ((⟨o.n, o.f ||| Flags.invalid⟩ : NF), x.2 || ps.2)
    else
      let pr := rotaryPair v (i % v.row)
      let fr := streamElem e g (32 * v.src1) 4 pr.1
      let ff := readFloat .fp32 flush fr.1
      let cs := approxCosSin pos ff.v
      let sn := if inverse then cs.2.v.neg else cs.2.v
      let a := elem (r * v.row + pr.2.1)
      let b := elem (r * v.row + pr.2.2.1)
      let x := if pr.2.2.2 then a.1.v.mul sn else a.1.v.mul cs.1.v
      let y := if pr.2.2.2 then b.1.v.mul cs.1.v else b.1.v.mul sn
      let z := if pr.2.2.2 then x.v.add y.v else x.v.sub y.v
      -- one operation: a NaN among its operands gives NaN without INVALID (R80)
      let f : Flags := if a.1.v.isNan || b.1.v.isNan || cs.1.v.isNan || sn.isNan then 0 else x.f ||| y.f ||| z.f
      let o := valOut v flush ⟨z.v, a.1.f ||| b.1.f ||| ff.f ||| cs.1.f ||| f⟩
      (o, a.2 || b.2 || fr.2 || ps.2)
  let g := if v.outFmt = 7 then g
    else spadStream g (32 * v.dst) (vecSize v.outFmt) (els.map fun x => (x.1.n, x.2))
  ⟨g, els.foldl (fun f x => f ||| x.1.f) 0, els.any (·.2), 0⟩

/-! ## RANDOM (R144) -/

/-- A round of Philox-4×32. -/
def philoxRound (c : Nat × Nat × Nat × Nat) (k0 k1 : Nat) : Nat × Nat × Nat × Nat :=
  let p0 := 0xD2511F53 * c.1
  let p1 := 0xCD9E8D57 * c.2.2.1
  (Nat.xor (Nat.xor (p1 / 2 ^ 32) c.2.1) k0, p1 % 2 ^ 32, Nat.xor (Nat.xor (p0 / 2 ^ 32) c.2.2.2) k1, p0 % 2 ^ 32)

def philoxRounds (n : Nat) (c : Nat × Nat × Nat × Nat) (k0 k1 : Nat) : Nat × Nat × Nat × Nat :=
  match n with
  | 0 => c
  | n + 1 => philoxRounds n (philoxRound c k0 k1) ((k0 + 0x9E3779B9) % 2 ^ 32) ((k1 + 0xBB67AE85) % 2 ^ 32)

/-- Word i of Philox-4×32-10 under a 64-bit seed. -/
def philoxWord (seed block position stream i : Nat) : Nat :=
  let r := philoxRounds 10 (block, position, stream, 0) (seed % 2 ^ 32) (seed / 2 ^ 32)
  match i with
  | 0 => r.1
  | 1 => r.2.1
  | 2 => r.2.2.1
  | _ => r.2.2.2

/-- The uniform value of a word in FP32. -/
def uniformFp32 (w : Nat) : Nat := laneOf (.fin false (w / 256) (-24))

def randomReads (v : VecOp) : List (Nat × Nat) := [(32 * v.src1, 16)]

def runRandom (s : State) (e : Nat) (v : VecOp) : VecOut :=
  let g := s.engine e
  let a := 32 * v.src1
  let p := spadPoisoned g a 16
  let els := (List.range v.len).map fun i =>
    let w := philoxWord (spadNum e g a 8) (i / 4 % 2 ^ 32) (spadNum e g (a + 8) 4) (spadNum e g (a + 12) 4) (i % 4)
    (if v.outFmt = 6 then w else uniformFp32 w, p)
  ⟨spadStream g (32 * v.dst) 4 els, 0, p, 0⟩

/-! ## TOPK and SAMPLE (R145, R146) -/

/-- K of a TOPK or SAMPLE operand: PARAM [72:64], and STREAM: PARAM [79:73]. -/
def VecOp.k (v : VecOp) : Nat := v.param % 512
def VecOp.rngStream (v : VecOp) : Nat := v.param / 512

/-- a ranks before b: larger, NaN below every number, equal values in order of index. -/
def ranksBefore (a b : Val × Nat) : Bool :=
  if a.1.isNan then b.1.isNan && decide (a.2 < b.2)
  else b.1.isNan || b.1.lt a.1 || (!(a.1.lt b.1) && decide (a.2 < b.2))

/-- Insert into a ranked list of at most k. -/
def rankInsert (x : Val × Nat) : List (Val × Nat) → List (Val × Nat)
  | [] => [x]
  | y :: t => if ranksBefore x y then x :: y :: t else y :: rankInsert x t

def topkWrites (v : VecOp) : List (Nat × Nat) := [(32 * v.dst, v.len / v.row * v.k * 8)]
def topkReads (v : VecOp) : List (Nat × Nat) := [streamRange v.src0 v.len (vecSize v.inFmt)]

/-- The K records of each row; records beyond the row's length hold free values. -/
def runTopk (s : State) (e : Nat) (v : VecOp) : VecOut :=
  let g := s.engine e
  let flush := s.flushOn e
  let rows := (List.range (v.len / v.row)).map fun r =>
    let els := (List.range v.row).map fun j => (streamLane e g (32 * v.src0) v.inFmt flush (r * v.row + j), j)
    let best := els.foldl (fun l x => (rankInsert (decodeFloat .fp32 x.1.w, x.2) l).take v.k) []
    let recs := best.flatMap fun x => [laneOf x.1, x.2]
    let extra := (List.range (2 * (v.k - best.length))).map fun i => Config.free (s.fresh + 2 * v.k * r + i) % 2 ^ 32
    let nan := els.any fun x => (decodeFloat .fp32 x.1.w).isNan
    let p := els.any fun x => x.1.p
    ((recs ++ extra).map fun w => (w, p), els.foldl (fun f x => f ||| x.1.f) (Flags.when nan Flags.invalid))
  let out := rows.flatMap (·.1)
  ⟨spadStream g (32 * v.dst) 4 out, rows.foldl (fun f x => f ||| x.2) 0, anyPoison out,
    if v.row < v.k then 2 * v.k * rows.length else 0⟩

def sampleWrites (v : VecOp) : List (Nat × Nat) := [(32 * v.dst, 8 * v.len)]
def sampleReads (v : VecOp) : List (Nat × Nat) := [(32 * v.src0, 8 * v.k * v.len), (32 * v.src1, 32 * v.len)]

/-- An operation's flags joined to a list's. -/
def flagsOf (l : List NF) : Flags := l.foldl (fun f x => f ||| x.f) 0

/-- FP32 at least and above; false with NaN. -/
def fge (flush : Bool) (x y : Nat) : Bool :=
  let a := (readFloat .fp32 flush x).v
  let b := (readFloat .fp32 flush y).v
  !a.isNan && !b.isNan && !(a.lt b)
def fgt (flush : Bool) (x y : Nat) : Bool :=
  let a := (readFloat .fp32 flush x).v
  let b := (readFloat .fp32 flush y).v
  !a.isNan && b.lt a

/-- One row of SAMPLE: token, log-probability and flags. -/
def sampleRow (flush : Bool) (vs idx : List Nat) (temp0 topP0 : Nat) (seed position stream : Nat) : Nat × Nat × Flags :=
  let tv := readFloat .fp32 flush temp0
  let badTemp := tv.v.isNan || (tv.v.isNeg && !tv.v.isZero)
  let f0 := tv.f ||| Flags.when badTemp Flags.invalid
  let k := vs.length
  if badTemp ∨ tv.v.isZero ∨ k = 1 then (idx.headD 0, 0, f0)
  else
    let pv := readFloat .fp32 flush topP0
    let topP := if pv.v.isNan ∨ (Val.int 1).lt pv.v then 0x3F800000 else topP0
    let d := vs.map fun x => fsub .fp32 flush x (vs.headD 0)
    let z := d.map fun x => laneDiv .fp32 false flush (readFloat .fp32 flush x.n).v tv.v
    let ex := z.map fun x => expFp32 flush (readFloat .fp32 flush x.n).v
    let c := ex.foldl (fun (l : List NF) x => l ++ [fadd .fp32 flush ((l.getLast?.map (·.n)).getD 0) x.n]) []
    let thr := fmul .fp32 flush topP ((c.getLast?.map (·.n)).getD 0)
    let n := ((List.range k).find? fun i => fge flush (nth ⟨0, 0⟩ c i).n thr.n).getD (k - 1) + 1
    let u := uniformFp32 (philoxWord seed 0 position stream 0)
    let cn := (nth ⟨0, 0⟩ c (n - 1)).n
    let thr2 := fmul .fp32 flush u cn
    let i := ((List.range n).find? fun i => fgt flush (nth ⟨0, 0⟩ c i).n thr2.n).getD (n - 1)
    let ln := lnFp32 flush (readFloat .fp32 flush cn).v
    let lp := fsub .fp32 flush (nth ⟨0, 0⟩ z i).n ln.n
    (nth 0 idx i, lp.n, f0 ||| pv.f ||| flagsOf d ||| flagsOf z ||| flagsOf ex ||| flagsOf c ||| thr.f ||| thr2.f ||| ln.f ||| lp.f)

def runSample (s : State) (e : Nat) (v : VecOp) : VecOut :=
  let g := s.engine e
  let flush := s.flushOn e
  let rows := (List.range v.len).map fun r =>
    let ra := 32 * v.src0 + 8 * v.k * r
    let pa := 32 * v.src1 + 32 * r
    let vs := (List.range v.k).map fun i => spadNum e g (ra + 8 * i) 4
    let idx := (List.range v.k).map fun i => spadNum e g (ra + 8 * i + 4) 4
    let x := sampleRow flush vs idx (spadNum e g pa 4) (spadNum e g (pa + 4) 4) (spadNum e g (pa + 16) 8)
      (spadNum e g (pa + 8) 4) v.rngStream
    (x, spadPoisoned g ra (8 * v.k) || spadPoisoned g pa 32)
  let out := rows.flatMap fun x => [(x.1.1, x.2), (x.1.2.1, x.2)]
  ⟨spadStream g (32 * v.dst) 4 out, rows.foldl (fun f x => f ||| x.1.2.2) 0, anyPoison out, 0⟩

/-! ## QUANT (R97 to R100, R147) -/

/-- The range of k of Table 5-5: highest, and lowest under FLUSH. -/
def kRange (fmt : Nat) (flush : Bool) : Int × Int :=
  match fmt with
  | 0 => (7, if flush then -6 else -9)
  | 1 => (6, if flush then -6 else -9)
  | 2 => (5, if flush then -6 else -9)
  | 3 => (7, if flush then -6 else -9)
  | 4 => (6, if flush then -6 else -9)
  | 5 => (4, if flush then -6 else -9)
  | 6 => (6, if flush then -5 else -8)
  | _ => (4, if flush then -2 else -5)

/-- Largest code magnitude in the choice of k. -/
def quantMax (fmt : Nat) : Nat := match fmt with
  | 0 => 1 | 1 => 3 | 2 => 7 | 3 => 3 | 4 => 7 | 5 => 15 | 6 => 6 | _ => 28

/-- The smallest k with m × 2^k at least the finite value a, from k = lo up through n candidates; lo - 1 where even that
is enough below the range, and one above the range where none is. -/
def smallestK (m : Nat) (a : Val) (lo : Int) (n : Nat) : Int :=
  match n with
  | 0 => lo
  | n + 1 => if (Val.fin false m lo).lt a then smallestK m a (lo + 1) n else lo

/-- What the quantiser makes of a block: codes, scale byte, zero point, clipped values, k-clamped, invalid, flags. -/
structure QBlock where
  codes : List Nat
  scale : Nat
  zp : Nat
  clipped : Nat
  kclamped : Bool
  invalid : Bool
  f : Flags
deriving DecidableEq, Repr

/-- A value times 2^-k to the nearest integer; an infinity far outside every range. -/
def roundCode (x : Val) (k : Int) : Int :=
  match x with
  | .inf n => if n then -(2 ^ 40) else 2 ^ 40
  | v => (v.shift (-k)).toInt false

/-- A value as a float code: nearest, ties to even, clamped to the largest; zero codes have every bit 0. A code below the smallest
normal value is kept and raises no flag (R83 does not say; DESIGN CHOICE, log 128). -/
def floatCode (fmt : Nat) (x : Val) (k : Int) : Nat :=
  let f : Fmt := if fmt = 6 then .e2m1 else .e3m2
  let o := (roundFloat f false false (x.shift (-k))).n
  if o % 2 ^ (f.width - 1) = 0 then 0 else o

/-- Quantise one block of FP32 values x′ (R97 to R99). A block is all zero where its scaled values are, also where the scaling or FLUSH made
them so (DESIGN CHOICE, log 158). -/
def quantBlock (fmt clip : Nat) (flush : Bool) (xs : List Val) : QBlock :=
  let kr := kRange fmt flush
  let asym := asymCode fmt
  let w := codeBits fmt
  let byte (k : Int) : Nat := (k % 256).toNat
  let zeros := List.replicate 32 0
  if xs.any (·.isNan) then ⟨zeros, 0x80, 0, 0, false, true, Flags.invalid⟩
  else if xs.all (·.isZero) then ⟨zeros, byte kr.2, 0, 0, false, false, 0⟩
  else
    let factor := Val.fin false (16 - clip) (-4)
    let scaled (v : Val) : VF := (let r := v.mul factor; VF.round r .fp32 flush)
    let zero := Val.fin false 0 0
    let lo := scaled (xs.foldl valMin zero)
    let hi := scaled (xs.foldl valMax zero)
    let am := scaled ((xs.map Val.abs).foldl valMax zero)
    let span := if asym then (hi.v.sub lo.v).v else am.v
    let fl := if asym then lo.f ||| hi.f else am.f
    let m := quantMax fmt
    -- one candidate below and one above the range show that the clamp changed k
    let want : Int := if span.isInf then kr.1 + 1 else if span.isZero then kr.2 - 1
      else smallestK m span (kr.2 - 1) ((kr.1 - kr.2).toNat + 2)
    let k := max kr.2 (min kr.1 want)
    let z : Int := if asym then max 0 (min m (roundCode lo.v.neg k)) else 0
    let cs := xs.map fun x =>
      if 6 ≤ fmt then
        let big := Val.fin false (if fmt = 6 then 7 else 30) k
        (floatCode fmt x k, !(x.abs.lt big))
      else
        let c := roundCode x k + z
        let cc : Int := if asym then max 0 (min (m : Int) c) else max (-(m : Int)) (min (m : Int) c)
        ((cc % 2 ^ w).toNat, c != cc)
    let n := (cs.filter (·.2)).length
    ⟨cs.map (·.1), byte k, z.toNat, n, want != k, false, fl ||| Flags.when (n != 0) Flags.clip⟩

/-- Blocks of a QUANT operand, and the ranges it writes and reads. -/
def QuantOp.blocks (q : QuantOp) : Nat := q.len / 32
def quantWrites (d : Desc) : List (Nat × Nat) :=
  let q := d.quantOp
  [(q.code, q.blocks * codeBytes q.codeFmt), (q.sc, q.blocks)] ++
  (if asymCode q.codeFmt then [(q.zp, q.blocks)] else []) ++ (if q.cmapEn then [(q.cmap, q.blocks)] else [])

/-- One block: the engine with its planes written, its counts, flags and poison. -/
def quantStep (e : Nat) (g0 : Engine) (q : QuantOp) (flush : Bool)
    (acc : Engine × List Nat × Flags × Bool) (b : Nat) : Engine × List Nat × Flags × Bool :=
  let ls := (List.range 32).map fun i => streamLane e g0 q.src q.inFmt flush (32 * b + i)
  let xs := ls.map fun l => (VF.round ⟨(decodeFloat .fp32 l.w).shift (-q.texp), l.f⟩ .fp32 flush)
  let p := ls.any (·.p)
  let r := quantBlock q.codeFmt q.clip flush (xs.map (·.v))
  let g := spadStream acc.1 (q.code + b * codeBytes q.codeFmt) 1 (packBytes (codeBits q.codeFmt) (r.codes.map fun c => (c, p)))
  let g := spadStream g (q.sc + b) 1 [(r.scale, p)]
  let g := if asymCode q.codeFmt then spadStream g (q.zp + b) 1 [(r.zp, p)] else g
  let g := if q.cmapEn then spadStream g (q.cmap + b) 1 [(r.clipped + 64 * r.invalid.toNat + 128 * r.kclamped.toNat, p)] else g
  (g, List.zipWith (· + ·) acc.2.1 [32, r.clipped, r.kclamped.toNat, r.invalid.toNat],
    xs.foldl (fun f x => f ||| x.f) (acc.2.2.1 ||| r.f), acc.2.2.2 || p)

/-- A QUANT task: the planes, and the counts that its statistics record receives at its completion (R100). -/
def performQuant (s : State) (e _q : Nat) (d : Desc) : Done :=
  let o := d.quantOp
  let g := s.engine e
  let dests := spadDests (quantWrites d)
  if anyBeyond ((o.src, o.len * vecSize o.inFmt) :: quantWrites d) then ⟨s, stFault, dests, 0, [], []⟩
  else
    let r := (List.range o.blocks).foldl (quantStep e g o (s.flushOn e)) (g, [0, 0, 0, 0], 0, false)
    let s := (s.setEngine e r.1).numFlags e r.2.2.1
    let ok := if r.2.2.2 then stPoisonIn else stOk
    { s := s, st := ok, dests := dests, counts := if o.statEn then r.2.1 else [] }

def quantDests (s : State) (_ _ : Nat) (d : Desc) : State × List Dest := (s, spadDests (quantWrites d))

/-- ENG_VX_STAT (Table 7-13). -/
def State.vxStat (s : State) (e : Nat) : Word :=
  let live := (s.engine e).tasks.filter fun t => !t.done && Desc.unit t.desc == 2
  match live with
  | [] => 0
  | t :: rest => BitVec.ofNat 32 (1 + (if rest = [] then 0 else 2) + Desc.opcode t.desc * 256)

end Sys2Proof.Machine
end

