-- ==== Sys2Proof/Machine/Attention.lean ====
section
/-! DEFINITION. The attention pipeline (chapter 8): length tables, visibility and bias, scores, the one pass with a moving
maximum, partial records and their merge, attention mass, and the backward pass. -/
namespace Sys2Proof.Machine

/-! ## Records (Tables 8-3, 8-4, 8-7, 8-12) -/

/-- The control record. -/
structure AttnCtrl where
  layer : Nat
  head : Nat
  nh : Nat
  dch : Nat
  qFmt : Nat
  kvFmt : Nat
  outFmt : Nat
  doFmt : Nat
  causal : Bool
  window : Option Nat
  treeEn : Bool
  validEn : Bool
  bias : Nat
  sink : Nat
  scoreScale : Nat
  outScale : Nat
  biasAddr : Nat
  massAddr : Nat
  bad : Bool
deriving DecidableEq, Repr

/-- The control record that 64 bytes hold; bad where it holds a reserved encoding (R157, log 13). -/
def ctrlOf (b : List Byte) : AttnCtrl :=
  let f (off lo len : Nat) : Nat := natLE (slice b off 4) / 2 ^ lo % 2 ^ len
  let win := f 8 0 24
  let winEn := f 4 1 1 == 1
  { layer := f 0 0 8, head := f 0 8 8, nh := f 0 16 6, dch := f 0 24 2, qFmt := f 0 26 1, kvFmt := f 0 27 1,
    outFmt := f 0 28 3, doFmt := f 0 31 1, causal := f 4 0 1 == 1, window := if winEn then some win else none,
    treeEn := f 4 2 1 == 1, validEn := f 4 3 1 == 1, bias := f 4 4 2, sink := f 0xC 0 24, scoreScale := f 0x10 0 32,
    outScale := f 0x14 0 32, biasAddr := 32 * f 0x18 0 16, massAddr := 32 * f 0x18 16 16,
    bad := f 0 22 2 != 0 || f 4 6 26 != 0 || f 8 24 8 != 0 || f 0xC 24 8 != 0
      || natLE (slice b 0x1C 36) != 0 || f 0 16 6 == 0 || decide (32 < f 0 16 6) || decide (4 < f 0 28 3)
      || f 4 4 2 == 3 || (winEn && win == 0) }

/-- The control record at an address of a scratchpad. -/
def readCtrl (e : Nat) (g : Engine) (a : Nat) : AttnCtrl := ctrlOf (spadRead e g a 64)

/-- A length-table entry, with its backward extension. -/
structure AttnEntry where
  cdesc : Nat
  kvEnd : Nat
  nq : Nat
  lenPtr : Bool
  qpos : Nat
  qAddr : Nat
  outAddr : Nat
  statAddr : Nat
  treeAddr : Nat
  kvStart : Nat
  req : Nat
  gkv : Nat
  doAddr : Nat
  deltaAddr : Nat
  bad : Bool
deriving DecidableEq, Repr

/-- Bytes of a length-table entry (R153, R176). -/
def entrySize (bwd : Bool) : Nat := if bwd then 64 else 32

def readEntry (bwd : Bool) (e : Nat) (g : Engine) (a : Nat) : AttnEntry :=
  let b := spadRead e g a (entrySize bwd)
  let f (off lo len : Nat) : Nat := natLE (slice b off 8) / 2 ^ lo % 2 ^ len
  { cdesc := f 0 0 48, kvEnd := f 8 0 24, nq := f 8 24 5, lenPtr := f 8 29 1 == 1, qpos := f 0xC 0 24, qAddr := 32 * f 0x10 0 16,
    outAddr := 32 * f 0x12 0 16, statAddr := 32 * f 0x14 0 16, treeAddr := 32 * f 0x16 0 16, kvStart := f 0x18 0 24,
    req := f 0x1C 0 32, gkv := f 0x20 0 48, doAddr := 32 * f 0x28 0 16, deltaAddr := 32 * f 0x2A 0 16,
    bad := f 0 48 16 != 0 || f 8 30 2 != 0 || f 0xC 24 8 != 0 || f 0x18 24 8 != 0 || f 8 24 5 == 0 || decide (17 < f 8 24 5)
      || (bwd && (f 0x20 48 16 != 0 || f 0x20 0 6 != 0 || natLE (slice b 0x2C 20) != 0)) }

/-- Bytes of a partial record's header and statistics (R167). -/
def partialHead (rows : Nat) : Nat := 32 * ((16 + 8 * rows + 31) / 32)
def partialSize (rows d : Nat) : Nat := partialHead rows + 4 * rows * d

/-! ## Visibility and bias (R158, R159) -/

/-- bucket(u) of R159. -/
def biasBucket (u : Nat) : Nat := if u < 16 then u else let e := Nat.log2 u; 16 + 4 * (e - 4) + u / 2 ^ (e - 2) % 4

/-- Position t is visible to query position i, at qp, by R158; held and the valid bit apart. -/
def visible (c : AttnCtrl) (en : AttnEntry) (tree : Nat) (i t : Nat) : Bool :=
  let qp := en.qpos + i
  (!c.causal || decide (t ≤ qp))
  && (match c.window with
    | some w => decide (qp < t + w) || decide (t < c.sink)
    | none => true)
  && (!c.treeEn || decide (t ≤ en.qpos) ||
    (decide (1 ≤ i) && decide (t - en.qpos - 1 < 16) && tree / 2 ^ (t - en.qpos - 1) % 2 == 1))

/-- The bias of position t for head h at query position qp: FP32 with flags, and its poison. -/
def biasOf (e : Nat) (g : Engine) (c : AttnCtrl) (flush : Bool) (h qp t : Nat) : Lane :=
  let delta : Int := (qp : Int) - t
  match c.bias with
  | 1 =>
    let j := if 0 ≤ delta then biasBucket delta.toNat else 96 + biasBucket (-delta).toNat
    let a := c.biasAddr + h * 768 + 4 * j
    ⟨spadNum e g a 4, 0, spadPoisoned g a 4⟩
  | 2 =>
    let a := c.biasAddr + 4 * h
    let x := fmul .fp32 flush (spadNum e g a 4) (intFp32 delta)
    ⟨x.n, x.f, spadPoisoned g a 4⟩
  | _ => ⟨0, 0, false⟩

/-! ## Dot products (R160, R163) -/

/-- E4M3 or E5M2. -/
def fp8 (c : Nat) : Fmt := if c = 1 then .e5m2 else .e4m3

/-- Bytes as FP8 operands. -/
def fp8Vals (c : Nat) (flush : Bool) (b : List Byte) : List VF := b.map fun x => readFloat (fp8 c) flush x.toNat

/-- An exact product. -/
def VF.times (a b : VF) : VF := let p := a.v.mul b.v; ⟨p.v, a.f ||| b.f ||| p.f⟩

/-- A dot product of FP8 vectors: chunks by the spine, their sums added in FP32 in ascending order (R160). -/
def dotFp8 (flush : Bool) (a b : List VF) : VF :=
  let cs := (chunksOf 64 a.length (List.zipWith VF.times a b)).map (pairSum (VF.addIn .spine false))
  match cs with
  | [] => ⟨.fin false 0 0, 0⟩
  | c :: rest => rest.foldl (VF.addIn .fp32 flush) c

/-- A value as an FP32 encoding. -/
def VF.toFp32 (x : VF) (flush : Bool) : NF := let o := roundFloat .fp32 false flush x.v; ⟨o.n, x.f ||| o.f⟩

/-- A score: fma(total, SCORE_SCALE, b) with one rounding. -/
def scoreOf (flush : Bool) (q k : List VF) (scale bias : Nat) : NF :=
  let t := dotFp8 flush q k
  let x := readFloat .fp32 flush scale
  let b := readFloat .fp32 flush bias
  let r := t.v.fma x.v b.v
  VF.toFp32 ⟨r.v, t.f ||| x.f ||| b.f ||| r.f⟩ flush

/-- A weight: 2^(s - m) rounded to the P_PREC format (R161, R165). -/
def weightOf (flush bf : Bool) (s m : Nat) : NF :=
  let x := fsub .fp32 flush s m
  let v := readFloat .fp32 flush x.n
  let y : Val := match v.v with
    | .nan => .nan
    | .inf n => if n then .fin false 0 0 else .inf false
    | w => exp2Val w
  let o := roundFloat (if bf then .bf16 else .e4m3) false flush y
  ⟨o.n, x.f ||| v.f ||| o.f⟩

/-! ## Running state of a row (R161) -/

/-- Maximum, sum and output in FP32, whether a visible score was NaN or infinite, flags, and poison. -/
structure RowAcc where
  m : Nat
  l : Nat
  o : List Nat
  bad : Bool
  f : Flags
  poison : Bool
  /-- maximum and unrescaled weight sum after each block (R174) -/
  recs : List (Nat × Nat)
deriving DecidableEq, Repr

def RowAcc.start (d : Nat) (poison : Bool) : RowAcc :=
  { m := 0xFF800000, l := 0, o := List.replicate d 0, bad := false, f := 0, poison := poison, recs := [] }

/-- What a row sees of a block: position in the block, score, value. -/
structure Seen where
  i : Nat
  s : Nat
  v : List VF

/-- The larger of FP32 scores. -/
def maxScore (l : List Nat) : Nat :=
  l.foldl (fun a x => if (decodeFloat .fp32 a).lt (decodeFloat .fp32 x) then x else a) 0xFF800000

/-- One block of a row (R161, R163, R164). -/
def RowAcc.block (r : RowAcc) (flush bf : Bool) (d : Nat) (seen : List Seen) : RowAcc :=
  if seen = [] ∨ r.bad then { r with recs := r.recs ++ [(r.m, 0)] }
  else if seen.any fun x => let v := decodeFloat .fp32 x.s; v.isNan || v.isInf then
    { r with bad := true, f := r.f ||| Flags.invalid, recs := r.recs ++ [(r.m, 0)] }
  else
    let mb := maxScore (seen.map (·.s))
    let rises := (decodeFloat .fp32 r.m).lt (decodeFloat .fp32 mb)
    let r : RowAcc :=
      if rises ∧ r.m ≠ 0xFF800000 then
        let x := fsub .fp32 flush r.m mb
        let c := exp2Ulp flush x.n
        let os := r.o.map fun y => fmul .fp32 flush y c.n
        let l := fmul .fp32 flush r.l c.n
        { r with o := os.map (·.n), l := l.n, f := r.f ||| x.f ||| c.f ||| l.f ||| flagsOf os }
      else r
    let m := if rises then mb else r.m
    let ws := seen.map fun x => weightOf flush bf x.s m
    let pf : Fmt := if bf then .bf16 else .e4m3
    let ps := ws.map fun w => readFloat pf flush w.n
    let zero : VF := ⟨.fin false 0 0, 0⟩
    let col (j : Nat) : NF :=
      let prods := (List.range 64).map fun i =>
        match (List.zip seen ps).find? fun x => x.1.i == i with
        | some x => VF.times x.2 (x.1.v.getD j zero)
        | none => zero
      (pairSum (if bf then VF.addIn .fp32 flush else VF.addIn .spine false) prods).toFp32 flush
    let os := r.o.zipIdx.map fun y =>
      let b := col y.2
      let z := fadd .fp32 flush y.1 b.n
      (⟨z.n, b.f ||| z.f⟩ : NF)
    let lb := exactSum flush (ps.map (·.v))
    let l := if bf then fadd .fp32 flush r.l lb.n
      else exactSum flush ((readFloat .fp32 flush r.l).v :: ps.map (·.v))
    { r with m := m, l := l.n, o := os.map (·.n), f := r.f ||| flagsOf ws ||| flagsOf os ||| lb.f ||| l.f,
             recs := r.recs ++ [(m, lb.n)] }
  where _d := d

/-- A row completed (R164; R168 where there is no scale): m, l, output in FP32, flags. -/
def RowAcc.finish (r : RowAcc) (flush : Bool) (scale : Option Nat) : Nat × Nat × List Nat × Flags :=
  let nan := Fmt.nanCode .fp32
  if r.bad then (nan, nan, r.o.map fun _ => nan, r.f)
  else if (decodeFloat .fp32 r.l).isZero then (0xFF800000, 0, r.o.map fun _ => 0, r.f)
  else match scale with
    | none => (r.m, r.l, r.o, r.f)
    | some x =>
      let q := fdiv flush x r.l
      let os := r.o.map fun y => fmul .fp32 flush y q.n
      (r.m, r.l, os.map (·.n), r.f ||| q.f ||| flagsOf os)

/-! ## Reading the cache (R154, R155, R179) -/

/-- A key or a value of D bytes: CAUSE (4 where it is poisoned), bytes. -/
def State.kvRead (s : State) (a : Acc) (va d : Nat) : State × Nat × List Byte :=
  let r := s.vSpanRead a va d 1
  if r.2.err ≠ 0 then (r.1, causeOf r.2.err, [])
  else (r.1, if r.2.poison then 4 else 0, r.2.data)

/-- A position's key and value as read. -/
structure KvPos where
  t : Nat
  k : List VF
  v : List VF

/-- What one block holds for an entry: positions read, the valid word, or a fault (CAUSE and address). -/
structure BlockRead where
  s : State
  cause : Nat
  va : Nat
  pos : List KvPos
  vis : List (List Nat)

/-- Read a block of an entry: the valid word once, then every position of the range in a held block. A poisoned line at a
position that no row sees poisons nothing (R180). -/
def readBlock (s : State) (a : Acc) (k : KvDesc) (c : AttnCtrl) (en : AttnEntry) (trees : List Nat) (kvEnd : Nat)
    (flush : Bool) (n : Nat) : BlockRead :=
  let p0 := max en.kvStart (64 * n)
  let p1 := min kvEnd (64 * n + 64)
  let held := k.held n
  let ts := if held then (List.range (p1 - p0)).map fun i => p0 + i else []
  let rows := c.nh * en.nq
  -- a position that is not addressable is an access error before anything of its block is read (R187)
  let astray := ts.find? fun t => !k.addressable t
  let vw : State × Nat × Nat := if astray.isSome then (s, 2, 0) else if c.validEn ∧ held then
      let r := s.vRead a (k.vword c.layer c.head n) 8 0
      (r.1.markReads s .info, if r.2.err ≠ 0 then causeOf r.2.err else if r.2.poison then 5 else 0, natLE r.2.data)
    else (s, 0, 0)
  if vw.2.1 ≠ 0 then
    ⟨vw.1, vw.2.1, match astray with | some t => k.key c.layer c.head t | none => k.vword c.layer c.head n, [], []⟩
  else
    let vis := (List.range rows).map fun r => ts.filter fun t =>
      visible c en (nth 0 trees (r / c.nh)) (r / c.nh) t && (!c.validEn || vw.2.2 / 2 ^ (t % 64) % 2 == 1)
    let anyRow (t : Nat) : Bool := vis.any fun l => l.contains t
    ts.foldl (fun (b : BlockRead) t =>
      if b.cause ≠ 0 then b
      else
        let kind : LowerKind := if anyRow t then .access else .unseen
        let key0 := b.s.kvRead a (k.key c.layer c.head t) k.d
        let key := (key0.1.markReads b.s kind, key0.2)
        let val0 := key.1.kvRead a (k.value c.layer c.head t) k.d
        let val := (val0.1.markReads key.1 kind, val0.2)
        let real (x : Nat) : Nat := if x = 4 ∧ !anyRow t then 0 else x
        if real key.2.1 ≠ 0 then { b with s := key.1, cause := real key.2.1, va := k.key c.layer c.head t }
        else if real val.2.1 ≠ 0 then { b with s := val.1, cause := real val.2.1, va := k.value c.layer c.head t }
        else { b with s := val.1, pos := b.pos ++ [⟨t, fp8Vals c.kvFmt flush key.2.2, fp8Vals c.kvFmt flush val.2.2⟩] })
      ⟨vw.1, 0, 0, [], vis⟩

/-- The blocks that an entry processes: those that meet its range, but for those wholly outside the window and its sinks
(R161, R172). -/
def entryBlocks (c : AttnCtrl) (en : AttnEntry) (kvEnd : Nat) : List Nat :=
  if kvEnd ≤ en.kvStart then []
  else
    let b0 := en.kvStart / 64
    let all := (List.range ((kvEnd - 1) / 64 + 1 - b0)).map fun i => b0 + i
    match c.window with
    | none => all
    | some w => all.filter fun n =>
      let p0 := max en.kvStart (64 * n)
      let p1 := min kvEnd (64 * n + 64)
      decide (p0 < c.sink) || decide (en.qpos < p1 - 1 + w)

/-! ## An entry's rows (R153, R180) -/

/-- Everything an entry reads from the scratchpad before its blocks. -/
structure EntryCtx where
  c : AttnCtrl
  en : AttnEntry
  rows : Nat
  d : Nat
  q : List (List VF)
  rowPoison : List Bool
  trees : List Nat

def readRows (e : Nat) (g : Engine) (c : AttnCtrl) (en : AttnEntry) (flush poison : Bool) : EntryCtx :=
  let rows := c.nh * en.nq
  let d := 64 * (c.dch + 1)
  let tp (i : Nat) : Bool := c.treeEn && decide (1 ≤ i) && spadPoisoned g (en.treeAddr + 2 * (i - 1)) 2
  { c := c, en := en, rows := rows, d := d
    q := (List.range rows).map fun r => fp8Vals c.qFmt flush (spadRead e g (en.qAddr + r * d) d)
    rowPoison := (List.range rows).map fun r => poison || spadPoisoned g (en.qAddr + r * d) d || tp (r / c.nh)
    trees := (List.range en.nq).map fun i => if i = 0 then 0 else spadNum e g (en.treeAddr + 2 * (i - 1)) 2 }

/-- Scratchpad reads of an entry beside its destinations: Q, tree words, bias. -/
def entryReads (c : AttnCtrl) (en : AttnEntry) : List (Nat × Nat) :=
  let rows := c.nh * en.nq
  [(en.qAddr, rows * 64 * (c.dch + 1))] ++ (if c.treeEn ∧ 1 < en.nq then [(en.treeAddr, 2 * (en.nq - 1))] else []) ++
  (match c.bias with | 1 => [(c.biasAddr, 768 * c.nh)] | 2 => [(c.biasAddr, 4 * c.nh)] | _ => [])

/-- Destinations of an entry. -/
def entryWrites (bwd : Bool) (o : AttnOp) (c : AttnCtrl) (en : AttnEntry) : List (Nat × Nat) :=
  let rows := c.nh * en.nq
  let d := 64 * (c.dch + 1)
  if bwd then [(en.outAddr, 4 * rows * d)]
  else if o.part then [(en.outAddr, partialSize rows d)]
  else [(en.outAddr, rows * d * outSize c.outFmt)] ++ (if o.stats then [(en.statAddr, 8 * rows)] else [])

/-- The entries' destinations of a whole task, as far as its tables lie within the scratchpad (R181, Table 4-11). -/
def attnRanges (bwd : Bool) (e : Nat) (g : Engine) (d : Desc) : List (Nat × Nat) :=
  let o := d.attn
  if spadSize < o.ctrl + 64 then []
  else
    let c := readCtrl e g o.ctrl
    (List.range o.n).flatMap fun i =>
      let a := o.ltab + entrySize bwd * i
      if spadSize < a + entrySize bwd then [] else entryWrites bwd o c (readEntry bwd e g a)

/-! ## Writing results (R164, R168, R180) -/

/-- Rows of FP32 outputs converted to OUT_FMT, each row with its poison. -/
def emitRows (g : Engine) (a out : Nat) (flush : Bool) (rows : List (List Nat × Bool)) : Engine × Flags :=
  let els := rows.flatMap fun r => r.1.map fun x =>
    let o := fconv .fp32 (outFloat out) false flush x
    (o, r.2)
  (spadStream g a (outSize out) (els.map fun x => (x.1.n, x.2)), els.foldl (fun f x => f ||| x.1.f) 0)

def emitStats (g : Engine) (a : Nat) (rows : List (Nat × Nat × Bool)) : Engine :=
  spadStream g a 4 (rows.flatMap fun r => [(r.1, r.2.2), (r.2.1, r.2.2)])

/-- A partial record (Table 8-7). -/
def emitPartial (g : Engine) (a : Nat) (head : List Byte) (rows : List (Nat × Nat × List Nat × Bool)) (poison : Bool) :
    Engine :=
  let n := rows.length
  let pad := List.replicate (partialHead n - 16 - 8 * n) 0
  let g := spadStream g a 1 (head.map fun b => (b.toNat, poison))
  let g := spadStream g (a + 16) 4 (rows.flatMap fun r => [(r.1, r.2.2.2), (r.2.1, r.2.2.2)])
  let g := spadStream g (a + 16 + 8 * n) 1 (pad.map fun x => (x, poison))
  spadStream g (a + partialHead n) 4 (rows.flatMap fun r => r.2.2.1.map fun x => (x, r.2.2.2))

/-- The header of a partial record. -/
def partialHeader (rows dch req tokens : Nat) : List Byte :=
  [BitVec.ofNat 8 rows, BitVec.ofNat 8 dch, 0, 0] ++ bytesLE 4 req ++ bytesLE 4 tokens ++ bytesLE 4 0

/-! ## Attention mass (R174, R175) -/

/-- The mass of block number b of an entry. -/
def blockMass (flush : Bool) (rows : List RowAcc) (b : Nat) : NF :=
  let live := rows.filter fun r => !r.bad && (Val.fin false 0 0).lt (decodeFloat .fp32 r.l)
  if live = [] then ⟨0, 0⟩
  else
    let t := live.foldl (fun (acc : NF) r =>
      let x := nth (0xFF800000, 0) r.recs b
      let d := fsub .fp32 flush x.1 r.m
      let c := exp2Ulp flush d.n
      let w := fmul .fp32 flush c.n x.2
      let q := fdiv flush w.n r.l
      let z := fadd .fp32 flush acc.n q.n
      ⟨z.n, acc.f ||| d.f ||| c.f ||| w.f ||| q.f ||| z.f⟩) ⟨0, 0⟩
    let m := fdiv flush t.n (natFp32 live.length)
    ⟨m.n, t.f ||| m.f⟩

/-- The masses of the blocks of an entry, each into its unit's score, the unit tested after its highest block (R198), with the
flags of forming them. -/
def massOwed (flush : Bool) (i : Nat) (k : KvDesc) (c : AttnCtrl) (kvEnd : Nat) (blocks : List Nat) (rows : List RowAcc) :
    List Owed × Flags :=
  let ms := blocks.zipIdx.map fun x =>
    let m := blockMass flush rows x.2
    let last := match blocks[x.2 + 1]? with
      | some n' => n' / 2 ^ k.sg != x.1 / 2 ^ k.sg
      | none => true
    (Owed.mass i k c.layer c.head x.1 m.n kvEnd last, m.f)
  (ms.map (·.1), ms.foldl (fun f x => f ||| x.2) 0)

/-- A near-memory FP32 addition of a vector at a virtual address, line by line. -/
def State.gradAdd (s : State) (a : Acc) (va : Nat) (xs : List Nat) (poison : Bool) : State × Nat :=
  let b := xs.flatMap (bytesLE 4)
  let r := (lineParts (b.length / 128 + 2) va b.length).foldl (fun (acc : State × Nat × Nat) p =>
    if acc.2.1 ≠ 0 then acc
    else
      let w := acc.1.vNma a p.1 0 (elems 4 (slice b acc.2.2 p.2)) 0 poison
      (w.1, w.2.err, acc.2.2 + p.2)) (s, 0, 0)
  (r.1, r.2.1)

/-- What an entry adds to memory; the REASON where a gradient is refused. -/
def State.pay (s : State) (a : Acc) (e : Nat) (flush : Bool) : Owed → State × Nat
  | .mass _ k layer head n mass kvEnd test => (s.scoreUpdate a e flush k layer head n mass kvEnd test, 0)
  | .grad _ va xs poison _ _ => s.gradAdd a va xs poison

/-- A gradient vector of entry i: added at once, or, while reads of the entry since s0 are outstanding, found writable and owed with the
entry's request and destinations (R179). -/
def State.gradPut (s s0 : State) (a : Acc) (i va : Nat) (xs : List Nat) (poison : Bool) (req : Nat) (ranges : List (Nat × Nat)) :
    State × Nat × List Owed :=
  if s.mem.lower.length = s0.mem.lower.length then let w := s.gradAdd a va xs poison; (w.1, w.2, [])
  else
    let r := (lineParts (4 * xs.length / 128 + 2) va (4 * xs.length)).foldl (fun (acc : State × Nat) p =>
      if acc.2 ≠ 0 then acc else acc.1.vStore { a with spaces := [0] } p.1 true) (s, 0)
    (r.1, r.2, [.grad i va xs poison req ranges])

/-! ## Entry faults (R179, Tables 8-13 and 8-16) -/

/-- An entry ends: its destinations poisoned, the record, AT_FAULT. -/
def State.entryFault (s : State) (e i cause req tag va : Nat) (ranges : List (Nat × Nat)) : State :=
  let s := s.modEngine e fun g => ranges.foldl (fun g r => spadMark g r.1 r.2) g
  ((s.w64 (Reg.engAtFlog e) (BitVec.ofNat 64 (i + 2 ^ 12 * cause + 2 ^ 16 * req + 2 ^ 48 * tag))).w64
    (Reg.engAtFlogVa e) (BitVec.ofNat 64 (va % 2 ^ 48))).raise (enPage e) 18 5 e

/-! ## ATTN_FWD (R161 to R168, R174) -/

/-- Whether an entry stops the task, ended by a fault, or completed, whether it met poison, and what it still owes. -/
inductive EntryEnd where
  | stop | fault (owed : List Owed) | done (poison : Bool) (owed : List Owed)
deriving DecidableEq, Repr

/-- The descriptor checks that both passes make (R154, R184, R187, R197): CAUSE, descriptor. -/
def State.entryDesc (s : State) (a : Acc) (c : AttnCtrl) (en : AttnEntry) : State × Nat × KvDesc :=
  let r0 := s.kvDesc a en.cdesc
  let r := (r0.1.markReads s .info, r0.2)
  let k := r.2.2
  if r.2.1 = 6 then (r.1, 2, k)
  else if r.2.1 ≠ 0 then r
  else if k.nlayers ≤ c.layer ∨ k.nkvh ≤ c.head ∨ k.dch ≠ c.dch ∨ k.kvFmt ≠ c.kvFmt ∨ (c.validEn ∧ !k.bitmaps) then
    (r.1, 2, k)
  else r

/-- The rows after the blocks of a list: state, CAUSE and address where a block faults, rows. -/
def fwdBlocks (s : State) (a : Acc) (e : Nat) (k : KvDesc) (x : EntryCtx) (kvEnd : Nat) (flush bf : Bool)
    (blocks : List Nat) : State × Nat × Nat × List RowAcc :=
  let g := s.engine e
  blocks.foldl (fun (acc : State × Nat × Nat × List RowAcc) n =>
    if acc.2.1 ≠ 0 then acc
    else
      let b := readBlock acc.1 a k x.c x.en x.trees kvEnd flush n
      if b.cause ≠ 0 then (b.s, b.cause, b.va, acc.2.2.2)
      else
        let rows := acc.2.2.2.zipIdx.map fun r =>
          let h := r.2 % x.c.nh
          let qp := x.en.qpos + r.2 / x.c.nh
          let ts := nth [] b.vis r.2
          let items := (b.pos.filter fun p => ts.contains p.t).map fun p =>
            let bi := biasOf e g x.c flush h qp p.t
            let sc := scoreOf flush (nth [] x.q r.2) p.k x.c.scoreScale bi.w
            ((⟨p.t % 64, sc.n, p.v⟩ : Seen), bi.f ||| sc.f, bi.p)
          -- the bias entries that a row uses poison it also once it is bad (R180)
          let r' : RowAcc := { r.1 with
            f := items.foldl (fun f y => f ||| y.2.1) r.1.f
            poison := r.1.poison || items.any fun y => y.2.2 }
          RowAcc.block r' flush bf x.d (items.map (·.1))
        (b.s, 0, 0, rows)) (s, 0, 0, (List.range x.rows).map fun r => RowAcc.start x.d (nth false x.rowPoison r))

/-- One entry of ATTN_FWD. -/
def fwdEntry (s0 : State) (e q : Nat) (d : Desc) (c : AttnCtrl) (en : AttnEntry) (i : Nat) (poison : Bool) :
    State × EntryEnd :=
  let o := d.attn
  let g := s0.engine e
  let flush := s0.flushOn e
  let a := unitAcc s0 e q 1 d.tag [0, 1]
  let ranges := entryWrites false o c en
  if en.bad ∨ 32 < c.nh * en.nq ∨ anyBeyond (ranges ++ entryReads c en) then (s0, .stop)
  else
    let x := readRows e g c en flush poison
    let kd := s0.entryDesc a c en
    if kd.2.1 ≠ 0 then (kd.1.entryFault e i kd.2.1 en.req d.tag en.cdesc ranges, .fault [])
    else
      let k := kd.2.2
      let kvEnd := if en.lenPtr then k.len else en.kvEnd
      let blocks := entryBlocks c en kvEnd
      let span := if kvEnd ≤ en.kvStart then 0 else (kvEnd - 1) / 64 + 1 - en.kvStart / 64
      let massOn := o.mass && decide (c.massAddr + 8 * x.rows * span ≤ spadSize)
      let s := kd.1.raiseIf (o.mass && !massOn) (enPage e) 19 10 e
      let r := fwdBlocks s a e k x kvEnd flush o.pbf16 blocks
      -- flags raised before a fault stay raised (R101)
      if r.2.1 ≠ 0 then
        ((r.1.numFlags e (r.2.2.2.foldl (fun f y => f ||| y.f) 0)).entryFault e i r.2.1 en.req d.tag r.2.2.1 ranges, .fault [])
      else
        let rows := r.2.2.2
        let fin := rows.map fun row => (row, row.finish flush (if o.part then none else some c.outScale))
        let fl := fin.foldl (fun f y => f ||| y.2.2.2.2) 0
        let s := r.1
        let s := if massOn then s.modEngine e fun g => blocks.zipIdx.foldl (fun g b =>
            spadStream g (c.massAddr + 8 * x.rows * (b.1 - en.kvStart / 64)) 4
              (rows.flatMap fun row => let y := nth (0, 0) row.recs b.2; [(y.1, row.poison), (y.2, row.poison)])) g
          else s
        let gf : Engine × Flags :=
          if o.part then
            (emitPartial (s.engine e) en.outAddr
              (partialHeader x.rows c.dch en.req (min (kvEnd - en.kvStart) (2 ^ 24 - 1)))
              (fin.map fun y => (y.2.1, y.2.2.1, y.2.2.2.1, y.1.poison)) poison, 0)
          else
            let w := emitRows (s.engine e) en.outAddr c.outFmt flush (fin.map fun y => (y.2.2.2.1, y.1.poison))
            (if o.stats then emitStats w.1 en.statAddr (fin.map fun y => (y.2.1, y.2.2.1, y.1.poison)) else w.1, w.2)
        let m := if massOn then massOwed flush i k c kvEnd blocks rows else ([], 0)
        let t := ((s.setEngine e gf.1).numFlags e (fl ||| gf.2 ||| m.2)).adopt s0 (e, q, s0.r32 (Reg.engQHead e q)) i en.req
          (spadDests ranges)
        -- while reads of the entry are outstanding, its mass is owed (R179)
        let wait := decide (s0.mem.lower.length < t.mem.lower.length)
        (if wait then t else t.each m.1 fun s o => (s.pay a e flush o).1,
          .done (poison || rows.any (·.poison)) (if wait then m.1 else []))

/-! ## ATTN_BWD (R176 to R178) -/

/-- A position's part in the backward pass of a row: E4M3 weight and E5M2 ds, with flags. -/
structure BwdItem where
  p : VF
  ds : VF
  f : Flags

/-- R177 for one visible position of one row. -/
def bwdItem (flush : Bool) (sc m l scale delta : Nat) (dO v : List VF) : BwdItem :=
  let x := fsub .fp32 flush sc m
  let ex := exp2Ulp flush x.n
  let pt := fdiv flush ex.n l
  let dp := (dotFp8 flush dO v).toFp32 flush
  let y := fsub .fp32 flush dp.n delta
  let z := fmul .fp32 flush pt.n y.n
  let sv := readFloat .fp32 flush scale
  let gm := sv.v.mul (.fin false fxLn2 (-192))
  let g := roundFloat .fp32 false flush gm.v
  let w := fmul .fp32 flush z.n g.n
  let p8 := fconv .fp32 .e4m3 false flush pt.n
  let d8 := fconv .fp32 .e5m2 false flush w.n
  { p := readFloat .e4m3 flush p8.n, ds := readFloat .e5m2 flush d8.n
    f := x.f ||| ex.f ||| pt.f ||| dp.f ||| y.f ||| z.f ||| sv.f ||| gm.f ||| g.f ||| w.f ||| p8.f ||| d8.f }

/-- What a row brings to the backward pass: q, dO, m, l, δ, poison. -/
structure BwdRow where
  q : List VF
  dO : List VF
  m : Nat
  l : Nat
  delta : Nat
  poison : Bool

def bwdRows (e : Nat) (g : Engine) (x : EntryCtx) (flush : Bool) : List BwdRow :=
  (List.range x.rows).map fun r =>
    { q := nth [] x.q r, dO := fp8Vals x.c.doFmt flush (spadRead e g (x.en.doAddr + r * x.d) x.d)
      m := spadNum e g (x.en.statAddr + 8 * r) 4, l := spadNum e g (x.en.statAddr + 8 * r + 4) 4
      delta := spadNum e g (x.en.deltaAddr + 4 * r) 4
      poison := nth false x.rowPoison r || spadPoisoned g (x.en.doAddr + r * x.d) x.d
        || spadPoisoned g (x.en.statAddr + 8 * r) 8 || spadPoisoned g (x.en.deltaAddr + 4 * r) 4 }

/-- The backward pass so far: state, CAUSE and address of a fault, dQ's totals, flags, poison of each row, and what is owed. -/
structure BwdAcc where
  s : State
  cause : Nat
  va : Nat
  dq : List (List Nat)
  f : Flags
  poisons : List Bool
  owed : List Owed

/-- The gradients of a block so far. -/
structure GradAcc where
  s : State
  err : Nat
  va : Nat
  f : Flags
  owed : List Owed

/-- The backward pass over one block of entry i, which s0 began: gradients of each position added, dQ's totals carried on. -/
def bwdBlock (s0 : State) (ranges : List (Nat × Nat)) (e i : Nat) (g : Engine) (a : Acc) (x : EntryCtx) (flush : Bool) (rows : List BwdRow) (acc : BwdAcc)
    (b : BlockRead) : BwdAcc :=
  let zero : VF := ⟨.fin false 0 0, 0⟩
  -- items of every row: none where the position is not visible or the row's saved l is 0
  let items : List (List (Option BwdItem × Bool)) := rows.zipIdx.map fun r =>
    let ts := nth [] b.vis r.2
    b.pos.map fun p =>
      if !ts.contains p.t ∨ (readFloat .fp32 flush r.1.l).v.isZero then (none, false)
      else
        let bi := biasOf e g x.c flush (r.2 % x.c.nh) (x.en.qpos + r.2 / x.c.nh) p.t
        let sc := scoreOf flush r.1.q p.k x.c.scoreScale bi.w
        let it := bwdItem flush sc.n r.1.m r.1.l x.c.scoreScale r.1.delta r.1.dO p.v
        (some { it with f := it.f ||| bi.f ||| sc.f }, bi.p)
  let poisons := (List.zip (List.zip rows acc.poisons) items).map fun r => r.1.2 || r.2.any (·.2)
  let fl := items.foldl (fun f r => r.foldl (fun f y => match y.1 with | some i => f ||| i.f | none => f) f)
    (rows.foldl (fun f r => f ||| (readFloat .fp32 flush r.l).f) acc.f)
  -- dV and dK of each position that some row sees
  let grads := b.pos.zipIdx.foldl (fun (st : GradAcc) p =>
    let mine := (List.zip rows items).map fun r => (r.1, (nth (none, false) r.2 p.2).1)
    if st.err ≠ 0 ∨ mine.all fun y => y.2.isNone then st
    else
      let sum (f : BwdRow → BwdItem → Nat → VF) (j : Nat) : NF :=
        (pairSum (VF.addIn .fp32 flush) (mine.map fun y => match y.2 with
          | some it => f y.1 it j
          | none => zero)).toFp32 flush
      let dk := (List.range x.d).map (sum fun r it j => VF.times it.ds (r.q.getD j zero))
      let dv := (List.range x.d).map (sum fun r it j => VF.times it.p (r.dO.getD j zero))
      let bad := (List.zip mine poisons).any fun y => y.1.2.isSome && y.2
      let va := x.en.gkv + (p.1.t - x.en.kvStart) * (8 * x.d)
      let w := st.s.gradPut s0 a i va (dk.map (·.n)) bad x.en.req ranges
      let w' := if w.2.1 ≠ 0 then (w.1, w.2.1, []) else w.1.gradPut s0 a i (va + 4 * x.d) (dv.map (·.n)) bad x.en.req ranges
      { s := w'.1, err := w'.2.1, va := va, f := st.f ||| flagsOf dk ||| flagsOf dv, owed := st.owed ++ w.2.2 ++ w'.2.2 })
    { s := b.s, err := 0, va := 0, f := fl, owed := acc.owed }
  let dq := (List.zip acc.dq items).map fun r => r.1.zipIdx.map fun y =>
    let prods := (List.range 64).map fun i =>
      match (List.zip b.pos r.2).find? fun z => z.1.t % 64 == i with
      | some (p, (some it, _)) => VF.times it.ds (p.k.getD y.2 zero)
      | _ => zero
    let c := (pairSum (VF.addIn .spine false) prods).toFp32 flush
    let z := fadd .fp32 flush y.1 c.n
    (⟨z.n, c.f ||| z.f⟩ : NF)
  { s := grads.s, cause := if grads.err = 0 then 0 else causeOf grads.err, va := grads.va, dq := dq.map fun r => r.map (·.n)
    f := dq.foldl (fun f r => f ||| flagsOf r) grads.f, poisons := poisons, owed := grads.owed }

/-- One entry of ATTN_BWD. -/
def bwdEntry (s : State) (e q : Nat) (d : Desc) (c : AttnCtrl) (en : AttnEntry) (i : Nat) (poison : Bool) :
    State × EntryEnd :=
  let o := d.attn
  let g := s.engine e
  let flush := s.flushOn e
  let a := unitAcc s e q 1 d.tag [0, 1]
  let n := c.nh * en.nq
  let dim := 64 * (c.dch + 1)
  let ranges := entryWrites true o c en
  let reads := entryReads c en ++ [(en.statAddr, 8 * n), (en.doAddr, n * dim), (en.deltaAddr, 4 * n)]
  if en.bad ∨ 32 < n ∨ anyBeyond (ranges ++ reads) then (s, .stop)
  else
    let x := readRows e g c en flush poison
    let kd := s.entryDesc a c en
    if kd.2.1 ≠ 0 then (kd.1.entryFault e i kd.2.1 en.req d.tag en.cdesc ranges, .fault [])
    else
      let k := kd.2.2
      let kvEnd := if en.lenPtr then k.len else en.kvEnd
      let rows := bwdRows e g x flush
      let r := (entryBlocks c en kvEnd).foldl (fun (acc : BwdAcc) n =>
        if acc.cause ≠ 0 then acc
        else
          let b := readBlock acc.s a k c en x.trees kvEnd flush n
          if b.cause ≠ 0 then { acc with s := b.s, cause := b.cause, va := b.va } else bwdBlock s ranges e i g a x flush rows acc b)
        { s := kd.1, cause := 0, va := 0, dq := rows.map fun _ => List.replicate dim 0, f := 0, poisons := rows.map (·.poison)
          owed := [] }
      if r.cause ≠ 0 then ((r.s.numFlags e r.f).entryFault e i r.cause en.req d.tag r.va ranges, .fault r.owed)
      else
        let dq := (List.zip r.dq r.poisons).flatMap fun row => row.1.map fun y => (y, row.2)
        let t := (r.s.modEngine e fun g => spadStream g en.outAddr 4 dq).numFlags e r.f
        (t.adopt s (e, q, s.r32 (Reg.engQHead e q)) i en.req (spadDests ranges), .done (poison || r.poisons.any id) r.owed)

/-! ## The tasks (R152, R153, R157, R179) -/

/-- ATTN_FWD and ATTN_BWD: entries in table order, until one stops the task. -/
def performAttn (bwd : Bool) (s : State) (e q : Nat) (d : Desc) : Done :=
  let o := d.attn
  let g := s.engine e
  let dests := spadDests (attnRanges bwd e g d)
  let c := readCtrl e g o.ctrl
  if spadSize < o.ctrl + 64 ∨ c.bad then ⟨s, stFault, dests, 0, [], []⟩
  else
    let cp := spadPoisoned g o.ctrl 64
    let r := (List.range o.n).foldl (fun (acc : State × Bool × Bool × List Owed) i =>
      if acc.2.1 then acc
      else
        let at_ := o.ltab + entrySize bwd * i
        if spadSize < at_ + entrySize bwd then (acc.1, true, acc.2.2)
        else
          let g := acc.1.engine e
          let en := readEntry bwd e g at_
          let poison := cp || spadPoisoned g at_ (entrySize bwd)
          let w := if bwd then bwdEntry acc.1 e q d c en i poison else fwdEntry acc.1 e q d c en i poison
          match w.2 with
          | .stop => (w.1, true, acc.2.2)
          | .fault owed => (w.1, false, true, acc.2.2.2 ++ owed)
          | .done p owed => (w.1, false, acc.2.2.1 || p, acc.2.2.2 ++ owed)) (s, false, false, [])
    { s := r.1, st := if r.2.1 then stFault else if r.2.2.1 then stPoisonIn else stOk, dests := dests, owed := r.2.2.2 }

/-- What entries of a task still owe is paid at its completion, in order; a gradient refused then ends its entry (R179). The answer
says whether one ended. -/
def State.payOwed (s : State) (e : Nat) (t : Task) : State × Bool :=
  let a := unitAcc s e t.queue 1 (Desc.tag t.desc) [0, 1]
  let r := t.owed.foldl (fun (acc : State × List Nat) w =>
    if w.entry ∈ acc.2 then acc
    else
      let r := acc.1.pay a e t.flush w
      match w with
      | .grad i va _ _ req ranges =>
        if r.2 = 0 then (r.1, acc.2) else (r.1.entryFault e i (causeOf r.2) req (Desc.tag t.desc) va ranges, i :: acc.2)
      | _ => (r.1, acc.2)) (s, [])
  (r.1, !r.2.isEmpty)

def attnDests (bwd : Bool) (s : State) (e _q : Nat) (d : Desc) : State × List Dest :=
  (s, spadDests (attnRanges bwd e (s.engine e) d))

/-! ## ATTN_MERGE (R169, R170) -/

/-- A row's accumulator in a merge: none while empty. -/
structure MergeAcc where
  acc : Option (Nat × Nat × List Nat)
  bad : Bool
  f : Flags
  poison : Bool
deriving DecidableEq, Repr

/-- An FP32 operand as read under FLUSH (R84): a subnormal is a zero of its sign, with FLUSHED. -/
def flushWord (flush : Bool) (x : Nat) : NF := if flush && isSubnormal .fp32 x then ⟨x / 2 ^ 31 % 2 * 2 ^ 31, Flags.flushed⟩ else ⟨x, 0⟩

/-- Fold a record's row into the accumulator (R169); its words are read under FLUSH. -/
def MergeAcc.fold (x : MergeAcc) (flush : Bool) (m0 l : Nat) (o0 : List Nat) : MergeAcc :=
  let nan (y : Nat) : Bool := (decodeFloat .fp32 y).isNan
  let lv := readFloat .fp32 flush l
  let mw := flushWord flush m0
  let ow := o0.map (flushWord flush)
  let m := mw.n
  let o := ow.map (·.n)
  if lv.v.isZero then { x with f := x.f ||| lv.f }
  else if x.bad ∨ nan m ∨ nan l ∨ o.any nan then { x with bad := true, f := x.f ||| Flags.invalid }
  else match x.acc with
    | none => { x with acc := some (m, l, o), f := x.f ||| mw.f ||| flagsOf ow }
    | some (am, al, ao) =>
      let mm := laneOf (valMax (decodeFloat .fp32 am) (decodeFloat .fp32 m))
      let d1 := fsub .fp32 flush am mm
      let d2 := fsub .fp32 flush m mm
      -- a factor of exactly 1 is applied without rounding
      let a : NF := if (readFloat .fp32 flush d1.n).v.isZero then ⟨0x3F800000, 0⟩ else exp2Ulp flush d1.n
      let b : NF := if (readFloat .fp32 flush d2.n).v.isZero then ⟨0x3F800000, 0⟩ else exp2Ulp flush d2.n
      let os := List.zipWith (fun (u v : Nat) =>
        let t := fmul .fp32 flush u a.n
        let w := ffma .fp32 flush v b.n t.n
        (⟨w.n, t.f ||| w.f⟩ : NF)) ao o
      let t := fmul .fp32 flush al a.n
      let w := ffma .fp32 flush l b.n t.n
      { x with acc := some (mm, w.n, os.map (·.n))
               f := x.f ||| mw.f ||| flagsOf ow ||| lv.f ||| d1.f ||| d2.f ||| a.f ||| b.f ||| t.f ||| w.f ||| flagsOf os }

/-- A merged row as a row to complete (R164). -/
def MergeAcc.row (x : MergeAcc) (d : Nat) : RowAcc :=
  let y := x.acc.getD (0xFF800000, 0, List.replicate d 0)
  { m := y.1, l := y.2.1, o := y.2.2, bad := x.bad, f := x.f, poison := x.poison, recs := [] }

/-- Row ρ of the partial record at an address. -/
def recordRow (e : Nat) (g : Engine) (a rows d r : Nat) : (Nat × Nat × List Nat) × Bool :=
  let sa := a + 16 + 8 * r
  let oa := a + partialHead rows + 4 * r * d
  ((spadNum e g sa 4, spadNum e g (sa + 4) 4, elems 4 (spadRead e g oa (4 * d))),
    spadPoisoned g a 16 || spadPoisoned g sa 8 || spadPoisoned g oa (4 * d))

def mergeRanges (m : MergeOp) (rows d : Nat) : List (Nat × Nat) :=
  if m.outPart then [(m.dst, partialSize rows d)]
  else [(m.dst, rows * d * outSize m.outFmt)] ++ (if m.statEn then [(m.statAddr, 8 * rows)] else [])

/-- Addresses of the N records of a merge; and of those whose header is not poisoned. -/
def mergeHeads (m : MergeOp) : List Nat := (List.range m.n).map fun k => m.src + k * m.stride
def soundHeads (g : Engine) (m : MergeOp) : List Nat := (mergeHeads m).filter fun a => !spadPoisoned g a 16

/-- Rows and head dimension of a record. -/
def recordShape (e : Nat) (g : Engine) (a : Nat) : Nat × Nat := (spadNum e g a 1, 64 * (spadNum e g (a + 1) 1 % 4 + 1))

/-- The shape of a merge: that of the first record whose header is not poisoned (R170, R180). -/
def mergeShape (e : Nat) (g : Engine) (m : MergeOp) : Nat × Nat := recordShape e g ((soundHeads g m).headD m.src)

def mergeDests (s : State) (e _q : Nat) (d : Desc) : State × List Dest :=
  let m := d.mergeOp
  let x := mergeShape e (s.engine e) m
  (s, if spadSize < m.src + 16 then [] else spadDests (mergeRanges m x.1 x.2))

/-- ATTN_MERGE. Where records differ in ROWS or DCH nothing is written, poison marks included (R170, log 42). A record whose
header is poisoned takes no part in that comparison and poisons every merged row (R180, R353); where every header is, and
record 0 shows no rows, there is no row to write. -/
def performMerge (s : State) (e q : Nat) (d : Desc) : Done :=
  let m := d.mergeOp
  let g := s.engine e
  let flush := s.flushOn e
  let heads := mergeHeads m
  let sound := soundHeads g m
  let sh := mergeShape e g m
  let dests := (mergeDests s e q d).2
  if anyBeyond (heads.map fun a => (a, 16)) then ⟨s, stFault, dests, 0, [], []⟩
  else if sound.any (fun a => recordShape e g a != sh) then ⟨s, stFault, [], 0, [], []⟩
  else if sound = [] ∧ sh.1 = 0 then ⟨s, stPoisonIn, [], 0, [], []⟩
  else if sh.1 = 0 ∨ 32 < sh.1 ∨ anyBeyond (sound.map (fun a => (a, partialSize sh.1 sh.2)) ++ mergeRanges m sh.1 sh.2) then
    ⟨s, stFault, dests, 0, [], []⟩
  else
    let tainted := decide (sound.length < heads.length)
    let rows := (List.range sh.1).map fun r =>
      (sound.foldl (fun (x : MergeAcc) a =>
        let y := recordRow e g a sh.1 sh.2 r
        MergeAcc.fold { x with poison := x.poison || y.2 } flush y.1.1 y.1.2.1 y.1.2.2) ⟨none, false, 0, tainted⟩).row sh.2
    let fin := rows.map fun row => (row, row.finish flush (if m.outPart then none else some m.outScale))
    let fl := fin.foldl (fun f y => f ||| y.2.2.2.2) 0
    let gf : Engine × Flags :=
      if m.outPart then
        let tokens := (heads.map fun a => spadNum e g (a + 8) 3).sum
        let head := (spadRead e g m.src 8) ++ bytesLE 3 (min tokens (2 ^ 24 - 1)) ++ spadRead e g (m.src + 11) 5
        (emitPartial g m.dst head (fin.map fun y => (y.2.1, y.2.2.1, y.2.2.2.1, y.1.poison)) (spadPoisoned g m.src 16), 0)
      else
        let w := emitRows g m.dst m.outFmt flush (fin.map fun y => (y.2.2.2.1, y.1.poison))
        (if m.statEn then emitStats w.1 m.statAddr (fin.map fun y => (y.2.1, y.2.2.1, y.1.poison)) else w.1, w.2)
    ⟨(s.setEngine e gf.1).numFlags e (fl ||| gf.2), if rows.any (·.poison) then stPoisonIn else stOk, dests, 0, [], []⟩

/-- ENG_AT_STAT (Table 8-15); which of its entries a running task is at is a matter of time, and free (log 40). -/
def State.atStat (s : State) (e : Nat) : Word :=
  let live := (s.engine e).tasks.filter fun t => !t.done && Desc.unit t.desc == 1
  match live with
  | [] => 0
  | t :: rest =>
    let merging := Desc.opcode t.desc == 2
    BitVec.ofNat 32 (1 + (if rest = [] then 0 else 2) + (if merging then 4 else 256 * (s.free % max 1 (Desc.attn t.desc).n)))

end Sys2Proof.Machine
end

