-- ==== Sys2Proof/Machine/Codeword.lean ====
section
/-! DEFINITION. The native line code (R279, R280): the codeword's data bits and header, the scrambler, the RS(544,514) code of
IEEE 802.3 Clause 91 and the order of symbols on the lanes. Field, generator and symbol order are those of that standard (PRESUMED,
log 137). -/
namespace Sys2Proof.Machine

/-! ## The code -/

/-- Multiply by α in GF(2^10), the field of x^10 + x^3 + 1. -/
def rsTimes2 (a : Nat) : Nat := if a < 512 then 2 * a else Nat.xor (2 * a) 0x409

/-- Field product by the low n bits of b. -/
def rsMulBits (n a b : Nat) : Nat :=
  match n with
  | 0 => 0
  | n + 1 => Nat.xor (if b % 2 = 1 then a else 0) (rsMulBits n (rsTimes2 a) (b / 2))

def rsMul (a b : Nat) : Nat := rsMulBits 10 a b

/-- α^0 to α^(n-1), from a. -/
def rsPowers (n a : Nat) : List Nat :=
  match n with
  | 0 => []
  | n + 1 => a :: rsPowers n (rsTimes2 a)

/-- The generator, the product of x - α^i for i below 30: its 30 coefficients below the leading one, highest first. -/
def rsGen : List Nat :=
  ((rsPowers 30 1).foldl (fun g a => List.zipWith Nat.xor (g ++ [0]) (0 :: g.map (rsMul a))) [1]).drop 1

/-- The 30 check symbols of data symbols, in the order in which they are sent. -/
def rsCheck (data : List Nat) : List Nat :=
  let g := rsGen
  data.foldl (fun r d =>
    let f := Nat.xor d (r.headD 0)
    if f = 0 then r.drop 1 ++ [0] else List.zipWith Nat.xor (r.drop 1 ++ [0]) (g.map (rsMul f))) (List.replicate 30 0)

/-! ## The scrambler -/

/-- n bits of x, lowest first, scrambled by x^58 + x^39 + 1 from a state; and the state after them. -/
def scramble (n x st : Nat) : Nat × Nat :=
  match n with
  | 0 => (0, st)
  | n + 1 =>
    let b := (x + st / 2 ^ 38 + st / 2 ^ 57) % 2
    let r := scramble n (x / 2) ((2 * st + b) % 2 ^ 58)
    (b + 2 * r.1, r.2)

def descramble (n x st : Nat) : Nat × Nat :=
  match n with
  | 0 => (0, st)
  | n + 1 =>
    let b := (x + st / 2 ^ 38 + st / 2 ^ 57) % 2
    let r := descramble n (x / 2) ((2 * st + x % 2) % 2 ^ 58)
    (b + 2 * r.1, r.2)

/-! ## Codewords -/

/-- The 544 symbols of a codeword of a KIND and 640 bytes of content, and the scrambler after it. -/
def encodeWord (kind : Nat) (content : List Byte) (st : Nat) : List Nat × Nat :=
  let x := scramble 5120 (natLE (slice content 0 640)) st
  let bits := kind % 4 + x.1 * 2 ^ 20
  let data := (List.range 514).map fun j => bits / 2 ^ (10 * j) % 1024
  (data ++ rsCheck data, x.2)

/-- The symbols on each of w lanes: symbol i goes on lane i mod w. -/
def laneSymbols (w : Nat) (l : List Nat) : List (List Nat) :=
  (List.range w).map fun k => (List.range ((543 - k) / w + 1)).map fun i => nth 0 l (k + w * i)

/-- The 544 symbols that stand on the lanes. -/
def gatherSymbols (lanes : List (List Nat)) : List Nat :=
  (List.range 544).map fun i => nth 0 (nth [] lanes (i % lanes.length)) (i / lanes.length)

/-- The symbols corrected by a decoder's corrections, each a symbol's number and what is added to it. -/
def fixSymbols (l : List Nat) (fix : List (Nat × Nat)) : List Nat :=
  fix.foldl (fun l x => l.set x.1 (Nat.xor (nth 0 l x.1) (x.2 % 1024))) l

/-- Symbols of a codeword: their check symbols are those of their data. -/
def isWord (l : List Nat) : Bool := rsCheck (l.take 514) == l.drop 514

/-- KIND and content of a codeword's symbols, and the scrambler after it. -/
def decodeWord (l : List Nat) (st : Nat) : Nat × List Byte × Nat :=
  let bits := (l.take 514).foldr (fun d acc => d % 1024 + 1024 * acc) 0
  let x := descramble 5120 (bits / 2 ^ 20) st
  (bits % 4, bytesLE 640 x.1, x.2)

/-! ## Contents -/

def crc64Bits (n c : Nat) : Nat :=
  match n with
  | 0 => c
  | n + 1 => crc64Bits n (if 2 ^ 63 ≤ c then Nat.xor (c * 2 % 2 ^ 64) 0x42F0E1EBA9EA3693 else c * 2)

/-- CRC-64 of bytes (R281). -/
def crc64 (b : List Byte) : Nat :=
  Nat.xor (b.foldl (fun c x => crc64Bits 8 (Nat.xor c (x.toNat * 2 ^ 56))) (2 ^ 64 - 1)) (2 ^ 64 - 1)

/-- The first 624 bytes of a flit (Table 12-2). -/
def flitBytes (f : Flit) : List Byte :=
  bytesLE 4 (f.seq.toNat + f.ack.toNat * 2 ^ 12 + f.ackValid.toNat * 2 ^ 24 + f.nak.toNat * 2 ^ 25 + f.null.toNat * 2 ^ 26
      + f.rsv.toNat % 2 ^ 5 * 2 ^ 27)
    ++ slice f.cr 0 8 ++ bytesLE 4 (f.rsv.toNat / 2 ^ 5) ++ slice f.slots 0 608

/-- A flit as it travels. -/
def flitWire (f : Flit) : List Byte := flitBytes f ++ bytesLE 8 f.crc.toNat ++ List.replicate 8 0

/-- The flit that 640 bytes hold. -/
def flitOf (b : List Byte) : Flit :=
  let w := natLE (slice b 0 4)
  { seq := BitVec.ofNat 12 w, ack := BitVec.ofNat 12 (w / 2 ^ 12), ackValid := w / 2 ^ 24 % 2 == 1, nak := w / 2 ^ 25 % 2 == 1
    null := w / 2 ^ 26 % 2 == 1, cr := slice b 4 8, slots := slice b 16 608, crc := BitVec.ofNat 64 (natLE (slice b 624 8))
    rsv := BitVec.ofNat 37 (w / 2 ^ 27 + natLE (slice b 12 4) * 2 ^ 5) }

/-- A time codeword's content (Table 12-4); t2 and t3 of a RESP in ns and sixteenths. -/
def timeBytes (resp : Bool) (m : TimeMsg) : List Byte :=
  let head := bytesLE 1 resp.toNat ++ bytesLE 1 m.state.toNat ++ bytesLE 2 m.xseq.toNat ++ bytesLE 2 m.master.toNat
    ++ bytesLE 2 m.epoch.toNat ++ bytesLE 1 m.hops.toNat ++ List.replicate 7 0
  let t (x : Nat) : List Byte := bytesLE 8 (x / 16) ++ bytesLE 1 (x % 16) ++ List.replicate 7 0
  slice (head ++ if resp then t m.t2 ++ t m.t3 else []) 0 640

/-- The time message that 640 bytes hold, and whether it is a RESP. -/
def timeOf (b : List Byte) : Bool × TimeMsg :=
  let n (o k : Nat) : Nat := natLE (slice b o k)
  (n 0 1 == 1, { state := BitVec.ofNat 8 (n 1 1), xseq := BitVec.ofNat 16 (n 2 2), master := BitVec.ofNat 10 (n 4 2)
                 epoch := BitVec.ofNat 16 (n 6 2), hops := BitVec.ofNat 8 (n 8 1), t2 := 16 * n 16 8 + n 24 1 % 16
                 t3 := 16 * n 32 8 + n 40 1 % 16 })

/-- KIND of a content. -/
def Content.kind (c : Content) : Nat :=
  match c with
  | .flit _ => 0
  | .align => 1
  | .training => 2
  | .time _ _ => 3

/-- Its 640 bytes; the lane markers of KIND 1 and the patterns of KIND 2 are not given (Config.pattern). -/
def Content.bytes (c : Content) : List Byte :=
  match c with
  | .flit f => flitWire f
  | .time r m => timeBytes r m
  | _ => (List.range 640).map (Config.pattern c.kind)

end Sys2Proof.Machine
end

