-- ==== Sys2Proof/Machine/Move.lean ====
section
/-! DEFINITION. The move unit (R254 to R257, R233, R268) and its late, failed and completed lower-tier accesses (R271). -/
namespace Sys2Proof.Machine

/-! ## Accesses of a move task -/

/-- The access of the move unit in the context of a queue. -/
def moveAcc (s : State) (e q : Nat) (d : Desc) : Acc := unitAcc s e q 3 d.tag [0, 1, 2]

/-- A virtual address has 48 bits (R244). -/
def va48 (va : Nat) : Nat := va % 2 ^ 48

/-- A read of the task at a virtual address that was sampled late or failed (R271). -/
def State.lateRead (s : State) (t : Nat × Nat × Word) (va : Nat) : Bool :=
  s.mem.lower.any fun l => l.len == 0 && l.task == some t && l.va == va

/-- What a read that a task has made gives now: a line sampled late or failed reads poisoned, and one of the host window is waited for. -/
def State.taped (s : State) (x : Taped) : Rd :=
  let r : Rd := match x.host with
    | none => ⟨x.data, x.poison, 0⟩
    | some o => match s.gotAt o x.len with
      | some g => g.read
      | none => ⟨x.data, true, 0⟩
  { r with poison := r.poison || s.lateRead x.task x.va }

/-- Read n bytes of one line for a task, which makes each of its reads once: the access to a lower tier stays outstanding until the task
completes, or the completion of its DMA read arrives. -/
def State.moveRead (s : State) (a : Acc) (t : Nat × Nat × Word) (va n hint : Nat) : State × Rd :=
  let va := va48 va
  match s.mem.tape.find? fun x => x.task == t && x.va == va && x.len == n with
  | some x => (s, s.taped x)
  | none =>
    let x := s.translate a.who a.ctx va
    let p := x.1.reach a x.2.2 va
    let keep (u : State) (r : Rd) (host : Option Nat) : State × Rd :=
      ((u.adopt s t 0 0 []).modMem fun m => { m with tape := m.tape ++ [⟨t, va, n, host, r.data, r.poison⟩] }, r)
    if x.2.1 = 0 ∧ x.2.2.brine = false ∧ p.1 = 0 ∧ p.2.1 = 2 ∧ (x.1.hostAddr p.2.2 false).isSome then
      let r := x.1.hostRead p.2.2 a.src n
      keep ((r.1.markIssued s fun l => { l with va := va }).countBytes a.src a.ctx 2 n) r.2 (some p.2.2)
    else
      let r := s.vRead a va n hint
      if r.2.err = waitReason then (r.1.adopt s t 0 0 [], r.2)
      else if r.2.err ≠ 0 then r
      else keep r.1 r.2 none

/-- Write bytes of one line for a task; the write to a lower tier stays outstanding until the task completes. One that GP0
reports failed is sampled at the next boundary, which records its REASON 15 (R271). -/
def State.moveWrite (s : State) (a : Acc) (t : Nat × Nat × Word) (va hint : Nat) (b : List Byte) (poison : Bool) :
    State × Nat :=
  let va := va48 va
  let p := s.vPlace a va true
  if p.2.1 ≠ 0 then (p.1, p.2.1)
  else if p.2.2.1 = 2 ∧ (p.1.hostAddr p.2.2.2 true).isSome ∧ p.1.hostFails poison then
    ((p.1.issue { p.1.lowerOf 2 p.2.2.2 b.length a.src true with failed := true, va := va }).adopt s t 0 0 [], 0)
  else
    let w := p.1.vWrite a va hint b poison
    if w.2 ≠ 0 then w else (w.1.adopt s t 0 0 [], 0)

/-- The line parts of a range of virtual addresses. -/
def vaParts (va n : Nat) : List (Nat × Nat) := lineParts (n / 128 + 2) va n

/-- REASON of several accesses: the first that is a fault, else whether one waits. -/
def firstReason (a b : Nat) : Nat := if a = 0 ∨ (a = waitReason ∧ b ≠ 0) then b else a

/-- Read a range for a task, line by line, up to the first fault: each line's part with its poison, and the REASON. A part that is waited
for keeps no other from being read. -/
def State.moveSpan (s : State) (a : Acc) (t : Nat × Nat × Word) (va n hint : Nat) : State × Nat × List (List Byte × Bool) :=
  (vaParts va n).foldl (fun (acc : State × Nat × List (List Byte × Bool)) p =>
    if acc.2.1 ≠ 0 ∧ acc.2.1 ≠ waitReason then acc
    else
      let r := acc.1.moveRead a t p.1 p.2 hint
      (r.1, firstReason acc.2.1 r.2.err, acc.2.2 ++ [(r.2.data, r.2.poison)])) (s, 0, [])

/-- Write a range for a task, line by line, up to the first error. -/
def State.moveStore (s : State) (a : Acc) (t : Nat × Nat × Word) (va hint : Nat) (b : List Byte) (poison : Bool) :
    State × Nat :=
  let r := (vaParts va b.length).foldl (fun (acc : State × Nat × Nat) p =>
    if acc.2.1 ≠ 0 then acc
    else
      let w := acc.1.moveWrite a t p.1 hint (slice b acc.2.2 p.2) poison
      (w.1, w.2, acc.2.2 + p.2)) (s, 0, 0)
  (r.1, r.2.1)

/-- Where the lines of a range of virtual addresses lie: space, offset, length; a line that does not translate is none. -/
def State.rangePlaces (s : State) (a : Acc) (va n : Nat) : State × List (Nat × Nat × Nat) :=
  (vaParts va n).foldl (fun (acc : State × List (Nat × Nat × Nat)) p =>
    let r := acc.1.translate a.who a.ctx (va48 p.1)
    if r.2.1 ≠ 0 then (r.1, acc.2)
    else
      let x := r.1.reach a r.2.2 (va48 p.1)
      (r.1, if x.1 = 0 then acc.2 ++ [(x.2.1, x.2.2, p.2)] else acc.2)) (s, [])

/-- The lines of a range, as destinations. -/
def State.rangeDests (s : State) (a : Acc) (va n : Nat) : State × List Dest :=
  let x := s.rangePlaces a va n
  (x.1, x.2.map fun p => .line p.1 p.2.1)

/-- What a task that cannot read its source ends with: FAULT, or, while it waits for host memory, nothing yet. -/
def unread (s : State) (reason : Nat) (dests : List Dest) : Done := ⟨s, if reason = waitReason then stOk else stFault, dests, 0, [], []⟩

/-- The reads of a task are made in its name. -/
def moveAs (e q : Nat) (index : Word) (f : State → Done) (s : State) : Done :=
  let d := f (s.modMem fun m => { m with reading := some (e, q, index) })
  { d with s := d.s.modMem fun m => { m with reading := none } }

/-- What a task ends with: FAULT, POISON_IN or OK. -/
def moveStatus (fault poison : Bool) : Nat := if fault then stFault else if poison then stPoisonIn else stOk

/-! ## LOAD, STORE, ACCUM (Table 11-7) -/

/-- Row r in memory and in the scratchpad. -/
def RowsOp.rowVa (o : RowsOp) (r : Nat) : Nat := o.va + r * o.vstride
def RowsOp.rowSpad (o : RowsOp) (r : Nat) : Nat := o.spad + r * o.rowLen

/-- Every scratchpad row lies within the scratchpad (R256). -/
def RowsOp.fits (o : RowsOp) : Bool := decide (o.spad + o.rows * o.rowLen ≤ spadSize)

/-- The parts of all rows that lie in one line: virtual address, scratchpad address, length. -/
def RowsOp.parts (o : RowsOp) : List (Nat × Nat × Nat) :=
  (List.range o.rows).flatMap fun r =>
    (vaParts (o.rowVa r) o.rowLen).map fun p => (p.1, o.rowSpad r + (p.1 - o.rowVa r), p.2)

/-- The scratchpad rows, as destinations. -/
def loadDests (s : State) (_ _ : Nat) (d : Desc) : State × List Dest :=
  let o := d.rowsOp
  (s, spadDests ((List.range o.rows).map fun r => (o.rowSpad r, o.rowLen)))

/-- The memory rows, as destinations. -/
def storeDests (s : State) (e q : Nat) (d : Desc) : State × List Dest :=
  let o := d.rowsOp
  let a := moveAcc s e q d
  (List.range o.rows).foldl (fun (acc : State × List Dest) r =>
    let x := acc.1.rangeDests a (o.rowVa r) o.rowLen
    (x.1, acc.2 ++ x.2)) (s, [])

/-- LOAD: every row is read, then the rows are written. -/
def moveLoad (s : State) (e q : Nat) (index : Word) (d : Desc) : Done :=
  let o := d.rowsOp
  let dests := (loadDests s e q d).2
  if !o.fits then ⟨s, stFault, dests, 0, [], []⟩
  else
    let a := moveAcc s e q d
    let r := o.parts.foldl (fun (acc : State × Nat × List (Nat × List Byte × Bool)) p =>
      if acc.2.1 ≠ 0 ∧ acc.2.1 ≠ waitReason then acc
      else
        let x := acc.1.moveRead a (e, q, index) p.1 p.2.2 o.hint
        (x.1, firstReason acc.2.1 x.2.err, acc.2.2 ++ [(p.2.1, x.2.data, x.2.poison)])) (s, 0, [])
    if r.2.1 ≠ 0 then unread r.1 r.2.1 dests
    else
      let t := r.1.modEngine e fun g => r.2.2.foldl (fun g x => spadWrite g x.1 x.2.1 x.2.2) g
      ⟨t, moveStatus false (r.2.2.any (·.2.2)), dests, 0, [], []⟩

def performLoad (s : State) (e q : Nat) (d : Desc) : Done :=
  let i := s.r32 (Reg.engQHead e q)
  moveAs e q i (moveLoad · e q i d) s

def performStore (s : State) (e q : Nat) (d : Desc) : Done :=
  let o := d.rowsOp
  let x := storeDests s e q d
  if !o.fits then ⟨x.1, stFault, x.2, 0, [], []⟩
  else
    let a := moveAcc s e q d
    let t := (e, q, s.r32 (Reg.engQHead e q))
    let r := o.parts.foldl (fun (acc : State × Bool × Bool) p =>
      if acc.2.1 then acc
      else
        let g := acc.1.engine e
        let poison := spadPoisoned g p.2.1 p.2.2
        let w := acc.1.moveWrite a t p.1 o.hint (spadRead e g p.2.1 p.2.2) poison
        (w.1, w.2 != 0, acc.2.2 || poison)) (x.1, false, false)
    ⟨r.1, moveStatus r.2.1 r.2.2, x.2, 0, [], []⟩

def performAccum (s : State) (e q : Nat) (d : Desc) : Done :=
  let o := d.rowsOp
  let x := storeDests s e q d
  if !o.fits then ⟨x.1, stFault, x.2, 0, [], []⟩
  else
    let a := moveAcc s e q d
    let r := o.parts.foldl (fun (acc : State × Bool × Bool) p =>
      if acc.2.1 then acc
      else
        let g := acc.1.engine e
        let poison := spadPoisoned g p.2.1 p.2.2
        let w := acc.1.vNma a (va48 p.1) o.nmaOp (elems (nmaWidth o.nmaOp) (spadRead e g p.2.1 p.2.2)) 0 poison
        (w.1, w.2.err != 0, acc.2.2 || poison)) (x.1, false, false)
    ⟨r.1, moveStatus r.2.1 r.2.2, x.2, 0, [], []⟩

/-! ## COPY (Table 11-8, R233, R255) -/

/-- Length of a COPY in bytes. -/
def CopyOp.bytes (o : CopyOp) : Nat := 32 * o.len

/-- The offset of the copy of a blanket write at core c. -/
def blanketOff (off c : Nat) : Nat := off - off / 2 ^ 30 % 8 * 2 ^ 30 + c * 2 ^ 30

/-- Cores of a mask. -/
def maskCores (mask : Nat) : List Nat := (List.range 8).filter fun c => (BitVec.ofNat 8 mask).getLsbD c

/-- A blanket write of bytes within one line: the cores that failed, all of the mask where the target is not in a
SPREAD_CORE or LOCAL pan (R233). -/
def State.blanketWrite (s : State) (off src hint mask : Nat) (b : List Byte) (poison : Bool) : State × Nat :=
  let j := off / 2 ^ 33
  let mode := s.panMode (off / 2 ^ 30 % 8) j
  if 96 ≤ j ∨ 1 < mode then (s.panMix off, mask)
  else
    (maskCores mask).foldl (fun (acc : State × Nat) c =>
      if acc.1.panMode c j ≠ mode then (acc.1, acc.2 + 2 ^ c)
      else
        let w := acc.1.stackWrite (blanketOff off c) src hint b poison
        (w.1, if w.2 = 0 then acc.2 else acc.2 + 2 ^ c)) (s, 0)

/-- The lines that a COPY writes. -/
def copyDests (s : State) (e q : Nat) (d : Desc) : State × List Dest :=
  let o := d.copyOp
  let x := s.rangeDests (moveAcc s e q d) o.dst o.bytes
  if !o.blanket then x
  else (x.1, x.2.flatMap fun y => match y with
    | .line 0 off => (maskCores o.mask).map fun c => .line 0 (blanketOff off c)
    | _ => [])

/-- Source and destination of a task share a byte. -/
def State.overlapping (s : State) (a : Acc) (src dst n m : Nat) : State × Bool :=
  let x := s.rangePlaces a src n
  let y := x.1.rangePlaces a dst m
  (y.1, x.2.any fun p => y.2.any fun q => p.1 == q.1 && decide (p.2.1 < q.2.1 + q.2.2) && decide (q.2.1 < p.2.1 + p.2.2))

/-- Source and destination of a blanket COPY share a byte, at any core of its mask (R255). -/
def State.blanketOverlap (s : State) (a : Acc) (o : CopyOp) : State × Bool :=
  let x := s.rangePlaces a o.src o.bytes
  let y := x.1.rangePlaces a o.dst o.bytes
  let dst := y.2.flatMap fun q => if q.1 = 0 then (maskCores o.mask).map fun c => (0, blanketOff q.2.1 c, q.2.2) else []
  (y.1, x.2.any fun p => dst.any fun q => p.1 == q.1 && decide (p.2.1 < q.2.1 + q.2.2) && decide (q.2.1 < p.2.1 + p.2.2))

/-- A blanket COPY writes its parts at every core of the mask (R233, R255). -/
def copyBlanket (s : State) (e : Nat) (d : Desc) (a : Acc) (data : List (Nat × List Byte × Bool)) (dests : List Dest) : Done :=
  let o := d.copyOp
  let a0 := { a with spaces := [0] }
  let r := data.foldl (fun (acc : State × Bool × Nat) p =>
    if acc.2.1 then acc
    else (vaParts p.1 p.2.1.length).foldl (fun (acc : State × Bool × Nat) k =>
      if acc.2.1 then acc
      else
        let x := acc.1.vPlace a0 (va48 k.1) true
        if x.2.1 ≠ 0 then (x.1, true, acc.2.2)
        else
          let w := x.1.blanketWrite x.2.2.2 a.src o.hint o.mask (slice p.2.1 (k.1 - p.1) k.2) p.2.2
          (w.1, false, Nat.lor acc.2.2 w.2)) acc) (s, false, 0)
  if r.2.1 then ⟨r.1, stFault, dests, 0, [], []⟩
  else
    let s := r.1.wf (Reg.engMvStat e) 8 8 r.2.2
    if r.2.2 ≠ 0 then ⟨s.xlFault a true 10 (va48 o.dst), stFault, dests, 0, [], []⟩
    else ⟨s, moveStatus false (data.any (·.2.2)), dests, 0, [], []⟩

/-- COPY: whole source, then destination; where they overlap, the destination is left undefined (R255). -/
def moveCopy (s : State) (e q : Nat) (index : Word) (d : Desc) : Done :=
  let o := d.copyOp
  let a := moveAcc s e q d
  let t := (e, q, index)
  let x := copyDests s e q d
  let r := x.1.moveSpan a t o.src o.bytes 0
  if r.2.1 ≠ 0 then unread r.1 r.2.1 x.2
  else
    let data := (List.zip (vaParts o.src o.bytes) r.2.2).map fun y => (o.dst + (y.1.1 - o.src), y.2.1, y.2.2)
    if o.blanket then
      let v := r.1.blanketOverlap a o
      let u := if v.2 then (data.foldl (fun (acc : State × List (Nat × List Byte × Bool)) p =>
          (acc.1.drawnN (p.2.1.length + 1), acc.2 ++ [(p.1, acc.1.freeBytes p.2.1.length,
            Config.free (acc.1.fresh + p.2.1.length) % 2 == 1)])) (v.1, []))
        else (v.1, data)
      copyBlanket u.1 e d a u.2 x.2
    else
      let v := r.1.overlapping a o.src o.dst o.bytes o.bytes
      let w := data.foldl (fun (acc : State × Bool) p =>
        if acc.2 then acc
        else
          let b := if v.2 then acc.1.freeBytes p.2.1.length else p.2.1
          let poison := if v.2 then (Config.free (acc.1.fresh + p.2.1.length) % 2 == 1) else p.2.2
          let s := if v.2 then acc.1.drawnN (p.2.1.length + 1) else acc.1
          let w := s.moveStore a t p.1 o.hint b poison
          (w.1, w.2 != 0)) (v.1, false)
      ⟨w.1, moveStatus w.2 (data.any (·.2.2)), x.2, 0, [], []⟩

def performCopy (s : State) (e q : Nat) (d : Desc) : Done :=
  let i := s.r32 (Reg.engQHead e q)
  moveAs e q i (moveCopy · e q i d) s

/-! ## PACK and UNPACK (R264 to R268) -/

/-- DATA_OFF of an object of n blocks. -/
def packDataOff (n : Nat) : Nat := (64 + 8 * n + 127) / 128 * 128

/-- Bytes that software reserves for an object of n blocks (R268). -/
def packRoom (n : Nat) : Nat := 64 + 8 * n + 4224 * n

/-- Index and data area of compressed blocks, granules in ascending order. -/
def packIndex (blocks : List (Nat × Nat × List Byte)) : List Byte × List Byte :=
  let r := blocks.foldl (fun (acc : List Byte × List Byte × Nat) b =>
    let g := b.2.2.length / 128
    (acc.1 ++ bytesLE 8 (b.1 + 8 * b.2.1 + 32 * g + (if g = 0 then 0 else 2 ^ 12 * acc.2.2)), acc.2.1 ++ b.2.2, acc.2.2 + g))
    ([], [], 0)
  (r.1, r.2.1)

/-- A destination that a PACK writes: the whole room of its object. -/
def packDests (s : State) (e q : Nat) (d : Desc) : State × List Dest :=
  let o := d.copyOp
  s.rangeDests (moveAcc s e q d) o.dst (packRoom o.len)

def moveBrinePack (s : State) (e q : Nat) (index : Word) (d : Desc) : Done :=
  let o := d.copyOp
  let a := moveAcc s e q d
  let t := (e, q, index)
  let x := packDests s e q d
  let r := (List.range o.len).foldl (fun (acc : State × Nat × List (Nat × Nat × List Byte)) i =>
    if acc.2.1 ≠ 0 ∧ acc.2.1 ≠ waitReason then acc
    else
      let y := acc.1.moveSpan a t (o.src + 4096 * i) 4096 0
      let why := firstReason acc.2.1 y.2.1
      (y.1, why, if why ≠ 0 then [] else acc.2.2 ++ [brineCompress (y.2.2.flatMap (·.1)) (y.2.2.any (·.2))])) (x.1, 0, [])
  if r.2.1 ≠ 0 then unread r.1 r.2.1 x.2
  else
    let v := r.1.overlapping a o.src o.dst (4096 * o.len) (packRoom o.len)
    let ix := packIndex r.2.2
    let off := packDataOff o.len
    let h : BrineHdr := ⟨o.len, 4096 * o.len, off, off + ix.2.length, crc32c ix.1⟩
    let put (acc : State × Nat) (at_ : Nat) (b : List Byte) : State × Nat :=
      if acc.2 ≠ 0 then acc
      else if v.2 then (acc.1.drawnN b.length).moveStore a t at_ o.hint (acc.1.freeBytes b.length) false
      else acc.1.moveStore a t at_ o.hint b false
    let w := put (put (put (v.1, 0) (o.dst + off) ix.2) (o.dst + 64) ix.1) o.dst (brineHeaderBytes h)
    ⟨w.1, moveStatus (w.2 != 0) (r.2.2.any fun b => b.1 == 3), x.2, BitVec.ofNat 32 (ix.2.length / 128), [], []⟩

def performBrinePack (s : State) (e q : Nat) (d : Desc) : Done :=
  let i := s.r32 (Reg.engQHead e q)
  moveAs e q i (moveBrinePack · e q i d) s

/-- The header and the index of the object at SRC_VA: REASON, header, index bytes (R268). -/
def unpackHead (s : State) (a : Acc) (t : Nat × Nat × Word) (va : Nat) : State × Nat × BrineHdr × List Byte :=
  let none_ : BrineHdr := ⟨0, 0, 0, 0, 0⟩
  let r := s.moveSpan a t va 64 0
  if r.2.1 ≠ 0 then (r.1, r.2.1, none_, [])
  else match (if r.2.2.any (·.2) then none else brineHeader (r.2.2.flatMap (·.1))) with
    | none => (r.1.xlFault a false 12 (va48 va), 12, none_, [])
    | some h =>
      let x := r.1.moveSpan a t (va + 64) (8 * h.blocks) 0
      if x.2.1 ≠ 0 then (x.1, x.2.1, none_, [])
      else
        let ix := x.2.2.flatMap (·.1)
        if x.2.2.any (·.2) ∨ crc32c ix ≠ h.indexCrc then (x.1.xlFault a false 12 (va48 va), 12, none_, [])
        else (x.1, 0, h, ix)

/-- One block of an object at SRC_VA: REASON, the 32 lines with their poison (R265, R266). -/
def unpackBlock (s : State) (a : Acc) (t : Nat × Nat × Word) (va : Nat) (h : BrineHdr) (entry : Nat) :
    State × Nat × List (List Byte × Bool) :=
  let bad := List.replicate 32 (List.replicate 128 (0 : Byte), true)
  let f := brineEntry entry
  let (method, stride, granules, goff) := f
  if !brineSound h.dataOff h.total f then (s.brineErr, 0, bad)
  else if method = 3 then (s, 0, bad)
  else
    let r := s.moveSpan a t (va + h.dataOff + 128 * goff) (128 * granules) 0
    if r.2.1 ≠ 0 then (r.1, r.2.1, [])
    else if method = 0 then (r.1, 0, r.2.2)
    else if r.2.2.any (·.2) then (r.1, 0, bad)
    else match brineBlock method stride granules (r.2.2.flatMap (·.1)) with
      | some raw => (r.1, 0, (List.range 32).map fun i => (slice raw (128 * i) 128, false))
      | none => (r.1.brineErr, 0, bad)

def moveBrineUnpack (s : State) (e q : Nat) (index : Word) (d : Desc) : Done :=
  let o := d.copyOp
  let a := moveAcc s e q d
  let t := (e, q, index)
  let hd := unpackHead s a t o.src
  if hd.2.1 ≠ 0 then unread hd.1 hd.2.1 []
  else
    let h := hd.2.2.1
    let x := hd.1.rangeDests a o.dst h.raw
    let v := x.1.overlapping a o.src o.dst h.total h.raw
    let r := (List.range h.blocks).foldl (fun (acc : State × Nat × List (List Byte × Bool)) i =>
      if acc.2.1 ≠ 0 ∧ acc.2.1 ≠ waitReason then acc
      else
        let b := unpackBlock acc.1 a t o.src h (natLE (slice hd.2.2.2 (8 * i) 8))
        (b.1, firstReason acc.2.1 b.2.1, acc.2.2 ++ b.2.2)) (v.1, 0, [])
    if r.2.1 ≠ 0 then unread r.1 r.2.1 x.2
    else
      let w := r.2.2.zipIdx.foldl (fun (w : State × Nat) l =>
        if w.2 ≠ 0 then w
        else if v.2 then (w.1.drawnN 128).moveStore a t (o.dst + 128 * l.2) o.hint (w.1.freeBytes 128) l.1.2
        else w.1.moveStore a t (o.dst + 128 * l.2) o.hint l.1.1 l.1.2) (r.1, 0)
      ⟨w.1, moveStatus (w.2 != 0) (r.2.2.any (·.2)), x.2, 0, [], []⟩

def performBrineUnpack (s : State) (e q : Nat) (d : Desc) : Done :=
  let i := s.r32 (Reg.engQHead e q)
  moveAs e q i (moveBrineUnpack · e q i d) s

/-- The lines that an UNPACK would write, where it is not performed: as many as the object's header gives, none where that cannot
be read. What reading it would have recorded is not recorded. -/
def unpackDests (s : State) (e q : Nat) (d : Desc) : State × List Dest :=
  let o := d.copyOp
  let a := moveAcc s e q d
  let hd := unpackHead s a (e, q, s.r32 (Reg.engQHead e q)) o.src
  (s, if hd.2.1 ≠ 0 then [] else (hd.1.rangeDests a o.dst hd.2.2.1.raw).2)

/-! ## Late, failed and arriving accesses (R271, R263) -/

/-- The task behind an outstanding access, while it is in flight. -/
def State.taskOf (s : State) (t : Nat × Nat × Word) : Option Task :=
  (s.qTasks t.1 t.2.1).find? fun x => x.index == t.2.2 && !x.done

/-- Replace a task in flight. -/
def State.putTask (s : State) (e : Nat) (t : Task) : State :=
  s.modEngine e fun g => { g with
    tasks := g.tasks.map fun x => if x.queue == t.queue && x.index == t.index then t else x }

/-- What a move task that reads memory does, by its operation. -/
def moveAgain (s : State) (e : Nat) (t : Task) : Option Done :=
  let go (f : State → Nat → Nat → Word → Desc → Done) : Option Done := some (moveAs e t.queue t.index (f · e t.queue t.index t.desc) s)
  match Desc.operation t.desc with
  | some .load => go moveLoad
  | some .copy => go moveCopy
  | some .brinePack => go moveBrinePack
  | some .brineUnpack => go moveBrineUnpack
  | _ => none

/-- A move task goes on, now that a line of its source has arrived, or has been found late or failed: its reads stand as they were made
(R250, R255). One that waited makes the reads that depended on what has arrived and, when it has them all, writes. One that had written
writes again what now differs; its outstanding accesses stay, and its registers and events but where it now faults. -/
def State.redoMove (s : State) (t : Task) (e : Nat) (waited : Bool) : State :=
  let key := (e, t.queue, t.index)
  if stErr t.status then s
  else match moveAgain s e t with
  | none => s
  | some d =>
    let keep : State := { d.s with mem := { d.s.mem with lower := s.mem.lower, nextTag := s.mem.nextTag } }
    let u := if waited then d.s.adoptTask s key t.desc
      else if d.st = stFault then keep else { keep with regs := s.regs, evq := s.evq, logq := s.logq }
    u.putTask e { t with status := d.st, dests := d.dests, cword := d.cword }

/-- A read of a task does not complete: it gives a poisoned line. -/
def State.gotLost (s : State) (l : Lower) : State :=
  if l.space = 2 ∧ !l.write then s.modMem fun m => { m with
    got := m.got.map fun g => if g.tag == l.tag then { g with data := some (List.replicate g.len 0), poison := true } else g }
  else s

/-- What an attention entry's read that does not complete makes of it: CAUSE 1 for a walk and 3 where it is late or failed; where a forced
disable poisoned it, CAUSE 5 for a descriptor, length pointer or valid word, 4 for a line that some row sees, and nothing for one that no
row does (R179, R180, R272). -/
def entryCause (kind : LowerKind) (late : Bool) : Nat :=
  if kind = .walk then 1 else if late then 3 else if kind = .info then 5 else if kind = .unseen then 0 else 4

/-- What an access that does not complete makes of its task (R271, R272): a write ends a move task FAULT with REASON 15, or 14 at a forced
disable, and TILE_SAVE; a read poisons its line, so TILE_LOAD finds no intact image; a walker's read is REASON 6 (R247); an append row
reports cause 2 (its descriptor unread, cause 5: log 44; a walk, cause 1); an attention entry ends, its mass and gradients not added
(R179); and a fetch stops its queue. -/
def State.failTask (s : State) (i : Nat) (l : Lower) (t : Nat × Nat × Word) (late : Bool) : State :=
  let werr := if late then 15 else 14
  let drop := s.modMem fun m => { m with lower := m.lower.eraseIdx i }
  if l.kind = .fetch then drop.fetchLate t.1 t.2.1 t.2.2
  else match s.taskOf t with
  | none => drop
  | some k =>
    let e := t.1
    let gone := drop.modMem fun m => { m with
      lower := m.lower.filter fun x => Desc.claims k.desc || x.task != some t || x.tag != l.tag }
    let a := unitAcc gone e t.2.1 (Desc.unit k.desc) (Desc.tag k.desc) []
    let fault := { k with status := stFault }
    let soft := { k with status := if k.status = stOk then stPoisonIn else k.status,
                         owed := k.owed.filter fun o => o.entry != l.tag }
    let walk := l.kind == .walk
    -- a failed walk or write is recorded for its unit (R247)
    let noted (s : State) : State :=
      if walk then s.xlFault a (Desc.operation k.desc == some .tileSave) 6 l.va
      else if l.write then s.xlFault a true werr l.va else s
    match Desc.unit k.desc with
    | 0 =>
      if !Desc.claims k.desc then
        ((noted gone).kvFault e l.tag (Desc.tileOp k.desc).part (if walk then 1 else if l.write then 2 else 5) l.req (Desc.tag k.desc)
          l.va).putTask e soft
      else if walk || l.write then (noted gone).putTask e fault
      else (gone.modEngine e Engine.zeroSlots).putTask e fault
    | 1 =>
      let cause := entryCause l.kind late
      if cause = 0 then drop
      else ((((noted gone).each l.dests fun s d => s.poisonDest e d).entryFault e l.tag cause l.req (Desc.tag k.desc) l.va
        []).putTask e soft)
    | _ =>
      if walk || l.write then (noted gone).putTask e fault
      else ((s.modMem fun m => { m with lower := m.lower.set i { l with len := 0 } }).gotLost l).redoMove k e (s.mem.awaits t)

/-- BRD_LATE_BOARD and BRD_LATE_HOST (R271). -/
def State.lateLimit (s : State) (space : Nat) : Nat :=
  if space = 1 then s.rf Reg.brdLateBoard 0 16 else s.rf Reg.brdLateHost 0 16

/-- The boundary at which an outstanding access is late: k + 1 + L (R271). -/
def State.lateAt (s : State) (l : Lower) : Nat := l.tick + 1 + s.lateLimit l.space

/-- An access of the list is outstanding: not a read already answered poisoned, nor the fetch of a descriptor that has
started since. -/
def State.lowerOpen (s : State) (l : Lower) : Bool :=
  l.len != 0 && (match l.task with
    | some t => l.kind != .fetch || (s.fetchPlace t.1 t.2.1 t.2.2).isSome
    | none => true)

/-- Outstanding access number i does not complete: its task, or the requester of an access of the host window row, which is
answered poisoned. -/
def State.lowerEnd (s : State) (i : Nat) (l : Lower) (late : Bool) : State :=
  match l.task with
  | some t => s.failTask i l t late
  | none =>
    let s := s.modMem fun m => { m with lower := m.lower.eraseIdx i }
    if l.kind = .row then s.emit (.line l.src true true (List.replicate l.len 0)) else s

/-- Outstanding access number i is sampled late or failed: recorded, counted, reported (R271). -/
def State.lowerSample (s : State) (i : Nat) (failed : Bool) : State :=
  match s.mem.lower[i]? with
  | none => s
  | some l =>
    if !s.lowerOpen l then s else (s.lowerFail l.space l.off l.src l.write failed).lowerEnd i l true

/-- Outstanding access number i is reported failed, which the first boundary after the report samples; or it has not completed
and is late, which boundary k + 1 + L samples (R271). -/
def State.lowerLate (s : State) (i : Nat) (failed : Bool) : State :=
  match s.mem.lower[i]? with
  | none => s
  | some l =>
    let mark (x : Lower) : State := s.modMem fun m => { m with lower := m.lower.set i x }
    if !s.lowerOpen l then s
    else if failed then mark { l with failed := true }
    else if s.tick < s.lateAt l then mark { l with late := true }
    else s.lowerSample i false

/-- The boundary samples an access that was reported failed, or that is late: reported so, or a host read whose data have not arrived. -/
def State.lowerDue (s : State) (l : Lower) : Bool :=
  s.lowerOpen l && (l.failed || ((l.late || (l.space == 2 && !l.write)) && decide (s.lateAt l ≤ s.tick)))

/-- Accesses that the boundary samples, oldest first. -/
def State.sampleDue (s : State) (fuel : Nat) : State :=
  match fuel with
  | 0 => s
  | fuel + 1 =>
    match s.mem.lower.findIdx? s.lowerDue with
    | none => s
    | some i => State.sampleDue (s.lowerSample i (((s.mem.lower[i]?).map (·.failed)).getD false)) fuel

/-- The late and failed accesses of a boundary (R271). An access of space 1, or a write to space 2, that no task waits for has
completed by the boundary at which it would be late, unless it was reported (DESIGN CHOICE, log 122). A board interface whose last access has completed
has drained (R234, R272). -/
def State.sampleLower (s : State) : State :=
  let s := s.sampleDue s.mem.lower.length
  let s := s.modMem fun m => { m with
    lower := m.lower.filter fun l => l.task != none || (l.space == 2 && !l.write) || decide (s.tick < s.lateAt l) }
  s.each ((List.range 16).filter fun n => s.draining (bmPage n) && !s.boardBusy n) fun s n => s.statOff (bmPage n) false

/-- A write that a forced disable drops: the line holds what it held before (R234, R272). -/
def State.boardUndo (s : State) (l : Lower) : State :=
  match l.undo with
  | some x => s.boardRestore l.off x
  | none => s

/-- The outstanding accesses of board interface n end: its task, or none. -/
def State.boardEnds (s : State) (n fuel : Nat) : State :=
  match fuel with
  | 0 => s
  | fuel + 1 =>
    match s.mem.lower.findIdx? fun l => s.lowerOpen l && l.space == 1 && boardIface l.off == n with
    | none => s
    | some i => match s.mem.lower[i]? with
      | none => s
      | some l => State.boardEnds (s.lowerEnd i l false) n fuel

/-- The forced disable of board interface n: reads still outstanding there return poisoned lines, writes are dropped, the newest first, and
end with REASON 14 (R234, R272). -/
def State.forceBoard (s : State) (n fuel : Nat) : State :=
  let l := s.mem.lower.filter fun l => l.space == 1 && l.write && boardIface l.off == n
  (s.each l.reverse State.boardUndo).boardEnds n fuel

/-- The data of a DMA read arrive: what the device last saw of host memory is brought up to date, and a task that waited
for them has them (R263). A failed completion fails the access (R271). -/
def State.hostArrive (s : State) (tag : Nat) (ok : Bool) (bytes : List Byte) : State :=
  match s.mem.lower.findIdx? fun l => l.space == 2 && !l.write && l.len != 0 && l.tag == tag with
  | none => s
  | some i =>
    if !ok then s.lowerLate i true
    else match s.mem.lower[i]? with
      | none => s
      | some l =>
        let b := slice bytes 0 l.len
        -- blocks decoded for a requester that did not wait are decoded again where they were not so (log 10)
        let stale := l.task.isNone && decide (cellRead s.mem.host l.off l.len ≠ some b)
        let u := s.modMem fun m => { m with
          lower := m.lower.eraseIdx i, host := cellWrite m.host l.off b
          got := m.got.map fun g => if g.tag == tag then { g with data := some b } else g
          brine := if stale then m.brine.filter fun x => decide (saSpace x.1 ≠ 2 ∨ l.off < saOff x.1) else m.brine }
        match l.task with
        | none => if l.kind = .row then u.emit (.line l.src true false b) else u
        | some t =>
          match u.taskOf t with
          | none => u
          | some k => if u.mem.lowerWait t.1 t.2.1 t.2.2 then u else u.redoMove k t.1 (s.mem.awaits t)

end Sys2Proof.Machine
end

