-- ==== Sys2Proof/Machine/Arbiter.lean ====
section
/-! DEFINITION. What ends a task: the order in which the tasks of a unit complete, the tile arbiter's release of the tasks that
waited at it, the counts of a QUANT task, and the forced disable of an engine (R73, R76, R100, R114, R116, R128, R150). -/
namespace Sys2Proof.Machine

/-! ## Tasks by their operation -/

/-- The destinations of a task that is not performed, by its operation (Table 4-11). What finding them would have recorded is
not recorded. -/
def State.opDests (s : State) (e q : Nat) (d : Desc) : List Dest :=
  match d.operation with
  | some .mmaFp8 | some .mmaCode | some .mmaInt8 | some .mmaBf16 => (mmaDests s e q d).2
  | some .tileZero => (tileZeroDests s e q d).2
  | some .tileOut => (tileOutDests s e q d).2
  | some .kvAppend => (appendDests s e q d).2
  | some .tileSave => (tileSaveDests s e q d).2
  | some .tileLoad => (tileLoadDests s e q d).2
  | some .attnFwd => (attnDests false s e q d).2
  | some .attnMerge => (mergeDests s e q d).2
  | some .attnBwd => (attnDests true s e q d).2
  | some .chain => (chainDests s e q d).2
  | some .pack => (vecDests packWrites s e q d).2
  | some .topk => (vecDests topkWrites s e q d).2
  | some .sample => (vecDests sampleWrites s e q d).2
  | some .permute | some .shuffle | some .unpack | some .rotary | some .random => (vecDests streamWrites s e q d).2
  | some .quant => (quantDests s e q d).2
  | some .load => (loadDests s e q d).2
  | some .store | some .accum => (storeDests s e q d).2
  | some .copy => (copyDests s e q d).2
  | some .brinePack => (packDests s e q d).2
  | some .brineUnpack => (unpackDests s e q d).2
  | some .nop | some .tick | some .event | none => []

/-- What a task that was held does: one that names accumulator slots, or that runs behind such a task in its unit. A CHAIN has read its
program at its start (R132). -/
def heldPerform (o : Op) (prog : Option (List Nat × Bool)) (s : State) (e q : Nat) (d : Desc) : Done :=
  match o with
  | .mmaFp8 | .mmaCode | .mmaInt8 | .mmaBf16 => performMma o s e q d
  | .tileZero => performTileZero s e q d
  | .tileOut => performTileOut s e q d
  | .kvAppend => performKvAppend s e q d
  | .tileSave => performTileSave s e q d
  | .tileLoad => performTileLoad s e q d
  | .chain => performChainOf (prog.getD (chainProg e (s.engine e) (32 * d.vec.param))) s e d
  | .permute => performVec streamWrites permuteReads runPermute s e q d
  | .shuffle => performVec streamWrites shuffleReads runShuffle s e q d
  | .pack => performVec packWrites packReads runPack s e q d
  | .unpack => performVec streamWrites unpackReads runUnpack s e q d
  | .rotary => performVec streamWrites rotaryReads runRotary s e q d
  | .topk => performVec topkWrites topkReads runTopk s e q d
  | .sample => performVec sampleWrites sampleReads runSample s e q d
  | .random => performVec streamWrites randomReads runRandom s e q d
  | .quant => performQuant s e q d
  | _ => { s := s, st := stOk, dests := [] }

/-! ## The tile arbiter (R116) -/

/-- An engine as a task found it at its start: HEAD at its index, FLUSH as it read it (R85). -/
def State.asStarted (s : State) (e : Nat) (t : Task) : State :=
  (s.w32 (Reg.engQHead e t.queue) t.index).wb (Reg.engNumCtrl e) 0 t.flush

/-- A task that was held acts. -/
def State.actNow (s : State) (e : Nat) (t : Task) : State :=
  match Desc.operation t.desc with
  | none => s
  | some o =>
    let r := heldPerform o t.prog (s.asStarted e t) e t.queue t.desc
    let u := ((r.s.adoptTask s (e, t.queue, t.index) t.desc).w32 (Reg.engQHead e t.queue) (s.r32 (Reg.engQHead e t.queue))).wb (Reg.engNumCtrl e) 0 (s.flushOn e)
    u.putTask e { t with status := r.st, dests := r.dests, cword := r.cword, held := false, counts := r.counts, owed := r.owed }

/-- The held tasks of an engine that no earlier task in flight keeps from their slots, nor an earlier held one from its unit, act, in start
order (R114, R116, R128). -/
def State.releaseTiles (s : State) (e : Nat) : State :=
  s.each ((s.engine e).tasks.filter (·.held)) fun s t =>
    let earlier := (s.engine e).tasks.takeWhile fun x => !(x.queue == t.queue && x.index == t.index)
    if earlier.any fun x => !x.done && (x.slots &&& t.slots != 0 || (x.held && sameStage x t)) then s else s.actNow e t

/-! ## Completion (R73, R114, R128, R150) -/

/-- The statistics record of a QUANT task receives its counts by near-memory additions; false where it cannot (R100). Bits
[63:48] of its address are not used: a virtual address has 48 bits (R244). -/
def State.quantAdd (s : State) (e : Nat) (t : Task) : State × Bool :=
  let va := va48 ((s.r64 (Reg.engVxQstatBase e)).toNat + 32 * (Desc.quantOp t.desc).statIdx)
  let a : Acc := { who := some e, src := e, ctx := s.qCtx e t.queue, spaces := [0], unit := 2, tag := Desc.tag t.desc }
  let r := t.counts.zipIdx.foldl (fun (acc : State × Nat) x =>
    if acc.2 ≠ 0 then acc
    else
      let w := acc.1.vNma a (va48 (va + 8 * x.2)) 4 [x.1] 0 false
      (w.1, w.2.err)) (s, 0)
  (r.1, r.2 == 0)

/-- An earlier task keeps a task from completing: it holds one of its slots, or the unit runs it first. -/
def State.behind (s : State) (e : Nat) (t : Task) : Bool :=
  ((s.engine e).tasks.takeWhile fun x => x != t).any fun x => !x.done && (x.slots &&& t.slots != 0 || sameStage x t)

/-- A started task completes: not before its boundary (TICK), nor before an earlier task of its slots or its unit, nor before the
host memory that it reads has come, nor while a boundary has still to sample a late or failed access of it. A task that fails inside its unit completes UNIT_ERR; a QUANT task adds its counts where it
completes OK or POISON_IN. Tasks that waited for its slots then act. -/
def State.taskComplete (s : State) (e q : Nat) (index : Word) (unitErr : Bool) : State :=
  match (s.qTasks e q).find? fun t => t.index == index && !t.done with
  | none => s
  | some t =>
    let wait := decide (Desc.operation t.desc = some .tick ∧ t.status = stOk ∧ s.tick < Desc.op t.desc 0 64)
    if s.behind e t ∨ wait ∨ s.mem.lowerWait e q index then s
    else
      let st := if unitErr ∧ !stErr t.status ∧ Desc.unit t.desc < 4 then stUnitErr else t.status
      -- an entry that a later one's FAULT leaves finished has still added what it owes (R175, R177)
      let p := if stErr st ∧ st ≠ stFault then (s, false) else s.payOwed e t
      let st := if p.2 ∧ st = stOk then stPoisonIn else st
      let r := if stErr st ∨ t.counts.isEmpty then (p.1, true) else p.1.quantAdd e t
      (r.1.completeTask e t (if r.2 then st else stFault)).releaseTiles e

/-- TICK tasks whose boundary has come (Table 4-8). -/
def State.ticksDue (s : State) : List Due :=
  s.engines.flatMap fun x => (x.2.tasks.filter fun t =>
    !t.done && decide (Desc.operation t.desc = some .tick) && decide (Desc.op t.desc 0 64 ≤ s.tick)).map fun t =>
      .tickTask x.1 t.queue t.index

/-! ## Forced disable (R76) -/

/-- The unstarted descriptors of a queue below TAIL complete CANCELLED, or DESC_ERR where invalid, in order; one that
cannot be fetched, or at which the queue has stopped, stops the flush (R76, R495). What a cancelled task would have written is
poisoned (Table 4-11). -/
def State.flushQueue (s : State) (e q fuel : Nat) : State :=
  match fuel with
  | 0 => s
  | fuel + 1 =>
    let i := s.r32 (Reg.engQHead e q)
    if i = s.r32 (Reg.engQTail e q) then s
    else
      let l := Sparse.get (fun _ => []) (s.engine e).fetched q
      let r : State × Option (Desc ⊕ Nat) := match l with
        | d :: _ => (s, some (.inl d))
        | [] => if s.rb (Reg.engQStat e q) 9 then (s, none) else let r := s.readDesc e q i; (r.1, some r.2)
      match r.2 with
      | none => r.1
      | some (.inr cause) => r.1.fetchStop e q cause
      | some (.inl d) =>
        let bad := d.invalid e (r.1.engine e)
        let dests := if bad then [] else r.1.opDests e q d
        let s := r.1.w32 (Reg.engQHead e q) (i + 1)
        let s := s.modEngine e fun g => { g with
          fetched := Sparse.set (fun _ => []) g.fetched q (Sparse.get (fun _ => []) g.fetched q).tail }
        State.flushQueue (s.completeAtOnce e q d (if bad then stDescErr else stCancelled) dests) e q fuel

/-- The forced disable of an engine at its boundary (R76). -/
def State.forceEngine (s : State) (e : Nat) : State :=
  let live := (s.engine e).tasks.filter fun t => !t.done
  let s := s.each live fun s t =>
    s.completeTask e (if t.held then { t with dests := s.opDests e t.queue t.desc } else t) stCancelled
  let s := if s.rb (blkCtrl (enPage e)) 8 then s.upTo 4 fun s q => s.flushQueue e q 65537 else s
  let s := ((s.wb (blkStat (enPage e)) 0 false).wb (blkStat (enPage e)) 1 false).wb (blkStat (enPage e)) 2 true
  (s.modEngine e fun g => { g with forcePend := false }).sample (enPage e) 14

end Sys2Proof.Machine
end

