-- ==== Sys2Proof/Machine/Path.lean ====
section
/-! DEFINITION. What happens on the memory path beside task accesses: accesses and near-memory operations that arrive,
locks, scrubbing, refresh, the cache's flushes and errors, the traffic generator, and the lower tiers (R220 to R236, R259
to R263). -/
namespace Sys2Proof.Machine

/-- A lock's 2,048 ns pass without its unlocking write (R229). -/
def State.lockTimeout (s : State) (ch : Nat) : State :=
  match s.mem.locks.find? fun l => keyChan l.key == ch with
  | none => s
  | some l => (s.lockExpire l).serve

/-! ## Scrub, refresh, temperature (R220, R222, R223) -/

/-- Lines of a channel. -/
def chanLines : Nat := 1572864

/-- The channel scrubs its next line: a correctable line is rewritten, unless the cache holds it dirty (R220). -/
def State.scrubNext (s : State) (ch : Nat) (up : Upset) : State :=
  let line := natAt s.mem.scrub ch
  let key := lineKey ch line
  if !s.rb (Reg.stkCtrl ch) 1 ∨ s.mem.locks.any (fun l => l.key == key) then s
  else
    let s := (s.upset key up).modMem fun m => { m with scrub := setNat m.scrub ch ((line + 1) % chanLines) }
    let r := s.chanRead key 0xFFFF
    match (s.cached key), cellRead s.mem.dram (128 * key) 128,
      decodeLine (s.rb (Reg.stkCtrl ch) 2) (flagAt s.mem.dramPoison key) (Sparse.get (fun _ => []) s.mem.dramErr key) with
    | some l, some _, .corrected _ => if l.dirty then r.1 else r.1.chanWrite key r.2.data false
    | none, some _, .corrected _ => r.1.chanWrite key r.2.data false
    | _, _, _ => r.1

/-- Bank and group of four rows that a channel refreshes next: 16 banks of 1,536 groups (R222). -/
def State.refreshNext (s : State) (ch : Nat) : State :=
  if s.pwr.powered ∧ s.pwr.resetN then
    s.modMem fun m => { m with refresh := setNat m.refresh ch ((natAt m.refresh ch + 1) % 24576) }
  else s

/-- A signed temperature of 10 bits in quarters of a degree. -/
def quarters (t : BitVec 10) : Int := t.toInt

/-- The refresh band after a reading: entered at its lower bound, left at 3 °C below it; a first reading enters the band
that it lies in (Table 10-5, R222). -/
def bandNext (first : Bool) (old : Nat) (t : Int) : Nat :=
  let up := if 380 ≤ t then 2 else if 340 ≤ t then 1 else 0
  if first then up
  else if old ≤ up then up
  else if old = 2 ∧ 368 < t then 2
  else if 328 < t then 1
  else up

/-- A die's reading: temperature, the band of its 32 channels, and TEMP_WARN (R222, R223). -/
def State.dieReading (s : State) (c d : Nat) (t : BitVec 10) : State :=
  let q := quarters t
  let old := s.r32 (Reg.coreStkTemp c d)
  let first := !old.getLsbD 15
  let s := s.w32 (Reg.coreStkTemp c d) (BitVec.ofNat 32 (t.toNat + 2 ^ 15))
  let s := s.upTo 32 fun s g =>
    let ch := 512 * c + 16 * g + d
    s.wf (Reg.stkStat ch) 1 2 (bandNext first (s.rf (Reg.stkStat ch) 1 2) q)
  let warn : Int := 4 * s.rf (Reg.coreStkTlim c) 0 8
  let was := flagAt s.mem.dieWarn (16 * c + d)
  if warn ≤ q ∧ !was then
    (s.modMem fun m => { m with dieWarn := setFlag m.dieWarn (16 * c + d) true }).raise (coPage c) 10 10 (281 + c)
  else if q ≤ warn - 12 ∧ was then s.modMem fun m => { m with dieWarn := setFlag m.dieWarn (16 * c + d) false }
  else s

/-! ## The core cache (R221, R227, R228) -/

/-- A write-back that leaves the line valid and clean. -/
def State.cleanLine (s : State) (key : Nat) : State :=
  match s.cached key with
  | some l =>
    if l.dirty ∧ s.chanOn (keyChan key) then
      (s.writeBack l).modMem fun m => { m with
        cache := m.cache.map fun x => if x.key == key then { x with dirty := false } else x
        wbOwed := m.wbOwed.filter fun k => k != key }
    else s
  | none => s

/-- WB_ALL: every line dirty now is written back; lines of a disabled channel are owed until it is enabled (R227). -/
def State.wbAll (s : State) (c : Nat) : State :=
  let dirty := (s.mem.cache.filter fun l => l.core == c && l.dirty).map (·.key)
  let s := s.each dirty fun s k => s.cleanLine k
  let owed := dirty.filter fun k => !s.chanOn (keyChan k)
  (s.modMem fun m => { m with wbOwed := m.wbOwed.filter (fun k => k ∉ owed) ++ owed, flushing := m.flushing ++ [c] }).wb
    (Reg.cchStat c) 0 true

/-- The write-backs owed by a channel, once it is enabled. -/
def State.wbOwedLines (s : State) (ch : Nat) : State :=
  s.each (s.mem.wbOwed.filter fun k => keyChan k == ch) fun s k =>
    (s.cleanLine k).modMem fun m => { m with wbOwed := m.wbOwed.filter fun x => x != k }

/-- The last write-back of a WB_ALL is done (R227). -/
def State.flushDone (s : State) (c : Nat) : State :=
  if c ∈ s.mem.flushing then
    let s := s.modMem fun m => { m with flushing := m.flushing.erase c }
    (s.wb (Reg.cchStat c) 0 (decide (c ∈ s.mem.flushing))).raise (ccPage c) 8 5 (289 + c)
  else s

/-- Every held entry of a core is written to the cache, in order of allocation (R228). -/
def State.wcFlush (s : State) (c : Nat) : State :=
  s.each (s.mem.wc.filter fun w => w.core == c) fun s w => s.wcWrite w

/-- Entries whose timeout has passed are written to the cache (R228). -/
def State.wcTimeout (s : State) (c : Nat) : State :=
  let limit := (s.r32 (Reg.cchWcTimeout c)).toNat
  if limit = 0 then s
  else s.each (s.mem.wc.filter fun w => w.core == c && decide (w.first + limit ≤ s.tick)) fun s w => s.wcWrite w

/-- An error of the memory path's SRAM (R221). -/
def State.sramError (s : State) (c : Nat) (w : SramWhere) : State :=
  let ue (s : State) : State := s.raise (ccPage c) 9 2 (289 + c)
  match w with
  | .single => s.count (Reg.cchSramCeCnt c) 1
  | .clean ch line =>
    match s.cached (lineKey ch.val line) with
    | some l => if l.core = c ∧ !l.dirty then s.dropLine l.key else s
    | none => s
  | .dirty ch line =>
    match s.cached (lineKey ch.val line) with
    | some l =>
      if l.core = c ∧ l.dirty then
        ue ((s.modMem fun m => { m with
          cache := m.cache.map fun x => if x.key == l.key then { x with poison := true } else x }).cleanLine l.key)
      else s
    | none => s
  | .wc i =>
    match (s.mem.wc.filter fun w => w.core == c)[i]? with
    | some x => ue ((s.wcWrite { x with poison := true }).cleanLine x.key)
    | none => s
  -- with WC_COMPAT 0 the buffer holds a partial write only on its way into the cache: the line it belongs to
  | .gather ch line =>
    let key := lineKey ch.val line
    if keyCore key = c ∧ !s.wcCompat c ∧ line < chanLines then
      ue ((s.cacheWrite key (289 + c) 0 0 (List.replicate 128 0) true).1.cleanLine key)
    else s

/-! ## The traffic generator and checker (R235, R236) -/

/-- Bits of a PRBS register of n stages with taps n and n - 1 - gap, the last stage out first, packed 16 to a beat with
the first at bit 15. -/
def prbsBits (fuel n tap st : Nat) : List Nat :=
  match fuel with
  | 0 => []
  | fuel + 1 =>
    let out := st / 2 ^ (n - 1) % 2
    let fb := Nat.xor out (st / 2 ^ (tap - 1) % 2)
    out :: prbsBits fuel n tap (st * 2 % 2 ^ n + fb)

def packBeats (fuel : Nat) (l : List Nat) : List Nat :=
  match fuel with
  | 0 => []
  | fuel + 1 => ((l.take 16).foldl (fun a b => 2 * a + b) 0) :: packBeats fuel (l.drop 16)

/-- The 64 beats of a line (Table 10-9). -/
def tgBeats (pattern line : Nat) (seed user : Dword) : List Nat :=
  let each (f : Nat → Nat) : List Nat := (List.range 64).map f
  match pattern with
  | 0 => each fun _ => 0
  | 1 => each fun _ => 0xFFFF
  | 2 => each fun b => if (line + b) % 2 = 0 then 0x5555 else 0xAAAA
  | 3 => each fun b => 2 ^ ((line + b) % 16)
  | 4 => each fun b => (64 * line + b) % 2 ^ 16
  | 5 =>
    let st := Nat.xor (seed.toNat % 2 ^ 15) (line % 2 ^ 15)
    packBeats 64 (prbsBits 1024 15 14 (if st = 0 then 1 else st))
  | 6 =>
    let st := Nat.xor (seed.toNat % 2 ^ 31) (line % 2 ^ 31)
    packBeats 64 (prbsBits 1024 31 28 (if st = 0 then 1 else st))
  | _ => each fun b => fld user (16 * (b % 4)) 16

/-- The line as bytes, inverted or not. -/
def tgLine (beats : List Nat) (inv : Bool) : List Byte :=
  beats.flatMap fun b => bytesLE 2 (if inv then 0xFFFF - b else b)

/-- The first symbol of 68 that differs from what was expected: its number and the difference. -/
def firstDiff (want got : List Nat) : Option (Nat × Nat) :=
  ((List.zipWith Nat.xor want got).zipIdx.find? fun x => x.1 != 0).map fun x => (x.2, x.1)

/-- The checker reads a line: none where it matches, else the first difference, or that the line was not readable. -/
def State.tgCheck (s : State) (key : Nat) (want : List Byte) (raw : Bool) : State × Bool × Option (Nat × Nat) :=
  let wantAll := dataSymbols want ++ checkSymbols want
  match cellRead s.mem.dram (128 * key) 128 with
  | none =>
    -- a line never written whole holds anything (R497)
    let d := s.freeBytes 136
    let s := s.drawnN 136
    let got := (List.range 68).map fun i => (nth 0 d (2 * i)).toNat + 256 * (nth 0 d (2 * i + 1)).toNat
    let diff := firstDiff wantAll got
    (s, diff.isSome, diff)
  | some d =>
    let errs := Sparse.get (fun _ => []) s.mem.dramErr key
    let poisoned := flagAt s.mem.dramPoison key
    let stored := applyErrs d errs
    let all := errs ++ if poisoned then poisonErrs else []
    let checks := (checkSymbols d).zipIdx.map fun c =>
      all.foldl (fun v e => if e.1 = 64 + c.2 then Nat.xor v e.2.toNat else v) c.1
    let seen := firstDiff wantAll (dataSymbols stored ++ checks)
    if raw then (s, seen.isSome, seen)
    else match decodeLine (s.rb (Reg.stkCtrl (keyChan key)) 2) poisoned errs with
      | .clean => let x := firstDiff (dataSymbols want) (dataSymbols stored); (s, x.isSome, x)
      | .corrected fix =>
        let x := firstDiff (dataSymbols want) (dataSymbols (applyErrs d (errs ++ fix)))
        (s, x.isSome, x)
      | _ => (s, true, seen)

/-- A mismatching line (R236). -/
def State.tgMiss (s : State) (ch line : Nat) (x : Option (Nat × Nat)) : State :=
  let s := s.count (Reg.stkTgMismatch ch) 1
  let s :=
    if s.rb (Reg.stkTgFail ch) 28 then s
    else
      let (sym, diff) := x.getD (0, 0)
      let isCheck := decide (64 ≤ sym)
      s.w64 (Reg.stkTgFail ch) (BitVec.ofNat 64
        (line + (if isCheck then sym - 64 else sym) * 2 ^ 21 + isCheck.toNat * 2 ^ 27 + 2 ^ 28 + diff * 2 ^ 32))
  s.raise (chPage ch) 13 10 (1024 + ch)

/-- A generator has nothing more to do: stopped, TG_EN 0, or a bad range. -/
def State.tgOver (s : State) (ch : Nat) (g : Tg) : Bool :=
  let first := s.rf (Reg.stkTgStart ch) 0 21
  let last := s.rf (Reg.stkTgEnd ch) 0 21
  g.stop || !s.rb (Reg.stkCtrl ch) 0 || decide (last < first) || decide (chanLines ≤ last)

/-- The position after a line. -/
def State.tgAdvance (s : State) (ch op : Nat) (g : Tg) : Tg :=
  let first := s.rf (Reg.stkTgStart ch) 0 21
  let last := s.rf (Reg.stkTgEnd ch) 0 21
  let passes := s.rf (Reg.stkTgPasses ch) 0 16
  if g.line < last then { g with line := g.line + 1 }
  else if op = 2 ∧ !g.check then { g with line := first, check := true }
  else { line := first, pass := g.pass + 1, check := false, stop := passes != 0 && decide (passes ≤ g.pass + 1) }

def State.setTg (s : State) (ch : Nat) (g : Option Tg) : State := s.modMem fun m => { m with tg := setOpt m.tg ch g }

/-- A write of 1 to TG_EN: with EN 1 it leaves TG_EN at 0 (R235). -/
def State.tgStart (s : State) (ch : Nat) : State :=
  if s.rb (blkCtrl (chPage ch)) 0 then s.wb (Reg.stkCtrl ch) 0 false
  else if s.rb (Reg.stkStat ch) 0 then s.wb (Reg.stkCtrl ch) 0 true
  else
    (((s.wb (Reg.stkCtrl ch) 0 true).wb (Reg.stkStat ch) 0 true).w64 (Reg.stkTgFail ch) 0).setTg ch
      (some ⟨s.rf (Reg.stkTgStart ch) 0 21, 0, false, false⟩)

def State.tgStop (s : State) (ch : Nat) : State := s.wb (Reg.stkCtrl ch) 0 false

/-- The generator writes or checks its next line. -/
def State.tgLineOp (s : State) (ch : Nat) (up : Upset) : State :=
  match optAt s.mem.tg ch with
  | none => s
  | some g =>
    if s.tgOver ch g then s
    else
      let cfg := s.r32 (Reg.stkTgCfg ch)
      let op := fld cfg 3 2
      let key := lineKey ch g.line
      let s := s.upset key up
      let beats := tgBeats (fld cfg 0 3) g.line (s.r64 (Reg.stkTgSeed ch)) (s.r64 (Reg.stkTgUser ch))
      let inv := op == 3 && g.pass % 2 == 1
      let want := tgLine beats inv
      let isWrite := op == 0 || (op == 2 && !g.check)
      if isWrite then
        ((s.chanWrite key want false).modMem fun m => m.touch 0 key).count (Reg.stkTgWrCnt ch) 1
          |>.setTg ch (some (s.tgAdvance ch op g))
      else
        let r := s.tgCheck key want (cfg.getLsbD 5)
        let s := r.1.count (Reg.stkTgRdCnt ch) 1
        let s := if r.2.1 then s.tgMiss ch g.line r.2.2 else s
        if r.2.1 ∧ cfg.getLsbD 6 then s.setTg ch (some { g with stop := true })
        else
          let s := if op = 3 then
              ((s.chanWrite key (tgLine beats !inv) false).modMem fun m => m.touch 0 key).count (Reg.stkTgWrCnt ch) 1
            else s
          s.setTg ch (some (s.tgAdvance ch op g))

/-- A generator that has stopped clears TG_BUSY and raises TG_DONE. -/
def State.tgDone (s : State) (ch : Nat) : State :=
  match optAt s.mem.tg ch with
  | none => s
  | some g =>
    if s.tgOver ch g then ((s.setTg ch none).wb (Reg.stkStat ch) 0 false).raise (chPage ch) 12 5 (1024 + ch) else s

/-! ## Translation and the lower tiers (R244, R259, R262, R263) -/

/-- A walker translates an address that its cache does not hold. -/
def State.pageWalk (s : State) (x : Xlator) (ctx va : Nat) : State :=
  if 2 ^ 48 ≤ va ∨ (s.xlCache x).any (fun t => t.ctx == ctx && t.va == va / 2 ^ t.log2 * 2 ^ t.log2) then s
  else (s.translate x ctx va).1

/-- An access arrives at a board interface; locks and near-memory operations are not performed there (R262). -/
def State.boardAccess (s : State) (a : BoardAcc) : State :=
  let off := a.off / 128 * 128
  let s := if a.upset.isEmpty then s else s.modMem fun m =>
    let old := Sparse.get (fun _ => []) m.boardErr (off / 128)
    { m with boardErr := Sparse.set (fun _ => []) m.boardErr (off / 128) (addErrs old a.upset) }
  match a.op with
  | .read => let r := s.boardRead off a.src; r.1.answer a.src r.2
  | .write pos b poison =>
    if !inLine pos b.length then s
    else let w := s.boardWrite (off + pos) a.src b poison; w.1.answerWrite a.src w.2
  | .lockRead => s.answer a.src (Rd.error 10)
  | .unlockWrite _ _ _ => s.answerWrite a.src 10

/-- An access to the host window: a read is answered when its completion arrives, a write is posted (R263). -/
def State.hostAccess (s : State) (a : HostAcc) : State :=
  if !inLine (a.off % 128) a.len then s
  else match a.write with
    | some (b, poison) =>
      if b.length ≠ a.len then s
      else let w := s.hostWrite a.off a.src b poison; w.1.answerWrite a.src w.2
    | none =>
      let tag := s.mem.nextTag
      let r := s.hostRead a.off a.src a.len
      if r.2.err ≠ 0 ∨ r.2.poison then r.1.answer a.src r.2
      else r.1.modMem fun m => { m with
        lower := m.lower.map fun l => if l.space = 2 ∧ l.tag = tag ∧ !l.write then { l with kind := .row } else l }

/-- The training of an enabled interface succeeds, at the density that its BRD_CFG holds; not with a reserved RATE (R259). -/
def State.boardTrained (s : State) (n : Nat) : State :=
  if s.rb (blkCtrl (bmPage n)) 0 ∧ s.rf (Reg.brdCfg n) 4 2 ≠ 3 then
    let s := s.wb (Reg.brdStat n) 0 true
    let s := s.modMem fun m => { m with trained := setNat m.trained n (s.rf (Reg.brdCfg n) 0 2 + 1) }
    s.w64 Reg.brdTierSize (BitVec.ofNat 64 s.tierSize)
  else s

end Sys2Proof.Machine
end

