-- ==== Sys2Proof/Machine/Links.lean ====
section
/-! DEFINITION. The serial ports (R277 to R296): training and width, flits, replay and credits, Ethernet flow control; and
the token stream of GP0 (R304). Port p is FPp for p from 0 to 7, and GP0 for p = 8. -/
namespace Sys2Proof.Machine

/-! ## Registers of a port -/

def portPage (p : Nat) : Nat := if p < 8 then fpPage p else gtxPn
def portSrc (p : Nat) : Nat := 256 + p
def statReg (p : Nat) : Nat := if p < 8 then Reg.fabStat p else Reg.gtxStat
def lanesOf (p : Nat) : Nat := if p < 8 then 8 else 4

/-- STATE of Table 12-5. -/
def State.portState (s : State) (p : Nat) : Nat := s.rf (statReg p) 0 3
def State.setPortState (s : State) (p v : Nat) : State := s.wf (statReg p) 0 3 v

/-- BAD and ACTIVE lanes, NEG_FAIL, REVERSED (Tables 12-11 and 12-13). -/
def State.badLanes (s : State) (p : Nat) : Nat := if p < 8 then s.rf (statReg p) 16 8 else s.rf (statReg p) 12 4
def State.setBad (s : State) (p v : Nat) : State := if p < 8 then s.wf (statReg p) 16 8 v else s.wf (statReg p) 12 4 v
def State.setActive (s : State) (p v : Nat) : State := if p < 8 then s.wf (statReg p) 8 8 v else s.wf (statReg p) 8 4 v
def State.setNegFail (s : State) (p : Nat) (b : Bool) : State := s.wb (statReg p) (if p < 8 then 6 else 4) b
/-- WIDTH: its code is x2 0, x4 1, x8 2. -/
def widthCode (w : Nat) : Nat := if w = 8 then 2 else if w = 4 then 1 else 0
def State.setWidth (s : State) (p w : Nat) : State :=
  if p < 8 then s.wf (statReg p) 3 2 (widthCode w) else s.wf (statReg p) 3 1 (widthCode w)

/-- Settings of a fabric port; GP0 has no such registers and takes their reset values (R296, log 20). -/
def State.portSet (s : State) (p : Nat) (reg : Nat → Nat) (lo len dflt : Nat) : Nat :=
  if p < 8 then s.rf (reg p) lo len else dflt

/-- The port runs Ethernet since its last training (R278). -/
def State.ethernet (s : State) (p : Nat) : Bool := decide (p < 8) && (s.port p).cfg.getLsbD 0

/-- The port is enabled; GP0 has no enable bit. -/
def State.portEn (s : State) (p : Nat) : Bool :=
  if p < 8 then s.rb (blkCtrl (fpPage p)) 0 else decide (4 ≤ s.rf Reg.secBootStat 0 3)

/-! ## Codewords (R279, R280) -/

/-- The lane number that a port's own lane has once a reversal is corrected: a port that finds the lanes in reverse order renumbers its
own (R277; DEDUCED, log 164). -/
def State.laneNumber (s : State) (p lane : Nat) : Nat := if (s.port p).reversed then lanesOf p - 1 - lane else lane

/-- The port's own lanes that carry symbols, in ascending order: the active ones, or all of them before a width is chosen. -/
def State.wireLanes (s : State) (p : Nat) : List Nat :=
  let a := BitVec.ofNat 8 (if p < 8 then s.rf (statReg p) 8 8 else s.rf (statReg p) 8 4)
  (List.range (lanesOf p)).filter fun i => a == 0 || a.getLsbD (s.laneNumber p i)

/-- Lists by lane number as lists by the port's own lanes, and back. -/
def State.byOwnLane (s : State) (p : Nat) (l : List (List Nat)) : List (List Nat) := if (s.port p).reversed then l.reverse else l

/-- One codeword leaves. -/
def State.codewordOut (s : State) (p : Nat) (c : Content) : State :=
  let w := encodeWord c.kind c.bytes (s.port p).txScr
  (s.emit (.codeword p c (s.byOwnLane p (laneSymbols (s.wireLanes p).length w.1)))).modPort p fun x => { x with txNum := x.txNum + 1, txScr := w.2 }

/-- A codeword takes the next place, behind the alignment codeword that every multiple of 8,192 is (R280, R285). -/
def State.sendCodeword (s : State) (p : Nat) (c : Content) : State :=
  (if (s.port p).txNum % 8192 = 0 then s.codewordOut p .align else s).codewordOut p c

/-! ## States (R287, R290, R291, R340) -/

/-- The port reaches DOWN: its replay buffer, its sequence and the stream that it had received so far are gone. -/
def State.portDown (s : State) (p : Nat) : State :=
  let s := ((s.setPortState p 0).setActive p 0).w32 (blkProtoActive (portPage p)) 0
  let s := if p < 8 then s.wb (Reg.fabPeer p) 15 false else s
  s.modPort p fun x => { x with
    downAt := s.tick, retrain := false, replay := [], tx := [], rxAny := false, txSeq := 0, rxSeq := 0xFFF, nakSent := false, replays := 0, rx := [],
    freed := [], graceful := false, level := [], xoff := [], paused := [], dropping := [] }

/-- It goes DOWN for a failure: LINK_DOWN where it leaves UP or RETRAIN (R291, R296). -/
def State.linkDown (s : State) (p : Nat) : State :=
  let up := s.portState p == 5 || s.portState p == 6 || (s.port p).retrain
  (s.portDown p).raiseIf up (portPage p) 9 3 (portSrc p)

/-- A training takes FAB_CFG and BLK_PROTO_LIMIT as they stand (R56, R278). -/
def State.takeCfg (s : State) (p : Nat) : State :=
  let cfg := if p < 8 then s.r32 (Reg.fabCfg p) else 0
  let limit := s.rf (blkProtoLimit (portPage p)) 0 16
  s.modPort p fun x => { x with cfg := cfg, limit := limit, enteredAt := s.tick }

/-- A full training starts: FAB_CFG takes effect, no version is agreed, no lane is marked bad, the link's sequence, replay buffer and
credits start anew (DEDUCED, log 165), and training codewords leave; an Ethernet port without a MAC address stays DOWN (R55, R287, R278, R290, R292). fallback: it follows the failure of a lane (R293). -/
def State.trainFrom (s : State) (p : Nat) (fallback : Bool) : State :=
  let s := ((s.takeCfg p).w32 (blkProtoActive (portPage p)) 0).modPort p fun x => { x with
    retrain := false, graceful := false, fallback := fallback, txNum := 0, rxNum := 0, txScr := 0, rxScr := 0
    replay := [], tx := [], rxAny := false, txSeq := 0, rxSeq := 0xFFF, nakSent := false, replays := 0, rx := [], freed := [], credit := [] }
  let eth := s.ethernet p
  if eth ∧ fld (s.r64 (Reg.fabMac p)) 0 48 = 0 then s.setPortState p 0
  else
    let s := ((s.setBad p 0).setActive p 0).setPortState p 1
    if eth then s else s.sendCodeword p .training

def State.startTraining (s : State) (p : Nat) : State := s.trainFrom p false

/-- GP0 begins training where it is DOWN (R469, R470; in HALTED because its registers are readable over GP0, Table 19-1). -/
def State.gp0Train (s : State) : State := if s.portState 8 = 0 then s.startTraining 8 else s

/-- FAB_CTRL.RETRAIN, GTX_CTRL.RETRAIN. -/
def State.fullTraining (s : State) (p : Nat) : State := if s.portEn p then s.startTraining p else s

def State.retryExpiry (s : State) (p : Nat) : State :=
  let retry := (s.r32 (Reg.fabRetry p)).toNat
  if s.portEn p ∧ s.portState p = 0 ∧ retry ≠ 0 ∧ (s.port p).downAt + retry ≤ s.tick then s.startTraining p else s

/-- A port in DETECT has heard nothing for 2 ms, which take at least 1,953 whole ticks. -/
def State.detectTimeout (s : State) (p : Nat) : State :=
  if s.portState p = 1 ∧ (s.port p).enteredAt + 1953 ≤ s.tick then s.portDown p else s

/-- The peer's training codewords arrive; a peer that runs the other mode leaves the port in DETECT (R278). -/
def State.peerDetected (s : State) (p : Nat) (eth : Bool) : State :=
  if s.portState p = 1 ∧ s.ethernet p = eth then s.setPortState p 2 else s
def State.equaliseDone (s : State) (p : Nat) : State := if s.portState p = 2 then s.setPortState p 3 else s

/-- The lanes of a mask, and lanes lo to hi - 1 as a mask. -/
def hasLanes (g lo n : Nat) : Bool := g / 2 ^ lo % 2 ^ n == 2 ^ n - 1
def laneMask (lo n : Nat) : Nat := (2 ^ n - 1) * 2 ^ lo

/-- The lanes of a width: the lowest of its groups that are all good (R289, R296). -/
def lanesFor (lanes g w : Nat) : Option Nat :=
  (((List.range 4).map fun i => w * i).find? fun i => decide (i + w ≤ lanes) && hasLanes g i w).map fun i => laneMask i w

/-- Width and active lanes for a good-lane mask; 0 where there is none. -/
def chooseWidth (lanes g : Nat) : Nat × Nat :=
  ([8, 4, 2].findSome? fun w => (lanesFor lanes g w).map fun m => (w, m)).getD (0, 0)

/-- The least width that the port may come up with. -/
def State.minWidth (s : State) (p : Nat) : Nat := if p < 8 then 2 ^ (fld (s.port p).cfg 1 2 + 1) else 2

/-- QUALIFY's limit (R289). -/
def State.qualifyLimit (s : State) (p : Nat) : Nat :=
  let lim := s.portSet p Reg.fabLaneErrLim 0 32 42950
  if (s.port p).retrain then (lim + 127) / 128 else lim

/-- The lanes that are good here, by lane number: within the limit, not marked bad, and in a RETRAIN still good since the training. -/
def State.ownGood (s : State) (p : Nat) (errs : List Nat) : Nat :=
  let lim := s.qualifyLimit p
  ((List.range (lanesOf p)).map fun i =>
    let ok := decide (nth (lim + 1) errs (s.laneNumber p i) ≤ lim) && !(BitVec.ofNat 8 (s.badLanes p)).getLsbD i
      && (!(s.port p).retrain || (s.port p).good.getLsbD i)
    ok.toNat * 2 ^ i).sum

/-- Virtual lanes of a port at a link version (R288, R296). -/
def lanesAt (p v : Nat) : Nat := if p < 8 ∧ 0x101 ≤ v then 8 else 4

/-- The record that a port sends in NEGOTIATE; its initial credits are not given (Config.credits). -/
def State.ownRecord (s : State) (p : Nat) : NegRecord :=
  let mine := s.r32 (blkProto (portPage p))
  let top := min (fld mine 0 16) (s.port p).limit
  { low := BitVec.ofNat 16 (fld mine 16 16), high := BitVec.ofNat 16 top
    credits := (List.range (lanesAt p top)).map (Config.credits p), dev := BitVec.ofNat 10 s.dev, port := BitVec.ofNat 3 p, rates := 0 }

/-- The widths of the rates that an Ethernet port offers: those that its lanes and MIN_WIDTH allow, and after the failure of a lane
only the lower ones (R292, R293). -/
def State.offered (s : State) (p : Nat) : List Nat :=
  [8, 4, 2].filter fun w => decide (s.minWidth p ≤ w) && (lanesFor 8 (s.port p).good.toNat w).isSome
    && (w != 8 || !(s.port p).fallback)

/-- The port drives an optical module (Table 12-1), over which no rate is negotiated (Table 12-7). -/
def State.optical (s : State) (p : Nat) : Bool := (s.port p).cfg.getLsbD 4

/-- NEGOTIATE begins: the port takes the device number of XPT_DEV (R471) and sends its record, or offers its rates. -/
def State.offer (s : State) (p own : Nat) : State :=
  let s := s.modPort p fun x => { x with own := BitVec.ofNat 10 s.dev }
  if s.ethernet p then (if s.optical p then s else s.emit (.autoneg p (s.offered p))) else s.emit (.negotiate p (BitVec.ofNat 8 own) (s.ownRecord p))

/-! ## Negotiation (R55, R288) -/

/-- Versions as major × 256 + minor, limit being the side's BLK_PROTO_LIMIT in force. The agreed version, if there is one. -/
def State.agreed (s : State) (pn limit low high : Nat) : Option Nat :=
  let mine := s.r32 (blkProto pn)
  let v := min (min (fld mine 0 16) limit) high
  if fld mine 16 16 ≤ v ∧ low ≤ v then some v else none

/-- Virtual lanes of a port. -/
def State.lanesVl (s : State) (p : Nat) : Nat := lanesAt p (s.rf (blkProtoActive (portPage p)) 0 16)

/-- Lanes of the width in force. -/
def State.widthNow (s : State) (p : Nat) : Nat :=
  if p < 8 then 2 ^ (s.rf (statReg p) 3 2 + 1) else 2 ^ (s.rf (statReg p) 3 1 + 1)

/-- A flit with the acknowledgement that the port owes, and its CRC (R281, R283). -/
def State.makeFlit (s : State) (p : Nat) (f : Flit) : Flit :=
  let x := s.port p
  let f := { f with ack := x.rxSeq, ackValid := x.rxAny || f.nak }
  { f with crc := BitVec.ofNat 64 (crc64 (flitBytes f)) }

/-- Credit that the next flit returns: of each lane up to 255 slots that are free (R284). -/
def returned (freed : Sparse Nat) : List Byte := (List.range 8).map fun v => BitVec.ofNat 8 (min 255 (natAt freed v))
def takeFreed (freed : Sparse Nat) : Sparse Nat :=
  (List.range 8).foldl (fun m v => setNat m v (natAt m v - min 255 (natAt m v))) freed

/-- A NULL flit: acknowledgement, credit, and a NAK where one is due. -/
def State.nullFlit (s : State) (p : Nat) (nak : Bool) : State :=
  let f : Flit := { seq := 0, ack := 0, ackValid := false, nak := nak, null := true, cr := returned (s.port p).freed
                    slots := List.replicate 608 0, crc := 0, rsv := 0 }
  (s.sendCodeword p (.flit (s.makeFlit p f))).modPort p fun x => { x with freed := takeFreed x.freed }

/-- The next flit of the sequence carries 608 bytes of slots; it stays in the replay buffer. -/
def State.pushFlit (s : State) (p : Nat) (slots : List Byte) : State :=
  let x := s.port p
  let f := s.makeFlit p { seq := x.txSeq, ack := 0, ackValid := false, nak := false, null := false, cr := returned x.freed
                          slots := slots, crc := 0, rsv := 0 }
  (s.sendCodeword p (.flit f)).modPort p fun y => { y with
    freed := takeFreed y.freed, replay := y.replay ++ [f], txSeq := y.txSeq + 1
    ackAt := if y.replay.isEmpty then s.tick else y.ackAt }

/-- Flits of the replay buffer are sent again with what the port acknowledges now, and counted (R283). -/
def State.resend (s : State) (p : Nat) : State :=
  let l := (s.port p).replay
  let s := s.each l fun s x => s.sendCodeword p (.flit (s.makeFlit p x))
  s.count (if p < 8 then Reg.fabLlrCnt p else Reg.gtxLlrCnt) l.length

/-- The port reaches UP: LINK_UP, and WIDTH where the width has changed since it was last UP; replay resumes (R290, R291). -/
def State.portUp (s : State) (p : Nat) : State :=
  let w := s.widthNow p
  let was := (s.port p).upWidth
  let s := (s.setPortState p 5).setNegFail p false
  let s := s.raise (portPage p) 8 5 (portSrc p)
  let s := s.raiseIf (decide (p < 8) && was != 0 && was != w) (portPage p) 11 10 (portSrc p)
  (s.modPort p fun x => { x with upWidth := w, retrain := false, replays := 0, ackAt := s.tick }).resend p

/-! ## Token stream (R304) -/

def State.tsSize (s : State) : Nat := 2 ^ s.rf Reg.gtxTsCtrl 0 5
def State.tsProd (s : State) : Nat := (s.r32 Reg.gtxTsProd).toNat
/-- Records that wait in the device ring, and room in the host ring. -/
def State.tsWaiting (s : State) : Nat := (s.r32 Reg.gtxTsDevProd - s.r32 Reg.gtxTsProd).toNat
def State.tsRoom (s : State) : Nat := s.tsSize - (s.r32 Reg.gtxTsProd - s.r32 Reg.gtxTsCons).toNat

/-- The host ring has become full, or is full no longer; and of the writes of GTX_TS_DEV_PROD those are kept whose records wait. -/
def State.tsNote (s : State) : State :=
  let ahead (v : Word) : Nat := (v - s.r32 Reg.gtxTsProd).toNat
  { s with
    tsMarks := s.tsMarks.filter fun m => decide (0 < ahead m.1) && decide (ahead m.1 ≤ s.tsWaiting)
    tsFull := if s.tsRoom = 0 then s.tsFull.or (some (s.tick, false)) else none }

/-- The tick at which the first record that waits was written. -/
def State.tsFirst (s : State) : Option Nat := s.tsMarks.head?.map (·.2)

/-- The bytes of n records from index i. -/
def State.tsRecords (s : State) (i n : Nat) : State × List Byte :=
  let dsize := 2 ^ s.rf Reg.gtxTsDevCfg 0 5
  let base := (s.r64 Reg.gtxTsDevBase).toNat / 16 * 16
  (List.range n).foldl (fun (acc : State × List Byte) k =>
    let o := base + 16 * ((i + k) % dsize)
    let r := acc.1.boardRead (o / 128 * 128) 264
    (r.1, acc.2 ++ slice r.2.data (o % 128) 16)) (s, [])

/-- One packet of at most 32 records, not past the end of the host ring, with the producer index after it. A TOKEN packet carries the
index, which is written at GTX_TS_HOST_PROD behind its records (R304; DEDUCED, log 167). -/
def State.tsPacket (s : State) : State :=
  let i := s.tsProd
  let n := min (min 32 s.tsWaiting) (min s.tsRoom (s.tsSize - i % s.tsSize))
  if n = 0 ∨ !s.gp0Up then s
  else
    let r := s.tsRecords i n
    let at_ := ((r.1.r64 Reg.gtxTsHostBase).toNat / 16 * 16 + 16 * (i % s.tsSize)) % 2 ^ 64
    let prod := BitVec.ofNat 32 (i + n)
    let s := r.1.w32 Reg.gtxTsProd prod
    let hp := (s.r64 Reg.gtxTsHostProd).toNat / 4 * 4
    let s := if 0x101 ≤ s.gtxVersion then s.gutexSend (.token (BitVec.ofNat 64 at_) r.2 prod (BitVec.ofNat 64 hp)) 2 9 r.2
      else
        (s.gutexSend (.dmaWr (BitVec.ofNat 64 at_) false r.2) 0 6 r.2).gutexSend
          (.dmaWr (BitVec.ofNat 64 hp) false (bytesLE 4 prod.toNat)) 0 6 (bytesLE 4 prod.toNat)
    s.tsNote

/-- Send packets: whole ones only, or whatever waits. The token stream is active from RELEASED on (R469). -/
def State.tsPump (s : State) (all : Bool) (fuel : Nat) : State :=
  match fuel with
  | 0 => s
  | fuel + 1 =>
    if !s.gp0Up ∨ !s.released ∨ s.tsRoom = 0 ∨ s.tsWaiting = 0 ∨ (!all ∧ s.tsWaiting < 32) then s
    else State.tsPump s.tsPacket all fuel

/-- GTX_TS_DEV_PROD is written: the records below it may be taken. -/
def State.tsDevProd (s : State) (v : Word) : State :=
  let t := { s.w32 Reg.gtxTsDevProd v with tsMarks := s.tsMarks ++ [(v, s.tick)] }.tsNote
  t.tsPump false (t.tsWaiting + 1)

/-- A partial packet has waited GTX_TS_FLUSH ticks. -/
def State.tsFlushExpiry (s : State) : State :=
  match s.tsFirst with
  | none => s
  | some t => if t + (s.r32 Reg.gtxTsFlush).toNat ≤ s.tick then s.tsPump true (s.tsWaiting + 1) else s

def State.tsFlush (s : State) : State := s.tsPump true (s.tsWaiting + 1)

/-- The host takes records: GP0 resumes. -/
def State.tsCons (s : State) (v : Word) : State :=
  let s := (s.w32 Reg.gtxTsCons v).tsNote
  s.tsPump false (s.tsWaiting + 1)

/-- The host ring has been full for GTX_TS_STALL ticks; once for each time that it fills. -/
def State.tsStall (s : State) : State :=
  let lim := (s.r32 Reg.gtxTsStall).toNat
  match s.tsFull with
  | some (t, false) => if lim ≠ 0 ∧ t + lim ≤ s.tick then { s with tsFull := some (t, true) }.raise gtxPn 11 10 264 else s
  | _ => s

/-- The width of an Ethernet port: the first rate that it offers and its peer supports too (R293). -/
def State.ethRate (s : State) (p : Nat) (rates : BitVec 3) : Option (Nat × Nat) :=
  ((s.offered p).find? fun w => rates.getLsbD (if w = 8 then 0 else if w = 4 then 1 else 2)).bind fun w =>
    (lanesFor 8 (s.port p).good.toNat w).map fun m => (w, m)

/-- An Ethernet port comes up at the first of its rates among those given, or goes DOWN (R293). -/
def State.ethUp (s : State) (p : Nat) (rates : BitVec 3) : State :=
  match s.ethRate p rates with
  | none => s.linkDown p
  | some w => ((s.setWidth p w.1).setActive p w.2).portUp p

/-- The version that a port agrees with its peer (R288); a fabric port agrees none with a peer that reports its own device number
(R471). -/
def State.agreedWith (s : State) (p : Nat) (r : NegRecord) : Option Nat :=
  if p < 8 ∧ r.dev = (s.port p).own then none else s.agreed (portPage p) (s.port p).limit r.low.toNat r.high.toNat

/-- The peer's negotiation record: the version is agreed and the port reaches UP, or it returns to DOWN (R288). An
Ethernet port agrees no link version, but a rate. -/
def State.negotiate (s : State) (p : Nat) (r : NegRecord) : State :=
  if s.portState p ≠ 4 then s
  else if s.ethernet p then
    if s.optical p then s else s.ethUp p r.rates
  else
    let pn := portPage p
    match s.agreedWith p r with
    | none => (((s.linkDown p).setNegFail p true).raise pn (if p < 8 then 12 else 10) 10 (portSrc p))
    | some v =>
      let s := s.w32 (blkProtoActive pn) (BitVec.ofNat 32 (v + 2 ^ 16))
      let s := if p < 8 then s.w32 (Reg.fabPeer p) (BitVec.ofNat 32 (r.dev.toNat + r.port.toNat * 2 ^ 12 + 2 ^ 15)) else s
      let s := if (s.port p).retrain then s
        else
          let n := s.lanesVl p
          s.modPort p fun x => { x with credit := (List.range n).foldl (fun m v => setNat m v (nth 0 r.credits v).toNat) [] }
      let s := s.portUp p
      if p < 8 then s else s.tsPump false (s.tsWaiting + 1)

/-- QUALIFY ends; with an optical module an Ethernet port then runs at the first rate that it offers (DEDUCED, log 166). The width is chosen, or the port does not come up (R289, R290). A lane that fails in a RETRAIN is
marked bad. -/
def State.qualifyDone (s : State) (p : Nat) (r : QualifyResult) : State :=
  if s.portState p ≠ 3 ∧ s.portState p ≠ 6 then s
  else
    let s := if (s.port p).retrain then s else s.modPort p fun x => { x with reversed := r.reversed, inverted := r.inverted }
    let own := s.ownGood p r.errs
    let g := Nat.land own r.peerGood.toNat
    let w := chooseWidth (lanesOf p) g
    if w.1 < s.minWidth p then s.linkDown p
    else
      let all := 2 ^ lanesOf p - 1
      let s := if (s.port p).retrain then s.setBad p (Nat.lor (s.badLanes p) (all - g)) else s
      let s := if p < 8 then s.wb (statReg p) 5 (s.port p).reversed else s
      let s := ((((s.setWidth p w.1).setActive p w.2).modPort p fun x => { x with good := BitVec.ofNat 8 g }).setPortState p 4).offer p own
      if s.ethernet p ∧ s.optical p then s.ethUp p 7 else s

/-! ## RETRAIN (R290, R291) -/

/-- Entry to RETRAIN, a training of its own that takes FAB_CFG; a fabric port raises LANE_FAIL. Where FAB_CFG.MODE asks for the
other mode, the port goes DOWN and trains in it (R278, R287; DEDUCED, log 138). -/
def State.enterRetrain (s : State) (p : Nat) : State :=
  let s := s.raiseIf (decide (p < 8)) (portPage p) 10 10 (portSrc p)
  let t := (s.takeCfg p).modPort p fun x => { x with retrain := true }
  if t.ethernet p = s.ethernet p then t.setPortState p 6 else (s.linkDown p).startTraining p

def State.markBad (s : State) (p lane : Nat) : State := s.setBad p (Nat.lor (s.badLanes p) (2 ^ lane))

/-- A lane fails in UP or in a RETRAIN; an Ethernet port goes DOWN and trains again (R290, R293). -/
def State.laneFail (s : State) (p lane : Nat) : State :=
  if lanesOf p ≤ lane then s
  else if s.portState p = 5 then
    if s.ethernet p then let t := s.linkDown p; if t.portEn p then t.trainFrom p true else t
    else (s.markBad p lane).enterRetrain p
  else if (s.port p).retrain then (s.markBad p lane).setPortState p 6
  else s

/-- Corrected symbols of a lane in one tick. -/
def State.laneCe (s : State) (p lane count : Nat) : State :=
  if s.portState p = 5 ∧ s.portSet p Reg.fabLaneCeLim 0 32 2048 < count then s.laneFail p lane else s

def State.retrainTimeout (s : State) (p : Nat) : State :=
  if (s.port p).retrain ∧ (s.port p).enteredAt + s.portSet p Reg.fabRetrainLimit 0 16 1024 ≤ s.tick then s.linkDown p else s

/-- A gracefully disabled port whose flits are all acknowledged reaches DOWN; its QPs' timers are held (R340). -/
def State.portDrained (s : State) (p : Nat) : State :=
  if s.draining (fpPage p) ∧ (s.port p).replay.isEmpty ∧ (s.port p).tx.isEmpty then
    let s := (s.portDown p).modPort p fun x => { x with graceful := true }
    (((s.wb (blkStat (fpPage p)) 0 false).wb (blkStat (fpPage p)) 1 false).wb (blkStat (fpPage p)) 2 false).raise (fpPage p) 14 5
      (portSrc p)
  else s

/-- A write of 1 to EN of a port: training starts where EN becomes 1, unless the port is still UP or in a RETRAIN (R287). -/
def State.portOn (s : State) (p : Nat) : State :=
  if (s.port p).forcePend then s
  else
    let was := s.portEn p
    let s := ((s.wb (blkCtrl (fpPage p)) 0 true).wb (blkStat (fpPage p)) 0 true).wb (blkStat (fpPage p)) 1 false
    if s.portState p = 0 ∧ !was then s.startTraining p else s

/-! ## Codewords, flits, packets (R280 to R285) -/

/-- The symbols of a codeword as the port restores their order: lanes that are wired in reverse and inverted lanes are put right
(R277). Inverted PAM4 levels, Gray coded, differ in the first bit of each pair (IEEE 802.3 Clause 120; PRESUMED, log 137). -/
def State.lanesIn (s : State) (p : Nat) (l : List (List Nat)) : List (List Nat) :=
  let own := s.wireLanes p
  s.byOwnLane p (l.zipIdx.map fun y =>
    if (s.port p).inverted.getLsbD (nth 0 own y.2) then y.1.map fun v => Nat.xor v 0x155 else y.1)

/-- An acknowledgement in a flit releases the flits up to it (R283). -/
def State.flitAck (s : State) (p : Nat) (f : Flit) : State :=
  if !f.ackValid then s
  else
    let l := (s.port p).replay
    match l.findIdx? fun x => x.seq == f.ack with
    | none => s
    | some i => s.modPort p fun x => { x with replay := l.drop (i + 1), ackAt := s.tick, replays := 0 }

/-- A replay, or RETRAIN after eight without progress (R283). -/
def State.replay (s : State) (p : Nat) : State :=
  if (s.port p).replay.isEmpty then s
  else if 8 ≤ (s.port p).replays then s.enterRetrain p
  else (s.modPort p fun x => { x with replays := x.replays + 1, ackAt := s.tick }).resend p

/-- Credit that a flit returns (R284). -/
def State.flitCredit (s : State) (p : Nat) (f : Flit) : State :=
  s.upTo 8 fun s v => s.modPort p fun x => { x with credit := setNat x.credit v (natAt x.credit v + (nth 0 f.cr v).toNat) }

/-- Packets that are complete leave the received stream, and their slots are free (R282, R284). -/
def takePackets (fuel : Nat) (rx : List Byte) (freed : Sparse Nat) : List Byte × Sparse Nat :=
  match fuel with
  | 0 => (rx, freed)
  | fuel + 1 =>
    if rx.length < 16 then (rx, freed)
    else
      let h := natLE (rx.take 4)
      let n := max 1 (h / 2 ^ 4 % 2 ^ 12)
      if h / 2 ^ 16 % 2 ^ 8 = 0 then takePackets fuel (rx.drop 16) freed
      else if rx.length < 16 * n then (rx, freed)
      else takePackets fuel (rx.drop (16 * n)) (setNat freed (h % 8) (natAt freed (h % 8) + n))

/-- A packet's slots: its prefix and its bytes, filled with zeros (Tables 12-3 and 13-1). -/
def packetSlots (k : TxPkt) : List Byte :=
  slice (bytesLE 4 (k.vl + k.slots * 2 ^ 4 + k.type * 2 ^ 16) ++ k.bytes) 0 (16 * k.slots)

/-- n slots without traffic: prefixes of TYPE 0. -/
def fillSlots (n : Nat) : List Byte := (List.replicate n ([0x10] ++ List.replicate 15 (0 : Byte))).flatten

/-- Flits that a stream of slots takes, its last one filled. -/
def streamFlits (b : List Byte) : Nat := (b.length + 607) / 608

/-- The next packet of a lane. -/
def Port.first (x : Port) (v : Nat) : Option TxPkt := x.txq.find? fun k => k.vl == v

/-- A lane has a packet with enough credit, and the replay buffer has room for its flits (R283, R284). -/
def Port.canStart (x : Port) (room : Bool) (v : Nat) : Bool :=
  match x.first v with
  | some k => decide (k.slots ≤ natAt x.credit v)
      && (!room || decide (x.replay.length + streamFlits (x.tx ++ packetSlots k) ≤ 1024))
  | none => false

/-- A flit is received (R281, R283, R284). Credit counts from a flit that is accepted or carries no payload. -/
def State.flitReceive (s : State) (p : Nat) (f : Flit) : State :=
  if s.portState p ≠ 5 ∨ s.ethernet p then s
  else
    let discard (s : State) : State :=
      if (s.port p).nakSent then s else (s.modPort p fun x => { x with nakSent := true }).nullFlit p true
    if crc64 (flitBytes f) ≠ f.crc.toNat then discard s
    else
      let s := s.flitAck p f
      let s := if f.nak then s.replay p else s
      if f.null then s.flitCredit p f
      else if f.seq = (s.port p).rxSeq + 1 then
        let s := (s.flitCredit p f).modPort p fun x =>
          let t := takePackets 4096 (x.rx ++ slice f.slots 0 608) x.freed
          { x with rxSeq := f.seq, rxAny := true, nakSent := false, rx := t.1, freed := t.2 }
        -- where no packet can start, the next codeword acknowledges and returns credit
        if (List.range 8).any ((s.port p).canStart true) then s else s.nullFlit p false
      else discard s

def State.llrTimeout (s : State) (p : Nat) : State :=
  if s.portState p = 5 ∧ (s.port p).ackAt + s.portSet p Reg.fabLlrTimeout 0 8 4 ≤ s.tick then s.replay p else s

/-- WRR weight of a lane (R285). -/
def State.vlWeight (s : State) (p v : Nat) : Nat := max 1 (s.portSet p Reg.fabVlWeight (4 * v) 4 1)

/-- The lane served next among those that may start: the present one while it has weight left, else the next in turn. -/
def State.nextLane (s : State) (p : Nat) (ready : Nat → Bool) : Option (Nat × Nat) :=
  let w := (s.port p).wrr
  if 0 < w.2 ∧ ready w.1 then some (w.1, w.2 - 1)
  else (((List.range 8).map fun i => (w.1 + 1 + i) % 8).find? ready).map fun v => (v, s.vlWeight p v - 1)

/-- The slots of started packets leave in whole flits; the last flit waits for the packet behind it where one is ready and may start,
else it is filled (R282). -/
def State.flushSlots (s : State) (p : Nat) (last : Bool) : State :=
  let x := s.port p
  let more := !last && (List.range 8).any (x.canStart true)
  let n := if more then x.tx.length / 608 else streamFlits x.tx
  let b := if more then x.tx else x.tx ++ fillSlots ((608 * n - x.tx.length) / 16)
  let s := s.modPort p fun y => { y with tx := if more then y.tx.drop (608 * n) else [] }
  s.each (List.range n) fun s i => s.pushFlit p (slice b (608 * i) 608)

/-- A packet starts on its way. -/
def State.startPacket (s : State) (p : Nat) (k : TxPkt) : State :=
  match k.packet with
  | none => s
  | some x => s.emit (.packet p x)

/-- In Ethernet mode the oldest packet of a priority that is not paused leaves as a frame; one of a priority whose frames a storm
discards is discarded (R294, R295). -/
def State.frameSend (s : State) (p : Nat) : State :=
  let x := s.port p
  let paused (k : TxPkt) : Bool := (optAt x.paused k.vl).isSome
  match x.txq.findIdx? fun k => !paused k || flagAt x.dropping k.vl with
  | none => s
  | some i => match x.txq[i]? with
    | none => s
    | some k =>
      let s := s.modPort p fun x => { x with txq := x.txq.eraseIdx i }
      if paused k then s else (s.startPacket p k).emit (.frame p k.bytes)

/-- A ready packet is sent whole, behind the slots that wait; while the replay buffer has no room, only NULL flits leave (R282 to
R285). -/
def State.packetSend (s : State) (p : Nat) : State :=
  let x := s.port p
  if s.portState p ≠ 5 then s
  else if !s.portEn p then (if s.ethernet p then s else s.flushSlots p true)
  else if s.ethernet p then s.frameSend p
  else match s.nextLane p (x.canStart true) with
    | none => if (List.range 8).any (x.canStart false) ∨ !x.freed.isEmpty then s.nullFlit p false else s
    | some (v, left) => match x.first v with
      | none => s
      | some k =>
        ((s.startPacket p k).modPort p fun x => { x with
          txq := x.txq.erase k, credit := setNat x.credit v (natAt x.credit v - k.slots), tx := x.tx ++ packetSlots k
          wrr := (v, left) }).flushSlots p false

/-- A write of 0 to EN of a port: the packet in progress is completed (R340). -/
def State.portOff (s : State) (p : Nat) : State :=
  let s := s.wb (blkCtrl (fpPage p)) 0 false
  let s := if s.active (fpPage p) then s.wb (blkStat (fpPage p)) 1 true else s
  if s.portState p = 5 ∧ !s.ethernet p then s.flushSlots p true else s

/-! ## Ethernet (R292, R294, R295) -/

/-- Receive buffer of a port. -/
def ethBuffer : Nat := 3 * 1048576

def State.pfcEn (s : State) (p prio : Nat) : Bool := (s.r32 (Reg.fabPfcCfg p)).getLsbD prio

/-- XOFF or XON is sent as the level of a priority calls for it. -/
def State.pfcLevel (s : State) (p prio : Nat) : State :=
  let l := natAt (s.port p).level prio
  let off := flagAt (s.port p).xoff prio
  if !s.pfcEn p prio then s
  else if !off ∧ 1024 * (s.r32 (Reg.fabPfcXoff p)).toNat < l then
    (s.modPort p fun x => { x with xoff := setFlag x.xoff prio true }).emit (.pfc p prio 0xFFFF)
  else if off ∧ l < 1024 * (s.r32 (Reg.fabPfcXon p)).toNat then
    (s.modPort p fun x => { x with xoff := setFlag x.xoff prio false }).emit (.pfc p prio 0)
  else s

/-- A frame is received: discarded where its FCS fails, its length is out of range, it is a PAUSE frame, or the buffer is full for a lossy
priority; else it is held by its priority. -/
def State.ethFrame (s : State) (p : Nat) (f : EthFrame) : State :=
  let held := ((List.range 8).map fun i => natAt (s.port p).level i).sum
  if s.portState p ≠ 5 ∨ !s.ethernet p ∨ !f.fcsOk ∨ f.pause ∨ f.bytes < 64 ∨ 9216 < f.bytes ∨ ethBuffer < held + f.bytes then s
  else (s.modPort p fun x =>
    { x with level := setNat x.level f.prio.val (natAt x.level f.prio.val + f.bytes) }).pfcLevel p f.prio.val

/-- What a port's buffer passes on in a tick is a free amount (log 21). -/
def State.ethDrain (s : State) (p : Nat) : State :=
  s.upTo 8 fun s prio =>
    let l := natAt (s.port p).level prio
    if l = 0 then s
    else ((s.modPort p fun x => { x with level := setNat x.level prio (l - min l s.free) }).drawn).pfcLevel p prio

/-- A PFC frame pauses a priority, or ends its pause (R294). -/
def State.pfcReceive (s : State) (p prio : Nat) (quanta : BitVec 16) : State :=
  if s.portState p ≠ 5 ∨ !s.ethernet p ∨ !s.pfcEn p prio then s
  else s.modPort p fun x =>
    if quanta = 0 then { x with paused := setOpt x.paused prio none, dropping := setFlag x.dropping prio false }
    else { x with paused := setOpt x.paused prio ((optAt x.paused prio).or (some (s.tick, 0))) }

def State.pfcRefresh (s : State) (p prio : Nat) : State :=
  if s.ethernet p ∧ s.pfcEn p prio ∧ flagAt (s.port p).xoff prio then s.emit (.pfc p prio 0xFFFF) else s

/-- A priority has stayed paused for FAB_PFC_STORM ticks (R295). -/
def State.pfcStorm (s : State) (p prio : Nat) : State :=
  let lim := (s.r32 (Reg.fabPfcStorm p)).toNat
  match optAt (s.port p).paused prio with
  | some (t, 0) =>
    if lim ≠ 0 ∧ t + lim ≤ s.tick then
      (s.modPort p fun x => { x with
        paused := setOpt x.paused prio (some (t, 1))
        dropping := setFlag x.dropping prio (s.rb (Reg.fabPfcCfg p) 8) }).raise (fpPage p) 13 10 (portSrc p)
    else s
  | _ => s

def State.pfcExpiry (s : State) (p prio : Nat) : State :=
  s.modPort p fun x => { x with paused := setOpt x.paused prio none, dropping := setFlag x.dropping prio false }

end Sys2Proof.Machine
end

