-- ==== Sys2Proof/Machine/Power.lean ====
section
/-! DEFINITION. Power, temperature and trips (R447 to R453). -/
namespace Sys2Proof.Machine

/-! ## Trips (R453) -/

/-- A trip in any boot state ends the boot at once in HALTED (R470). -/
def State.bootHalt (s : State) : State :=
  let st := s.rf Reg.secBootStat 0 3
  if st = 4 ∨ st = 6 then s
  else ((s.wf Reg.secBootStat 0 3 6).w64 Reg.secBootTick (BitVec.ofNat 64 s.tick)).gp0Train

/-- A trip is crossed: its pins fall at once, and it becomes pending as a class 1 event of the PWR page. -/
def State.tripCross (s : State) (cause rail : Nat) : State :=
  let thermal := decide (cause ≤ 3)
  let s := s.modPwr fun p => { p with
    thermTripN := p.thermTripN && !thermal
    smbAlertN := false
    trip := if p.trip.isNone ∧ !p.tripped then some (cause, rail) else p.trip }
  s.bootHalt.raise pwrPn (if thermal then 10 else 11) 1 5126

/-- A pending trip is sampled at its boundary (R453). -/
def State.tripSample (s : State) : State :=
  match s.pwr.trip with
  | none => s
  | some (cause, rail) =>
    (((s.modPwr fun p => { p with trip := none, tripped := true }).wb Reg.pwrStat 10 true).wf Reg.pwrStat 11 3 cause).wf
      Reg.pwrStat 16 6 rail

/-! ## Sensors (R452, R223) -/

/-- Temperatures of every sensor and stack die that has given a reading, with its WARN limit, in quarters of a degree. -/
def State.readings (s : State) : List (Int × Int) :=
  let one (reg lim : Nat) : List (Int × Int) :=
    let v := s.r32 reg
    if v.getLsbD 15 then [(signed (fld v 0 10) 10, 4 * (s.rf lim 0 8 : Int))] else []
  ((List.range 36).flatMap fun n => one (Reg.pwrTemp n) Reg.pwrTlim)
    ++ (List.range 8).flatMap fun c => (List.range 16).flatMap fun d => one (Reg.coreStkTemp c d) (Reg.coreStkTlim c)

/-- The thermal warning begins when a reading reaches its WARN limit and ends when every one stands at least 3 °C below
it; its beginning raises THERM_WARN (R452). -/
def State.thermWarn (s : State) (hot : Bool) : State :=
  let was := s.rb Reg.pwrStat 8
  if hot ∧ !was then (s.wb Reg.pwrStat 8 true).raise pwrPn 9 10 5126
  else if was ∧ !hot ∧ s.readings.all (fun r => decide (r.1 ≤ r.2 - 12)) then s.wb Reg.pwrStat 8 false
  else s

/-- Whether a reading trips the device: its own limit, or 125 °C (R453). -/
def State.tripTest (s : State) (q : Int) (lim cause : Nat) : State :=
  if 4 * (lim : Int) ≤ q then s.tripCross cause 0 else if 500 ≤ q then s.tripCross 3 0 else s

/-- A logic-die sensor produces a reading. -/
def State.sensorReading (s : State) (n : Nat) (t : BitVec 10) : State :=
  let q := quarters t
  let s := s.w32 (Reg.pwrTemp n) (BitVec.ofNat 32 (t.toNat + 2 ^ 15))
  (s.thermWarn (decide (4 * (s.rf Reg.pwrTlim 0 8 : Int) ≤ q))).tripTest q (s.rf Reg.pwrTlim 8 8) 1

/-- A stack die's sensor produces a reading. -/
def State.dieSensor (s : State) (c d : Nat) (t : BitVec 10) : State :=
  let q := quarters t
  let s := s.dieReading c d t
  (s.thermWarn (decide (4 * (s.rf (Reg.coreStkTlim c) 0 8 : Int) ≤ q))).tripTest q (s.rf (Reg.coreStkTlim c) 8 8) 2

/-- PWR_GOOD falls: a trip while RESET_N is high. -/
def State.pwrGoodFall (s : State) : State := if s.pwr.resetN then s.tripCross 4 0 else s

/-- A rail stands outside its range. -/
def State.railFault (s : State) (r : Nat) : State := s.tripCross 5 r

/-! ## The cap and the duty (R447 to R451) -/

/-- A cap as it is taken: 600 to 1,500 W. -/
def capTaken (w : Nat) : Nat := max 600 (min 1500 w)

/-- PWR_CAP and PWR_CAP_BMC, as the last boundary or a later write left them: each boundary reads them (R448). -/
def State.swCap (s : State) : Nat := capTaken (s.rf Reg.pwrCap 0 11)
def State.bmcCap (s : State) : Nat := capTaken (s.rf Reg.pwrCapBmc 0 11)

/-- A sideband write of PWR_CAP_BMC. -/
def State.capBmcWrite (s : State) (v : Word) : State := (s.wf Reg.pwrCapBmc 0 11 (fld v 0 11)).raise pwrPn 12 10 5126

/-- R449 for a duty d: power of the tick just ended, sum and number of the powers in the mean, cap, FAST, HYST. The answer
says whether the first branch was taken. -/
def dutyStep (d p1 sum n cap fast hyst : Nat) : Nat × Bool :=
  if cap * fast < p1 * 256 ∨ cap * n < sum then
    (max 8 (if sum ≤ p1 * n then d * cap / max p1 1 else d * cap * n / max sum 1), true)
  else if sum * 256 < cap * (256 - hyst) * n then (min 64 (d + 1), false)
  else (d, false)

/-- The power controller at a boundary: energy, power, duty (R447, R449, R451). The mean is over the last WIN ticks, or
over those that there have been. -/
def State.powerTick (s : State) (p1 : Nat) : State :=
  let ctrl := s.r32 Reg.pwrCtrl
  let win := max 1 (fld ctrl 8 4)
  let s := s.modPwr fun p => { p with hist := (p1 :: p.hist).take 15 }
  let last := s.pwr.hist.take win
  let n := last.length
  let d := s.duty
  let cap := min s.swCap s.bmcCap
  let r := dutyStep d p1 last.sum n cap (256 + 16 * fld ctrl 28 4) (fld ctrl 12 8)
  let d1 := if s.rb Reg.pwrStat 8 then min r.1 (fld ctrl 20 7) else r.1
  let d2 := if ctrl.getLsbD 0 ∨ s.pwr.tripped then 0 else d1
  let e := p1 * 1024 / 1000 + s.free % 2
  let s := (s.w64 Reg.pwrEnergy (s.r64 Reg.pwrEnergy + BitVec.ofNat 64 e)).modSrv fun v => { v with energy := v.energy + 1024 * e }
  let s := s.drawn.w32 Reg.pwrPower (BitVec.ofNat 32 (p1 + last.sum / max n 1 * 2 ^ 16))
  let s := (s.wf Reg.pwrStat 0 7 d2).wb Reg.pwrStat 7 (decide (d2 < 64) && (r.2 || s.rb Reg.pwrStat 7))
  (s.wb Reg.pwrStat 9 (decide (s.bmcCap < s.swCap))).raiseIf (d == 64 && decide (d2 < 64)) pwrPn 8 10 5126

/-- Signals held for engines while the duty was 0 are delivered (R450). -/
def State.releaseHeld (s : State) : State :=
  if s.duty = 0 then s else s.each s.heldSignals fun s f => s.tokenAdd f |> fun s => { s with heldSignals := s.heldSignals.drop 1 }

/-! ## Sideband (R441) -/

/-- SMB_ALERT_N is low while BLK_EVT of the PWR page holds an unmasked event, and after a trip (Table 18-3). -/
def State.smbAlertLow (s : State) : Bool := !s.pwr.smbAlertN || (s.r32 (blkEvt pwrPn) &&& ~~~(s.r32 (blkEvtMask pwrPn))) != 0

/-- A block write of two bytes, the low byte first. -/
def State.smbSetOffset (s : State) (b0 b1 : Byte) : State :=
  if s.pwr.powered ∧ s.pwr.resetN then s.modPwr fun p => { p with smbOff := BitVec.ofNat 12 (b0.toNat + 256 * b1.toNat) } else s

end Sys2Proof.Machine
end

