-- ==== Sys2Proof/Machine/Wire.lean ====
section
/-! DEFINITION. Salbuotte packets on the wire (R307 to R313) and the queue pair's context (R319): headers, packet CRC,
encapsulation, virtual lanes and priorities, and the sending of one packet. -/
namespace Sys2Proof.Machine

/-! ## Queue-pair context (Table 13-7) -/

/-- A field of a word of the context as it was read at INIT. -/
def Qp.c (q : Qp) (w lo len : Nat) : Nat := fld (nth 0 q.ctx w) lo len

def Qp.goBackN (q : Qp) : Bool := q.c 0 0 1 == 1
def Qp.pmtu (q : Qp) : Nat := 1024 * 2 ^ q.c 0 6 2
def Qp.pkey (q : Qp) : Nat := q.c 0 16 16
def Qp.major (q : Qp) : Nat := q.c 1 4 4
/-- The agreed version as Table 3-11 encodes it: major in [15:8], minor in [7:0]. -/
def Qp.version (q : Qp) : Nat := q.c 1 4 4 * 256 + q.c 1 0 4
def Qp.sqSize (q : Qp) : Nat := q.c 1 8 5
def Qp.rqSize (q : Qp) : Nat := q.c 1 13 5
def Qp.scqn (q : Qp) : Nat := q.c 1 18 12
def Qp.rcqn (q : Qp) : Nat := q.c 1 30 12
def Qp.retryMax (q : Qp) : Nat := q.c 1 42 3
def Qp.rnrMax (q : Qp) : Nat := q.c 1 45 3
def Qp.rto (q : Qp) : Nat := q.c 1 48 8
def Qp.rnrDelay (q : Qp) : Nat := q.c 1 56 8
def Qp.wndMax (q : Qp) : Nat := q.c 4 0 13
def Qp.spsn (q : Qp) : BitVec 24 := BitVec.ofNat 24 (q.c 4 16 24)
def Qp.rpsn (q : Qp) : BitVec 24 := BitVec.ofNat 24 (q.c 4 40 24)
/-- Source index of a queue pair's events and accesses: 256 + PORT (R341, R493). -/
def Qp.src (q : Qp) : Nat := 256 + q.port

/-- Queue pairs outside RESET. -/
def State.liveQps (s : State) : List Nat := (s.xpt.qps.filter fun e => e.2.state != 0).map (·.1)
def Qp.peerDev (q : Qp) : Nat := q.c 0 48 10

/-- Accesses of a queue pair through a context: by the hub, to spaces 0 to 2 of the device (R315). -/
def Qp.acc (q : Qp) (ctx : Nat) : Acc := ⟨none, q.src, ctx, [0, 1, 2], 0, 0⟩
/-- Accesses through the context of its queues and local addresses. -/
def Qp.local_ (q : Qp) : Acc := q.acc (q.c 0 8 6)

/-- a lies before b in sequence: by a distance below 2^23 modulo 2^24. -/
def seqLt (a b : BitVec 24) : Bool := decide (0 < (b - a).toNat) && decide ((b - a).toNat < 2 ^ 23)
def seqLe (a b : BitVec 24) : Bool := a == b || seqLt a b

/-! ## Bytes (Tables 13-2 and 13-4) -/

/-- The base transport header. -/
def bth (k : Packet) : List Byte :=
  let b (x : Bool) (i : Nat) : Nat := x.toNat * 2 ^ i
  bytesLE 8 (k.opcode.toNat + k.ver.toNat * 2 ^ 8 + b k.ackreq 12 + b k.first 13 + b k.last 14 + b k.ce 15
    + k.pkey.toNat * 2 ^ 16 + k.dstQpn.toNat * 2 ^ 32 + k.dstDev.toNat * 2 ^ 48
    + k.rsv.toNat % 64 * 2 ^ 58)
  ++ bytesLE 8 (k.psn.toNat + k.srcQpn.toNat * 2 ^ 24 + k.srcDev.toNat * 2 ^ 40 + k.tc.toNat * 2 ^ 50 + b k.poison 53
    + k.rsv.toNat / 64 * 2 ^ 54)

/-- The packet from the first byte of the header to the last of the payload. -/
def packetBytes (k : Packet) : List Byte := bth k ++ k.ext.flatMap (fun w => bytesLE 8 w.toNat) ++ k.payload

/-- PCRC: CRC-32C with CE taken as 0 (R311). -/
def pcrcOf (k : Packet) : Word := BitVec.ofNat 32 (crc32c (packetBytes { k with ce := false }))

/-! ## Ethernet encapsulation (Table 13-1) -/

/-- n bytes in network order. -/
def bytesBE (n x : Nat) : List Byte := (bytesLE n x).reverse

/-- The sum of 16-bit words of network-order bytes, folded and complemented (RFC 791, RFC 8200). -/
def inetSum (b : List Byte) : Nat :=
  let words := (List.range ((b.length + 1) / 2)).map fun i =>
    256 * (nth 0 b (2 * i)).toNat + (nth 0 b (2 * i + 1)).toNat
  let t := words.sum
  let t := t % 65536 + t / 65536
  let t := t % 65536 + t / 65536
  65535 - (t % 65536 + t / 65536)

def crcEthBits (n c : Nat) : Nat :=
  match n with
  | 0 => c
  | n + 1 => crcEthBits n (if c % 2 = 1 then Nat.xor (c / 2) 0xEDB88320 else c / 2)

/-- The FCS of IEEE 802.3. -/
def fcs (b : List Byte) : Nat :=
  Nat.xor (b.foldl (fun c x => crcEthBits 8 (Nat.xor c x.toNat)) 0xFFFFFFFF) 0xFFFFFFFF

/-- The flow number h of R307. -/
def flowOf (k : Packet) : Nat :=
  Nat.xor (Nat.xor k.srcQpn.toNat (k.dstQpn.toNat * 2 ^ 4)) (k.dstDev.toNat * 2 ^ 10) % 2 ^ 20

/-- The UDP datagram: its header with a checksum, and the packet. -/
def udpOf (sport dport sum : Nat) (body : List Byte) : List Byte :=
  bytesBE 2 sport ++ bytesBE 2 dport ++ bytesBE 2 (8 + body.length) ++ bytesBE 2 sum ++ body

/-- The frame that carries a packet out of port p: MAC header with the tag where FAB_CFG.VLAN_EN is 1, IP and UDP
headers, packet and FCS. The tag's PCP and VID are those of FAB_VLAN (Table 12-7); an address register is written out most
significant byte first (log 31). -/
def State.frame (s : State) (p : Nat) (q : Qp) (k : Packet) : List Byte :=
  let body := packetBytes k ++ bytesLE 4 k.pcrc.toNat
  let h := flowOf k
  let v6 := q.c 5 48 1 == 1
  let dscp := q.c 5 49 6
  let ttl := s.rf Reg.xptIpCfg 0 8
  let sport := 0xC000 + h % 2 ^ 14
  let dport := s.rf Reg.xptUdpPort 0 16
  let peer := bytesLE 8 (nth 0 q.ctx 6).toNat ++ bytesLE 8 (nth 0 q.ctx 7).toNat
  let tag := if (s.port p).cfg.getLsbD 3 then bytesBE 2 0x8100 ++ bytesBE 2 (s.rf (Reg.fabVlan p) 12 3 * 2 ^ 13 + s.rf (Reg.fabVlan p) 0 12) else []
  let mac := bytesBE 6 (q.c 5 0 48) ++ bytesBE 6 (fld (s.r64 (Reg.fabMac p)) 0 48) ++ tag
  let ip : List Byte :=
    if v6 then
      let a := Reg.xptIp6Addr p
      let own := bytesBE 8 (s.r64 (a + 8)).toNat ++ bytesBE 8 (s.r64 a).toNat
      let len := 8 + body.length
      let pseudo := own ++ peer ++ bytesBE 4 len ++ bytesBE 4 17
      let sum := inetSum (pseudo ++ udpOf sport dport 0 body)
      bytesBE 2 0x86DD ++ bytesBE 4 (6 * 2 ^ 28 + (dscp * 4 + 2) * 2 ^ 20 + h) ++ bytesBE 2 len ++ bytesBE 1 17 ++ bytesBE 1 ttl
        ++ own ++ peer ++ udpOf sport dport (if sum = 0 then 0xFFFF else sum) body
    else
      let own := bytesBE 4 (s.r32 (Reg.xptIp4Addr p)).toNat
      let head (sum : Nat) := bytesBE 1 0x45 ++ bytesBE 1 (dscp * 4 + 2) ++ bytesBE 2 (28 + body.length) ++ bytesBE 2 0
        ++ bytesBE 2 0x4000 ++ bytesBE 1 ttl ++ bytesBE 1 17 ++ bytesBE 2 sum ++ own ++ peer.take 4
      bytesBE 2 0x0800 ++ head (inetSum (head 0)) ++ udpOf sport dport 0 body
  let f := mac ++ ip
  f ++ bytesLE 4 (fcs f)

/-! ## Sending (R313, R328) -/

/-- Virtual lane or priority of a packet (Table 13-5). -/
def State.laneOf (s : State) (p : Nat) (q : Qp) (tc : Nat) : Nat :=
  let hi := q.c 0 5 1 == 1
  if s.ethernet p then
    match tc with
    | 0 => if hi then s.rf Reg.xptIpCfg 11 3 else s.rf Reg.xptIpCfg 8 3
    | 3 => s.rf Reg.xptIpCfg 17 3
    | _ => s.rf Reg.xptIpCfg 14 3
  else if hi ∧ s.lanesVl p = 8 ∧ tc < 2 then tc + 4 else tc

/-- KiB queued at a port's egress exceed XPT_CC_MARK. -/
def State.congested (s : State) (p : Nat) : Bool :=
  decide (1024 * (s.r32 Reg.xptCcMark).toNat < ((s.port p).txq.map fun k => k.bytes.length).sum)

/-- A packet leaves queue pair n and waits at its port. A port that is DOWN loses it. -/
def State.sendPacket (s : State) (n : Nat) (k : Packet) : State :=
  let q := s.qp n
  let p := q.port
  let k := { k with ce := s.congested p, ver := BitVec.ofNat 4 q.major, srcQpn := BitVec.ofNat 16 n, srcDev := BitVec.ofNat 10 s.dev }
  let k := { k with pcrc := pcrcOf k }
  if s.portState p = 0 then s
  else
    let vl := s.laneOf p q k.tc.toNat
    let body := packetBytes k ++ bytesLE 4 k.pcrc.toNat
    let bytes := if s.ethernet p then s.frame p q k else body
    (s.countBytes 0 (q.c 0 8 6) 3 k.payload.length).modPort p fun x => { x with txq := x.txq ++ [⟨vl, (4 + body.length + 15) / 16, 1, bytes, some k⟩] }

/-- The packet that a queue pair addresses to its peer. -/
def Qp.packet (q : Qp) (op tc psn : Nat) (ext : List Dword) (payload : List Byte) : Packet :=
  { ip := none, rsv := 0, opcode := BitVec.ofNat 8 op, ver := 0, ackreq := false, first := true, last := true, ce := false,
    pkey := BitVec.ofNat 16 q.pkey, dstQpn := BitVec.ofNat 16 (q.c 0 32 16), dstDev := BitVec.ofNat 10 (q.c 0 48 10),
    psn := BitVec.ofNat 24 psn, srcQpn := 0, srcDev := 0, tc := BitVec.ofNat 3 tc, poison := false, ext := ext,
    payload := payload, pcrc := 0 }

/-- A queue pair sends requests, or responses, in this state (Table 13-8). -/
def Qp.requests (q : Qp) : Bool := q.state == 3 || q.state == 4
def Qp.responds (q : Qp) : Bool := q.state == 2 || q.state == 3 || q.state == 4

/-! ## Signals of the transport (R321) -/

/-- Whether a signal word is not of the form that R321 allows; the word 0 is no signal. -/
def badSig (w : Nat) : Bool :=
  w != 0 && (w / 64 % 4 < 2 || w / 2 ^ 16 % 2 ^ 16 == 0 || (w / 64 % 4 == 3 && decide (15 < w / 256 % 256)))

/-- A signal word is performed: additions leave for the token counters that it names (R64, Table 4-4). -/
def State.sendSig (s : State) (w : Nat) (err : Bool) : State :=
  let tgt := w / 64 % 4
  let es := if tgt = 2 then [w / 256 % 256] else if tgt = 3 then s.groupEngines (w / 256 % 16) else []
  { s with signals := s.signals ++ es.map fun e => ⟨e, w % 64, w / 2 ^ 16 % 2 ^ 16, err⟩ }

/-! ## Tables in local memory (R315, R319, R324) -/

/-- Space and offset within a table that XPT_QPC_BASE, XPT_RGN_BASE or XPT_CQ_BASE places. -/
def State.table (s : State) (reg off : Nat) : Nat × Nat :=
  (fld (s.r64 reg) 0 1, fld (s.r64 reg) 12 36 * 4096 + off)

/-- Source index of the accesses that region commands make to their table, which concern no queue pair: GP0's, through whose
window they come (R493, DESIGN CHOICE, log 32). -/
def rgnSrc : Nat := 264

/-- A table is read and written with the source index of the queue pair concerned, or rgnSrc (R493). -/
def State.tableRead (s : State) (reg off n src : Nat) : State × Rd :=
  s.spanRead (s.table reg off).1 (s.table reg off).2 n src 0

def State.tableWrite (s : State) (reg off src : Nat) (b : List Byte) : State :=
  (s.spanWrite (s.table reg off).1 (s.table reg off).2 src 0 b false).1

/-- XPT_ERR_LOG for an error of queue pair n (Table 13-17). -/
def State.errRecord (s : State) (n status : Nat) (psn : BitVec 24) (responder : Bool) : Dword :=
  BitVec.ofNat 64 (n % 2 ^ 16 + status * 2 ^ 16 + psn.toNat * 2 ^ 24 + (s.qp n).port * 2 ^ 48 + responder.toNat * 2 ^ 51 + 2 ^ 63)

/-- An error record taken at the boundary that samples it. -/
def State.xptLog (s : State) (n status : Nat) (psn : BitVec 24) (responder : Bool) : State :=
  { s with logq := s.logq ++ [(Reg.xptErrLog, s.errRecord n status psn responder, Reg.xptErrTick)] }

/-- An error record of what a boundary itself did (R339). -/
def State.xptLogNow (s : State) (n status : Nat) (psn : BitVec 24) : State :=
  (s.w64 Reg.xptErrLog (s.errRecord n status psn false)).w64 Reg.xptErrTick s.tide.last

end Sys2Proof.Machine
end

