-- ==== Sys2Proof/Machine/Transport.lean ====
section
/-! DEFINITION. The requester of the transport (R319 to R332, R335 to R340, R352): send work requests, completion queues,
the window, acknowledgements, resending, errors and flushing, doorbells and queue-pair commands. -/
namespace Sys2Proof.Machine

/-! ## Send WQEs (Tables 13-10 and 14-1) -/

def wqOp (w : List Dword) : Nat := fld (nth 0 w 0) 0 8
def wqTag (w : List Dword) : Nat := fld (nth 0 w 0) 16 16
def wqLen (w : List Dword) : Nat := fld (nth 0 w 0) 32 31
def wqNma (w : List Dword) : Nat := fld (nth 0 w 0) 10 4
def wqLocal (w : List Dword) : Nat := fld (nth 0 w 1) 0 48
def wqRemote (w : List Dword) : Nat := fld (nth 0 w 2) 0 48
def wqRkey (w : List Dword) : Nat := fld (nth 0 w 3) 0 32
def wqRsig (w : List Dword) : Nat := fld (nth 0 w 3) 32 32
def wqGather (w : List Dword) : Nat := fld (nth 0 w 5) 0 48
def wqStride (w : List Dword) : Nat := 32 * fld (nth 0 w 6) 0 16

def opSend : Nat := 0
def opWrite : Nat := 1
def opRead : Nat := 2
def opAtomic : Nat := 4
def opAdd : Nat := 6
def opRake : Nat := 0x10

/-- Packets of n bytes. -/
def packetsFor (pmtu n : Nat) : Nat := max 1 ((n + pmtu - 1) / pmtu)

/-- BLOCK_LEN and the record size of a rake, from the head of its block (R344, R167). Q_FMT is one byte wide. -/
def rakeSizes (b : List Byte) : Nat × Nat :=
  let c := ctrlOf (b.take 64)
  let rows := c.nh * (natLE (slice b 0x50 4) / 2 ^ 24 % 32)
  let d := 64 * (c.dch + 1)
  (128 + rows * d, partialSize rows d)

/-- Word i of the send ring; none where it cannot be read or reads poisoned. -/
def State.readSq (s : State) (n : Nat) (i : Word) : State × Option (List Dword) :=
  let q := s.qp n
  let r := s.vSpanRead q.local_ (q.c 2 0 48 + 64 * (i.toNat % 2 ^ q.sqSize)) 64 0
  if r.2.err ≠ 0 ∨ r.2.poison then (r.1, none)
  else (r.1, some ((List.range 8).map fun j => BitVec.ofNat 64 (natLE (slice r.2.data (8 * j) 8))))

def State.modWqe (s : State) (n : Nat) (i : Word) (f : Wqe → Wqe) : State :=
  s.modQp n fun q => { q with wqes := q.wqes.map fun w => if w.index == i then f w else w }

/-- PSN one past the last WQE started. -/
def Qp.endPsn (q : Qp) : BitVec 24 :=
  match q.wqes.getLast? with
  | some w => w.psn + BitVec.ofNat 24 w.count
  | none => q.npsn

/-- Request packets of a WQE, and the PSNs that its first of them takes apart from one (R327, R345). -/
def Wqe.requests (w : Wqe) (q : Qp) : Nat :=
  if wqOp w.words = opRead ∨ wqOp w.words = opAtomic then 1
  else if wqOp w.words = opRake then packetsFor q.pmtu (wqLen w.words)
  else w.count

/-- Parts of a reply that a WQE awaits, and the offset of the first of them among its PSNs. -/
def Wqe.parts (w : Wqe) (q : Qp) : Nat × Nat :=
  if wqOp w.words = opRead then (w.count, 0)
  else if wqOp w.words = opAtomic then (1, 0)
  else if wqOp w.words = opRake then
    let m := packetsFor q.pmtu (wqLen w.words)
    (w.count - (m - 1), m - 1)
  else (0, 0)

/-- PSN of the first part of its reply that a WQE has not received. -/
def Wqe.unanswered (w : Wqe) (q : Qp) : Option (BitVec 24) :=
  let p := w.parts q
  if w.stale then none
  else ((List.range p.1).find? fun i => !w.got.contains i).map fun i => w.psn + BitVec.ofNat 24 (p.2 + i)

/-- PSN past the highest part of its reply that a WQE has received. -/
def Wqe.answered (w : Wqe) (q : Qp) : BitVec 24 :=
  w.psn + BitVec.ofNat 24 ((w.parts q).2 + w.got.foldl (fun m i => max m (i + 1)) 0)

/-- Whether a PSN is one of a WQE's. -/
def Wqe.holds (w : Wqe) (psn : BitVec 24) : Bool := decide ((psn - w.psn).toNat < w.count)

/-! ## Completion queues (R324, Table 13-12) -/

/-- A CQE is written to completion queue c. A queue that is not VALID or has overflowed takes none; one that is full
overflows, and every queue pair bound to it enters ERROR. -/
def State.cqe (s : State) (c n tag status : Nat) (recv : Bool) (index : Word) (bytes pkey srcDev : Nat) : State :=
  let r := s.tableRead Reg.xptCqBase (16 * c) 16 (s.qp n).src
  let s := r.1
  let w0 := natLE (slice r.2.data 0 8)
  let prod := natLE (slice r.2.data 8 4)
  let cons := natLE (slice r.2.data 12 4)
  let size := w0 / 2 ^ 54 % 32
  if r.2.err ≠ 0 ∨ r.2.poison ∨ w0 / 2 ^ 59 % 2 = 0 ∨ w0 / 2 ^ 60 % 2 = 1 then s
  else if 2 ^ size ≤ (prod + 2 ^ 32 - cons) % 2 ^ 32 then
    let s := s.tableWrite Reg.xptCqBase (16 * c) (s.qp n).src (bytesLE 8 (w0 + 2 ^ 60))
    (s.raise xptPn 11 3 (s.qp n).src).modXpt fun x => { x with cqOvf := x.cqOvf ++ [c] }
  else
    let e := bytesLE 8 (tag + status * 2 ^ 16 + recv.toNat * 2 ^ 21 + n * 2 ^ 32 + pkey * 2 ^ 48)
      ++ bytesLE 8 (index.toNat + bytes % 2 ^ 31 * 2 ^ 32) ++ bytesLE 8 s.tick
      ++ bytesLE 8 (srcDev + (if prod / 2 ^ size % 2 = 0 then 2 ^ 63 else 0))
    let s := (s.vSpanWrite ((s.qp n).acc (w0 / 2 ^ 48 % 64)) (w0 % 2 ^ 48 + 32 * (prod % 2 ^ size)) 0 e false).1
    s.tableWrite Reg.xptCqBase (16 * c + 8) (s.qp n).src (bytesLE 4 ((prod + 1) % 2 ^ 32))

/-! ## Completion of send WQEs (R325, Table 13-13, R352) -/

/-- A gather slot is claimed by an addition of 1 to NEXT (R352); none where the word cannot be added to. -/
def State.claimSlot (s : State) (n : Nat) (words : List Dword) : State × Option Nat :=
  let r := s.vNma (s.qp n).local_ (wqGather words) 8 [1] 0 false
  if r.2.err ≠ 0 ∨ r.2.poison then (r.1, none) else (r.1, some (natLE (r.2.data.take 4)))

/-- Record size of a rake WQE that has not started; the stride where its block cannot be read. -/
def State.rakeRecord (s : State) (n : Nat) (words : List Dword) : State × Nat :=
  let r := s.vSpanRead (s.qp n).local_ (wqLocal words) 128 0
  (r.1, if r.2.err ≠ 0 ∨ r.2.poison then wqStride words else (rakeSizes r.2.data).2)

/-- The local destination of a WQE that fails is poisoned over its whole length; a rake leaves a poisoned record. -/
def State.poisonLocal (s : State) (n : Nat) (words : List Dword) (w : Option Wqe) : State :=
  let a := (s.qp n).local_
  if wqOp words = opRead ∨ wqOp words = opAtomic then
    (s.vSpanWrite a (wqLocal words) 0 (List.replicate (wqLen words) 0) true).1
  else if wqOp words = opRake then
    let z := match w with
      | some w => (s, w.size)
      | none => s.rakeRecord n words
    let k := match w.bind (·.slot) with
      | some k => (z.1, some k)
      | none => z.1.claimSlot n words
    match k.2 with
    | some i => (k.1.vSpanWrite a (wqGather words + 64 + i * wqStride words) 0 (List.replicate z.2 0) true).1
    | none => k.1
  else s

/-- Send WQE i completes with a status: destination, CQE, local signals, SQ_DONE. -/
def State.finishSend (s : State) (n : Nat) (i : Word) (words : List Dword) (w : Option Wqe) (st : Nat) : State :=
  let good := st == 0 || st == 1
  let s := if good then s else s.poisonLocal n words w
  let s := if fld (nth 0 words 0) 8 1 = 1 then
      s.cqe (s.qp n).scqn n (wqTag words) st false i (if good then wqLen words else 0) 0 0 else s
  let s := (s.sendSig (fld (nth 0 words 4) 0 32) !good).sendSig (fld (nth 0 words 4) 32 32) !good
  s.modQp n fun q => { q with
    sqDone := i + 1, wqes := q.wqes.filter fun x => x.index != i
    sqHead := if wrapDist q.sqHead q.sqDone = 0 then i + 1 else q.sqHead }

/-! ## Receive WQEs (Table 13-11) -/

/-- Receive WQE i: its buffer, length, TAG and LSIG. -/
def State.readRq (s : State) (n : Nat) (i : Word) : State × Option (Nat × Nat × Nat × Word) :=
  let q := s.qp n
  let r := s.vSpanRead q.local_ (q.c 3 0 48 + 32 * (i.toNat % 2 ^ q.rqSize)) 32 0
  if r.2.err ≠ 0 ∨ r.2.poison then (r.1, none)
  else
    let b := r.2.data
    (r.1, some (natLE (slice b 0 6), natLE (slice b 8 4) % 2 ^ 31, natLE (slice b 16 2), BitVec.ofNat 32 (natLE (slice b 12 4))))

/-- A receive WQE completes: CQE, LSIG, and the count of completed ones (R323, R333). -/
def State.finishRecv (s : State) (n : Nat) (i : Word) (tag : Nat) (lsig : Word) (st bytes pkey srcDev : Nat) : State :=
  let s := s.cqe (s.qp n).rcqn n tag st true i bytes pkey srcDev
  let s := s.sendSig lsig.toNat (st != 0 && st != 1)
  s.modQp n fun q => { q with
    rqDone := i + 1, recv := q.recv.filter fun x => x.index != i
    rqHead := if wrapDist q.rqHead q.rqDone = 0 then i + 1 else q.rqHead }

/-! ## ERROR (R338, R339, R330) -/

/-- Every send WQE not completed completes, in index order: the one that failed with its status, the others with rest. -/
def State.flushSend (s : State) (n : Nat) (bad : Option (Word × Nat)) (rest : Nat) : State :=
  let q := s.qp n
  s.upTo (wrapDist q.sqTail q.sqDone) fun s j =>
    let i := q.sqDone + BitVec.ofNat 32 j
    let st := match bad with
      | some b => if b.1 = i then b.2 else rest
      | none => rest
    match (s.qp n).wqes.find? fun w => w.index == i with
    | some w => s.finishSend n i w.words (some w) st
    | none =>
      let r := s.readSq n i
      r.1.finishSend n i (r.2.getD []) none st

/-- The buffer of a receive WQE that fails is poisoned over its whole length, but for FLUSH_ERR and LEN_ERR (Table 13-13). -/
def State.poisonRecv (s : State) (n : Nat) (i : Word) (st : Nat) : State :=
  if st = 3 ∨ st = 12 then s
  else
    let r := s.readRq n i
    match r.2 with
    | some b => (r.1.vSpanWrite (s.qp n).local_ b.1 0 (List.replicate b.2.1 0) true).1
    | none => r.1

/-- Every posted receive WQE completes FLUSH_ERR, but for one that failed. -/
def State.flushRecv (s : State) (n : Nat) (bad : Option (Word × Nat)) : State :=
  let q := s.qp n
  s.upTo (wrapDist q.rqTail q.rqDone) fun s j =>
    let i := q.rqDone + BitVec.ofNat 32 j
    let st := match bad with
      | some b => if b.1 = i then b.2 else 3
      | none => 3
    let s := s.poisonRecv n i st
    match (s.qp n).recv.find? fun m => m.index == i with
    | some m => s.finishRecv n i m.tag m.lsig st 0 0 0
    | none =>
      let r := s.readRq n i
      match r.2 with
      | some b => r.1.finishRecv n i b.2.2.1 b.2.2.2 st 0 0 0
      | none => r.1.finishRecv n i 0 0 st 0 0 0

/-- The RSIG of every message accepted and not completed is performed with the error flag (R330). -/
def State.failRsigs (s : State) (n : Nat) : State :=
  let s' := if (s.qp n).c 0 4 1 = 1 then s.each (s.qp n).rsigs fun s r => if r.stale then s else s.sendSig r.sig.toNat true else s
  s'.modQp n fun q => { q with rsigs := [] }

/-- Rake jobs of a queue pair whose LAST packet has not come are dropped with it; the others are answered no more. -/
def State.dropJobs (s : State) (n : Nat) : State :=
  s.modXpt fun x => { x with jobs :=
    (x.jobs.filter fun j => j.qp != n || j.due.isSome).map fun j => if j.qp == n then { j with live := false } else j }

/-- The queue pair enters ERROR: ABORT to the peer, its WQEs flushed, QP_ERR or, for a FORCE, QP_CANCEL, and the log. -/
def State.toError (s : State) (n : Nat) (bad : Option (Word × Nat)) (rest : Nat) (badRecv : Option (Word × Nat)) (psn : BitVec 24)
    (cancel : Bool) : State :=
  let q := s.qp n
  if q.state = 0 ∨ q.state = 6 then s
  else
    let st := match bad, badRecv with
      | some b, _ => b.2
      | none, some b => b.2
      | none, none => rest
    let s := s.sendPacket n (q.packet 9 1 q.npsn.toNat [] [])
    let s := s.modQp n fun q => { q with state := 6, errStatus := st, rnrWait := none }
    let s := ((s.failRsigs n).flushSend n bad rest).flushRecv n badRecv
    let s := (s.modQp n fun q => { q with wqes := [], recv := [], ahead := [], unacked := 0 }).dropJobs n
    if cancel then (s.sample xptPn 9).xptLogNow n st psn else (s.raise xptPn 8 3 q.src).xptLog n st psn false

/-- Queue pairs bound to a completion queue. -/
def State.boundQps (s : State) (c : Nat) : List Nat :=
  (s.xpt.qps.filter fun e => decide (e.2.state ≠ 0) && decide (e.2.state ≠ 6) && (e.2.scqn == c || e.2.rcqn == c)).map (·.1)

/-- Queue pairs of the completion queues that have overflowed enter ERROR, and so on until no more overflow (R324). -/
def State.cqSettle (s : State) (fuel : Nat) : State :=
  match fuel with
  | 0 => s
  | fuel + 1 =>
    match s.xpt.cqOvf with
    | [] => s
    | c :: rest =>
      let s := s.modXpt fun x => { x with cqOvf := rest }
      State.cqSettle (s.each (s.boundQps c) fun s n => s.toError n none 3 none (s.qp n).una false) fuel

/-- What ends every command of the transport: each queue pair overflows at most its two completion queues. -/
def State.xptEnd (s : State) : State := s.cqSettle (2 * s.xpt.qps.length + 1)

/-! ## Sending requests (R327, R330, R345) -/

/-- Packet i of a WQE: its headers and payload; none where its payload cannot be read. -/
def State.wqePacket (s : State) (n : Nat) (w : Wqe) (i : Nat) : State × Option Packet :=
  let q := s.qp n
  let v := w.words
  let op := wqOp v
  let mtu := q.pmtu
  let m := w.requests q
  let off := i * mtu
  let len := if op = opRead ∨ op = opAtomic then 0 else min mtu (wqLen v - off)
  let r := if len = 0 then (s, (⟨[], false, 0⟩ : Rd)) else s.vSpanRead q.local_ (wqLocal v + off) len 0
  if r.2.err ≠ 0 then (r.1, none)
  else
    let psn := (w.psn + BitVec.ofNat 24 i).toNat
    let word (x : Nat) : Dword := BitVec.ofNat 64 x
    let key := wqRkey v
    let ext : List Dword :=
      if op = opSend then [word (w.msn.toNat + off * 2 ^ 24)]
      else if op = opAtomic then
        [word (wqRemote v + wqNma v * 2 ^ 48), word (key + wqLen v % 8 * 2 ^ 32), nth 0 v 5, nth 0 v 6]
      else if op = opRake then
        [word (wqRemote v % 16 + w.attempt.toNat * 16 + off * 2 ^ 32), word (wqLen v)]
      else
        [word (wqRemote v + off + (if op = opAdd then wqNma v else 0) * 2 ^ 48), word (key + wqLen v * 2 ^ 32),
          word (if op = opRead then 0 else wqRsig v)]
    let last := i + 1 == m
    let k := q.packet op (if key = 0xFFFFFFFF ∧ op ≠ opSend ∧ op ≠ opRake then 2 else 0) psn ext r.2.data
    (r.1, some { k with first := i == 0, last := last, ackreq := last || psn % 32 == 31, poison := r.2.poison })

/-- Packet i of a WQE is sent; where its payload cannot be read the WQE fails with LOC_FAULT. -/
def State.sendPart (s : State) (n : Nat) (w : Wqe) (i : Nat) : State :=
  let r := s.wqePacket n w i
  match r.2 with
  | some k => r.1.sendPacket n k
  | none => r.1.modWqe n w.index fun x => { x with fail := 10 }

/-- READ_REQ or ATOMIC packets sent and not answered. -/
def Qp.outstanding (q : Qp) (op : Nat) : Nat :=
  (q.wqes.filter fun w => wqOp w.words == op && seqLt w.psn q.npsn && (w.unanswered q).isSome).length

/-- Packets go while the window is open (R327). -/
def State.pump (s : State) (n fuel : Nat) : State :=
  match fuel with
  | 0 => s
  | fuel + 1 =>
    let q := s.qp n
    if !q.requests ∨ q.rnrWait.isSome ∨ q.npsn = q.endPsn ∨ min (q.cwnd / 256) q.wndMax ≤ (q.npsn - q.una).toNat
      ∨ (q.wqes.any fun w => w.fail != 0) then s
    else
      match q.wqes.find? fun w => w.holds q.npsn with
      | none => s
      | some w =>
        let op := wqOp w.words
        if (op = opRead ∧ 16 ≤ q.outstanding op) ∨ (op = opAtomic ∧ 4 ≤ q.outstanding op) then s
        else
          let i := (q.npsn - w.psn).toNat
          let took := if i + 1 = w.requests q then w.count - i else 1
          let s := s.sendPart n w i
          let s := if ((s.qp n).wqes.any fun x => x.fail != 0) then s
            else s.modQp n fun x => { x with
              npsn := x.npsn + BitVec.ofNat 24 took, timerAt := if x.una = x.npsn then s.tick else x.timerAt }
          State.pump s n fuel

/-- Send WQEs complete in index order (R323); one that failed, once it is the first, brings ERROR; a DRAIN ends with the
last of those started (Table 13-9). -/
def State.completeLoop (s : State) (n fuel : Nat) : State :=
  match fuel with
  | 0 => s
  | fuel + 1 =>
    let q := s.qp n
    match q.wqes with
    | [] => if q.state = 4 then (s.modQp n fun x => { x with state := 5 }).raise xptPn 10 5 q.src else s
    | w :: _ =>
      if w.fail ≠ 0 then s.toError n (some (w.index, w.fail)) 3 none w.psn false
      else if seqLe (w.psn + BitVec.ofNat 24 w.count) q.una then
        State.completeLoop (s.finishSend n w.index w.words (some w) (if w.stale then 9 else if w.poison then 1 else 0)) n fuel
      else s

/-- What can complete completes, and what the window lets go goes. -/
def State.progress (s : State) (n : Nat) : State :=
  let loop (s : State) := s.completeLoop n ((s.qp n).wqes.length + 1)
  loop ((loop s).pump n 4097)

/-! ## Starting (R323, R326, R343) -/

/-- What makes a WQE complete LOC_INVALID before anything is read of its data (R321, R326, R342, R343, Table 13-10). -/
def badWqe (q : Qp) (n : Nat) (v : List Dword) : Bool :=
  let op := wqOp v
  let len := wqLen v
  let rsig := op == opWrite || op == opAdd
  badSig (fld (nth 0 v 4) 0 32) || badSig (fld (nth 0 v 4) 32 32) || fld (nth 0 v 7) 0 2 == 3
  || (if op = opSend then n == 0 && len != 64
      else n == 0
        || (rsig && (len == 0 || badSig (wqRsig v) || (wqRsig v != 0 && decide (q.version < 0x101))))
        || (op == opRead && len == 0)
        || (op == opAdd && (decide (q.version < 0x101) || decide (6 < wqNma v) || len % max 1 (nmaWidth (wqNma v)) != 0))
        || (op == opAtomic && (decide (wqNma v < 8) || decide (12 < wqNma v) || len != nmaWidth (wqNma v)))
        || (op == opRake && (decide (q.major < 2) || wqRemote v / 16 != 0 || nth 0 v 3 != 0 || wqLocal v % 32 != 0
              || wqGather v % 64 != 0))
        || !([opWrite, opRead, opAtomic, opAdd, opRake].contains op))

/-- The wait of a WQE is satisfied (R323). -/
def State.wkindMet (s : State) (v : List Dword) : Bool :=
  let d := nth 0 v 7
  match fld d 0 2 with
  | 1 => s.waitMet (fld d 2 8) [] ⟨0, fld d 10 6, 2, true, fld d 32 23⟩
  | 2 => reached (s.qp (fld d 16 16)).sqDone.toNat (fld d 32 23)
  | _ => true

/-- A rake's sizes are checked: the record size, or the status with which it fails. -/
def State.rakeCheck (s : State) (n : Nat) (v : List Dword) : State × (Nat ⊕ Nat) :=
  let q := s.qp n
  let r := s.vSpanRead q.local_ (wqLocal v) 128 0
  if r.2.err ≠ 0 ∨ r.2.poison then (r.1, .inr 10)
  else
    let z := rakeSizes r.2.data
    let t := r.1.translate none q.local_.ctx (wqGather v)
    let home := t.2.1 == 0 && !t.2.2.brine && saDev t.2.2.frame == t.1.dev && saSpace t.2.2.frame == 0
    if wqLen v ≠ z.1 ∨ wqStride v < z.2 ∨ !home then (t.1, .inr 11) else (t.1, .inl z.2)

/-- The WQE as it starts: its PSNs, or the status with which it fails. -/
def State.makeWqe (s : State) (n : Nat) (v : List Dword) : State × Wqe :=
  let q := s.qp n
  let w : Wqe := { index := q.sqHead, words := v, psn := q.endPsn, count := 0, got := [], slot := none, attempt := 0,
                   poison := false, stale := false, msn := q.msn, size := wqLen v, fail := 0 }
  let op := wqOp v
  let p := packetsFor q.pmtu (wqLen v)
  let failed (s : State) (st : Nat) : State × Wqe :=
    let z := if op = opRake then s.rakeRecord n v else (s, w.size)
    (z.1, { w with fail := st, size := z.2 })
  if badWqe q n v then failed s 11
  else if op = opRake then
    let r := s.rakeCheck n v
    match r.2 with
    | .inr st => failed r.1 st
    | .inl size => (r.1, { w with size := size, count := p - 1 + packetsFor q.pmtu size })
  else (s, { w with count := if op = opAtomic then 1 else p })

/-- The versions that the transport advertises: its LOWEST, and the lower of its HIGHEST and its BLK_PROTO_LIMIT (R55, R326). -/
def State.xptVersions (s : State) : Nat × Nat :=
  (fld (s.r32 (blkProto xptPn)) 16 16, min (fld (s.r32 (blkProto xptPn)) 0 16) (s.rf (blkProtoLimit xptPn) 0 16))

/-- The firmware's REQ advertises the transport's versions, whatever the buffer of its WQE holds there (Table 13-14; log 142). -/
def State.cmAdvertise (s : State) (b : List Byte) : List Byte :=
  if b.take 1 ≠ [1] then b
  else b.take 0xE ++ bytesLE 2 s.xptVersions.1 ++ bytesLE 2 s.xptVersions.2 ++ b.drop 0x12

/-- A SEND of QP 0 sends one CM packet, which nothing acknowledges (R326). -/
def State.sendCm (s : State) (w : Wqe) : State :=
  let q := s.qp 0
  let r := s.vSpanRead q.local_ (wqLocal w.words) 64 0
  if r.2.err ≠ 0 then r.1.toError 0 (some (w.index, 10)) 3 none 0 false
  else
    let k := { q.packet 0xA 3 0 [] (if s.running then s.cmAdvertise r.2.data else r.2.data) with
      dstQpn := 0, dstDev := BitVec.ofNat 10 (wqRemote w.words), poison := r.2.poison }
    (r.1.sendPacket 0 k).finishSend 0 w.index w.words (some w) 0

/-- The next WQE of a queue starts, if it is of the operation that the command names (R323). SEND takes the WQEs that
cannot be read or whose opcode is no operation's. -/
def State.startWqe (s : State) (n op : Nat) : State :=
  let q := s.qp n
  if q.state ≠ 3 ∨ s.pwr.tripped ∨ q.sqHead = q.sqTail ∨ (q.wqes.any fun w => w.fail != 0) then s
  else
    let r := s.readSq n q.sqHead
    let start (s : State) (w : Wqe) : State :=
      (s.modQp n fun q => { q with wqes := q.wqes ++ [w], sqHead := q.sqHead + 1 })
    match r.2 with
    | none =>
      if op ≠ opSend then s
      else
        let m := r.1.makeWqe n []
        (((start m.1 { m.2 with fail := 10, count := 0 }).progress n).xptEnd)
    | some v =>
      let known := [opWrite, opRead, opAtomic, opAdd, opRake].contains (wqOp v)
      let fenced := fld (nth 0 v 0) 9 1 == 1 && q.wqes.any fun w => wqOp w.words == opRead || wqOp w.words == opAtomic
      if (if known then wqOp v ≠ op else op ≠ opSend) ∨ !s.wkindMet v ∨ fenced then s
      else
        let m := r.1.makeWqe n v
        let s := start m.1 m.2
        let s := if wqOp v = opSend then s.modQp n fun q => { q with msn := q.msn + 1 } else s
        if n = 0 ∧ m.2.fail = 0 then (s.sendCm m.2).xptEnd else (s.progress n).xptEnd

/-! ## Resending (R330, R331, R352) -/

/-- What was sent of a WQE from a PSN on is sent again: a READ or ATOMIC that is not answered, and a rake, whole. A rake
raises its ATTEMPT and discards what it had of the reply. -/
def State.resendWqe (s : State) (n : Nat) (w : Wqe) (from_ upTo : BitVec 24) : State :=
  let q := s.qp n
  let op := wqOp w.words
  let sent := (List.range (w.requests q)).filter fun i => seqLt (w.psn + BitVec.ofNat 24 i) q.npsn
  let again (s : State) (w : Wqe) (l : List Nat) : State := (s.each l fun s i => s.sendPart n w i).count Reg.xptRetxCnt l.length
  if op = opRead ∨ op = opAtomic then if (w.unanswered q).isSome then again s w sent else s
  else if op = opRake then
    let w := { w with attempt := w.attempt + 1, got := [], poison := false }
    again (s.modWqe n w.index fun _ => w) w sent
  else
    again s w (sent.filter fun i => seqLe from_ (w.psn + BitVec.ofNat 24 i) && seqLe (w.psn + BitVec.ofNat 24 i) upTo)

/-- Everything sent from a PSN up to a PSN is sent again. -/
def State.resendRange (s : State) (n : Nat) (from_ upTo : BitVec 24) : State :=
  let q := s.qp n
  s.each (q.wqes.filter fun w => seqLt w.psn q.npsn && seqLe w.psn upTo && seqLt from_ (w.psn + BitVec.ofNat 24 w.count))
    fun s w => s.resendWqe n w from_ upTo

def State.resendFrom (s : State) (n : Nat) (psn : BitVec 24) : State := s.resendRange n psn ((s.qp n).npsn - 1)

/-! ## Acknowledgements (R330 to R332, Table 13-15) -/

/-- The window after an acknowledgement of k packets (R332); c is in 1/256 packets. -/
def Qp.grow (q : Qp) (cfg : Word) (k : Nat) (ece : Bool) : Qp :=
  let cap := 256 * q.wndMax
  if !ece then
    { q with cwnd := min cap (if q.cwnd < q.ssthresh then q.cwnd + 256 * k else q.cwnd + 4096 * k * fld cfg 24 8 / max 1 q.cwnd) }
  else if seqLt q.recover q.una then
    let c := max 256 (q.cwnd * (256 - fld cfg 16 8) / 256)
    { q with cwnd := min cap c, ssthresh := c, recover := q.npsn }
  else { q with cwnd := min cap q.cwnd }

/-- UNA advances to a PSN, but not past the first part of a reply that is still to come. -/
def State.ackTo (s : State) (n : Nat) (psn : BitVec 24) (ece : Bool) : State :=
  let q := s.qp n
  if (q.npsn - q.una).toNat < (psn - q.una).toNat then s
  else
    let una := match q.wqes.filterMap fun w => w.unanswered q with
      | c :: _ => if seqLt c psn then c else psn
      | [] => psn
    let k := (una - q.una).toNat
    if k = 0 ∨ 2 ^ 23 ≤ k then s
    else s.modQp n fun q =>
      { ({ q with una := una } : Qp).grow (s.r32 Reg.xptCcCfg) k ece with
        retries := 0, rnrs := 0, timerMul := 1, timerAt := s.tick }

/-- A fatal refusal of the WQE that holds a PSN. -/
def State.refused (s : State) (n st : Nat) (psn : BitVec 24) : State :=
  match (s.qp n).wqes.find? fun w => w.holds psn with
  | some w => s.toError n (some (w.index, st)) 3 none psn false
  | none => s

/-- PSN of a sequence that is outstanding. -/
def Qp.inFlight (q : Qp) (psn : BitVec 24) : Bool := decide ((psn - q.una).toNat < (q.npsn - q.una).toNat)

/-- PSNs that a SACK marks as received. -/
def sackMarks (psn : BitVec 24) (w1 w2 : Dword) : List (BitVec 24) :=
  ((List.range 128).filter fun i => if i < 64 then w1.getLsbD i else w2.getLsbD (i - 64)).map
    fun i => psn + BitVec.ofNat 24 (1 + i)

/-- A SACK: what lies unmarked below the highest mark is sent again, once until RTO, and the first loss since recover
halves the window. -/
def State.sack (s : State) (n : Nat) (psn : BitVec 24) (w1 w2 : Dword) (ece : Bool) : State :=
  let s := s.ackTo n psn ece
  let q := s.qp n
  let marks := sackMarks psn w1 w2
  match marks.getLast? with
  | none => s
  | some top =>
    let lost := ((List.range 129).map fun i => psn + BitVec.ofNat 24 i).filter fun p =>
      seqLt p top && !marks.contains p && q.inFlight p
    if lost.isEmpty then s
    else
      let s := if seqLt q.recover q.una then
          s.modQp n fun q => { q with cwnd := max 256 (q.cwnd / 2), ssthresh := max 256 (q.cwnd / 2), recover := q.npsn }
        else s
      let again := lost.filter fun p => !q.sackSent.contains p
      -- a request that takes several PSNs is resent at the first of them that is lost
      let starts := again.filter fun p => match q.wqes.find? fun w => w.holds p with
        | some w => decide (w.requests q = w.count) ||
            (again.find? fun x => w.holds x) == some p
        | none => false
      let s := s.each starts fun s p => s.resendRange n p p
      s.modQp n fun q => { q with sackSent := q.sackSent ++ again }

/-- An ACK packet at the requester, by its CODE; one for a PSN outside [UNA, NPSN] is ignored (R331). -/
def State.aeth (s : State) (n : Nat) (w0 w1 w2 : Dword) : State :=
  let q := s.qp n
  let psn := BitVec.ofNat 24 (fld w0 0 24)
  let ece := w0.getLsbD 32
  if fld w0 24 8 ≤ 7 ∧ (q.npsn - q.una).toNat < (psn - q.una).toNat then s else
  match fld w0 24 8 with
  | 0 => s.ackTo n psn ece
  | 1 => s.sack n psn w1 w2 ece
  | 2 =>
    if !q.inFlight psn then s
    else if q.rnrMax ≠ 7 ∧ q.rnrMax < q.rnrs + 1 then s.refused n 5 psn
    else s.modQp n fun q => { q with rnrs := q.rnrs + 1, rnrWait := some (psn, s.tick + q.rnrDelay) }
  | 3 => if q.inFlight psn then s.resendFrom n psn else s
  | 4 => if q.inFlight psn then s.refused n 6 psn else s
  | 5 =>
    match q.wqes.find? fun w => w.holds psn with
    | some w =>
      let s := s.modWqe n w.index fun w => { w with stale := true }
      if psn = q.una ∨ w.requests q ≠ w.count then
        if q.inFlight psn ∧ seqLe w.psn q.una then s.ackTo n (if w.requests q = w.count then psn + 1 else w.psn + BitVec.ofNat 24 w.count) ece
        else s
      else s
    | none => s
  | 6 => if q.inFlight psn then s.refused n 7 psn else s
  | 7 => if q.inFlight psn then s.refused n 8 psn else s
  | _ => s.count Reg.xptDropCnt 1

/-- READ_RESP: the part that its PSN names is written at its place (R335). -/
def State.readResp (s : State) (n : Nat) (k : Packet) : State :=
  let q := s.qp n
  match q.wqes.find? fun w => wqOp w.words == opRead && w.holds k.psn && seqLt w.psn q.npsn with
  | none => s
  | some w =>
    let i := (k.psn - w.psn).toNat
    let want := min q.pmtu (wqLen w.words - i * q.pmtu)
    if w.stale ∨ w.got.contains i ∨ (q.goBackN ∧ i ≠ w.got.length) ∨ k.payload.length ≠ want then s
    else
      let r := s.vSpanWrite q.local_ (wqLocal w.words + i * q.pmtu) 0 k.payload k.poison
      let s := r.1.modWqe n w.index fun w =>
        { w with got := w.got ++ [i], poison := w.poison || k.poison, fail := if r.2 ≠ 0 then 10 else w.fail }
      (s.ackTo n (({ w with got := w.got ++ [i] } : Wqe).answered q) false).progress n

/-- ATOMIC_RESP: the old value is written to LOCAL_VA (R336). -/
def State.atomicResp (s : State) (n : Nat) (k : Packet) : State :=
  let q := s.qp n
  match q.wqes.find? fun w => wqOp w.words == opAtomic && w.holds k.psn && seqLt w.psn q.npsn with
  | none => s
  | some w =>
    if w.stale ∨ !w.got.isEmpty ∨ k.payload.length ≠ 8 then s
    else
      let r := s.vSpanWrite q.local_ (wqLocal w.words) 0 (k.payload.take (wqLen w.words)) k.poison
      let s := r.1.modWqe n w.index fun w =>
        { w with got := [0], poison := w.poison || k.poison, fail := if r.2 ≠ 0 then 10 else w.fail }
      (s.ackTo n (k.psn + 1) ((nth 0 k.ext 0).getLsbD 32)).progress n

/-- RAKE_RESP of the current attempt: the first claims a gather slot, each is placed in it; others are stale (R352). -/
def State.rakeResp (s : State) (n : Nat) (k : Packet) : State :=
  let q := s.qp n
  match q.wqes.find? fun w => wqOp w.words == opRake && w.holds k.psn && seqLt w.psn q.npsn with
  | none => s
  | some w =>
    let h := nth 0 k.ext 0
    let p := w.parts q
    let i := (k.psn - w.psn).toNat - p.2
    let bad := (k.psn - w.psn).toNat < p.2 ∨ fld h 0 2 = 3 ∨ k.payload.length ≠ min q.pmtu (w.size - i * q.pmtu)
    if fld h 16 4 ≠ w.attempt.toNat then s.count Reg.xptStaleCnt 1
    else if bad then s.count Reg.xptDropCnt 1
    else if w.stale ∨ w.got.contains i then s
    else
      let c := match w.slot with
        | some j => (s, some j)
        | none => s.claimSlot n w.words
      match c.2 with
      | none => (c.1.modWqe n w.index fun w => { w with fail := 10 }).progress n
      | some j =>
        let r := c.1.vSpanWrite q.local_ (wqGather w.words + 64 + j * wqStride w.words + i * q.pmtu) 0 k.payload k.poison
        let s := r.1.modWqe n w.index fun w =>
          { w with slot := some j, got := w.got ++ [i], poison := w.poison || k.poison || fld h 0 2 != 0
                   fail := if r.2 ≠ 0 then 10 else w.fail }
        (s.ackTo n (({ w with got := w.got ++ [i] } : Wqe).answered q) false).progress n

/-! ## Timers (R330, R331) -/

/-- The timer of a queue pair is held: its port is DOWN by graceful disable (R340). -/
def State.timerHeld (s : State) (q : Qp) : Bool := s.portState q.port == 0 && (s.port q.port).graceful

/-- A boundary passes for the timers that are held: they start a tick later. -/
def State.holdTimers (s : State) : State :=
  s.modXpt fun x => { x with
    qps := x.qps.map fun e => (e.1, if s.timerHeld e.2 then { e.2 with timerAt := e.2.timerAt + 1 } else e.2) }

/-- The retransmit timer expires. -/
def State.retransmit (s : State) (n : Nat) : State :=
  let q := s.qp n
  if !q.requests ∨ q.una = q.npsn ∨ s.timerHeld q ∨ s.tick < q.timerAt + q.timerMul * q.rto then s
  else
    let s := if q.goBackN then s.resendFrom n q.una else s.resendRange n q.una q.una
    let s := s.modQp n fun q => { q with
      retries := q.retries + 1, timerMul := min 64 (2 * q.timerMul), timerAt := s.tick, sackSent := []
      ssthresh := max 512 (q.cwnd / 2), cwnd := 256 }
    if q.retryMax < q.retries + 1 then
      match (s.qp n).wqes with
      | w :: _ => (s.toError n (some (w.index, 4)) 3 none q.una false).xptEnd
      | [] => s
    else (s.progress n).xptEnd

/-- The delay after an RNR ends: everything from its PSN is sent again. -/
def State.rnrExpiry (s : State) (n : Nat) : State :=
  let q := s.qp n
  match q.rnrWait with
  | none => s
  | some (psn, t) =>
    if !q.requests ∨ s.tick < t then s
    else (((s.modQp n fun q => { q with rnrWait := none }).resendFrom n psn).progress n).xptEnd

/-! ## Doorbell (R322) -/

/-- The ring rules of R58 for a tail. -/
def tailOk (v done head : Word) (size : Nat) : Bool :=
  decide (wrapDist v done ≤ size) && decide (wrapDist head done ≤ wrapDist v done)

/-- A write of either half of a doorbell, or of both. -/
def State.ring (s : State) (n : Nat) (lo hi : Bool) (v : Dword) : State :=
  if (s.qp n).state = 0 then s
  else
    let sq : Word := v.setWidth 32
    let rq : Word := (v >>> 32).setWidth 32
    let ovf (s : State) := s.raise xptPn 14 10 264
    let s := if !lo then s
      else
        let q := s.qp n
        if tailOk sq q.sqDone q.sqHead (2 ^ q.sqSize) then s.modQp n fun q => { q with sqTail := sq } else ovf s
    let s := if !hi then s
      else
        let q := s.qp n
        if tailOk rq q.rqDone q.rqHead (if q.rqSize = 0 then 0 else 2 ^ q.rqSize) then s.modQp n fun q => { q with rqTail := rq }
        else ovf s
    if (s.qp n).state = 6 then ((s.flushSend n none 3).flushRecv n none).xptEnd else s

/-! ## Queue-pair commands (R319, R320, Tables 13-8 and 13-9) -/

/-- XPT_QP_CMD_STAT after a command. -/
def State.qpStat (s : State) (n : Nat) (err : Bool) : State :=
  s.w32 Reg.xptQpCmdStat (BitVec.ofNat 32 (err.toNat * 2 + (s.qp n).state * 2 ^ 8))

/-- A command that is allowed from some states. -/
def State.qpCmd (s : State) (n : Nat) (from_ : List Nat) (f : State → State) : State :=
  if from_.contains (s.qp n).state then (f s).qpStat n false else s.qpStat n true

/-- The key is in XPT_PKEY_TAB. -/
def State.pkeyKnown (s : State) (key : Nat) : Bool :=
  (List.range 64).any fun i => s.rb (Reg.xptPkeyTab i) 31 && s.rf (Reg.xptPkeyTab i) 0 16 == key

/-- A reserved encoding of the context, or a version that no part of this stepping publishes (Tables 13-7 and 3-14). -/
def Qp.badContext (q : Qp) : Bool :=
  q.c 0 6 2 == 3 || decide (q.sqSize < 4) || decide (16 < q.sqSize)
  || (q.rqSize != 0 && (decide (q.rqSize < 4) || decide (16 < q.rqSize)))
  || q.rto == 0 || q.wndMax == 0 || decide (4096 < q.wndMax) || !([0x100, 0x101, 0x200].contains q.version)

/-- INIT: bytes 0x00 to 0x3F of the context are read, and sequence numbers and window set (R319, R332). -/
def State.qpInit (s : State) (n : Nat) : State :=
  if (s.qp n).state ≠ 0 then s.qpStat n true
  else
    let r := s.tableRead Reg.xptQpcBase (256 * n) 64 (s.qp n).src
    let s := r.1
    let q : Qp := { Qp.reset with
      ctx := (List.range 8).map fun i => BitVec.ofNat 64 (natLE (slice r.2.data (8 * i) 8)) }
    if r.2.err ≠ 0 ∨ r.2.poison ∨ q.badContext ∨ !s.pkeyKnown q.pkey then s.qpStat n true
    else (s.setQp n { q with
      state := 1, port := q.c 0 1 3, npsn := q.spsn, una := q.spsn, epsn := q.rpsn, recover := q.spsn - 1,
      cwnd := 256 * s.rf Reg.xptCcCfg 0 13, ssthresh := 256 * q.wndMax }).qpStat n false

def State.qpRtr (s : State) (n : Nat) : State := s.qpCmd n [1] fun s => s.modQp n fun q => { q with state := 2 }
def State.qpRts (s : State) (n : Nat) : State := s.qpCmd n [2, 5] fun s => s.modQp n fun q => { q with state := 3 }

/-- DRAIN: with no WQE started it reaches DRAINED at once. -/
def State.qpDrain (s : State) (n : Nat) : State :=
  s.qpCmd n [3] fun s => (s.modQp n fun q => { q with state := 4 }).completeLoop n 1

/-- FORCE awaits its boundary (R339). -/
def State.qpForce (s : State) (n : Nat) : State :=
  s.qpCmd n [1, 2, 3, 4, 5] fun s => s.modQp n fun q => { q with forcePend := true }

/-- A queue pair is forced: every WQE not completed completes CANCELLED (R339). -/
def State.qpForced (s : State) (n : Nat) : State := (s.toError n none 2 none (s.qp n).una true).xptEnd

/-- The boundary of a FORCE. A queue pair already in ERROR is left so, and the FORCE is answered as refused in that state (R18,
log 139). -/
def State.qpCancel (s : State) (n : Nat) : State :=
  let s := s.modQp n fun q => { q with forcePend := false }
  if (s.qp n).state = 6 then s.qpStat n true else (s.qpForced n).qpStat n false

def State.qpReset (s : State) (n : Nat) : State := s.qpCmd n [1, 2, 5, 6] fun s =>
  ((s.setQp n Qp.reset).dropJobs n).modSrv fun v => { v with conns := v.conns.filter fun c => c.qpn != n }

/-- MIGRATE: what is not acknowledged is sent again on the new port. -/
def State.migrate (s : State) (n port : Nat) : State :=
  s.qpCmd n [3, 4, 5] fun s =>
    let s := s.modQp n fun q => { q with port := port }
    if (s.qp n).requests then ((s.resendFrom n (s.qp n).una).progress n).xptEnd else s

end Sys2Proof.Machine
end

