-- ==== Sys2Proof/Machine/Responder.lean ====
section
/-! DEFINITION. The responder of the transport (R312 to R318, R326, R328 to R330, R333 to R337): what a received packet must
meet, regions and their keys, the placing of requests, duplicates, acknowledgements, and region commands. -/
namespace Sys2Proof.Machine

/-- A register access as a remote operation performs it (R40): requester, write or read, access; none where refused. -/
abbrev RegPort := State → Requester → Bool → RegAcc → State × Option Dword

/-! ## Regions (R315 to R317, Table 13-6) -/

structure Region where
  state : Nat
  rd : Bool
  wr : Bool
  atom : Bool
  ctx : Nat
  gen : Nat
  pkey : Nat
  va : Nat
  length : Nat
  inflight : Nat
deriving DecidableEq, Repr

def regionOf (b : List Byte) : Region :=
  let w0 := natLE (slice b 0 8)
  { state := w0 % 4, rd := w0 / 4 % 2 == 1, wr := w0 / 8 % 2 == 1, atom := w0 / 16 % 2 == 1, ctx := w0 / 64 % 64,
    gen := w0 / 2 ^ 12 % 4096, pkey := w0 / 2 ^ 32 % 65536, va := natLE (slice b 8 6), length := natLE (slice b 16 6),
    inflight := natLE (slice b 24 4) }

def State.rgnEntries (s : State) : Nat := 2 ^ min 20 (s.rf Reg.xptRgnCfg 0 5)

/-- Entry i; false where it cannot be read. -/
def State.region (s : State) (i src : Nat) : State × Region × Bool :=
  let r := s.tableRead Reg.xptRgnBase (32 * i) 32 src
  (r.1, regionOf r.2.data, r.2.err == 0 && !r.2.poison)

/-- What a request asks of its region. -/
inductive Perm where
  | rd | wr | atom
deriving DecidableEq, Repr

/-- The check of a key (R317): 0 accepted, else the AETH code of the refusal; an entry that cannot be read refuses with
NAK_REMOTE (log 33). -/
def State.keyCheck (s : State) (rkey off len pkey src : Nat) (p : Perm) : State × Nat × Region :=
  let i := rkey % 2 ^ 20
  if s.rgnEntries ≤ i then (s, 5, regionOf [])
  else
    let r := s.region i src
    let g := r.2.1
    let may := match p with | .rd => g.rd | .wr => g.wr | .atom => g.atom
    let code :=
      if !r.2.2 then 7
      else if g.gen ≠ rkey / 2 ^ 20 then 5
      else if g.state ≠ 1 ∨ !may ∨ g.pkey ≠ pkey ∨ g.length < off + len then 4
      else 0
    (r.1, code, g)

/-- The AETH code for a REASON of the memory path: what the region may not reach is refused, what fails is NAK_REMOTE. -/
def nakOf (reason : Nat) : Nat := if 8 ≤ reason ∧ reason ≤ 10 then 4 else 7

/-- The translation made at acceptance: every page of a packet's bytes, with its space and permission (R317). -/
def State.canReach (s : State) (a : Acc) (va n : Nat) (write : Bool) : State × Nat :=
  [va, va + n - 1].foldl (fun acc x =>
    if acc.2 ≠ 0 then acc
    else
      let r := acc.1.translate a.who a.ctx x
      let t := r.2.2
      (r.1, if r.2.1 ≠ 0 ∧ (r.2.1 < 8 ∨ !write) then r.2.1 else if write ∧ !t.w then 8 else if write ∧ t.brine then 9
        else if t.brine then 0 else (r.1.reach a t x).1)) (s, 0)

/-- REGISTER (R316). -/
def State.registerRegion (s : State) (i : Nat) : State :=
  if s.rb Reg.xptRgnStat 0 then s.wb Reg.xptRgnStat 1 true
  else
    let r := s.region i rgnSrc
    let g := r.2.1
    let s := r.1.raise xptPn 12 5 264
    if !r.2.2 ∨ s.rgnEntries ≤ i ∨ i = 0xFFFFF ∨ g.state ≠ 0 then s.w32 Reg.xptRgnStat 2
    else
      let gen := (g.gen + 1) % 4096
      let w := s.tableRead Reg.xptRgnBase (32 * i) 8 rgnSrc
      let w0 := putFld (putFld (BitVec.ofNat 64 (natLE w.2.data)) 12 12 gen) 0 2 1
      ((w.1.tableWrite Reg.xptRgnBase (32 * i) rgnSrc (bytesLE 8 w0.toNat)).w32 Reg.xptRgnStat 0).w32 Reg.xptRgnKey
        (BitVec.ofNat 32 (gen * 2 ^ 20 + i))

def State.setRegion (s : State) (i st : Nat) : State :=
  let w := s.tableRead Reg.xptRgnBase (32 * i) 8 rgnSrc
  w.1.tableWrite Reg.xptRgnBase (32 * i) rgnSrc (bytesLE 8 (putFld (BitVec.ofNat 64 (natLE w.2.data)) 0 2 st).toNat)

/-- REVOKE: the fence (R316). -/
def State.revokeFence (s : State) (i : Nat) : State :=
  if s.rb Reg.xptRgnStat 0 then s.wb Reg.xptRgnStat 1 true
  else
    let r := s.region i rgnSrc
    if !r.2.2 ∨ s.rgnEntries ≤ i ∨ r.2.1.state ≠ 1 then (r.1.raise xptPn 12 5 264).w32 Reg.xptRgnStat 2
    else ((r.1.setRegion i 2).w32 Reg.xptRgnStat 1).modXpt fun x => { x with rgn := some (i, 2) }

/-- A REVOKE completes once INFLIGHT reads 0. -/
def State.revokeDone (s : State) : State :=
  match s.xpt.rgn with
  | none => s
  | some (i, _) =>
    let r := s.region i rgnSrc
    if r.2.1.inflight ≠ 0 then s
    else (((r.1.setRegion i 0).wb Reg.xptRgnStat 0 false).modXpt fun x => { x with rgn := none }).raise xptPn 12 5 264

/-! ## Acknowledgements (R328, R330) -/

/-- An ACK packet with an AETH. -/
def State.sendAeth (s : State) (n code : Nat) (psn : BitVec 24) (marks : BitVec 128) : State :=
  let q := s.qp n
  if !q.responds then s
  else s.sendPacket n (q.packet 8 1 psn.toNat
    [BitVec.ofNat 64 (psn.toNat + code * 2 ^ 24 + q.ece.toNat * 2 ^ 32), marks.setWidth 64, (marks >>> 64).setWidth 64] [])

/-- What the responder has performed is acknowledged, by SACK where packets lie above ePSN. -/
def State.ackNow (s : State) (n : Nat) (always : Bool) : State :=
  let q := s.qp n
  if !q.responds then s
  else
    let marks := q.ahead.foldl (fun m p =>
      let i := (p - q.epsn).toNat - 1
      if i < 128 then m ||| BitVec.ofNat 128 (2 ^ i) else m) (0 : BitVec 128)
    (s.sendAeth n (if always ∨ !q.ahead.isEmpty then 1 else 0) q.epsn marks).modQp n fun q =>
      { q with unacked := 0, ece := false }

/-- The status that a refusal is recorded with (Table 13-15). -/
def nakStatus (code : Nat) : Nat := match code with | 4 => 6 | 6 => 7 | _ => 8

/-- A fatal NAK: nothing more is accepted until RESET, the RSIGs of accepted messages carry the error, and the refusal is
recorded (R330). -/
def State.fatalNak (s : State) (n code : Nat) (psn : BitVec 24) : State :=
  let s := s.sendAeth n code psn 0
  ((s.modQp n fun q => { q with shut := true }).failRsigs n).xptLog n (nakStatus code) psn true

/-! ## Receiving (R312, R314, R328) -/

/-- Lowest version that carries an opcode (Table 13-3). -/
def opVersion (op : Nat) : Nat := if op = opAdd then 0x101 else if 0x10 ≤ op then 0x200 else 0x100

/-- An opcode that no version carries (Table 13-3). -/
def opReserved (op : Nat) : Bool := !([0, 1, 2, 3, 4, 5, 6, 8, 9, 0xA, 0x10, 0x11].contains op)

/-- A packet came with the IP address and UDP port of port p (R312). -/
def State.addressed (s : State) (p : Nat) (k : Packet) : Bool :=
  match k.ip with
  | none => false
  | some h =>
    let own := if h.v6 then (s.r64 (Reg.xptIp6Addr p + 8)).toNat * 2 ^ 64 + (s.r64 (Reg.xptIp6Addr p)).toNat
      else (s.r32 (Reg.xptIp4Addr p)).toNat
    h.dst.toNat == own && h.dport.toNat == s.rf Reg.xptUdpPort 0 16

/-- A packet marked by what it passed through: CE of its header, or of the IP header (R312). -/
def marked (k : Packet) : Bool := k.ce || k.ip.any (·.ce)

/-- What any packet is refused with NAK_INVALID for: an opcode absent from the agreed version, reserved bits that are not zero
(R309, R330). -/
def State.refuseForm (s : State) (n : Nat) (k : Packet) : State := if (s.qp n).shut then s else s.fatalNak n 6 k.psn

/-- The answer to a forwarded register access, which goes through queue pair 0: software gives its context GTX_PEER_DEV as PEER_DEV and
GTX_PEER_PKEY as PKEY, by which R312 and R314 judge it (DESIGN CHOICE, log 28). -/
def forwardedReply (k : Packet) : Bool := k.dstQpn == 0 && k.tc == 2 && (k.opcode == 3 || k.opcode == 8)

/-- A packet of an opcode at a port that is UP: dropped and counted by R312, or by R314 for its key, or passed on. One whose opcode
is reserved is refused, whatever command brings it. -/
def State.takePacket (s : State) (p op : Nat) (k : Packet) (f : State → Nat → State) : State :=
  let n := k.dstQpn.toNat
  let q := s.qp n
  let cm := k.opcode == 0xA
  if (k.opcode.toNat ≠ op ∧ !opReserved k.opcode.toNat) ∨ s.portState p ≠ 5 then s
  else if k.dstDev.toNat ≠ s.dev ∨ k.pcrc ≠ pcrcOf k ∨ (s.ethernet p ∧ !s.addressed p k) ∨ k.ver.toNat ≠ q.major
      ∨ q.state = 0 ∨ q.state = 1 ∨ q.state = 6
      ∨ (!cm ∧ (k.srcDev.toNat ≠ q.peerDev ∨ k.srcQpn.toNat ≠ q.c 0 32 16)) then s.count Reg.xptDropCnt 1
  else if (if cm then !s.pkeyKnown k.pkey.toNat && (k.pkey.toNat == 0 || k.pkey.toNat != s.rf Reg.xptMgmtPkey 0 16)
      else k.pkey.toNat != q.pkey) then (s.count Reg.xptPkeyCnt 1).raise xptPn 13 10 q.src
  else
    let s := s.countBytes 0 (q.c 0 8 6) 4 k.payload.length
    if opReserved k.opcode.toNat then s.refuseForm n k else f s n

/-- A packet that asks for no answer of its own: dropped where reserved bits are not zero, since the NAKs of R330 answer
requests (log 140). -/
def State.takeAnswer (s : State) (p op : Nat) (k : Packet) (f : State → Nat → State) : State :=
  (s.takePacket p op k fun s n => if k.rsv ≠ 0 then s.count Reg.xptDropCnt 1 else f s n).xptEnd

/-- How a request packet is taken (R328). -/
inductive Take where
  | new | dup | ahead | drop | stale
deriving DecidableEq, Repr

def Qp.classify (q : Qp) (psn : BitVec 24) (placeable : Bool) : Take :=
  let d := (psn - q.epsn).toNat
  if d = 0 then .new
  else if d < 128 ∧ !q.goBackN then if !placeable then .drop else if q.ahead.contains psn then .dup else .new
  else if d < 2 ^ 23 then .ahead
  else if 2 ^ 24 - 4096 ≤ d then .dup
  else .stale

/-- A duplicate is counted and acknowledged again. -/
def State.duplicate (s : State) (n : Nat) : State := (s.count Reg.xptDupCnt 1).ackNow n false

/-- A request packet by its class: new packets and duplicates are the opcode's own matter. -/
def State.request (s : State) (p op : Nat) (k : Packet) (placeable : Bool) (new dup : State → Nat → State) : State :=
  (s.takePacket p op k fun s n =>
    let q := s.qp n
    if q.shut then s
    else if q.version < opVersion op ∨ k.rsv ≠ 0 then s.fatalNak n 6 k.psn
    else match q.classify k.psn placeable with
      | .new => new s n
      | .dup => dup s n
      | .ahead =>
        if !q.goBackN then s.ackNow n true
        else if q.nakSeq then s
        else (s.sendAeth n 3 q.epsn 0).modQp n fun q => { q with nakSeq := true }
      | .drop => s
      | .stale => s.count Reg.xptStaleCnt 1).xptEnd

/-- ePSN past every PSN already received. -/
def advancePsn (fuel : Nat) (e : BitVec 24) (ahead : List (BitVec 24)) : BitVec 24 :=
  match fuel with
  | 0 => e
  | fuel + 1 => if ahead.contains e then advancePsn fuel (e + 1) ahead else e

/-- What ePSN has passed is performed in PSN order: receive WQEs whose LAST packet lies below it, in MSN order, and the RSIGs of
messages that it has passed whole (R323, R333, R334). -/
def State.passed (s : State) (n fuel : Nat) : State :=
  match fuel with
  | 0 => s
  | fuel + 1 =>
    let q := s.qp n
    let m := (q.recv.find? fun m => m.index == q.rqDone).bind fun m =>
      m.last.bind fun l => if seqLt l q.epsn then some (m, l) else none
    let r := q.rsigs.find? fun r => seqLt r.hi q.epsn
    let done (s : State) (x : RecvMsg) := s.finishRecv n x.index x.tag x.lsig (if x.poison then 1 else 0) x.len 0 0
    let signal (s : State) (r : RxSig) :=
      (if q.c 0 4 1 = 1 ∧ !r.stale then s.sendSig r.sig.toNat false else s).modQp n fun q => { q with rsigs := q.rsigs.erase r }
    match m, r with
    | none, none => s
    | some (m, _), none => State.passed (done s m) n fuel
    | none, some r => State.passed (signal s r) n fuel
    | some (m, l), some r => State.passed (if seqLt l r.hi then done s m else signal s r) n fuel

/-- A packet that takes k PSNs has been received and performed: ePSN, receive completions and RSIGs that it passes. -/
def State.received (s : State) (n : Nat) (psn : BitVec 24) (k : Nat) (ce : Bool) : State :=
  let s := s.modQp n fun q =>
    if q.epsn = psn then
      let e := advancePsn 128 (psn + BitVec.ofNat 24 k) q.ahead
      { q with epsn := e, ahead := q.ahead.filter fun p => seqLt e p, nakSeq := false, unacked := q.unacked + 1, ece := q.ece || ce }
    else { q with ahead := q.ahead ++ [psn], unacked := q.unacked + 1, ece := q.ece || ce }
  s.passed n ((s.qp n).recv.length + (s.qp n).rsigs.length + 1)

/-- Acknowledged at once for ACKREQ or LAST and after every 16 packets; else at the next boundary (R330). -/
def State.ackPolicy (s : State) (n : Nat) (k : Packet) : State :=
  if k.ackreq ∨ k.last ∨ 16 ≤ (s.qp n).unacked then s.ackNow n false else s

/-- DELAYED_ACK, at the first boundary after a packet that is not acknowledged (R330). -/
def State.delayedAck (s : State) (n : Nat) : State := if (s.qp n).unacked = 0 then s else s.ackNow n false

/-- RSIGs in the order of the first PSNs known of their messages. -/
def insertSig (x : RxSig) (l : List RxSig) : List RxSig :=
  match l with
  | [] => [x]
  | a :: t => if seqLt x.lo a.lo then x :: a :: t else a :: insertSig x t

/-- PSN p is one of those known of a message. -/
def RxSig.covers (r : RxSig) (p : BitVec 24) : Bool := seqLe r.lo p && seqLe p r.hi

/-- A packet of a message is noted: its RSIG is kept until ePSN has passed the message. The FIRST and the LAST packet tell all of
its PSNs, since each packet carries the message's length; packets between them that carry the same RSIG, and whose places in the
region fit one message, are taken to be of one message (DESIGN CHOICE, log 141). -/
def State.noteSig (s : State) (n : Nat) (k : Packet) (sig off len : Nat) (stale : Bool) : State :=
  let count := packetsFor (s.qp n).pmtu len
  let end_ : BitVec 24 := BitVec.ofNat 24 (count - 1)
  let lo := if k.first then k.psn else if k.last then k.psn - end_ else k.psn
  let x : RxSig := { sig := BitVec.ofNat 32 sig, lo := lo, hi := if k.first then k.psn + end_ else k.psn, whole := k.first || k.last,
                     base := (off + (s.qp n).pmtu * (2 ^ 24 - k.psn.toNat)) % 2 ^ 48, stale := stale }
  let same (r : RxSig) : Bool :=
    r.covers k.psn && r.whole || x.whole && !r.whole && x.covers r.lo
    || !x.whole && !r.whole && r.sig == x.sig && r.base == x.base && decide ((k.psn - r.lo).toNat < count ∨ (r.hi - k.psn).toNat < count)
  s.modQp n fun q =>
    let l := q.rsigs.filter same
    let join (a b : RxSig) : RxSig :=
      if a.whole then { a with stale := a.stale || b.stale } else if b.whole then { b with stale := a.stale || b.stale }
      else { a with lo := if seqLt b.lo a.lo then b.lo else a.lo, hi := if seqLt a.hi b.hi then b.hi else a.hi
                    stale := a.stale || b.stale }
    { q with rsigs := insertSig (l.foldl join x) (q.rsigs.filter fun r => !same r) }

/-- A message's RSIG is kept from the first of its packets that is accepted (R330). -/
def State.keepRsig (s : State) (n : Nat) (k : Packet) (rsig off len : Nat) : State :=
  if rsig = 0 then s else s.noteSig n k rsig off len false

/-- A request refused STALE is consumed as received; its message has no RSIG left (R330). -/
def State.staleKey (s : State) (n : Nat) (k : Packet) (count rsig off len : Nat) : State :=
  let s := if rsig = 0 then s else s.noteSig n k rsig off len true
  (((s.sendAeth n 5 k.psn 0).received n k.psn count (marked k)).ackPolicy n k)

/-! ## WRITE and ADD_WRITE (R334, R337) -/

structure Reth where
  off : Nat
  op : Nat
  key : Nat
  len : Nat
  rsig : Nat
  bad : Bool
deriving DecidableEq, Repr

def rethOf (k : Packet) : Reth :=
  let w (i : Nat) : Dword := nth 0 k.ext i
  { off := fld (w 0) 0 48, op := fld (w 0) 48 4, key := fld (w 1) 0 32, len := fld (w 1) 32 31, rsig := fld (w 2) 0 32,
    bad := k.ext.length != 3 || fld (w 0) 52 12 != 0 || fld (w 1) 63 1 != 0 || fld (w 2) 32 32 != 0 || decide (3 < k.tc.toNat)
      || fld (w 1) 32 31 == 0 }

/-- Elements added in place, line by line; the first error. -/
def State.vAdd (s : State) (a : Acc) (va op : Nat) (b : List Byte) (poison : Bool) : State × Nat :=
  let r := (lineParts (b.length / 128 + 2) va b.length).foldl (fun (acc : State × Nat × Nat) p =>
    if acc.2.1 ≠ 0 then acc
    else
      let w := acc.1.vNma a p.1 op (elems (nmaWidth op) (slice b acc.2.2 p.2)) 0 poison
      (w.1, w.2.err, acc.2.2 + p.2)) (s, 0, 0)
  (r.1, r.2.1)

/-- An operation on register space that R40 refuses: an access NAK, and REG_ACCESS in the page that it names (R39). A write with
poisoned data is refused so too (DESIGN CHOICE, log 115). -/
def State.refuseRemote (s : State) (n off : Nat) (psn : BitVec 24) : State := (s.refuse off).fatalNak n 4 psn

/-- A WRITE to space 3: one access of 4 or 8 bytes under the management key (R40). -/
def State.remoteRegWrite (s : State) (p n : Nat) (k : Packet) (h : Reth) (reg : RegPort) : State :=
  let bad := (h.len ≠ 4 ∧ h.len ≠ 8) ∨ k.payload.length ≠ h.len ∨ !s.mgmtKeyed k.pkey ∨ k.poison
  if bad then s.refuseRemote n h.off k.psn
  else
    let r := reg s (.peer (Fin.ofNat 8 p) k.pkey) true ⟨h.off, h.len, BitVec.ofNat 64 (natLE k.payload)⟩
    match r.2 with
    | none => r.1.fatalNak n 4 k.psn
    | some _ => (((r.1.keepRsig n k h.rsig h.off h.len).received n k.psn 1 (marked k)).ackPolicy n k)

/-- Bytes at a virtual address some of which lie in space 2. -/
def State.leadsToHost (s : State) (a : Acc) (va n : Nat) : Bool :=
  (lineParts (n / 128 + 2) va n).any fun p =>
    let t := s.translate a.who a.ctx p.1
    t.2.1 == 0 && saSpace t.2.2.frame == 2

/-- A WRITE or ADD_WRITE packet that is new (R334, R337). A poisoned one whose region leads to space 2 is refused NAK_REMOTE
(R418). -/
def State.writeNew (s : State) (p n : Nat) (k : Packet) (add : Bool) (reg : RegPort) : State :=
  let q := s.qp n
  let h := rethOf k
  let w := nmaWidth h.op
  if h.bad ∨ k.payload.isEmpty ∨ q.pmtu < k.payload.length ∨ badSig h.rsig ∨ (h.rsig ≠ 0 ∧ q.version < 0x101)
      ∨ (if add then 6 < h.op ∨ k.payload.length % max 1 w ≠ 0 else h.op ≠ 0) then s.fatalNak n 6 k.psn
  else if h.key = 0xFFFFFFFF then if add then s.refuseRemote n h.off k.psn else s.remoteRegWrite p n k h reg
  else
    let c := s.keyCheck h.key h.off k.payload.length k.pkey.toNat q.src (if add then .atom else .wr)
    if c.2.1 = 5 then c.1.staleKey n k 1 h.rsig h.off h.len
    else if c.2.1 ≠ 0 then c.1.fatalNak n c.2.1 k.psn
    else
      let g := c.2.2
      let va := g.va + h.off
      let a := { q.acc g.ctx with spaces := if add then [0] else [0, 1, 2] }
      let t := c.1.canReach a va k.payload.length true
      if k.poison ∧ c.1.leadsToHost a va k.payload.length then t.1.fatalNak n 7 k.psn
      else if t.2 ≠ 0 then t.1.fatalNak n (nakOf t.2) k.psn
      else if add ∧ va % max 1 w ≠ 0 then t.1.fatalNak n 6 k.psn
      else
        let r := if add then t.1.vAdd a va h.op k.payload k.poison else t.1.vSpanWrite a va 0 k.payload k.poison
        if r.2 ≠ 0 then r.1.fatalNak n (nakOf r.2) k.psn
        else (((r.1.keepRsig n k h.rsig h.off h.len).received n k.psn 1 (marked k)).ackPolicy n k)

def State.rxWrite (s : State) (p : Nat) (k : Packet) (add : Bool) (reg : RegPort) : State :=
  s.request p (if add then opAdd else opWrite) k true (fun s n => s.writeNew p n k add reg) State.duplicate

/-! ## READ (R329, R335) -/

/-- The parts of a READ's data: bytes and poison of each response; the first error. -/
def State.readParts (s : State) (a : Acc) (va len mtu : Nat) : State × List (List Byte × Bool) × Nat :=
  (List.range (packetsFor mtu len)).foldl (fun acc i =>
    if acc.2.2 ≠ 0 then acc
    else
      let r := acc.1.vSpanRead a (va + i * mtu) (min mtu (len - i * mtu)) 0
      (r.1, acc.2.1 ++ [(r.2.data, r.2.poison)], r.2.err)) (s, [], 0)

/-- The responses of a READ, from its PSN on. -/
def State.sendParts (s : State) (n : Nat) (psn : BitVec 24) (parts : List (List Byte × Bool)) : State :=
  let q := s.qp n
  if !q.responds then s
  else s.each parts.zipIdx fun s x =>
    s.sendPacket n { q.packet 3 1 (psn + BitVec.ofNat 24 x.2).toNat [] x.1.1 with
      poison := x.1.2, first := x.2 == 0, last := x.2 + 1 == parts.length }

def State.readAny (s : State) (p n : Nat) (k : Packet) (dup : Bool) (reg : RegPort) : State :=
  let q := s.qp n
  let h := rethOf k
  let count := packetsFor q.pmtu h.len
  -- the responses acknowledge every PSN up to their own
  let done (s : State) (parts : List (List Byte × Bool)) : State :=
    let s := s.sendParts n k.psn parts
    if dup then s else (s.received n k.psn count (marked k)).modQp n fun q =>
      { q with unacked := if q.epsn = k.psn + BitVec.ofNat 24 count then 0 else 1 }
  if h.bad ∨ !k.payload.isEmpty ∨ h.op ≠ 0 ∨ h.rsig ≠ 0 then s.fatalNak n 6 k.psn
  else if h.key = 0xFFFFFFFF then
    if (h.len ≠ 4 ∧ h.len ≠ 8) ∨ !s.mgmtKeyed k.pkey then s.refuseRemote n h.off k.psn
    else
      let r := reg s (.peer (Fin.ofNat 8 p) k.pkey) false ⟨h.off, h.len, 0⟩
      match r.2 with
      | none => r.1.fatalNak n 4 k.psn
      | some v => done r.1 [(bytesLE h.len v.toNat, false)]
  else
    let c := s.keyCheck h.key h.off h.len k.pkey.toNat q.src .rd
    if c.2.1 = 5 then
      if dup then c.1.sendAeth n 5 k.psn 0 else c.1.staleKey n k count 0 0 0
    else if c.2.1 ≠ 0 then c.1.fatalNak n c.2.1 k.psn
    else
      let r := c.1.readParts (q.acc c.2.2.ctx) (c.2.2.va + h.off) h.len q.pmtu
      if r.2.2 ≠ 0 then r.1.fatalNak n (nakOf r.2.2) k.psn else done r.1 r.2.1

def State.rxRead (s : State) (p : Nat) (k : Packet) (reg : RegPort) : State :=
  s.request p opRead k false (fun s n => s.readAny p n k false reg)
    fun s n => (s.count Reg.xptDupCnt 1).readAny p n k true reg

/-! ## ATOMIC (R329, R336) -/

def State.sendAtomic (s : State) (n : Nat) (psn : BitVec 24) (old : Dword) (poison : Bool) : State :=
  let q := s.qp n
  if !q.responds then s
  else s.sendPacket n { q.packet 5 1 psn.toNat
    [BitVec.ofNat 64 (q.epsn.toNat + q.ece.toNat * 2 ^ 32), 0, 0] (bytesLE 8 old.toNat) with poison := poison }

/-- R336. LEN of Table 13-4 is bits [34:32] and takes the values 4 or 8: an 8 stands there modulo 8
(DEDUCED, log 45). -/
def State.atomicNew (s : State) (n : Nat) (k : Packet) : State :=
  let q := s.qp n
  let w (i : Nat) : Dword := nth 0 k.ext i
  let op := fld (w 0) 48 4
  let len := nmaWidth op
  let off := fld (w 0) 0 48
  let key := fld (w 1) 0 32
  if k.ext.length ≠ 4 ∨ !k.payload.isEmpty ∨ fld (w 0) 52 12 ≠ 0 ∨ fld (w 1) 35 29 ≠ 0 ∨ 3 < k.tc.toNat ∨ op < 8 ∨ 12 < op
      ∨ fld (w 1) 32 3 ≠ len % 8 then s.fatalNak n 6 k.psn
  else if key = 0xFFFFFFFF then s.refuseRemote n off k.psn
  else
    let c := s.keyCheck key off len k.pkey.toNat q.src .atom
    let va := c.2.2.va + off
    if c.2.1 = 5 then c.1.staleKey n k 1 0 0 0
    else if c.2.1 ≠ 0 then c.1.fatalNak n c.2.1 k.psn
    else if va % len ≠ 0 then c.1.fatalNak n 6 k.psn
    else
      let cas := op == 11 || op == 12
      let a := { q.acc c.2.2.ctx with spaces := [0] }
      let r := if cas then c.1.vNma a va op [(w 3).toNat] (w 2).toNat k.poison
        else c.1.vNma a va op [(w 2).toNat] 0 k.poison
      if r.2.err ≠ 0 then r.1.fatalNak n (nakOf r.2.err) k.psn
      else
        let old : Dword := BitVec.ofNat 64 (natLE (r.2.data.take len))
        let s := r.1.received n k.psn 1 (marked k)
        let s := s.modQp n fun q => { q with atomics := ((k.psn, old, r.2.poison) :: q.atomics).take 4 }
        (s.sendAtomic n k.psn old r.2.poison).modQp n fun q =>
          { q with unacked := if q.epsn = k.psn + 1 then 0 else 1, ece := false }

def State.rxAtomic (s : State) (p : Nat) (k : Packet) : State :=
  s.request p opAtomic k false (fun s n => s.atomicNew n k) fun s n =>
    match (s.qp n).atomics.find? fun x => x.1 == k.psn with
    | some x => (s.count Reg.xptDupCnt 1).sendAtomic n k.psn x.2.1 x.2.2
    | none => s.count Reg.xptStaleCnt 1

/-! ## SEND and CM (R326, R333) -/

def State.sendNew (s : State) (n : Nat) (k : Packet) : State :=
  let q := s.qp n
  let w := nth 0 k.ext 0
  let moff := fld w 24 32
  if k.ext.length ≠ 1 ∨ fld w 56 8 ≠ 0 ∨ q.pmtu < k.payload.length ∨ 3 < k.tc.toNat ∨ (k.payload.isEmpty ∧ !(k.first ∧ k.last)) then
    s.fatalNak n 6 k.psn
  else
    let ahead := (BitVec.ofNat 24 (fld w 0 24) - BitVec.ofNat 24 q.rqDone.toNat).toNat
    let i := q.rqDone + BitVec.ofNat 32 ahead
    if wrapDist q.rqTail q.rqDone ≤ ahead then s.sendAeth n 2 k.psn 0
    else
      let r := s.readRq n i
      match r.2 with
      | none => r.1.fatalNak n 7 k.psn
      | some (va, len, tag, lsig) =>
        let s := r.1.modQp n fun q => { q with
          rqHead := if wrapDist q.rqHead q.rqDone ≤ ahead then i + 1 else q.rqHead
          recv := if q.recv.any fun m => m.index == i then q.recv
            else q.recv ++ [{ index := i, tag := tag, lsig := lsig, len := 0, last := none, poison := false }] }
        if badSig lsig.toNat then s.toError n none 3 (some (i, 11)) k.psn false
        else if len < moff + k.payload.length then
          (s.fatalNak n 6 k.psn).toError n none 3 (some (i, 12)) k.psn false
        else
          let x := if k.payload.isEmpty then (s, 0) else s.vSpanWrite q.local_ (va + moff) 0 k.payload k.poison
          if x.2 ≠ 0 then x.1.fatalNak n (nakOf x.2) k.psn
          else
            let s := x.1.modQp n fun q => { q with recv := q.recv.map fun m =>
              if m.index == i then { m with
                poison := m.poison || k.poison
                last := if k.last then some k.psn else m.last
                len := if k.last then moff + k.payload.length else m.len } else m }
            (s.received n k.psn 1 (marked k)).ackPolicy n k

def State.rxSend (s : State) (p : Nat) (k : Packet) : State :=
  s.request p opSend k true (fun s n => s.sendNew n k) State.duplicate

/-! ## Packets to the requester -/

/-- The completion of a forwarded register access (R299): a response of class 2 that its peer sends to queue pair 0, through
which no request but a CM goes, completes the oldest access forwarded to that peer (DESIGN CHOICE, log 28). -/
def State.fwdReply (s : State) (k : Packet) (ok : Bool) (v : Dword) : State :=
  match s.xpt.fwd.find? fun f => f.dev == k.srcDev.toNat with
  | none => s.count Reg.xptDropCnt 1
  | some f => (s.modXpt fun x => { x with fwd := x.fwd.erase f }).regCpl f.tag ok f.read v

def State.rxReadResp (s : State) (p : Nat) (k : Packet) : State :=
  s.takeAnswer p 3 k fun s n =>
    if forwardedReply k then s.fwdReply k true (BitVec.ofNat 64 (natLE (k.payload.take 8))) else s.readResp n k

def State.rxAtomicResp (s : State) (p : Nat) (k : Packet) : State :=
  s.takeAnswer p 5 k fun s n => s.atomicResp n k

def State.rxAck (s : State) (p : Nat) (k : Packet) : State :=
  s.takeAnswer p 8 k fun s n =>
    if k.ext.length ≠ 3 then s.count Reg.xptDropCnt 1
    else if forwardedReply k then s.fwdReply k (fld (nth 0 k.ext 0) 24 8 == 0) 0
    else (s.aeth n (nth 0 k.ext 0) (nth 0 k.ext 1) (nth 0 k.ext 2)).progress n

/-- An ABORT: ERROR, its WQEs REM_ABORT, and the RSIGs of messages accepted signalled with the error (R338, R330). -/
def State.rxAbort (s : State) (p : Nat) (k : Packet) : State :=
  s.takeAnswer p 9 k fun s n => s.toError n none 13 none (s.qp n).una false

/-- RAKE_RESP (R352); on a connection whose version lacks it, it is refused (R309). -/
def State.rxRakeResp (s : State) (p : Nat) (k : Packet) : State :=
  s.takeAnswer p 0x11 k fun s n =>
    if (s.qp n).major < 2 then s.refuseForm n k
    else if k.ext.length ≠ 1 then s.count Reg.xptDropCnt 1 else s.rakeResp n k

end Sys2Proof.Machine
end

