-- ==== Sys2Proof/Machine/Rake.lean ====
section
/-! DEFINITION. Rakes at the holder (R342 to R351, R356): crews, the acceptance of a request, its landing, the three
descriptors of a job, reruns, and the reply. -/
namespace Sys2Proof.Machine

/-! ## Crews (R346, Tables 14-8 to 14-10) -/

def crewQueue (ctrl : Word) : Nat := fld ctrl 2 2
def crewSlots (ctrl : Word) : Nat := fld ctrl 4 2 + 1
def crewCtx (ctrl : Word) : Nat := fld ctrl 6 6
def crewTc (ctrl : Word) : Nat := fld ctrl 12 6

/-- Member engines of a crew, in ascending index. -/
def State.crewMembers (s : State) (n : Nat) : List Nat :=
  (List.range 256).filter fun e =>
    (s.r64 (match e / 64 with
      | 0 => Reg.xptCrewMembers0 n | 1 => Reg.xptCrewMembers1 n | 2 => Reg.xptCrewMembers2 n | _ => Reg.xptCrewMembers3 n)).getLsbD (e % 64)

def State.crewCtrl (s : State) (n : Nat) : Word := s.r32 (Reg.xptCrewCtrl n)
def State.crewPkey (s : State) (n : Nat) : Nat := s.rf (Reg.xptCrewKey n) 0 16

/-- Jobs accepted by a crew and not yet replied to (Table 14-10). -/
def State.crewOutstanding (s : State) (n : Nat) : Nat := (s.xpt.jobs.filter fun j => j.crew == n).length

/-- A write of CTRL with VALID 1: refused by R346 with VALID left at 0, or accepted. The count of each member's jobs starts
at what its counter holds then, but for a member with jobs that are still to be answered (log 34). -/
def State.crewEnable (s : State) (n : Nat) (v : Word) : State :=
  let v := v &&& 0x3FFFF
  let members := s.crewMembers n
  let base := s.rf (Reg.xptCrewSpad n) 0 16
  let bad := !s.pkeyKnown (s.crewPkey n) || members.isEmpty || decide (2 ^ 21 < base * 32 + crewSlots v * 0xC000)
    || members.any fun e =>
        s.rf (Reg.engQCfg e (crewQueue v)) 8 6 != crewCtx v || decide (s.rf (Reg.engQCfg e (crewQueue v)) 0 5 < 4)
  if bad then (s.w32 (Reg.xptCrewCtrl n) (putFld v 0 1 0)).wb (Reg.xptCrewStat n) 16 true
  else
    let was := (s.crewCtrl n).getLsbD 0
    let s := (s.w32 (Reg.xptCrewCtrl n) (putFld v 0 1 1)).wb (Reg.xptCrewStat n) 16 false
    if was then s
    else s.each (members.filter fun e => !s.xpt.jobs.any fun j => j.crew == n && j.engine == e) fun s e => s.modXpt fun x => { x with
      jobCount := setNat x.jobCount (256 * n + e) (s.r32 (Reg.engTc e (crewTc v))).toNat }

/-- A write of 0 to VALID stops acceptance (R356). -/
def State.crewDisable (s : State) (n : Nat) : State := s.wb (Reg.xptCrewCtrl n) 0 false

/-! ## Acceptance (R347, R348) -/

/-- Jobs of a crew on a member. -/
def State.memberJobs (s : State) (n e : Nat) : List RakeJob := s.xpt.jobs.filter fun j => j.crew == n && j.engine == e

/-- A member can take a job; after a trip none can (R453). -/
def State.canTake (s : State) (n e : Nat) : Bool :=
  s.active (enPage e) && !s.draining (enPage e) && decide ((s.memberJobs n e).length < crewSlots (s.crewCtrl n)) && !s.pwr.tripped

/-- The member that takes a job: the hint's, else the one with the fewest jobs, the lowest index first. -/
def State.chooseMember (s : State) (n : Nat) (hint : Option Nat) : Option Nat :=
  let free := (s.crewMembers n).filter (s.canTake n)
  match hint.filter free.contains with
  | some e => some e
  | none => free.foldl (fun (best : Option Nat) e => match best with
      | none => some e
      | some b => if (s.memberJobs n e).length < (s.memberJobs n b).length then some e else some b) none

/-- The lowest slot that a member does not hold. -/
def State.freeSlot (s : State) (n e : Nat) : Nat :=
  ((List.range 4).find? fun k => !(s.memberJobs n e).any fun j => j.slot == k).getD 0

/-- What a block says of itself (Table 14-2). -/
structure RakeBlock where
  rows : Nat
  dch : Nat
  len : Nat
  hint : Option Nat
  mass : Bool
  prec : Bool
  bad : Bool
deriving DecidableEq, Repr

def blockOf (b : List Byte) : RakeBlock :=
  let c := ctrlOf (b.take 64)
  let f (off lo len : Nat) : Nat := natLE (slice b off 8) / 2 ^ lo % 2 ^ len
  let nq := f 0x50 24 5
  let rows := c.nh * nq
  { rows := rows, dch := c.dch, len := 128 + rows * (64 * (c.dch + 1)),
    hint := if f 0x50 40 1 = 1 then some (f 0x50 32 8) else none, mass := f 0x50 29 1 == 1, prec := f 0x50 30 1 == 1,
    bad := c.bad || nq == 0 || decide (17 < nq) || decide (32 < rows) || f 0x40 48 16 != 0 || f 0x48 24 8 != 0 || f 0x48 56 8 != 0
      || f 0x50 31 1 != 0 || f 0x50 41 23 != 0 || f 0x58 32 32 != 0 }

/-! ## Landing and dispatch (R349, Table 14-4) -/

/-- Landing area of a job's slot, in the crew's virtual space. -/
def State.landing (s : State) (j : RakeJob) : Nat :=
  let k := ((s.crewMembers j.crew).filter fun e => decide (e < j.engine)).length
  fld (s.r64 (Reg.xptCrewLand j.crew)) 16 32 * 2 ^ 16 + (4 * k + j.slot) * 0x10000

/-- Scratchpad area of a slot, in 32-byte units. -/
def State.slotBase (s : State) (j : RakeJob) : Nat := s.rf (Reg.xptCrewSpad j.crew) 0 16 + j.slot * 0x600

/-- The first 96 bytes of a block as they land: the crew's BIAS_ADDR and MASS_SCRATCH in the control record, and the
length-table entry. -/
def State.landedHead (s : State) (j : RakeJob) (b : List Byte) : List Byte :=
  let f (off lo len : Nat) : Nat := natLE (slice b off 8) / 2 ^ lo % 2 ^ len
  let sp := s.slotBase j
  let crew := s.r64 (Reg.xptCrewSpad j.crew)
  slice b 0 0x18 ++ bytesLE 4 (fld crew 16 32) ++ slice b 0x1C 0x24
    ++ bytesLE 8 (f 0x40 0 48) ++ bytesLE 4 (f 0x48 32 24 + f 0x50 24 5 * 2 ^ 24) ++ bytesLE 4 (f 0x50 0 24)
    ++ bytesLE 2 (sp + 4) ++ bytesLE 2 (sp + 0x104) ++ bytesLE 2 0 ++ bytesLE 2 (sp + 3)
    ++ bytesLE 4 (f 0x48 0 24) ++ bytesLE 4 (f 0x58 0 32)

/-- Accesses of a rake through the crew's context. -/
def State.crewAcc (s : State) (j : RakeJob) : Acc := (s.qp j.qp).acc (crewCtx (s.crewCtrl j.crew))

/-- The bytes that a packet lands and where. -/
def State.landed (s : State) (j : RakeJob) (moff : Nat) (b : List Byte) : List Byte :=
  if moff = 0 then s.landedHead j b ++ b.drop 96 else b

def jobSize (j : RakeJob) : Nat := partialSize j.rows (64 * (j.dch + 1))

/-- The three descriptors of a job. -/
def State.jobDescs (s : State) (j : RakeJob) : List Desc :=
  let land := s.landing j
  let sp := s.slotBase j
  let head (op unit : Nat) (ordered : Bool) : Nat := op + unit * 2 ^ 8 + ordered.toNat * 2 ^ 12 + j.slot * 2 ^ 16
  let rows (va spad len hint : Nat) : Nat := va + spad * 2 ^ 48 + len / 32 * 2 ^ 64 + hint * 2 ^ 92
  let desc (d0 sig op : Nat) : Desc := BitVec.ofNat 512 (d0 + sig * 2 ^ 192 + op * 2 ^ 384)
  [ desc (head 1 3 false) 0 (rows land sp j.blockLen 3),
    desc (head 1 1 true) 0 (sp + (sp + 2) * 2 ^ 16 + 2 ^ 32 + 2 ^ 48 + j.mass.toNat * 2 ^ 50 + j.prec.toNat * 2 ^ 51),
    desc (head 2 3 true) (crewTc (s.crewCtrl j.crew) + 2 ^ 6 + 2 ^ 16) (rows (land + 0x2080) (sp + 0x104) (jobSize j) 0) ]

/-- RAKE_JOB_DISPATCH: the descriptors are written to the member's queue and its TAIL advances by 3. -/
def State.dispatchJob (s : State) (j : RakeJob) : State :=
  let q := crewQueue (s.crewCtrl j.crew)
  let e := j.engine
  let tail := s.r32 (Reg.engQTail e q)
  let size := 2 ^ s.rf (Reg.engQCfg e q) 0 5
  let base := (s.r64 (Reg.engQBase e q)).toNat / 64 * 64
  let s := s.each (s.jobDescs j).zipIdx fun s d =>
    let a := (base + 64 * ((tail.toNat + d.2) % size)) % 2 ^ 64
    (s.spanWrite (saSpace a) (saOff a) (s.qp j.qp).src 0 (bytesLE 64 d.1.toNat) false).1
  let k := natAt s.xpt.jobCount (256 * j.crew + e) + 1
  let s := s.modXpt fun x => { x with
    jobCount := setNat x.jobCount (256 * j.crew + e) k
    jobs := x.jobs.map fun x => if x == j then { j with due := some k } else x }
  s.tailWrite e q (tail + 3)

/-- A packet of a job is placed in its landing slot; with the LAST the job is written to its member. Answers the job as it
stands, and the REASON of a write that fails. -/
def State.placeRake (s : State) (j : RakeJob) (k : Packet) (moff : Nat) : State × Nat :=
  let r := s.vSpanWrite (s.crewAcc j) (s.landing j + moff) 0 (s.landed j moff k.payload) k.poison
  if r.2 ≠ 0 then (r.1.modXpt fun x => { x with jobs := x.jobs.erase j }, r.2)
  else
    let j' := { j with got := j.got + 1, replyPsn := k.psn }
    let s := r.1.modXpt fun x => { x with jobs := x.jobs.map fun x => if x == j then j' else x }
    (if k.last then s.dispatchJob j' else s, 0)

/-! ## RAKE_REQ (R347, R351) -/

/-- The fields of a request's header, and whether it is well formed. -/
def rakeHead (k : Packet) : Nat × Nat × Nat × Nat × Bool :=
  let w (i : Nat) : Dword := nth 0 k.ext i
  (fld (w 0) 0 4, fld (w 0) 4 4, fld (w 0) 32 32, fld (w 1) 0 32,
    k.ext.length == 2 && fld (w 0) 8 24 == 0 && fld (w 1) 32 32 == 0 && decide (k.tc.toNat ≤ 3))

/-- The job that a FIRST packet opens on a member. -/
def State.openJob (s : State) (n crew e attempt blockLen : Nat) (b : RakeBlock) (k : Packet) (rerun : Bool) : State × RakeJob :=
  let j : RakeJob :=
    { crew := crew, engine := e, slot := s.freeSlot crew e, qp := n, psn := k.psn, replyPsn := k.psn,
      packets := packetsFor (s.qp n).pmtu blockLen, got := 0, blockLen := blockLen, attempt := BitVec.ofNat 4 attempt,
      accepted := s.tick, due := none, rerun := rerun, rows := b.rows, dch := b.dch, stored := none, live := true,
      mass := b.mass && (s.crewCtrl crew).getLsbD 1 && !rerun, prec := b.prec }
  (s.modXpt fun x => { x with jobs := x.jobs ++ [j] }, j)

/-- A packet carries the part of its block that its place calls for. -/
def partOk (pmtu blockLen moff i m : Nat) (k : Packet) : Bool :=
  moff == i * pmtu && k.payload.length == min pmtu (blockLen - moff) && k.last == (i + 1 == m)

/-- A new RAKE_REQ packet: a FIRST is checked and accepted, the others follow it. -/
def State.rakeNew (s : State) (n : Nat) (k : Packet) : State :=
  let q := s.qp n
  let (crew, attempt, moff, len, ok) := rakeHead k
  let m := packetsFor q.pmtu len
  let finish (s : State) (j : RakeJob) : State :=
    let r := s.placeRake j k moff
    if r.2 ≠ 0 then r.1.fatalNak n (nakOf r.2) k.psn
    else ((r.1.received n k.psn (if k.last then packetsFor q.pmtu (jobSize j) else 1) (marked k)).ackPolicy n k)
  if k.first then
    let b := blockOf k.payload
    if !(s.crewCtrl crew).getLsbD 0 then s.sendAeth n 2 k.psn 0
    else if k.pkey.toNat ≠ s.crewPkey crew then s.fatalNak n 4 k.psn
    else if !ok ∨ b.bad ∨ len ≠ b.len ∨ 8320 < len ∨ !partOk q.pmtu len moff 0 m k then s.fatalNak n 6 k.psn
    else
      match s.chooseMember crew b.hint with
      | none => (s.count Reg.xptRakeRnrCnt 1).sendAeth n 2 k.psn 0
      | some e =>
        let o := s.openJob n crew e attempt len b k false
        finish o.1 o.2
  else
    match s.xpt.jobs.find? fun j => j.qp == n && !j.rerun && j.due.isNone && j.psn + BitVec.ofNat 24 j.got == k.psn with
    | none => s.fatalNak n 6 k.psn
    | some j => if !ok ∨ !partOk q.pmtu j.blockLen moff j.got j.packets k then s.fatalNak n 6 k.psn else finish s j

/-- RAKE_RERUN: a duplicate FIRST opens a rerun, and the duplicates that follow it are placed; what opens none is discarded
without an answer (R351). -/
def State.rakeDup (s : State) (n : Nat) (k : Packet) : State :=
  let q := s.qp n
  let s := s.count Reg.xptDupCnt 1
  let (crew, attempt, moff, len, ok) := rakeHead k
  let m := packetsFor q.pmtu len
  if k.first then
    let b := blockOf k.payload
    -- a rerun of the same request whose packets did not all come is given up
    let s := s.modXpt fun x => { x with jobs := x.jobs.filter fun j => !(j.qp == n && j.rerun && j.due.isNone) }
    if !(s.crewCtrl crew).getLsbD 0 ∨ k.pkey.toNat ≠ s.crewPkey crew ∨ !ok ∨ b.bad ∨ len ≠ b.len ∨ 8320 < len
        ∨ !partOk q.pmtu len moff 0 m k then s
    else
      match s.chooseMember crew b.hint with
      | none => s
      | some e =>
        let o := s.openJob n crew e attempt len b k true
        (o.1.placeRake o.2 k moff).1
  else
    match s.xpt.jobs.find? fun j => j.qp == n && j.rerun && j.due.isNone && j.psn + BitVec.ofNat 24 j.got == k.psn with
    | none => s
    | some j => if !ok ∨ !partOk q.pmtu j.blockLen moff j.got j.packets k then s else (s.placeRake j k moff).1

def State.rxRake (s : State) (p : Nat) (k : Packet) : State :=
  s.request p opRake k false (fun s n => s.rakeNew n k) fun s n => s.rakeDup n k

/-! ## RAKE_REPLY (R350) -/

/-- The record of a job has been stored: its STORE's signal has come, or its counter has been brought to the job's count otherwise. -/
def State.jobStored (s : State) (j : RakeJob) : Option (Nat × Bool) :=
  let t := crewTc (s.crewCtrl j.crew)
  match j.stored with
  | some x => some x
  | none => if j.due.any fun d => reached (s.r32 (Reg.engTc j.engine t)).toNat (d % 2 ^ 23) then some (s.tick, s.tcErr j.engine t) else none

/-- The oldest job of a member whose record has been stored, with the tick and the error flag of that. -/
def State.storedJob (s : State) (n e : Nat) : Option (RakeJob × Nat × Bool) :=
  ((s.memberJobs n e).filterMap fun j => (s.jobStored j).map fun x => (j, x)).foldl
    (fun (best : Option (RakeJob × Nat × Bool)) x => match best with
      | none => some x
      | some b => if x.1.due.getD 0 < b.1.due.getD 0 then some x else some b) none

/-- The reply of a job: its record read from the landing area, or zeros where its signal carried the error. A record that
cannot be read is sent as FAILED too (log 35). A job of a connection that has ended is answered by nothing, and one whose
queue pair sends nothing now waits. -/
def State.rakeReply (s : State) (n e : Nat) : State :=
  match s.storedJob n e with
  | none => s
  | some (j, at_, err) =>
    let q := s.qp j.qp
    let s' := s.setBit64 (Reg.engTcErr e) (crewTc (s.crewCtrl n)) false
    let free (s : State) : State := s.modXpt fun x => { x with jobs := x.jobs.erase j }
    if !j.live then free s'
    else if !q.responds then s
    else
      let size := jobSize j
      let r := if err then (s', [], 1) else s'.readParts (s.crewAcc j) (s.landing j + 0x2080) size q.pmtu
      let failed := r.2.2 != 0
      let m := packetsFor q.pmtu size
      let parts := if failed then (List.range m).map fun i => (List.replicate (min q.pmtu (size - i * q.pmtu)) (0 : Byte), true)
        else r.2.1
      let status := if failed then 2 else if parts.any (·.2) then 1 else 0
      let h := status + e * 2 ^ 8 + j.attempt.toNat * 2 ^ 16 + min 65535 (at_ - j.accepted) * 2 ^ 32
      let s := r.1.each parts.zipIdx fun s x =>
        s.sendPacket j.qp { q.packet 0x11 1 (j.replyPsn + BitVec.ofNat 24 x.2).toNat [BitVec.ofNat 64 h] x.1.1 with
          poison := x.1.2, first := x.2 == 0, last := x.2 + 1 == m }
      let s := if failed then (s.count Reg.xptRakeFailCnt 1).raise xptPn 15 10 q.src else s
      (free s).count Reg.xptRakeServedCnt 1

end Sys2Proof.Machine
end

