-- ==== Sys2Proof/Machine/Commit.lean ====
section
/-! DEFINITION. Mode commits (R23 to R27, R46, R47): requests, the commit of a unit, what a boundary makes of each unit's
pending commit, and TIDE_MODE_STAT. -/
namespace Sys2Proof.Machine

/-! ## What a unit holds -/

def State.unitCommit (s : State) (pn : Nat) : Option UnitCommit := optAt s.commit.units pn
def State.setUnitCommit (s : State) (pn : Nat) (u : Option UnitCommit) : State :=
  s.modCommit fun c => { c with units := setOpt c.units pn u }

/-- The pending values of a page's words: word index and value. -/
def State.pagePending (s : State) (pn : Nat) : List (Nat × Word) :=
  s.commit.shadow.filterMap fun e => if e.1 / 0x400 = pn then e.2.map fun v => (e.1, v) else none

/-- SH mask of a register word, by word index. -/
def shMask (i : Nat) : Word := match Reg.info (4 * i) with | some w => w.sh | none => 0

/-- Whether a page has EN and FORCE_OFF (R494). -/
def pageHasEn (pn : Nat) : Bool := match Reg.page pn with | some (k, _) => Reg.hasEn k | none => false

/-! ## TIDE_MODE_STAT and TIDE_MISS_SRC (R26, Table 2-6) -/

/-- Units of the scope that have not committed. -/
def State.owing (s : State) : List Nat :=
  s.commit.scope.filter fun pn => match s.unitCommit pn with | some u => u.owed | none => false

/-- The lowest of the source indices of some pages, 0xFFFF for none. -/
def lowestSrc (l : List Nat) : Nat := l.foldl (fun m pn => min m (pageSrc pn)) 0xFFFF

/-- STATE and the units not yet committed, as the scope stands; once all have committed, SETTLED and the generation in
force everywhere. -/
def State.modeRefresh (s : State) : State :=
  let l := s.owing
  let s := s.w32 Reg.tideMissSrc (BitVec.ofNat 32 (lowestSrc l))
  if l.isEmpty then
    if s.commit.scope.isEmpty then s
    else
      let s := s.modCommit fun c => { c with scope := [], timedOut := false }
      (s.w32 Reg.tideModeStat 0).wf Reg.tideCommitGen 0 16 s.commit.newest.toNat
  else s.w32 Reg.tideModeStat (BitVec.ofNat 32 ((if s.commit.timedOut then 2 else 1) + l.length * 2 ^ 16))

/-! ## Requests (R23, R46, R47, R51) -/

/-- One commit request: it takes the next generation, and its values become pending in every unit it reaches, each with
the request's target: a tick of TIDE_COMMIT_AT that is still to come, or the next boundary, whatever its number. late names the units that its shadow write does not reach before the commit boundary. -/
def State.commitReq (s : State) (writes : List (Nat × Word)) (late : List Nat) : State :=
  let gen := (s.rf Reg.tideCommitGen 16 16 + 1) % 65536
  let at_ := (s.r64 Reg.tideCommitAt).toNat
  let target := if s.tick < at_ then some at_ else none
  let s := s.wf Reg.tideCommitGen 16 16 gen
  let s := if at_ ≠ 0 ∧ s.commit.atTarget = none then s.modCommit fun c => { c with atTarget := some target } else s
  s.each writes fun s w =>
    let pn := w.1 / 0x400
    let old := (optAt s.commit.shadow w.1).getD 0
    let m := shMask w.1
    let s := s.modCommit fun c => { c with shadow := setOpt c.shadow w.1 (some ((old &&& ~~~m) ||| (w.2 &&& m))) }
    let owed := match s.unitCommit pn with | some u => u.owed | none => false
    (s.setUnitCommit pn (some ⟨target, !late.contains pn, owed, false⟩)).w32 (blkModeShadow pn) (BitVec.ofNat 32 (gen + 2 ^ 16))

/-! ## Commits (R24, R25) -/

/-- A unit cannot commit at a boundary: it has a mode-dependent task in flight, it is disabled, or the shadow write has not
reached it (R24). Pages without EN are never disabled (log 36). -/
def State.commitBlocked (s : State) (pn : Nat) (u : UnitCommit) : Bool :=
  (decide (pn < 256) && (s.engine pn).tasks.any fun t => !t.done && Desc.modeDep t.desc)
  || (pageHasEn pn && !s.active pn && !s.draining pn) || !u.reached

/-- A core's write-combining buffer flushes when WC_COMPAT turns 0 (R228). -/
def State.compatHook (s : State) (pn : Nat) (was : Bool) : State :=
  match Reg.page pn with
  | some (.cch, c) => if was ∧ !s.wcCompat c then s.wcFlush c else s
  | _ => s

/-- The pending values of a unit take force, as the newest generation written to it. -/
def State.commitUnit (s : State) (pn : Nat) : State :=
  let was := match Reg.page pn with | some (.cch, c) => s.wcCompat c | _ => false
  let s := s.each (s.pagePending pn) fun s w =>
    let m := shMask w.1
    (s.w32 (4 * w.1) ((s.r32 (4 * w.1) &&& ~~~m) ||| (w.2 &&& m))).modCommit fun c =>
      { c with shadow := setOpt c.shadow w.1 none }
  let gen := s.rf (blkModeShadow pn) 0 16
  let s := s.w32 (blkModeActive pn) (BitVec.ofNat 32 gen)
  let s := (s.wf (blkModeShadow pn) 16 1 0).w64 (blkCommitTick pn) (BitVec.ofNat 64 s.tick)
  ((s.setUnitCommit pn none).compatHook pn was).modeRefresh

/-- MIXED_TIMEOUT: the state and its event at the boundary that finds units still uncommitted (R26). -/
def State.mixedTimeout (s : State) : State :=
  if s.owing.isEmpty then s
  else ((s.modCommit fun c => { c with timedOut := true }).modeRefresh).sample tidePn 9

/-! ## The boundary's part -/

/-- Units with a pending commit, in ascending source index. -/
def State.pendingUnits (s : State) : List (Nat × UnitCommit) :=
  let l := s.commit.units.filterMap fun e => e.2.map fun u => (e.1, u)
  (l.foldl (fun acc x => Ev.insert ⟨x.1, 0, 4, pageSrc x.1⟩ acc) []).filterMap fun e => (s.unitCommit e.page).map fun u => (e.page, u)

/-- Later of two generations. -/
def laterGen (a b : BitVec 16) : BitVec 16 := if (b - a).toNat < 2 ^ 15 then b else a

/-- A target has come at the boundary of tick k: the next boundary's always has. -/
def targetCome (target : Option Nat) (k : Nat) : Bool := target.all fun t => decide (t ≤ k)

/-- A unit's target has come: it joins the scope, its generation counts as come, and it owes its commit. -/
def State.joinScope (s : State) (pn : Nat) (u : UnitCommit) : State :=
  (s.modCommit fun c => { c with
    scope := if c.scope.contains pn then c.scope else c.scope ++ [pn]
    newest := laterGen c.newest (BitVec.ofNat 16 (s.rf (blkModeShadow pn) 0 16)) }).setUnitCommit pn
      (some { u with owed := true, came := true })

/-- One unit at a boundary at which its target has come, first or again: it commits, or misses where it is blocked, which COMMIT_MISS
reports once for each target (R24). A shadow write that was late has arrived by the next boundary. -/
def State.commitAt (acc : State × List Due) (x : Nat × UnitCommit) : State × List Due :=
  let first := !x.2.came
  let s := if first then acc.1.joinScope x.1 x.2 else acc.1
  if s.commitBlocked x.1 x.2 then
    let s := s.setUnitCommit x.1 (some { x.2 with reached := true, owed := true, came := true })
    (if first then (s.sample x.1 0).wb (blkModeActive x.1) 16 true else s, acc.2)
  else (s, acc.2 ++ [if first then .commit x.1 else .lateCommit x.1])

/-- TIDE_COMMIT_AT reads zero once the boundary that it gave its first request has come (R23). -/
def State.commitAtClear (s : State) : State :=
  match s.commit.atTarget with
  | some t => if targetCome t s.tick then (s.w64 Reg.tideCommitAt 0).modCommit fun c => { c with atTarget := none } else s
  | none => s

/-- At a boundary, each unit whose target has come commits or misses; the commits are due (R23 to R26). TIDE_MIXED_LIMIT counts from
the boundary at which STATE left SETTLED, whatever commits follow before it returns there (DESIGN CHOICE, log 151). -/
def State.commitBoundary (s : State) : State × List Due :=
  let was := s.commit.scope.isEmpty
  let came := s.pendingUnits.filter fun x => targetCome x.2.target s.tick
  let r := came.foldl State.commitAt (s.commitAtClear, [])
  let t := if was ∧ !r.1.commit.scope.isEmpty then r.1.modCommit fun c => { c with since := s.tick } else r.1
  (t.modeRefresh, r.2)

/-- MIXED_TIMEOUT is due at a boundary: the limit has passed and some unit will still owe its commit. -/
def State.timeoutDue (s : State) (commits : List Due) : Bool :=
  !s.commit.timedOut && decide (s.commit.since + (s.r32 Reg.tideMixedLimit).toNat ≤ s.tick)
  && s.owing.any fun pn => !(commits.contains (.commit pn) || commits.contains (.lateCommit pn))

end Sys2Proof.Machine
end

