-- ==== Sys2Proof/Machine/Tide.lean ====
section
/-! DEFINITION. The tide unit (R10 to R15, R21, R22, R28 to R33, R286): states, time messages, loads and jumps, and step
timers. -/
namespace Sys2Proof.Machine

/-! ## States (Tables 2-5 and 2-8) -/

def State.setTideState (s : State) (v : Nat) : State := s.wf Reg.tideStat 0 3 v

/-- The device is timing master: MASTER, but for a write of it that awaits its boundary (R32, R33). -/
def State.isMaster (s : State) : Bool :=
  match s.tide.masterArmed with
  | some b => !b
  | none => s.rb Reg.tideCtrl 1

def State.setUpstream (s : State) (p : Nat) : State := s.wf Reg.tideStat 8 4 p
def State.upstream (s : State) : Nat := s.rf Reg.tideStat 8 4

def State.enterHoldover (s : State) : State :=
  ((s.setTideState 3).modTide fun t => { t with holdTicks := 0 }).raise tidePn 10 10 5125

/-- LOST (R29). -/
def State.enterLost (s : State) : State :=
  (((s.setTideState 4).modTide fun t => { t with slew := 0 }).wb Reg.tideStat 3 false).raise tidePn 8 3 5125

/-- A master that is LOCKED reads its own number and the epoch of TIDE_CTRL in TIDE_MASTER_ID (R33). -/
def State.ownMasterId (s : State) : State :=
  s.w32 Reg.tideMasterId (BitVec.ofNat 32 (s.dev + s.rf Reg.tideCtrl 16 16 * 2 ^ 16))

/-- LOCKED as master: its own number and epoch, HOPS 0, no upstream port (R33). -/
def State.lockMaster (s : State) : State :=
  let s := (((s.setTideState 2).setUpstream 0xF).wf Reg.tideStat 12 4 0).wb Reg.tideStat 3 false
  (s.modTide fun t => { t with slew := 0, jumpDue := false, epochWait := false }).ownMasterId

/-- No port is followed (Table 2-8). -/
def State.noUpstream (s : State) : State := (s.setUpstream 0xF).wf Reg.tideStat 12 4 0

/-! ## Control writes (R11, R30, R32, R33) -/

/-- TIDE_CTRL.EN. Written 0 it holds tide at the value that it has reached within the tick. -/
def State.tideEn (s : State) (v : Bool) : State :=
  let s := s.wb Reg.tideCtrl 0 v
  if v then if s.tideState = 0 then (s.setTideState 1).modTide fun t => { t with silent := 0 } else s
  else if s.tideState = 0 then s
  else
    let base := s.tide.now.toNat / 1024 * 1024
    let reached := max s.tide.now.toNat (base + s.free % 1024)
    let s := s.drawn.modTide fun t => { t with
      now := BitVec.ofNat 64 reached, loadArmed := false, lockArmed := false, masterArmed := none, jumpDue := false, slew := 0
      reqs := [] }
    ((s.setTideState 0).noUpstream).wb Reg.tideStat 3 false

/-- TIDE_CTRL.MASTER: it takes effect at the next boundary where the device would become or cease to be a running master. In
ACQUIRE and in LOST, for which the spec names no boundary, a 1 takes effect at once: the state stays, and no port is followed
any more (DESIGN CHOICE for LOST, log 109). -/
def State.tideMaster (s : State) (v : Bool) : State :=
  let now := s.isMaster
  let st := s.tideState
  let armed : Option Bool :=
    if v = now then none else if (v ∧ (st = 2 ∨ st = 3)) ∨ (!v ∧ st ≠ 0) then some v else none
  let s := (s.wb Reg.tideCtrl 1 v).modTide fun t => { t with masterArmed := armed }
  if v ∧ !now ∧ armed.isNone ∧ st ≠ 0 then (s.modTide fun t => { t with jumpDue := false }).noUpstream else s

/-- A load into the held tide of OFF. The starts of step timers that it passes count as passed while they were armed (R22); a
load back makes the boundary after it the first one that follows the arming. -/
def State.loadHeld (s : State) (v : Dword) : State :=
  s.modTide fun t => { t with
    now := v
    steps := t.steps.map fun x => (x.1, { x.2 with from_ := min x.2.from_ (v.toNat / 1024 + 1) }) }

def State.tideSetLoad (s : State) : State :=
  if s.tideState = 0 then s.loadHeld (s.r64 Reg.tideSet)
  else if s.tideState = 1 ∧ s.isMaster then s.modTide fun t => { t with loadArmed := true }
  else s

def State.tideRebase (s : State) : State :=
  if s.tideState = 4 then (s.setTideState 1).modTide fun t => { t with jumpDue := false } else s

def State.tideLock (s : State) : State :=
  if s.tideState = 1 ∧ s.isMaster then s.modTide fun t => { t with lockArmed := true } else s

/-! ## Time messages (R13, R14, R28 to R31, R286) -/

/-- HOPS as the device announces it. -/
def State.announcedHops (s : State) : Nat :=
  let st := s.tideState
  if s.isMaster then if st = 2 then 0 else 0xFF
  else if st = 2 ∨ st = 3 then s.rf Reg.tideStat 12 4 else 0xFF

/-- What a time codeword of this device says of it. -/
def State.timeMsg (s : State) (xseq : BitVec 16) (t2 t3 : Nat) : TimeMsg :=
  { state := BitVec.ofNat 8 s.tideState, xseq := xseq, master := BitVec.ofNat 10 (s.rf Reg.tideMasterId 0 10),
    epoch := BitVec.ofNat 16 (s.rf Reg.tideMasterId 16 16), hops := BitVec.ofNat 8 s.announcedHops, t2 := t2, t3 := t3 }

/-- A port carries native time messages: it is UP, or in RETRAIN its lanes do not. -/
def State.timePort (s : State) (p : Nat) : Bool := s.portState p == 5 && !s.ethernet p

/-- An offer is better: a higher epoch, then fewer hops; among equals the lower port stays. -/
def Offer.better (a b : Offer) : Bool :=
  decide (b.epoch.toNat < a.epoch.toNat) || (a.epoch == b.epoch && decide (a.hops < b.hops))

/-- The port with the best offer of the highest epoch seen (R31, R286). -/
def State.bestPort (s : State) : Option (Nat × Offer) :=
  (List.range 8).foldl (fun best p =>
    match optAt s.tide.offers p with
    | none => best
    | some o =>
      if !s.timePort p ∨ o.epoch ≠ s.tide.epochSeen then best
      else match best with
        | none => some (p, o)
        | some b => if o.better b.2 then some (p, o) else best) none

/-- The upstream port is an Ethernet port that carries PTP (R14). -/
def State.ptpUpstream (s : State) : Bool :=
  decide (s.upstream < 8) && s.ethernet s.upstream && s.portState s.upstream == 5

/-- The upstream port is chosen again; without an offer of the highest epoch there is none, but for one that carries PTP. HOPS holds one
more than the offer's, and 15 for more than that: its four bits give no larger number, and such a device announces 15 (DESIGN CHOICE,
log 154). -/
def State.chooseUpstream (s : State) : State :=
  if s.tideState = 0 ∨ s.isMaster then s
  else match s.bestPort with
    | none => if s.ptpUpstream then s else s.noUpstream
    | some (p, o) =>
      ((s.setUpstream p).wf Reg.tideStat 12 4 (min 15 (o.hops + 1))).w32 Reg.tideMasterId
        (BitVec.ofNat 32 (o.master.toNat + o.epoch.toNat * 2 ^ 16))

/-- A peer's offer is learnt; an epoch above every epoch seen holds a device that follows in HOLDOVER (R31). Only an offer received is an
epoch seen, not one that the device announced as master (DESIGN CHOICE, log 155). -/
def State.learnEpoch (s : State) (p : Nat) (m : TimeMsg) : State :=
  let o : Option Offer := if m.hops = 0xFF then none else some ⟨m.epoch, m.hops.toNat, m.master⟩
  let s := s.modTide fun t => { t with offers := setOpt t.offers p o }
  if o.isSome ∧ s.tide.epochSeen.toNat < m.epoch.toNat then
    let follows := !s.isMaster && (s.tideState == 2 || s.tideState == 3)
    let s := s.modTide fun t => { t with epochSeen := m.epoch, epochWait := follows }
    if follows ∧ s.tideState = 2 then s.enterHoldover else s
  else s

/-- A message of the master that the device follows, which ends a silence of its upstream port (R28). -/
def State.heard (s : State) (p : Nat) (m : TimeMsg) : Bool :=
  s.upstream == p && m.hops != 0xFF && m.epoch == s.tide.epochSeen

/-- A native time message is received: its offer, the choice of the upstream port, and the end of a silence. -/
def State.learnOffer (s : State) (p : Nat) (m : TimeMsg) : State :=
  let s := (s.learnEpoch p m).chooseUpstream
  if s.heard p m then s.modTide fun t => { t with silent := 0 } else s

/-- 10 µs in sixteenths of a ns. -/
def lostLimit : Int := 160000

/-- An offset that a device which follows steers by: a step it cannot slew puts it into LOST, any other is slewed out in
LOCKED (R11, R29). -/
def State.steer (s : State) (o : Int) : State :=
  if o.natAbs > lostLimit.natAbs then s.enterLost
  else ((s.setTideState 2).modTide fun t => { t with slew := o * 4096 }).wb Reg.tideStat 3 (o != 0)

/-- The limit of HOLDOVER has passed; while a new master is awaited it does not run (R28, R31). -/
def State.holdoverOver (s : State) : Bool :=
  !s.tide.epochWait && decide ((s.r32 Reg.tideHoldoverLimit).toNat ≤ s.tide.holdTicks)

/-- A completed exchange with the master on the upstream port: offset16 is the master's tide less the device's own, in
sixteenths of a ns. The port's asymmetry is cut to a whole sixteenth before it is added (DESIGN CHOICE, log 110). In ACQUIRE a
master behind is reported once and holds the device there until a reset (R30). -/
def State.exchange (s : State) (p : Nat) (offset16 : Int) : State :=
  let asym := signed (s.r32 (Reg.tideAsym p)).toNat 32 * 16 / 1000
  let o := offset16 + asym
  let s := s.w32 Reg.tideOffset (BitVec.ofInt 32 o)
  let s := (s.w32 Reg.tideFreqAdj (BitVec.ofInt 32 ((s.free % 400001 : Nat) - 200000 : Int))).drawn
  let late := s.holdoverOver
  let s := s.modTide fun t => { t with silent := 0, epochWait := false }
  match s.tideState with
  | 1 =>
    if s.rb Reg.tideStat 4 then s
    else if 0 ≤ o then s.modTide fun t => { t with jumpDue := true }
    else ((s.modTide fun t => { t with jumpDue := false }).wb Reg.tideStat 4 true).raise tidePn 11 10 5125
  | 2 => s.steer o
  | 3 => if late then s.enterLost else s.steer o
  | _ => s

/-- TIDE_MSG_PERIOD ticks have passed since the port's last REQ. -/
def State.reqDue (s : State) (p : Nat) : Bool :=
  let at_ := natAt s.tide.reqAt p
  at_ == 0 || decide (at_ - 1 + (s.r32 Reg.tideMsgPeriod).toNat ≤ s.tick)

/-- A REQ is sent, once in TIDE_MSG_PERIOD ticks. -/
def State.timeReqSend (s : State) (p t1 : Nat) : State :=
  if s.tideState = 0 ∨ !s.timePort p ∨ !s.reqDue p then s
  else
    let x := s.tide.xseq
    (s.modTide fun t => { t with
      reqs := setOpt t.reqs p (some (t1, x)), xseq := x + 1, reqAt := setNat t.reqAt p (s.tick + 1) }).sendCodeword p
        (.time false (s.timeMsg x 0 0))

/-- A REQ is received and answered. -/
def State.timeReqReceive (s : State) (p : Nat) (m : TimeMsg) (t2 t3 : Nat) : State :=
  if !s.timePort p then s
  else
    let s := s.learnOffer p m
    s.sendCodeword p (.time true (s.timeMsg m.xseq t2 t3))

/-- A RESP that answers the REQ outstanding on its port. -/
def State.timeRespReceive (s : State) (p : Nat) (m : TimeMsg) (t4 : Nat) : State :=
  if s.tideState = 0 ∨ !s.timePort p then s
  else
    let s := s.learnOffer p m
    match optAt s.tide.reqs p with
    | none => s
    | some (t1, x) =>
      if x ≠ m.xseq then s
      else
        let s := s.modTide fun t => { t with reqs := setOpt t.reqs p none }
        if s.isMaster ∨ !s.heard p m then s
        else s.exchange p ((((m.t2 : Int) - t1) - ((t4 : Int) - m.t3)) / 2)

/-! ## Codewords received (R279, R280) -/

/-- A codeword that decodes takes its content to its unit: a flit, or a time message; every codeword whose number is a multiple of
8,192 is one of alignment. -/
def State.contentIn (s : State) (p : Nat) (kind : Nat) (b : List Byte) (rx tx : Nat) : State :=
  if kind = 0 then s.flitReceive p (flitOf b)
  else if kind = 3 ∧ p < 8 then
    let m := timeOf b
    if m.1 then s.timeRespReceive p m.2 rx else s.timeReqReceive p m.2 rx tx
  else s

/-- A codeword is received: corrected up to 15 symbols, else discarded with what it carries. GP0 has no such counters. -/
def State.codeword (s : State) (p : Nat) (c : Codeword) : State :=
  if s.portState p = 0 ∨ s.ethernet p then s
  else
    let num := (s.port p).rxNum
    let l := fixSymbols (gatherSymbols (s.lanesIn p c.lanes)) c.fix
    let s := s.modPort p fun x => { x with rxNum := num + 1 }
    if 15 < c.fix.length ∨ !isWord l then
      -- the descrambler has taken in the bits as they were received
      let w := decodeWord (gatherSymbols (s.lanesIn p c.lanes)) (s.port p).rxScr
      (if p < 8 then s.count (Reg.fabFecUeCnt p) 1 else s).modPort p fun x => { x with rxScr := w.2.2 }
    else
      let w := decodeWord l (s.port p).rxScr
      let s := (if p < 8 then s.count (Reg.fabFecCeCnt p) c.fix.length else s).modPort p fun x => { x with rxScr := w.2.2 }
      if num % 8192 = 0 then s else s.contentIn p w.1 w.2.1 c.rx c.tx

/-! ## PTP (R14)

The messages of IEEE 1588-2019 and the arithmetic on their timestamps are taken from that standard (PRESUMED, log 111). -/

def State.ptpPort (s : State) (p : Nat) : PtpPort := Sparse.get (fun _ => PtpPort.reset) s.tide.ptp p
def State.modPtp (s : State) (p : Nat) (f : PtpPort → PtpPort) : State :=
  s.modTide fun t => { t with ptp := Sparse.set (fun _ => PtpPort.reset) t.ptp p (f (s.ptpPort p)) }

/-- A timestamp of a message in 2^-16 ns. -/
def ptpTime (m : PtpMsg) : Int := (m.sec.toNat * 1000000000 + m.ns.toNat : Nat) * 65536

/-- A correction field, in 2^-16 ns. -/
def ptpCorr (m : PtpMsg) : Int := m.correction.toInt

/-- A message that carries a timestamp of this device, given in sixteenths of a ns. -/
def ptpStamp (m : PtpMsg) (kind : PtpKind) (twoStep : Bool) (t16 : Nat) (corr : Int) : PtpMsg :=
  { m with kind := kind, twoStep := twoStep, sec := BitVec.ofNat 48 (t16 / 16 / 1000000000)
           ns := BitVec.ofNat 32 (t16 / 16 % 1000000000), correction := BitVec.ofInt 64 corr }

/-- A clock is the better master, by the standard's comparison: of two reports of one grandmaster the nearer, of two grandmasters the one
with the lower priority1, quality, priority2 and identity. -/
def clockBefore (a b : PtpClock) : Bool :=
  let key (c : PtpClock) : Nat := ((c.prio1.toNat * 2 ^ 32 + c.quality.toNat) * 2 ^ 8 + c.prio2.toNat) * 2 ^ 64 + c.identity.toNat
  if a.identity = b.identity then
    decide (a.steps.toNat < b.steps.toNat) || (a.steps == b.steps && decide (a.sender.toNat < b.sender.toNat))
  else decide (key a < key b)

/-- The Ethernet port whose Announce names the best master; among equals the lower port stays. -/
def State.ptpBest (s : State) : Option (Nat × PtpClock) :=
  (List.range 8).foldl (fun best p => match (s.ptpPort p).clock with
    | none => best
    | some c =>
      if !s.ethernet p ∨ s.portState p ≠ 5 then best
      else match best with
        | none => some (p, c)
        | some b => if clockBefore c b.2 then some (p, c) else best) none

/-- The port may set the device's tide: native links offer none, and it is the port of the best master or, where none has been announced,
the upstream port or the first. -/
def State.ptpFollows (s : State) (p : Nat) : Bool :=
  !s.isMaster && (s.upstream == 0xF || s.ptpUpstream) && match s.ptpBest with
    | some b => b.1 == p
    | none => s.upstream == 0xF || s.upstream == p

/-- A completed PTP exchange, its offset in 2^-16 ns: the port becomes the upstream port. PTP gives neither a device number and epoch nor
native hops: TIDE_MASTER_ID and HOPS stay as they were, and are announced so (DESIGN CHOICE, log 153). -/
def State.ptpExchange (s : State) (p : Nat) (o : Int) : State := (s.setUpstream p).exchange p (o / 4096)

/-- The master's Sync is known with its time t1 and arrived at t2: the peer-to-peer mechanism completes the exchange with the
link's mean delay, the end-to-end one asks with a Delay_Req sent at t3. -/
def State.ptpSynced (s : State) (p : Nat) (e : PtpEvent) (t1 t2 : Int) : State :=
  if e.peerDelay then match (s.ptpPort p).delay with
    | some d => s.ptpExchange p (t1 + d - t2)
    | none => s
  else
    let x := (s.ptpPort p).seq
    (s.modPtp p fun q => { q with seq := x + 1, asked := some (x, t1 - t2, (e.tx : Int) * 4096) }).emit
      (.ptp p { ptpStamp e.msg .delayReq false 0 0 with seq := x })

/-- The mean delay of the link from a completed peer exchange: twice it is what the round trip took beyond the peer's turn. -/
def State.ptpPeer (s : State) (p : Nat) (twice : Int) : State := s.modPtp p fun q => { q with delay := some (twice / 2), peer := none }

/-- What a message does. The device answers Delay_Req where it offers time, as a boundary clock does on every port but the one
that it follows, and Pdelay_Req on every port. It asks for a link's delay when a Sync comes to a port of the peer-to-peer
mechanism. -/
def State.ptpTake (s : State) (p : Nat) (e : PtpEvent) : State :=
  let m := e.msg
  let rx : Int := (e.rx : Int) * 4096
  match m.kind with
  | .announce c => s.modPtp p fun q => { q with clock := some c }
  | .sync =>
    if !s.ptpFollows p then s
    else
      let x := (s.ptpPort p).seq
      let s := if e.peerDelay then (s.modPtp p fun q => { q with seq := x + 1, peer := some (x, (e.tx : Int) * 4096, none) }).emit
          (.ptp p { ptpStamp m .pdelayReq false 0 0 with seq := x }) else s
      if m.twoStep then s.modPtp p fun q => { q with sync := some (m.seq, rx, ptpCorr m) }
      else s.ptpSynced p e (ptpTime m + ptpCorr m) rx
  | .followUp => match (s.ptpPort p).sync with
    | none => s
    | some (x, t2, corr) =>
      if x ≠ m.seq ∨ !s.ptpFollows p then s
      else (s.modPtp p fun q => { q with sync := none }).ptpSynced p e (ptpTime m + corr + ptpCorr m) t2
  | .delayReq =>
    if s.ptpFollows p ∨ s.announcedHops = 0xFF then s
    else s.emit (.ptp p (ptpStamp m .delayResp false e.rx (ptpCorr m + (e.rx % 16 : Nat) * -4096)))
  | .delayResp => match (s.ptpPort p).asked with
    | none => s
    | some (x, down, t3) =>
      if x ≠ m.seq ∨ !s.ptpFollows p then s
      else (s.modPtp p fun q => { q with asked := none }).ptpExchange p ((down + (ptpTime m - ptpCorr m - t3)) / 2)
  | .pdelayReq =>
    if e.replyTwoStep then
      (s.emit (.ptp p (ptpStamp m .pdelayResp true e.rx ((e.rx % 16 : Nat) * -4096)))).emit
        (.ptp p (ptpStamp m .pdelayFollowUp false e.tx (ptpCorr m + (e.tx % 16 : Nat) * 4096)))
    else s.emit (.ptp p (ptpStamp m .pdelayResp false 0 (ptpCorr m + ((e.tx : Int) - e.rx) * 4096)))
  | .pdelayResp => match (s.ptpPort p).peer with
    | none => s
    | some (x, t1, _) =>
      if x ≠ m.seq then s
      else if m.twoStep then s.modPtp p fun q => { q with peer := some (x, t1, some (rx - t1 + ptpTime m - ptpCorr m)) }
      else s.ptpPeer p (rx - t1 - ptpCorr m)
  | .pdelayFollowUp => match (s.ptpPort p).peer with
    | some (x, _, some part) => if x ≠ m.seq then s else s.ptpPeer p (part - ptpTime m - ptpCorr m)
    | _ => s

/-- A PTP message is received on an Ethernet port that is UP. The transport of a message decides nothing but that of the
answer. -/
def State.ptpMessage (s : State) (p : Nat) (e : PtpEvent) : State :=
  if s.tideState = 0 ∨ s.portState p ≠ 5 ∨ !s.ethernet p then s else s.ptpTake p e

/-- What the device announces of its master: its own clock as master or behind native hops, else one step behind the clock that it
follows. -/
def State.ptpOwnClock (s : State) : PtpClock :=
  let own : PtpClock :=
    { prio1 := BitVec.ofNat 8 (Config.ptpClock 0), quality := BitVec.ofNat 32 (Config.ptpClock 1)
      prio2 := BitVec.ofNat 8 (Config.ptpClock 2), identity := BitVec.ofNat 64 (Config.ptpClock 3)
      steps := BitVec.ofNat 16 s.announcedHops, sender := BitVec.ofNat 64 (Config.ptpClock 3) }
  if s.isMaster ∨ !s.ptpUpstream then own
  else match (s.ptpPort s.upstream).clock with
    | some c => { c with steps := c.steps + 1, sender := own.sender }
    | none => own

/-- A message of the device's own on a port, by the port's transport, that carries tide as it stands. -/
def State.ptpOwn (s : State) (p : Nat) (kind : PtpKind) (twoStep : Bool) (seq : BitVec 16) : PtpMsg :=
  ptpStamp { transport := match Config.ptpCarriage p with | 0 => .udp4 | 1 => .udp6 | _ => .l2
             kind := kind, seq := seq, twoStep := twoStep, correction := 0, sec := 0, ns := 0 } kind twoStep (16 * s.tide.now.toNat) 0

/-- A Sync that gives its time itself, or in two steps with a Follow_Up. -/
def State.ptpSyncOn (s : State) (p : Nat) (seq : BitVec 16) : State :=
  let two := Config.ptpTwoStep p
  let s := s.emit (.ptp p (s.ptpOwn p .sync two seq))
  if two then s.emit (.ptp p (s.ptpOwn p .followUp false seq)) else s

/-- What a device which offers time sends on its Ethernet ports, but for the one that it follows, at the boundaries of its message period:
an Announce and a Sync (DESIGN CHOICE, log 111). -/
def State.ptpSync (s : State) : State :=
  let period := (s.r32 Reg.tideMsgPeriod).toNat
  if s.announcedHops = 0xFF ∨ period = 0 ∨ s.tick % period ≠ 0 then s
  else s.each ((List.range 8).filter fun p => s.ethernet p && s.portState p == 5 && s.upstream != p) fun s p =>
    let seq := BitVec.ofNat 16 (s.tick / period)
    (s.emit (.ptp p (s.ptpOwn p (.announce s.ptpOwnClock) false seq))).ptpSyncOn p seq

def State.holdoverEntry (s : State) : State :=
  if s.tideState = 2 ∧ !s.isMaster ∧ 16 * (s.r32 Reg.tideMsgPeriod).toNat ≤ s.tide.silent then s.enterHoldover else s

def State.holdoverExpiry (s : State) : State :=
  if s.tideState = 3 ∧ !s.isMaster ∧ s.holdoverOver then s.enterLost else s

/-! ## The boundary's part (R10 to R12, R22, R30, R33) -/

/-- The next boundary of the device's own count. -/
def State.nextBoundary (s : State) : Nat := (s.tide.now.toNat / 1024 + 1) * 1024

/-- A load of TIDE_SET is armed and does not move tide back. -/
def State.loadTaken (s : State) : Bool :=
  s.tide.loadArmed && s.tideState == 1 && s.isMaster && decide (s.nextBoundary ≤ (s.r64 Reg.tideSet).toNat)

/-- Tide as the next boundary leaves it. -/
def State.boundaryTide (s : State) : Nat := if s.loadTaken then (s.r64 Reg.tideSet).toNat else s.nextBoundary

/-- Tide moves to a boundary: what was armed takes effect, and the ticks of silence and holdover and the slew advance. The
part of an offset that a tick slews out is free up to 200 ppm (R11). -/
def State.advanceTo (s : State) (v : Nat) (jump : Bool) : State :=
  let ticks := v / 1024 - s.tick
  let loaded := s.loadTaken
  let master := s.tide.masterArmed
  let lock := s.tide.lockArmed
  let st := s.tideState
  let cut : Int := (s.free % 13422 : Nat)
  let s := s.drawn.modTide fun t => { t with
    now := BitVec.ofNat 64 v, last := BitVec.ofNat 64 v, frac := 0
    silent := if st = 2 then t.silent + ticks else 0
    holdTicks := if st = 3 then t.holdTicks + ticks else t.holdTicks
    loadArmed := false, lockArmed := false, masterArmed := none
    slew := if 0 ≤ t.slew then max 0 (t.slew - cut) else min 0 (t.slew + cut) }
  let s := s.wb Reg.tideStat 3 (s.tide.slew != 0)
  if jump then ((s.setTideState 2).modTide fun t => { t with jumpDue := false, slew := 0 }).wb Reg.tideStat 3 false
  else if st = 1 ∧ s.isMaster ∧ (loaded ∨ lock) then s.lockMaster
  else match master with
    | some true => if st = 2 ∨ st = 3 then s.lockMaster else s
    | some false => (s.setTideState 1).noUpstream
    | none => s

/-- A boundary: tide moves, the upstream port is chosen among the ports that still offer, and PTP ports are served. -/
def State.advance (s : State) (v : Nat) (jump : Bool) : State := ((s.advanceTo v jump).chooseUpstream).ptpSync

/-! ## Step timers (R22, Tables 2-6 and 2-9) -/

def State.stepTimer (s : State) (n : Nat) : StepTimer := Sparse.get (fun _ => StepTimer.reset) s.tide.steps n
def State.setStepTimer (s : State) (n : Nat) (x : StepTimer) : State :=
  s.modTide fun t => { t with steps := Sparse.set (fun _ => StepTimer.reset) t.steps n x }

/-- A write of TIDE_STEPn_CTRL: a write of 1 to EN arms it for starts from the next boundary on; a 1 in SKIPPED clears it. -/
def State.stepCtrl (s : State) (n : Nat) (v : Word) : State :=
  let old := s.r32 (Reg.tideStepCtrl n)
  let skipped := if fld v 16 8 = 0 then fld old 16 8 else 0
  let s := s.w32 (Reg.tideStepCtrl n) (BitVec.ofNat 32 (fld v 0 8 + fld v 8 4 * 2 ^ 8 + skipped * 2 ^ 16))
  s.setStepTimer n (if v.getLsbD 0 then ⟨s.tick + 1, 0⟩ else StepTimer.reset)

/-- Starts BASE + k PERIOD of a timer above tick lo and up to tick hi. -/
def startsIn (base period lo hi : Nat) : Nat :=
  let upTo (t : Nat) : Nat := if t < base then 0 else (t - base) / max 1 period + 1
  upTo hi - upTo lo

/-- The start can be delivered: a signal cannot while the duty of its engines is 0 (R22, R450). -/
def State.stepCan (s : State) (n : Nat) : Bool := s.rb (Reg.tideStepCtrl n) 1 || s.duty != 0

/-- Starts that a boundary passes, prev being the tick of the boundary delivered before it, which a load in OFF may have left
behind (R22); the timers that can deliver are due. -/
def State.stepBoundary (s : State) (prev : Nat) : State × List Due :=
  (List.range 4).foldl (fun acc n =>
    let s := acc.1
    if !s.rb (Reg.tideStepCtrl n) 0 then acc
    else
      let x := s.stepTimer n
      let c := startsIn (s.r64 (Reg.tideStepBase n)).toNat (s.r32 (Reg.tideStepPeriod n)).toNat (max prev (x.from_ - 1)) s.tick
      let s := s.setStepTimer n { x with lost := x.lost + c }
      if x.lost + c = 0 ∨ !s.stepCan n then (s, acc.2) else (s, acc.2 ++ [.stepTimer n])) (s, [])

end Sys2Proof.Machine
end

