-- ==== Sys2Proof/Machine/Events.lean ====
section
/-! DEFINITION. Event lines, summaries and interrupts (R426 to R429), snapshots of the performance counters (R433, R434),
and errors of an engine's own SRAM (R417). -/
namespace Sys2Proof.Machine

/-! ## Event lines (R426, R427, Table 17-5) -/

/-- Pages that assert their event line. A page whose BLK_EVT reads 0 is not listed among the registers. -/
def State.eventPages (s : State) : List Nat :=
  s.regs.filterMap fun e =>
    if e.1 % 0x400 = 6 ∧ (e.2 &&& ~~~(s.r32 (blkEvtMask (e.1 / 0x400)))) ≠ 0 then some (e.1 / 0x400) else none

/-- Group and bit of a page. -/
def evtGroup (pn : Nat) : Option (Nat × Nat) :=
  match Reg.page pn with
  | some (.eng, e) => some (e / 32, e % 32)
  | some (.stk, ch) => some (8 + ch / 512, ch % 512 / 32)
  | some (.core, c) => some (16, c)
  | some (.cch, c) => some (16, 8 + c)
  | some (.brd, n) => some (17, n)
  | some (.brdTier, n) => some (17, n)
  | some (.fab, n) => some (18, n)
  | some (.xpt, _) => some (19, 0)
  | some (.gtx, _) => some (20, 0)
  | some (.tide, _) => some (21, 0)
  | some (.sec, _) => some (22, 0)
  | some (.fuse, _) => some (22, 1)
  | some (.pwr, _) => some (23, 0)
  | some (.srvCore, n) => some (24, n)
  | some (.srv, n) => some (24, n)
  | none => none

/-- An INTR packet of group g (R429). It is not sent while GP0 is not UP, and ARMED stays. -/
def State.intrSend (s : State) (g : Nat) : State :=
  if s.rb Reg.tideEvtGrp g ∧ s.rb (Reg.tideEvtRoute 0) g ∧ s.rb Reg.tideEvtArmed g ∧ s.gp0Up then
    (s.wb Reg.tideEvtArmed g false).gutexSend (.intr (s.rf Reg.tideEvtVec 0 11 + g)) 3 0x0A []
  else s

/-- The tide unit gathers the event lines and sends the interrupts that are due. -/
def State.gather (s : State) : State :=
  let m := s.eventPages.filterMap evtGroup
  let bits (g : Nat) : Word := m.foldl (fun v x => if x.1 = g then v ||| (1 <<< x.2) else v) 0
  let s := s.upTo 25 fun s g => s.w32 (Reg.tideEvtSum g) (bits g)
  let s := s.w32 Reg.tideEvtGrp (m.foldl (fun v x => v ||| (1 <<< x.1)) 0)
  s.upTo 25 State.intrSend

/-- The level interrupt of serving core n (R428). -/
def State.srvInterrupt (s : State) (n : Nat) : Bool := s.released && s.r32 Reg.tideEvtGrp &&& s.r32 (Reg.tideEvtRoute (n + 1)) != 0

/-- A write of TIDE_EVT_REARM. ARMED has the bits of the 25 groups. -/
def State.evtRearm (s : State) (v : Word) : State := s.orReg Reg.tideEvtArmed (v &&& 0x01FFFFFF)

/-! ## Snapshots (R433, R434) -/

/-- A word of a performance counter, by word index. -/
def isPerf (i : Nat) : Bool := match Reg.info (4 * i) with | some w => w.kind == .perf | none => false

/-- The boundary takes a snapshot and then clears, where asked; a performance counter not listed stands at 0. -/
def State.snapBoundary (s : State) : State :=
  let s := if s.tide.snapTake then
      ((s.modTide fun t => { t with snap := s.regs.filter fun e => isPerf e.1, snapTake := false }).wb
        Reg.tideCntSnap 8 true).w64 Reg.tideCntSnapTick (BitVec.ofNat 64 s.tick)
    else s
  let s := if s.tide.snapClear then
      { s with regs := s.regs.filter fun e => !isPerf e.1 }.modTide fun t => { t with snapClear := false }
    else s
  s.wb Reg.tideCntSnap 9 false

def State.snapArm (s : State) (take clear : Bool) : State :=
  (s.modTide fun t => { t with snapTake := t.snapTake || take, snapClear := t.snapClear || clear }).wb Reg.tideCntSnap 9
    (s.rb Reg.tideCntSnap 9 || take || clear)

def State.snapRelease (s : State) : State := s.wb Reg.tideCntSnap 8 false

/-- What a read of a performance counter word gives. -/
def State.perfRead (s : State) (off : Nat) : Word :=
  if s.rb Reg.tideCntSnap 8 then Sparse.get (fun _ => 0) s.tide.snap (off / 4) else s.r32 off

/-! ## Errors of an engine's SRAM (R417) -/

/-- Slots that carry the poison bit of an accumulator word's tile row, and the row (Table 6-2, R126): both slots of a
SHAPE 0 tile carry the bits of its 64 rows. -/
def accRow (g : Engine) (slot word : Nat) : List Nat × Nat :=
  let shape (t : Nat) : Option (BitVec 2) := (Sparse.get (fun _ => SlotMeta.empty) g.slots t).shape
  if shape slot = some 0 then ([slot / 2 * 2, slot / 2 * 2 + 1].filter fun t => shape t == some 0, 32 * (slot % 2) + word / 64)
  else ([slot], if shape slot = some 2 then word / 32 else word / 64)

def State.spadUe (s : State) (e : Nat) (w : SpadWhere) : State :=
  let s := s.modEngine e fun g => match w with
    | .unit u => { g with spadPoison := setFlag g.spadPoison u.val true }
    | .acc slot word =>
      let r := accRow g slot word
      r.1.foldl (fun g t => g.poisonSlot t (1 <<< r.2)) g
  (s.count (Reg.engSpadUeCnt e) 1).raise (enPage e) 23 2 e

end Sys2Proof.Machine
end

