-- ==== Sys2Proof/Machine/Contexts.lean ====
section
/-! DEFINITION. Contexts: engine images (R395 to R398), the choice of what to switch (R399 to R402), accounting (R403 to
R405, R432), and entry to static mode (R406). -/
namespace Sys2Proof.Machine

/-- Insert before the first element that does not come before x. -/
def insertBy {α : Type} (before : α → α → Bool) (x : α) (l : List α) : List α :=
  match l with
  | [] => [x]
  | y :: t => if before y x then y :: insertBy before x t else x :: y :: t

/-- A stable sort. -/
def sortBy {α : Type} (before : α → α → Bool) (l : List α) : List α := l.foldr (insertBy before) []

/-! ## Contexts (R393, R394, Tables 16-1, 16-13 and 16-14) -/

def State.ctx (s : State) (k : Nat) : Ctx := Sparse.get (fun _ => Ctx.reset) s.srv.ctxs k
def State.setCtx (s : State) (k : Nat) (c : Ctx) : State :=
  s.modSrv fun v => { v with ctxs := Sparse.set (fun _ => Ctx.reset) v.ctxs k c }
def State.modCtx (s : State) (k : Nat) (f : Ctx → Ctx) : State := s.setCtx k (f (s.ctx k))

/-- Resident: VALID in CORE_CTX_ROOTk, which software writes alike in all cores (R244). -/
def State.resident (s : State) (k : Nat) : Bool := s.rb (Reg.coreCtxRoot 0 k) 0

/-- State of a context: FREE while not resident; a context that becomes resident is LOADED. -/
def State.ctxState (s : State) (k : Nat) : Nat :=
  if !s.resident k then 0 else if (s.ctx k).state = 0 then 1 else (s.ctx k).state

def Ctx.share (c : Ctx) : Nat := fld c.cfg 0 16
def Ctx.switchable (c : Ctx) : Bool := c.cfg.getLsbD 16
def Ctx.fbMode (c : Ctx) : Nat := fld c.cfg 17 2
def Ctx.set (c : Ctx) : List Nat := (List.range 256).filter fun e => c.engines.getLsbD e
def Ctx.meets (a b : Ctx) : Bool := a.engines &&& b.engines != 0

/-- The expected wait W_k. -/
def State.ctxWait (s : State) (k : Nat) : Nat :=
  let l := (s.ctx k).waits
  if l.length < 8 then (s.ctx k).waitHint.toNat else l.sum / 8

/-- A SAVE or LOAD of the context's image is in progress on some of its engines. -/
def State.ctxMoving (s : State) (k : Nat) : Bool :=
  (s.ctx k).set.any fun e => match (s.engine e).csw with | some j => j.ctx == some k | none => false

/-- STATE of Table 16-1: SWITCHING while a SAVE or LOAD is in progress; between them a context on its way is still where it was, on its
engines or in images (DESIGN CHOICE, log 79). -/
def State.ctxCode (s : State) (k : Nat) : Nat :=
  let st := s.ctxState k
  if st = 0 then 0 else if s.ctxMoving k then 2 else if st = 2 then (if (s.ctx k).leaving then 1 else 3) else st

/-- SRV_CTX_STAT of a context. Only a loaded context is blocked (R399). -/
def State.ctxStat (s : State) (k : Nat) : Word :=
  let c := s.ctx k
  let code := s.ctxCode k
  BitVec.ofNat 32 (code + (c.blocked && code == 1).toNat * 4 + c.runnable.toNat * 8 + c.target.toNat * 16
    + min 65535 (s.ctxWait k) * 2 ^ 16)

/-! ## Engine images (R395 to R398) -/

/-- Words of an ENG_ page that an image holds: the queue registers, NUM_CTRL, NUM_STICKY, VX_QSTAT_BASE (Table 16-2). -/
def imageRegs : List Nat := ((List.range 32).map fun i => 0x100 + 4 * i) ++ [0x700, 0x704, 0x788, 0x78C]

/-- Bytes of the data part, and of the header behind the counter area. -/
def imageData : Nat := 2367488
def imageHead : Nat := 3072

/-- A command fails; one that is in progress goes on (R395). -/
def State.cswFail (s : State) (e cause : Nat) : State :=
  ((s.wb (Reg.engCswStat e) 1 true).wf (Reg.engCswStat e) 4 4 cause).raise (enPage e) 22 10 e

/-- The engine is idle: neither ACTIVE nor DRAINING, no commit pending, no command in progress. -/
def State.cswIdle (s : State) (e : Nat) : Bool :=
  !s.active (enPage e) && !s.draining (enPage e) && !s.rb (blkModeShadow (enPage e)) 16 && (s.engine e).csw.isNone

def State.slotHeld (s : State) (e slot : Nat) : Bool := s.rb (Reg.engCswStat e) (7 + slot)

/-- A context that is being saved and whose engine set holds e. -/
def State.leaver (s : State) (e : Nat) : Option Nat :=
  (List.range 64).find? fun k => s.ctxState k == 2 && (s.ctx k).leaving && (s.ctx k).engines.getLsbD e

/-- The context that a SAVE of an engine takes off it: the one on its engines whose set holds it. -/
def State.savedCtx (s : State) (e : Nat) : Option Nat :=
  (s.leaver e).or ((List.range 64).find? fun k => s.ctxState k == 1 && (s.ctx k).engines.getLsbD e)

/-- Where image n of a context's engine lies: header and data (R412). -/
def Ctx.imageAt (c : Ctx) (e n : Nat) : Dword × Dword :=
  let j := (c.set.takeWhile fun x => x != e).length
  (c.hdr + BitVec.ofNat 64 (0x1000 * (3 * j + n - 1)), c.data + BitVec.ofNat 64 (0x250000 * (3 * j + n - 1)))

/-- The context whose image a slot of an engine holds: one away, or on its way in, whose image of that engine lies at the slot's
header. -/
def State.loadedCtx (s : State) (e slot : Nat) : Option Nat :=
  (List.range 64).find? fun k =>
    (s.ctxState k == 3 || (s.ctxState k == 2 && !(s.ctx k).leaving)) && (s.ctx k).engines.getLsbD e
    && ((s.ctx k).imageAt e slot).1 == s.r64 (Reg.engCswAway e (slot - 1))

/-- The firmware's writes of ENG_CSW_HDR and ENG_CSW_DATA before it saves an engine of the context it switches out. -/
def State.cswAddr (s : State) (e slot : Nat) : State :=
  match s.leaver e with
  | none => s
  | some k =>
    let a := (s.ctx k).imageAt e slot
    (s.w64 (Reg.engCswHdr e) a.1).w64 (Reg.engCswData e) a.2

/-- Bits of two masks of counters whose IMG a command sets: 2 bits a counter. -/
def State.setTcImg (s : State) (e t v : Nat) : State :=
  let r := if t < 32 then Reg.engTcImg0 e else Reg.engTcImg1 e
  s.w64 r (putFld (s.r64 r) (2 * (t % 32)) 2 v)
def State.setCcImg (s : State) (e c v : Nat) : State :=
  s.w64 (Reg.engCcImg e) (putFld (s.r64 (Reg.engCcImg e)) (2 * c) 2 v)

/-- Eight bytes of the counter area as the engine writes them: what no mask names is free. -/
def State.areaWord (s : State) (e tcm ccm i : Nat) : Nat :=
  let held (m t v : Nat) : Nat := if m / 2 ^ t % 2 = 1 then v else s.free
  if i < 64 then held tcm i (s.r32 (Reg.engTc e i)).toNat
  else if i = 64 then Nat.land (s.r64 (Reg.engTcErr e)).toNat tcm
  else if i = 65 then Nat.land (s.r64 (Reg.engTcStuck e)).toNat tcm
  else if i = 66 then tcm
  else if i = 67 then ccm
  else if 72 ≤ i ∧ i < 104 then
    held ccm (i - 72) (s.rf (Reg.engCc e (i - 72)) 16 16 + s.rf (Reg.engCc e (i - 72)) 0 16 * 2 ^ 16)
  else s.free

/-- The counter area of an image (Table 16-3). -/
def State.counterArea (s : State) (e tcm ccm : Nat) : State × List Byte :=
  (List.range 128).foldl (fun acc i => (acc.1.drawn, acc.2 ++ bytesLE 8 (acc.1.areaWord e tcm ccm i))) (s, [])

/-- Lines of n bytes from an offset of a space of this device. -/
def State.linesAt (s : State) (space off n : Nat) : List (Nat × Nat) :=
  (List.range (n / 128)).map fun i => s.lineId space (off + 128 * i)

/-- What an engine holds, as an image. -/
def State.engineImage (s : State) (e : Nat) (lines : List (Nat × Nat)) : Image :=
  let g := s.engine e
  { lines := lines, intact := true, acc := g.acc, slots := g.slots, spad := g.spad, spadPoison := g.spadPoison, era := g.era, accEra := g.accEra,
    regs := imageRegs.map fun o => (o, s.r32 (Reg.engPage e + o)) }

/-- SAVE empties the engine: ENG_Qn_ registers, scratchpad and slots. -/
def State.cswEmpty (s : State) (e : Nat) : State :=
  (s.upTo 32 fun s i => s.w32 (Reg.engPage e + 0x100 + 4 * i) 0).modEngine e fun g => { g with
    fetched := [], tasks := [], spad := [], spadPoison := [], era := none, accEra := none, acc := [], slots := [] }

/-- Where ENG_CSW_HDR and ENG_CSW_DATA put an image: its header in space 0, its data in the space that they name (Table 16-10). -/
def State.cswHdr (s : State) (e : Nat) : Nat := (s.r64 (Reg.engCswHdr e)).toNat / 4096 * 4096
def State.cswSpace (s : State) (e : Nat) : Nat := fld (s.r64 (Reg.engCswData e)) 0 1
def State.cswOff (s : State) (e : Nat) : Nat := fld (s.r64 (Reg.engCswData e)) 12 39 * 4096
def State.cswTcs (s : State) (e : Nat) : Nat := (s.r64 (Reg.engCswTcmask e)).toNat
def State.cswCcs (s : State) (e : Nat) : Nat := (s.r32 (Reg.engCswCcmask e)).toNat

/-- The image of an engine that is saved. -/
def State.cswImage (s : State) (e : Nat) : Image :=
  s.engineImage e (s.linesAt 0 (s.cswHdr e + 1024) imageHead ++ s.linesAt (s.cswSpace e) (s.cswOff e) imageData)

/-- The bytes of an image are written, the counter area last: whether every line of it could be. Its bytes behind the counter area are
free, since their layout is not published. -/
def State.cswStore (s : State) (e : Nat) : State × Bool :=
  let hdr := s.cswHdr e
  let space := s.cswSpace e
  let doff := s.cswOff e
  let tcm := s.cswTcs e
  let ccm := s.cswCcs e
  let w1 := s.spanWrite 0 (hdr + 1024) e 0 (s.freeBytes imageHead) false
  let s := w1.1.drawnN imageHead
  let w2 := s.spanWrite space doff e 0 (s.freeBytes imageData) false
  let s := w2.1.drawnN imageData
  let a := s.counterArea e tcm ccm
  let w3 := a.1.spanWrite 0 hdr e 0 a.2 false
  (w3.1, w1.2 == 0 && w2.2 == 0 && w3.2 == 0)

/-- A write of SAVE: the image, then the switch point (R396); it completes at CSW_DONE. -/
def State.cswSave (s : State) (e slot : Nat) : State :=
  if !s.cswIdle e then s.cswFail e 1
  else if slot = 0 ∨ s.slotHeld e slot then s.cswFail e 2
  else
    let owner := s.savedCtx e
    let s := s.cswAddr e slot
    let hdr := s.cswHdr e
    let tcm := s.cswTcs e
    let ccm := s.cswCcs e
    let im := s.cswImage e
    let w := (s.wf (Reg.engCswStat e) 0 8 1).cswStore e
    if !w.2 then w.1.modEngine e fun g => { g with csw := some ⟨1, slot, 4, owner⟩ }
    else
      let s := w.1.modMem fun m => m.addImage im
      let s := s.upTo 64 fun s t => if tcm / 2 ^ t % 2 = 1 then s.setTcImg e t slot else s
      let s := s.upTo 32 fun s c => if ccm / 2 ^ c % 2 = 1 then s.setCcImg e c slot else s
      let s := (s.w64 (Reg.engCswAway e (slot - 1)) (BitVec.ofNat 64 hdr)).wb (Reg.engCswStat e) (7 + slot) true
      (s.cswEmpty e).modEngine e fun g => { g with csw := some ⟨1, slot, 0, owner⟩ }

/-- The counters of a slot taken from their area (R398): stuck by R63, clamped by R67. -/
def State.restoreCounters (s : State) (e slot : Nat) (area : List Byte) : State :=
  let word (i : Nat) : Nat := natLE (slice area (8 * i) 8)
  let s := s.upTo 64 fun s t =>
    if s.tcImg e t ≠ slot then s
    else
      let v := word t
      let was := word 65 / 2 ^ t % 2 == 1
      let stuck := was || decide (2 ^ 32 ≤ v)
      let s := (s.setTcImg e t 0).w32 (Reg.engTc e t) (BitVec.ofNat 32 (if stuck then 2 ^ 32 - 1 else v))
      let s := (s.setBit64 (Reg.engTcErr e) t (word 64 / 2 ^ t % 2 == 1)).setBit64 (Reg.engTcStuck e) t stuck
      s.raiseIf (stuck && !was) (enPage e) 9 10 e
  s.upTo 32 fun s c =>
    if s.ccImg e c ≠ slot then s
    else
      let limit := word (72 + c) % 2 ^ 16
      let v := word (72 + c) / 2 ^ 16
      let s := (s.setCcImg e c 0).w32 (Reg.engCc e c) (BitVec.ofNat 32 (min v limit + limit * 2 ^ 16))
      if v ≤ limit then s else (s.orReg (Reg.engCcOvf e) (BitVec.ofNat 32 (2 ^ c))).raise (enPage e) 10 10 e

/-- The registers of an image. -/
def State.restoreRegs (s : State) (e : Nat) (im : Image) : State :=
  s.each im.regs fun s x => s.w32 (Reg.engPage e + x.1) x.2

/-- The image whose header lies at a space-0 offset. -/
def State.imageOf (s : State) (hdr : Nat) : Option Image :=
  s.mem.images.find? fun im => im.lines.head? == some (s.lineId 0 (hdr + 1024))

/-- Lines of an image that read poisoned or not at all make it fail its check. -/
def State.imageGood (s : State) (im : Image) : Bool :=
  im.intact && im.lines.all fun l =>
    if l.1 = 0 then
      match s.cached l.2 with
      | some c => !c.poison
      | none => s.chanOn (keyChan l.2) && !(s.chanRead l.2 0).2.poison
    else let r := (s.boardRead (128 * l.2) 0).2; !r.poison && r.err == 0

/-- A write of LOAD: the load point and the image; it completes at CSW_DONE. -/
def State.cswLoad (s : State) (e slot : Nat) : State :=
  if !s.cswIdle e then s.cswFail e 1
  else if slot = 0 ∨ !s.slotHeld e slot then s.cswFail e 2
  else
    let hdr := (s.r64 (Reg.engCswAway e (slot - 1))).toNat
    let owner := s.loadedCtx e slot
    let s := s.wf (Reg.engCswStat e) 0 8 1
    let a := s.spanRead 0 hdr 1024 e 0
    let s := a.1
    let fail := s.modEngine e fun g => { g with csw := some ⟨2, slot, 3, owner⟩ }
    match s.imageOf hdr with
    | none => fail
    | some im =>
      if !s.imageGood im ∨ a.2.poison ∨ a.2.err ≠ 0 then fail
      else
        let s := (s.restoreCounters e slot a.2.data).restoreRegs e im
        let s := (s.w64 (Reg.engCswAway e (slot - 1)) 0).wb (Reg.engCswStat e) (7 + slot) false
        let s := s.modMem fun m => { m with images := m.images.filter fun x => x != im }
        s.modEngine e fun g => { g with
          fetched := [], spad := im.spad, spadPoison := im.spadPoison, era := im.era, accEra := im.accEra, acc := im.acc
          slots := im.slots
          csw := some ⟨2, slot, 0, owner⟩ }

/-- A SAVE or LOAD completes; a SAVE counts for the context whose image it is (Table 16-6). -/
def State.cswDone (s : State) (e : Nat) : State :=
  match (s.engine e).csw with
  | none => s
  | some j =>
    let s := (s.modEngine e fun g => { g with csw := none }).wb (Reg.engCswStat e) 0 false
    if j.cause ≠ 0 then s.cswFail e j.cause
    else
      let s := s.raise (enPage e) 21 5 e
      match j.ctx with
      | none => s
      | some k =>
        let s := if j.op = 1 then s.modSrv fun p => { p with switches := setNat p.switches k (natAt p.switches k + 1) } else s
        s.modCtx k fun c => { c with moved := c.moved ||| (1 <<< e) }

/-! ## Blocked and runnable (R399) -/

/-- No task of the context runs, and the head of every queue bound to it is empty or waits for a token or a credit. -/
def State.ctxIdle (s : State) (k : Nat) : Bool :=
  (s.ctx k).set.all fun e => (List.range 4).all fun q =>
    s.qCtx e q != k ||
      ((s.qTasks e q).all (·.done) && match s.holdReason e q with | some (r, _) => decide (r ≤ 2) | none => false)

/-- A task of the context has started or completed in the tick that ended, prev. -/
def State.ctxTurned (s : State) (k prev : Nat) : Bool :=
  (s.ctx k).set.any fun e => (List.range 4).any fun q => s.qCtx e q == k && natAt (s.engine e).turned q == prev + 1

/-- The context has been so for SRV_CTX_BLOCK ticks. The firmware looks at the heads of its queues at each boundary (DESIGN CHOICE,
log 149). -/
def State.ctxBlocks (s : State) (k : Nat) : Bool :=
  s.ctxState k == 1 && s.ctxIdle k && decide ((s.r32 Reg.srvCtxBlock).toNat ≤ (s.ctx k).quiet)

def State.contextBlocked (s : State) (k : Nat) : State :=
  if s.running ∧ s.ctxBlocks k ∧ !(s.ctx k).blocked then s.modCtx k fun c => { c with blocked := true, blockedAt := s.tick }
  else s

/-- Some saved queue's head would start, were the counter area of its image the engine's counters. The firmware's reads of
the image and of the rings leave no trace in the model. -/
def State.ctxRunnable (s : State) (k : Nat) : Bool :=
  let c := s.ctx k
  c.set.any fun e => [1, 2, 3].any fun n =>
    s.slotHeld e n && s.r64 (Reg.engCswAway e (n - 1)) == (c.imageAt e n).1 &&
      let hdr := (s.r64 (Reg.engCswAway e (n - 1))).toNat
      match s.imageOf hdr with
      | none => false
      | some im =>
        let t := (s.restoreCounters e n (s.spanRead 0 hdr 1024 5120 0).2.data).restoreRegs e im
        (List.range 4).any fun q =>
          t.r32 (Reg.engQHead e q) != t.r32 (Reg.engQTail e q) && !t.rb (Reg.engQStat e q) 9 &&
            match (t.readDesc e q (t.r32 (Reg.engQHead e q))).2 with
            | .inr _ => false
            | .inl d => d.waits.all (t.waitMet e d.waits) && d.takes.all (t.takeMet e d.takes)

/-- One blocked interval has ended. -/
def Ctx.woken (c : Ctx) (now : Nat) : Ctx := { c with blocked := false, waits := ((now - c.blockedAt) :: c.waits).take 8 }

/-- The ticks of a loaded context that the accounting counts (Table 16-6), while it is enabled. -/
def State.ctxTicks (s : State) (k : Nat) : State :=
  if !s.rb Reg.pwrAcctCfg 31 then s
  else s.modSrv fun p => { p with
    loaded := setNat p.loaded k (natAt p.loaded k + 1)
    blocked := if (s.ctx k).blocked then setNat p.blocked k (natAt p.blocked k + 1) else p.blocked }

/-- A loaded context at a boundary, prev being the tick that ended: one more quiet tick, or the end of a blocked interval. -/
def State.ctxQuiet (s : State) (k prev : Nat) : State :=
  if s.ctxIdle k ∧ !s.ctxTurned k prev then
    (s.modCtx k fun c => { c with quiet := c.quiet + (s.tick - prev) }).contextBlocked k
  else s.modCtx k fun c => { (if c.blocked then c.woken s.tick else c) with quiet := 0 }

/-- What the firmware finds of a context at a boundary: one whose engines are all saved is away, one whose engines are all loaded is
on them again; a loaded context has been quiet, or not; an away context has become runnable. -/
def State.ctxRefresh (s : State) (k prev : Nat) : State :=
  let c := s.ctx k
  let through := c.engines != 0 && c.moved == c.engines
  match s.ctxState k with
  | 1 =>
    let s := s.ctxTicks k
    if through then s.modCtx k fun c => { c with state := 3, moved := 0, quiet := 0, runnable := false } else s.ctxQuiet k prev
  | 2 =>
    if !through then s
    else if c.leaving then
      s.modCtx k fun c => { c with state := 3, moved := 0, quiet := 0, yield_ := false, target := false, runnable := false }
    else
      let s := s.each c.set fun s e => s.engineOn e
      s.modCtx k fun c => { c with state := 1, moved := 0, quiet := 0, target := false, runnable := false, blocked := false }
  | 3 =>
    let r := s.ctxRunnable k
    if through then s.modCtx k fun c => { c with state := 1, moved := 0, quiet := 0, target := false, runnable := false, blocked := false }
    else if r ∧ !c.runnable then
      s.modCtx k fun c => { (if c.blocked then c.woken s.tick else c) with runnable := true, runnableAt := s.tick }
    else if !r then s.modCtx k fun c => { c with runnable := false } else s
  | _ => s

/-! ## The choice (R400, R401) -/

/-- Order of the runnable away contexts: descending SHARE, then the earliest to become runnable, then the lowest number. -/
def State.ctxBefore (s : State) (a b : Nat) : Bool :=
  let x := s.ctx a
  let y := s.ctx b
  decide (y.share < x.share) || (x.share == y.share && (decide (x.runnableAt < y.runnableAt) ||
    (x.runnableAt == y.runnableAt && decide (a < b))))

def State.runnables (s : State) : List Nat :=
  sortBy s.ctxBefore ((List.range 64).filter fun k => s.ctxState k == 3 && (s.ctx k).runnable)

/-- Contexts on engines, or moving on or off them, that hold an engine of k's set. -/
def State.holders (s : State) (k : Nat) : List Nat :=
  (List.range 64).filter fun j => j != k && (s.ctxState j == 1 || s.ctxState j == 2) && (s.ctx j).meets (s.ctx k)

def State.reserved (s : State) (k : Nat) : Bool :=
  (List.range 64).any fun j => j != k && (s.ctx j).target && s.ctxState j != 1 && (s.ctx j).meets (s.ctx k)

def State.switching (s : State) : Bool := (List.range 64).any fun k => s.ctxState k == 2

/-- Step 1: loading. -/
def State.ctxLoads (s : State) : State :=
  s.each s.runnables fun s k =>
    if (s.holders k).isEmpty ∧ !s.reserved k then s.modCtx k fun c => { c with state := 2, leaving := false, moved := 0 } else s

/-- Step 2: the target. -/
def State.ctxTarget (s : State) : State :=
  if s.switching ∨ (List.range 64).any (fun k => s.ctxState k == 3 && (s.ctx k).target) then s
  else match s.runnables.find? fun k => !(s.holders k).isEmpty with
    | some k => s.modCtx k fun c => { c with target := true }
    | none => s

/-- A context runs a step that has not completed. -/
def State.ctxInStep (s : State) (k : Nat) : Bool :=
  s.srv.basket.live && s.srv.basket.rows.any fun r => !r.done && (s.hamper r.hamper).ctx == k

/-- The context is to yield its engines, which a runnable away context still wants (R402). -/
def State.ctxYields (s : State) (k : Nat) : Bool :=
  (s.ctx k).yield_ && (List.range 64).any fun j => s.ctxState j == 3 && (s.ctx j).runnable && (s.ctx j).meets (s.ctx k)

/-- A context may be taken off its engines. -/
def State.ctxIdleEnough (s : State) (k : Nat) : Bool :=
  s.ctxState k == 1 && (s.ctx k).switchable && ((s.ctx k).blocked || (s.ctxYields k && !s.ctxInStep k))

/-- a is the better victim: lower SHARE / W, then the larger W, then the higher number. -/
def State.victimBefore (s : State) (a b : Nat) : Bool :=
  let l := (s.ctx a).share * s.ctxWait b
  let r := (s.ctx b).share * s.ctxWait a
  decide (l < r) || (l == r && (decide (s.ctxWait b < s.ctxWait a) || (s.ctxWait a == s.ctxWait b && decide (b < a))))

/-- Step 3: the victim's switch-out begins; its engines are disabled, gracefully. One victim is switched at a time. -/
def State.ctxVictim (s : State) : State :=
  if (List.range 64).any fun k => s.ctxState k == 2 && (s.ctx k).leaving then s
  else match (List.range 64).find? fun k => s.ctxState k == 3 && (s.ctx k).target with
    | none => s
    | some t =>
      let l := s.holders t
      if !l.all s.ctxIdleEnough then s
      else match (sortBy s.victimBefore l).head? with
        | none => s
        | some v =>
          let s := s.modCtx v fun c => { c with state := 2, leaving := true, moved := 0, blockedAt := if c.blocked then c.blockedAt else s.tick }
          let s := s.each (s.ctx v).set fun s e => s.engineOff e
          (s.count Reg.srvSwitchCnt 1).sample srvPn 12

/-- The firmware's scheduling at a boundary, after its events have been resolved, prev being the tick that ended (R400). -/
def State.ctxSchedule (s : State) (prev : Nat) : State :=
  let s := s.upTo 64 fun s k => s.ctxRefresh k prev
  if s.running then (s.ctxLoads.ctxTarget).ctxVictim else s

/-! ## Shares (R402) -/

/-- The end of a share window. The engine cycles that a context used are free (log 40). -/
def State.shareWindow (s : State) : State :=
  let w := (s.r32 Reg.srvShareWindow).toNat
  if !s.running ∨ s.tick < s.srv.windowAt + w then s
  else
    let s := s.modSrv fun v => { v with windowAt := s.tick }
    let live := (List.range 64).filter fun k => s.ctxState k == 1 || (s.ctxState k == 3 && (s.ctx k).runnable)
    let s := s.each live fun s k => (s.modCtx k fun c => { c with used := s.free }).drawn
    let total := (live.map fun k => (s.ctx k).share).sum
    let above (k : Nat) : Bool := decide ((s.ctx k).share * (256 * w) < (s.ctx k).used * total)
    let below (k : Nat) : Bool := decide ((s.ctx k).used * total < (s.ctx k).share * (256 * w))
    s.each (live.filter fun k => s.ctxState k == 1) fun s k =>
      let wanted := live.any fun j => s.ctxState j == 3 && (s.ctx j).meets (s.ctx k) && below j
      s.modCtx k fun c => { c with yield_ := c.switchable && above k && wanted }

/-! ## Accounting (R403 to R405, R432) -/

/-- The period's amount of count field i of record k (Table 16-6), but for energy: bytes, switches and ticks are counted; cycles are
free, and none for record 64 (log 40). -/
def State.acctCount (s : State) (k i : Nat) : Nat :=
  match i with
  | 2 | 3 | 4 | 5 | 6 => natAt s.mem.moved (8 * k + (i - 2))
  | 10 => natAt s.srv.switches k
  | 11 => natAt s.srv.loaded k
  | 12 => natAt s.srv.blocked k
  | _ => if k = 64 then 0 else Config.free (s.fresh + 13 * k + i) % 2 ^ 48

/-- Weighted activity of a context. -/
def State.activity (s : State) (k : Nat) : Nat :=
  ((List.range 13).map fun i => if i = 7 then 0 else Config.energyCoef i * s.acctCount k i).sum

/-- The period's energy of each record in 1/1,024 µJ, with what it carries (R404): the dynamic part, which is free, goes to contexts in
proportion to their activity, and the remainder to record 64. -/
def State.energyParts (s : State) : List Nat :=
  let dyn := Config.free (s.fresh + 13 * 65) % (s.srv.energy + 1)
  let act := (List.range 64).map s.activity
  let parts := act.map fun a => dyn * a / max 1 act.sum
  (parts ++ [s.srv.energy - parts.sum]).zipIdx.map fun x => x.1 + natAt s.srv.carried x.2

/-- A period's amount of count field i, from the counted amounts and the energy in 1/1,024 µJ, of which whole µJ are added. -/
def acctAdd (amt : List Nat) (energy i : Nat) : Nat := if i = 7 then energy / 1024 else nth 0 amt i

/-- SLOWDOWN of a period. -/
def acctSlow (amt : List Nat) (energy : Nat) : Nat :=
  let add := acctAdd amt energy
  min 65535 (if add 0 = 0 then 256 else 256 * (add 0 + add 8) / add 0)

/-- A record (Table 16-6) that a period's amounts have been added to, at a tick. -/
def acctBytes (old : List Byte) (amt : List Nat) (energy tick : Nat) : List Byte :=
  ((List.range 13).flatMap fun i => bytesLE 8 (min (2 ^ 64 - 1) (natLE (slice old (8 * i) 8) + acctAdd amt energy i)))
    ++ bytesLE 8 (acctSlow amt energy) ++ bytesLE 8 tick ++ bytesLE 8 0

/-- Where record k lies in space 0. -/
def State.acctOff (s : State) (k : Nat) : Nat := (s.r64 Reg.pwrAcctBase).toNat / 128 * 128 + 128 * k

/-- One record's update from the period's amounts: one locked read-modify-write; saturation, SLOWDOWN and its limit. The fraction of a
µJ is carried. -/
def State.acctRecord (s : State) (k : Nat) (amt : List Nat) (energy : Nat) : State :=
  let off := s.acctOff k
  let r := s.lineRead 0 off 5126 0
  let s := r.1
  if r.2.err ≠ 0 then s.modSrv fun v => { v with carried := setNat v.carried k energy }
  else
    let sat := (List.range 13).any fun i => decide (2 ^ 64 ≤ natLE (slice r.2.data (8 * i) 8) + acctAdd amt energy i)
    let s := (s.lineWrite 0 off 5126 0 (acctBytes r.2.data amt energy s.tick) r.2.poison).1.modSrv fun v =>
      { v with carried := setNat v.carried k (energy % 1024) }
    let s := if sat then
        (if k < 64 then s.setBit64 Reg.pwrAcctSat0 k true else s.wb Reg.pwrAcctSat1 0 true).raise pwrPn 21 10 5126 else s
    s.raiseIf (decide (k < 64) && decide (s.rf Reg.pwrAcctCfg 0 16 < acctSlow amt energy)) pwrPn 20 10 5126

/-- A period begins: nothing has been counted in it. -/
def State.acctStart (s : State) : State :=
  (s.modSrv fun p => { p with acctAt := s.tick, switches := [], loaded := [], blocked := [], energy := 0 }).modMem fun m =>
    { m with moved := [] }

/-- The end of an accounting period. -/
def State.acctPeriod (s : State) : State :=
  if !s.rb Reg.pwrAcctCfg 31 ∨ s.tick < s.srv.acctAt + (s.r32 Reg.pwrAcctPeriod).toNat then s
  else
    let amts := (List.range 65).map fun k => (List.range 13).map (s.acctCount k)
    let parts := s.energyParts
    let s := ((s.drawnN (13 * 65 + 1)).acctStart).upTo 65 fun s k => s.acctRecord k (nth [] amts k) (nth 0 parts k)
    s.w64 Reg.pwrAcctGen (s.r64 Reg.pwrAcctGen + 1)

/-! ## Real-time modes (R406, R412) -/

/-- A queue pair that sends on a port has a peer other than the device at the port's link. -/
def State.indirectPeer (s : State) (p : Nat) : Bool :=
  s.liveQps.any fun n => (s.qp n).port == p && (s.qp n).peerDev != s.rf (Reg.fabPeer p) 0 10

/-- The case of R406 that refuses entry, 0 for none. -/
def State.staticRefused (s : State) : Nat :=
  if (List.range 8).any fun p => s.rb Reg.srvStPorts p && (s.ethernet p || s.portState p != 5 || s.rf (Reg.fabStat p) 3 2 != 2 || s.indirectPeer p) then 1
  else if min s.swCap s.bmcCap < (s.r32 Reg.srvStPower).toNat then 2
  else if (List.range 64).any fun k => s.resident k && (s.ctx k).switchable then 3
  else if s.tideState ≠ 2 ∨ 4 < s.rf Reg.tideStat 12 4 then 4
  else if (s.r32 (Reg.tideStepPeriod 0)).toNat < (s.r32 Reg.srvStWcet).toNat + s.rf Reg.srvStepCfg 28 4 then 5
  else 0

/-- A write of SRV_RT_CFG: it takes effect only while RUNNING is 0; entry to static mode sets the bounds of the schedule,
which the spec does not give. -/
def State.rtCfg (s : State) (v : Word) : State :=
  let m := fld v 0 2
  let s := s.w32 Reg.srvRtCfg (BitVec.ofNat 32 m)
  if s.running ∨ m = 3 then s
  else if m = 1 then
    let cause := s.staticRefused
    if cause ≠ 0 then (s.wb Reg.srvRtStat 2 true).wf Reg.srvRtStat 4 4 cause
    else
      let s := s.w32 Reg.srvRtStat 1
      let s := s.wf Reg.srvStepCfg 0 13 (1 + s.free % 4096)
      (s.drawn.w32 Reg.srvStepTokens (BitVec.ofNat 32 (1 + Config.free (s.fresh + 1) % 65536))).drawn
  else s.w32 Reg.srvRtStat (BitVec.ofNat 32 m)

/-- The real-time mode in force. -/
def State.rtMode (s : State) : Nat := s.rf Reg.srvRtStat 0 2

end Sys2Proof.Machine
end

