-- ==== Sys2Proof/Machine/Transfer.lean ====
section
/-! DEFINITION. Sharing and receiving caches: what the firmware writes into a sequence's stream regions when it shares a prefix
(R204) or receives a transfer image (R206 to R209). -/
namespace Sys2Proof.Machine

/-- Source index of the firmware's accesses: the spec names no core for them (R493), the model takes serving core 0 (DESIGN CHOICE,
log 114). -/
def srvSrc : Nat := 5120

/-- The firmware's access through a context. -/
def srvAcc (ctx : Nat) : Acc := ⟨none, srvSrc, ctx, [0, 1], 0, 0⟩

/-- The streams of a cache: layer and KV head. -/
def KvDesc.all (k : KvDesc) : List (Nat × Nat) :=
  (List.range k.nlayers).flatMap fun l => (List.range k.nkvh).map fun h => (l, h)

/-- Software sets the valid word of a block that it has filled, and its unit's score entry to zero (R197, R204, R209). -/
def State.markBlock (s : State) (ctx : Nat) (k : KvDesc) (x : Nat × Nat) (n bits : Nat) : State :=
  let s := if k.bitmaps then (s.vWrite (srvAcc ctx) (k.vword x.1 x.2 n) 0 (bytesLE 8 bits) false).1 else s
  if k.scoreBase = 0 then s else (s.vWrite (srvAcc ctx) (k.score x.1 x.2 n) 0 (List.replicate 16 0) false).1

/-! ## Shared prefixes (R204) -/

/-- Two descriptors between which pages may be shared. -/
def KvDesc.shares (a b : KvDesc) : Bool :=
  !a.ring && !b.ring && a.nlayers == b.nlayers && a.nkvh == b.nkvh && a.dch == b.dch && a.kvFmt == b.kvFmt && a.ssh == b.ssh

/-- One block of a stream is copied from a holder's cache. -/
def State.copyBlock (s : State) (ctx : Nat) (a b : KvDesc) (x : Nat × Nat) (n : Nat) : State :=
  let r := s.vSpanRead (srvAcc ctx) (a.key x.1 x.2 (64 * n)) a.blk 0
  (r.1.vSpanWrite (srvAcc ctx) (b.key x.1 x.2 (64 * n)) 0 r.2.data r.2.poison).1

/-- A sequence takes over blocks 0 to n - 1 of a holder: those of a page that is not wholly matched, from block whole on, are
copied. -/
def State.shareBlocks (s : State) (ctx : Nat) (a b : KvDesc) (whole n : Nat) : State :=
  s.each b.all fun s x =>
    (s.each ((List.range n).filter fun j => decide (whole ≤ j)) fun s j => s.copyBlock ctx a b x j).each (List.range n)
      fun s j => s.markBlock ctx b x j (2 ^ 64 - 1)

/-- One key row and value row of every stream are copied to another position of the same cache (R190). -/
def State.copyRow (s : State) (ctx : Nat) (k : KvDesc) (old new : Nat) : State :=
  s.each k.all fun s x => s.each [(k.key x.1 x.2 old, k.key x.1 x.2 new), (k.value x.1 x.2 old, k.value x.1 x.2 new)] fun s a =>
    let r := s.vSpanRead (srvAcc ctx) a.1 k.d 0
    (r.1.vSpanWrite (srvAcc ctx) a.2 0 r.2.data r.2.poison).1

/-! ## Transfer images (R206 to R209) -/

/-- The next multiple of 64. -/
def up64 (n : Nat) : Nat := (n + 63) / 64 * 64

/-- The bytes between the end of an item and the next multiple of 64 are zero. -/
def gapZero (b : List Byte) (off : Nat) : Bool := natLE (slice b off (up64 off - off)) == 0

/-- The raw payload of a chunk in ENCODING 1; none where the object's header, index or a block does not decode (R264 to R266). -/
def brinePayload (b : List Byte) : Option (List Byte) :=
  match brineHeader (slice b 0 64) with
  | none => none
  | some h =>
    if crc32c (slice b 64 (8 * h.blocks)) ≠ h.indexCrc ∨ b.length < h.total then none
    else (List.range h.blocks).foldl (fun acc i =>
      match acc with
      | none => none
      | some l =>
        let f := brineEntry (natLE (slice b (64 + 8 * i) 8))
        let (method, stride, granules, goff) := f
        if !brineSound h.dataOff h.total f then none
        else match brineBlock method stride granules (slice b (h.dataOff + 128 * goff) (128 * granules)) with
        | some raw => some (l ++ raw)
        | none => none) (some [])

/-- A chunk: its stream, its first block, and its blocks' bytes. -/
structure Chunk where
  layer : Nat
  head : Nat
  first : Nat
  blocks : Nat
  raw : List Byte
deriving DecidableEq, Repr

/-- A transfer image as its header describes it (Table 9-10), with its chunks and its scales by layer and head. -/
structure Transfer where
  layer0 : Nat
  layers : Nat
  head0 : Nat
  heads : Nat
  positions : Nat
  total : Nat
  chunks : List Chunk
  scales : List KvScale
deriving DecidableEq, Repr

/-- Its streams. -/
def Transfer.streams (t : Transfer) : List (Nat × Nat) :=
  (List.range t.layers).flatMap fun l => (List.range t.heads).map fun h => (t.layer0 + l, t.head0 + h)

/-- The chunk at an image offset, and the offset of its end; none where its payload does not decode or its CRC fails. -/
def imageChunk (b : List Byte) (d off : Nat) : Option (Chunk × Nat) :=
  let n (o k : Nat) : Nat := natLE (slice b (off + o) k)
  let body := slice b (off + 32) (n 0x10 8)
  let raw := if n 0xC 1 = 0 then some body else if n 0xC 1 = 1 then brinePayload body else none
  match raw with
  | none => none
  | some r =>
    if crc32c r = n 0x18 4 ∧ r.length = n 8 4 * (128 * d) ∧ gapZero b (off + 32 + n 0x10 8) then
      some (⟨n 0 2, n 2 2, n 4 4, n 8 4, r⟩, off + 32 + n 0x10 8)
    else none

/-- The chunks from an offset on, each at the next multiple of 64 after the one before it, and the end of the last. -/
def imageChunks (count : Nat) (b : List Byte) (d off : Nat) : Option (List Chunk × Nat) :=
  match count with
  | 0 => some ([], off)
  | count + 1 =>
    match imageChunk b d (up64 off) with
    | none => none
    | some c => match imageChunks count b d c.2 with
      | none => none
      | some r => some (c.1 :: r.1, r.2)

/-- The array of a kind at an offset is sound: aligned, its body of the kind's size, its CRC good, zero bytes behind it. -/
def arrayOk (b : List Byte) (kind size off : Nat) : Bool :=
  let body := slice b (off + 16) size
  off % 64 == 0 && decide (off + 16 + size ≤ b.length) && natLE (slice b off 8) == size && natLE (slice b (off + 0xC) 4) == kind
  && crc32c body == natLE (slice b (off + 8) 4) && gapZero b (off + 16 + size)

/-- The chunks cover every block of the rectangle exactly once (R207). -/
def Transfer.covers (t : Transfer) : Bool :=
  let blocks := (t.positions + 63) / 64
  let inside := t.chunks.all fun c => t.streams.contains (c.layer, c.head) && decide (c.first + c.blocks ≤ blocks) && c.blocks != 0
  let apart := t.chunks.zipIdx.all fun x => t.chunks.zipIdx.all fun y =>
    x.2 == y.2 || x.1.layer != y.1.layer || x.1.head != y.1.head || decide (x.1.first + x.1.blocks ≤ y.1.first)
      || decide (y.1.first + y.1.blocks ≤ x.1.first)
  inside && apart && (t.chunks.map (·.blocks)).sum == t.layers * t.heads * blocks

/-- The scale array: for each carried layer, then head, K_SCALE and V_SCALE. -/
def imageScales (b : List Byte) (off layer0 layers head0 heads : Nat) : List KvScale :=
  (List.range layers).flatMap fun l => (List.range heads).map fun h =>
    let o := off + 16 + 8 * (l * heads + h)
    ⟨layer0 + l, head0 + h, natLE (slice b o 4), natLE (slice b (o + 4) 4)⟩

/-- An image that a receiving request with cache descriptor k accepts (R209), none where it rejects it. An image that is not made as R206 has it (an item
that is not aligned, an array of another kind or size, gaps that are not zero, a TOTAL_BYTES that is not the end of the last chunk) is
rejected too (DEDUCED, log 130). -/
def transferOf (h : Hamper) (k : KvDesc) (b : List Byte) : Option Transfer :=
  let n (o k : Nat) : Nat := natLE (slice b o k)
  let pos := n 0x40 4 % 2 ^ 24
  let flag (i : Nat) : Bool := n 8 4 / 2 ^ i % 2 == 1
  let head := n 0 4 == 0x54564B4C && n 6 2 == 1 && decide (n 8 4 < 8)
    && n 0xC 4 == crc32c (overlay (slice b 0 128) 12 [0, 0, 0, 0])
    && slice b 0x10 16 == slice h.modelId 0 16 && slice b 0x20 16 == h.prefixKey && n 0x30 2 == k.nlayers && n 0x32 2 == k.nkvh
    && n 0x34 2 == k.d && n 0x36 1 == k.kvFmt && n 0x3A 2 != 0 && n 0x3E 2 != 0 && decide (n 0x38 2 + n 0x3A 2 ≤ n 0x30 2)
    && decide (n 0x3C 2 + n 0x3E 2 ≤ n 0x32 2)
  let arrays := (!flag 0 || arrayOk b 1 (4 * pos) (n 0x50 8)) && (!flag 1 || arrayOk b 2 (16 * (pos / 64)) (n 0x58 8))
    && (!flag 2 || arrayOk b 3 (8 * (n 0x3A 2 * n 0x3E 2)) (n 0x60 8))
  if !head ∨ !arrays ∨ n 0x68 8 % 64 ≠ 0 ∨ n 0x68 8 < 128 then none
  else match imageChunks (n 0x44 4) b (n 0x34 2) (n 0x68 8) with
    | none => none
    | some c =>
      let scales := if flag 2 then imageScales b (n 0x60 8) (n 0x38 2) (n 0x3A 2) (n 0x3C 2) (n 0x3E 2) else []
      let t : Transfer := ⟨n 0x38 2, n 0x3A 2, n 0x3C 2, n 0x3E 2, pos, n 0x48 8, c.1, scales⟩
      if t.covers ∧ c.2 = t.total then some t else none

/-- The bytes of the image at a host offset. -/
def State.imageBytes (s : State) (base : Nat) : State × List Byte :=
  let r := s.hostSeen base 128
  let t := r.1.hostSeen (base + 128) (natLE (slice r.2 0x48 8) - 128)
  (t.1, r.2 ++ t.2)

/-- A block of a chunk goes to its slot, in the ring layout only where it is held, its valid bits are those of the positions
carried, and its score entry is zero. -/
def State.placeBlock (s : State) (ctx : Nat) (k : KvDesc) (pos : Nat) (c : Chunk) (i : Nat) : State :=
  let n := c.first + i
  if !k.held n then s
  else
    ((s.vSpanWrite (srvAcc ctx) (k.key c.layer c.head (64 * n)) 0 (slice c.raw (i * k.blk) k.blk) false).1).markBlock ctx k
      (c.layer, c.head) n (2 ^ min 64 (pos - 64 * n) - 1)

/-- An accepted image is laid into the request's cache; in the ring layout RING_TOP is first set to its last block (R209). -/
def State.placeImage (s : State) (h : Hamper) (k : KvDesc) (t : Transfer) : State :=
  let top := (t.positions + 63) / 64 - 1
  let s := if k.ring then (s.vWrite (srvAcc h.ctx) (k.va + 0x10) 0 (bytesLE 8 top) false).1 else s
  let k := { k with ringTop := if k.ring then top else k.ringTop }
  s.each t.chunks fun s c => s.each (List.range c.blocks) fun s i => s.placeBlock h.ctx k t.positions c i

/-- The images of a request, one behind another from a host offset on, each at the next multiple of 64 after the one before it
(DESIGN CHOICE, log 131): all of them are accepted against the request's cache descriptor, which must be readable and valid, and together
cover each of its streams exactly once (R361). The answer is their positions and their scales. -/
def State.takeImages (s : State) (h : Hamper) (fuel base : Nat) (seen : List (Nat × Nat)) (scales : List KvScale) :
    State × Option (Nat × List KvScale) :=
  match fuel with
  | 0 => (s, none)
  | fuel + 1 =>
    let r := s.imageBytes base
    let d := r.1.kvDesc (srvAcc h.ctx) (h.cdesc / 128 * 128)
    match if d.2.1 = 0 then transferOf h d.2.2 r.2 else none with
    | none => (d.1, none)
    | some t =>
      if t.streams.any fun x => seen.contains x then (d.1, none)
      else
        let s := d.1.placeImage h d.2.2 t
        let seen := seen ++ t.streams
        let scales := scales ++ t.scales
        if Config.cacheModel h.ctx 0 ≤ seen.length then (s, some (t.positions, scales))
        else s.takeImages h fuel (base + up64 t.total) seen scales

end Sys2Proof.Machine
end

