-- ==== Sys2Proof/Machine/Serving.lean ====
section
/-! DEFINITION. The serving firmware's commands, records and memory (R364 to R373, R376 to R378, R382, R384 to R390). -/
namespace Sys2Proof.Machine

/-! ## Records in board memory (Tables 15-1, 15-9, 15-10, 9-9) -/

/-- The firmware writes bytes at a space-1 offset. -/
def State.srvPut (s : State) (off : Nat) (b : List Byte) : State := (s.spanWrite 1 off srvSrc 0 b false).1

def Hamper.handle (h : Hamper) (i : Nat) : Nat := i + h.gen.toNat * 2 ^ 20

/-- Bytes of 32-bit words. -/
def wordBytes (l : List Word) (n : Nat) : List Byte := (List.range n).flatMap fun i => bytesLE 4 (nth 0 l i).toNat

/-- Sampling word of hamper offset 0x50. -/
def Hamper.sampling (h : Hamper) : Nat :=
  h.topK + h.nstop * 2 ^ 9 + h.nseq * 2 ^ 13 + h.seqLen0 * 2 ^ 15 + h.seqLen1 * 2 ^ 19

/-- A hamper record (Table 15-1). -/
def Hamper.bytes (h : Hamper) (i : Nat) : List Byte :=
  bytesLE 4 (h.handle i)
  ++ bytesLE 4 (h.state + h.endReason * 2 ^ 4 + h.priority * 2 ^ 16 + h.logp.toNat * 2 ^ 24 + h.import_.toNat * 2 ^ 25
      + h.fallbackSeen.toNat * 2 ^ 26 + h.ttftMiss.toNat * 2 ^ 27 + h.hold * 2 ^ 28)
  ++ bytesLE 4 (h.customer + h.pkey.toNat * 2 ^ 16)
  ++ bytesLE 4 (h.ctx + h.adapterSlot * 2 ^ 16 + h.adapterEn.toNat * 2 ^ 31)
  ++ bytesLE 4 h.adapterVer.toNat ++ bytesLE 4 h.lastToken.toNat ++ bytesLE 8 h.hostTag.toNat ++ bytesLE 8 h.cdesc
  ++ bytesLE 8 h.promptAddr.toNat ++ bytesLE 4 h.promptLen ++ bytesLE 4 h.promptDone ++ bytesLE 4 h.genMax
  ++ bytesLE 4 h.genCount ++ bytesLE 8 h.seed.toNat ++ bytesLE 4 h.temp.toNat ++ bytesLE 4 h.topP.toNat
  ++ bytesLE 4 h.sampling ++ bytesLE 4 h.ctxMax ++ wordBytes h.stopIds 8 ++ wordBytes h.stopSeq 16
  ++ bytesLE 8 h.arriveTick ++ bytesLE 8 h.firstTick ++ bytesLE 8 h.lastTick ++ bytesLE 8 h.deadlineTick
  ++ bytesLE 4 h.ttftLimit ++ bytesLE 4 h.tbtLimit ++ bytesLE 4 h.maxGap ++ bytesLE 4 h.tbtMisses ++ slice h.prefixKey 0 16
  ++ bytesLE 4 (h.m0 + h.m1 * 16) ++ bytesLE 4 h.reservedPages

/-- The firmware changes a hamper. -/
def State.updHamper (s : State) (i : Nat) (f : Hamper → Hamper) : State :=
  let s := s.modHamper i f
  s.srvPut ((s.r64 Reg.srvHamperBase).toNat + 256 * i) ((s.hamper i).bytes i)

def State.budget (s : State) (c : Nat) : Budget := Sparse.get (fun _ => Budget.reset) s.srv.budgets c
def Budget.bytes (b : Budget) : List Byte :=
  bytesLE 4 b.rate ++ bytesLE 4 b.burst ++ bytesLE 8 b.balance ++ bytesLE 8 b.last
  ++ bytesLE 4 (b.promptW + b.unlimited.toNat * 2 ^ 8) ++ bytesLE 4 b.heldSteps
def State.updBudget (s : State) (c : Nat) (f : Budget → Budget) : State :=
  let b := f (s.budget c)
  (s.modSrv fun v => { v with budgets := Sparse.set (fun _ => Budget.reset) v.budgets c b }).srvPut
    ((s.r64 Reg.srvBudgetBase).toNat + 32 * c) b.bytes

def State.adapter (s : State) (n : Nat) : Adapter := Sparse.get (fun _ => Adapter.reset) s.srv.adapters n
def Adapter.bytes (a : Adapter) : List Byte :=
  bytesLE 4 (a.state + a.rank * 2 ^ 16) ++ bytesLE 4 a.cur ++ bytesLE 8 0
  ++ ((List.range 4).flatMap fun v =>
      let r := nth AdapterVer.reset a.vers v
      bytesLE 4 r.ver ++ bytesLE 4 r.refs ++ bytesLE 8 (r.image + r.vstate * 2 ^ 48 + r.ctx * 2 ^ 50))
  ++ List.replicate 48 0
def State.updAdapter (s : State) (n : Nat) (f : Adapter → Adapter) : State :=
  let a := f (s.adapter n)
  (s.modSrv fun v => { v with adapters := Sparse.set (fun _ => Adapter.reset) v.adapters n a }).srvPut
    ((s.r64 Reg.srvAdapterBase).toNat + 128 * n) a.bytes

def State.bucket (s : State) (b : Nat) : Bucket := Sparse.get (fun _ => Bucket.reset) s.srv.prefixes b
def Bucket.bytes (b : Bucket) : List Byte :=
  slice b.hash 0 16 ++ bytesLE 8 (b.dev + b.holder * 2 ^ 16) ++ bytesLE 8 (b.block + b.refs * 2 ^ 32 + b.state * 2 ^ 48)
def State.updBucket (s : State) (i : Nat) (f : Bucket → Bucket) : State :=
  let b := f (s.bucket i)
  (s.modSrv fun v => { v with prefixes := Sparse.set (fun _ => Bucket.reset) v.prefixes i b }).srvPut
    ((s.r64 Reg.srvPrefixBase).toNat + 32 * i) b.bytes

/-- SRV_STAT.LIVE and SRV_LOAD.QUEUED (Tables 15-14 and 15-15). -/
def State.srvRefresh (s : State) : State :=
  let live := (s.srv.hampers.filter fun e => e.2.state != 0).length
  let queued := (s.srv.hampers.filter fun e => e.2.state == 1).length
  (s.wf Reg.srvStat 16 16 (min 65535 (live / 16))).wf Reg.srvLoad 16 16 (min 65535 queued)

/-! ## Order of resolution (R17, R374) -/

/-- Class of a command (Table 15-4); a reserved operation has none there and is taken in the last (DESIGN CHOICE, log 132). -/
def cmdClass (op : Nat) : Nat :=
  match op with
  | 1 => 9 | 2 => 6 | 3 => 7 | 4 => 9 | _ => 10

/-- Place of an event in the order of R17: its class, then its source. Commands come from GP0, completions of tasks from their
engine, the firmware's own events from its core. -/
def cmdKey (op : Nat) : Nat := cmdClass op * 8192 + 264
def ownKey (cls : Nat) : Nat := cls * 8192 + srvSrc
def taskKey (e : Nat) : Nat := 5 * 8192 + e

def TakenCmd.op (x : TakenCmd) : Nat := fld x.rec_.w0 0 8

/-- The sampled command that is resolved next: the highest class, then the lowest ring index (R367). -/
def State.nextCmd (s : State) : Option TakenCmd :=
  (List.range 11).findSome? fun cls => s.srv.cmds.find? fun x => x.sampled && cmdClass x.op == cls

/-- The firmware resolves the events of a boundary in their order: none before one that it has resolved, and none of its own ahead of
a sampled command. -/
def State.inOrder (s : State) (key : Nat) : Bool :=
  decide (s.srv.order ≤ key) && match s.nextCmd with
    | none => true
    | some x => decide (key ≤ cmdKey x.op)
def State.resolved (s : State) (key : Nat) : State := s.modSrv fun v => { v with order := key }

/-! ## The command ring (R367, R371) -/

/-- Free slots of the completion ring. -/
def State.cplFree (s : State) : Nat := 2 ^ s.rf Reg.srvCplCfg 0 5 - (s.r32 Reg.srvCplProd - s.r32 Reg.srvCplCons).toNat

/-- CPL_FULL is set while fewer than 64 completion slots are free, and its event raised as it sets. -/
def State.cplLevel (s : State) : State :=
  if !s.running then s
  else
    let full := decide (s.cplFree < 64)
    (s.wb Reg.srvStat 1 full).raiseIf (full && !s.rb Reg.srvStat 1) srvPn 9 10 srvSrc

/-- The host has written its memory: what the device decoded from it is stale (log 10). -/
def State.hostWrote (s : State) (l : List HostSpan) : State :=
  s.modMem fun m => { m with
    host := l.foldl (fun h x => cellWrite h x.off x.bytes) m.host
    brine := if l.isEmpty then m.brine else m.brine.filter fun x => decide (saSpace x.1 ≠ 2) }

/-- A command record of eight words. -/
def CmdRec.ofBytes (b : List Byte) : CmdRec :=
  let w (i : Nat) : Dword := BitVec.ofNat 64 (natLE (slice b (8 * i) 8))
  ⟨w 0, w 1, w 2, w 3, w 4, w 5, w 6, w 7⟩

/-- The command at SRV_CMD_HEAD is taken: its record is read from the ring, and the block that its W2 names (R369; DRAFT's too,
DESIGN CHOICE, log 133). A record that cannot be read reads as zero. -/
def State.takeCommand (s : State) : State :=
  let i := s.r32 Reg.srvCmdHead
  let r := s.spanRead 2 ((s.r64 Reg.srvCmdBase).toNat + 64 * (i.toNat % 2 ^ s.rf Reg.srvCmdCfg 0 5)) 64 srvSrc 0
  let c := CmdRec.ofBytes r.2.data
  let op := fld c.w0 0 8
  let b := if op = 1 then r.1.spanRead 2 c.w2.toNat 256 srvSrc 0
    else if op = 5 then r.1.spanRead 2 c.w2.toNat 128 srvSrc 0 else (r.1, Rd.error 0)
  (b.1.w32 Reg.srvCmdHead (i + 1)).modSrv fun v => { v with taken := v.taken + 1, cmds := v.cmds ++ [⟨i, c, b.2.data, false⟩] }

/-- The firmware takes the commands that it may, in index order: at most 256 in a tick, none while fewer than 64 completion slots are
free. -/
def State.intake (s : State) : State :=
  let s := s.cplLevel
  if !s.running ∨ !s.gp0Up ∨ s.cplFree < 64 then s
  else
    s.upTo (min (s.r32 Reg.srvCmdTail - s.r32 Reg.srvCmdHead).toNat (256 - s.srv.taken)) fun s _ => s.takeCommand

/-- A write of SRV_CMD_TAIL; one that names more commands than the ring holds is ignored. -/
def State.srvTail (s : State) (v : Word) : State :=
  if (v - s.r32 Reg.srvCmdHead).toNat ≤ 2 ^ s.rf Reg.srvCmdCfg 0 5 then (s.w32 Reg.srvCmdTail v).intake else s

/-! ## Completion records (R370, R371, Table 15-6) -/

/-- A record in the ring at producer index p: PHASE is 1 on the first pass, then alternates. -/
def CplRec.bytes (r : CplRec) (p size : Nat) : List Byte :=
  bytesLE 4 (r.op + r.status * 2 ^ 8 + r.end_ * 2 ^ 16 + (1 - p / size % 2) * 2 ^ 31) ++ bytesLE 4 r.handle.toNat
  ++ bytesLE 8 r.tag.toNat ++ bytesLE 8 r.tick ++ bytesLE 4 (min r.detail0 (2 ^ 32 - 1)) ++ bytesLE 4 (min r.detail1 (2 ^ 32 - 1))

/-- Records are written while the ring has room, each followed by the producer index; an END record releases its request's
pages to be freed. -/
def State.cplWrite (s : State) (fuel : Nat) : State :=
  match fuel with
  | 0 => s
  | fuel + 1 =>
    match s.srv.owed with
    | [] => s
    | r :: rest =>
      if s.cplFree = 0 then s
      else
        let size := 2 ^ s.rf Reg.srvCplCfg 0 5
        let p := (s.r32 Reg.srvCplProd).toNat
        let w := s.hostWrite ((s.r64 Reg.srvCplBase).toNat + 32 * (p % size)) srvSrc (r.bytes p size) false
        if w.2 ≠ 0 then s
        else
          let s := w.1.modSrv fun v => { v with owed := rest }
          let prod := BitVec.ofNat 32 (p + 1)
          let s := (s.w32 Reg.srvCplProd prod).gutexSend (.dmaWr (s.r64 Reg.srvCplProdAddr) false (bytesLE 4 prod.toNat)) 0 6
            (bytesLE 4 prod.toNat)
          let i := r.handle.toNat % 2 ^ 20
          let s := if r.op = 0x80 then
              (s.count Reg.srvEndCnt 1).modHamper i fun h => { h with endOwed := h.endOwed && h.handle i != r.handle.toNat } else s
          State.cplWrite s fuel

/-- The records that wait are written, and CPL_FULL follows. -/
def State.cplFlush (s : State) : State := (s.cplWrite s.srv.owed.length).cplLevel

/-- A completion record is due. -/
def State.complete (s : State) (op status : Nat) (handle : Word) (tag : Dword) (d0 d1 end_ : Nat) : State :=
  let s := s.modSrv fun v => { v with owed := v.owed ++ [⟨op, status, end_, handle, tag, s.tick, d0, d1⟩] }
  s.cplFlush

/-- The host's write of SRV_CPL_CONS. -/
def State.srvCons (s : State) (v : Word) : State :=
  let s := s.w32 Reg.srvCplCons v
  s.cplFlush.intake

/-! ## Pages (R379, R380) -/

/-- Streams of a context's caches, positions per page, and the pages of n positions. -/
def streams (ctx : Nat) : Nat := max 1 (Config.cacheModel ctx 0)
def perPage (ctx : Nat) : Nat := max 1 (Config.cacheModel ctx 1)
def pagesFor (ctx n : Nat) : Nat := streams ctx * ((n + perPage ctx - 1) / perPage ctx)

def State.pool (s : State) (ctx : Nat) : Nat := (optAt s.srv.pool ctx).getD (Config.poolPages ctx)
def State.setPool (s : State) (ctx n : Nat) : State := s.modSrv fun v => { v with pool := setOpt v.pool ctx (some n) }
def State.poolGive (s : State) (ctx n : Nat) : State := s.setPool ctx (s.pool ctx + n)
def State.poolTake (s : State) (ctx n : Nat) : State := s.setPool ctx (s.pool ctx - n)

/-- A row of the hamper is in a step that has not completed, or awaits a re-run. -/
def State.inBasket (s : State) (i : Nat) : Bool :=
  s.srv.basket.rows.any fun r => r.hamper == i && r.gen == (s.hamper i).gen && (s.srv.basket.live || r.weight.isSome)

/-- LEN of a request is written: in its hamper's bookkeeping and in the cache descriptor at CDESC (R189, R190). -/
def State.setLen (s : State) (i n : Nat) : State :=
  let s := s.modHamper i fun h => { h with len := n }
  let h := s.hamper i
  (s.vWrite (srvAcc h.ctx) (h.cdesc / 128 * 128 + 8) 0 (bytesLE 8 (n % 2 ^ 24)) false).1

/-- The handle is written as REQ of the request's cache descriptor (R364). -/
def State.setReq (s : State) (i : Nat) : State :=
  let h := s.hamper i
  (s.vWrite (srvAcc h.ctx) (h.cdesc / 128 * 128 + 0x4C) 0 (bytesLE 4 (h.handle i)) false).1

/-! ## Adapters (R385, R386) -/

/-- A DRAINING version with no requests left becomes FREE, with an ADAPTER_FREED record. -/
def State.adapterDrain (s : State) (n v : Nat) : State :=
  let r := nth AdapterVer.reset (s.adapter n).vers v
  if r.vstate = 2 ∧ r.refs = 0 then
    (s.updAdapter n fun a => { a with vers := a.vers.set v { r with vstate := 0 } }).complete 0x81 0 (BitVec.ofNat 32 n) 0 r.ver 0 0
  else s

/-- Record that holds a version of a slot. -/
def Adapter.find (a : Adapter) (ver : Nat) : Option Nat :=
  (List.range 4).find? fun v => let r := nth AdapterVer.reset a.vers v; r.vstate != 0 && r.ver == ver

/-- The current version's record. -/
def Adapter.current (a : Adapter) : Option AdapterVer :=
  let r := nth AdapterVer.reset a.vers a.cur
  if a.state = 1 ∧ r.vstate = 1 then some r else none

def State.adapterRefs (s : State) (n ver : Nat) (f : Nat → Nat) : State :=
  match (s.adapter n).find ver with
  | none => s
  | some v =>
    (s.updAdapter n fun a => let r := nth AdapterVer.reset a.vers v
      { a with vers := a.vers.set v { r with refs := f r.refs } }).adapterDrain n v

/-- The CURRENT version becomes DRAINING. -/
def State.adapterOld (s : State) (n : Nat) : State :=
  let a := s.adapter n
  let r := nth AdapterVer.reset a.vers a.cur
  if r.vstate = 1 then (s.updAdapter n fun a => { a with vers := a.vers.set a.cur { r with vstate := 2 } }).adapterDrain n a.cur
  else s

/-! ## Prefix reuse (R203, R205, R387, R388) -/

/-- The prefix key. -/
def prefixKey (model : List Byte) (pkey slot ver : Nat) : List Byte :=
  shake256 ([0x4C, 0x50, 0x46, 0x58] ++ slice model 0 16 ++ bytesLE 2 pkey ++ bytesLE 2 slot ++ bytesLE 4 ver) 16

def hashNext (prev : List Byte) (n : Nat) (toks : List Byte) : List Byte := shake256 (prev ++ bytesLE 4 n ++ toks) 16

/-- The 64 token identifiers of block n: of the prompt in host memory, then those emitted. -/
def State.blockTokens (s : State) (i n : Nat) : State × List Byte :=
  let h := s.hamper i
  let k := min 64 (h.promptLen - 64 * n)
  let r := s.hostSeen (h.promptAddr.toNat + 256 * n) (4 * k)
  (r.1, r.2 ++ (List.range (64 - k)).flatMap fun j => bytesLE 4 (nth 0 h.gens (64 * n + k + j - h.promptLen)).toNat)

/-- The buckets in which a hash may lie, up to the first empty one. -/
def State.probe (s : State) (hash : List Byte) : List Nat :=
  let size := 2 ^ s.rf Reg.srvPrefixCfg 0 5
  let l := (List.range 16).map fun j => (natLE (slice hash 0 8) + j) % size
  l.takeWhile fun b => (s.bucket b).state != 0

/-- The live bucket of a hash. -/
def State.seek (s : State) (hash : List Byte) : Option Nat :=
  (s.probe hash).find? fun b => (s.bucket b).state == 1 && (s.bucket b).hash == hash

/-- Hashes of a request's prompt blocks up to the first that misses, and the bucket of the longest match. -/
def State.prefixMatch (s : State) (i : Nat) : State × List (List Byte) × Option Nat :=
  let h := s.hamper i
  if Config.cacheModel h.ctx 6 ≠ 0 then (s, [], none)
  else
    let r := (List.range (h.promptLen / 64)).foldl (fun (acc : (State × List (List Byte) × Option Nat) × Bool) n =>
      if acc.2 ∨ h.promptLen ≤ 64 * n + 64 then (acc.1, true)
      else
        let t := acc.1.1.blockTokens i n
        let x := hashNext (acc.1.2.1.getLastD h.prefixKey) n t.2
        match t.1.seek x with
        | some b => ((t.1, acc.1.2.1 ++ [x], some b), false)
        | none => ((t.1, acc.1.2.1, acc.1.2.2), true)) ((s, [], none), false)
    r.1

/-- A block that a step has completed is hashed and, where no live bucket matches and every earlier block is live for the
same holder, inserted (R205, R388). -/
def State.prefixInsert (s : State) (i n : Nat) : State :=
  let h := s.hamper i
  if h.hashes.length ≠ n then s
  else
    let t := s.blockTokens i n
    let x := hashNext (h.hashes.getLastD h.prefixKey) n t.2
    let s := t.1.modHamper i fun h => { h with hashes := h.hashes ++ [x] }
    let mine (b : Bucket) : Bool := b.dev == s.dev && b.holder == h.cdesc
    if (s.seek x).isSome ∨ !(h.hashes.all fun y => match s.seek y with | some b => mine (s.bucket b) | none => false) then s
    else
      let size := 2 ^ s.rf Reg.srvPrefixCfg 0 5
      let free := ((List.range 16).map fun j => (natLE (slice x 0 8) + j) % size).find? fun b => (s.bucket b).state != 1
      match free with
      | none => s
      | some b => s.updBucket b fun _ => ⟨x, s.dev, h.cdesc, n, 0, 1⟩

/-- The blocks that a request has completed between two lengths are inserted. -/
def State.prefixStep (s : State) (i n0 n1 : Nat) : State :=
  if Config.cacheModel (s.hamper i).ctx 6 ≠ 0 then s
  else s.each ((List.range (n1 / 64)).filter fun n => n0 / 64 ≤ n) fun s n => s.prefixInsert i n

/-- A sharer leaves. -/
def State.prefixUnshare (s : State) (b : Nat) : State := s.updBucket b fun x => { x with refs := x.refs - 1 }

/-- The buckets of a holder. -/
def State.heldBuckets (s : State) (cdesc : Nat) : List Nat :=
  (s.srv.prefixes.filter fun e => e.2.state == 1 && e.2.dev == s.dev && e.2.holder == cdesc).map (·.1)

/-- A holder leaves: the pages of the blocks that others share are retained, and the buckets of the others are removed. The answer
says how many of its pages stay. -/
def State.holderLeaves (s : State) (i : Nat) : State × Nat :=
  let h := s.hamper i
  let bs := s.heldBuckets h.cdesc
  if bs.any fun b => (s.bucket b).refs != 0 then
    let top := (bs.filter fun b => (s.bucket b).refs != 0).foldl (fun m b => max m ((s.bucket b).block + 1)) 0
    let n := min h.pages (streams h.ctx * (64 * top / perPage h.ctx))
    let s := s.each (bs.filter fun b => decide (top ≤ (s.bucket b).block)) fun s b => s.updBucket b fun x => { x with state := 2 }
    (s.modSrv fun v => { v with retained := v.retained ++ [⟨h.ctx, h.cdesc, n⟩] }, n)
  else (s.each bs fun s b => s.updBucket b fun x => { x with state := 2 }, 0)

/-- Retained pages that nobody shares return to the pool, until a need of pages is met (R379, R388). -/
def State.freeRetained (s : State) (ctx need : Nat) : State :=
  s.each s.srv.retained fun s r =>
    if need ≤ s.pool ctx ∨ r.ctx ≠ ctx ∨ (s.heldBuckets r.cdesc).any (fun b => (s.bucket b).refs != 0) then s
    else
      let s := s.each (s.heldBuckets r.cdesc) fun s b => s.updBucket b fun x => { x with state := 2 }
      (s.modSrv fun v => { v with retained := v.retained.erase r }).poolGive ctx r.pages

/-! ## The end of a request (R370, R377, Table 15-7) -/

/-- Status of a command on an ENDED request. -/
def endedStatus (reason : Nat) : Nat := if 1 ≤ reason ∧ reason ≤ 4 then 1 else 2

/-- FENCE commands whose earlier commands have completed complete. -/
def State.fenceCheck (s : State) : State :=
  if !s.srv.queries.isEmpty then s
  else s.each s.srv.fences fun s f =>
    if f.2.isEmpty then (s.modSrv fun v => { v with fences := v.fences.erase f }).complete 0x0A 0 0 f.1 0 0 0 else s

/-- PARK completes; no FENCE waits for it any more. -/
def State.parkDone (s : State) (i status : Nat) : State :=
  match (s.hamper i).park with
  | none => s
  | some p =>
    let s := (s.updHamper i fun h => { h with park := none }).complete 3 status (BitVec.ofNat 32 ((s.hamper i).handle i)) p.tag 0 0 0
    (s.modSrv fun v => { v with fences := v.fences.map fun f => (f.1, f.2.filter fun j => j != i) }).fenceCheck

/-- A request reaches ENDED: its END record is due, and a PARK whose moves have not started completes. -/
def State.endRequest (s : State) (i reason : Nat) : State :=
  let h := s.hamper i
  if h.state = 0 ∨ h.state = 10 then s
  else
    let flight := h.state == 5 || h.state == 9 || (h.state == 7 && !s.inBasket i)
    let s := s.updHamper i fun h => { h with
      state := 10, endReason := reason, hold := 0, deadlineTick := 0, endOwed := true, moving := flight
      copy := if flight then h.copy else none }
    let s := s.complete 0x80 0 (BitVec.ofNat 32 (h.handle i)) h.hostTag h.genCount (h.firstTick - h.arriveTick) reason
    if flight then s else s.parkDone i (endedStatus reason)

/-! ## Commands (R368) -/

/-- Bits of the words W2 to W4 that a command's arguments use (Table 15-4). -/
def cmdMask (op w : Nat) : Nat :=
  let all := 2 ^ 64 - 1
  match op, w with
  | 1, 2 => all | 1, 3 => all | 3, 2 => 3 | 3, 3 => all | 5, 2 => all | 5, 3 => 0x3FFFFFFF
  | 6, 2 => 0x3F01FF0FFF | 6, 3 => 2 ^ 48 - 1 | 7, 2 => 0xFFF | 8, 2 => 0xFFF | 8, 3 => all | 8, 4 => 0x1FF | 9, 2 => all
  | _, _ => 0

/-- A reserved bit of a command is not zero. -/
def cmdReserved (c : CmdRec) : Bool :=
  let op := fld c.w0 0 8
  let bad (w : Nat) (v : Dword) : Bool := v &&& ~~~(BitVec.ofNat 64 (cmdMask op w)) != 0
  fld c.w0 8 24 != 0 || bad 2 c.w2 || bad 3 c.w3 || bad 4 c.w4 || bad 5 c.w5 || bad 6 c.w6 || bad 7 c.w7
  || ((op == 1 || (6 ≤ op && op ≤ 8) || op == 10) && fld c.w0 32 32 != 0)

def cmdHandle (c : CmdRec) : Word := BitVec.ofNat 32 (fld c.w0 32 32)

/-- The command completes at this boundary. -/
def State.cmdAnswer (s : State) (c : CmdRec) (status d0 : Nat) : State :=
  (s.complete (fld c.w0 0 8) status (cmdHandle c) c.tag d0 0 0).raiseIf (status == 4) srvPn 8 10 srvSrc

/-- A command leaves the firmware's list as it is resolved. -/
def State.dropCmd (s : State) (x : TakenCmd) : State :=
  (s.resolved (cmdKey x.op)).modSrv fun v => { v with cmds := v.cmds.erase x }

/-- The next command is resolved, if it is of the named operation; one whose OP is reserved, or that has a reserved bit set,
completes INVALID. -/
def State.command (s : State) (op : Nat) (f : State → TakenCmd → State) : State :=
  match s.nextCmd with
  | none => s
  | some x =>
    if !s.running ∨ !s.inOrder (cmdKey x.op) ∨ (x.op ≠ op ∧ 1 ≤ x.op ∧ x.op ≤ 10) then s
    else
      let s := s.dropCmd x
      (if x.op ≠ op ∨ cmdReserved x.rec_ then s.cmdAnswer x.rec_ 4 0 else f s x).srvRefresh

/-- The hamper that a command's handle names. -/
def State.named (s : State) (c : CmdRec) : Option Nat :=
  let i := fld (cmdHandle c) 0 20
  if i < 2 ^ s.rf Reg.srvHamperCfg 0 5 ∧ (s.hamper i).state ≠ 0 ∧ (s.hamper i).gen.toNat = fld (cmdHandle c) 20 12 then some i else none

/-- A command on a request that lives. -/
def State.onRequest (s : State) (c : CmdRec) (f : State → Nat → State) : State :=
  match s.named c with
  | none => s.cmdAnswer c 3 0
  | some i => if (s.hamper i).state = 10 then s.cmdAnswer c (endedStatus (s.hamper i).endReason) 0 else f s i

/-! ## SUBMIT (R369, R384, R386, R387) -/

/-- A request as its parameter block describes it (Table 15-5). -/
def Hamper.ofParams (p : List Byte) (c : CmdRec) : Hamper :=
  let n (off size : Nat) : Nat := natLE (slice p off size)
  let flags := n 0x24 4
  let ids := n 0x28 8
  let samp := n 0x40 4
  { Hamper.reset with
    modelId := slice p 0 16, promptAddr := BitVec.ofNat 64 (n 0x10 8), promptLen := n 0x18 4, genMax := n 0x1C 4
    ctxMax := n 0x20 4, priority := flags % 256, adapterEn := flags / 2 ^ 8 % 2 == 1, logp := flags / 2 ^ 9 % 2 == 1
    import_ := flags / 2 ^ 10 % 2 == 1, adapterSlot := flags / 2 ^ 16 % 4096, customer := ids % 4096
    ctx := ids / 2 ^ 16 % 64, pkey := BitVec.ofNat 16 (ids / 2 ^ 32), seed := BitVec.ofNat 64 (n 0x30 8)
    temp := BitVec.ofNat 32 (n 0x38 4), topP := BitVec.ofNat 32 (n 0x3C 4), topK := samp % 512, nstop := samp / 2 ^ 9 % 16
    nseq := samp / 2 ^ 13 % 4, seqLen0 := samp / 2 ^ 15 % 16, seqLen1 := samp / 2 ^ 19 % 16, ttftLimit := n 0x44 4
    tbtLimit := n 0x48 4, stopIds := (List.range 8).map fun i => BitVec.ofNat 32 (n (0x58 + 4 * i) 4)
    stopSeq := (List.range 16).map fun i => BitVec.ofNat 32 (n (0x78 + 4 * i) 4), hostTag := c.tag, importAt := c.w3, state := 1 }

/-- Reserved bits of a parameter block. -/
def paramsReserved (p : List Byte) : Bool :=
  let n (off size : Nat) : Nat := natLE (slice p off size)
  decide (2 ^ 24 ≤ n 0x18 4) || decide (2 ^ 24 ≤ n 0x1C 4) || decide (2 ^ 24 ≤ n 0x20 4)
  || n 0x24 4 / 2 ^ 11 % 32 != 0 || n 0x24 4 / 2 ^ 28 != 0
  || n 0x28 8 / 2 ^ 12 % 16 != 0 || n 0x28 8 / 2 ^ 22 % 1024 != 0 || n 0x28 8 / 2 ^ 48 != 0 || n 0x40 4 / 2 ^ 23 != 0
  || n 0x4C 12 != 0 || n 0xB8 72 != 0

/-- The cases in which SUBMIT is INVALID. The length of a stop sequence that is not used is not looked at. -/
def State.badSubmit (s : State) (h : Hamper) : Bool :=
  !s.pkeyKnown h.pkey.toNat || h.topK == 0 || decide (256 < h.topK) || decide (8 < h.nstop) || decide (2 < h.nseq)
  || (decide (1 ≤ h.nseq) && (h.seqLen0 == 0 || decide (8 < h.seqLen0)))
  || (decide (2 ≤ h.nseq) && (h.seqLen1 == 0 || decide (8 < h.seqLen1)))
  || (h.promptLen == 0 && !h.import_) || h.genMax == 0 || decide (h.ctxMax < h.promptLen + h.genMax)
  || (h.adapterEn && (s.adapter h.adapterSlot).current.isNone)

/-- The lowest FREE hamper. -/
def State.freeHamper (s : State) : Option Nat :=
  (List.range (s.srv.hampers.length + 1)).find? fun i => decide (i < 2 ^ s.rf Reg.srvHamperCfg 0 5) && (s.hamper i).state == 0

def State.submit (s : State) (c : CmdRec) (p : List Byte) : State :=
  let h := Hamper.ofParams p c
  if paramsReserved p ∨ s.badSubmit h then s.cmdAnswer c 4 0
  else match s.freeHamper with
    | none => s.cmdAnswer c 5 0
    | some i =>
      let ver := match (s.adapter h.adapterSlot).current with | some r => if h.adapterEn then r.ver else 0 | none => 0
      let slot := if h.adapterEn then h.adapterSlot else 0xFFFF
      let s := if h.adapterEn then s.adapterRefs h.adapterSlot ver (· + 1) else s
      let s := s.updHamper i fun old => { h with
        gen := old.gen, adapterVer := BitVec.ofNat 32 ver, arriveTick := s.tick
        deadlineTick := if h.ttftLimit = 0 then 0 else s.tick + h.ttftLimit, cdesc := s.free % 2 ^ 48 / 128 * 128
        prefixKey := prefixKey h.modelId h.pkey.toNat slot ver }
      let m := s.drawn.prefixMatch i
      let s := m.1.count Reg.srvAdmitCnt 1
      s.complete 1 0 (BitVec.ofNat 32 ((s.hamper i).handle i)) c.tag (64 * m.2.1.length) 0 0

/-! ## The other commands -/

/-- CANCEL (R378, R390): the request ends; a parked copy is released at once. -/
def State.cancel (s : State) (c : CmdRec) : State := s.onRequest c fun s i => (s.endRequest i 5).cmdAnswer c 0 0

/-- PARK (R389). -/
def State.park (s : State) (x : TakenCmd) : State :=
  let c := x.rec_
  if c.w3 = 0 then s.cmdAnswer c 4 0
  else s.onRequest c fun s i =>
    let h := s.hamper i
    if h.state = 3 ∨ (h.state = 4 ∧ h.heldFrom = 3) then
      s.updHamper i fun h => { h with
        state := 7, hold := 0, heldFrom := 3, retried := false
        park := some ⟨fld c.w2 0 1, c.w2.getLsbD 1, c.w3.toNat, c.tag, x.index⟩ }
    else s.cmdAnswer c 6 0

/-- RESUME (R390). -/
def State.resume (s : State) (c : CmdRec) : State :=
  match s.named c with
  | none => s.cmdAnswer c 3 0
  | some i =>
    let h := s.hamper i
    -- at the boundary of the release the answer is EXPIRED, later ALREADY_ENDED (R390, R370)
    if h.state = 10 then s.cmdAnswer c (if h.endReason = 6 ∧ h.expired = some s.tick then 7 else endedStatus h.endReason) 0
    else if h.state ≠ 8 then s.cmdAnswer c 6 0
    else if h.expired.isSome then s.cmdAnswer c 7 0
    else (s.updHamper i fun h => { h with state := 6, deadlineTick := 0 }).cmdAnswer c 0 0

/-- Parents of a draft block are as R382 asks. -/
def draftOk (b : List Byte) (n : Nat) (tree : Bool) : Bool :=
  ((List.range n).all fun i =>
    let p := (nth 0 b (64 + i)).toNat
    if tree then p == 255 || decide (p < i) else p == (if i = 0 then 255 else i - 1))
  && (List.range (128 - 80)).all fun i => nth 0 b (80 + i) == 0

/-- DRAFT (R382). -/
def State.draft (s : State) (c : CmdRec) (b : List Byte) : State :=
  let n := fld c.w3 24 5
  if n = 0 ∨ 16 < n ∨ c.w2.toNat % 128 ≠ 0 ∨ !draftOk b n (c.w3.getLsbD 29) then s.cmdAnswer c 4 0
  else s.onRequest c fun s i =>
    let d : DraftBlock := { base := fld c.w3 0 24, tokens := (List.range n).map fun j => BitVec.ofNat 32 (natLE (slice b (4 * j) 4))
                            parents := (List.range n).map fun j => nth 0 b (64 + j) }
    let s := s.modSrv fun v => { v with drafts := setOpt v.drafts i (some d) }
    (s.srvPut ((s.r64 Reg.srvDraftBase).toNat + 128 * i) (slice b 0 128)).cmdAnswer c 0 0

/-- ADAPTER_LOAD (R385). -/
def State.adapterLoad (s : State) (c : CmdRec) : State :=
  let n := fld c.w2 0 12
  let rank := fld c.w2 16 9
  if rank < 4 ∨ 256 < rank ∨ rank % 4 ≠ 0 then s.cmdAnswer c 4 0
  else match (List.range 4).find? fun v => (nth AdapterVer.reset (s.adapter n).vers v).vstate == 0 with
    | none => s.cmdAnswer c 8 0
    | some v =>
      let s := s.adapterOld n
      (s.updAdapter n fun a =>
        { a with state := 1, rank := rank, cur := v, top := a.top + 1
                 vers := a.vers.set v ⟨a.top + 1, 0, fld c.w3 0 48, 1, fld c.w2 32 6⟩ }).cmdAnswer c 0 0

/-- ADAPTER_RETIRE (R385). -/
def State.adapterRetire (s : State) (c : CmdRec) : State :=
  let n := fld c.w2 0 12
  ((s.adapterOld n).updAdapter n fun a => { a with state := 2 }).cmdAnswer c 0 0

/-- BUDGET (R376): balance, time of update and count stay. -/
def State.budgetSet (s : State) (c : CmdRec) : State :=
  (s.updBudget (fld c.w2 0 12) fun b => { b with
    rate := fld c.w3 0 32, burst := fld c.w3 32 32, promptW := fld c.w4 0 8, unlimited := c.w4.getLsbD 8 }).cmdAnswer c 0 0

/-- QUERY: the hamper is written, and the command completes, when everything of the boundary has been resolved. -/
def State.query (s : State) (c : CmdRec) : State :=
  if c.w2.toNat % 32 ≠ 0 then s.cmdAnswer c 4 0
  else match s.named c with
    | none => s.cmdAnswer c 3 0
    | some i => s.modSrv fun v => { v with queries := v.queries ++ [(c.w2.toNat, i, ⟨9, 0, 0, cmdHandle c, c.tag, s.tick, 0, 0⟩)] }

/-- The boundary's resolution has ended: the hampers that QUERY named are written to host memory as they stand, each followed by
its completion; a FENCE behind them completes. -/
def State.queryWrite (s : State) : State :=
  if s.srv.queries.isEmpty then s
  else
    let t := (s.each s.srv.queries fun s q =>
      (((s.spanWrite 2 q.1 srvSrc 0 ((s.hamper q.2.1).bytes q.2.1) false).1).modSrv fun v => { v with owed := v.owed ++ [q.2.2] }).cplFlush)
    (t.modSrv fun v => { v with queries := [] }).fenceCheck

/-- A PARK in progress was given before ring index i. -/
def Parking.before (p : Parking) (i : Word) : Bool := decide ((i - p.index).toNat < 2 ^ 31)

/-- FENCE waits for every earlier command that has not completed: PARKs whose moves are not done, and QUERYs of this boundary. -/
def State.fence (s : State) (x : TakenCmd) : State :=
  let l := (s.srv.hampers.filter fun e => match e.2.park with | some p => p.before x.index | none => false).map (·.1)
  if l.isEmpty ∧ s.srv.queries.isEmpty then s.cmdAnswer x.rec_ 0 0
  else s.modSrv fun v => { v with fences := v.fences ++ [(x.rec_.tag, l)] }

/-- What a command of an operation does; one whose OP is reserved is INVALID. -/
def cmdMeaning (op : Nat) : State → TakenCmd → State :=
  match op with
  | 1 => fun s x => s.submit x.rec_ x.block
  | 2 => fun s x => s.cancel x.rec_
  | 3 => fun s x => s.park x
  | 4 => fun s x => s.resume x.rec_
  | 5 => fun s x => s.draft x.rec_ x.block
  | 6 => fun s x => s.adapterLoad x.rec_
  | 7 => fun s x => s.adapterRetire x.rec_
  | 8 => fun s x => s.budgetSet x.rec_
  | 9 => fun s x => s.query x.rec_
  | 10 => fun s x => s.fence x
  | _ => fun s x => s.cmdAnswer x.rec_ 4 0

/-- The sampled command that comes next is resolved, if there is one. -/
def State.resolveNext (s : State) : State :=
  match s.nextCmd with
  | none => s
  | some x => s.command x.op (cmdMeaning x.op)

/-- Every sampled command is resolved, in order. -/
def State.resolveAll (s : State) : State := s.upTo s.srv.cmds.length fun s _ => s.resolveNext

/-- A sampled command has not been resolved. -/
def State.unresolved (s : State) : Bool := s.running && s.nextCmd.isSome

/-! ## Token records (R372, R373, R304) -/

/-- Device-ring slots that no record waits in. -/
def State.tokenRoom (s : State) : Nat :=
  2 ^ s.rf Reg.gtxTsDevCfg 0 5 - (s.r32 Reg.gtxTsDevProd - s.r32 Reg.gtxTsProd).toNat

/-- One token record is written to the device ring, and the producer index after it. -/
def State.tokenRecord (s : State) (i index : Nat) (tok : Word) (final fallback : Bool) (reason : Nat) (logp : Word) : State :=
  let h := s.hamper i
  let p := s.r32 Reg.gtxTsDevProd
  let b := bytesLE 4 (h.handle i) ++ bytesLE 4 tok.toNat
    ++ bytesLE 4 (index + final.toNat * 2 ^ 24 + fallback.toNat * 2 ^ 25 + h.logp.toNat * 2 ^ 26 + reason * 2 ^ 27)
    ++ bytesLE 4 (if h.logp then logp.toNat else 0)
  let off := (s.r64 Reg.gtxTsDevBase).toNat / 16 * 16 + 16 * (p.toNat % 2 ^ s.rf Reg.gtxTsDevCfg 0 5)
  (s.srvPut off b).tsDevProd (p + 1)

/-! ## Moves, thermoses and pages (R374, R378, R379, R386, R389, R390) -/

/-- An event that the firmware resolves, by its place in the order. -/
def State.firmwareAt (s : State) (key : Nat) (ok : Bool) (f : State → State) : State :=
  if s.running ∧ ok ∧ s.inOrder key then (f (s.resolved key)).srvRefresh else s

/-- The firmware's own event of a class. -/
def State.firmware (s : State) (cls : Nat) (ok : Bool) (f : State → State) : State := s.firmwareAt (ownKey cls) ok f

/-- The last of a sequence's moves completes on an engine (R374). -/
def State.moved (s : State) (e : Nat) (ok : Bool) (f : State → State) : State := s.firmwareAt (taskKey e) ok f

/-- The stack pages of a request return to the pool. -/
def State.givePages (s : State) (i : Nat) : State :=
  let h := s.hamper i
  (s.poolGive h.ctx h.pages).modHamper i fun h => { h with pages := 0 }

/-- Pages that a request shares with a holder. -/
def State.sharedPages (s : State) (i : Nat) : Nat :=
  match (s.hamper i).shared with
  | some b => streams (s.hamper i).ctx * (64 * ((s.bucket b).block + 1) / perPage (s.hamper i).ctx)
  | none => 0

/-- Pages that a request still lacks for n positions, those it has reserved apart. -/
def State.lacks (s : State) (i n : Nat) : Nat :=
  let h := s.hamper i
  pagesFor h.ctx n - s.sharedPages i - h.pages - h.reservedPages

/-- What a sequence's cache holds up to LEN, at its virtual addresses: the blocks of its streams and their valid words. -/
def State.cacheParts (s : State) (i : Nat) : State × List (Nat × List Byte × Bool) :=
  let h := s.hamper i
  let r := s.kvDesc (srvAcc h.ctx) (h.cdesc / 128 * 128)
  if r.2.1 ≠ 0 then (r.1, [])
  else
    let k := r.2.2
    let spans := k.all.flatMap fun x => ((List.range ((h.len + 63) / 64)).filter fun n => k.held n).flatMap fun n =>
      (k.key x.1 x.2 (64 * n), k.blk) :: (if k.bitmaps then [(k.vword x.1 x.2 n, 8)] else [])
    spans.foldl (fun acc a =>
      let d := acc.1.vSpanRead (srvAcc h.ctx) a.1 a.2 0
      (d.1, acc.2 ++ [(a.1, d.2.data, d.2.poison)])) (r.1, [])

/-- The moves of a swap or of a thermos have copied the cache to a tier: its own stack pages are released, and it shares none any more
(R273, R379, R389; log 90). -/
def State.cacheOut (s : State) (i tier : Nat) (pack : Bool) : State :=
  let r := s.cacheParts i
  let s := match (s.hamper i).shared with | some b => r.1.prefixUnshare b | none => r.1
  s.givePages i |>.modHamper i fun h => { h with copy := some ⟨tier, pack, r.2⟩, shared := none }

/-- The moves back have written the copy into the new frames, with the valid words and LEN, and the copy is given up (R273). -/
def State.cacheIn (s : State) (i : Nat) : State :=
  match (s.hamper i).copy with
  | none => s
  | some c =>
    let ctx := (s.hamper i).ctx
    let s := s.each c.parts fun s x => (s.vSpanWrite (srvAcc ctx) x.1 0 x.2.1 x.2.2).1
    (s.modHamper i fun h => { h with copy := none }).setLen i (s.hamper i).len

/-- The hold that keeps a DECODE request out of a basket now (R375): budget, token ring, page; 0 for none. -/
def State.holdNow (s : State) (i : Nat) : Nat :=
  let h := s.hamper i
  let b := s.budget h.customer
  if !b.unlimited ∧ min (b.burst * 65536) (b.balance + b.rate * (s.tick - b.last)) < 65536 then 1
  else if s.tokenRoom = 0 then 2
  else if s.pool h.ctx < s.lacks i (h.len + 1) then 3
  else 0

/-- A victim's moves complete. -/
def State.swapComplete (s : State) (i e : Nat) (ok : Bool) : State :=
  let h := s.hamper i
  s.moved e (h.state == 5 || (h.state == 10 && h.moving)) fun s =>
    if h.state = 10 then s.updHamper i fun h => { h with moving := false }
    else if ok then (s.cacheOut i 1 false).updHamper i fun h => { h with state := 6, retried := false }
    else if !h.retried then s.updHamper i fun h => { h with retried := true }
    else ((s.updHamper i fun h => { h with state := 3 }).endRequest i 11).raise srvPn 11 10 srvSrc

/-- Swap-in moves complete; a second failure ends the request FAULT. -/
def State.restoreComplete (s : State) (i e : Nat) (ok : Bool) : State :=
  let h := s.hamper i
  s.moved e (h.state == 9 || (h.state == 10 && h.moving)) fun s =>
    if h.state = 10 then s.updHamper i fun h => { h with moving := false }
    else if ok then (s.cacheIn i).updHamper i fun h => { h with state := if h.heldFrom = 2 then 2 else 3, retried := false }
    else if !h.retried then s.updHamper i fun h => { h with retried := true }
    else (s.updHamper i fun h => { h with state := 3 }).endRequest i 8

/-- Thermos moves complete. After a second failure the request returns to DECODE, or to HELD where a hold applies. -/
def State.thermosComplete (s : State) (i e : Nat) (ok : Bool) : State :=
  let h := s.hamper i
  s.moved e (((h.state == 7 && !s.inBasket i) || (h.state == 10 && h.moving)) && h.park.isSome) fun s =>
    match h.park with
    | none => s
    | some p =>
      if h.state = 10 then (s.updHamper i fun h => { h with moving := false }).parkDone i (endedStatus h.endReason)
      else if ok then
        ((s.cacheOut i p.tier p.pack).updHamper i fun h => { h with
          state := 8, deadlineTick := s.tick + p.ttl, retried := false, expired := none }).parkDone i 0
      else if !h.retried then s.updHamper i fun h => { h with retried := true }
      else
        let why := s.holdNow i
        (s.updHamper i fun h => { h with
          state := if why = 0 then 3 else 4, heldFrom := 3, hold := why, retried := false }).parkDone i 9

/-- A parked thermos expires. -/
def State.thermosExpiry (s : State) (i : Nat) : State :=
  let h := s.hamper i
  s.firmware 10 (h.state == 8 && h.expired.isNone && decide (h.deadlineTick ≤ s.tick)) fun s =>
    s.modHamper i fun h => { h with expired := some s.tick }

/-- Its copy is released at the next boundary, and the request ends EXPIRED. -/
def State.thermosRelease (s : State) (i : Nat) : State :=
  let h := s.hamper i
  s.firmware 8 (h.state == 8 && match h.expired with | some t => decide (t < s.tick) | none => false) fun s => (s.endRequest i 6).modHamper i fun h => { h with expired := some s.tick }

/-- A first-token deadline expires (R384). -/
def State.ttftExpiry (s : State) (i : Nat) : State :=
  let h := s.hamper i
  s.firmware 10 (h.state != 0 && h.state != 10 && h.state != 8 && h.firstTick == 0 && h.deadlineTick != 0 && !h.ttftMiss
      && decide (h.deadlineTick ≤ s.tick)) fun s => s.updHamper i fun h => { h with ttftMiss := true }

/-- The pages of an ENDED request become free: they return to the pool, the adapter is unpinned, its prefix pages are
retained or removed, and the hamper is FREE with its next generation. -/
def State.pageRelease (s : State) (i : Nat) : State :=
  let h := s.hamper i
  s.firmware 8 (h.state == 10 && !h.endOwed && !h.moving && !s.inBasket i) fun s =>
    let s := match h.shared with | some b => s.prefixUnshare b | none => s
    let r := s.holderLeaves i
    let s := r.1.poolGive h.ctx (h.pages - r.2 + h.reservedPages)
    let s := if h.adapterEn then s.adapterRefs h.adapterSlot h.adapterVer.toNat (· - 1) else s
    let s := s.modSrv fun v => { v with drafts := setOpt v.drafts i none }
    s.updHamper i fun h => { Hamper.reset with gen := h.gen + 1 }

/-- A serving core's beat, once every 1,024 ticks (R392). -/
def State.coreBeat (s : State) (n : Nat) : State :=
  if !s.released ∨ s.tick < natAt s.srv.beats n + 1024 then s
  else (s.w32 (Reg.srvCoreBeat n) (s.r32 (Reg.srvCoreBeat n) + 1)).modSrv fun v => { v with beats := setNat v.beats n s.tick }

/-- The tracker starts: BLK_VER 1.0 of the SRV_ pages, the records of its hampers, then RUNNING, after tide reads LOCKED, or as master, or with no port
of SRV_ST_PORTS and none enabled, and not before RELEASED (R54, R469, R471). -/
def State.trackerStart (s : State) : State :=
  let linked := (s.r32 Reg.srvStPorts &&& 0xFF != 0) || (List.range 8).any fun p => s.rb (blkCtrl (fpPage p)) 0
  if s.running ∨ !s.released ∨ !(s.tideState == 2 || s.isMaster || !linked) then s
  else
    let s := s.each [0x238, 0x239, 0x23A, 0x23B, 0x23C] fun s pn => s.w32 (0x1000 * pn + 4) 0x10000
    let s := s.upTo (2 ^ s.rf Reg.srvHamperCfg 0 5) fun s i => s.srvPut ((s.r64 Reg.srvHamperBase).toNat + 256 * i) ((s.hamper i).bytes i)
    (s.wb Reg.srvStat 0 true).intake

end Sys2Proof.Machine
end

