-- ==== Sys2Proof/Machine/Basket.lean ====
section
/-! DEFINITION. The step (R374 to R384, R391, R408 to R410), transfer images (R206 to R209), and poisoned weights (R421 to
R425). -/
namespace Sys2Proof.Machine

/-! ## The basket (R373 to R376) -/

def State.basketRows (s : State) : List Row := s.srv.basket.rows
def State.modBasket (s : State) (f : Basket → Basket) : State := s.modSrv fun v => { v with basket := f v.basket }

/-- Query positions of a row, and the tokens that it may emit. -/
def Row.positions (r : Row) : Nat := if r.chunk = 0 then 1 + r.drafts.tokens.length else r.chunk
def Row.emits (r : Row) : Nat := 1 + r.drafts.tokens.length

/-- The basket has room for a row. -/
def State.rowRoom (s : State) : Bool :=
  decide (s.basketRows.length < s.rf Reg.srvStepCfg 0 13)
  && decide ((s.basketRows.map Row.positions).sum < (s.r32 Reg.srvStepTokens).toNat)

/-- The token device ring has room for n tokens beside those of the rows placed. -/
def State.tokensFit (s : State) (n : Nat) : Bool := decide ((s.basketRows.map Row.emits).sum + n ≤ s.tokenRoom)

/-- A customer's balance is brought up to tick f (R376). -/
def State.budgetRefresh (s : State) (c f : Nat) : State :=
  if (s.budget c).unlimited then s
  else s.updBudget c fun b => { b with balance := min (b.burst * 65536) (b.balance + b.rate * (f - b.last)), last := f }

/-- A balance covers a cost; the cost of a row of an unlimited customer is 0. -/
def State.affords (s : State) (c cost : Nat) : Bool := (s.budget c).unlimited || decide (cost ≤ (s.budget c).balance)
def State.charge (s : State) (c cost : Nat) : State :=
  if (s.budget c).unlimited then s else s.updBudget c fun b => { b with balance := b.balance - cost }
def State.refund (s : State) (c cost : Nat) : State :=
  if (s.budget c).unlimited ∨ cost = 0 then s else s.updBudget c fun b => { b with balance := b.balance + cost }

/-- A request takes its pages for n positions: from its reservation first, then from the pool (R380). -/
def State.takePages (s : State) (i n : Nat) : State :=
  let h := s.hamper i
  let need := pagesFor h.ctx n - s.sharedPages i - h.pages
  let res := min need h.reservedPages
  (s.poolTake h.ctx (need - res)).updHamper i fun h => { h with pages := h.pages + need, reservedPages := h.reservedPages - res }

/-- Requests in an order of R375: descending PRIORITY, ascending ARRIVE_TICK, ascending index. -/
def State.ranked (s : State) (p : Hamper → Bool) : List Nat :=
  let l := (s.srv.hampers.filter fun e => p e.2).map (·.1)
  sortBy (fun a b =>
    let x := s.hamper a
    let y := s.hamper b
    decide (y.priority < x.priority) || (x.priority == y.priority && (decide (x.arriveTick < y.arriveTick)
      || (x.arriveTick == y.arriveTick && decide (a < b))))) l

/-- A context runs steps: it is on its engines, not to be drained (R402), and no weight page of it is lost (R425). -/
def State.ctxRuns (s : State) (k : Nat) : Bool :=
  s.ctxState k == 1 && !s.ctxYields k && s.srv.weights.all fun e => match e.2 with | some w => w.ctx != k || !w.lost | none => true

/-- A victim is preempted for its context's pages (R379): the lowest PRIORITY, then the latest, then the highest index. -/
def State.preempt (s : State) (ctx : Nat) : State × Option Nat :=
  let l := (s.ranked fun h => (h.state == 2 || h.state == 3 || h.state == 4) && h.ctx == ctx).filter fun i =>
    !s.basketRows.any fun r => r.hamper == i
  match l.getLast? with
  | none => (s, none)
  | some v =>
    let s := s.updHamper v fun h => { h with
      state := 5, heldFrom := if h.state = 4 then h.heldFrom else h.state, hold := 0, retried := false }
    ((s.count Reg.srvPreemptCnt 1).raise srvPn 10 7 srvSrc, some v)

/-! ## The fallback of a row (R409, R410) -/

/-- The deadline of a row. -/
def rowDeadline (h : Hamper) (first decode : Bool) : Option Nat :=
  if first ∧ h.genCount = 0 then (if h.deadlineTick = 0 then none else some h.deadlineTick)
  else if decode ∧ h.tbtLimit ≠ 0 then some (h.lastTick + h.tbtLimit) else none

/-- T: the longest of the last steps. -/
def State.stepTime (s : State) : Nat := (s.srv.spans.take (s.r32 Reg.srvDlHist).toNat).foldl max 0

/-- Whether the row runs the fallback model: COPY is always ready, SHADOW where its cache holds every committed position and the
request has a token. -/
def State.fallsBack (s : State) (i start : Nat) (first decode : Bool) : Bool :=
  let h := s.hamper i
  let mode := (s.ctx h.ctx).fbMode
  s.rtMode == 2
  && (match rowDeadline h first decode with
      | some d => decide (d < start + s.stepTime + (s.r32 Reg.srvDlMargin).toNat)
      | none => false)
  && (mode == 1 || (mode == 2 && h.genCount != 0 && decide (h.len ≤ h.shadow)))

/-- Ancestors of draft j and itself, as bits (R158, R383). -/
def draftBits (d : DraftBlock) (fuel j : Nat) : Nat :=
  match fuel with
  | 0 => 0
  | fuel + 1 =>
    let p := (nth 255 d.parents j).toNat
    2 ^ j + if p < j then draftBits d fuel p else 0

/-- A length-table entry (Table 8-4) for nq query positions from pos on, with KV_END end; its scratchpad addresses are the schedule's
and 0 here. -/
def lengthEntry (cdesc end_ nq pos req : Nat) : List Byte :=
  bytesLE 8 (cdesc / 128 * 128) ++ bytesLE 4 (end_ + nq * 2 ^ 24) ++ bytesLE 4 pos ++ List.replicate 12 0 ++ bytesLE 4 req

/-- The parameter record with which the token for a position is sampled (R146, R383). -/
def sampleRecord (h : Hamper) (pos : Nat) : List Byte :=
  bytesLE 4 h.temp.toNat ++ bytesLE 4 h.topP.toNat ++ bytesLE 8 pos ++ bytesLE 8 h.seed.toNat ++ List.replicate 8 0

/-- The rake request block (Table 14-2) with which a length-table entry's range is asked of another device, its control record and query
rows the schedule's, and 0 or absent here. -/
def rakeBlock (cdesc end_ nq pos req : Nat) (tree : List Byte) : List Byte :=
  List.replicate 64 0 ++ bytesLE 8 (cdesc / 128 * 128) ++ bytesLE 4 0 ++ bytesLE 4 end_ ++ bytesLE 8 (pos + nq * 2 ^ 24) ++ bytesLE 8 req
    ++ slice tree 0 32

/-- SCORE_SCALE and OUT_SCALE of the control records of an imported cache's layers and heads: those of the context's model, multiplied by
the image's scales (R209). -/
def scaledControls (ctx : Nat) (l : List KvScale) : List KvScale :=
  l.map fun x => { x with
    k := (fmul .fp32 false (Config.attnScale ctx x.layer 0).toNat x.k).n
    v := (fmul .fp32 false (Config.attnScale ctx x.layer 1).toNat x.v).n }

/-- What a row has in the step's tables: one length-table entry for a DECODE row with its drafts, one for each position of a prompt
chunk, the rake request block that carries the same range to another device, an append-table row for each new position, and a sampling record for each position that samples.
Each names the request by its handle as REQ (R364, R383; DESIGN CHOICE, log 134). With an imported cache that has scales go the scaled
control records and the scales on which its new keys and values are stored (R209). -/
def stepRow (h : Hamper) (i pos n : Nat) (decode : Bool) (d : DraftBlock) : StepRow :=
  let req := h.handle i
  let tree := (List.range d.tokens.length).flatMap fun j => bytesLE 2 (draftBits d 16 j)
  { hamper := i
    rakes := if decode then [rakeBlock h.cdesc (pos + n) n pos req tree]
      else (List.range n).map fun j => rakeBlock h.cdesc (pos + j + 1) 1 (pos + j) req []
    entries := if decode then [lengthEntry h.cdesc (pos + n) n pos req]
      else (List.range n).map fun j => lengthEntry h.cdesc (pos + j + 1) 1 (pos + j) req
    appends := (List.range n).map fun j => bytesLE 8 (h.cdesc / 128 * 128) ++ bytesLE 4 (pos + j) ++ bytesLE 4 req
    samples := if decode then (List.range n).map fun j => sampleRecord h (pos + j + 1)
      else if pos + n = h.promptLen then [sampleRecord h h.promptLen] else []
    tree := tree
    controls := scaledControls h.ctx h.scales
    scales := h.scales }

/-- A row is placed: charged, its LEN raised, its tables written, and it may run the fallback model. -/
def State.placeRow (s : State) (i chunk : Nat) (d : DraftBlock) (cost len start : Nat) (first : Bool) : State :=
  let h := s.hamper i
  let fb := s.fallsBack i start first (chunk == 0)
  let s := s.charge h.customer cost
  let r : Row := { hamper := i, gen := h.gen, chunk := chunk, drafts := d, cost := if (s.budget h.customer).unlimited then 0 else cost
                   fallback := fb, done := false, lenBefore := h.len, weight := none }
  let s := if fb then s.count Reg.srvFbRowsCnt 1 else s
  let s := s.modSrv fun v => { v with
    tables := v.tables ++ [stepRow h i h.len (if chunk = 0 then 1 + d.tokens.length else chunk) (chunk == 0) d] }
  (s.modBasket fun b => { b with rows := b.rows ++ [r] }).setLen i len

/-! ## Placing (R375) -/

/-- The drafts that a request's row carries: those that continue from its last token (R382). -/
def State.draftOf (s : State) (i : Nat) : DraftBlock :=
  match optAt s.srv.drafts i with
  | some d => if d.base = (s.hamper i).genCount then d else DraftBlock.none_
  | none => DraftBlock.none_

/-- Step 1: a DECODE row, or a HELD one whose hold may have cleared. -/
def State.placeDecode (s : State) (start i : Nat) : State :=
  let h := s.hamper i
  let d := s.draftOf i
  let n := d.tokens.length
  let s := (s.modSrv fun v => { v with drafts := setOpt v.drafts i none }).budgetRefresh h.customer s.tick
  let held (s : State) (why : Nat) : State := s.updHamper i fun h => { h with state := 4, heldFrom := 3, hold := why }
  let cost := (1 + n) * 65536
  let len := h.len + 1 + n
  if !s.rowRoom then held s 0
  else if !s.affords h.customer cost then
    held (s.updBudget h.customer fun b => { b with heldSteps := min (2 ^ 32 - 1) (b.heldSteps + 1) }) 1
  else if !s.tokensFit (1 + n) then held s 2
  else
    let need := s.lacks i len
    let s := if need ≤ s.pool h.ctx then s else s.freeRetained h.ctx need
    if need ≤ s.pool h.ctx then
      ((s.takePages i len).updHamper i fun h => { h with state := 3, hold := 0 }).placeRow i 0 d cost len start true
    else
      let v := (s.wb Reg.srvStat 2 true).preempt h.ctx
      if v.2 = some i then v.1 else held v.1 3

/-- Step 2: a SWAPPED request begins RESTORING. -/
def State.placeSwapped (s : State) (i : Nat) : State :=
  let h := s.hamper i
  if pagesFor h.ctx (h.len + s.rf Reg.srvReserve 0 24) ≤ s.pool h.ctx then
    let n := pagesFor h.ctx h.len
    (s.poolTake h.ctx n).updHamper i fun h => { h with state := 9, pages := n, retried := false }
  else s

/-- Length of a request's next prompt chunk. -/
def State.chunkLen (s : State) (h : Hamper) : Nat :=
  let e := min h.promptLen (h.promptDone + s.rf Reg.srvStepCfg 16 12)
  (if e = h.promptLen then e else e / 64 * 64) - h.promptDone

/-- Step 3: a prompt chunk. -/
def State.placePrefill (s : State) (start i : Nat) : State :=
  let h := s.hamper i
  let c := s.chunkLen h
  let s := s.budgetRefresh h.customer s.tick
  let cost := (c * (s.budget h.customer).promptW + 15) / 16 * 65536
  if c = 0 ∨ !s.rowRoom ∨ !s.affords h.customer cost ∨ !s.tokensFit 1 then s
  else
    let len := h.promptDone + c
    let need := s.lacks i len
    let s := if need ≤ s.pool h.ctx then s else s.freeRetained h.ctx need
    if s.pool h.ctx < need then s
    else (s.takePages i len).placeRow i c DraftBlock.none_ cost len start (len == h.promptLen)

/-- A request with its cache in transfer images receives them: it is rejected, or starts at the positions they carry (R209, R361). -/
def State.importCache (s : State) (i : Nat) : State :=
  let h := s.hamper i
  if !h.import_ then s
  else
    let r := s.takeImages h (streams h.ctx) h.importAt.toNat [] []
    match r.2 with
    | none => r.1.endRequest i 9
    | some (pos, scales) =>
      let whole := decide (h.promptLen ≤ pos)
      (r.1.updHamper i fun h => { h with
        promptDone := min pos h.promptLen, state := if whole then 3 else 2, scales := scales
        lastToken := if whole then BitVec.ofNat 32 r.1.free else h.lastToken }).drawn.setLen i pos

/-- The bucket of a match whose holder lies on this device and whose pages the request may share, both descriptors being as R204
asks; and the request's blocks that are held elsewhere are its own to fill. -/
def State.sharer (s : State) (i : Nat) (m : Option Nat) : State × Option Nat :=
  match m with
  | none => (s, none)
  | some b =>
    let h := s.hamper i
    let x := s.bucket b
    if x.dev ≠ s.dev then (s, none)
    else
      let p := s.kvDesc (srvAcc h.ctx) (x.holder / 128 * 128)
      let q := p.1.kvDesc (srvAcc h.ctx) (h.cdesc / 128 * 128)
      (q.1, if p.2.1 = 0 ∧ q.2.1 = 0 ∧ p.2.2.shares q.2.2 then some b else none)

/-- Positions that a request takes from a match of n blocks: all of them from a holder whose pages it shares or whose device is
another, none from a local holder whose cache is of another shape. -/
def State.matched (s : State) (m near : Option Nat) (n : Nat) : Nat :=
  match m with
  | none => 0
  | some b => if (s.bucket b).dev = s.dev ∧ near.isNone then 0 else 64 * n

/-- The shared blocks are made the request's own where it must be so: valid words, score entries, and copies of the blocks of a page
that is not wholly matched (R204). Blocks of a holder on another device are copied by READ into the request's own pages: what the peer
sends is free (log 85). -/
def State.shareCache (s : State) (i : Nat) (near : Option Nat) (n : Nat) : State :=
  let h := s.hamper i
  let q := s.kvDesc (srvAcc h.ctx) (h.cdesc / 128 * 128)
  if n = 0 ∨ q.2.1 ≠ 0 then s
  else match near with
    | some b =>
      let p := q.1.kvDesc (srvAcc h.ctx) ((s.bucket b).holder / 128 * 128)
      p.1.shareBlocks h.ctx p.2.2 q.2.2 (64 * n / perPage h.ctx * perPage h.ctx / 64) n
    | none => s.each q.2.2.all fun s x => s.each (List.range n) fun s j =>
        ((((s.vSpanWrite (srvAcc h.ctx) (q.2.2.key x.1 x.2 (64 * j)) 0 (s.freeBytes q.2.2.blk) false).1).drawnN q.2.2.blk).markBlock h.ctx
          q.2.2 x j (2 ^ 64 - 1))

/-- Step 4: a QUEUED request becomes PREFILL, or is deferred (R380). A match whose holder is another device is copied. -/
def State.admitRow (s : State) (i : Nat) : State :=
  let m := s.prefixMatch i
  let h := m.1.hamper i
  let y := m.1.sharer i m.2.2
  let near := y.2
  let done := m.1.matched m.2.2 near m.2.1.length
  let s := y.1.modHamper i fun h => { h with shared := near }
  let need := pagesFor h.ctx (h.promptLen + s.rf Reg.srvReserve 0 24) - s.sharedPages i
  let s := if need ≤ s.pool h.ctx then s else s.freeRetained h.ctx need
  if s.pool h.ctx < need then (s.modHamper i fun h => { h with shared := none }).count Reg.srvDeferCnt 1
  else
    let s := match near with | some b => s.updBucket b fun x => { x with refs := x.refs + 1 } | none => s
    let s := (s.poolTake h.ctx need).updHamper i fun h => { h with
      state := 2, reservedPages := need, promptDone := done, hashes := m.2.1.take (done / 64) }
    (((s.setReq i).shareCache i near (done / 64)).setLen i done).importCache i

/-! ## The build (R374) -/

/-- A start of step timer 0, with TARGET 1, falls on a tick. -/
def State.startsAt (s : State) (t : Nat) : Bool :=
  let base := (s.r64 (Reg.tideStepBase 0)).toNat
  let c := s.r32 (Reg.tideStepCtrl 0)
  c.getLsbD 0 && c.getLsbD 1 && decide (base ≤ t) && (t - base) % max 1 (s.r32 (Reg.tideStepPeriod 0)).toNat == 0

/-- Rows of a poisoned step await a reload. -/
def State.reloading (s : State) : Bool := s.basketRows.any fun r => r.weight.isSome

/-- At boundary F, BUILD ticks before a start: the next basket is fixed. -/
def State.basketBuild (s : State) : State :=
  let start := s.tick + s.rf Reg.srvStepCfg 28 4
  let ok := !s.srv.basket.live && s.srv.rerunAt.isNone && !s.reloading && s.startsAt start && decide (s.srv.lastDone ≤ s.tick)
    && !s.pwr.tripped
  s.firmware 11 ok fun s =>
    let s := (s.queryWrite.wb Reg.srvStat 2 false).modBasket fun _ => { rows := [], start := none, live := false, rerun := false }
    let s := s.modSrv fun v => { v with tables := [] }
    let runs (h : Hamper) : Bool := s.ctxRuns h.ctx
    let s1 := s.each (s.ranked fun h => (h.state == 3 || (h.state == 4 && h.heldFrom == 3)) && runs h) fun s i =>
      if (s.hamper i).state = 3 ∨ (s.hamper i).state = 4 then s.placeDecode start i else s
    let s2 := s1.each (s1.ranked fun h => h.state == 6 && runs h) State.placeSwapped
    let s3 := s2.each (s2.ranked fun h => h.state == 2 && runs h) fun s i => s.placePrefill start i
    let queued := s3.ranked fun h => h.state == 1 && runs h
    let s4 := s3.each queued State.admitRow
    let s5 := s4.each (queued.filter fun i => (s4.hamper i).state == 2) fun s i => s.placePrefill start i
    let s6 := s5.each (queued.filter fun i => (s5.hamper i).state == 3) fun s i => s.placeDecode start i
    let rows := s6.basketRows
    let s7 := (s6.modBasket fun b => { b with live := !rows.isEmpty }).wf Reg.srvLoad 0 13 rows.length
    -- no draft outlives the build that could have used it (R382)
    (s7.modSrv fun v => { v with drafts := [] }).raiseIf (rows.any (·.fallback)) srvPn 15 10 srvSrc

/-- The step's first tasks are signalled with one blanket ENG_TC_ADD; the counter is the schedule's, and free. -/
def State.stepSignal (s : State) : State :=
  let ctxs := s.basketRows.map fun r => (s.hamper r.hamper).ctx
  let es := (List.range 256).filter fun e => ctxs.any fun k => (s.ctx k).engines.getLsbD e
  (s.each es fun t e => t.tcAdd e (BitVec.ofNat 32 (s.free % 64 + 2 ^ 16))).drawn

/-- A start of step timer 0 is passed over, and counted in SKIPPED. -/
def State.stepSkip (s : State) : State := s.wf (Reg.tideStepCtrl 0) 16 8 (min 255 (s.rf (Reg.tideStepCtrl 0) 16 8 + 1))

/-- Step timer 0 interrupts the serving cores: the step that has been built starts; a start that finds the step before it still
running, or that came less than BUILD ticks before it, is passed over (R374, R22). -/
def State.stepStart (s : State) : State :=
  if !s.running then s
  else if !s.srv.basket.live then
    if s.srv.lastDone ≠ 0 ∧ s.tick < s.srv.lastDone + s.rf Reg.srvStepCfg 28 4 then s.stepSkip else s
  else match s.srv.basket.start with
    | none =>
      ((s.modBasket fun b => { b with start := some s.tick }).w64 Reg.srvStepNum (s.r64 Reg.srvStepNum + 1)).stepSignal
    | some _ => s.stepSkip

/-! ## Tokens of a row (R381, R383, R384) -/

/-- Drafts accepted on the path from a node: the child whose token was sampled at the node's position. -/
def acceptPath (d : DraftBlock) (samples : List (Word × Word)) (fuel node : Nat) : List Nat :=
  match fuel with
  | 0 => []
  | fuel + 1 =>
    let at_ := if node = 255 then 0 else node + 1
    match (List.range d.tokens.length).find? fun j =>
        (nth 255 d.parents j).toNat == node && nth 0 d.tokens j == (nth (0, 0) samples at_).1 with
    | some j => j :: acceptPath d samples fuel j
    | none => []

/-- State of a stop sequence's match after a token: the longest prefix of the sequence that the tokens seen end with. -/
def seqMatch (sq : List Word) (len m : Nat) (tok : Word) : Nat :=
  let seen := sq.take m ++ [tok]
  ((List.range (min len (m + 1) + 1)).filter fun k => sq.take k == seen.drop (m + 1 - k)).foldl max 0

/-- The reason with which an emitted token ends its request, 0 for none. -/
def stopReason (h : Hamper) (tok : Word) (count pos m0 m1 posMax : Nat) : Nat :=
  if (h.stopIds.take h.nstop).contains tok then 1
  else if (1 ≤ h.nseq ∧ m0 = h.seqLen0) ∨ (2 ≤ h.nseq ∧ m1 = h.seqLen1) then 2
  else if count = h.genMax then 3
  else if pos = h.ctxMax ∨ posMax ≤ pos then 4
  else 0

/-- The matches of a request's stop sequences after a token. -/
def Hamper.matches (h : Hamper) (tok : Word) : Nat × Nat :=
  (if 1 ≤ h.nseq then seqMatch (h.stopSeq.take 8) h.seqLen0 h.m0 tok else h.m0,
    if 2 ≤ h.nseq then seqMatch (h.stopSeq.drop 8) h.seqLen1 h.m1 tok else h.m1)

/-- Why a request's next token, which will occupy a position, ends it; 0 where it does not. -/
def State.tokenStop (s : State) (h : Hamper) (tok : Word) (pos : Nat) : Nat :=
  stopReason h tok (h.genCount + 1) pos (h.matches tok).1 (h.matches tok).2
    (if s.rtMode = 1 then s.rf Reg.srvStPosMax 0 24 else 2 ^ 24)

/-- A token is emitted that will occupy a position: counted, tested, delivered (R381, R372). -/
def State.emitToken (s : State) (i : Nat) (x : Word × Word) (pos : Nat) (fb : Bool) : State × Nat :=
  let h := s.hamper i
  let m := h.matches x.1
  let why := s.tokenStop h x.1 pos
  let s := s.tokenRecord i h.genCount x.1 (why != 0) fb why x.2
  (s.updHamper i fun h => { h with
    genCount := h.genCount + 1, lastToken := x.1, gens := h.gens ++ [x.1], m0 := m.1, m1 := m.2
    fallbackSeen := h.fallbackSeen || fb }, why)

/-- The tokens of a row in order, up to one that ends the request: its number and reason. -/
def State.emitTokens (s : State) (i : Nat) (l : List (Word × Word)) (pos : Nat) (fb : Bool) : State × Option (Nat × Nat) :=
  l.zipIdx.foldl (fun acc x =>
    if acc.2.isSome then acc
    else
      let r := acc.1.emitToken i x.1 (pos + x.2) fb
      (r.1, if r.2 = 0 then none else some (x.2, r.2))) (s, none)

/-- The times of a request whose row has emitted tokens (R384). -/
def State.tokenTimes (s : State) (i : Nat) (first : Bool) : State :=
  s.updHamper i fun h =>
    let gap := s.tick - h.lastTick
    { h with
      firstTick := if h.firstTick = 0 then s.tick else h.firstTick, deadlineTick := 0
      maxGap := if first then h.maxGap else min (2 ^ 32 - 1) (max h.maxGap gap)
      tbtMisses := if !first ∧ h.tbtLimit ≠ 0 ∧ h.tbtLimit < gap then min (2 ^ 32 - 1) (h.tbtMisses + 1) else h.tbtMisses
      lastTick := s.tick }

/-- In a context with a SHADOW fallback, the step appends what its row has emitted to the request's shadow cache (R410); its prompt goes
there with the final chunk (DESIGN CHOICE, log 150). -/
def State.shadowStep (s : State) (i len : Nat) : State :=
  let h := s.hamper i
  if (s.ctx h.ctx).fbMode = 2 then s.modHamper i fun h => { h with shadow := len } else s

/-- A prompt chunk is committed; the final one samples the first token. -/
def State.acceptChunk (s : State) (r : Row) (samples : List (Word × Word)) : State :=
  let i := r.hamper
  let h := s.hamper i
  let done := h.promptDone + r.chunk
  let s := (s.updHamper i fun h => { h with promptDone := done }).prefixStep i r.lenBefore done
  if done < h.promptLen then s
  else
    let e := s.emitTokens i (samples.take 1) h.promptLen r.fallback
    let s := (e.1.tokenTimes i (h.genCount == 0)).shadowStep i h.promptLen
    match e.2 with
    | some x => s.endRequest i x.2
    | none => if (s.hamper i).state = 2 then s.updHamper i fun h => { h with state := 3 } else s

/-- The accepted drafts of a path that is not consecutive move to consecutive positions behind position p (R190, R383). -/
def State.copyPath (s : State) (i p : Nat) (path : List Nat) : State :=
  if path = List.range path.length then s
  else
    let h := s.hamper i
    let k := s.kvDesc (srvAcc h.ctx) (h.cdesc / 128 * 128)
    if k.2.1 ≠ 0 then k.1
    else k.1.each (path.zipIdx.filter fun x => x.1 != x.2) fun s x => s.copyRow h.ctx k.2.2 (p + x.1) (p + x.2)

/-- The drafts are verified and the row's tokens delivered. -/
def State.acceptDecode (s : State) (r : Row) (samples : List (Word × Word)) : State :=
  let i := r.hamper
  let h := s.hamper i
  let n := r.drafts.tokens.length
  let path := acceptPath r.drafts samples n 255
  let a := path.length
  let out := (nth (0, 0) samples 0) :: path.map fun j => nth (0, 0) samples (j + 1)
  let s := (s.count Reg.srvSpecProposed n).count Reg.srvSpecAccepted a
  let s := if r.cost = 0 then s else s.refund h.customer ((n - a) * 65536)
  let e := s.emitTokens i out (r.lenBefore + 1) r.fallback
  let s := e.1.tokenTimes i (h.genCount == 0)
  let len := match e.2 with | some x => r.lenBefore + x.1 + 1 | none => r.lenBefore + a + 1
  let s := (((s.copyPath i (r.lenBefore + 1) path).setLen i len).prefixStep i r.lenBefore len)
  -- a shadow cache that lacks an earlier position is not brought up to LEN by the tokens of one step
  let s := if h.shadow = r.lenBefore then s.shadowStep i len else s
  match e.2 with
  | some x => s.endRequest i x.2
  | none => s

/-! ## Completion of rows and steps (R374, R391, R408, R422) -/

/-- A quarantine entry for a page of 2^sh bytes in every core (R238, Table 10-18), or its removal. -/
def State.quarantine (s : State) (page sh : Nat) (on : Bool) : State :=
  let v : Nat := page / 4096 % 2 ^ 28 * 4096 + sh * 2 ^ 40 + 2 ^ 63
  s.upTo 8 fun s c =>
    match (List.range 64).find? fun i =>
        let q := s.r64 (Reg.coreQuar c i)
        if on then !q.getLsbD 63 else q.toNat == v with
    | some i => s.w64 (Reg.coreQuar c i) (BitVec.ofNat 64 (if on then v else 0))
    | none => s

/-- The step has reached its completion boundary: its time is kept, and an overrun of a static step is counted. -/
def State.stepComplete (s : State) : State :=
  let start := s.srv.basket.start.getD s.tick
  -- a context whose step completes is not blocked (R401)
  let ctxs := (s.basketRows.map fun r => (s.hamper r.hamper).ctx).eraseDups
  let s := s.each ctxs fun s k => s.modCtx k fun c => { (if c.blocked then c.woken s.tick else c) with quiet := 0 }
  let s := (s.modBasket fun b => { b with live := false }).modSrv fun v => { v with
    lastDone := s.tick, spans := ((s.tick - start) :: v.spans).take 16 }
  if s.rtMode ≠ 1 then s
  else
    let late := decide (start + (s.r32 Reg.srvStWcet).toNat < s.tick)
    let s := s.modSrv fun v => { v with overruns := (late :: v.overruns).take 1024 }
    let s := if late then (s.count Reg.srvStOverrunCnt 1).raise srvPn 13 10 srvSrc else s
    if late ∧ (s.r32 Reg.srvStOvrLimit).toNat ≤ (s.srv.overruns.filter id).length then
      (((s.wf Reg.srvRtStat 0 2 0).wb Reg.srvRtStat 3 true).modSrv fun v => { v with overruns := [] }).raise srvPn 14 10 srvSrc
    else s

def State.setRow (s : State) (k : Nat) (r : Row) : State := s.modBasket fun b => { b with rows := b.rows.set k r }

/-- The row's output is discarded: LEN falls back, its whole cost is refunded. -/
def State.discardRow (s : State) (r : Row) : State := (s.setLen r.hamper r.lenBefore).refund (s.hamper r.hamper).customer r.cost

/-- What the firmware finds of a row: clean, a row that read poison, or a translation, access or lower-tier failure. -/
inductive RowMark where
  | clean | poisoned | fault
deriving DecidableEq, Repr

/-- What a fault log's record says of a request, by its CAUSE: the first faults are translation, access and lower-tier failures, those
from a bound on are poison. -/
def logged (v : Dword) (handle poison : Nat) : Option RowMark :=
  let cause := fld v 12 4
  if cause = 0 ∨ fld v 16 32 ≠ handle then none else if poison ≤ cause then some .poisoned else some .fault

/-- The mark that the engines' fault logs leave on a request (R391): the first log that names it. -/
def State.logMark (s : State) (handle : Nat) : Option RowMark :=
  (List.range 256).findSome? fun e =>
    (logged (s.r64 (Reg.engAtFlog e)) handle 4).or (logged (BitVec.ofNat 64 ((s.r64 (Reg.engKvFlog e)).toNat / 2 ^ 16 * 2 ^ 16
      + fld (s.r64 (Reg.engKvFlog e)) 8 4 * 2 ^ 12)) handle 5)

/-- The step began at or before a tide value. -/
def State.inStep (s : State) (tide : Dword) : Bool := decide (s.srv.basket.start.getD s.tick ≤ tide.toNat / 1024)

/-- BRD_LT_LOG holds a late or failed access of an engine in this step. -/
def State.lateMark (s : State) (e : Nat) : Bool :=
  s.rb Reg.brdLtLog 31 && s.rf Reg.brdLtLog 0 16 == e && s.inStep (s.r64 Reg.brdLtTick)

/-- The mark of a row (R391): of its fault logs, of BRD_LT_LOG for the engine of its SAMPLE task, and the poison bit of its sampled
output. -/
def State.rowMark (s : State) (handle : Nat) (x : RowResult) : RowMark :=
  match s.logMark handle with
  | some m => m
  | none =>
    if s.lateMark x.engine.val then .fault
    else if flagAt (s.engine x.engine.val).spadPoison x.unit then .poisoned else .clean

/-- A line is named by an uncorrectable error of the step: STK_ERR_LOG of its channel, or SRAM_UE of its core while it lies poisoned
there (R421). -/
def State.lineNamed (s : State) (key : Nat) : Bool :=
  let ch := keyChan key
  (s.rf (Reg.stkErrLog ch) 21 3 == 2 && s.rf (Reg.stkErrLog ch) 0 21 == keyLine key && s.inStep (s.r64 (Reg.stkErrTick ch)))
  || (s.rb (blkEvt (Reg.cchPage (keyCore key) / 0x1000)) 9
      && (match s.cached key with | some c => c.poison | none => flagAt s.mem.dramPoison key))

/-- An event of the step names a line in a weight page. -/
def State.weightHit (s : State) (w : WeightAt) : Bool :=
  (List.range (2 ^ w.sh / 128)).any fun i => match s.place (w.page + 128 * i) with
    | some key => s.lineNamed key
    | none => false

/-- A row that read a poisoned weight page: its outputs are discarded, and the page is quarantined with the first of them (R422). -/
def State.weightRow (s : State) (k : Nat) (r : Row) (w : WeightAt) : State :=
  let s := if s.basketRows.any fun y => y.weight == some w.page then s else s.quarantine w.page w.sh true
  let s := (s.discardRow r).setRow k { r with done := true, weight := some w.page }
  s.modSrv fun v => { v with weights := setOpt v.weights w.page (some ⟨(s.hamper r.hamper).ctx, w.sh, w.va, w.page, false⟩) }

/-- Place of a row's completion in the order: the engine of its SAMPLE task, and not before that of the rows resolved before it at this
boundary (R17, R374). -/
def State.rowKey (s : State) (e : Nat) : Nat := max s.srv.rowOrder (taskKey e)

/-- A row's sampling completes; the rows of a step are resolved in basket order (R17, R372, R374). -/
def State.rowCompletion (s : State) (k : Nat) (x : RowResult) : State :=
  match s.basketRows[k]? with
  | none => s
  | some r =>
    let h := s.hamper r.hamper
    let last := r.chunk == 0 || decide (h.promptLen ≤ h.promptDone + r.chunk)
    let ok := s.srv.basket.live && s.srv.basket.start.isSome && !r.done && (s.basketRows.take k).all (·.done)
      && (!last || decide ((if r.chunk = 0 then r.positions else 1) ≤ x.samples.length))
    let key := s.rowKey x.engine.val
    s.firmwareAt key ok fun s =>
      let s := (s.setRow k { r with done := true }).modSrv fun v => { v with rowOrder := key }
      let s :=
        if h.gen ≠ r.gen ∨ h.state = 0 ∨ h.state = 10 then s.refund h.customer r.cost
        else match s.rowMark (h.handle r.hamper) x with
          | .fault => (s.discardRow r).endRequest r.hamper 8
          | .poisoned => match x.weights with
            | some w => if s.weightHit w then s.weightRow k r w else (s.discardRow r).endRequest r.hamper 7
            | none => (s.discardRow r).endRequest r.hamper 7
          | .clean => if r.chunk = 0 then s.acceptDecode r x.samples else s.acceptChunk r x.samples
      if s.basketRows.all (·.done) then s.stepComplete else s

/-! ## Weights (R422 to R425) -/

/-- Tenants with a request that holds stack pages in a context, in ascending PKEY. -/
def State.tenants (s : State) (ctx : Nat) : List Nat :=
  let l := (s.srv.hampers.filter fun e =>
    e.2.ctx == ctx && (decide (2 ≤ e.2.state && e.2.state ≤ 5) || e.2.state == 7 || e.2.state == 9 || e.2.state == 10)).map
      fun e => e.2.pkey.toNat
  (sortBy (fun a b => decide (a < b)) l).eraseDups

/-- The rows that a poisoned page discarded. -/
def State.weightRows (s : State) (page : Nat) : List Row := s.basketRows.filter fun r => r.weight == some page

/-- The row runs again: it has no deadline, or one at or after the predicted completion P. -/
def State.reruns (s : State) (r : Row) (p : Nat) : Bool :=
  let h := s.hamper r.hamper
  h.gen == r.gen && h.state != 0 && h.state != 10
  && match rowDeadline h (r.chunk == 0 || decide (h.promptLen ≤ h.promptDone + r.chunk)) (r.chunk == 0) with
    | some d => decide (p ≤ d)
    | none => true

/-- The bytes of a golden copy of a page of 2^sh bytes, by its saltern address (R421): COPY for a local one; a peer's come with a READ,
and are free. None where it cannot be read. -/
def State.goldenRead (s : State) (sh a : Nat) : State × Option (List Byte) :=
  let n := 2 ^ sh
  if saDev a = s.dev then
    let r := s.spanRead (saSpace a) (saOff a) n srvSrc 0
    (r.1, if r.2.poison || r.2.err != 0 then none else some r.2.data)
  else (s.drawnN n, some (s.freeBytes n))

/-- The page's bytes from the first golden copy that can be read (R422). -/
def State.goldenFirst (s : State) (sh : Nat) (l : List Nat) : State × Option (List Byte) :=
  match l with
  | [] => (s, none)
  | a :: rest =>
    let r := s.goldenRead sh a
    if r.2.isSome then r else r.1.goldenFirst sh rest

/-- Saltern address of the entry that holds an address's leaf, in a table of a level, and the leaf's size; none where the walk finds
none. -/
def State.leafOf (s : State) (va : Nat) (levels : List Nat) (table : Nat) : State × Option (Nat × Nat) :=
  match levels with
  | [] => (s, none)
  | l :: rest =>
    let at_ := table + 8 * (va / 2 ^ levelLow l % 512)
    let r := s.spanRead (saSpace at_) (saOff at_) 8 srvSrc 2
    let e := natLE r.2.data
    if r.2.poison ∨ r.2.err ≠ 0 ∨ e % 2 = 0 then (r.1, none)
    else if e / 2 % 2 = 1 then (r.1, some (at_, l))
    else r.1.leafOf va rest (e / 4096 * 4096)

/-- The page at a virtual address of a context is remapped to a new frame by R253: every replica of its leaf is written anew, the
engines of the context give up their translations, and so do the hub and C0. -/
def State.remap (s : State) (ctx va sh frame : Nat) : State :=
  let root := s.r32 (Reg.coreCtxRoot 0 ctx)
  if !root.getLsbD 0 then s
  else
    let r := s.leafOf va [0, 1, 2, 3] (s.dev * 2 ^ 54 + fld root 1 1 * 2 ^ 51 + fld root 2 30 * 4096)
    match r.2 with
    | none => r.1
    | some (at_, l) =>
      let n := 2 ^ (sh - levelLow l)
      let base := at_ / (8 * n) * (8 * n)
      let s := r.1.upTo n fun s i =>
        let o := saOff base + 8 * i
        let old := s.spanRead (saSpace base) o 8 srvSrc 2
        (old.1.spanWrite (saSpace base) o srvSrc 0
          (bytesLE 8 (natLE old.2.data % 4096 + (s.dev * 2 ^ 54 + frame) / 4096 * 4096)) false).1
      let inv := BitVec.ofNat 64 (ctx + max 12 sh * 2 ^ 8 + va / 4096 % 2 ^ 36 * 2 ^ 16)
      (s.each (s.ctx ctx).set fun s e => s.engInv e inv).coreInv 0 inv

/-- The golden copies of a page: those that software has written into the firmware's list for it (R421, R425; log 92). -/
def State.goldenList (s : State) (page : Nat) (wrote : List Nat) : List Nat :=
  if wrote.isEmpty then Sparse.get (fun _ => []) s.srv.golden page else wrote.take 3

/-- The reload of a page ends, at R: from the first golden copy that can be read it goes into a new frame, the page is remapped and its
rows run again or end; else they all end and the page is lost. A reload of a lost page succeeds once a copy can be read. The notices of
the tenants follow (R422 to R425). -/
def State.weightReload (s : State) (page : Nat) (wrote : List Nat) (frame : Nat) : State :=
  match optAt s.srv.weights page with
  | none => s
  | some w =>
    let rows := s.weightRows page
    let l := s.goldenList page wrote
    let read := (s.goldenFirst w.sh l).2.isSome
    s.firmware 5 (!s.srv.basket.live && (!rows.isEmpty || (w.lost && read))) fun s =>
      let s := s.modSrv fun v => { v with golden := Sparse.set (fun _ => []) v.golden page l }
      let g := s.goldenFirst w.sh l
      let s := match g.2 with
        | some b => ((g.1.spanWrite 0 frame srvSrc 0 b false).1).remap w.ctx w.va w.sh frame
        | none => g.1
      let p := s.tick + s.rf Reg.srvStepCfg 28 4 + s.stepTime + (s.r32 Reg.srvDlMargin).toNat
      let live (r : Row) : Bool := (s.hamper r.hamper).gen == r.gen && (s.hamper r.hamper).state != 0 && (s.hamper r.hamper).state != 10
      let again := if read then rows.filter fun r => s.reruns r p else []
      let gone := rows.filter fun r => live r && !again.contains r
      let s := s.each gone fun s r => s.endRequest r.hamper 10
      let s := s.each again fun s r => s.setLen r.hamper (r.lenBefore + (if r.chunk = 0 then r.positions else r.chunk))
      let s := s.modBasket fun b => { b with
        rows := (b.rows.filter fun r => r.weight.isSome && r.weight != some page) ++ (b.rows.filter fun r => !r.done)
          ++ again.map fun r => { r with weight := none, done := false, cost := 0 }
        start := none, rerun := true }
      let s := if read then s.quarantine page w.sh false else s
      let s := s.modSrv fun v => { v with
        weights := setOpt v.weights page (if read then none else some { w with lost := true })
        rerunAt := if again.isEmpty then v.rerunAt else some (s.tick + s.rf Reg.srvStepCfg 28 4) }
      let key (r : Row) : Nat := (s.hamper r.hamper).pkey.toNat
      let s := s.each (if rows.isEmpty then [] else s.tenants w.ctx) fun s t =>
        let n := (again.filter fun r => key r == t).length
        let m := (gone.filter fun r => key r == t).length
        s.complete 0x82 (if !read then 2 else if m = 0 then 0 else 1) (BitVec.ofNat 32 t) (BitVec.ofNat 64 page) n m 0
      if rows.isEmpty then s
      else ((s.count Reg.srvWerrCnt 1).raise srvPn 17 2 srvSrc).raiseIf (!read) srvPn 18 2 srvSrc

/-- The re-run is released. -/
def State.rerunRelease (s : State) : State :=
  let due := match s.srv.rerunAt with | some t => decide (t ≤ s.tick) | none => false
  s.firmware 0 (due && !s.reloading) fun s =>
    ((s.modSrv fun v => { v with rerunAt := none }).modBasket fun b => { b with start := some s.tick, live := true }).stepSignal

/-- A serving core's data-poison exception (R419): the request that the record belongs to ends POISONED. -/
def State.dataPoison (s : State) (w : PoisonRecord) : State :=
  let row (s : State) (k : Nat) : State := match s.basketRows[k]? with
    | some r => if (s.hamper r.hamper).gen = r.gen then s.endRequest r.hamper 7 else s
    | none => s
  if !s.running then s
  else (match w with
    | .hamper i => s.endRequest i 7
    | .stepTable k => row s k
    | .sampled k => row s k
    | .other => s).srvRefresh

end Sys2Proof.Machine
end

