-- ==== Sys2Proof/Machine/MlDsa.lean ====
section
/-! DEFINITION. ML-DSA-65 (FIPS 204) with keys from a seed and the deterministic signature, the one signature scheme of R481 and R482.
A polynomial is the list of its 256 coefficients modulo q; what the standard squeezes without bound is squeezed as far as its own
limits for bounded loops go. The algorithms are that standard's (PRESUMED, log 58). -/
namespace Sys2Proof.Machine

/-! ## Arithmetic modulo q -/

abbrev Poly : Type := List Nat

def dsaQ : Nat := 8380417
def dsaAdd (x y : Nat) : Nat := (x + y) % dsaQ
def dsaSub (x y : Nat) : Nat := (x + dsaQ - y) % dsaQ
def dsaMul (x y : Nat) : Nat := x * y % dsaQ
/-- The distance from 0 modulo q. -/
def dsaAbs (x : Nat) : Nat := min x (dsaQ - x)

def polyAdd (a b : Poly) : Poly := List.zipWith dsaAdd a b
def polySub (a b : Poly) : Poly := List.zipWith dsaSub a b
def polyMul (a b : Poly) : Poly := List.zipWith dsaMul a b
def polyZero : Poly := List.replicate 256 0

/-- The residues of a polynomial modulo x - r for all r with r^256 = -1: at each level it is reduced modulo x^n - z and x^n + z, where
z is 1753 to the power e. -/
def ntt (levels e : Nat) (l : Poly) : Poly :=
  match levels with
  | 0 => l
  | d + 1 =>
    let lo := l.take (2 ^ d)
    let hi := (l.drop (2 ^ d)).map (dsaMul (1753 ^ e % dsaQ))
    ntt d (e / 2) (polyAdd lo hi) ++ ntt d (e / 2 + 128) (polySub lo hi)

/-- The inverse, but for a factor of 2 for each level. -/
def nttBack (levels e : Nat) (l : Poly) : Poly :=
  match levels with
  | 0 => l
  | d + 1 =>
    let a := nttBack d (e / 2) (l.take (2 ^ d))
    let b := nttBack d (e / 2 + 128) (l.drop (2 ^ d))
    polyAdd a b ++ (polySub a b).map (dsaMul (1753 ^ (512 - e) % dsaQ))

def toNtt (l : Poly) : Poly := ntt 8 128 l
def ofNtt (l : Poly) : Poly := (nttBack 8 128 l).map (dsaMul 8347681)

/-- A matrix times a vector, both in residues, as polynomials. -/
def matVec (a : List (List Poly)) (v : List Poly) : List Poly :=
  a.map fun row => (List.zipWith polyMul row v).foldl polyAdd polyZero

/-! ## Rounding -/

/-- The upper part of Power2Round, and what it leaves. -/
def roundTop (x : Nat) : Nat := (x + 4095) / 8192
def roundRest (x : Nat) : Nat := dsaSub x (roundTop x * 8192 % dsaQ)

/-- HighBits and LowBits for a step of 523,776, the lower part modulo q. -/
def highBits (x : Nat) : Nat := (x + 261887) / 523776 % 16
def lowBits (x : Nat) : Nat := dsaSub x (highBits x * 523776)

/-- UseHint. -/
def hinted (h : Bool) (x : Nat) : Nat :=
  let l := lowBits x
  if !h then highBits x else if 0 < l ∧ l ≤ 261888 then (highBits x + 1) % 16 else (highBits x + 15) % 16

/-! ## Bytes -/

/-- Numbers of w bits each, the first lowest. -/
def packBits (w : Nat) (l : List Nat) : List Byte := bytesLE (l.length * w / 8) (l.foldr (fun x acc => x + 2 ^ w * acc) 0)
def unpackBits (w n : Nat) (b : List Byte) : List Nat := let x := natLE b; (List.range n).map fun i => x / 2 ^ (w * i) % 2 ^ w

/-- Pieces of n bytes each. -/
def piecesOf (count n : Nat) (b : List Byte) : List (List Byte) := (List.range count).map fun i => slice b (n * i) n

/-- A coefficient of y or z stands as 2^19 less itself. -/
def maskPack (l : Poly) : List Byte := packBits 20 (l.map fun x => dsaSub 524288 x)
def maskUnpack (b : List Byte) : Poly := (unpackBits 20 256 b).map fun x => dsaSub 524288 x

/-- The places of the ones of each hint polynomial, then for each polynomial how many there are to its end. -/
def hintPack (h : List (List Bool)) : List Byte :=
  let ones := h.map fun l => (l.zipIdx.filter (·.1)).map fun x => BitVec.ofNat 8 x.2
  let all := ones.flatten
  let ends := (List.range h.length).map fun i => BitVec.ofNat 8 (((ones.take (i + 1)).map (·.length)).sum)
  all ++ List.replicate (55 - all.length) 0 ++ ends

/-- The hint that 61 bytes hold; none where they are not what hintPack gives. -/
def hintUnpack (b : List Byte) : Option (List (List Bool)) :=
  let ends := (List.range 6).map fun i => (nth 0 b (55 + i)).toNat
  let starts := 0 :: ends
  let h := (List.range 6).map fun i =>
    let ones := slice b (nth 0 starts i) (nth 0 ends i - nth 0 starts i)
    (List.range 256).map fun j => ones.contains (BitVec.ofNat 8 j)
  if (nth 0 ends 5) ≤ 55 ∧ hintPack h = b then some h else none

/-! ## Sampling -/

/-- A polynomial of the matrix, in residues. -/
def sampleNtt (seed : List Byte) : Poly :=
  (((piecesOf 448 3 (shake128 seed 1344)).map fun b => natLE b % 2 ^ 23).filter fun x => decide (x < dsaQ)).take 256

def expandA (rho : List Byte) : List (List Poly) :=
  (List.range 6).map fun r => (List.range 5).map fun c => sampleNtt (rho ++ [BitVec.ofNat 8 c, BitVec.ofNat 8 r])

/-- A polynomial with coefficients of at most 4. -/
def sampleSmall (seed : List Byte) : Poly :=
  ((((shake256 seed 544).flatMap fun x => [x.toNat % 16, x.toNat / 16]).filter fun x => decide (x < 9)).take 256).map fun x =>
    dsaSub 4 x

/-- The challenge polynomial: 49 coefficients of 1 or -1. -/
def placeOnes (bytes : List Byte) (signs i : Nat) (c : Poly) : Poly :=
  match bytes with
  | [] => c
  | b :: rest =>
    if 256 ≤ i then c
    else if i < b.toNat then placeOnes rest signs i c
    else placeOnes rest signs (i + 1)
      ((c.set i (nth 0 c b.toNat)).set b.toNat (if signs / 2 ^ (i - 207) % 2 = 1 then dsaQ - 1 else 1))

def sampleBall (seed : List Byte) : Poly :=
  let b := shake256 seed 408
  placeOnes (b.drop 8) (natLE (b.take 8)) 207 polyZero

def sampleMask (seed : List Byte) (k : Nat) : List Poly :=
  (List.range 5).map fun r => maskUnpack (shake256 (seed ++ bytesLE 2 (k + r)) 640)

/-! ## Keys -/

/-- What key generation leaves: the seed of the matrix, the secrets s1, s2 and t0, the seed of the signatures, and the public key. -/
structure DsaKey where
  rho : List Byte
  s1 : List Poly
  s2 : List Poly
  t0 : List Poly
  seed : List Byte
  pk : List Byte
deriving DecidableEq, Repr

/-- ML-DSA.KeyGen_internal. -/
def dsaKey (xi : List Byte) : DsaKey :=
  let h := shake256 (xi ++ [6, 5]) 128
  let rho := slice h 0 32
  let small (i : Nat) : Poly := sampleSmall (slice h 32 64 ++ bytesLE 2 i)
  let s1 := (List.range 5).map small
  let s2 := (List.range 6).map fun i => small (5 + i)
  let t := List.zipWith polyAdd ((matVec (expandA rho) (s1.map toNtt)).map ofNtt) s2
  { rho := rho, s1 := s1, s2 := s2, t0 := t.map (·.map roundRest), seed := slice h 96 32
    pk := rho ++ t.flatMap fun p => packBits 10 (p.map roundTop) }

/-- The public key that key generation derives from a 32-byte seed. -/
def dsaPublic (xi : List Byte) : List Byte := (dsaKey xi).pk

/-! ## Signing and checking -/

/-- The representative of a message under a context string, not hashed before. -/
def dsaMessage (pk msg ctx : List Byte) : List Byte :=
  shake256 (shake256 pk 64 ++ [0, BitVec.ofNat 8 ctx.length] ++ ctx ++ msg) 64

/-- The hash that commits to the upper parts of w. -/
def dsaCommit (mu : List Byte) (w1 : List (List Nat)) : List Byte := shake256 (mu ++ w1.flatMap (packBits 4)) 48

def dsaWithin (l : List Poly) (bound : Nat) : Bool := l.all fun p => p.all fun x => decide (dsaAbs x < bound)

/-- One try at a signature with counter k; none where it has to be rejected. -/
def dsaTry (key : DsaKey) (a : List (List Poly)) (mu secret : List Byte) (k : Nat) : Option (List Byte) :=
  let y := sampleMask secret k
  let w := (matVec a (y.map toNtt)).map ofNtt
  let ch := dsaCommit mu (w.map (·.map highBits))
  let c := toNtt (sampleBall ch)
  let times (v : List Poly) : List Poly := v.map fun p => ofNtt (polyMul c (toNtt p))
  let z := List.zipWith polyAdd y (times key.s1)
  let r := List.zipWith polySub w (times key.s2)
  let ct := times key.t0
  let h := List.zipWith (fun r t => List.zipWith (fun x y => highBits (dsaAdd x y) != highBits x) r t) r ct
  let ones := (h.map fun l => (l.filter id).length).sum
  if dsaWithin z (524288 - 196) && dsaWithin (r.map (·.map lowBits)) (261888 - 196) && dsaWithin ct 261888 && decide (ones ≤ 55) then
    some (ch ++ z.flatMap maskPack ++ hintPack h)
  else none

/-- The first try that is not rejected. -/
def dsaTries (fuel : Nat) (key : DsaKey) (a : List (List Poly)) (mu secret : List Byte) (k : Nat) : List Byte :=
  match fuel with
  | 0 => []
  | fuel + 1 => match dsaTry key a mu secret k with
    | some s => s
    | none => dsaTries fuel key a mu secret (k + 5)

/-- The deterministic signature of a message under a context string with the key of a 32-byte seed (ML-DSA.Sign). -/
def dsaSign (xi msg ctx : List Byte) : List Byte :=
  let key := dsaKey xi
  let mu := dsaMessage key.pk msg ctx
  dsaTries 814 key (expandA key.rho) mu (shake256 (key.seed ++ List.replicate 32 0 ++ mu) 64) 0

/-- A signature is valid for a public key, a message and a context string (ML-DSA.Verify). -/
def dsaVerify (pk msg ctx sig : List Byte) : Bool :=
  match hintUnpack (slice sig 3248 61) with
  | none => false
  | some h =>
    let ch := slice sig 0 48
    let z := (piecesOf 5 640 (slice sig 48 3200)).map maskUnpack
    let t1 := (piecesOf 6 320 (slice pk 32 1920)).map fun b => (unpackBits 10 256 b).map fun x => x * 8192 % dsaQ
    let c := toNtt (sampleBall ch)
    let az := matVec (expandA (slice pk 0 32)) (z.map toNtt)
    let w := List.zipWith (fun x t => ofNtt (polySub x (polyMul c (toNtt t)))) az t1
    let w1 := List.zipWith (fun l p => List.zipWith hinted l p) h w
    pk.length == 1952 && sig.length == 3309 && dsaWithin z (524288 - 196) && dsaCommit (dsaMessage pk msg ctx) w1 == ch

end Sys2Proof.Machine
end

