-- ==== Sys2Proof/Machine/Fuses.lean ====
section
/-! DEFINITION. The fuse array and the settings that it counts (R456 to R460, R478, R481, R483). -/
namespace Sys2Proof.Machine

/-! ## The array (R457, Tables 19-2 and 19-3) -/

/-- Bits of three cells (Table 19-2). -/
def tripleBit (i : Nat) : Bool := decide (i < 192) || (decide (5312 ≤ i) && decide (i < 7144))

/-- The logical bits of which two cells or more sense wrong, so that their majority does (R456). -/
def misreadBits (f : FuseSense) : List Nat :=
  (f.cells.filter fun c => tripleBit c.1 && f.cells.any fun d => d.1 == c.1 && d.2 != c.2).map fun c => c.1.val

/-- A word of CAL or TRIM has two wrong bits or more: one alone is corrected (R456; more than two: log 147). -/
def doubleBit (f : FuseSense) : Bool := f.bits.any fun b => f.bits.any fun c => b.1 == c.1 && b.2 != c.2

/-- Logical fuse bit i as it is programmed. What Leari programs is the part's own, but for the part number, the stepping and the zeros of OPTIONS. -/
def State.fuseCell (s : State) (i : Nat) : Bool :=
  if i < 24 then Nat.testBit 0xA18768 i
  else if 134 ≤ i ∧ i < 192 then false
  else if i < 5824 then Config.fuseFactory i
  else if i < 7144 then s.sec.fuses.contains i
  else false

/-- Logical fuse bit i as the last load sensed it. -/
def State.fuse (s : State) (i : Nat) : Bool := s.fuseCell i != s.sec.misread.contains i

/-- n fuse bits from bit i, as a number. -/
def State.fuseNat (s : State) (i n : Nat) : Nat :=
  match n with
  | 0 => 0
  | n + 1 => (s.fuse i).toNat + 2 * s.fuseNat (i + 1) n

/-- n bytes of fuses from bit i. -/
def State.fuseBytes (s : State) (i n : Nat) : List Byte := (List.range n).map fun j => BitVec.ofNat 8 (s.fuseNat (i + 8 * j) 8)

def State.seedValid (s : State) : Bool := s.fuse 128
def State.vendorValid (s : State) : Bool := s.fuse 129
def State.bootAltEn (s : State) : Bool := s.fuse 130
/-- OPTIONS.XSPI_MAX. -/
def State.xspiMax (s : State) : Nat := s.fuseNat 132 2
def State.recoveryEn (s : State) : Bool := s.fuse 131

/-- Program fuse bits; a bit that is 1 stays 1, and what is programmed reads back. -/
def State.program (s : State) (l : List Nat) : State :=
  s.modSec fun x => { x with
    fuses := x.fuses ++ l.filter fun i => !x.fuses.contains i
    misread := x.misread.filter fun i => !l.contains i }

/-! ## Counted settings (R458 to R460, Table 19-4) -/

def partBase (j : Nat) : Nat := 5824 + 8 * j
def rollbackBase : Nat := 5952
def ownerBase (k : Nat) : Nat := 6080 + 264 * k
def lockBit : Nat := 7136

/-- Some fuse bit of a range is 1. -/
def State.anyFuse (s : State) (i n : Nat) : Bool := s.fuseNat i n != 0

/-- Entry j of PART_LOG: consumed, committed, torn. -/
def State.partUsed (s : State) (j : Nat) : Bool := s.anyFuse (partBase j) 8
def State.partCommit (s : State) (j : Nat) : Bool := s.fuse (partBase j + 4)
def State.partTorn (s : State) (j : Nat) : Bool := s.partUsed j && !s.partCommit j

def State.partConsumed (s : State) : Nat := ((List.range 16).filter s.partUsed).length
def State.partCommitted (s : State) : Nat := ((List.range 16).filter s.partCommit).length

/-- Mode of the highest committed entry, 0 with none. -/
def State.partFused (s : State) : Nat :=
  (List.range 16).foldl (fun m j => if s.partCommit j then s.fuseNat (partBase j) 4 else m) 0

/-- The anti-rollback count (R484). -/
def State.rollbackCount (s : State) : Nat := ((List.range 128).filter fun i => s.fuse (rollbackBase + i)).length

/-- Owner slot k: enrolled, revoked, torn, free; the digest that it holds. -/
def State.ownerEnrolled (s : State) (k : Nat) : Bool := s.fuse (ownerBase k + 256)
def State.ownerRevoked (s : State) (k : Nat) : Bool := s.ownerEnrolled k && s.fuse (ownerBase k + 257)
def State.ownerTorn (s : State) (k : Nat) : Bool := s.anyFuse (ownerBase k) 264 && !s.ownerEnrolled k
def State.ownerFree (s : State) (k : Nat) : Bool := !s.anyFuse (ownerBase k) 264
def State.ownerDigest (s : State) (k : Nat) : List Byte := s.fuseBytes (ownerBase k) 32

/-- The debug lock (R461). -/
def State.debugLock (s : State) : Bool := s.fuse lockBit

/-- A torn entry or slot exists (R459). -/
def State.torn (s : State) : Bool := (List.range 16).any s.partTorn || (List.range 4).any s.ownerTorn

/-! ## Keys (R481, R483) -/

/-- The device has an owner. -/
def State.owned (s : State) : Bool := (List.range 4).any fun k => s.ownerEnrolled k && !s.ownerRevoked k

/-- The fused digest of the key that KEY_SEL names, where that key is in the authority. -/
def State.authority (s : State) (sel : Nat) : Option (List Byte) :=
  if sel = 0 then if !s.owned ∧ s.vendorValid then some (s.fuseBytes 5312 32) else none
  else if sel ≤ 4 ∧ s.ownerEnrolled (sel - 1) ∧ !s.ownerRevoked (sel - 1) then some (s.ownerDigest (sel - 1))
  else none

def ascii (l : List Char) : List Byte := l.map fun c => BitVec.ofNat 8 c.toNat

/-- The seed of key generation, the identity's public key and DEVICE_ID. -/
def State.identitySeed (s : State) : List Byte := shake256 (ascii ['L', 'M', 'P', '-', 'I', 'D', 'K', '1'] ++ s.fuseBytes 5568 32) 32
def State.identityKey (s : State) : List Byte := slice (dsaPublic s.identitySeed) 0 1952
def State.deviceId (s : State) : List Byte := shake256 s.identityKey 32

/-! ## FUSE_ registers (R478, Tables 19-14 and 19-15) -/

/-- FUSE_RD_DATA: zero in the TRIM and ID_SEED regions. -/
def State.fuseWord (s : State) : Word :=
  let w := s.rf Reg.fuseRdAddr 0 8
  if (38 ≤ w ∧ w < 166) ∨ (174 ≤ w ∧ w < 182) then 0 else BitVec.ofNat 32 (s.fuseNat (32 * w) 32)

def State.fusePartReg (s : State) : Word := BitVec.ofNat 32 (s.sec.partMode + s.partConsumed * 2 ^ 4)

def bitsOf (n : Nat) (f : Nat → Bool) : Nat := ((List.range n).map fun i => (f i).toNat * 2 ^ i).sum

/-- Slots enrolled and revoked, as FUSE_OWNER and the report give them. -/
def State.ownerByte (s : State) : Nat := bitsOf 4 s.ownerEnrolled + bitsOf 4 s.ownerRevoked * 2 ^ 4
def State.fuseOwnerReg (s : State) : Word := BitVec.ofNat 32 (s.ownerByte + bitsOf 4 s.ownerTorn * 2 ^ 8)

end Sys2Proof.Machine
end

