-- ==== Sys2Proof/Machine/Identity.lean ====
section
/-! DEFINITION. The security core's mailbox and its commands, attestation and partition keys (R480 to R492). -/
namespace Sys2Proof.Machine

/-! ## The mailbox (R485, Tables 20-5 to 20-7) -/

/-- Source index of a requester (Table 2-3); a peer's is its port's. -/
def reqSrc : Requester → Nat
  | .host => 264
  | .serving n => 5120 + n.val
  | .security => 5124
  | .peer p _ => 256 + p.val

def State.mbxOwned (s : State) : Bool := s.rb Reg.secMbxStat 0
def State.mbxBusy (s : State) : Bool := s.rb Reg.secMbxStat 1
def State.mbxOwner (s : State) : Nat := s.rf Reg.secMbxStat 16 16

/-- The input bytes. -/
def State.mbxBytes (s : State) : List Byte := s.sec.mbxIn.flatMap fun w => bytesLE 8 w.toNat

/-- A command ends: RESULT, its output, and MBX_DONE. -/
def State.mbxDone (s : State) (result : Nat) (out : List Byte) : State :=
  let s := ((s.wb Reg.secMbxStat 1 false).wb Reg.secMbxStat 2 true).wf Reg.secMbxStat 8 8 result
  (s.modSec fun x => { x with mbxOut := out }).raise secPn 8 5 5124

/-- Reads of the XPT_PKEY_TAB entries: key and VALID. -/
def State.pkeyEntry (s : State) (i : Nat) : Option Nat :=
  if s.rb (Reg.xptPkeyTab i) 31 then some (s.rf (Reg.xptPkeyTab i) 0 16) else none

def State.mgmtKey (s : State) : Nat := s.rf Reg.xptMgmtPkey 0 16

/-- The report of Table 20-4 without its signature, as the state stands; the image slot and the running image are those of
the boot. -/
def State.report20 (s : State) (nonce : List Byte) : List Byte :=
  let im := s.sec.run
  let sect (f : RunImage → List Byte) : List Byte := match im with | some r => shake256 (f r) 32 | none => List.replicate 32 0
  let flags := (s.rb Reg.secBootStat 3).toNat + (s.rb Reg.secBootStat 4).toNat * 2 + s.sec.viaMbx.toNat * 4 + s.debugLock.toNat * 8
    + (s.rb Reg.secBootStat 12).toNat * 16 + (decide (s.sec.partUsed < s.partCommitted)).toNat * 32 + s.sec.debugSeen.toNat * 64
  let keys := ((List.range 64).flatMap fun i => bytesLE 2 ((s.pkeyEntry i).getD 0)) ++ bytesLE 2 s.mgmtKey
  bytesLE 4 0x5454414C ++ bytesLE 2 0 ++ bytesLE 2 1 ++ bytesLE 4 0x8768 ++ bytesLE 2 0xA1
  ++ bytesLE 1 ((im.map (·.keySel)).getD 0) ++ bytesLE 1 flags ++ s.fuseBytes 0 16 ++ s.deviceId
  ++ slice ((im.map (·.measure)).getD []) 0 64 ++ sect (·.secFw) ++ sect (·.srvFw) ++ sect (·.config)
  ++ slice ((im.map (·.signer)).getD []) 0 32 ++ shake256 keys 32
  ++ bytesLE 1 s.sec.partMode ++ bytesLE 1 s.partConsumed ++ bytesLE 1 s.rollbackCount
  ++ bytesLE 1 ((im.map (·.rollback)).getD 0) ++ bytesLE 1 s.ownerByte ++ bytesLE 1 s.tideState ++ bytesLE 2 0
  ++ bytesLE 8 s.tick ++ slice nonce 0 32 ++ List.replicate 48 0

/-- A command starts when its last input byte has arrived; one of a reserved code ends INVALID at once, and ATTEST forms its
report (R485, R486, R491). -/
def State.mbxStart (s : State) : State :=
  let s := s.wb Reg.secMbxStat 1 true
  if s.sec.mbxOp = 0 ∨ 12 < s.sec.mbxOp then s.mbxDone 2 []
  else if s.sec.mbxOp = 3 then s.modSec fun x => { x with mbxOut := s.report20 s.mbxBytes }
  else s

/-- A write of SEC_MBX_CTRL that finds the mailbox free claims it. -/
def State.mbxClaim (s : State) (r : Requester) (v : Word) : State :=
  let op := fld v 0 8
  if s.mbxOwned ∨ op = 0 then s
  else
    let s := s.w32 Reg.secMbxStat (BitVec.ofNat 32 (1 + reqSrc r * 2 ^ 16))
    let s := s.modSec fun x => { x with mbxOp := op, mbxLen := fld v 8 24, mbxIn := [], mbxOut := [] }
    if fld v 8 24 = 0 then s.mbxStart else s

/-- OP 0 by the claimant releases the mailbox and discards input and output; while the command runs it does not, since a
command is performed whole (R486). -/
def State.mbxRelease (s : State) (r : Requester) : State :=
  if s.mbxOwned ∧ s.mbxOwner = reqSrc r ∧ !s.mbxBusy then
    (s.wb Reg.secMbxStat 0 false).modSec fun x => { x with mbxIn := [], mbxOut := [], mbxOp := 0, mbxLen := 0 }
  else s

/-- A write of SEC_MBX_CTRL. -/
def State.mbxCtrl (s : State) (r : Requester) (v : Word) : State :=
  if fld v 0 8 = 0 then s.mbxRelease r else s.mbxClaim r v

/-- SEC_MBX_IN takes a word of this requester. -/
def State.mbxTakes (s : State) (r : Requester) : Bool :=
  s.mbxOwned && s.mbxOwner == reqSrc r && decide (s.sec.mbxIn.length < s.sec.mbxLen)

/-- An input word; one that is not taken completes with an error response and sets REG_ACCESS. -/
def State.mbxInput (s : State) (r : Requester) (v : Dword) : State :=
  if s.mbxTakes r then
    let s := s.modSec fun x => { x with mbxIn := x.mbxIn ++ [v] }
    if s.sec.mbxIn.length = s.sec.mbxLen then s.mbxStart else s
  else s.raise secPn 1 10 5124

/-- Output bytes not yet read; none while the command runs. -/
def State.mbxLeft (s : State) : List Byte := if s.mbxBusy then [] else s.sec.mbxOut

/-- An 8-byte read of SEC_MBX_OUT: the next word; the last releases the mailbox. -/
def State.mbxRead (s : State) : State × Dword :=
  let b := s.mbxLeft
  let v := BitVec.ofNat 64 (natLE (slice b 0 8))
  if b.isEmpty then (s, 0)
  else
    let s := s.modSec fun x => { x with mbxOut := x.mbxOut.drop 8 }
    (if b.length ≤ 8 then (s.wb Reg.secMbxStat 0 false).modSec fun x => { x with mbxIn := [], mbxOp := 0, mbxLen := 0 } else s, v)

/-! ## Commands (R486, Tables 20-1 and 20-2) -/

/-- What a command does to the state, its RESULT and its output. -/
abbrev Reply := State × Nat × List Byte

/-- A command that is running is performed where the boot state allows it, else it completes STATE (R486). -/
def State.mbxCommand (s : State) (op : Nat) (states : List Nat) (f : State → Reply) : State :=
  if !s.mbxBusy ∨ s.sec.mbxOp ≠ op then s
  else if states.contains s.bootState then let r := f s; r.1.mbxDone r.2.1 r.2.2
  else s.mbxDone 1 []

/-- The same for a command that needs the identity key: it waits for the derivation, or ends NO_IDENTITY (R481). -/
def State.mbxKeyed (s : State) (op : Nat) (states : List Nat) (f : State → Reply) : State :=
  if states.contains s.bootState ∧ s.seedValid ∧ !s.sec.idReady then s
  else s.mbxCommand op states fun s => if s.seedValid then f s else (s, 10, [])

/-- The derivation of the identity key ends (R481). -/
def State.deriveIdentity (s : State) : State :=
  if (s.bootState = 4 ∨ s.bootState = 5) ∧ s.seedValid then s.modSec fun x => { x with idReady := true } else s

def State.getId (s : State) : State :=
  s.mbxKeyed 1 [4, 5] fun s => if s.sec.mbxLen ≠ 0 then (s, 2, []) else (s, 0, s.deviceId ++ s.identityKey)

/-- The challenge comes from the security core's random source. -/
def State.getChallenge (s : State) : State :=
  s.mbxCommand 2 [4, 5] fun s =>
    if s.sec.mbxLen ≠ 0 then (s, 2, [])
    else
      let c := s.freeBytes 32
      ((s.drawnN 32).modSec fun x => { x with challenge := some c }, 0, c)

def State.attest (s : State) : State :=
  s.mbxKeyed 3 [4, 5] fun s =>
    if s.sec.mbxLen ≠ 4 then (s, 2, [])
    else
      let body := s.sec.mbxOut
      (s, 0, body ++ slice (dsaSign s.identitySeed body (ascii ['L', 'M', 'P', '-', 'A', 'T', 'T', '1'])) 0 3309)

/-! ## Authorised commands (R487) -/

/-- Bytes of an authorisation block. -/
def authBytes : Nat := 5272

/-- The fields that a block leaves zero. -/
def authZero (b : List Byte) : Bool := (slice b 1 7 ++ slice b 5269 3).all (· == 0)

/-- The check of an authorisation block over a command's arguments: it consumes the challenge. -/
def State.authorise (s : State) (op : Nat) (args block : List Byte) : State × Nat :=
  match s.sec.challenge with
  | none => (s, 4)
  | some c =>
    let pk := slice block 8 1952
    let m := s.deviceId ++ c ++ bytesLE 1 op ++ args
    let ok := match s.authority (nth 0 block 0).toNat with
      | none => false
      | some d => shake256 pk 32 == d
          && dsaVerify pk m (ascii ['L', 'M', 'P', '-', 'A', 'U', 'T', 'H']) (slice block 1960 3309)
    (s.modSec fun x => { x with challenge := none }, if ok then 0 else 3)

/-- An authorised command with n bytes of arguments: length and reserved bytes first, then the authorisation. -/
def State.authorised (s : State) (op n : Nat) (argsOk : List Byte → Bool) (f : State → List Byte → Reply) : Reply :=
  let b := s.mbxBytes
  let args := slice b 0 n
  let block := b.drop n
  if 8 * s.sec.mbxLen ≠ n + authBytes ∨ !authZero block ∨ !argsOk args then (s, 2, [])
  else
    let a := s.authorise op args block
    if a.2 ≠ 0 then (a.1, a.2, []) else f a.1 args

/-! ## Fuse changes (R459, R488) -/

/-- A change programs bits and then its last bit; one that does not read back leaves the entry torn. How many bits a failed
change had programmed is free. -/
def State.change (s : State) (bits : List Nat) (last : Nat) (ok : Bool) : Reply :=
  if ok then ((s.program (bits ++ [last])).raise secPn 9 10 5124, 0, [])
  else
    let n := if bits.isEmpty then 0 else 1 + s.free % bits.length
    ((s.program (bits.take n)).drawn, 9, [])

/-- The one-bits of n bytes, at fuse bits from base. -/
def oneBits (base : Nat) (b : List Byte) : List Nat :=
  ((List.range (8 * b.length)).filter fun i => (nth 0 b (i / 8)).getLsbD (i % 8)).map (base + ·)

/-- A slot for a new owner key. -/
def State.enrollSlot (s : State) (digest : List Byte) (ok : Bool) : Reply :=
  match (List.range 4).find? s.ownerFree with
  | none => (s, 5, [])
  | some k => s.change (oneBits (ownerBase k) digest) (ownerBase k + 256) ok

/-- A digest that may be enrolled: not zero and not held by an enrolled slot. -/
def State.digestOk (s : State) (d : List Byte) : Bool :=
  d.any (· != 0) && !(List.range 4).any fun k => s.ownerEnrolled k && s.ownerDigest k == d

/-- ENROLL (R483): authorised where the device has an owner. -/
def State.enroll (s : State) (ok : Bool) : State :=
  if s.owned then
    s.mbxKeyed 4 [4, 5] fun s => s.authorised 4 32 s.digestOk fun s d => s.enrollSlot d ok
  else
    s.mbxCommand 4 [4, 5] fun s =>
      let d := s.mbxBytes
      if s.sec.mbxLen ≠ 4 ∨ !s.digestOk d then (s, 2, []) else s.enrollSlot d ok

/-- The argument word of a command. -/
def argNat (b : List Byte) : Nat := natLE (slice b 0 8)

/-- REVOKE (R483). -/
def State.revokeOwner (s : State) (ok : Bool) : State :=
  s.mbxKeyed 5 [4, 5] fun s =>
    s.authorised 5 8 (fun a => decide (argNat a < 4) && s.ownerEnrolled (argNat a) && !s.ownerRevoked (argNat a)) fun s a =>
      s.change [] (ownerBase (argNat a) + 257) ok

/-- SET_PART_MODE (R460): the next free entry takes the mode; it takes force at the next fuse load. -/
def State.setPartMode (s : State) (ok : Bool) : State :=
  s.mbxKeyed 6 [4] fun s =>
    s.authorised 6 8 (fun a => decide (argNat a < 16)) fun s a =>
      match (List.range 16).find? fun j => !s.partUsed j with
      | none => (s, 5, [])
      | some j => s.change (((List.range 4).filter fun i => Nat.testBit (argNat a) i).map (partBase j + ·)) (partBase j + 4) ok

/-- ROLLBACK_ADVANCE (R484): each further bit is a step of its own, so a failure leaves the steps before it. -/
def State.rollbackAdvance (s : State) (ok : Bool) : State :=
  s.mbxCommand 7 [4] fun s =>
    let n := argNat s.mbxBytes
    if s.sec.mbxLen ≠ 1 ∨ 255 < n then (s, 2, [])
    else if ((s.sec.run.map (·.rollback)).getD 0) < n then (s, 8, [])
    else
      let need := n - s.rollbackCount
      let bits := (((List.range 128).filter fun i => !s.fuse (rollbackBase + i)).take need).map (rollbackBase + ·)
      if bits.isEmpty then (s, 0, [])
      else if ok then ((s.program bits).raise secPn 9 10 5124, 0, [])
      else ((s.program (bits.take (s.free % bits.length))).drawn, 9, [])

/-- Zero in BLK_CTRL.DEBUG of every page. -/
def State.closeDebug (s : State) : State :=
  s.each (s.regs.filterMap fun e => if e.1 % 0x400 = 4 then some (4 * e.1) else none) fun s off => s.wb off 2 false

/-- DEBUG_LOCK (R461, R488). -/
def State.debugLockCmd (s : State) (ok : Bool) : State :=
  s.mbxCommand 8 [4, 5] fun s =>
    if s.sec.mbxLen ≠ 0 then (s, 2, [])
    else if s.debugLock then (s, 5, [])
    else if ok then
      let r := s.change [] lockBit true
      (r.1.closeDebug, 0, [])
    else (s, 9, [])

/-! ## Partition keys (R489, R490) -/

/-- Keys that the partition mode in force allows (Table 19-5). -/
def State.pkeyRoom (s : State) : Nat := match s.sec.partMode with | 0 => 64 | 1 => 1 | _ => 0

def State.pkeyCount (s : State) : Nat := ((List.range 64).filter fun i => (s.pkeyEntry i).isSome).length
def State.pkeyAt (s : State) (key : Nat) : Option Nat := (List.range 64).find? fun i => s.pkeyEntry i == some key

/-- A key that may serve a tenant or the management: 0x0001 to 0xFFFE. -/
def keyOk (key : Nat) : Bool := decide (1 ≤ key) && decide (key ≤ 0xFFFE)

def State.pkeyAdd (s : State) : State :=
  s.mbxCommand 9 [4] fun s =>
    let key := argNat s.mbxBytes
    if s.sec.mbxLen ≠ 1 ∨ !keyOk key ∨ (s.pkeyAt key).isSome ∨ key = s.mgmtKey then (s, 2, [])
    else if s.pkeyRoom ≤ s.pkeyCount then (s, 6, [])
    else match (List.range 64).find? fun i => (s.pkeyEntry i).isNone with
      | none => (s, 6, [])
      | some i => (s.w32 (Reg.xptPkeyTab i) (BitVec.ofNat 32 (key + 2 ^ 31)), 0, bytesLE 8 i)

/-- Something still uses a key (R490). -/
def State.keyInUse (s : State) (key : Nat) : Bool :=
  (s.liveQps.any fun n => (s.qp n).pkey == key)
  || ((List.range s.rgnEntries).any fun i =>
      let r := s.region i rgnSrc
      r.2.2 && r.2.1.state != 0 && r.2.1.pkey == key)
  || ((List.range 16).any fun n => (s.crewCtrl n).getLsbD 0 && s.crewPkey n == key)
  || (s.srv.hampers.any fun e => e.2.state != 0 && s.resident e.2.ctx && e.2.pkey.toNat == key)

def State.pkeyRemove (s : State) : State :=
  s.mbxCommand 10 [4] fun s =>
    let key := argNat s.mbxBytes
    if s.sec.mbxLen ≠ 1 ∨ 0xFFFF < key then (s, 2, [])
    else match s.pkeyAt key with
      | none => (s, 2, [])
      | some i => if s.keyInUse key then (s, 7, []) else (s.w32 (Reg.xptPkeyTab i) 0, 0, [])

def State.mgmtKeySet (s : State) : State :=
  s.mbxCommand 11 [4] fun s =>
    let key := argNat s.mbxBytes
    if s.sec.mbxLen ≠ 1 ∨ !keyOk key ∨ (s.pkeyAt key).isSome then (s, 2, [])
    else if !s.liveQps.isEmpty then (s, 7, [])
    else (s.w32 Reg.xptMgmtPkey (BitVec.ofNat 32 key), 0, [])

/-! ## Fuse programming in progress (R476, FUSE_STAT.PROG_BUSY) -/

/-- The fuses that the command that is running programs, in their order. -/
def State.programming (s : State) : List Nat :=
  let t := match s.sec.mbxOp with
    | 4 => s.enroll true
    | 5 => s.revokeOwner true
    | 6 => s.setPartMode true
    | 7 => s.rollbackAdvance true
    | 8 => s.debugLockCmd true
    | _ => s
  t.sec.fuses.drop s.sec.fuses.length

/-- A change of fuses is being programmed. -/
def State.progBusy (s : State) : Bool := !s.programming.isEmpty

/-- The fuses as a loss of power or a cold reset leaves them: of a change in progress, the bits that had been programmed, how many
of them is free (R459, R476). -/
def State.fusesCut (s : State) : List Nat := s.sec.fuses ++ s.programming.take (s.free % (s.programming.length + 1))

/-- FUSE_STAT. -/
def State.fuseStatReg (s : State) : Word :=
  putFld (putFld (s.r32 Reg.fuseStat) 2 1 s.progBusy.toNat) 3 1 (s.rb Reg.fuseStat 0 && s.torn).toNat

end Sys2Proof.Machine
end

