-- ==== Sys2Proof/Machine/Disable.lean ====
section
/-! DEFINITION. Enabling and disabling units by their BLK_CTRL (R75, R76, R234, R272, R340, R494). -/
namespace Sys2Proof.Machine

/-- A channel or board interface is enabled (R234, R272): not while its traffic generator runs or a forced disable of it is
pending. Dirty lines that a WB_ALL passed over are written back (R227). -/
def State.memoryOn (s : State) (pn : Nat) : State :=
  if s.forced.contains pn ∨ (0x1000 ≤ pn ∧ s.rb (Reg.stkStat (pn - 0x1000)) 0) then s
  else
    let s := ((s.wb (blkCtrl pn) 0 true).wb (blkStat pn) 0 true).wb (blkStat pn) 1 false
    if 0x1000 ≤ pn then s.wbOwedLines (pn - 0x1000) else s

/-- A stack channel or board interface by its page, while an access that has reached it is not finished. -/
def State.pageBusy (s : State) (pn : Nat) : Bool :=
  match Reg.page pn with
  | some (.brd, n) => s.boardBusy n
  | some (.stk, n) => s.chanBusy n
  | _ => false

/-- Its graceful disable: it drains while accesses that have reached it are outstanding, else is complete at once (R234,
R272). -/
def State.memoryOff (s : State) (pn : Nat) : State :=
  let s := s.wb (blkCtrl pn) 0 false
  if !s.active pn then s
  else if s.pageBusy pn then s.wb (blkStat pn) 1 true
  else s.statOff pn false

/-- A write of 1 to EN. -/
def State.unitOn (s : State) (pn : Nat) : State :=
  match Reg.page pn with
  | some (.eng, e) => s.engineOn e
  | some (.stk, _) => s.memoryOn pn
  | some (.brd, _) => s.memoryOn pn
  | some (.fab, p) => s.portOn p
  | _ => s

/-- A write of 0 to EN. -/
def State.unitOff (s : State) (pn : Nat) : State :=
  match Reg.page pn with
  | some (.eng, e) => s.engineOff e
  | some (.stk, _) => s.memoryOff pn
  | some (.brd, _) => s.memoryOff pn
  | some (.fab, p) => s.portOff p
  | _ => s

/-- FORCE_OFF taken: the forced disable is pending until the next boundary (R494). -/
def State.unitForce (s : State) (pn : Nat) : State :=
  let keep (s : State) : State := { s with forced := if s.forced.contains pn then s.forced else s.forced ++ [pn] }
  match Reg.page pn with
  | some (.eng, e) => s.engineForce e
  | some (.stk, _) => keep s
  | some (.brd, _) => keep s
  | some (.fab, p) => s.modPort p fun x => { x with forcePend := true }
  | _ => s

/-- FORCE_OFF has effect only with EN 0 (Table 3-6). -/
def State.unitForceOff (s : State) (pn : Nat) : State :=
  if pageHasEn pn ∧ !s.rb (blkCtrl pn) 0 then s.unitForce pn else s

/-- What enabling and disabling may change. -/
def unitFoot : Footprint := { regs := true, events := true, engines := true, forced := true, mem := true, ports := true }

/-- A write of BLK_CTRL: EN, then FORCE_OFF where EN is 0, DEBUG but for a 1 under the debug lock, and an engine's
FLUSH_ON_FORCE (Table 3-6, R494, R461, Table 4-14). -/
def State.ctrlWrite (s : State) (pn : Nat) (v : Word) : State :=
  let debug := v.getLsbD 2
  let s := if debug ∧ s.debugLock then s else s.wb (blkCtrl pn) 2 debug
  let s := if debug ∧ !s.debugLock then s.modSec fun x => { x with debugSeen := true } else s
  let s := if pn < 0x100 then s.wb (blkCtrl pn) 8 (v.getLsbD 8) else s
  s.within unitFoot fun s =>
    if !pageHasEn pn then s
    else if v.getLsbD 0 then s.unitOn pn
    else
      let s := s.unitOff pn
      if v.getLsbD 1 then s.unitForceOff pn else s

/-- The forced disable of a channel or board interface at its boundary: accesses not yet performed there are poisoned or
dropped (R234, R272). -/
def State.forceMemory (s : State) (pn : Nat) : State :=
  let t := { s with forced := s.forced.filter fun x => x != pn }.statOff pn true
  match Reg.page pn with
  | some (.brd, n) => t.forceBoard n t.mem.lower.length
  | some (.stk, n) => t.forceChannel n
  | _ => t

/-- The forced disable of a port at its boundary: it goes DOWN and every queue pair that sends on it is forced (R340). -/
def State.forcePort (s : State) (p : Nat) : State :=
  let s := ((s.linkDown p).modPort p fun x => { x with forcePend := false }).statOff (fpPage p) true
  s.each (s.liveQps.filter fun n => (s.qp n).port == p && (s.qp n).state != 6) State.qpForced

end Sys2Proof.Machine
end

