-- ==== Sys2Proof/Machine/Access.lean ====
section
/-! DEFINITION. Register accesses: which requester reaches what, what a write of each register does, what a read returns,
the shadow view and the blanket pages (R4, R5, R36 to R41, R44 to R54, and the register tables of the chapters). -/
namespace Sys2Proof.Machine

/-! ## Where an access lands (R36, R37, R42, R43, R49) -/

/-- The register space holds 64 MiB. -/
def regSpace : Nat := 2 ^ 26

def isDoorbell (off : Nat) : Bool := decide (0x280000 ≤ off) && decide (off < 0x300000)
def isPage (off : Nat) : Bool := (Reg.page (off / 0x1000)).isSome

/-- The kind of the members of a blanket page. -/
def blanketKind (off : Nat) : Reg.Page := if off < 0x310000 then .eng else .stk

/-- Size, alignment and mapping of an access (R37, R43). -/
def accessMapped (a : RegAcc) : Bool :=
  (a.size == 4 || a.size == 8) && a.off % a.size == 0 && decide (a.off < regSpace)
  && (isPage a.off || isDoorbell a.off || isBlanket a.off)

/-- The registers whose action needs all 64 bits (R37), by kind of page and page offset. -/
def needs64 (k : Reg.Page) (x : Nat) : Bool :=
  match k with
  | .eng => x / 8 == 0x7D0 / 8
  | .core => x / 8 == 0x780 / 8
  | .sec => x / 8 == 0x208 / 8
  | _ => false

def pageKind (off : Nat) : Option Reg.Page := (Reg.page (off / 0x1000)).map (·.1)

/-- Writes to a word that a requester may make (R39, R40, R448, R492). -/
def mayWrite (r : Requester) (off : Nat) : Bool :=
  let x := off % 0x1000
  match pageKind off with
  | some .sec => match r with
    | .security => true
    | .peer _ _ => false
    | _ => x == 0x200 || x / 8 == 0x208 / 8
  | some .fuse => r == .security
  | some .pwr => x != 0x104
  | _ => true

/-! ## Writes of words with behaviour of their own -/

/-- A write by the access codes of Table 0-1: RW bits are set, W1C bits cleared where written 1. -/
def State.plainWrite (s : State) (off : Nat) (v : Word) : State :=
  match Reg.info off with
  | none => s
  | some w =>
    let old := s.r32 off
    s.w32 off (((old &&& ~~~w.rw) ||| (v &&& w.rw)) &&& ~~~(v &&& w.w1c))

/-- ENG_Qn_CFG: ignored unless TAIL = DONE, and where SIZE lies outside 4 to 16 (Table 4-13). -/
def State.queueCfg (s : State) (e q : Nat) (v : Word) : State :=
  if s.r32 (Reg.engQTail e q) ≠ s.r32 (Reg.engQDone e q) ∨ fld v 0 5 < 4 ∨ 16 < fld v 0 5 then s else s.plainWrite (Reg.engQCfg e q) v

/-- ENG_Qn_STAT: ERR and FSTOP clear where written 1; FSTOP makes the engine fetch again. -/
def State.queueStat (s : State) (e q : Nat) (v : Word) : State :=
  let s := if v.getLsbD 8 then s.wb (Reg.engQStat e q) 8 false else s
  if v.getLsbD 9 then s.fstopClear e q else s

def State.cswCmd (s : State) (e : Nat) (v : Word) : State :=
  match fld v 0 2 with
  | 1 => s.cswSave e (fld v 2 2)
  | 2 => s.cswLoad e (fld v 2 2)
  | _ => s

def State.engWrite (s : State) (e x : Nat) (v : Word) : State :=
  if 0x100 ≤ x ∧ x < 0x180 then
    let q := (x - 0x100) / 0x20
    match x % 0x20 with
    | 0x08 => s.queueCfg e q v
    | 0x0C => s.tailWrite e q v
    | 0x18 => s.queueStat e q v
    | _ => s.plainWrite (Reg.engPage e + x) v
  else if 0x200 ≤ x ∧ x < 0x300 then s.tcWrite e ((x - 0x200) / 4) v
  else if x = 0x310 then s.tcAdd e v
  else if 0x400 ≤ x ∧ x < 0x480 then s.ccWrite e ((x - 0x400) / 4) v
  else if x = 0x620 then s.cswCmd e v
  else s.plainWrite (Reg.engPage e + x) v

/-- CORE_ words: a context whose root at C0 is taken away leaves the firmware's books (R393). -/
def State.coreWrite (s : State) (c x : Nat) (v : Word) : State :=
  let s := s.plainWrite (Reg.corePage c + x) v
  if c = 0 ∧ 0x680 ≤ x ∧ x < 0x780 ∧ !v.getLsbD 0 then
    s.modCtx ((x - 0x680) / 4) fun k => { Ctx.reset with cfg := k.cfg, engines := k.engines, hdr := k.hdr, data := k.data }
  else s

def State.cchWrite (s : State) (c x : Nat) (v : Word) : State :=
  match x with
  | 0x100 => if fld v 8 4 = 0 then s else s.plainWrite (Reg.cchCtrl c) v
  | 0x108 =>
    let s := if v.getLsbD 0 then s.wbAll c else s
    if v.getLsbD 1 then s.wcFlush c else s
  | _ => s.plainWrite (Reg.cchPage c + x) v

def State.stkWrite (s : State) (ch x : Nat) (v : Word) : State :=
  if x = 0x100 then
    let s := s.wb (Reg.stkCtrl ch) 1 (v.getLsbD 1)
    if v.getLsbD 0 then s.tgStart ch else s.tgStop ch
  else s.plainWrite (Reg.stkPage ch + x) v

def State.xptDevWrite (s : State) (v : Word) : State :=
  if !s.liveQps.isEmpty then s
  else
    let s := s.plainWrite Reg.xptDev v
    if s.tideState = 2 ∧ s.isMaster then s.ownMasterId else s

/-- XPT_QP_CMD (Table 13-9); an operation that the table does not list is refused. -/
def State.qpCommand (s : State) (v : Word) : State :=
  let n := fld v 0 16
  match fld v 16 4 with
  | 1 => s.qpInit n
  | 2 => s.qpRtr n
  | 3 => s.qpRts n
  | 4 => s.qpDrain n
  | 5 => s.qpForce n
  | 6 => s.qpReset n
  | 7 => s.migrate n (fld v 20 3)
  | _ => s.qpStat n true

def State.rgnCommand (s : State) (v : Word) : State :=
  match fld v 20 2 with
  | 1 => s.registerRegion (fld v 0 20)
  | 2 => s.revokeFence (fld v 0 20)
  | _ => if s.rb Reg.xptRgnStat 0 then s.wb Reg.xptRgnStat 1 true else s

/-- XPT_CREWn_CTRL (R346, R356). -/
def State.crewWrite (s : State) (n : Nat) (v : Word) : State :=
  let v := v &&& 0x3FFFF
  if v.getLsbD 0 then s.crewEnable n v else (s.w32 (Reg.xptCrewCtrl n) v).crewDisable n

def State.xptWrite (s : State) (x : Nat) (v : Word) : State :=
  if x = 0x100 then s.xptDevWrite v
  else if x = 0x128 then s.qpCommand v
  else if x = 0x130 then s.rgnCommand v
  else if 0x400 ≤ x ∧ x < 0x800 ∧ x % 0x40 = 0 then s.crewWrite ((x - 0x400) / 0x40) v
  else s.plainWrite (Reg.xptPage + x) v

def State.gtxWrite (s : State) (x : Nat) (v : Word) : State :=
  match x with
  | 0x104 => if v.getLsbD 0 then s.fullTraining 8 else s
  | 0x618 =>
    let s := s.plainWrite Reg.gtxTsCtrl v
    if v.getLsbD 8 then s.tsFlush else s
  | 0x620 => s.tsCons v
  | 0x640 => s.tsDevProd v
  | 0x644 => if s.r32 Reg.gtxTsDevProd = s.r32 Reg.gtxTsProd then s.plainWrite Reg.gtxTsDevCfg v else s
  | _ => s.plainWrite (Reg.gtxPage + x) v

/-- TIDE_CTRL: EPOCH, EN and MASTER are set, then SET_LOAD, REBASE and LOCK act on what they leave. A locked master's
TIDE_MASTER_ID follows its EPOCH (R33). -/
def State.tideCtrlWrite (s : State) (v : Word) : State :=
  let s := s.wf Reg.tideCtrl 16 16 (fld v 16 16)
  let s := if s.isMaster ∧ s.tideState = 2 then s.ownMasterId else s
  let s := (s.tideEn (v.getLsbD 0)).tideMaster (v.getLsbD 1)
  let s := if v.getLsbD 2 then s.tideSetLoad else s
  let s := if v.getLsbD 3 then s.tideRebase else s
  if v.getLsbD 4 then s.tideLock else s

def State.cntSnap (s : State) (v : Word) : State :=
  let s := if v.getLsbD 1 then s.snapRelease else s
  if v.getLsbD 0 ∨ v.getLsbD 2 then s.snapArm (v.getLsbD 0) (v.getLsbD 2) else s

def State.tideWrite (s : State) (x : Nat) (v : Word) : State :=
  if x = 0x108 then s.tideCtrlWrite v
  else if 0x180 ≤ x ∧ x < 0x1C0 ∧ x % 16 = 8 then if v = 0 then s else s.plainWrite (Reg.tidePage + x) v
  else if 0x180 ≤ x ∧ x < 0x1C0 ∧ x % 16 = 12 then s.stepCtrl ((x - 0x180) / 16) v
  else if x = 0x118 ∨ x = 0x11C then (s.plainWrite (Reg.tidePage + x) v).modCommit fun c => { c with atTarget := none }
  else if x = 0x1C0 then s.cntSnap v
  else if x = 0x208 then s.evtRearm v
  else if x = 0x20C then if 2023 < fld v 0 11 then s else s.plainWrite Reg.tideEvtVec v
  else s.plainWrite (Reg.tidePage + x) v

/-- PWR_RESET (R475): a request is refused after a trip; else the reset follows. -/
def State.resetRequest (s : State) (v : Word) : State :=
  if fld v 16 16 ≠ 0x5752 ∨ !v.getLsbD 0 then s
  else if s.rb Reg.pwrStat 10 then s.wb Reg.pwrResetStat 0 true
  else ((s.wb Reg.pwrResetStat 0 false).wb Reg.pwrResetStat 1 s.progBusy).modSec fun x => { x with resetWait := true }

/-- A write of PWR_ACCT_CFG: a period begins as EN becomes 1. -/
def State.acctCfg (s : State) (v : Word) : State :=
  let was := s.rb Reg.pwrAcctCfg 31
  let s := s.plainWrite Reg.pwrAcctCfg v
  if !was ∧ s.rb Reg.pwrAcctCfg 31 then s.acctStart.modSrv fun p => { p with carried := [] } else s

def State.pwrWrite (s : State) (x : Nat) (v : Word) : State :=
  if x = 0x340 then s.resetRequest v
  else if x = 0x30C then s.acctCfg v
  else s.plainWrite (Reg.pwrPage + x) v

/-- Registers of the firmware that take effect only while RUNNING is 0: the bases, the configurations and the static mode's
(R392, R412). -/
def srvFixed (x : Nat) : Bool :=
  decide (x < 0x10C) || (decide (0x118 ≤ x) && decide (x < 0x124)) || (decide (0x130 ≤ x) && decide (x < 0x148))
  || (decide (0x160 ≤ x) && decide (x < 0x184)) || (decide (0x220 ≤ x) && decide (x < 0x234))

/-- A word of the registers of the context in SRV_CTX_SEL (R412). -/
def State.ctxWord (s : State) (x : Nat) : Word :=
  let k := s.rf Reg.srvCtxSel 0 6
  let c := s.ctx k
  let half (d : Dword) : Word := BitVec.ofNat 32 (fld d (8 * (x % 8)) 32)
  if x = 0x1D4 then c.cfg
  else if x = 0x1D8 then s.ctxStat k
  else if x = 0x1DC then c.waitHint
  else if x < 0x200 then BitVec.ofNat 32 (fld c.engines (8 * (x - 0x1E0)) 32)
  else if x < 0x208 then half c.hdr
  else half c.data

/-- A write of one: a SHARE of 0 is ignored; the engine set and the image addresses only while the context is FREE. -/
def State.ctxWrite (s : State) (x : Nat) (v : Word) : State :=
  let k := s.rf Reg.srvCtxSel 0 6
  let put {w : Nat} (d : BitVec w) (lo : Nat) : BitVec w := putFld d lo 32 v.toNat
  if x = 0x1D4 then s.modCtx k fun c => { c with cfg := if fld v 0 16 = 0 then putFld (v &&& 0x7FFFF) 0 16 c.share else v &&& 0x7FFFF }
  else if x = 0x1DC then s.modCtx k fun c => { c with waitHint := v }
  else if x = 0x1D8 ∨ s.ctxState k ≠ 0 then s
  else if x < 0x200 then s.modCtx k fun c => { c with engines := put c.engines (8 * (x - 0x1E0)) }
  else if x < 0x208 then s.modCtx k fun c => { c with hdr := put c.hdr (8 * (x % 8)) &&& 0xFFFFFFFFFFFFF000 }
  else s.modCtx k fun c => { c with data := put c.data (8 * (x % 8)) &&& 0x0007FFFFFFFFF001 }

def State.srvWrite (s : State) (x : Nat) (v : Word) : State :=
  if x = 0x10C then s.srvTail v
  else if x = 0x128 then s.srvCons v
  else if x = 0x218 ∧ s.released then s.rtCfg v
  else if 0x1D4 ≤ x ∧ x < 0x210 then s.ctxWrite x v
  else if srvFixed x ∧ s.running then s
  else if x = 0x108 ∧ s.r32 Reg.srvCmdTail ≠ s.r32 Reg.srvCmdHead then s
  else s.plainWrite (Reg.srvPage + x) v

/-- BLK_PROTO_LIMIT: a value above HIGHEST or below LOWEST is ignored (R56). -/
def State.protoWrite (s : State) (pn : Nat) (v : Word) : State :=
  if s.rf (blkProto pn) 0 16 < fld v 0 16 ∨ fld v 0 16 < s.rf (blkProto pn) 16 16 then s else s.plainWrite (blkProtoLimit pn) v

/-- What a write to a unit's page may change. -/
def accessFoot : Footprint :=
  { regs := true, tide := true, events := true, engines := true, flights := true, mem := true, ports := true, xpt := true
    srv := true, tokens := true }

/-- The write of one 32-bit word of a block page by a requester, but for its SH fields (R46). Writes to the shadow view and
to offsets that name no register are ignored (R37, R45). -/
def State.wordWrite (s : State) (r : Requester) (off : Nat) (v : Word) : State :=
  let pn := off / 0x1000
  let x := off % 0x1000
  if x = 0x10 then s.ctrlWrite pn v
  else if x = 0x3C then s.protoWrite pn v
  else if x < 0x100 then s.plainWrite off v
  else if 0x800 ≤ x then s
  else match Reg.page pn with
    | some (.eng, e) => s.within accessFoot (·.engWrite e x v)
    | some (.core, c) => s.within accessFoot (·.coreWrite c x v)
    | some (.cch, c) => s.within accessFoot (·.cchWrite c x v)
    | some (.stk, ch) => s.within accessFoot (·.stkWrite ch x v)
    | some (.brdTier, _) => if (x = 0x108 ∨ x = 0x10C) ∧ fld v 0 16 = 0 then s else s.plainWrite off v
    | some (.fab, p) => if x = 0x104 then s.within accessFoot fun s => if v.getLsbD 0 then s.fullTraining p else s
      else s.plainWrite off v
    | some (.xpt, _) => s.within accessFoot (·.xptWrite x v)
    | some (.gtx, _) => s.within accessFoot (·.gtxWrite x v)
    | some (.tide, _) => s.within { accessFoot with commit := true } (·.tideWrite x v)
    | some (.sec, _) => if x = 0x200 then s.mbxCtrl r v else s.plainWrite off v
    | some (.pwr, _) => s.pwrWrite x v
    | some (.srv, _) => s.within accessFoot (·.srvWrite x v)
    | _ => s.plainWrite off v

/-- A token or credit counter that is away refuses its register's write (R397). -/
def State.wordAway (s : State) (off : Nat) : Bool :=
  let e := off / 0x1000
  let x := off % 0x1000
  decide (e < 256) && ((decide (0x200 ≤ x) && decide (x < 0x300) && s.tcImg e ((x - 0x200) / 4) != 0)
    || (decide (0x400 ≤ x) && decide (x < 0x480) && s.ccImg e ((x - 0x400) / 4) != 0))

/-! ## Writes (R37 to R39, R46, R51) -/

/-- The words of an access: offset and data, the lower first. -/
def accParts (a : RegAcc) : List (Nat × Word) :=
  if a.size = 8 then [(a.off, a.data.setWidth 32), (a.off + 4, (a.data >>> 32).setWidth 32)] else [(a.off, a.data.setWidth 32)]

/-- A write of 64 bits to one of the registers that needs them all. -/
def State.write64 (s : State) (r : Requester) (off : Nat) (v : Dword) : State :=
  match Reg.page (off / 0x1000) with
  | some (.eng, e) => s.within accessFoot (·.engInv e v)
  | some (.core, c) => s.within accessFoot (·.coreInv c v)
  | some (.sec, _) => s.mbxInput r v
  | _ => s

/-- The words of an access that hold SH fields, by word index. -/
def shParts (ws : List (Nat × Word)) : List (Nat × Word) :=
  ws.filterMap fun w => if w.1 % 0x1000 < 0x800 ∧ shMask (w.1 / 4) ≠ 0 then some (w.1 / 4, w.2) else none

/-- A commit request, where the access reaches an SH field. -/
def State.commitParts (s : State) (ws : List (Nat × Word)) (late : List Nat) : State :=
  let l := shParts ws
  if l.isEmpty then s else s.within { regs := true, commit := true } (·.commitReq l late)

/-- A write to a block page; the answer says whether it completes without an error response. -/
def State.pageWrite (s : State) (r : Requester) (a : RegAcc) : State × Bool :=
  match pageKind a.off with
  | none => (s, false)
  | some k =>
    if needs64 k (a.off % 0x1000) then
      if !mayWrite r a.off then (s.refuse a.off, false)
      else if a.size ≠ 8 then (s, false)
      else (s.write64 r a.off a.data, k != .sec || s.mbxTakes r)
    else
      let ok := (accParts a).filter fun w => mayWrite r w.1
      let away := ok.any fun w => s.wordAway w.1
      let s := s.each (accParts a) fun s w => if mayWrite r w.1 then s.wordWrite r w.1 w.2 else s.refuse w.1
      (s.commitParts ok [], ok.length == (accParts a).length && !away)

/-- A write to a blanket page: the same write at every member page, disabled members included; its SH fields are one commit
request (R51). It completes without an error response also where a member refuses its part, as a counter does that is away
(DESIGN CHOICE, log 117). late names the member pages that its shadow write reaches only after the commit boundary (R24); a write to a page of
one unit is never late (DESIGN CHOICE, log 156). -/
def State.groupWrite (s : State) (r : Requester) (a : RegAcc) (late : List Nat) : State × Bool :=
  let pages := s.blanketPages a.off
  let x := a.off % 0x1000
  if needs64 (blanketKind a.off) x then
    if a.size ≠ 8 then (s, false) else (s.each pages fun s pn => s.write64 r (0x1000 * pn + x) a.data, true)
  else
    let at_ (pn : Nat) : List (Nat × Word) := (accParts a).map fun w => (0x1000 * pn + w.1 % 0x1000, w.2)
    let s := s.each pages fun s pn => s.each (at_ pn) fun s w => s.wordWrite r w.1 w.2
    (s.commitParts (pages.flatMap at_) late, true)

/-- A peer's access carries the management key; the other requesters' carry none (R40, checked once for an access to a blanket
page: R53). -/
def State.keyed (s : State) (r : Requester) : Bool :=
  match r with
  | .peer _ pkey => s.mgmtKeyed pkey
  | _ => true

/-- A write access of a requester. -/
def State.regWrite (s : State) (r : Requester) (a : RegAcc) (late : List Nat) : State × Bool :=
  if !accessMapped a then (s, false)
  else if !s.keyed r then (s.refuse a.off, false)
  else if isDoorbell a.off then
    let hi := a.off % 8 == 4
    (s.within accessFoot (·.ring ((a.off - 0x280000) / 8) (!hi) (hi || a.size == 8) (if hi then a.data <<< 32 else a.data)), true)
  else if isBlanket a.off then s.groupWrite r a late
  else s.pageWrite r a

/-! ## Reads -/

/-- BLK_STAT (Table 3-7, Table 4-14). -/
def State.statRead (s : State) (pn : Nat) : Word :=
  let base := fld (s.r32 (blkStat pn)) 0 3 + (s.rb (blkModeShadow pn) 16).toNat * 8
  if pn < 0x100 then
    BitVec.ofNat 32 (base + bitsOf 4 (s.queueBusy pn) * 2 ^ 8 + bitsOf 4 (fun u => s.unitLoad pn u != 0) * 2 ^ 12)
  else BitVec.ofNat 32 base

/-- Words that a read derives from other state; the read of a free one draws it. -/
def State.derived (s : State) (off : Nat) : State × Word :=
  let x := off % 0x1000
  let half (d : Nat) : Word := BitVec.ofNat 32 (d / 2 ^ (8 * (x % 8)))
  match Reg.page (off / 0x1000) with
  | some (.eng, e) =>
    if x = 0x720 then (s, s.mxStat e)
    else if x = 0x728 then (s, s.tileBusy e)
    else if x < 0x750 then (s, s.tileFlagReg e ((x - 0x730) / 4))
    else if x = 0x764 then (s.accAdvance e, s.accData e)
    else if x = 0x780 then (s, s.vxStat e)
    else if x = 0x7A0 then (s.drawn, s.atStat e)
    else if x = 0x7D8 then (s, BitVec.ofNat 32 ((s.engine e).xl.length * 2 ^ 16))
    else (s, s.r32 off)
  | some (.cch, c) =>
    (s, BitVec.ofNat 32 ((s.mem.flushing.contains c).toNat + (s.mem.wc.filter fun w => w.core == c).length * 2 ^ 8))
  | some (.brd, n) => (s, if s.boardBusy n then s.r32 off else s.r32 off ||| 2)
  | some (.brdTier, _) => (s, half s.tierSize)
  | some (.xpt, _) =>
    let q := s.qp (s.rf Reg.xptQryQpn 0 16)
    let w := if x < 0x150 then q.npsn.toNat + q.una.toNat * 2 ^ 24 + q.state * 2 ^ 48 + q.errStatus % 32 * 2 ^ 51 + q.retries % 16 * 2 ^ 56
      else if x < 0x158 then q.sqDone.toNat + q.rqHead.toNat * 2 ^ 32
      else q.epsn.toNat + q.cwnd * 2 ^ 32
    (s, half w)
  | some (.sec, _) =>
    if x = 0x210 then (s, BitVec.ofNat 32 s.sec.mbxIn.length)
    else if x = 0x220 then (s, BitVec.ofNat 32 s.mbxLeft.length)
    else (s, half (natLE (slice s.mbxLeft 0 8)))
  | some (.fuse, _) =>
    (s, if x = 0x108 then s.fuseWord else if x = 0x10C then s.fusePartReg else if x = 0x110 then BitVec.ofNat 32 s.rollbackCount
      else if x = 0x114 then s.fuseOwnerReg else BitVec.ofNat 32 s.debugLock.toNat)
  | _ => (s, s.r32 off)

/-- A read of TIDE_NOW finds tide where it stands within the tick: elapsed ns after the boundary, never behind an earlier
reading; while OFF tide is held (R11, R34). -/
def State.tideRead (s : State) (elapsed : Nat) : State :=
  if s.tideState = 0 then s
  else s.modTide fun t => { t with now := BitVec.ofNat 64 (max t.now.toNat (t.now.toNat / 1024 * 1024 + elapsed % 1024)) }

/-- A read of bits [31:0] of TIDE_NOW latches bits [63:32]. -/
def State.tideLow (s : State) (elapsed : Nat) : State × Word :=
  let s := s.tideRead elapsed
  (s.modTide fun t => { t with latch := (t.now >>> 32).setWidth 32 }, s.tide.now.setWidth 32)

/-- The read of one 32-bit word of a block page, below the shadow view. -/
def State.wordRead (s : State) (off : Nat) : State × Word :=
  let pn := off / 0x1000
  let x := off % 0x1000
  if x = 0x14 then (s, s.statRead pn)
  else if x / 8 = 4 then (s, BitVec.ofNat 32 (s.evtTick pn / 2 ^ (8 * (x % 8))))
  else match Reg.info off with
    | none => (s, 0)
    | some w =>
      if off = Reg.tideNow then s.drawn.tideLow (s.free % 1024)
      else if off = Reg.tideNow + 4 then (s, s.tide.latch)
      else if pn = pwrPn ∧ 0x120 ≤ x ∧ x < 0x250 then if x % 8 = 0 then (s.drawn, BitVec.ofNat 32 s.free) else (s, 0)
      else if pn = xptPn ∧ 0x400 ≤ x ∧ x % 0x40 = 0x18 then
        (s, putFld (s.r32 off) 0 16 (min 65535 (s.crewOutstanding ((x - 0x400) / 0x40))))
      else if off = Reg.fuseStat then (s, s.fuseStatReg)
      else match w.kind with
        | .wo => (s, 0)
        | .perf => (s, s.perfRead off)
        | .computed => s.derived off
        | .banked => (s, s.ctxWord x)
        | _ => (s, s.r32 off)

/-- The shadow view: SH fields read their pending values, or those in force (R45). A read through it has the side effects of the
read at x, but an 8-byte read of SEC_MBX_OUT there takes no output word (DESIGN CHOICE, log 116). -/
def State.viewRead (s : State) (off : Nat) : State × Word :=
  if off % 0x1000 < 0x800 then s.wordRead off
  else
    let at_ := off - 0x800
    let r := s.wordRead at_
    match optAt s.commit.shadow (at_ / 4) with
    | none => r
    | some v => let m := shMask (at_ / 4); (r.1, (r.2 &&& ~~~m) ||| (v &&& m))

/-- A word of a blanket page (R52). -/
def State.blanketRead (s : State) (off : Nat) : State × Word :=
  let pages := s.blanketPages off
  let x := off % 0x1000
  if pages.isEmpty then (s, 0)
  else if x = 0 then (s, BitVec.ofNat 32 (off / 0x1000 % 16 + Reg.typeCode (blanketKind off) * 2 ^ 16 + 2 ^ 31))
  else if x = 4 then (s, BitVec.ofNat 32 (Reg.version (blanketKind off)))
  else if x < 0x10 then (s, 0)
  else pages.foldl (fun acc pn => let r := acc.1.viewRead (0x1000 * pn + x); (r.1, acc.2 ||| r.2)) (s, 0)

/-- The read of one word anywhere. -/
def State.anyRead (s : State) (off : Nat) : State × Word :=
  if isDoorbell off then
    let q := s.qp ((off - 0x280000) / 8)
    (s, if off % 8 = 0 then q.sqDone else q.rqHead)
  else if isBlanket off then s.blanketRead off
  else s.viewRead off

/-- A read access: data, or none for an error response. An 8-byte read of TIDE_NOW or SEC_MBX_OUT is one read. -/
def State.regRead (s : State) (a : RegAcc) : State × Option Dword :=
  if !accessMapped a then (s, none)
  else if a.size = 4 then let r := s.anyRead a.off; (r.1, some (r.2.setWidth 64))
  else if a.off = Reg.tideNow then
    let r := s.drawn.tideLow (s.free % 1024)
    (r.1, some r.1.tide.now)
  else if a.off = Reg.secMbxOut then let r := s.mbxRead; (r.1, some r.2)
  else
    let lo := s.anyRead a.off
    let hi := lo.1.anyRead (a.off + 4)
    (hi.1, some (hi.2 ++ lo.2))

/-- An access of either kind, as the transport performs a peer's (R40). -/
def State.regAccess (s : State) (r : Requester) (write : Bool) (a : RegAcc) : State × Option Dword :=
  if write then let w := s.regWrite r a []; (w.1, if w.2 then some 0 else none) else s.regRead a

end Sys2Proof.Machine
end

