-- ==== Sys2Proof/Machine/Boot.lean ====
section
/-! DEFINITION. Boot: fuse load, fetch, verification, configuration records, release and failure (R455 to R470). -/
namespace Sys2Proof.Machine

/-! ## States (Table 19-1) -/

/-- A boot state is entered; RELEASED, RECOVERY and HALTED record the local tick (Table 19-12). -/
def State.bootEnter (s : State) (st : Nat) : State :=
  let s := s.wf Reg.secBootStat 0 3 st
  if st < 4 then s else s.w64 Reg.secBootTick (BitVec.ofNat 64 s.tick)

/-- The boot fails: CAUSE, then RECOVERY or HALTED (R470). The IMAGE command that brought the image ends with it. -/
def State.bootStop (s : State) (cause : Nat) : State :=
  let s := s.wf Reg.secBootStat 8 4 cause
  let s := (s.bootEnter (if s.recoveryEn ∧ cause ≠ 1 then 5 else 6)).gp0Train
  if s.sec.viaMbx ∧ s.mbxBusy ∧ s.sec.mbxOp = 12 then s.mbxDone (if cause = 4 ∨ cause = 6 then 3 else 2) [] else s

/-- A slot fails in FETCH or VERIFY: the other slot is booted once, where BOOT_ALT_EN is 1 (R464). -/
def State.slotFail (s : State) (cause : Nat) : State :=
  if s.bootAltEn ∧ !s.rb Reg.secBootStat 4 ∧ !s.sec.viaMbx then
    ((s.wb Reg.secBootStat 3 (!s.rb Reg.secBootStat 3)).wb Reg.secBootStat 4 true).bootEnter 1
  else s.bootStop cause

/-! ## FUSE_LOAD (R456) -/

/-- The load ends: the settings that it found take force and the tide counts from 0. -/
def State.fuseLoad (s : State) (f : FuseSense) : State :=
  if s.bootState ≠ 0 ∨ s.rb Reg.fuseStat 0 then s
  else
    let s := s.modSec fun x => { x with misread := misreadBits f }
    let s := (s.wb Reg.fuseStat 0 true).modSec fun x => { x with partMode := s.partFused, partUsed := s.partCommitted }
    let s := s.tideEn true
    if doubleBit f then (s.wb Reg.fuseStat 1 true).bootStop 1 else s.bootEnter 1

/-! ## FETCH (R463, R464, Table 19-6) -/

/-- n bytes of the flash from an offset: those of the extent that holds the first of them; what no extent holds reads as erased,
0xFF (PRESUMED, log 124). -/
def flashBytes (f : FlashRead) (off n : Nat) : List Byte :=
  match f.extents.find? fun e => decide (e.1 ≤ off) && decide (off < e.1 + e.2.length) with
  | none => List.replicate n 0xFF
  | some e => let b := (e.2.drop (off - e.1)).take n; b ++ List.replicate (n - b.length) 0xFF

/-- A 1S-1S-1S read at 25 MHz, command 0x13 (R462). -/
def State.flashSlow (s : State) (off n : Nat) : State := s.emit (.flash false 0x13 off n 25 0)

/-- The clock of Table 19-6's CLK, in MHz, held to OPTIONS.XSPI_MAX. -/
def State.flashClock (s : State) (clk : Nat) : Nat :=
  let c := min clk s.xspiMax
  if c = 0 then 25 else if c = 1 then 100 else 200

/-- An 8D-8D-8D read as the descriptor d selects, command 0xEE; the ROM reads no byte at 256 MiB or above (R462). -/
def State.flashFast (s : State) (d : List Byte) (off n : Nat) : State :=
  s.emit (.flash true 0xEE off n (s.flashClock (natLE (slice d 13 1))) (natLE (slice d 14 1)))

/-- A boot descriptor copy with good MAGIC and CRC. -/
def goodDescriptor (b : List Byte) : Bool :=
  natLE (slice b 0 4) == 0x5344424C && crc32c (slice b 0 60) == natLE (slice b 60 4)

/-- The first good copy of the boot descriptor, at offset 0 or 0x1_0000 (R463). -/
def bootDescriptor (f : FlashRead) : Option (List Byte) :=
  [flashBytes f 0 64, flashBytes f 0x10000 64].find? goodDescriptor

/-- The image that stands at a flash offset: as many bytes as its header states, none above 256 MiB. -/
def flashImage (f : FlashRead) (off : Nat) : List Byte :=
  flashBytes f off (min (natLE (flashBytes f (off + 16) 4) % 2 ^ 25) (2 ^ 28 - off))

/-- The offset of slot A or B in a boot descriptor. -/
def slotOffset (d : List Byte) (slot : Bool) : Nat := natLE (slice d (if slot then 8 else 4) 4)

/-- The reads of the descriptor: the second copy only where the first is not good. -/
def State.readDescriptor (s : State) (f : FlashRead) : State :=
  let t := s.flashSlow 0 64
  if goodDescriptor (flashBytes f 0 64) then t else t.flashSlow 0x10000 64

/-- FETCH; ACTIVE names the slot by its low bit. The header is read before the rest of the image. An error of the flash is the slot's,
where the boot descriptor has been read. -/
def State.fetchImage (s : State) (f : FlashRead) : State :=
  if s.bootState ≠ 1 then s
  else
    let s := s.readDescriptor f
    match bootDescriptor f with
    | none => s.bootStop (if f.err then 9 else 2)
    | some d =>
      let slot := if s.rb Reg.secBootStat 4 then s.rb Reg.secBootStat 3 else (nth 0 d 12).getLsbD 0
      let off := slotOffset d slot
      let img := flashImage f off
      let s := (s.wb Reg.secBootStat 3 slot).flashFast d off (min 256 (2 ^ 28 - off))
      if f.err then s.slotFail 9
      else ((s.flashFast d (off + 256) (img.length - 256)).modSec fun x => { x with image := img, viaMbx := false }).bootEnter 2

/-! ## VERIFY (R465 to R467) -/

/-- A section entry (Table 19-8). -/
structure Section where
  kind : Nat
  off : Nat
  bytes : Nat
  dest : Nat
deriving DecidableEq, Repr

/-- A number of the image: n bytes from offset i. -/
def imgNat (b : List Byte) (i n : Nat) : Nat := natLE (slice b i n)

/-- The sections of an image. -/
def imgSections (b : List Byte) : List Section :=
  (List.range (imgNat b 0x14 2)).map fun i =>
    let o := 0x100 + 32 * i
    ⟨imgNat b o 1, imgNat b (o + 4) 4, imgNat b (o + 8) 4, imgNat b (o + 12) 4⟩

/-- Two sections share a byte. -/
def Section.meets (a b : Section) : Bool := decide (a.off < b.off + b.bytes) && decide (b.off < a.off + a.bytes)

/-- No section meets a later one. -/
def apart (l : List Section) : Bool :=
  match l with
  | [] => true
  | a :: t => t.all (fun b => !a.meets b) && apart t

/-- The SRAM that a section is copied to, in bytes. -/
def sectionRoom (kind : Nat) : Option Nat :=
  match kind with
  | 1 => some (2 ^ 19)
  | 2 => some (2 ^ 22)
  | 4 => some (2 ^ 22)
  | _ => none

def sectionOk (n keyOff : Nat) (x : Section) : Bool :=
  decide (1 ≤ x.kind) && decide (x.kind ≤ 5) && x.off % 64 == 0 && decide (0x100 + 32 * n ≤ x.off)
  && decide (x.off + x.bytes ≤ keyOff) && (sectionRoom x.kind).all fun room => decide (x.dest + x.bytes ≤ room)

/-- The layout rules of R465. Fields that its tables leave zero are not looked at. -/
def layoutOk (b : List Byte) : Bool :=
  let l := imgSections b
  let n := imgNat b 0x14 2
  let keyOff := imgNat b 0x20 4
  let many (k : Nat) : Nat := (l.filter fun x => x.kind == k).length
  decide (3 ≤ n) && decide (n ≤ 16) && imgNat b 0x10 4 == b.length && decide (b.length ≤ 2 ^ 24)
  && keyOff % 64 == 0 && imgNat b 0x24 4 == keyOff + 1952 && keyOff + 1952 + 3309 == b.length
  && decide (imgNat b 0x0F 1 ≤ 128) && l.all (sectionOk n keyOff)
  && many 1 == 1 && many 2 == 1 && many 3 == 1 && decide (many 4 ≤ 1) && apart l

/-- The bytes of the section of a kind. -/
def imgSection (b : List Byte) (kind : Nat) : List Byte :=
  match (imgSections b).find? fun x => x.kind == kind with
  | none => []
  | some x => slice b x.off x.bytes

/-- The record at the head of 32 bytes (Table 19-9); its reserved fields are not looked at. -/
def cfgRecord (b : List Byte) : CfgRec :=
  { op := BitVec.ofNat 4 (imgNat b 0 1), off := BitVec.ofNat 26 (imgNat b 4 4), value := BitVec.ofNat 64 (imgNat b 8 8),
    mask := BitVec.ofNat 64 (imgNat b 16 8), time := BitVec.ofNat 32 (imgNat b 24 4) }

/-- The records of a CONFIG section, to its END or its last whole record. -/
def cfgRecords (fuel : Nat) (b : List Byte) : List CfgRec :=
  match fuel with
  | 0 => []
  | fuel + 1 => if b.length < 32 then [] else
    let r := cfgRecord b
    if r.op = 0 then [] else r :: cfgRecords fuel (b.drop 32)

def imgRecords (b : List Byte) : List CfgRec := let c := imgSection b 3; cfgRecords (c.length / 32) c

/-- R467; a DELAY targets no register. -/
def recordOk (r : CfgRec) : Bool :=
  let off := r.off.toNat
  let target (size : Nat) : Bool :=
    off % size == 0 && (isPage off || isBlanket off) && off / 0x1000 != secPn && off / 0x1000 != fusePn
  match r.op.toNat with
  | 1 => target 4
  | 2 => target 8
  | 3 => target 4
  | 4 => true
  | _ => false

/-- D: the image's digest to the signature. -/
def imageDigest (b : List Byte) : List Byte := shake256 (b.take (imgNat b 0x24 4)) 64

/-- The checks of R466 in their order: the CAUSE of the first that fails. -/
def State.verifyCause (s : State) (b : List Byte) : Nat :=
  let pk := slice b (imgNat b 0x20 4) 1952
  if imgNat b 0 4 ≠ 0x4746434C ∨ imgNat b 6 2 ≠ 1 then 3
  else if imgNat b 8 4 ≠ 0x8768 ∨ imgNat b 12 2 ≠ 0xA1 then 10
  else if !layoutOk b then 3
  else if !(imgRecords b).all recordOk then 7
  else if s.authority (imgNat b 14 1) ≠ some (shake256 pk 32) then 6
  else if imgNat b 15 1 < s.rollbackCount then 5
  else if !dsaVerify pk (imageDigest b) [] (slice b (imgNat b 0x24 4) 3309) then 4
  else 0

/-- The sections of some kinds with their places in the SRAM that they are copied to. -/
def sramSections (b : List Byte) (kinds : List Nat) : List (Nat × List Byte) :=
  ((imgSections b).filter fun x => kinds.contains x.kind).map fun x => (x.dest, slice b x.off x.bytes)

/-- VERIFY: an image that passes has its sections copied and its records queued. -/
def State.verifyImage (s : State) : State :=
  if s.bootState ≠ 2 then s
  else
    let b := s.sec.image
    let cause := s.verifyCause b
    if cause ≠ 0 then s.slotFail cause
    else
      let s := s.modSec fun x => { x with
        records := imgRecords b, secSram := sramSections b [1], srvSram := sramSections b [2, 4]
        run := some {
          keySel := imgNat b 14 1, rollback := imgNat b 15 1, measure := imageDigest b, secFw := imgSection b 1
          srvFw := imgSection b 2, config := imgSection b 3, train := imgSection b 4
          signer := shake256 (slice b (imgNat b 0x20 4) 1952) 32 } }
      ((s.w64 Reg.secBootBuild (BitVec.ofNat 64 (imgNat b 0x18 8))).w32 Reg.secBootRecord 0).bootEnter 3

/-- IMAGE: an image through the mailbox is verified and performed as one from flash (R470); one that is not of the length that it states
is INVALID and changes nothing (R486). -/
def State.imageCmd (s : State) : State :=
  if !s.mbxBusy ∨ s.sec.mbxOp ≠ 12 ∨ (s.sec.viaMbx ∧ s.bootState < 4) then s
  else if s.bootState ≠ 5 then s.mbxDone 1 []
  else
    let b := s.mbxBytes
    let n := imgNat b 0x10 4
    if (n + 7) / 8 * 8 ≠ b.length then s.mbxDone 2 []
    else (s.modSec fun x => { x with image := b.take n, viaMbx := true }).bootEnter 2

/-! ## CONFIG (R467, R468) -/

/-- The record in progress is done. -/
def State.recordNext (s : State) : State :=
  (s.modSec fun x => { x with records := x.records.drop 1 }).w32 Reg.secBootRecord (s.r32 Reg.secBootRecord + 1)

/-- A write of the security core; an error response halts the boot. -/
def State.recordWrite (s : State) (r : CfgRec) (size : Nat) : State :=
  let a : RegAcc := { off := r.off.toNat, size := size, data := r.value }
  let w := s.regWrite .security a []
  if w.2 then w.1.recordNext else w.1.bootStop 7

/-- A POLL32 that has waited elapsed µs. -/
def State.recordPoll (s : State) (r : CfgRec) (elapsed : Nat) : State :=
  let a : RegAcc := { off := r.off.toNat, size := 4, data := 0 }
  let x := s.regRead a
  match x.2 with
  | none => x.1.bootStop 7
  | some v =>
    if v.setWidth 32 &&& r.mask.setWidth 32 = r.value.setWidth 32 &&& (r.mask.setWidth 32 : Word) then x.1.recordNext
    else if r.time.toNat ≤ elapsed then x.1.bootStop 8
    else x.1

/-- A DELAY of which elapsed µs have passed. -/
def State.recordDelay (s : State) (r : CfgRec) (elapsed : Nat) : State := if r.time.toNat ≤ elapsed then s.recordNext else s

/-- The front record is performed, where it has operation op. -/
def State.record (s : State) (op elapsed : Nat) : State :=
  match s.sec.records with
  | [] => s
  | r :: _ =>
    if s.bootState ≠ 3 ∨ r.op.toNat ≠ op then s
    else match op with
      | 1 => s.recordWrite r 4
      | 2 => s.recordWrite r 8
      | 3 => s.recordPoll r elapsed
      | 4 => s.recordDelay r elapsed
      | _ => s

/-- Records are performed in order, without waiting, until one has to wait. -/
def State.recordRun (s : State) (fuel : Nat) : State :=
  match fuel with
  | 0 => s
  | fuel + 1 =>
    match s.sec.records with
    | [] => s
    | r :: _ =>
      let t := s.record r.op.toNat 0
      if t.sec.records.length < s.sec.records.length then t.recordRun fuel else t

/-- CONFIG. -/
def State.configure (s : State) : State := if s.bootState = 3 then s.recordRun s.sec.records.length else s

/-- RELEASED: the serving cores start, with the real-time mode that SRV_RT_CFG may already ask for (DEDUCED, log 168), and GP0 trains; an
IMAGE command ends OK (R469). -/
def State.release (s : State) : State :=
  if s.bootState ≠ 3 ∨ s.sec.records ≠ [] then s
  else
    let s := (s.bootEnter 4).gp0Train
    let s := if s.r32 Reg.srvRtCfg = 0 then s else s.rtCfg (s.r32 Reg.srvRtCfg)
    if s.sec.viaMbx ∧ s.mbxBusy ∧ s.sec.mbxOp = 12 then s.mbxDone 0 [] else s

end Sys2Proof.Machine
end

