-- ==== Sys2Proof/Machine/Reset.lean ====
section
/-! DEFINITION. Resets and power (R443 to R445, R474 to R476, R497, Table 19-11). -/
namespace Sys2Proof.Machine

/-- What a trip leaves, which no reset takes away (R453, R474). -/
def State.keepTrip (t s : State) : State :=
  let t := t.modPwr fun p => { p with
    thermTripN := s.pwr.thermTripN, smbAlertN := s.pwr.smbAlertN, trip := s.pwr.trip, tripped := s.pwr.tripped }
  let t := t.wf Reg.pwrStat 10 12 (s.rf Reg.pwrStat 10 12)
  if s.pwr.tripped then t.wf Reg.pwrStat 0 7 0 else t

/-- Scratchpads and accumulators lose their content anew (Table 19-11). -/
def State.loseEngines (s : State) : State :=
  (s.upTo 256 fun t e => t.setEngine e { Engine.reset with era := some (s.fresh + 1), accEra := some (s.fresh + 1) }).drawn

/-- Every state of the device but fuses is as after a cold reset, with RESET_N low. What the device has sent stays sent. -/
def State.coldState (s : State) : State :=
  { State.reset with
    pending := s.pending, out := s.out, fresh := s.fresh
    sec := { Sec.reset with fuses := s.fusesCut }, pwr := { Pwr.reset with resetN := false } }.loseEngines

/-- RESET_N is driven low (R474). -/
def State.resetAssert (s : State) : State := if s.pwr.powered then s.coldState.keepTrip s else s

/-- RESET_N rises: the boot starts from FUSE_LOAD (R455). -/
def State.resetRelease (s : State) : State := if s.pwr.powered ∧ !s.pwr.resetN then s.modPwr fun p => { p with resetN := true } else s

/-- Power is removed (R445). -/
def State.powerRemoval (s : State) : State := s.coldState.modPwr fun p => { p with powered := false }

/-- Power returns with RESET_N held low (R443). -/
def State.powerUp (s : State) : State := if s.pwr.powered then s else s.modPwr fun p => { p with powered := true }

/-- Accesses already accepted are completed, and the write-combining buffers and core caches are written back, whether or not
the lines' channels are enabled (R475, Table 19-11; DEDUCED, log 37). -/
def State.flushAll (s : State) : State :=
  let on (s : State) (key : Nat) : State := s.wb (blkCtrl (chPage (keyChan key))) 0 true
  let s := s.each (s.mem.waiting.map s.waitingKey ++ s.mem.wc.map (·.key) ++ s.mem.cache.map (·.key)) on
  let s := (s.modMem fun m => { m with locks := [] }).serve
  let s := s.upTo 8 State.wcFlush
  s.each (s.mem.cache.filter (·.dirty)) State.writeBack

/-- The warm reset that was requested proceeds (R475, R476). -/
def State.warmReset (s : State) : State :=
  if !s.sec.resetWait ∨ s.progBusy then s
  else
    let m := s.flushAll.mem
    let t := (s.coldState.keepTrip s).modPwr fun p => { p with resetN := true }
    let t := t.modMem fun x => { x with
      dram := m.dram, dramPoison := m.dramPoison, dramErr := m.dramErr, board := m.board, boardPoison := m.boardPoison
      boardErr := m.boardErr, refresh := m.refresh, images := m.images }
    t.wb Reg.secBootStat 12 false

end Sys2Proof.Machine
end

