-- ==== Sys2Proof/Machine/Boundary.lean ====
section
/-! DEFINITION. The tick boundary: what it samples, what it makes due, and how due work is performed in the order of R17
(R10, R12, R16, R17, R22, R26, R30, R367, R400, R427, R433, R449, R494, R496). -/
namespace Sys2Proof.Machine

/-! ## Due work -/

/-- The timer fires once for the starts that have passed; all but one of them are counted in SKIPPED. Its
signal is delivered at the boundary itself (R64). -/
def State.stepFire (s : State) (n : Nat) : State :=
  let x := s.stepTimer n
  if x.lost = 0 then s
  else
    let ctrl := s.r32 (Reg.tideStepCtrl n)
    let s := s.wf (Reg.tideStepCtrl n) 16 8 (min 255 (fld ctrl 16 8 + (x.lost - 1)))
    let s := s.setStepTimer n { x with lost := 0 }
    if ctrl.getLsbD 1 then (if s.released then s.emit (.srvIrq n) else s)
    else s.each (s.groupEngines (fld ctrl 8 4)) fun s e => s.tokenArrive ⟨e, fld ctrl 2 6, 1, false⟩

/-- One piece of due work. -/
def State.performDue (s : State) (d : Due) : State :=
  match d with
  | .commit pn => s.commitUnit pn
  | .lateCommit pn => s.commitUnit pn
  | .forceEngine e => s.forceEngine e
  | .forceChannel pn => s.forceMemory pn
  | .forcePort p => s.forcePort p
  | .qpCancel n => s.qpCancel n
  | .delayedAck n => s.delayedAck n
  | .mixedTimeout => s.mixedTimeout
  | .tickTask e q i => s.taskComplete e q i false
  | .schedule prev => s.ctxSchedule prev
  | .stepTimer n =>
    let serving := n == 0 && s.rb (Reg.tideStepCtrl 0) 1
    (s.stepFire n).when serving State.stepStart

/-- What due work may change. -/
def dueFoot : Footprint :=
  { regs := true, tide := true, commit := true, events := true, engines := true, flights := true, forced := true, mem := true
    ports := true, xpt := true, srv := true }

/-- What the serving firmware may change. -/
def firmFoot : Footprint := { regs := true, events := true, mem := true, ports := true, srv := true }

/-- Due work is performed in order; when none is left, the event lines are gathered (R427). -/
def State.performList (s : State) (l rest : List Due) : State :=
  let t := { s with due := [] }.within dueFoot fun s => s.each l State.performDue
  if rest.isEmpty then t.within { regs := true, ports := true } State.gather else { t with due := rest }

/-- The firmware's scheduling and the step timers' starts, which follow every event of their boundary (R22, R400). -/
def Due.isLast : Due → Bool
  | .schedule _ => true
  | .stepTimer _ => true
  | _ => false

/-- What the last boundary made due and no command of its own has performed is performed: all of it, or what does not follow the
resolution of that boundary's events. -/
def State.settleTo (s : State) (all : Bool) : State :=
  let l := if all then s.due else s.due.filter fun d => !d.isLast
  if l.isEmpty then s else s.performList l (if all then [] else s.due.filter Due.isLast)

/-- Before anything later what is still due is performed, but for what a sampled command that is not resolved yet comes before. -/
def State.settle (s : State) : State := s.settleTo !s.unresolved

/-- Before the firmware resolves an event of the last boundary, what does not follow it is performed (R17, R22, R400). -/
def State.settleFirm (s : State) : State := s.settleTo false

/-- The due work up to and with a piece; the rest stays due. -/
def dueTo (d : Due) (l : List Due) : List Due × List Due :=
  match l with
  | [] => ([], [])
  | a :: t => if a = d then ([a], t) else let r := dueTo d t; (a :: r.1, r.2)

/-- A piece of due work is performed, and what comes before it; a timer's start waits for the commands of its boundary. -/
def State.due_ (s : State) (d : Due) : State :=
  if s.due.contains d ∧ !(d.isLast && s.unresolved) then let r := dueTo d s.due; s.performList r.1 r.2 else s

/-! ## The boundary -/

/-- Log records of the accesses that the boundary samples; a log holds its newest (R496). -/
def State.writeLogs (s : State) : State :=
  s.logq.foldl (fun s x =>
    let s := s.w64 x.1 x.2.1
    if x.2.2 = 0 then s else s.w64 x.2.2 s.tide.last) { s with logq := [] }

/-- Pages with a forced disable pending, by ascending source index, and the queue pairs forced on a port behind the port. -/
def State.forcedDue (s : State) : List Due :=
  let engines := ((List.range 256).filter fun e => (s.engine e).forcePend).map Due.forceEngine
  let ports := (List.range 8).flatMap fun p =>
    (if (s.port p).forcePend then [Due.forcePort p] else [])
    ++ ((s.xpt.qps.filter fun e => e.2.forcePend && e.2.port == p).map fun e => Due.qpCancel e.1)
  let boards := ((List.range 16).filter fun n => s.forced.contains (bmPage n)).map fun n => Due.forceChannel (bmPage n)
  let chans := ((s.forced.filter fun pn => decide (0x1000 ≤ pn)).foldl (fun acc pn => Ev.insert ⟨pn, 0, 6, pn⟩ acc) []).map
    fun e => Due.forceChannel e.page
  engines ++ ports ++ boards ++ chans

/-- Queue pairs that owe an acknowledgement (R330). -/
def State.ackDue (s : State) : List Due := (s.xpt.qps.filter fun e => e.2.unacked != 0).map fun e => Due.delayedAck e.1

/-- Commands taken in the tick that ends are sampled, and the firmware takes more (R367, R371). -/
def State.sampleCommands (s : State) : State :=
  let s := s.modSrv fun v => { v with cmds := v.cmds.map fun x => { x with sampled := true }, taken := 0 }
  s.cplFlush.intake

/-- Tide takes the boundary's value, the pending events are sampled, and each unit's commit is found due or missed. -/
def State.boundaryFirst (s : State) (v : Nat) (jump : Bool) : State := s.advance v jump

/-- What follows the sampling of events at a boundary, but for the power controller's part: Ethernet buffers, held timers, snapshots and the
firmware's commands. -/
def State.boundaryLast (s : State) (trip : Bool) : State :=
  let s := s.releaseHeld
  let s := ((s.each ((List.range 8).filter s.ethernet) State.ethDrain).holdTimers).snapBoundary
  if trip then s else s.sampleCommands

/-- The firmware's resolution starts anew at a boundary. After a trip it takes no action there: no event is in order until the next one
(R453). -/
def State.orderAnew (s : State) (trip : Bool) : State :=
  s.modSrv fun v => { v with order := if trip then 11 * 8192 else 0, rowOrder := 0 }

/-- The tick ends: the commands of its boundary that are still unresolved are, then what follows them is performed, and QUERY is
answered. -/
def State.endTick (s : State) : State :=
  let s := s.settleFirm.within firmFoot State.resolveAll
  (s.settleTo true).within firmFoot State.queryWrite

/-- A boundary at tide v. The work that it makes due is performed by commands of its own or before the next command. At the boundary
of a trip none is: it comes due at the next one (R453; log 152). -/
def State.boundary (s : State) (v power : Nat) (jump : Bool) : State :=
  let s := s.endTick
  let prev := s.tick
  let seen := min prev (s.tide.last.toNat / 1024)
  let trip := s.pwr.trip.isSome
  let s := s.within { regs := true, tide := true, events := true } (·.boundaryFirst v jump)
  let s := s.within moveFoot State.sampleLower
  let s := s.within { regs := true, events := true } State.writeLogs
  let s := s.tripSample.within { regs := true, events := true } State.sampleAll
  let c := s.commitBoundary
  let s := s.within { regs := true, commit := true, events := true } fun _ => c.1
  let timeout := if s.timeoutDue c.2 then [Due.mixedTimeout] else []
  let s := (s.powerTick power).within dueFoot (·.boundaryLast trip)
  let s := s.within { srv := true } (·.orderAnew trip)
  let t := s.stepBoundary seen
  let firm := if s.running then [Due.schedule prev] else []
  let l := if trip then s.ackDue ++ timeout else c.2 ++ s.ticksDue ++ s.forcedDue ++ s.ackDue ++ timeout ++ firm ++ t.2
  let s := s.within { tide := true } fun _ => t.1
  if l.isEmpty then s.within { regs := true, ports := true } State.gather else { s with due := l }

/-- A boundary of the device's own count, power being the energy of the tick that ends in W. -/
def State.tickBoundary (s : State) (power : Nat) : State :=
  if s.tideState = 0 then s else s.boundary s.boundaryTide power false

/-- A jump: a load of TIDE_SET that is armed, or, in ACQUIRE, a step forward to the master's tide (R30, R33). The power of
the tick that it ends is free. -/
def State.tideJump (s : State) (master : Nat) : State :=
  let power := s.free % 2 ^ 16
  if s.tideState = 0 then s
  else if s.loadTaken then s.drawn.boundary s.boundaryTide power false
  else if s.tide.jumpDue ∧ s.tideState = 1 ∧ !s.isMaster ∧ s.nextBoundary ≤ master then s.drawn.boundary master power true
  else s

end Sys2Proof.Machine
end

