-- ==== Sys2Proof/Machine/Connect.lean ====
section
/-! DEFINITION. Connection management (R326): CM packets received on queue pair 0, and the messages REQ, REP, RTU and REJ with which
the serving firmware sets up a connection and agrees its version (R55, R56). -/
namespace Sys2Proof.Machine

/-- A CM message (Table 13-14). -/
structure CmMsg where
  type : Nat
  mode : Nat
  pmtu : Nat
  reason : Nat
  qpn : Nat
  peer : Nat
  spsn : Nat
  wndMax : Nat
  low : Nat
  high : Nat
  agreed : Nat
  pkey : Nat
deriving DecidableEq, Repr

def CmMsg.bytes (m : CmMsg) : List Byte :=
  bytesLE 1 m.type ++ bytesLE 1 m.mode ++ bytesLE 1 m.pmtu ++ bytesLE 1 m.reason ++ bytesLE 2 m.qpn ++ bytesLE 2 m.peer
  ++ bytesLE 4 m.spsn ++ bytesLE 2 m.wndMax ++ bytesLE 2 m.low ++ bytesLE 2 m.high ++ bytesLE 2 m.agreed ++ bytesLE 2 m.pkey
  ++ List.replicate 42 0

def cmOf (b : List Byte) : CmMsg :=
  let f (at_ n : Nat) : Nat := natLE (slice b at_ n)
  { type := f 0 1, mode := f 1 1, pmtu := f 2 1, reason := f 3 1, qpn := f 4 2, peer := f 6 2, spsn := f 8 3, wndMax := f 0xC 2,
    low := f 0xE 2, high := f 0x10 2, agreed := f 0x12 2, pkey := f 0x14 2 }

/-- The firmware sends a CM message to a device, under the key of queue pair 0. -/
def State.cmSend (s : State) (dev : Nat) (m : CmMsg) : State :=
  s.sendPacket 0 { (s.qp 0).packet 0xA 3 0 [] m.bytes with dstQpn := 0, dstDev := BitVec.ofNat 10 dev }

/-- The lowest queue pair in RESET that no connection holds; a connection that asks again keeps its own. -/
def State.cmQp (s : State) (dev peer : Nat) : Option Nat :=
  match s.srv.conns.find? fun c => c.dev == dev && c.peer == peer with
  | some c => some c.qpn
  | none => ((List.range (s.xpt.qps.length + s.srv.conns.length + 1)).map (· + 1)).find? fun n =>
      decide (n < 65536) && (s.qp n).state == 0 && !(s.srv.conns.any fun c => c.qpn == n)

/-- VER of a queue pair's context (Table 13-7). -/
def State.cmVersion (s : State) (n v : Nat) : State :=
  s.tableWrite Reg.xptQpcBase (256 * n + 8) (256 + (s.qp 0).port) (bytesLE 1 (v / 256 % 16 * 16 + v % 16))

/-- What stands against a REQ: the REASON of its REJ (Table 13-14), or the version and the queue pair. -/
def State.cmJudge (s : State) (dev : Nat) (m : CmMsg) : Nat ⊕ (Nat × Nat) :=
  match s.agreed xptPn (s.rf (blkProtoLimit xptPn) 0 16) m.low m.high with
  | none => .inl 1
  | some v =>
    if !s.pkeyKnown m.pkey then .inl 3
    else if 1 < m.mode ∨ 2 < m.pmtu ∨ m.wndMax = 0 ∨ 4096 < m.wndMax then .inl 4
    else match s.cmQp dev m.qpn with
      | none => .inl 2
      | some n => .inr (v, n)

/-- A message that came to queue pair 0 from a device (R326). A REQ is answered with REP, which carries the agreed version and a
first PSN of the firmware's own, or with REJ; a REP is answered with RTU, which gives the SPSN of the queue pair's context, or with REJ
where its VER_AGREED is not the version that R55 gives. Both sides write the version into VER of the context, the
rest of which is their configuration (DESIGN CHOICE, log 142). -/
def State.cmHandle (s : State) (dev : Nat) (m : CmMsg) : State :=
  match m.type with
  | 1 =>
    let answer : CmMsg := { m with peer := m.qpn, qpn := 0, low := s.xptVersions.1, high := s.xptVersions.2 }
    match s.cmJudge dev m with
    | .inl why => s.cmSend dev { answer with type := 4, reason := why, spsn := 0, agreed := 0 }
    | .inr (v, n) =>
      let s := (s.cmVersion n v).modSrv fun x => { x with
        conns := ⟨n, dev, m.qpn⟩ :: x.conns.filter fun c => c.qpn != n }
      s.drawn.cmSend dev { answer with type := 2, reason := 0, qpn := n, spsn := s.free % 2 ^ 24, agreed := v }
  | 2 =>
    if (s.qp m.peer).state ≠ 0 then s
    else if s.agreed xptPn (s.rf (blkProtoLimit xptPn) 0 16) m.low m.high ≠ some m.agreed then
      s.cmSend dev { m with type := 4, reason := 1, qpn := m.peer, peer := m.peer, spsn := 0, agreed := 0 }
    else
      let s := (s.cmVersion m.peer m.agreed).modSrv fun x => { x with
        conns := ⟨m.peer, dev, m.qpn⟩ :: x.conns.filter fun c => c.qpn != m.peer }
      let c := s.tableRead Reg.xptQpcBase (256 * m.peer + 0x22) 3 (256 + (s.qp 0).port)
      c.1.cmSend dev { m with type := 3, reason := 0, qpn := m.peer, peer := m.peer, spsn := natLE c.2.data, agreed := 0 }
  | 4 => s.modSrv fun x => { x with conns := x.conns.filter fun c => c.dev != dev || c.qpn != m.peer }
  | _ => s

/-- A CM packet fills QP 0's next receive WQE, or is dropped; the firmware then takes its message. -/
def State.rxCm (s : State) (p : Nat) (k : Packet) : State :=
  (s.takePacket p 0xA k fun s n =>
    let q := s.qp n
    if n ≠ 0 ∨ k.payload.length ≠ 64 ∨ !k.ext.isEmpty ∨ k.rsv ≠ 0 then s.count Reg.xptDropCnt 1
    else if q.rqDone = q.rqTail then s
    else
      let r := s.readRq 0 q.rqDone
      match r.2 with
      | none => r.1
      | some (va, len, tag, lsig) =>
        if badSig lsig.toNat then r.1.toError 0 none 3 (some (q.rqDone, 11)) k.psn false
        else if len < 64 then r.1.toError 0 none 3 (some (q.rqDone, 12)) k.psn false
        else
          let x := r.1.vSpanWrite q.local_ va 0 k.payload k.poison
          if x.2 ≠ 0 then x.1.toError 0 none 3 (some (q.rqDone, 10)) k.psn false
          else
            let s := x.1.finishRecv 0 q.rqDone tag lsig k.poison.toNat 64 k.pkey.toNat k.srcDev.toNat
            if s.running ∧ !k.poison then s.cmHandle k.srcDev.toNat (cmOf k.payload) else s).xptEnd

end Sys2Proof.Machine
end

