-- ==== Sys2Proof/Machine/Run.lean ====
section
/-! DEFINITION. How a command is performed: only by a powered device out of reset, after the work that is still due, and within
the parts of the state that are its own; and the accesses of requesters with their answers (R37 to R41, R299, R300, R441). -/
namespace Sys2Proof.Machine

/-- Power stands and RESET_N is high. -/
def State.up (s : State) : Bool := s.pwr.powered && s.pwr.resetN

/-- The state that a command finds: nothing is due any more. -/
def State.ready_ (s : State) : State := { s.settle with pending := s.pending }

/-- A command that changes what its footprint names. -/
def run (fp : Footprint) (f : State → State) (s : State) : Host.Outcome State Fault Refusal :=
  if s.up then .next (fp.apply s.ready_ (f s.ready_)) else .next s

/-- The state that the firmware finds when it resolves an event of the last boundary. -/
def State.readyFirm (s : State) : State := { s.settleFirm with pending := s.pending }

/-- A command with which the firmware resolves an event, ahead of the starts of step timers at the same boundary. -/
def runFirm (fp : Footprint) (f : State → State) (s : State) : Host.Outcome State Fault Refusal :=
  if s.up then .next (fp.apply s.readyFirm (f s.readyFirm)) else .next s

/-- A command that performs due work, or delivers a boundary. -/
def runWhole (f : State → State) (s : State) : Host.Outcome State Fault Refusal :=
  if s.up then .next { f s with pending := s.pending } else .next s

/-- A change of power or of RESET_N. -/
def runPower (f : State → State) (s : State) : Host.Outcome State Fault Refusal := .next { f s with pending := s.pending }

/-! ## Footprints -/

/-- What a task of a unit inside its engine may change. -/
def taskFoot : Footprint := { regs := true, events := true, engines := true }

/-- What the transport, which may reach memory, ports and token counters may change. -/
def packetFoot : Footprint :=
  { regs := true, events := true, engines := true, flights := true, mem := true, ports := true, xpt := true }

/-- What the mailbox may change. -/
def mailFoot : Footprint := { regs := true, events := true, sec := true }

/-- What a register access, which may reach every unit but the power controller may change. -/
def regFoot : Footprint :=
  { regs := true, tide := true, commit := true, events := true, engines := true, flights := true, forced := true
    mem := true, ports := true, xpt := true, srv := true, sec := true, tokens := true }

/-- What the memory path may change. -/
def memFoot : Footprint := { regs := true, events := true, mem := true }

/-- What a link may change. -/
def linkFoot : Footprint := { regs := true, events := true, ports := true }

/-! ## Accesses and their answers -/

/-- A write access and its answer. -/
def State.writeAccess (s : State) (r : Requester) (a : RegAcc) (late : List Nat) : State :=
  let w := s.regWrite r a late
  w.1.emit (.reg r w.2 0)

/-- The words that an access reaches at block pages. -/
def State.accessWords (s : State) (a : RegAcc) : List (Nat × Word) :=
  if isBlanket a.off then (s.blanketPages a.off).flatMap fun pn => (accParts a).map fun w => (0x1000 * pn + w.1 % 0x1000, w.2)
  else accParts a

/-- A commit request: a write that reaches an SH field (R46). -/
def State.commitAccess (s : State) (r : Requester) (a : RegAcc) : State :=
  if !(shParts (s.accessWords a)).isEmpty then s.writeAccess r a [] else s

/-- A write to a blanket page (R51). -/
def State.blanketAccess (s : State) (r : Requester) (a : RegAcc) (late : List Nat) : State :=
  if isBlanket a.off then s.writeAccess r a late else s

/-- A read of one register word and its answer. -/
def State.readAccess (s : State) (r : Requester) (off : Nat) : State :=
  if !s.keyed r then (s.refuse off).emit (.reg r false 0)
  else
    let x := s.regRead { off := off, size := 4, data := 0 }
    x.1.emit (.reg r x.2.isSome (x.2.getD 0))

/-- A read of TIDE_NOW[31:0] that finds tide elapsed ns into its tick. -/
def State.tideNowRead (s : State) (r : Requester) (elapsed : Nat) : State :=
  if !s.keyed r then (s.refuse Reg.tideNow).emit (.reg r false 0)
  else
    let x := s.tideLow elapsed
    x.1.emit (.reg r true (x.2.setWidth 64))

/-- A write of SEC_MBX_CTRL, which R39 and R40 refuse to peers. -/
def State.mbxCtrlAccess (s : State) (r : Requester) (f : State → State) : State :=
  if mayWrite r Reg.secMbxCtrl then (f s).emit (.reg r true 0) else (s.refuse Reg.secMbxCtrl).emit (.reg r false 0)

/-- A read of SEC_MBX_OUT and its answer. -/
def State.mbxOutput (s : State) (r : Requester) : State :=
  if !s.keyed r then (s.refuse Reg.secMbxOut).emit (.reg r false 0)
  else
    let x := s.mbxRead
    x.1.emit (.mbx r x.2)

/-! ## The host's window (R41, R299, R300) -/

/-- An access of the upper half of the window goes to the peer that GTX_PEER_DEV names, and waits for its completion. -/
def State.forwardAccess (s : State) (tag : BitVec 16) (write : Bool) (a : RegAcc) : State :=
  let dev := s.rf Reg.gtxPeerDev 0 10
  (s.emit (.forwarded (BitVec.ofNat 10 dev) (BitVec.ofNat 16 (s.rf Reg.gtxPeerPkey 0 16)) tag write
    { a with off := a.off - regSpace })).modXpt fun x => { x with fwd := x.fwd ++ [⟨dev, tag, if write then 0 else a.size⟩] }

/-- REG_RD. -/
def State.hostRegRead (s : State) (tag : BitVec 16) (off size : Nat) : State :=
  if !s.gp0Up then s
  else if regSpace ≤ off ∧ off < 2 * regSpace then s.forwardAccess tag false { off := off, size := size, data := 0 }
  else
    let x := s.regRead { off := off, size := size, data := 0 }
    x.1.regCpl tag x.2.isSome size (x.2.getD 0)

/-- REG_WR. -/
def State.hostRegWrite (s : State) (tag : BitVec 16) (a : RegAcc) : State :=
  if !s.gp0Up then s
  else if regSpace ≤ a.off ∧ a.off < 2 * regSpace then s.forwardAccess tag true a
  else
    let w := s.regWrite .host a []
    w.1.regCpl tag w.2 0 0

/-- DOORBELL (R300). -/
def State.doorbell (s : State) (off : Nat) (data : Dword) : State :=
  if !s.gp0Up then s
  else if isDoorbell off ∧ off % 8 = 0 then (s.regWrite .host { off := off, size := 8, data := data } []).1
  else if off = Reg.srvCmdTail then (s.regWrite .host { off := off, size := 4, data := data &&& 0xFFFFFFFF } []).1
  else s.raise gtxPn 1 10 264

/-! ## The sideband (R441) -/

/-- A block read of four bytes; an offset that is not a multiple of 4 names no register and reads zero. -/
def State.smbRead (s : State) : State :=
  let off := s.pwr.smbOff.toNat
  if off % 4 ≠ 0 then s.emit (.smb true 0)
  else let x := s.viewRead (Reg.pwrPage + off); x.1.emit (.smb true x.2)

/-- A block write of six bytes. -/
def State.smbWrite (s : State) (off : Nat) (v : Word) : State :=
  if off = 0x104 then (s.capBmcWrite v).emit (.smb true 0)
  else if off = 0x108 then (s.wb Reg.pwrCtrl 0 (v.getLsbD 0)).emit (.smb true 0)
  else if off = 0x18 then (s.plainWrite (blkEvt pwrPn) v).emit (.smb true 0)
  else s.emit (.smb false 0)

end Sys2Proof.Machine
end

