-- ==== Sys2Proof/Machine/RowsAttn.lean ====
section
/-! DEFINITION. The meanings: tasks of the attention pipeline (chapter 8). -/
namespace Sys2Proof.Machine

/-- ATTN_FWD (R161). -/
def execAttnFwd (e : Fin 256) (q : Fin 4) (s : State) : Host.Outcome State Fault Refusal :=
  run moveFoot (fun s => s.startTask e.val q.val .attnFwd noSlots (attnDests false) (performAttn false)) s

/-- ATTN_MERGE (R170). -/
def execAttnMerge (e : Fin 256) (q : Fin 4) (s : State) : Host.Outcome State Fault Refusal :=
  run taskFoot (fun s => s.startTask e.val q.val .attnMerge noSlots mergeDests performMerge) s

/-- ATTN_BWD (R177). -/
def execAttnBwd (e : Fin 256) (q : Fin 4) (s : State) : Host.Outcome State Fault Refusal :=
  run moveFoot (fun s => s.startTask e.val q.val .attnBwd noSlots (attnDests true) (performAttn true)) s

end Sys2Proof.Machine
end

