-- ==== Sys2Proof/Machine/RowsBoot.lean ====
section
/-! DEFINITION. The meanings: boot, resets and power (chapter 19). -/
namespace Sys2Proof.Machine

/-- RESET_ASSERT (R474). -/
def execResetAssert (s : State) : Host.Outcome State Fault Refusal := runPower (fun s => s.resetAssert) s

/-- RESET_RELEASE (R455). -/
def execResetRelease (s : State) : Host.Outcome State Fault Refusal := runPower (fun s => s.resetRelease) s

/-- POWER_REMOVAL (R445). -/
def execPowerRemoval (s : State) : Host.Outcome State Fault Refusal := runPower (fun s => s.powerRemoval) s

/-- POWER_UP (R443). -/
def execPowerUp (s : State) : Host.Outcome State Fault Refusal := runPower (fun s => s.powerUp) s

/-- FUSE_LOAD (R456). -/
def execFuseLoad (f : FuseSense) (s : State) : Host.Outcome State Fault Refusal :=
  run { regs := true, tide := true, events := true, ports := true, sec := true } (fun s => s.fuseLoad f) s

/-- FETCH (R463). -/
def execFetch (f : FlashRead) (s : State) : Host.Outcome State Fault Refusal :=
  run { regs := true, events := true, ports := true, sec := true } (fun s => s.fetchImage f) s

/-- VERIFY (R466). -/
def execVerify (s : State) : Host.Outcome State Fault Refusal :=
  run { regs := true, events := true, ports := true, sec := true } (fun s => s.verifyImage) s

/-- CONFIG (R468). -/
def execConfig (s : State) : Host.Outcome State Fault Refusal := run regFoot (fun s => s.configure) s

/-- WR32 (R468). -/
def execWr32 (s : State) : Host.Outcome State Fault Refusal := run regFoot (fun s => s.record 1 0) s

/-- WR64 (R468). -/
def execWr64 (s : State) : Host.Outcome State Fault Refusal := run regFoot (fun s => s.record 2 0) s

/-- POLL32 (R468). -/
def execPoll32 (elapsed : Word) (s : State) : Host.Outcome State Fault Refusal :=
  run regFoot (fun s => s.record 3 elapsed.toNat) s

/-- DELAY (R467). -/
def execDelay (elapsed : Word) (s : State) : Host.Outcome State Fault Refusal :=
  run regFoot (fun s => s.record 4 elapsed.toNat) s

/-- RELEASED (R469). -/
def execReleased (s : State) : Host.Outcome State Fault Refusal :=
  run { regs := true, events := true, ports := true, sec := true } (fun s => s.release) s

/-- PWR_RESET (R475). -/
def execPwrReset (v : Word) (s : State) : Host.Outcome State Fault Refusal := run mailFoot (fun s => s.resetRequest v) s

/-- WARM_RESET (R474). -/
def execWarmReset (s : State) : Host.Outcome State Fault Refusal := runWhole (fun s => s.warmReset) s

end Sys2Proof.Machine
end

