-- ==== Sys2Proof/Machine/RowsEvent.lean ====
section
/-! DEFINITION. The meanings: interrupts, snapshots, errors, power and the sideband (chapters 17 and 18). -/
namespace Sys2Proof.Machine

/-- EVT_REARM (R429). -/
def execEvtRearm (v : Word) (s : State) : Host.Outcome State Fault Refusal :=
  run { regs := true } (fun s => s.evtRearm v) s

/-- TAKE (R433). -/
def execTake (s : State) : Host.Outcome State Fault Refusal :=
  run { regs := true, tide := true } (fun s => s.snapArm true false) s

/-- RELEASE (R433). -/
def execRelease (s : State) : Host.Outcome State Fault Refusal := run { regs := true } (fun s => s.snapRelease) s

/-- CLEAR (R434). -/
def execClear (s : State) : Host.Outcome State Fault Refusal :=
  run { regs := true, tide := true } (fun s => s.snapArm false true) s

/-- SPAD_UE (R417). -/
def execSpadUe (e : Fin 256) (w : SpadWhere) (s : State) : Host.Outcome State Fault Refusal :=
  run taskFoot (fun s => s.spadUe e.val w) s

/-- DATA_POISON_EXCEPTION (R419). -/
def execDataPoisonException (_n : Fin 4) (w : PoisonRecord) (s : State) : Host.Outcome State Fault Refusal :=
  run firmFoot (fun s => s.dataPoison w) s

/-- PWR_CAP_WRITE (R448). -/
def execPwrCapWrite (v : Word) (s : State) : Host.Outcome State Fault Refusal :=
  run { regs := true } (fun s => s.plainWrite Reg.pwrCap v) s

/-- PWR_CAP_BMC_WRITE (R448). -/
def execPwrCapBmcWrite (v : Word) (s : State) : Host.Outcome State Fault Refusal :=
  run { regs := true, events := true } (fun s => s.capBmcWrite v) s

/-- EMERG (R449). -/
def execEmerg (s : State) : Host.Outcome State Fault Refusal := run { regs := true } (fun s => s.wb Reg.pwrCtrl 0 true) s

/-- SMB_SET_OFFSET (R441). -/
def execSmbSetOffset (b0 : Byte) (b1 : Byte) (s : State) : Host.Outcome State Fault Refusal :=
  run { pwr := true } (fun s => s.smbSetOffset b0 b1) s

/-- SMB_READ (R441). -/
def execSmbRead (s : State) : Host.Outcome State Fault Refusal :=
  run { regs := true, tide := true, events := true, sec := true } (fun s => s.smbRead) s

/-- SMB_WRITE (R441). -/
def execSmbWrite (off : BitVec 12) (v : Word) (s : State) : Host.Outcome State Fault Refusal :=
  run { regs := true, events := true } (fun s => s.smbWrite off.toNat v) s

/-- SENSOR_READING (R452). -/
def execSensorReading (n : Fin 36) (temp : BitVec 10) (s : State) : Host.Outcome State Fault Refusal :=
  run { regs := true, events := true, ports := true, pwr := true } (fun s => s.sensorReading n.val temp) s

/-- PWR_GOOD_FALL (R453). -/
def execPwrGoodFall (s : State) : Host.Outcome State Fault Refusal :=
  run { regs := true, events := true, ports := true, pwr := true } (fun s => s.pwrGoodFall) s

/-- RAIL_FAULT (R453). -/
def execRailFault (r : Fin 38) (s : State) : Host.Outcome State Fault Refusal :=
  run { regs := true, events := true, ports := true, pwr := true } (fun s => s.railFault r.val) s

/-- ENG_ACC_DATA_READ (R126). -/
def execEngAccDataRead (e : Fin 256) (r : Requester) (s : State) : Host.Outcome State Fault Refusal :=
  run { regs := true, tide := true, events := true, sec := true } (fun s => s.readAccess r (Reg.engAccData e.val)) s

/-- TIDE_NOW_READ (R34). -/
def execTideNowRead (r : Requester) (elapsed : BitVec 10) (s : State) : Host.Outcome State Fault Refusal :=
  run { tide := true, events := true } (fun s => s.tideNowRead r elapsed.toNat) s

end Sys2Proof.Machine
end

