-- ==== Sys2Proof/Machine/RowsLink.lean ====
section
/-! DEFINITION. The meanings: links, fabric ports and the Gutex host link (chapter 12). -/
namespace Sys2Proof.Machine

/-- FAB_RETRAIN (R287). -/
def execFabRetrain (p : Fin 8) (s : State) : Host.Outcome State Fault Refusal :=
  run { regs := true, ports := true } (fun s => s.fullTraining p.val) s

/-- GTX_RETRAIN (R296). -/
def execGtxRetrain (s : State) : Host.Outcome State Fault Refusal :=
  run { regs := true, ports := true } (fun s => s.fullTraining 8) s

/-- PORT_RETRY_EXPIRY (R287). -/
def execPortRetryExpiry (p : Fin 8) (s : State) : Host.Outcome State Fault Refusal :=
  run { regs := true, ports := true } (fun s => s.retryExpiry p.val) s

/-- DETECT_TIMEOUT (R287). -/
def execDetectTimeout (p : Fin 9) (s : State) : Host.Outcome State Fault Refusal :=
  run { regs := true, ports := true } (fun s => s.detectTimeout p.val) s

/-- PEER_DETECTED (R287). -/
def execPeerDetected (p : Fin 9) (eth : Bool) (s : State) : Host.Outcome State Fault Refusal :=
  run { regs := true } (fun s => s.peerDetected p.val eth) s

/-- EQUALISE_DONE (R287). -/
def execEqualiseDone (p : Fin 9) (s : State) : Host.Outcome State Fault Refusal :=
  run { regs := true } (fun s => s.equaliseDone p.val) s

/-- QUALIFY_DONE (R289). -/
def execQualifyDone (p : Fin 9) (r : QualifyResult) (s : State) : Host.Outcome State Fault Refusal :=
  run linkFoot (fun s => s.qualifyDone p.val r) s

/-- NEGOTIATION_RECORD (R288). -/
def execNegotiationRecord (p : Fin 9) (r : NegRecord) (s : State) : Host.Outcome State Fault Refusal :=
  run { mem := true, regs := true, events := true, ports := true, tokens := true } (fun s => s.negotiate p.val r) s

/-- CODEWORD_RECEIVE (R280). -/
def execCodewordReceive (p : Fin 9) (c : Codeword) (s : State) : Host.Outcome State Fault Refusal :=
  run { regs := true, tide := true, events := true, ports := true } (fun s => s.codeword p.val c) s

/-- FLIT_RECEIVE (R283). -/
def execFlitReceive (p : Fin 9) (f : Flit) (s : State) : Host.Outcome State Fault Refusal :=
  run linkFoot (fun s => s.flitReceive p.val f) s

/-- LLR_TIMEOUT (R283). -/
def execLlrTimeout (p : Fin 9) (s : State) : Host.Outcome State Fault Refusal :=
  run linkFoot (fun s => s.llrTimeout p.val) s

/-- PACKET_SEND (R285). -/
def execPacketSend (p : Fin 9) (s : State) : Host.Outcome State Fault Refusal :=
  run { ports := true } (fun s => s.packetSend p.val) s

/-- LANE_LOSS_OF_LOCK (R290). -/
def execLaneLossOfLock (p : Fin 9) (lane : Fin 8) (s : State) : Host.Outcome State Fault Refusal :=
  run linkFoot (fun s => s.laneFail p.val lane.val) s

/-- LANE_CE_LIMIT (R290). -/
def execLaneCeLimit (p : Fin 9) (lane : Fin 8) (count : Nat) (s : State) : Host.Outcome State Fault Refusal :=
  run linkFoot (fun s => s.laneCe p.val lane.val count) s

/-- RETRAIN_TIMEOUT (R291). -/
def execRetrainTimeout (p : Fin 9) (s : State) : Host.Outcome State Fault Refusal :=
  run linkFoot (fun s => s.retrainTimeout p.val) s

/-- PORT_DRAINED (R340). -/
def execPortDrained (p : Fin 8) (s : State) : Host.Outcome State Fault Refusal :=
  run linkFoot (fun s => s.portDrained p.val) s

/-- ETH_FRAME_RECEIVE (R292). -/
def execEthFrameReceive (p : Fin 8) (f : EthFrame) (s : State) : Host.Outcome State Fault Refusal :=
  run { ports := true } (fun s => s.ethFrame p.val f) s

/-- PFC_FRAME_RECEIVE (R294). -/
def execPfcFrameReceive (p : Fin 8) (prio : Fin 8) (quanta : BitVec 16) (s : State) : Host.Outcome State Fault Refusal :=
  run { ports := true } (fun s => s.pfcReceive p.val prio.val quanta) s

/-- PFC_REFRESH (R294). -/
def execPfcRefresh (p : Fin 8) (prio : Fin 8) (s : State) : Host.Outcome State Fault Refusal :=
  run {} (fun s => s.pfcRefresh p.val prio.val) s

/-- PFC_STORM (R295). -/
def execPfcStorm (p : Fin 8) (prio : Fin 8) (s : State) : Host.Outcome State Fault Refusal :=
  run { events := true, ports := true } (fun s => s.pfcStorm p.val prio.val) s

/-- PFC_PAUSE_EXPIRY (R294). -/
def execPfcPauseExpiry (p : Fin 8) (prio : Fin 8) (s : State) : Host.Outcome State Fault Refusal :=
  run { ports := true } (fun s => s.pfcExpiry p.val prio.val) s

/-- REG_RD (R299). -/
def execRegRd (tag : BitVec 16) (off : Nat) (size : Nat) (s : State) : Host.Outcome State Fault Refusal :=
  run { regs := true, tide := true, events := true, ports := true, xpt := true, sec := true } (fun s => s.hostRegRead tag off size) s

/-- REG_WR (R299). -/
def execRegWr (tag : BitVec 16) (a : RegAcc) (s : State) : Host.Outcome State Fault Refusal :=
  run regFoot (fun s => s.hostRegWrite tag a) s

/-- DOORBELL (R300). -/
def execDoorbell (off : Nat) (data : Dword) (s : State) : Host.Outcome State Fault Refusal :=
  run regFoot (fun s => s.doorbell off data) s

/-- GTX_TS_DEV_PROD_WRITE (R304). -/
def execGtxTsDevProdWrite (v : Word) (s : State) : Host.Outcome State Fault Refusal :=
  run { mem := true, regs := true, events := true, ports := true, tokens := true } (fun s => s.tsDevProd v) s

/-- TS_FLUSH_EXPIRY (R304). -/
def execTsFlushExpiry (s : State) : Host.Outcome State Fault Refusal :=
  run { mem := true, regs := true, events := true, ports := true, tokens := true } (fun s => s.tsFlushExpiry) s

/-- TS_FLUSH (R304). -/
def execTsFlush (s : State) : Host.Outcome State Fault Refusal :=
  run { mem := true, regs := true, events := true, ports := true, tokens := true } (fun s => s.tsFlush) s

/-- GTX_TS_CONS_WRITE (R304). -/
def execGtxTsConsWrite (v : Word) (s : State) : Host.Outcome State Fault Refusal :=
  run { mem := true, regs := true, events := true, ports := true, tokens := true } (fun s => s.tsCons v) s

/-- TS_STALL (R304). -/
def execTsStall (s : State) : Host.Outcome State Fault Refusal :=
  run { events := true, tokens := true } (fun s => s.tsStall) s

end Sys2Proof.Machine
end

