-- ==== Sys2Proof/Machine/RowsMatrix.lean ====
section
/-! DEFINITION. The meanings: tasks of the matrix unit (chapters 5 and 6, R120, R209). -/
namespace Sys2Proof.Machine

/-- MMA_FP8 (R103). -/
def execMmaFp8 (e : Fin 256) (q : Fin 4) (s : State) : Host.Outcome State Fault Refusal :=
  run taskFoot (fun s => s.startTask e.val q.val .mmaFp8 mmaSlots mmaDests (performMma .mmaFp8)) s

/-- MMA_CODE (R103). -/
def execMmaCode (e : Fin 256) (q : Fin 4) (s : State) : Host.Outcome State Fault Refusal :=
  run taskFoot (fun s => s.startTask e.val q.val .mmaCode mmaSlots mmaDests (performMma .mmaCode)) s

/-- MMA_INT8 (R108). -/
def execMmaInt8 (e : Fin 256) (q : Fin 4) (s : State) : Host.Outcome State Fault Refusal :=
  run taskFoot (fun s => s.startTask e.val q.val .mmaInt8 mmaSlots mmaDests (performMma .mmaInt8)) s

/-- MMA_BF16 (R106). -/
def execMmaBf16 (e : Fin 256) (q : Fin 4) (s : State) : Host.Outcome State Fault Refusal :=
  run taskFoot (fun s => s.startTask e.val q.val .mmaBf16 mmaSlots mmaDests (performMma .mmaBf16)) s

/-- TILE_ZERO (R110). -/
def execTileZero (e : Fin 256) (q : Fin 4) (s : State) : Host.Outcome State Fault Refusal :=
  run taskFoot (fun s => s.startTask e.val q.val .tileZero tileOutSlots tileZeroDests performTileZero) s

/-- TILE_OUT (R120). -/
def execTileOut (e : Fin 256) (q : Fin 4) (s : State) : Host.Outcome State Fault Refusal :=
  run taskFoot (fun s => s.startTask e.val q.val .tileOut tileOutSlots tileOutDests performTileOut) s

/-- KV_APPEND (R194). -/
def execKvAppend (e : Fin 256) (q : Fin 4) (s : State) : Host.Outcome State Fault Refusal :=
  run moveFoot (fun s => s.startTask e.val q.val .kvAppend tileOutSlots appendDests performKvAppend) s

/-- TILE_SAVE (R125). -/
def execTileSave (e : Fin 256) (q : Fin 4) (s : State) : Host.Outcome State Fault Refusal :=
  run moveFoot (fun s => s.startTask e.val q.val .tileSave allSlots tileSaveDests performTileSave) s

/-- TILE_LOAD (R125). -/
def execTileLoad (e : Fin 256) (q : Fin 4) (s : State) : Host.Outcome State Fault Refusal :=
  run moveFoot (fun s => s.startTask e.val q.val .tileLoad allSlots tileLoadDests performTileLoad) s

end Sys2Proof.Machine
end

