-- ==== Sys2Proof/Machine/RowsMem.lean ====
section
/-! DEFINITION. The meanings: the memory path, the tiers and translation (chapters 10 and 11). -/
namespace Sys2Proof.Machine

/-- STACK_ACCESS (R224). -/
def execStackAccess (a : StackAcc) (s : State) : Host.Outcome State Fault Refusal :=
  run memFoot (fun s => s.stackAccess a) s

/-- NMA_OPERATION (R229). -/
def execNmaOperation (a : NmaAcc) (s : State) : Host.Outcome State Fault Refusal := run memFoot (fun s => s.nmaAccess a) s

/-- LOCK_TIMEOUT (R229). -/
def execLockTimeout (chan : Fin 4096) (s : State) : Host.Outcome State Fault Refusal :=
  run memFoot (fun s => s.lockTimeout chan.val) s

/-- SCRUB_READ (R220). -/
def execScrubRead (chan : Fin 4096) (upset : Upset) (s : State) : Host.Outcome State Fault Refusal :=
  run memFoot (fun s => s.scrubNext chan.val upset) s

/-- REFRESH (R222). -/
def execRefresh (chan : Fin 4096) (s : State) : Host.Outcome State Fault Refusal :=
  run { mem := true } (fun s => s.refreshNext chan.val) s

/-- DIE_TEMP_READING (R222). -/
def execDieTempReading (core : Fin 8) (die : Fin 16) (temp : BitVec 10) (s : State) : Host.Outcome State Fault Refusal :=
  run { regs := true, events := true, mem := true, ports := true, pwr := true } (fun s => s.dieSensor core.val die.val temp) s

/-- WB_ALL (R227). -/
def execWbAll (core : Fin 8) (s : State) : Host.Outcome State Fault Refusal := run memFoot (fun s => s.wbAll core.val) s

/-- FLUSH_DONE (R227). -/
def execFlushDone (core : Fin 8) (s : State) : Host.Outcome State Fault Refusal :=
  run memFoot (fun s => s.flushDone core.val) s

/-- WC_FLUSH (R228). -/
def execWcFlush (core : Fin 8) (s : State) : Host.Outcome State Fault Refusal :=
  run memFoot (fun s => s.wcFlush core.val) s

/-- WC_TIMEOUT (R228). -/
def execWcTimeout (core : Fin 8) (s : State) : Host.Outcome State Fault Refusal :=
  run memFoot (fun s => s.wcTimeout core.val) s

/-- CCH_SRAM_ERROR (R221). -/
def execCchSramError (core : Fin 8) (w : SramWhere) (s : State) : Host.Outcome State Fault Refusal :=
  run memFoot (fun s => s.sramError core.val w) s

/-- TG_START (R235). -/
def execTgStart (chan : Fin 4096) (s : State) : Host.Outcome State Fault Refusal :=
  run { regs := true, mem := true } (fun s => s.tgStart chan.val) s

/-- TG_STOP (R235). -/
def execTgStop (chan : Fin 4096) (s : State) : Host.Outcome State Fault Refusal :=
  run { regs := true } (fun s => s.tgStop chan.val) s

/-- TG_LINE_OPERATION (R235). -/
def execTgLineOperation (chan : Fin 4096) (upset : Upset) (s : State) : Host.Outcome State Fault Refusal :=
  run memFoot (fun s => s.tgLineOp chan.val upset) s

/-- TG_DONE (R235). -/
def execTgDone (chan : Fin 4096) (s : State) : Host.Outcome State Fault Refusal :=
  run memFoot (fun s => s.tgDone chan.val) s

/-- PAGE_WALK (R244). -/
def execPageWalk (engine : Option (Fin 256)) (ctx : Fin 64) (va : Nat) (s : State) : Host.Outcome State Fault Refusal :=
  run moveFoot (fun s => s.pageWalk (engine.map (·.val)) ctx.val va) s

/-- ENG_XL_INV (R250). -/
def execEngXlInv (e : Fin 256) (v : Dword) (s : State) : Host.Outcome State Fault Refusal :=
  run { engines := true } (fun s => s.engInv e.val v) s

/-- CORE_XL_INV (R252). -/
def execCoreXlInv (core : Fin 8) (v : Dword) (s : State) : Host.Outcome State Fault Refusal :=
  run { mem := true } (fun s => s.coreInv core.val v) s

/-- BOARD_ACCESS (R262). -/
def execBoardAccess (a : BoardAcc) (s : State) : Host.Outcome State Fault Refusal :=
  run memFoot (fun s => s.boardAccess a) s

/-- HOST_WINDOW_ACCESS (R263). -/
def execHostWindowAccess (a : HostAcc) (s : State) : Host.Outcome State Fault Refusal :=
  run { regs := true, events := true, mem := true, ports := true } (fun s => s.hostAccess a) s

/-- LOWER_TIER_LATE (R271). -/
def execLowerTierLate (i : Nat) (s : State) : Host.Outcome State Fault Refusal :=
  run moveFoot (fun s => s.lowerLate i false) s

/-- LOWER_TIER_FAILED (R271). -/
def execLowerTierFailed (i : Nat) (s : State) : Host.Outcome State Fault Refusal :=
  run moveFoot (fun s => s.lowerLate i true) s

/-- BOARD_TRAINED (R259). -/
def execBoardTrained (n : Fin 16) (s : State) : Host.Outcome State Fault Refusal :=
  run { regs := true, mem := true } (fun s => s.boardTrained n.val) s

/-- DMA_CPL (R301). -/
def execDmaCpl (tag : Nat) (status : BitVec 8) (bytes : List Byte) (s : State) : Host.Outcome State Fault Refusal :=
  run moveFoot (fun s => s.hostArrive tag (status == 0) bytes) s

end Sys2Proof.Machine
end

