-- ==== Sys2Proof/Machine/RowsMove.lean ====
section
/-! DEFINITION. The meanings: tasks of the data mover (chapters 4, 11). -/
namespace Sys2Proof.Machine

/-- LOAD (R254). -/
def execLoad (e : Fin 256) (q : Fin 4) (s : State) : Host.Outcome State Fault Refusal :=
  run moveFoot (fun s => s.startTask e.val q.val .load noSlots loadDests performLoad) s

/-- STORE (R254). -/
def execStore (e : Fin 256) (q : Fin 4) (s : State) : Host.Outcome State Fault Refusal :=
  run moveFoot (fun s => s.startTask e.val q.val .store noSlots storeDests performStore) s

/-- ACCUM (R254). -/
def execAccum (e : Fin 256) (q : Fin 4) (s : State) : Host.Outcome State Fault Refusal :=
  run moveFoot (fun s => s.startTask e.val q.val .accum noSlots storeDests performAccum) s

/-- COPY (R255). -/
def execCopy (e : Fin 256) (q : Fin 4) (s : State) : Host.Outcome State Fault Refusal :=
  run moveFoot (fun s => s.startTask e.val q.val .copy noSlots copyDests performCopy) s

/-- BRINE_PACK (R268). -/
def execBrinePack (e : Fin 256) (q : Fin 4) (s : State) : Host.Outcome State Fault Refusal :=
  run moveFoot (fun s => s.startTask e.val q.val .brinePack noSlots packDests performBrinePack) s

/-- BRINE_UNPACK (R268). -/
def execBrineUnpack (e : Fin 256) (q : Fin 4) (s : State) : Host.Outcome State Fault Refusal :=
  run moveFoot (fun s => s.startTask e.val q.val .brineUnpack noSlots unpackDests performBrineUnpack) s

end Sys2Proof.Machine
end

