-- ==== Sys2Proof/Machine/RowsReg.lean ====
section
/-! DEFINITION. The meanings: register accesses, enables and disables (chapter 3, R75, R76, R234, R272, R340, R494). -/
namespace Sys2Proof.Machine

/-- REG_WRITE (R38). -/
def execRegWrite (r : Requester) (a : RegAcc) (s : State) : Host.Outcome State Fault Refusal :=
  run regFoot (fun s => s.writeAccess r a []) s

/-- BLANKET_WRITE (R51). -/
def execBlanketWrite (r : Requester) (a : RegAcc) (late : List Nat) (s : State) : Host.Outcome State Fault Refusal :=
  run regFoot (fun s => s.blanketAccess r a late) s

/-- UNIT_ENABLE (R75). -/
def execUnitEnable (page : Nat) (s : State) : Host.Outcome State Fault Refusal := run moveFoot (fun s => s.unitOn page) s

/-- GRACEFUL_DISABLE (R75). -/
def execGracefulDisable (page : Nat) (s : State) : Host.Outcome State Fault Refusal :=
  run { regs := true, ports := true } (fun s => s.unitOff page) s

/-- FORCE_OFF (R494). -/
def execForceOff (page : Nat) (s : State) : Host.Outcome State Fault Refusal :=
  run { engines := true, forced := true, ports := true } (fun s => s.unitForceOff page) s

/-- DRAIN_COMPLETE (R75). -/
def execDrainComplete (e : Fin 256) (s : State) : Host.Outcome State Fault Refusal :=
  run { regs := true, events := true } (fun s => s.drainDone e.val) s

/-- FORCED_DISABLE_ENGINE (R76). -/
def execForcedDisableEngine (e : Fin 256) (s : State) : Host.Outcome State Fault Refusal :=
  runWhole (fun s => s.due_ (.forceEngine e.val)) s

/-- FORCED_DISABLE_CHANNEL (R234). -/
def execForcedDisableChannel (page : Nat) (s : State) : Host.Outcome State Fault Refusal :=
  runWhole (fun s => s.due_ (.forceChannel page)) s

/-- FORCED_DISABLE_PORT (R340). -/
def execForcedDisablePort (p : Fin 8) (s : State) : Host.Outcome State Fault Refusal :=
  runWhole (fun s => s.due_ (.forcePort p.val)) s

end Sys2Proof.Machine
end

