-- ==== Sys2Proof/Machine/RowsSec.lean ====
section
/-! DEFINITION. The meanings: identity, the mailbox and its commands (chapter 20). -/
namespace Sys2Proof.Machine

/-- IDENTITY_DERIVATION (R481). -/
def execIdentityDerivation (s : State) : Host.Outcome State Fault Refusal :=
  run { sec := true } (fun s => s.deriveIdentity) s

/-- MBX_CLAIM (R485). -/
def execMbxClaim (r : Requester) (v : Word) (s : State) : Host.Outcome State Fault Refusal :=
  run mailFoot (fun s => s.mbxCtrlAccess r (State.mbxClaim · r v)) s

/-- MBX_RELEASE (R485). -/
def execMbxRelease (r : Requester) (s : State) : Host.Outcome State Fault Refusal :=
  run mailFoot (fun s => s.mbxCtrlAccess r (State.mbxRelease · r)) s

/-- MBX_INPUT_WORD (R485). -/
def execMbxInputWord (r : Requester) (v : Dword) (s : State) : Host.Outcome State Fault Refusal :=
  run regFoot (fun s => s.writeAccess r { off := Reg.secMbxIn, size := 8, data := v } []) s

/-- MBX_OUTPUT_READ (R485). -/
def execMbxOutputRead (r : Requester) (s : State) : Host.Outcome State Fault Refusal :=
  run { regs := true, events := true, sec := true } (fun s => s.mbxOutput r) s

/-- GET_ID (R481). -/
def execGetId (s : State) : Host.Outcome State Fault Refusal := run mailFoot (fun s => s.getId) s

/-- GET_CHALLENGE (R487). -/
def execGetChallenge (s : State) : Host.Outcome State Fault Refusal := run mailFoot (fun s => s.getChallenge) s

/-- ATTEST (R491). -/
def execAttest (s : State) : Host.Outcome State Fault Refusal := run mailFoot (fun s => s.attest) s

/-- ENROLL (R483). -/
def execEnroll (progOk : Bool) (s : State) : Host.Outcome State Fault Refusal := run mailFoot (fun s => s.enroll progOk) s

/-- REVOKE (R483). -/
def execRevoke (progOk : Bool) (s : State) : Host.Outcome State Fault Refusal :=
  run mailFoot (fun s => s.revokeOwner progOk) s

/-- SET_PART_MODE (R460). -/
def execSetPartMode (progOk : Bool) (s : State) : Host.Outcome State Fault Refusal :=
  run mailFoot (fun s => s.setPartMode progOk) s

/-- ROLLBACK_ADVANCE (R484). -/
def execRollbackAdvance (progOk : Bool) (s : State) : Host.Outcome State Fault Refusal :=
  run mailFoot (fun s => s.rollbackAdvance progOk) s

/-- DEBUG_LOCK (R488). -/
def execDebugLock (progOk : Bool) (s : State) : Host.Outcome State Fault Refusal :=
  run mailFoot (fun s => s.debugLockCmd progOk) s

/-- PKEY_ADD (R489). -/
def execPkeyAdd (s : State) : Host.Outcome State Fault Refusal := run mailFoot (fun s => s.pkeyAdd) s

/-- PKEY_REMOVE (R490). -/
def execPkeyRemove (s : State) : Host.Outcome State Fault Refusal :=
  run { regs := true, events := true, mem := true, ports := true, sec := true } (fun s => s.pkeyRemove) s

/-- MGMT_KEY (R489). -/
def execMgmtKey (s : State) : Host.Outcome State Fault Refusal := run mailFoot (fun s => s.mgmtKeySet) s

/-- IMAGE (R470). -/
def execImage (s : State) : Host.Outcome State Fault Refusal := run mailFoot (fun s => s.imageCmd) s

end Sys2Proof.Machine
end

