-- ==== Sys2Proof/Machine/RowsSrv.lean ====
section
/-! DEFINITION. The meanings: the serving firmware (chapters 15, 16 and 17). -/
namespace Sys2Proof.Machine

/-- SRV_CMD_TAIL_WRITE (R367). -/
def execSrvCmdTailWrite (v : Word) (wrote : List HostSpan) (s : State) : Host.Outcome State Fault Refusal :=
  run firmFoot (fun s => (s.hostWrote wrote).srvTail v) s

/-- SUBMIT (R369). -/
def execSubmit (s : State) : Host.Outcome State Fault Refusal := runFirm firmFoot (fun s => s.command 1 fun s x => s.submit x.rec_ x.block) s

/-- CANCEL (R378). -/
def execCancel (s : State) : Host.Outcome State Fault Refusal := runFirm firmFoot (fun s => s.command 2 fun s x => s.cancel x.rec_) s

/-- PARK (R389). -/
def execPark (s : State) : Host.Outcome State Fault Refusal := runFirm firmFoot (fun s => s.command 3 fun s x => s.park x) s

/-- RESUME (R390). -/
def execResume (s : State) : Host.Outcome State Fault Refusal := runFirm firmFoot (fun s => s.command 4 fun s x => s.resume x.rec_) s

/-- DRAFT (R382). -/
def execDraft (s : State) : Host.Outcome State Fault Refusal := runFirm firmFoot (fun s => s.command 5 fun s x => s.draft x.rec_ x.block) s

/-- ADAPTER_LOAD (R385). -/
def execAdapterLoad (s : State) : Host.Outcome State Fault Refusal := runFirm firmFoot (fun s => s.command 6 fun s x => s.adapterLoad x.rec_) s

/-- ADAPTER_RETIRE (R385). -/
def execAdapterRetire (s : State) : Host.Outcome State Fault Refusal := runFirm firmFoot (fun s => s.command 7 fun s x => s.adapterRetire x.rec_) s

/-- BUDGET (R376). -/
def execBudget (s : State) : Host.Outcome State Fault Refusal := runFirm firmFoot (fun s => s.command 8 fun s x => s.budgetSet x.rec_) s

/-- QUERY (R368). -/
def execQuery (s : State) : Host.Outcome State Fault Refusal := runFirm firmFoot (fun s => s.command 9 fun s x => s.query x.rec_) s

/-- FENCE (R370). -/
def execFence (s : State) : Host.Outcome State Fault Refusal := runFirm firmFoot (fun s => s.command 10 fun s x => s.fence x) s

/-- SRV_CPL_CONS_WRITE (R371). -/
def execSrvCplConsWrite (v : Word) (s : State) : Host.Outcome State Fault Refusal := run firmFoot (fun s => s.srvCons v) s

/-- BASKET_BUILD (R374). -/
def execBasketBuild (s : State) : Host.Outcome State Fault Refusal :=
  runFirm { regs := true, events := true, engines := true, mem := true, ports := true, srv := true }
    (fun s => s.basketBuild) s

/-- ROW_COMPLETION (R381). -/
def execRowCompletion (row : Nat) (r : RowResult) (s : State) : Host.Outcome State Fault Refusal :=
  runFirm { regs := true, events := true, engines := true, mem := true, ports := true, srv := true, tokens := true }
    (fun s => s.rowCompletion row r) s

/-- WEIGHT_RELOAD_COMPLETE (R423). -/
def execWeightReloadComplete (page : Nat) (golden : List Nat) (frame : Nat) (s : State) : Host.Outcome State Fault Refusal :=
  runFirm { regs := true, events := true, engines := true, mem := true, ports := true, srv := true }
    (fun s => s.weightReload page golden frame) s

/-- RERUN_RELEASE (R423). -/
def execRerunRelease (s : State) : Host.Outcome State Fault Refusal :=
  run { regs := true, events := true, flights := true, mem := true, xpt := true, srv := true } (fun s => s.rerunRelease) s

/-- SWAP_COMPLETE (R379). -/
def execSwapComplete (i : Nat) (e : Fin 256) (ok : Bool) (s : State) : Host.Outcome State Fault Refusal :=
  runFirm firmFoot (fun s => s.swapComplete i e.val ok) s

/-- RESTORE_COMPLETE (R375). -/
def execRestoreComplete (i : Nat) (e : Fin 256) (ok : Bool) (s : State) : Host.Outcome State Fault Refusal :=
  runFirm firmFoot (fun s => s.restoreComplete i e.val ok) s

/-- THERMOS_MOVES_COMPLETE (R389). -/
def execThermosMovesComplete (i : Nat) (e : Fin 256) (ok : Bool) (s : State) : Host.Outcome State Fault Refusal :=
  runFirm firmFoot (fun s => s.thermosComplete i e.val ok) s

/-- PAGE_RELEASE (R374). -/
def execPageRelease (i : Nat) (s : State) : Host.Outcome State Fault Refusal := runFirm firmFoot (fun s => s.pageRelease i) s

/-- THERMOS_EXPIRY (R390). -/
def execThermosExpiry (i : Nat) (s : State) : Host.Outcome State Fault Refusal :=
  runFirm { regs := true, srv := true } (fun s => s.thermosExpiry i) s

/-- THERMOS_RELEASE (R390). -/
def execThermosRelease (i : Nat) (s : State) : Host.Outcome State Fault Refusal :=
  runFirm firmFoot (fun s => s.thermosRelease i) s

/-- TTFT_DEADLINE_EXPIRY (R384). -/
def execTtftDeadlineExpiry (i : Nat) (s : State) : Host.Outcome State Fault Refusal :=
  runFirm firmFoot (fun s => s.ttftExpiry i) s

/-- SRV_CORE_BEAT (R392). -/
def execSrvCoreBeat (n : Fin 4) (s : State) : Host.Outcome State Fault Refusal :=
  run { regs := true, srv := true } (fun s => s.coreBeat n.val) s

/-- HAMPER_TRACKER_START (R471). -/
def execHamperTrackerStart (s : State) : Host.Outcome State Fault Refusal :=
  run firmFoot (fun s => s.trackerStart) s

/-- CSW_SAVE (R395). -/
def execCswSave (e : Fin 256) (slot : BitVec 2) (s : State) : Host.Outcome State Fault Refusal :=
  run moveFoot (fun s => s.cswSave e.val slot.toNat) s

/-- CSW_LOAD (R398). -/
def execCswLoad (e : Fin 256) (slot : BitVec 2) (s : State) : Host.Outcome State Fault Refusal :=
  run moveFoot (fun s => s.cswLoad e.val slot.toNat) s

/-- CSW_DONE (R395). -/
def execCswDone (e : Fin 256) (s : State) : Host.Outcome State Fault Refusal :=
  run { regs := true, events := true, engines := true, srv := true } (fun s => s.cswDone e.val) s

/-- CONTEXT_BLOCKED (R399). -/
def execContextBlocked (ctx : Fin 64) (s : State) : Host.Outcome State Fault Refusal :=
  runFirm { srv := true } (fun s => s.contextBlocked ctx.val) s

/-- SHARE_WINDOW (R402). -/
def execShareWindow (s : State) : Host.Outcome State Fault Refusal := run { srv := true } (fun s => s.shareWindow) s

/-- ACCT_PERIOD (R403). -/
def execAcctPeriod (s : State) : Host.Outcome State Fault Refusal := run firmFoot (fun s => s.acctPeriod) s

/-- STATIC_MODE_ENTRY (R406). -/
def execStaticModeEntry (v : Word) (s : State) : Host.Outcome State Fault Refusal :=
  run { regs := true } (fun s => s.rtCfg v) s

end Sys2Proof.Machine
end

