-- ==== Sys2Proof/Machine/RowsTask.lean ====
section
/-! DEFINITION. The meanings: queues, tokens and credits (chapter 4). -/
namespace Sys2Proof.Machine

/-- QUEUE_TAIL_WRITE (R58). -/
def execQueueTailWrite (e : Fin 256) (q : Fin 4) (v : Word) (s : State) : Host.Outcome State Fault Refusal :=
  run taskFoot (fun s => s.tailWrite e.val q.val v) s

/-- DESCRIPTOR_FETCH (R495). -/
def execDescriptorFetch (e : Fin 256) (q : Fin 4) (s : State) : Host.Outcome State Fault Refusal :=
  run moveFoot (fun s => s.fetch e.val q.val) s

/-- FSTOP_CLEAR (R495). -/
def execFstopClear (e : Fin 256) (q : Fin 4) (s : State) : Host.Outcome State Fault Refusal :=
  run moveFoot (fun s => s.fstopClear e.val q.val) s

/-- INVALID_DESCRIPTOR (R62). -/
def execInvalidDescriptor (e : Fin 256) (q : Fin 4) (s : State) : Host.Outcome State Fault Refusal :=
  run { regs := true, events := true, engines := true, flights := true, mem := true, ports := true }
    (fun s => s.startInvalid e.val q.val) s

/-- TASK_COMPLETE (R73). -/
def execTaskComplete (e : Fin 256) (q : Fin 4) (index : Word) (unitErr : Bool) (s : State) : Host.Outcome State Fault Refusal :=
  run { regs := true, events := true, engines := true, flights := true, mem := true, ports := true }
    (fun s => s.taskComplete e.val q.val index unitErr) s

/-- TOKEN_SIGNAL_ARRIVE (R64). -/
def execTokenSignalArrive (s : State) : Host.Outcome State Fault Refusal :=
  run { regs := true, events := true, flights := true, mem := true, xpt := true } (fun s => s.signalArrive) s

/-- CREDIT_GIVE_ARRIVE (R67). -/
def execCreditGiveArrive (s : State) : Host.Outcome State Fault Refusal :=
  run { regs := true, events := true, flights := true, mem := true } (fun s => s.giveArrive) s

/-- ENG_TC_ADD (R63). -/
def execEngTcAdd (e : Fin 256) (v : Word) (s : State) : Host.Outcome State Fault Refusal :=
  run { regs := true, events := true, flights := true, mem := true, xpt := true } (fun s => s.tcAdd e.val v) s

/-- ENG_TC_WRITE (R63). -/
def execEngTcWrite (e : Fin 256) (t : Fin 64) (v : Word) (s : State) : Host.Outcome State Fault Refusal :=
  run { regs := true, events := true } (fun s => s.tcWrite e.val t.val v) s

/-- ENG_CC_WRITE (R67). -/
def execEngCcWrite (e : Fin 256) (c : Fin 32) (v : Word) (s : State) : Host.Outcome State Fault Refusal :=
  run { regs := true, events := true } (fun s => s.ccWrite e.val c.val v) s

/-- STALL (R72). -/
def execStall (e : Fin 256) (s : State) : Host.Outcome State Fault Refusal := run taskFoot (fun s => s.stallCheck e.val) s

/-- NOP (R70). -/
def execNop (e : Fin 256) (q : Fin 4) (s : State) : Host.Outcome State Fault Refusal :=
  run { regs := true, events := true, engines := true, flights := true, mem := true, ports := true }
    (fun s => s.startNop e.val q.val) s

/-- TICK (R70). -/
def execTick (e : Fin 256) (q : Fin 4) (s : State) : Host.Outcome State Fault Refusal :=
  run { regs := true, events := true, engines := true, flights := true, mem := true, ports := true }
    (fun s => s.startTick e.val q.val) s

/-- EVENT (R70). -/
def execEvent (e : Fin 256) (q : Fin 4) (s : State) : Host.Outcome State Fault Refusal :=
  run taskFoot (fun s => s.startTask e.val q.val .event noSlots noDests performControl) s

end Sys2Proof.Machine
end

