-- ==== Sys2Proof/Machine/RowsTide.lean ====
section
/-! DEFINITION. The meanings: commands of the tide unit and of mode commits (chapter 2). -/
namespace Sys2Proof.Machine

/-- TICK_BOUNDARY (R12). -/
def execTickBoundary (power : BitVec 16) (s : State) : Host.Outcome State Fault Refusal :=
  runWhole (fun s => s.tickBoundary power.toNat) s

/-- TIME_REQ_SEND (R286). -/
def execTimeReqSend (p : Fin 8) (t1 : Nat) (s : State) : Host.Outcome State Fault Refusal :=
  run { tide := true, ports := true } (fun s => s.timeReqSend p.val t1) s

/-- TIME_REQ_RECEIVE (R286). -/
def execTimeReqReceive (p : Fin 8) (m : TimeMsg) (t2 : Nat) (t3 : Nat) (s : State) : Host.Outcome State Fault Refusal :=
  run { regs := true, tide := true, events := true, ports := true } (fun s => s.timeReqReceive p.val m t2 t3) s

/-- TIME_RESP_RECEIVE (R12). -/
def execTimeRespReceive (p : Fin 8) (m : TimeMsg) (t4 : Nat) (s : State) : Host.Outcome State Fault Refusal :=
  run { regs := true, tide := true, events := true } (fun s => s.timeRespReceive p.val m t4) s

/-- PTP_MESSAGE_RECEIVE (R14). -/
def execPtpMessageReceive (p : Fin 8) (e : PtpEvent) (s : State) : Host.Outcome State Fault Refusal :=
  run { regs := true, tide := true, events := true } (fun s => s.ptpMessage p.val e) s

/-- HOLDOVER_ENTRY (R28). -/
def execHoldoverEntry (s : State) : Host.Outcome State Fault Refusal :=
  run { regs := true, tide := true, events := true } (fun s => s.holdoverEntry) s

/-- HOLDOVER_LIMIT_EXPIRY (R28). -/
def execHoldoverLimitExpiry (s : State) : Host.Outcome State Fault Refusal :=
  run { regs := true, tide := true, events := true } (fun s => s.holdoverExpiry) s

/-- TIDE_EN_WRITE (R11). -/
def execTideEnWrite (v : Bool) (s : State) : Host.Outcome State Fault Refusal :=
  run { regs := true, tide := true } (fun s => s.tideEn v) s

/-- TIDE_MASTER_WRITE (R32). -/
def execTideMasterWrite (v : Bool) (s : State) : Host.Outcome State Fault Refusal :=
  run { regs := true, tide := true } (fun s => s.tideMaster v) s

/-- SET_LOAD (R33). -/
def execSetLoad (s : State) : Host.Outcome State Fault Refusal := run { tide := true } (fun s => s.tideSetLoad) s

/-- REBASE (R30). -/
def execRebase (s : State) : Host.Outcome State Fault Refusal :=
  run { regs := true, tide := true } (fun s => s.tideRebase) s

/-- LOCK (R33). -/
def execLock (s : State) : Host.Outcome State Fault Refusal := run { tide := true } (fun s => s.tideLock) s

/-- TIDE_JUMP (R30). -/
def execTideJump (master : Dword) (s : State) : Host.Outcome State Fault Refusal :=
  runWhole (fun s => s.tideJump master.toNat) s

/-- STEP_TIMER_ARM (R22). -/
def execStepTimerArm (n : Fin 4) (ctrl : Word) (s : State) : Host.Outcome State Fault Refusal :=
  run { regs := true, tide := true } (fun s => s.stepCtrl n.val ctrl) s

/-- STEP_TIMER_START (R22). -/
def execStepTimerStart (n : Fin 4) (s : State) : Host.Outcome State Fault Refusal :=
  runWhole (fun s => s.due_ (.stepTimer n.val)) s

/-- COMMIT_REQUEST (R46). -/
def execCommitRequest (r : Requester) (a : RegAcc) (s : State) : Host.Outcome State Fault Refusal :=
  run regFoot (fun s => s.commitAccess r a) s

/-- MODE_COMMIT (R23). -/
def execModeCommit (page : Nat) (s : State) : Host.Outcome State Fault Refusal :=
  runWhole (fun s => s.due_ (.commit page)) s

/-- UNIT_LATE_COMMIT (R25). -/
def execUnitLateCommit (page : Nat) (s : State) : Host.Outcome State Fault Refusal :=
  runWhole (fun s => s.due_ (.lateCommit page)) s

/-- MIXED_TIMEOUT (R26). -/
def execMixedTimeout (s : State) : Host.Outcome State Fault Refusal := runWhole (fun s => s.due_ .mixedTimeout) s

end Sys2Proof.Machine
end

