-- ==== Sys2Proof/Machine/RowsVector.lean ====
section
/-! DEFINITION. The meanings: tasks of the vector stream unit (chapter 7). -/
namespace Sys2Proof.Machine

/-- CHAIN (R133). -/
def execChain (e : Fin 256) (q : Fin 4) (s : State) : Host.Outcome State Fault Refusal :=
  run taskFoot (fun s => s.startTask e.val q.val .chain chainSlots chainDests performChain) s

/-- PERMUTE (R141). -/
def execPermute (e : Fin 256) (q : Fin 4) (s : State) : Host.Outcome State Fault Refusal :=
  run taskFoot
    (fun s => s.startTask e.val q.val .permute noSlots (vecDests streamWrites) (performVec streamWrites permuteReads runPermute)) s

/-- SHUFFLE (R141). -/
def execShuffle (e : Fin 256) (q : Fin 4) (s : State) : Host.Outcome State Fault Refusal :=
  run taskFoot
    (fun s => s.startTask e.val q.val .shuffle noSlots (vecDests streamWrites) (performVec streamWrites shuffleReads runShuffle)) s

/-- PACK (R142). -/
def execPack (e : Fin 256) (q : Fin 4) (s : State) : Host.Outcome State Fault Refusal :=
  run taskFoot
    (fun s => s.startTask e.val q.val .pack noSlots (vecDests packWrites) (performVec packWrites packReads runPack)) s

/-- UNPACK (R142). -/
def execUnpack (e : Fin 256) (q : Fin 4) (s : State) : Host.Outcome State Fault Refusal :=
  run taskFoot
    (fun s => s.startTask e.val q.val .unpack noSlots (vecDests streamWrites) (performVec streamWrites unpackReads runUnpack)) s

/-- ROTARY (R143). -/
def execRotary (e : Fin 256) (q : Fin 4) (s : State) : Host.Outcome State Fault Refusal :=
  run taskFoot
    (fun s => s.startTask e.val q.val .rotary noSlots (vecDests streamWrites) (performVec streamWrites rotaryReads runRotary)) s

/-- TOPK (R145). -/
def execTopk (e : Fin 256) (q : Fin 4) (s : State) : Host.Outcome State Fault Refusal :=
  run taskFoot
    (fun s => s.startTask e.val q.val .topk noSlots (vecDests topkWrites) (performVec topkWrites topkReads runTopk)) s

/-- SAMPLE (R146). -/
def execSample (e : Fin 256) (q : Fin 4) (s : State) : Host.Outcome State Fault Refusal :=
  run taskFoot
    (fun s => s.startTask e.val q.val .sample noSlots (vecDests sampleWrites) (performVec sampleWrites sampleReads runSample)) s

/-- RANDOM (R144). -/
def execRandom (e : Fin 256) (q : Fin 4) (s : State) : Host.Outcome State Fault Refusal :=
  run taskFoot
    (fun s => s.startTask e.val q.val .random noSlots (vecDests streamWrites) (performVec streamWrites randomReads runRandom)) s

/-- QUANT (R147). -/
def execQuant (e : Fin 256) (q : Fin 4) (s : State) : Host.Outcome State Fault Refusal :=
  run moveFoot (fun s => s.startTask e.val q.val .quant noSlots quantDests performQuant) s

end Sys2Proof.Machine
end

