-- ==== Sys2Proof/Machine/RowsXpt.lean ====
section
/-! DEFINITION. The meanings: the transport and collectives (chapters 13 and 14). -/
namespace Sys2Proof.Machine

/-- QP_DOORBELL (R322). -/
def execQpDoorbell (qp : Fin 65536) (lo : Bool) (hi : Bool) (data : Dword) (s : State) : Host.Outcome State Fault Refusal :=
  run packetFoot (fun s => s.ring qp.val lo hi data) s

/-- SEND_WQE (R333). -/
def execSendWqe (qp : Fin 65536) (s : State) : Host.Outcome State Fault Refusal :=
  run packetFoot (fun s => s.startWqe qp.val opSend) s

/-- WRITE_WQE (R334). -/
def execWriteWqe (qp : Fin 65536) (s : State) : Host.Outcome State Fault Refusal :=
  run packetFoot (fun s => s.startWqe qp.val opWrite) s

/-- READ_WQE (R335). -/
def execReadWqe (qp : Fin 65536) (s : State) : Host.Outcome State Fault Refusal :=
  run packetFoot (fun s => s.startWqe qp.val opRead) s

/-- ATOMIC_WQE (R336). -/
def execAtomicWqe (qp : Fin 65536) (s : State) : Host.Outcome State Fault Refusal :=
  run packetFoot (fun s => s.startWqe qp.val opAtomic) s

/-- ADD_WRITE_WQE (R334). -/
def execAddWriteWqe (qp : Fin 65536) (s : State) : Host.Outcome State Fault Refusal :=
  run packetFoot (fun s => s.startWqe qp.val opAdd) s

/-- RAKE_WQE (R343). -/
def execRakeWqe (qp : Fin 65536) (s : State) : Host.Outcome State Fault Refusal :=
  run packetFoot (fun s => s.startWqe qp.val opRake) s

/-- SEND (R333). -/
def execSend (p : Fin 8) (k : Packet) (s : State) : Host.Outcome State Fault Refusal :=
  run packetFoot (fun s => s.rxSend p.val k) s

/-- WRITE (R334). -/
def execWrite (p : Fin 8) (k : Packet) (s : State) : Host.Outcome State Fault Refusal :=
  run regFoot (fun s => s.rxWrite p.val k false State.regAccess) s

/-- ADD_WRITE (R334). -/
def execAddWrite (p : Fin 8) (k : Packet) (s : State) : Host.Outcome State Fault Refusal :=
  run regFoot (fun s => s.rxWrite p.val k true State.regAccess) s

/-- READ_REQ (R335). -/
def execReadReq (p : Fin 8) (k : Packet) (s : State) : Host.Outcome State Fault Refusal :=
  run regFoot (fun s => s.rxRead p.val k State.regAccess) s

/-- READ_RESP (R335). -/
def execReadResp (p : Fin 8) (k : Packet) (s : State) : Host.Outcome State Fault Refusal :=
  run packetFoot (fun s => s.rxReadResp p.val k) s

/-- ATOMIC (R336). -/
def execAtomic (p : Fin 8) (k : Packet) (s : State) : Host.Outcome State Fault Refusal :=
  run packetFoot (fun s => s.rxAtomic p.val k) s

/-- ATOMIC_RESP (R336). -/
def execAtomicResp (p : Fin 8) (k : Packet) (s : State) : Host.Outcome State Fault Refusal :=
  run packetFoot (fun s => s.rxAtomicResp p.val k) s

/-- ACK (R330). -/
def execAck (p : Fin 8) (k : Packet) (s : State) : Host.Outcome State Fault Refusal :=
  run packetFoot (fun s => s.rxAck p.val k) s

/-- ABORT (R338). -/
def execAbort (p : Fin 8) (k : Packet) (s : State) : Host.Outcome State Fault Refusal :=
  run packetFoot (fun s => s.rxAbort p.val k) s

/-- CM (R326). -/
def execCm (p : Fin 8) (k : Packet) (s : State) : Host.Outcome State Fault Refusal :=
  run { packetFoot with srv := true } (fun s => s.rxCm p.val k) s

/-- DELAYED_ACK (R330). -/
def execDelayedAck (qp : Fin 65536) (s : State) : Host.Outcome State Fault Refusal :=
  runWhole (fun s => s.due_ (.delayedAck qp.val)) s

/-- RETRANSMIT_TIMEOUT (R331). -/
def execRetransmitTimeout (qp : Fin 65536) (s : State) : Host.Outcome State Fault Refusal :=
  run packetFoot (fun s => s.retransmit qp.val) s

/-- RNR_DELAY_EXPIRY (R330). -/
def execRnrDelayExpiry (qp : Fin 65536) (s : State) : Host.Outcome State Fault Refusal :=
  run packetFoot (fun s => s.rnrExpiry qp.val) s

/-- QP_INIT (R320). -/
def execQpInit (qp : Fin 65536) (s : State) : Host.Outcome State Fault Refusal :=
  run { regs := true, events := true, mem := true, ports := true, xpt := true } (fun s => s.qpInit qp.val) s

/-- QP_RTR (R320). -/
def execQpRtr (qp : Fin 65536) (s : State) : Host.Outcome State Fault Refusal :=
  run { regs := true, xpt := true } (fun s => s.qpRtr qp.val) s

/-- QP_RTS (R320). -/
def execQpRts (qp : Fin 65536) (s : State) : Host.Outcome State Fault Refusal :=
  run { regs := true, xpt := true } (fun s => s.qpRts qp.val) s

/-- QP_DRAIN (R320). -/
def execQpDrain (qp : Fin 65536) (s : State) : Host.Outcome State Fault Refusal :=
  run packetFoot (fun s => s.qpDrain qp.val) s

/-- QP_FORCE (R339). -/
def execQpForce (qp : Fin 65536) (s : State) : Host.Outcome State Fault Refusal :=
  run { regs := true, xpt := true } (fun s => s.qpForce qp.val) s

/-- QP_CANCEL (R339). -/
def execQpCancel (qp : Fin 65536) (s : State) : Host.Outcome State Fault Refusal :=
  runWhole (fun s => s.due_ (.qpCancel qp.val)) s

/-- QP_RESET (R320). -/
def execQpReset (qp : Fin 65536) (s : State) : Host.Outcome State Fault Refusal :=
  run { regs := true, xpt := true, srv := true } (fun s => s.qpReset qp.val) s

/-- MIGRATE (R320). -/
def execMigrate (qp : Fin 65536) (port : Fin 8) (s : State) : Host.Outcome State Fault Refusal :=
  run packetFoot (fun s => s.migrate qp.val port.val) s

/-- REGISTER (R316). -/
def execRegister (index : BitVec 20) (s : State) : Host.Outcome State Fault Refusal :=
  run { regs := true, events := true, mem := true, ports := true } (fun s => s.registerRegion index.toNat) s

/-- REVOKE_REGION (R316). -/
def execRevokeRegion (index : BitVec 20) (s : State) : Host.Outcome State Fault Refusal :=
  run { regs := true, events := true, mem := true, ports := true, xpt := true } (fun s => s.revokeFence index.toNat) s

/-- RGN_DONE (R316). -/
def execRgnDone (s : State) : Host.Outcome State Fault Refusal :=
  run { regs := true, events := true, mem := true, ports := true, xpt := true } (fun s => s.revokeDone) s

/-- CREW_ENABLE (R346). -/
def execCrewEnable (n : Fin 16) (ctrl : Word) (s : State) : Host.Outcome State Fault Refusal :=
  run { regs := true, xpt := true } (fun s => s.crewEnable n.val ctrl) s

/-- CREW_DISABLE (R356). -/
def execCrewDisable (n : Fin 16) (s : State) : Host.Outcome State Fault Refusal :=
  run { regs := true } (fun s => s.crewDisable n.val) s

/-- RAKE_REQ (R347). -/
def execRakeReq (p : Fin 8) (k : Packet) (s : State) : Host.Outcome State Fault Refusal :=
  run packetFoot (fun s => s.rxRake p.val k) s

/-- RAKE_REPLY (R350). -/
def execRakeReply (n : Fin 16) (e : Fin 256) (s : State) : Host.Outcome State Fault Refusal :=
  run { regs := true, events := true, engines := true, mem := true, ports := true, xpt := true }
    (fun s => s.rakeReply n.val e.val) s

/-- RAKE_RESP (R352). -/
def execRakeResp (p : Fin 8) (k : Packet) (s : State) : Host.Outcome State Fault Refusal :=
  run packetFoot (fun s => s.rxRakeResp p.val k) s

end Sys2Proof.Machine
end

