-- ==== Sys2Proof/Machine/Dispatch.lean ====
section
/-! DEFINITION. The effect of every command of spec/opcode_table.json: one arm per row. -/
namespace Sys2Proof.Machine

def exec (i : Instr) (s : State) : Host.Outcome State Fault Refusal :=
  match i with
  | .tickBoundary power => Sys2Proof.Machine.execTickBoundary power s
  | .timeReqSend p t1 => Sys2Proof.Machine.execTimeReqSend p t1 s
  | .timeReqReceive p m t2 t3 => Sys2Proof.Machine.execTimeReqReceive p m t2 t3 s
  | .timeRespReceive p m t4 => Sys2Proof.Machine.execTimeRespReceive p m t4 s
  | .ptpMessageReceive p e => Sys2Proof.Machine.execPtpMessageReceive p e s
  | .holdoverEntry => Sys2Proof.Machine.execHoldoverEntry s
  | .holdoverLimitExpiry => Sys2Proof.Machine.execHoldoverLimitExpiry s
  | .tideEnWrite v => Sys2Proof.Machine.execTideEnWrite v s
  | .tideMasterWrite v => Sys2Proof.Machine.execTideMasterWrite v s
  | .setLoad => Sys2Proof.Machine.execSetLoad s
  | .rebase => Sys2Proof.Machine.execRebase s
  | .lock => Sys2Proof.Machine.execLock s
  | .tideJump master => Sys2Proof.Machine.execTideJump master s
  | .stepTimerArm n ctrl => Sys2Proof.Machine.execStepTimerArm n ctrl s
  | .stepTimerStart n => Sys2Proof.Machine.execStepTimerStart n s
  | .commitRequest r a => Sys2Proof.Machine.execCommitRequest r a s
  | .modeCommit page => Sys2Proof.Machine.execModeCommit page s
  | .unitLateCommit page => Sys2Proof.Machine.execUnitLateCommit page s
  | .mixedTimeout => Sys2Proof.Machine.execMixedTimeout s
  | .regWrite r a => Sys2Proof.Machine.execRegWrite r a s
  | .blanketWrite r a late => Sys2Proof.Machine.execBlanketWrite r a late s
  | .unitEnable page => Sys2Proof.Machine.execUnitEnable page s
  | .gracefulDisable page => Sys2Proof.Machine.execGracefulDisable page s
  | .forceOff page => Sys2Proof.Machine.execForceOff page s
  | .drainComplete e => Sys2Proof.Machine.execDrainComplete e s
  | .forcedDisableEngine e => Sys2Proof.Machine.execForcedDisableEngine e s
  | .forcedDisableChannel page => Sys2Proof.Machine.execForcedDisableChannel page s
  | .forcedDisablePort p => Sys2Proof.Machine.execForcedDisablePort p s
  | .queueTailWrite e q v => Sys2Proof.Machine.execQueueTailWrite e q v s
  | .descriptorFetch e q => Sys2Proof.Machine.execDescriptorFetch e q s
  | .fstopClear e q => Sys2Proof.Machine.execFstopClear e q s
  | .invalidDescriptor e q => Sys2Proof.Machine.execInvalidDescriptor e q s
  | .taskComplete e q index unitErr => Sys2Proof.Machine.execTaskComplete e q index unitErr s
  | .tokenSignalArrive => Sys2Proof.Machine.execTokenSignalArrive s
  | .creditGiveArrive => Sys2Proof.Machine.execCreditGiveArrive s
  | .engTcAdd e v => Sys2Proof.Machine.execEngTcAdd e v s
  | .engTcWrite e t v => Sys2Proof.Machine.execEngTcWrite e t v s
  | .engCcWrite e c v => Sys2Proof.Machine.execEngCcWrite e c v s
  | .stall e => Sys2Proof.Machine.execStall e s
  | .nop e q => Sys2Proof.Machine.execNop e q s
  | .tick e q => Sys2Proof.Machine.execTick e q s
  | .event e q => Sys2Proof.Machine.execEvent e q s
  | .mmaFp8 e q => Sys2Proof.Machine.execMmaFp8 e q s
  | .mmaCode e q => Sys2Proof.Machine.execMmaCode e q s
  | .mmaInt8 e q => Sys2Proof.Machine.execMmaInt8 e q s
  | .mmaBf16 e q => Sys2Proof.Machine.execMmaBf16 e q s
  | .tileZero e q => Sys2Proof.Machine.execTileZero e q s
  | .tileOut e q => Sys2Proof.Machine.execTileOut e q s
  | .kvAppend e q => Sys2Proof.Machine.execKvAppend e q s
  | .tileSave e q => Sys2Proof.Machine.execTileSave e q s
  | .tileLoad e q => Sys2Proof.Machine.execTileLoad e q s
  | .chain e q => Sys2Proof.Machine.execChain e q s
  | .permute e q => Sys2Proof.Machine.execPermute e q s
  | .shuffle e q => Sys2Proof.Machine.execShuffle e q s
  | .pack e q => Sys2Proof.Machine.execPack e q s
  | .unpack e q => Sys2Proof.Machine.execUnpack e q s
  | .rotary e q => Sys2Proof.Machine.execRotary e q s
  | .topk e q => Sys2Proof.Machine.execTopk e q s
  | .sample e q => Sys2Proof.Machine.execSample e q s
  | .random e q => Sys2Proof.Machine.execRandom e q s
  | .quant e q => Sys2Proof.Machine.execQuant e q s
  | .attnFwd e q => Sys2Proof.Machine.execAttnFwd e q s
  | .attnMerge e q => Sys2Proof.Machine.execAttnMerge e q s
  | .attnBwd e q => Sys2Proof.Machine.execAttnBwd e q s
  | .load e q => Sys2Proof.Machine.execLoad e q s
  | .store e q => Sys2Proof.Machine.execStore e q s
  | .accum e q => Sys2Proof.Machine.execAccum e q s
  | .copy e q => Sys2Proof.Machine.execCopy e q s
  | .brinePack e q => Sys2Proof.Machine.execBrinePack e q s
  | .brineUnpack e q => Sys2Proof.Machine.execBrineUnpack e q s
  | .stackAccess a => Sys2Proof.Machine.execStackAccess a s
  | .nmaOperation a => Sys2Proof.Machine.execNmaOperation a s
  | .lockTimeout chan => Sys2Proof.Machine.execLockTimeout chan s
  | .scrubRead chan upset => Sys2Proof.Machine.execScrubRead chan upset s
  | .refresh chan => Sys2Proof.Machine.execRefresh chan s
  | .dieTempReading core die temp => Sys2Proof.Machine.execDieTempReading core die temp s
  | .wbAll core => Sys2Proof.Machine.execWbAll core s
  | .flushDone core => Sys2Proof.Machine.execFlushDone core s
  | .wcFlush core => Sys2Proof.Machine.execWcFlush core s
  | .wcTimeout core => Sys2Proof.Machine.execWcTimeout core s
  | .cchSramError core w => Sys2Proof.Machine.execCchSramError core w s
  | .tgStart chan => Sys2Proof.Machine.execTgStart chan s
  | .tgStop chan => Sys2Proof.Machine.execTgStop chan s
  | .tgLineOperation chan upset => Sys2Proof.Machine.execTgLineOperation chan upset s
  | .tgDone chan => Sys2Proof.Machine.execTgDone chan s
  | .pageWalk engine ctx va => Sys2Proof.Machine.execPageWalk engine ctx va s
  | .engXlInv e v => Sys2Proof.Machine.execEngXlInv e v s
  | .coreXlInv core v => Sys2Proof.Machine.execCoreXlInv core v s
  | .boardAccess a => Sys2Proof.Machine.execBoardAccess a s
  | .hostWindowAccess a => Sys2Proof.Machine.execHostWindowAccess a s
  | .lowerTierLate n => Sys2Proof.Machine.execLowerTierLate n s
  | .lowerTierFailed n => Sys2Proof.Machine.execLowerTierFailed n s
  | .boardTrained n => Sys2Proof.Machine.execBoardTrained n s
  | .fabRetrain p => Sys2Proof.Machine.execFabRetrain p s
  | .gtxRetrain => Sys2Proof.Machine.execGtxRetrain s
  | .portRetryExpiry p => Sys2Proof.Machine.execPortRetryExpiry p s
  | .detectTimeout p => Sys2Proof.Machine.execDetectTimeout p s
  | .peerDetected p eth => Sys2Proof.Machine.execPeerDetected p eth s
  | .equaliseDone p => Sys2Proof.Machine.execEqualiseDone p s
  | .qualifyDone p r => Sys2Proof.Machine.execQualifyDone p r s
  | .negotiationRecord p r => Sys2Proof.Machine.execNegotiationRecord p r s
  | .codewordReceive p c => Sys2Proof.Machine.execCodewordReceive p c s
  | .flitReceive p f => Sys2Proof.Machine.execFlitReceive p f s
  | .llrTimeout p => Sys2Proof.Machine.execLlrTimeout p s
  | .packetSend p => Sys2Proof.Machine.execPacketSend p s
  | .laneLossOfLock p lane => Sys2Proof.Machine.execLaneLossOfLock p lane s
  | .laneCeLimit p lane count => Sys2Proof.Machine.execLaneCeLimit p lane count s
  | .retrainTimeout p => Sys2Proof.Machine.execRetrainTimeout p s
  | .portDrained p => Sys2Proof.Machine.execPortDrained p s
  | .ethFrameReceive p f => Sys2Proof.Machine.execEthFrameReceive p f s
  | .pfcFrameReceive p prio quanta => Sys2Proof.Machine.execPfcFrameReceive p prio quanta s
  | .pfcRefresh p prio => Sys2Proof.Machine.execPfcRefresh p prio s
  | .pfcStorm p prio => Sys2Proof.Machine.execPfcStorm p prio s
  | .regRd tag off size => Sys2Proof.Machine.execRegRd tag off size s
  | .regWr tag a => Sys2Proof.Machine.execRegWr tag a s
  | .dmaCpl tag status bytes => Sys2Proof.Machine.execDmaCpl tag status bytes s
  | .doorbell off data => Sys2Proof.Machine.execDoorbell off data s
  | .gtxTsDevProdWrite v => Sys2Proof.Machine.execGtxTsDevProdWrite v s
  | .tsFlushExpiry => Sys2Proof.Machine.execTsFlushExpiry s
  | .tsFlush => Sys2Proof.Machine.execTsFlush s
  | .gtxTsConsWrite v => Sys2Proof.Machine.execGtxTsConsWrite v s
  | .tsStall => Sys2Proof.Machine.execTsStall s
  | .qpDoorbell qp lo hi data => Sys2Proof.Machine.execQpDoorbell qp lo hi data s
  | .sendWqe qp => Sys2Proof.Machine.execSendWqe qp s
  | .writeWqe qp => Sys2Proof.Machine.execWriteWqe qp s
  | .readWqe qp => Sys2Proof.Machine.execReadWqe qp s
  | .atomicWqe qp => Sys2Proof.Machine.execAtomicWqe qp s
  | .addWriteWqe qp => Sys2Proof.Machine.execAddWriteWqe qp s
  | .rakeWqe qp => Sys2Proof.Machine.execRakeWqe qp s
  | .send p k => Sys2Proof.Machine.execSend p k s
  | .write p k => Sys2Proof.Machine.execWrite p k s
  | .addWrite p k => Sys2Proof.Machine.execAddWrite p k s
  | .readReq p k => Sys2Proof.Machine.execReadReq p k s
  | .readResp p k => Sys2Proof.Machine.execReadResp p k s
  | .atomic p k => Sys2Proof.Machine.execAtomic p k s
  | .atomicResp p k => Sys2Proof.Machine.execAtomicResp p k s
  | .ack p k => Sys2Proof.Machine.execAck p k s
  | .abort p k => Sys2Proof.Machine.execAbort p k s
  | .cm p k => Sys2Proof.Machine.execCm p k s
  | .delayedAck qp => Sys2Proof.Machine.execDelayedAck qp s
  | .retransmitTimeout qp => Sys2Proof.Machine.execRetransmitTimeout qp s
  | .rnrDelayExpiry qp => Sys2Proof.Machine.execRnrDelayExpiry qp s
  | .qpInit qp => Sys2Proof.Machine.execQpInit qp s
  | .qpRtr qp => Sys2Proof.Machine.execQpRtr qp s
  | .qpRts qp => Sys2Proof.Machine.execQpRts qp s
  | .qpDrain qp => Sys2Proof.Machine.execQpDrain qp s
  | .qpForce qp => Sys2Proof.Machine.execQpForce qp s
  | .qpCancel qp => Sys2Proof.Machine.execQpCancel qp s
  | .qpReset qp => Sys2Proof.Machine.execQpReset qp s
  | .migrate qp port => Sys2Proof.Machine.execMigrate qp port s
  | .register index => Sys2Proof.Machine.execRegister index s
  | .revokeRegion index => Sys2Proof.Machine.execRevokeRegion index s
  | .rgnDone => Sys2Proof.Machine.execRgnDone s
  | .crewEnable n ctrl => Sys2Proof.Machine.execCrewEnable n ctrl s
  | .crewDisable n => Sys2Proof.Machine.execCrewDisable n s
  | .rakeReq p k => Sys2Proof.Machine.execRakeReq p k s
  | .rakeReply n e => Sys2Proof.Machine.execRakeReply n e s
  | .rakeResp p k => Sys2Proof.Machine.execRakeResp p k s
  | .srvCmdTailWrite v wrote => Sys2Proof.Machine.execSrvCmdTailWrite v wrote s
  | .submit => Sys2Proof.Machine.execSubmit s
  | .cancel => Sys2Proof.Machine.execCancel s
  | .park => Sys2Proof.Machine.execPark s
  | .resume => Sys2Proof.Machine.execResume s
  | .draft => Sys2Proof.Machine.execDraft s
  | .adapterLoad => Sys2Proof.Machine.execAdapterLoad s
  | .adapterRetire => Sys2Proof.Machine.execAdapterRetire s
  | .budget => Sys2Proof.Machine.execBudget s
  | .query => Sys2Proof.Machine.execQuery s
  | .fence => Sys2Proof.Machine.execFence s
  | .srvCplConsWrite v => Sys2Proof.Machine.execSrvCplConsWrite v s
  | .basketBuild => Sys2Proof.Machine.execBasketBuild s
  | .rowCompletion row r => Sys2Proof.Machine.execRowCompletion row r s
  | .weightReloadComplete page golden frame => Sys2Proof.Machine.execWeightReloadComplete page golden frame s
  | .rerunRelease => Sys2Proof.Machine.execRerunRelease s
  | .swapComplete n e ok => Sys2Proof.Machine.execSwapComplete n e ok s
  | .restoreComplete n e ok => Sys2Proof.Machine.execRestoreComplete n e ok s
  | .thermosMovesComplete n e ok => Sys2Proof.Machine.execThermosMovesComplete n e ok s
  | .pageRelease n => Sys2Proof.Machine.execPageRelease n s
  | .thermosExpiry n => Sys2Proof.Machine.execThermosExpiry n s
  | .thermosRelease n => Sys2Proof.Machine.execThermosRelease n s
  | .ttftDeadlineExpiry n => Sys2Proof.Machine.execTtftDeadlineExpiry n s
  | .srvCoreBeat n => Sys2Proof.Machine.execSrvCoreBeat n s
  | .cswSave e slot => Sys2Proof.Machine.execCswSave e slot s
  | .cswLoad e slot => Sys2Proof.Machine.execCswLoad e slot s
  | .cswDone e => Sys2Proof.Machine.execCswDone e s
  | .contextBlocked ctx => Sys2Proof.Machine.execContextBlocked ctx s
  | .shareWindow => Sys2Proof.Machine.execShareWindow s
  | .acctPeriod => Sys2Proof.Machine.execAcctPeriod s
  | .staticModeEntry v => Sys2Proof.Machine.execStaticModeEntry v s
  | .evtRearm v => Sys2Proof.Machine.execEvtRearm v s
  | .take => Sys2Proof.Machine.execTake s
  | .release => Sys2Proof.Machine.execRelease s
  | .clear => Sys2Proof.Machine.execClear s
  | .spadUe e w => Sys2Proof.Machine.execSpadUe e w s
  | .dataPoisonException n w => Sys2Proof.Machine.execDataPoisonException n w s
  | .pwrCapWrite v => Sys2Proof.Machine.execPwrCapWrite v s
  | .pwrCapBmcWrite v => Sys2Proof.Machine.execPwrCapBmcWrite v s
  | .emerg => Sys2Proof.Machine.execEmerg s
  | .smbSetOffset b0 b1 => Sys2Proof.Machine.execSmbSetOffset b0 b1 s
  | .smbRead => Sys2Proof.Machine.execSmbRead s
  | .smbWrite off v => Sys2Proof.Machine.execSmbWrite off v s
  | .sensorReading n temp => Sys2Proof.Machine.execSensorReading n temp s
  | .pwrGoodFall => Sys2Proof.Machine.execPwrGoodFall s
  | .railFault r => Sys2Proof.Machine.execRailFault r s
  | .resetAssert => Sys2Proof.Machine.execResetAssert s
  | .resetRelease => Sys2Proof.Machine.execResetRelease s
  | .powerRemoval => Sys2Proof.Machine.execPowerRemoval s
  | .fuseLoad f => Sys2Proof.Machine.execFuseLoad f s
  | .fetch f => Sys2Proof.Machine.execFetch f s
  | .verify => Sys2Proof.Machine.execVerify s
  | .config => Sys2Proof.Machine.execConfig s
  | .wr32 => Sys2Proof.Machine.execWr32 s
  | .wr64 => Sys2Proof.Machine.execWr64 s
  | .poll32 elapsed => Sys2Proof.Machine.execPoll32 elapsed s
  | .delay elapsed => Sys2Proof.Machine.execDelay elapsed s
  | .released => Sys2Proof.Machine.execReleased s
  | .pwrReset v => Sys2Proof.Machine.execPwrReset v s
  | .warmReset => Sys2Proof.Machine.execWarmReset s
  | .identityDerivation => Sys2Proof.Machine.execIdentityDerivation s
  | .mbxClaim r v => Sys2Proof.Machine.execMbxClaim r v s
  | .mbxRelease r => Sys2Proof.Machine.execMbxRelease r s
  | .mbxInputWord r v => Sys2Proof.Machine.execMbxInputWord r v s
  | .mbxOutputRead r => Sys2Proof.Machine.execMbxOutputRead r s
  | .getId => Sys2Proof.Machine.execGetId s
  | .getChallenge => Sys2Proof.Machine.execGetChallenge s
  | .attest => Sys2Proof.Machine.execAttest s
  | .enroll progOk => Sys2Proof.Machine.execEnroll progOk s
  | .revoke progOk => Sys2Proof.Machine.execRevoke progOk s
  | .setPartMode progOk => Sys2Proof.Machine.execSetPartMode progOk s
  | .rollbackAdvance progOk => Sys2Proof.Machine.execRollbackAdvance progOk s
  | .debugLock progOk => Sys2Proof.Machine.execDebugLock progOk s
  | .pkeyAdd => Sys2Proof.Machine.execPkeyAdd s
  | .pkeyRemove => Sys2Proof.Machine.execPkeyRemove s
  | .mgmtKey => Sys2Proof.Machine.execMgmtKey s
  | .image => Sys2Proof.Machine.execImage s
  | .powerUp => Sys2Proof.Machine.execPowerUp s
  | .hamperTrackerStart => Sys2Proof.Machine.execHamperTrackerStart s
  | .engAccDataRead e r => Sys2Proof.Machine.execEngAccDataRead e r s
  | .tideNowRead r elapsed => Sys2Proof.Machine.execTideNowRead r elapsed s
  | .pfcPauseExpiry p prio => Sys2Proof.Machine.execPfcPauseExpiry p prio s

end Sys2Proof.Machine
end

