-- ==== Sys2Proof/WellFormed.lean ====
section
/-! DEFINITION. Well-formed commands: operands that the wires of the device can carry. A command that no sender can put to the
device, such as a write that reaches past its line, is ill-formed; one that the device answers with an error is not. -/
namespace Sys2Proof

/-- An access of 4 bytes carries 4 bytes of data. The device itself answers other sizes, misaligned offsets and offsets that
map nothing (R37, R44). -/
def RegAcc.wf (a : RegAcc) : Bool := a.size != 4 || decide (a.data.toNat < 2 ^ 32)

/-- An access names one line: its bytes lie within it (R224). -/
def withinLine (pos n : Nat) : Bool := decide (0 < n) && decide (pos + n ≤ 128)

def LineOp.wf : LineOp → Bool
  | .read | .lockRead => true
  | .write pos b _ | .unlockWrite pos b _ => withinLine pos b.length

/-- Errors name a symbol once, and each changes it (R216). -/
def Upset.wf (u : Upset) : Bool := decide ((u.map (·.1)).Nodup) && u.all fun x => x.2 != 0

/-- An offset within a space of the saltern (Table 11-1: bits [50:0]). -/
def spaceOff (o : Nat) : Bool := decide (o < 2 ^ 51)

/-- Source indices of Table 2-3. -/
def srcIndex (n : Nat) : Bool := decide (n < 2 ^ 16)

def StackAcc.wf (a : StackAcc) : Bool := srcIndex a.src && spaceOff a.off && a.op.wf && Upset.wf a.upset

/-- A vector form carries 4 to 128 bytes (R229). -/
def NmaAcc.wf (a : NmaAcc) : Bool :=
  srcIndex a.src && spaceOff a.off && Upset.wf a.upset
    && (decide (8 ≤ a.op.toNat) || (decide (4 ≤ a.bytes.length) && decide (a.bytes.length ≤ 128)))

def BoardAcc.wf (a : BoardAcc) : Bool := srcIndex a.src && spaceOff a.off && a.op.wf && Upset.wf a.upset

/-- At most one line, within it; a write carries its bytes (R263). -/
def HostAcc.wf (a : HostAcc) : Bool :=
  srcIndex a.src && spaceOff a.off && withinLine (a.off % 128) a.len
    && (match a.write with | some w => w.1.length == a.len | none => true)

/-- A count for each lane of a fabric port, 8, or of GP0, 4 (R288, R296). -/
def laneCounts (p : Fin 9) (l : List Nat) : Bool := l.length == if p.val < 8 then 8 else 4

/-- A credit for each of at most 8 virtual lanes (Table 12-5). -/
def NegRecord.wf (r : NegRecord) : Bool := decide (r.credits.length ≤ 8)

/-- 544 symbols of ten bits, spread evenly over the active lanes; corrections of different symbols (R279). -/
def Codeword.wf (c : Codeword) : Bool :=
  (c.lanes.length == 8 || c.lanes.length == 4 || c.lanes.length == 2)
    && (c.lanes.all fun l => l.length == 544 / c.lanes.length && l.all fun x => decide (x < 1024))
    && decide ((c.fix.map (·.1)).Nodup) && c.fix.all fun x => decide (x.1 < 544) && decide (0 < x.2) && decide (x.2 < 1024)

/-- 8 credit bytes and 38 slots of 16 bytes (Table 12-2). -/
def Flit.wf (f : Flit) : Bool := f.cr.length == 8 && f.slots.length == 608

/-- The payload of one packet is at most the largest PMTU (Table 13-10). -/
def Packet.wf (k : Packet) : Bool := decide (k.payload.length ≤ 4096)

/-- A frame of 64 to 9,216 bytes (Table 12-7). -/
def EthFrame.wf (f : EthFrame) : Bool := decide (64 ≤ f.bytes) && decide (f.bytes ≤ 9216)

/-- A page of register space: 64 MiB of 4 KiB (R36). -/
def pageNo (pn : Nat) : Bool := decide (pn < 2 ^ 14)

/-- Query positions of one row: at most 17 (Table 8-4). -/
def RowResult.wf (r : RowResult) : Bool := decide (r.samples.length ≤ 17)

/-- Flash offsets are 4-byte addresses (R462). -/
def FlashRead.wf (f : FlashRead) : Bool := f.extents.all fun e => decide (e.1 + e.2.length ≤ 2 ^ 32)

/-- Well-formed commands. -/
def Instr.wf : Instr → Bool
  | .tickBoundary _ | .holdoverEntry | .holdoverLimitExpiry | .tideEnWrite _ | .tideMasterWrite _ | .setLoad | .rebase
  | .lock | .tideJump _ | .stepTimerArm _ _ | .stepTimerStart _ | .mixedTimeout => true
  | .timeReqSend _ _ | .timeReqReceive _ _ _ _ | .timeRespReceive _ _ _ | .ptpMessageReceive _ _ => true
  | .commitRequest _ a | .regWrite _ a => a.wf
  | .blanketWrite _ a late => a.wf && late.all pageNo
  | .modeCommit pn | .unitLateCommit pn | .unitEnable pn | .gracefulDisable pn | .forceOff pn
  | .forcedDisableChannel pn => pageNo pn
  | .drainComplete _ | .forcedDisableEngine _ | .forcedDisablePort _ => true
  | .queueTailWrite _ _ _ | .descriptorFetch _ _ | .fstopClear _ _ | .invalidDescriptor _ _ | .taskComplete _ _ _ _
  | .tokenSignalArrive | .creditGiveArrive | .engTcAdd _ _ | .engTcWrite _ _ _ | .engCcWrite _ _ _ | .stall _ => true
  | .nop _ _ | .tick _ _ | .event _ _ | .mmaFp8 _ _ | .mmaCode _ _ | .mmaInt8 _ _ | .mmaBf16 _ _ | .tileZero _ _
  | .tileOut _ _ | .kvAppend _ _ | .tileSave _ _ | .tileLoad _ _ | .chain _ _ | .permute _ _ | .shuffle _ _ | .pack _ _
  | .unpack _ _ | .rotary _ _ | .topk _ _ | .sample _ _ | .random _ _ | .quant _ _ | .attnFwd _ _ | .attnMerge _ _
  | .attnBwd _ _ | .load _ _ | .store _ _ | .accum _ _ | .copy _ _ | .brinePack _ _ | .brineUnpack _ _ => true
  | .stackAccess a => a.wf
  | .nmaOperation a => a.wf
  | .scrubRead _ u | .tgLineOperation _ u => Upset.wf u
  | .lockTimeout _ | .refresh _ | .dieTempReading _ _ _ | .wbAll _ | .flushDone _ | .wcFlush _ | .wcTimeout _
  | .cchSramError _ _ | .tgStart _ | .tgStop _ | .tgDone _ => true
  | .pageWalk _ _ va => decide (va < 2 ^ 48)
  | .engXlInv _ _ | .coreXlInv _ _ => true
  | .boardAccess a => a.wf
  | .hostWindowAccess a => a.wf
  | .lowerTierLate _ | .lowerTierFailed _ | .boardTrained _ | .fabRetrain _ | .gtxRetrain | .portRetryExpiry _
  | .detectTimeout _ | .peerDetected _ _ | .equaliseDone _ => true
  | .qualifyDone p r => laneCounts p r.errs
  | .negotiationRecord _ r => r.wf
  | .codewordReceive _ c => c.wf
  | .flitReceive _ f => f.wf
  | .llrTimeout _ | .packetSend _ | .laneLossOfLock _ _ | .laneCeLimit _ _ _ | .retrainTimeout _ | .portDrained _ => true
  | .ethFrameReceive _ f => f.wf
  | .pfcFrameReceive _ _ _ | .pfcRefresh _ _ | .pfcStorm _ _ | .pfcPauseExpiry _ _ => true
  | .regRd _ _ _ => true
  | .regWr _ a => a.wf
  | .dmaCpl _ _ b => decide (b.length ≤ 4096)
  | .doorbell _ _ | .gtxTsDevProdWrite _ | .tsFlushExpiry | .tsFlush | .gtxTsConsWrite _ | .tsStall | .qpDoorbell _ _ _ _
  | .sendWqe _ | .writeWqe _ | .readWqe _ | .atomicWqe _ | .addWriteWqe _ | .rakeWqe _ => true
  | .send _ k | .write _ k | .addWrite _ k | .readReq _ k | .readResp _ k | .atomic _ k | .atomicResp _ k | .ack _ k
  | .abort _ k | .cm _ k | .rakeReq _ k | .rakeResp _ k => k.wf
  | .delayedAck _ | .retransmitTimeout _ | .rnrDelayExpiry _ | .qpInit _ | .qpRtr _ | .qpRts _ | .qpDrain _ | .qpForce _
  | .qpCancel _ | .qpReset _ | .migrate _ _ | .register _ | .revokeRegion _ | .rgnDone | .crewEnable _ _ | .crewDisable _
  | .rakeReply _ _ => true
  | .srvCmdTailWrite _ l => l.all fun x => decide (x.off + x.bytes.length ≤ 2 ^ 44)
  | .submit | .cancel | .park | .resume | .draft | .adapterLoad | .adapterRetire | .budget | .query | .fence
  | .srvCplConsWrite _ | .basketBuild => true
  | .rowCompletion _ r => r.wf
  | .weightReloadComplete _ _ _ | .rerunRelease | .swapComplete _ _ _ | .restoreComplete _ _ _ | .thermosMovesComplete _ _ _
  | .pageRelease _ | .thermosExpiry _ | .thermosRelease _ | .ttftDeadlineExpiry _ | .srvCoreBeat _ | .hamperTrackerStart => true
  | .cswSave _ _ | .cswLoad _ _ | .cswDone _ | .contextBlocked _ | .shareWindow | .acctPeriod | .staticModeEntry _ => true
  | .evtRearm _ | .take | .release | .clear | .spadUe _ _ | .dataPoisonException _ _ => true
  | .pwrCapWrite _ | .pwrCapBmcWrite _ | .emerg | .smbSetOffset _ _ | .smbRead | .smbWrite _ _ | .sensorReading _ _
  | .pwrGoodFall | .railFault _ | .resetAssert | .resetRelease | .powerRemoval | .powerUp | .fuseLoad _ => true
  | .fetch f => f.wf
  | .verify | .config | .wr32 | .wr64 | .poll32 _ | .delay _ | .released | .pwrReset _ | .warmReset | .identityDerivation => true
  | .mbxClaim _ _ | .mbxRelease _ | .mbxInputWord _ _ | .mbxOutputRead _ | .getId | .getChallenge | .attest | .enroll _
  | .revoke _ | .setPartMode _ | .rollbackAdvance _ | .debugLock _ | .pkeyAdd | .pkeyRemove | .mgmtKey | .image => true
  | .engAccDataRead _ _ | .tideNowRead _ _ => true

end Sys2Proof
end

