-- ==== Sys2Proof/Safety.lean ====
section
/-! DEFINITION. The terms in which claims about the device are made: when a command finds the device able to perform it, what it
leaves, which commands change power, and the invariants of a run. -/
namespace Sys2Proof

open Sys2Proof.Machine

/-- The device has power and stands out of reset (R443, R474), and every piece of work that its last boundary made due has been
performed: the state in which it performs the commands that reach it. -/
abbrev Ready (s : State) : Prop := s.up = true ∧ s.due = []

/-- The same, with one piece of work of the last boundary still due. -/
abbrev DueOnly (d : Due) (s : State) : Prop := s.up = true ∧ s.due = [d]

/-- A command is performed, and P holds of the state that it leaves. -/
def Completes (c : Instr) (s : State) (P : State → Prop) : Prop := ∃ t, exec c s = .next t ∧ P t

/-- The command is performed and changes nothing. -/
abbrev Unmoved (s : State) (c : Instr) : Prop := exec c s = .next s

/-- Whatever state a command leaves, P holds of it. -/
def Leaves (c : Instr) (s : State) (P : State → Prop) : Prop := ∀ t, exec c s = .next t → P t

/-- Commands that change the power or the reset pin, or that reset the device. -/
def isReset : Instr → Bool
  | .resetAssert | .resetRelease | .powerRemoval | .powerUp | .warmReset => true
  | _ => false

/-- Pins and power agree: without power the device is held in reset and has no trip, and while a trip is pending or in force, or
THERMTRIP_N is low, SMBALERT_N is low (R443, R445, R453). -/
abbrev PowerInv (s : State) : Prop :=
  (s.pwr.powered = false → s.pwr.resetN = false ∧ s.pwr.tripped = false)
    ∧ (s.pwr.tripped = true ∨ s.pwr.trip.isSome = true ∨ s.pwr.thermTripN = false → s.pwr.smbAlertN = false)

/-- Every fuse that reads 1 in s reads 1 in t (R459: fuses change from 0 to 1 only). -/
abbrev FusesKept (s t : State) : Prop := ∀ i, i ∈ s.sec.fuses → i ∈ t.sec.fuses

/-! ## Tasks (R58 to R74) -/

/-- The head of queue q of engine e is a valid descriptor d of operation o, and it starts now (R68). -/
abbrev Startable (s : State) (e q : Nat) (d : Desc) (o : Op) : Prop :=
  Ready s ∧ s.head e q = some d ∧ s.ready e q = true ∧ d.operation = some o ∧ d.invalid e (s.engine e) = false

/-- In t, HEAD of the queue of s has passed its head, and k, which names it, is the newest task in flight: the descriptor d with
its index, not done, holding the slots of mask. -/
def InFlight (s : State) (e q : Nat) (d : Desc) (mask : BitVec 32) (k : Task) (t : State) : Prop :=
  t.r32 (Reg.engQHead e q) = s.r32 (Reg.engQHead e q) + 1 ∧ (t.engine e).tasks = (s.engine e).tasks ++ [k]
    ∧ k.queue = q ∧ k.index = s.r32 (Reg.engQHead e q) ∧ k.desc = d ∧ k.done = false ∧ k.slots = mask

/-- The scratchpad and the accumulator of engine e, with their marks, are in t as they are in r. -/
def SameUnits (r t : State) (e : Nat) : Prop :=
  (t.engine e).spad = (r.engine e).spad ∧ (t.engine e).spadPoison = (r.engine e).spadPoison
    ∧ (t.engine e).acc = (r.engine e).acc ∧ (t.engine e).slots = (r.engine e).slots

/-- In t, the head of the queue of s has started, with what its unit has made of it: its status, its destinations and what it still
owes at its completion, and the engine's memories as its unit left them. -/
def Performed (s : State) (e q : Nat) (d : Desc) (mask : BitVec 32) (r : Done) (t : State) : Prop :=
  (∃ k : Task, InFlight s e q d mask k t ∧ k.status = r.st ∧ k.dests = r.dests ∧ k.counts = r.counts ∧ k.owed = r.owed
    ∧ k.held = false) ∧ SameUnits r.s t e

/-- In t, the head of the queue of s has started and waits at the tile arbiter: it has made nothing yet (R116). -/
def HeldBack (s : State) (e q : Nat) (d : Desc) (mask : BitVec 32) (t : State) : Prop :=
  (∃ k : Task, InFlight s e q d mask k t ∧ k.held = true) ∧ SameUnits s t e

/-- In t, the head of the queue of s has started and its unit has made nothing of it: it is in flight with status TOKEN_ERR
(R66). -/
def NotPerformed (s : State) (e q : Nat) (d : Desc) (mask : BitVec 32) (t : State) : Prop :=
  (∃ k : Task, InFlight s e q d mask k t ∧ k.status = stTokenErr ∧ k.held = false) ∧ SameUnits s t e

/-- A task of engine e that is in flight keeps a task of descriptor d from acting: it holds one of the slots of mask, or it waits itself and
its unit runs it first (R114, R116, R128). -/
def slotsTaken (s : State) (e : Nat) (d : Desc) (mask : BitVec 32) : Bool :=
  (s.engine e).tasks.any fun t => !t.done && (t.slots &&& mask != 0 || (t.held && sameStage t { t with desc := d }))

/-- What a unit is given: the state in which the task has consumed its tokens and taken its credits (R68), and a conflict over
the accumulator slots of mask has been reported (R118). -/
def given (s : State) (e q : Nat) (d : Desc) (mask : BitVec 32) : State := (s.consume e d).slotConflict e q d mask

/-- Tasks of operation o, which the command c starts, start where no wait of theirs meets an error: their unit performs them, or
they wait for the accumulator slots that they name. -/
def StartsAs (c : Fin 256 → Fin 4 → Instr) (o : Op) (slots : Engine → Desc → BitVec 32)
    (perform : State → Nat → Nat → Desc → Done) : Prop :=
  ∀ (s : State) (e : Fin 256) (q : Fin 4) (d : Desc) (mask : BitVec 32), Startable s e.val q.val d o →
    d.waits.any (s.waitErr e.val) = false → mask = slots (s.engine e.val) d →
    (slotsTaken s e.val d mask = false →
      Completes (c e q) s (Performed s e.val q.val d mask (perform (given s e.val q.val d mask) e.val q.val d)))
    ∧ (slotsTaken s e.val d mask = true → Completes (c e q) s (HeldBack s e.val q.val d mask))

/-- Tasks of operation o start without being performed where a wait of theirs meets an error. -/
def NotPerformedAs (c : Fin 256 → Fin 4 → Instr) (o : Op) (slots : Engine → Desc → BitVec 32) : Prop :=
  ∀ (s : State) (e : Fin 256) (q : Fin 4) (d : Desc), Startable s e.val q.val d o → d.waits.any (s.waitErr e.val) = true →
    Completes (c e q) s (NotPerformed s e.val q.val d (slots (s.engine e.val) d))

/-- Queue q of engine e, which is active, has a descriptor below TAIL that is not fetched (R58, R495). -/
def toFetch (s : State) (e q : Nat) : Bool :=
  s.active (enPage e) && decide (wrapDist (s.r32 (Reg.engQHead e q)
      + BitVec.ofNat 32 (Sparse.get (fun _ => []) (s.engine e).fetched q).length) (s.r32 (Reg.engQDone e q))
    < wrapDist (s.r32 (Reg.engQTail e q)) (s.r32 (Reg.engQDone e q)))

/-- In t, the next descriptor of a queue of s, read in u, is fetched, or its queue has stopped at it with the cause (R495). -/
def Fetched (s u : State) (e q : Nat) (t : State) : Prop :=
  ∃ (l : List Desc) (i : Word), l = Sparse.get (fun _ => []) (s.engine e).fetched q
    ∧ i = s.r32 (Reg.engQHead e q) + BitVec.ofNat 32 l.length
    ∧ (∀ d, (u.readDesc e q i).2 = .inl d →
      Sparse.get (fun _ => []) (t.engine e).fetched q = l ++ [d] ∧ t.evq = (u.readDesc e q i).1.evq)
    ∧ (∀ cause, (u.readDesc e q i).2 = .inr cause →
      t.rb (Reg.engQStat e q) 9 = true ∧ t.rf (Reg.engQStat e q) 10 2 = cause
      ∧ t.evq = (u.readDesc e q i).1.evq ++ [⟨enPage e, 25, 2, e⟩] ∧ t.engines = s.engines)

/-! ## Memory -/

/-- Bytes other than those of n bytes from address a read in both as they did (a byte that is not listed holds no value). -/
def SameBytesOutside (m m' : List Host.Cell) (a n : Nat) : Prop := ∀ x, x < a ∨ a + n ≤ x → cellByte m' x = cellByte m x

/-- The line of stack memory with a key, at space-0 offset off, is reached at its channel: mapped there, not quarantined, not held
by the core cache, its channel enabled (R214, R234, R238). -/
abbrev OffAtChannel (s : State) (off key : Nat) : Prop :=
  off % 128 = 0 ∧ s.place off = some key ∧ s.quarantined (keyCore key) off = false ∧ s.cached key = none
    ∧ s.chanOn (keyChan key) = true

/-- And no lock stands in the way of src there, nor does any access wait (R229). -/
abbrev LineAtChannel (s : State) (off key src : Nat) : Prop :=
  OffAtChannel s off key ∧ s.lockHolds key src = false ∧ s.mem.waiting = []

/-- Codeword c, which decodes, has been taken at port p, and the descrambler stands at scr (R279, R280). -/
def wordTaken (s : State) (p : Nat) (c : Codeword) (scr : Nat) : State :=
  ((s.modPort p fun x => { x with rxNum := x.rxNum + 1 }).count (Reg.fabFecCeCnt p) c.fix.length).modPort p fun x =>
    { x with rxScr := scr }

/-! ## Transport (R307 to R339) -/

/-- The queue pair with its next send WQE w started, in s (R323). -/
def withWqe (s : State) (n : Nat) (w : Wqe) : State :=
  let t := s.modQp n fun q => { q with wqes := q.wqes ++ [w], sqHead := q.sqHead + 1 }
  if wqOp w.words = opSend then t.modQp n fun q => { q with msn := q.msn + 1 } else t

/-- Queue pair n stands in RTS with nothing started and its window open, and its next send WQE, of opcode op, can be read, starts
as w with one request packet, and has that packet k to send in s2 (R323, R327). Reading memory leaves the transport as it is. -/
abbrev Posted (s : State) (n op : Nat) (v : List Dword) (w : Wqe) (s1 s2 : State) (k : Packet) : Prop :=
  Ready s ∧ n ≠ 0 ∧ (s.qp n).state = 3 ∧ s.pwr.tripped = false ∧ (s.qp n).wqes = [] ∧ (s.qp n).sqHead ≠ (s.qp n).sqTail
    ∧ (s.qp n).una = (s.qp n).npsn ∧ (s.qp n).rnrWait = none ∧ 256 ≤ (s.qp n).cwnd ∧ 1 ≤ (s.qp n).wndMax ∧ s.xpt.cqOvf = []
    ∧ (s.readSq n (s.qp n).sqHead).2 = some v ∧ wqOp v = op ∧ s.wkindMet v = true
    ∧ (s.readSq n (s.qp n).sqHead).1.makeWqe n v = (s1, w) ∧ s1.xpt = s.xpt ∧ w.fail = 0 ∧ w.requests (s.qp n) = 1
    ∧ 0 < w.count ∧ w.count < 2 ^ 23
    ∧ (withWqe s1 n w).wqePacket n w 0 = (s2, some k) ∧ s2.xpt = (withWqe s1 n w).xpt

/-- The WQE has started and its packet waits at the queue pair's port: SQ_HEAD and the next PSN have passed it. -/
abbrev Sent (s : State) (n : Nat) (w : Wqe) (s2 : State) (k : Packet) (t : State) : Prop :=
  (t.qp n).sqHead = (s.qp n).sqHead + 1 ∧ (t.qp n).npsn = (s.qp n).npsn + BitVec.ofNat 24 w.count ∧ (t.qp n).wqes = [w]
    ∧ t.ports = (s2.sendPacket n k).ports

/-- A packet of opcode op passes every check of its connection at port p, which is UP, and sets no reserved bit (R312, R314,
R330). -/
abbrev Passes (s : State) (p op : Nat) (k : Packet) : Prop :=
  Ready s ∧ k.opcode.toNat = op ∧ k.rsv = 0 ∧ forwardedReply k = false ∧ s.portState p = 5 ∧ k.dstDev.toNat = s.dev
    ∧ k.pcrc = pcrcOf k ∧ (s.ethernet p = true → s.addressed p k = true) ∧ k.ver.toNat = (s.qp k.dstQpn.toNat).major
    ∧ (s.qp k.dstQpn.toNat).state ≠ 0 ∧ (s.qp k.dstQpn.toNat).state ≠ 1 ∧ (s.qp k.dstQpn.toNat).state ≠ 6
    ∧ k.srcDev.toNat = (s.qp k.dstQpn.toNat).c 0 48 10 ∧ k.srcQpn.toNat = (s.qp k.dstQpn.toNat).c 0 32 16
    ∧ k.pkey.toNat = (s.qp k.dstQpn.toNat).pkey ∧ s.xpt.cqOvf = []

/-- The queue pair with its next receive WQE, of tag and lsig, opened, in s (R323, R333). -/
def withRecv (s : State) (n tag : Nat) (lsig : Word) : State :=
  s.modQp n fun q => { q with
    rqHead := if wrapDist q.rqHead q.rqDone = 0 then q.rqDone + 1 else q.rqHead
    recv := [{ index := q.rqDone, tag := tag, lsig := lsig, len := 0, last := none, poison := false }] }

/-- Packet k has been taken: its payload is counted for the context of its queue pair (R403). -/
abbrev takenIn (s : State) (k : Packet) : State := s.countBytes 0 ((s.qp k.dstQpn.toNat).c 0 8 6) 4 k.payload.length

/-- Nothing but the count of bytes sent and received tells m and m' apart. -/
abbrev SameStores (m m' : Mem) : Prop := { m with moved := m'.moved } = m'

/-- A request packet that passes them is the next in sequence at a responder that has not refused, of an opcode of its connection's
version, and nothing of an earlier message is open there (R328, R330). -/
abbrev NextRequest (s : State) (p op : Nat) (k : Packet) : Prop :=
  Passes s p op k ∧ (s.qp k.dstQpn.toNat).shut = false ∧ opVersion op ≤ (s.qp k.dstQpn.toNat).version
    ∧ k.psn = (s.qp k.dstQpn.toNat).epsn ∧ (s.qp k.dstQpn.toNat).ahead = [] ∧ (s.qp k.dstQpn.toNat).recv = []
    ∧ (s.qp k.dstQpn.toNat).rsigs = []

/-- A crew may be enabled with CTRL v: its key is known, it has members, their scratchpads have room for its slots, and their
queues are of its context and hold 16 tasks (R346). -/
abbrev crewAllowed (s : State) (n : Nat) (v : Word) : Prop :=
  s.pkeyKnown (s.crewPkey n) = true ∧ s.crewMembers n ≠ [] ∧ s.rf (Reg.xptCrewSpad n) 0 16 * 32 + crewSlots v * 0xC000 ≤ 2 ^ 21
    ∧ ∀ e ∈ s.crewMembers n, s.rf (Reg.engQCfg e (crewQueue v)) 8 6 = crewCtx v ∧ 4 ≤ s.rf (Reg.engQCfg e (crewQueue v)) 0 5

/-! ## The serving firmware (R365 to R392) -/

/-- Sampled command x, of operation op, is the one that the running firmware resolves now, and sets no reserved bit (R367,
R368). -/
abbrev Resolves (s : State) (op : Nat) (x : TakenCmd) : Prop :=
  Ready s ∧ s.running = true ∧ s.nextCmd = some x ∧ s.inOrder (cmdKey x.op) = true ∧ x.op = op ∧ cmdReserved x.rec_ = false

/-- It names request i, which has not ended. -/
abbrev Names (s : State) (x : TakenCmd) (i : Nat) : Prop := s.named x.rec_ = some i ∧ (s.hamper i).state ≠ 10

/-- The firmware runs and resolves events of its own of class cls (R374). -/
abbrev Serves (s : State) (cls : Nat) : Prop := Ready s ∧ s.running = true ∧ s.inOrder (ownKey cls) = true

/-- It runs and resolves the completion of the moves that engine e makes (R17, R374). -/
abbrev ServesOn (s : State) (e : Nat) : Prop := Ready s ∧ s.running = true ∧ s.inOrder (taskKey e) = true

/-- The build of the next basket is due (R374). -/
abbrev Builds (s : State) : Prop :=
  Serves s 11 ∧ s.srv.basket.live = false ∧ s.srv.rerunAt = none ∧ s.reloading = false
    ∧ s.startsAt (s.tick + s.rf Reg.srvStepCfg 28 4) = true ∧ s.srv.lastDone ≤ s.tick ∧ s.pwr.tripped = false

/-- A basket takes rows, and request h, i, is the only one there is; its context runs. -/
abbrev Alone (s : State) (i : Nat) (h : Hamper) : Prop :=
  s.srv.hampers = [(i, h)] ∧ s.ctxRuns h.ctx = true ∧ s.srv.queries = [] ∧ 0 < s.rf Reg.srvStepCfg 0 13
    ∧ 0 < (s.r32 Reg.srvStepTokens).toNat

/-- A request that decodes, or is held from decoding, finds budget, token ring and pages for a row with n drafts (R375, R376). -/
abbrev Decodes (s : State) (i : Nat) (h : Hamper) (n : Nat) : Prop :=
  (h.state = 3 ∨ (h.state = 4 ∧ h.heldFrom = 3))
    ∧ (s.budgetRefresh h.customer s.tick).affords h.customer ((1 + n) * 65536) = true ∧ 1 + n ≤ s.tokenRoom
    ∧ s.lacks i (h.len + 1 + n) ≤ s.pool h.ctx

/-- Row k of the step, r, is the next whose sampling completes, with x (R374). -/
abbrev RowDue (s : State) (k : Nat) (r : Row) (x : RowResult) : Prop :=
  Ready s ∧ s.running = true ∧ s.inOrder (s.rowKey x.engine.val) = true ∧ s.basketRows[k]? = some r ∧ s.srv.basket.live = true
    ∧ s.srv.basket.start.isSome = true ∧ r.done = false ∧ (s.basketRows.take k).all (·.done) = true
    ∧ ((r.chunk ≠ 0 ∧ (s.hamper r.hamper).promptDone + r.chunk < (s.hamper r.hamper).promptLen)
      ∨ (if r.chunk = 0 then r.positions else 1) ≤ x.samples.length)

/-- It does, its request lives, and its mark is m (R391). -/
abbrev RowRead (s : State) (k : Nat) (r : Row) (x : RowResult) (m : RowMark) : Prop :=
  RowDue s k r x ∧ (s.hamper r.hamper).gen = r.gen ∧ (s.hamper r.hamper).state ≠ 0 ∧ (s.hamper r.hamper).state ≠ 10
    ∧ s.rowMark ((s.hamper r.hamper).handle r.hamper) x = m

/-- In t row k of the step of s is done. -/
abbrev RowDone (s : State) (k : Nat) (t : State) : Prop := ∃ r' : Row, t.srv.basket.rows = s.srv.basket.rows.set k r' ∧ r'.done = true

/-! ## Contexts and accounting (R393 to R405) -/

/-- A SAVE of engine e into a slot is taken: the engine is idle and the slot free (R395). -/
abbrev Saves (s : State) (e slot : Nat) : Prop := Ready s ∧ s.cswIdle e = true ∧ slot ≠ 0 ∧ s.slotHeld e slot = false

/-- The state in which the image of a SAVE is written, after the firmware's writes of its place. -/
def saving (s : State) (e slot : Nat) : State := (s.cswAddr e slot).wf (Reg.engCswStat e) 0 8 1

/-- A LOAD of a slot is taken: the engine is idle and the slot away; its counter area, read, leaves u and a (R398). -/
abbrev Loads (s : State) (e slot hdr : Nat) (u : State) (a : Rd) : Prop :=
  Ready s ∧ s.cswIdle e = true ∧ slot ≠ 0 ∧ s.slotHeld e slot = true ∧ hdr = (s.r64 (Reg.engCswAway e (slot - 1))).toNat
    ∧ (s.wf (Reg.engCswStat e) 0 8 1).spanRead 0 hdr 1024 e 0 = (u, a)

/-- Contexts on engines, or away and runnable: those that a share window looks at (R402). -/
def sharers (s : State) : List Nat := (List.range 64).filter fun k => s.ctxState k == 1 || (s.ctxState k == 3 && (s.ctx k).runnable)

/-- The cycles that a context used in a window stand above, or below, its share of them. -/
def overShare (s : State) (k used : Nat) : Bool :=
  decide ((s.ctx k).share * (256 * (s.r32 Reg.srvShareWindow).toNat) < used * ((sharers s).map fun j => (s.ctx j).share).sum)
def underShare (s : State) (k used : Nat) : Bool :=
  decide (used * ((sharers s).map fun j => (s.ctx j).share).sum < (s.ctx k).share * (256 * (s.r32 Reg.srvShareWindow).toNat))

/-- The accounting records lie in the core caches, at key, in lines of their own. -/
abbrev BooksCached (s : State) (key : Nat → Nat) (line : Nat → CLine) : Prop :=
  s.mem.locks = [] ∧ (∀ k < 65, s.place (s.acctOff k) = some (key k) ∧ s.quarantined (keyCore (key k)) (s.acctOff k) = false
    ∧ s.cached (key k) = some (line k) ∧ (line k).core < 8) ∧ ∀ j < 65, ∀ k < 65, key j = key k → j = k

/-! ## The mailbox (R485 to R491) -/

/-- A command op runs in the mailbox with n input words in a boot state that allows it. -/
abbrev Runs (s : State) (op n : Nat) (states : List Nat) : Prop :=
  Ready s ∧ s.mbxBusy = true ∧ s.sec.mbxOp = op ∧ s.sec.mbxLen = n ∧ states.contains s.bootState = true

/-- The identity key is ready (R481). -/
abbrev Keyed (s : State) : Prop := s.seedValid = true ∧ s.sec.idReady = true

/-- Command op is running where the boot state allows it, with the identity key ready and an input of n bytes of arguments and a
well-formed authorisation block (R487). -/
abbrev Presented (s : State) (op n : Nat) (states : List Nat) (args block : List Byte) : Prop :=
  Ready s ∧ s.mbxBusy = true ∧ s.sec.mbxOp = op ∧ states.contains s.bootState = true ∧ Keyed s ∧ 8 * s.sec.mbxLen = n + authBytes
    ∧ args = slice s.mbxBytes 0 n ∧ block = s.mbxBytes.drop n ∧ authZero block = true

/-- The mailbox has ended its command with a result: it is not busy, and MBX_DONE is pending (R485). -/
abbrev Ended (s t : State) (result : Nat) : Prop :=
  t.mbxBusy = false ∧ t.rb Reg.secMbxStat 2 = true ∧ t.rf Reg.secMbxStat 8 8 = result ∧ t.mbxOwned = s.mbxOwned
    ∧ ⟨secPn, 8, 5, 5124⟩ ∈ t.evq

/-- The authorisation of the command answered code: it has its effect where that is 0, else it ends with it and changes no fuse;
the challenge is spent (R487). -/
abbrev Decided (s t : State) (code : Nat) (effect : Prop) : Prop :=
  Ended s t code ∧ t.sec.challenge = none ∧ (code = 0 → effect) ∧ (code ≠ 0 → t.sec.fuses = s.sec.fuses)

/-! ## Reach -/

/-- Commands that may change the tide unit or mode commits. -/
def reachesTide : Instr → Bool
  | .tickBoundary .. | .timeReqSend .. | .timeReqReceive .. | .timeRespReceive .. | .ptpMessageReceive ..
  | .holdoverEntry | .holdoverLimitExpiry | .tideEnWrite .. | .tideMasterWrite .. | .setLoad | .rebase | .lock
  | .tideJump .. | .stepTimerArm .. | .stepTimerStart .. | .commitRequest .. | .modeCommit ..
  | .unitLateCommit .. | .mixedTimeout | .regWrite .. | .blanketWrite .. | .forcedDisableEngine ..
  | .forcedDisableChannel .. | .forcedDisablePort .. | .codewordReceive .. | .regRd .. | .regWr ..
  | .doorbell .. | .write .. | .addWrite .. | .readReq .. | .delayedAck .. | .qpCancel .. | .take | .clear
  | .smbRead | .resetAssert | .resetRelease | .powerRemoval | .fuseLoad .. | .config | .wr32 | .wr64
  | .poll32 .. | .delay .. | .warmReset | .mbxInputWord .. | .powerUp | .engAccDataRead .. | .tideNowRead .. => true
  | _ => false

/-- Commands that may change an engine: its queues, its scratchpad, its accumulators. -/
def reachesEngines : Instr → Bool
  | .tickBoundary .. | .tideJump .. | .stepTimerStart .. | .commitRequest .. | .modeCommit .. | .unitLateCommit ..
  | .mixedTimeout | .regWrite .. | .blanketWrite .. | .unitEnable .. | .forceOff .. | .forcedDisableEngine ..
  | .forcedDisableChannel .. | .forcedDisablePort .. | .queueTailWrite .. | .descriptorFetch .. | .fstopClear ..
  | .invalidDescriptor .. | .taskComplete .. | .stall .. | .nop .. | .tick .. | .event .. | .mmaFp8 ..
  | .mmaCode .. | .mmaInt8 .. | .mmaBf16 .. | .tileZero .. | .tileOut .. | .kvAppend .. | .tileSave ..
  | .tileLoad .. | .chain .. | .permute .. | .shuffle .. | .pack .. | .unpack .. | .rotary .. | .topk ..
  | .sample .. | .random .. | .quant .. | .attnFwd .. | .attnMerge .. | .attnBwd .. | .load .. | .store ..
  | .accum .. | .copy .. | .brinePack .. | .brineUnpack .. | .pageWalk .. | .engXlInv .. | .lowerTierLate ..
  | .lowerTierFailed .. | .regWr .. | .dmaCpl .. | .doorbell .. | .qpDoorbell .. | .sendWqe .. | .writeWqe ..
  | .readWqe .. | .atomicWqe .. | .addWriteWqe .. | .rakeWqe .. | .send .. | .write .. | .addWrite ..
  | .readReq .. | .readResp .. | .atomic .. | .atomicResp .. | .ack .. | .abort .. | .cm .. | .delayedAck ..
  | .retransmitTimeout .. | .rnrDelayExpiry .. | .qpDrain .. | .qpCancel .. | .migrate .. | .rakeReq ..
  | .rakeReply .. | .rakeResp .. | .basketBuild | .rowCompletion .. | .weightReloadComplete .. | .cswSave ..
  | .cswLoad .. | .cswDone .. | .spadUe .. | .resetAssert | .resetRelease | .powerRemoval | .config | .wr32
  | .wr64 | .poll32 .. | .delay .. | .warmReset | .mbxInputWord .. | .powerUp => true
  | _ => false

/-- Commands that may change a memory, a cache or what is outstanding on them. -/
def reachesMem : Instr → Bool
  | .tickBoundary .. | .tideJump .. | .stepTimerStart .. | .commitRequest .. | .modeCommit .. | .unitLateCommit ..
  | .mixedTimeout | .regWrite .. | .blanketWrite .. | .unitEnable .. | .forcedDisableEngine ..
  | .forcedDisableChannel .. | .forcedDisablePort .. | .descriptorFetch .. | .fstopClear ..
  | .invalidDescriptor .. | .taskComplete .. | .tokenSignalArrive | .creditGiveArrive | .engTcAdd .. | .nop ..
  | .tick .. | .kvAppend .. | .tileSave .. | .tileLoad .. | .quant .. | .attnFwd .. | .attnBwd .. | .load ..
  | .store .. | .accum .. | .copy .. | .brinePack .. | .brineUnpack .. | .stackAccess .. | .nmaOperation ..
  | .lockTimeout .. | .scrubRead .. | .refresh .. | .dieTempReading .. | .wbAll .. | .flushDone .. | .wcFlush ..
  | .wcTimeout .. | .cchSramError .. | .tgStart .. | .tgLineOperation .. | .tgDone .. | .pageWalk ..
  | .coreXlInv .. | .boardAccess .. | .hostWindowAccess .. | .lowerTierLate .. | .lowerTierFailed ..
  | .boardTrained .. | .negotiationRecord .. | .regWr .. | .dmaCpl .. | .doorbell .. | .gtxTsDevProdWrite ..
  | .tsFlushExpiry | .tsFlush | .gtxTsConsWrite .. | .qpDoorbell .. | .sendWqe .. | .writeWqe .. | .readWqe ..
  | .atomicWqe .. | .addWriteWqe .. | .rakeWqe .. | .send .. | .write .. | .addWrite .. | .readReq ..
  | .readResp .. | .atomic .. | .atomicResp .. | .ack .. | .abort .. | .cm .. | .delayedAck ..
  | .retransmitTimeout .. | .rnrDelayExpiry .. | .qpInit .. | .qpDrain .. | .qpCancel .. | .migrate ..
  | .register .. | .revokeRegion .. | .rgnDone | .rakeReq .. | .rakeReply .. | .rakeResp ..
  | .srvCmdTailWrite .. | .submit | .cancel | .park | .resume | .draft | .adapterLoad | .adapterRetire | .budget
  | .query | .fence | .srvCplConsWrite .. | .basketBuild | .rowCompletion .. | .weightReloadComplete ..
  | .rerunRelease | .swapComplete .. | .restoreComplete .. | .thermosMovesComplete .. | .pageRelease ..
  | .thermosRelease .. | .ttftDeadlineExpiry .. | .cswSave .. | .cswLoad .. | .acctPeriod
  | .dataPoisonException .. | .resetAssert | .resetRelease | .powerRemoval | .config | .wr32 | .wr64
  | .poll32 .. | .delay .. | .warmReset | .mbxInputWord .. | .pkeyRemove | .powerUp | .hamperTrackerStart => true
  | _ => false

/-- Commands that may change a port. -/
def reachesLinks : Instr → Bool
  | .tickBoundary .. | .timeReqSend .. | .timeReqReceive .. | .tideJump .. | .stepTimerStart .. | .commitRequest ..
  | .modeCommit .. | .unitLateCommit .. | .mixedTimeout | .regWrite .. | .blanketWrite .. | .unitEnable ..
  | .gracefulDisable .. | .forceOff .. | .forcedDisableEngine .. | .forcedDisableChannel ..
  | .forcedDisablePort .. | .descriptorFetch .. | .fstopClear .. | .invalidDescriptor .. | .taskComplete ..
  | .nop .. | .tick .. | .kvAppend .. | .tileSave .. | .tileLoad .. | .attnFwd .. | .attnBwd .. | .load ..
  | .store .. | .accum .. | .copy .. | .brinePack .. | .brineUnpack .. | .dieTempReading .. | .pageWalk ..
  | .hostWindowAccess .. | .lowerTierLate .. | .lowerTierFailed .. | .fabRetrain .. | .gtxRetrain
  | .portRetryExpiry .. | .detectTimeout .. | .qualifyDone .. | .negotiationRecord .. | .codewordReceive ..
  | .flitReceive .. | .llrTimeout .. | .packetSend .. | .laneLossOfLock .. | .laneCeLimit ..
  | .retrainTimeout .. | .portDrained .. | .ethFrameReceive .. | .pfcFrameReceive .. | .pfcStorm .. | .regRd ..
  | .regWr .. | .dmaCpl .. | .doorbell .. | .gtxTsDevProdWrite .. | .tsFlushExpiry | .tsFlush
  | .gtxTsConsWrite .. | .qpDoorbell .. | .sendWqe .. | .writeWqe .. | .readWqe .. | .atomicWqe ..
  | .addWriteWqe .. | .rakeWqe .. | .send .. | .write .. | .addWrite .. | .readReq .. | .readResp ..
  | .atomic .. | .atomicResp .. | .ack .. | .abort .. | .cm .. | .delayedAck .. | .retransmitTimeout ..
  | .rnrDelayExpiry .. | .qpInit .. | .qpDrain .. | .qpCancel .. | .migrate .. | .register .. | .revokeRegion ..
  | .rgnDone | .rakeReq .. | .rakeReply .. | .rakeResp .. | .srvCmdTailWrite .. | .submit | .cancel | .park
  | .resume | .draft | .adapterLoad | .adapterRetire | .budget | .query | .fence | .srvCplConsWrite ..
  | .basketBuild | .rowCompletion .. | .weightReloadComplete .. | .swapComplete .. | .restoreComplete ..
  | .thermosMovesComplete .. | .pageRelease .. | .thermosRelease .. | .ttftDeadlineExpiry .. | .cswSave ..
  | .cswLoad .. | .acctPeriod | .dataPoisonException .. | .sensorReading .. | .pwrGoodFall | .railFault ..
  | .resetAssert | .resetRelease | .powerRemoval | .fuseLoad .. | .fetch .. | .verify | .config | .wr32 | .wr64
  | .poll32 .. | .delay .. | .released | .warmReset | .mbxInputWord .. | .pkeyRemove | .powerUp
  | .hamperTrackerStart | .pfcPauseExpiry .. => true
  | _ => false

/-- Commands that may change the transport. -/
def reachesXpt : Instr → Bool
  | .tickBoundary .. | .tideJump .. | .stepTimerStart .. | .commitRequest .. | .modeCommit .. | .unitLateCommit ..
  | .mixedTimeout | .regWrite .. | .blanketWrite .. | .forcedDisableEngine .. | .forcedDisableChannel ..
  | .forcedDisablePort .. | .tokenSignalArrive | .engTcAdd .. | .regRd .. | .regWr .. | .doorbell ..
  | .qpDoorbell .. | .sendWqe .. | .writeWqe .. | .readWqe .. | .atomicWqe .. | .addWriteWqe .. | .rakeWqe ..
  | .send .. | .write .. | .addWrite .. | .readReq .. | .readResp .. | .atomic .. | .atomicResp .. | .ack ..
  | .abort .. | .cm .. | .delayedAck .. | .retransmitTimeout .. | .rnrDelayExpiry .. | .qpInit .. | .qpRtr ..
  | .qpRts .. | .qpDrain .. | .qpForce .. | .qpCancel .. | .qpReset .. | .migrate .. | .revokeRegion ..
  | .rgnDone | .crewEnable .. | .rakeReq .. | .rakeReply .. | .rakeResp .. | .rerunRelease | .resetAssert
  | .resetRelease | .powerRemoval | .config | .wr32 | .wr64 | .poll32 .. | .delay .. | .warmReset
  | .mbxInputWord .. | .powerUp => true
  | _ => false

/-- Commands that may change the serving firmware and its requests. -/
def reachesSrv : Instr → Bool
  | .tickBoundary .. | .tideJump .. | .stepTimerStart .. | .commitRequest .. | .modeCommit .. | .unitLateCommit ..
  | .mixedTimeout | .regWrite .. | .blanketWrite .. | .forcedDisableEngine .. | .forcedDisableChannel ..
  | .forcedDisablePort .. | .regWr .. | .doorbell .. | .write .. | .addWrite .. | .readReq .. | .cm ..
  | .delayedAck .. | .qpCancel .. | .qpReset .. | .srvCmdTailWrite .. | .submit | .cancel | .park | .resume
  | .draft | .adapterLoad | .adapterRetire | .budget | .query | .fence | .srvCplConsWrite .. | .basketBuild
  | .rowCompletion .. | .weightReloadComplete .. | .rerunRelease | .swapComplete .. | .restoreComplete ..
  | .thermosMovesComplete .. | .pageRelease .. | .thermosExpiry .. | .thermosRelease .. | .ttftDeadlineExpiry ..
  | .srvCoreBeat .. | .cswDone .. | .contextBlocked .. | .shareWindow | .acctPeriod | .dataPoisonException ..
  | .resetAssert | .resetRelease | .powerRemoval | .config | .wr32 | .wr64 | .poll32 .. | .delay .. | .warmReset
  | .mbxInputWord .. | .powerUp | .hamperTrackerStart => true
  | _ => false

/-- Commands that may change the power controller. -/
def reachesPwr : Instr → Bool
  | .tickBoundary .. | .tideJump .. | .dieTempReading .. | .smbSetOffset .. | .sensorReading .. | .pwrGoodFall
  | .railFault .. | .resetAssert | .resetRelease | .powerRemoval | .warmReset | .powerUp => true
  | _ => false

/-- Commands that may change the security core, its mailbox or the fuses. -/
def reachesSec : Instr → Bool
  | .commitRequest .. | .regWrite .. | .blanketWrite .. | .regRd .. | .regWr .. | .doorbell .. | .write ..
  | .addWrite .. | .readReq .. | .smbRead | .resetAssert | .resetRelease | .powerRemoval | .fuseLoad ..
  | .fetch .. | .verify | .config | .wr32 | .wr64 | .poll32 .. | .delay .. | .released | .pwrReset ..
  | .warmReset | .identityDerivation | .mbxClaim .. | .mbxRelease .. | .mbxInputWord .. | .mbxOutputRead ..
  | .getId | .getChallenge | .attest | .enroll .. | .revoke .. | .setPartMode .. | .rollbackAdvance ..
  | .debugLock .. | .pkeyAdd | .pkeyRemove | .mgmtKey | .image | .powerUp | .engAccDataRead .. => true
  | _ => false

end Sys2Proof
end

