-- ==== Sys2Proof/Certificates/Slice0/Obligations.lean ====
section
/-! DEFINITION. The statements for the provers. -/

open Sys2Proof Sys2Proof.Machine

/-! ## The queue and the whole machine -/

/-- A step performs the command at the front of the queue on the state with the queue's rest. -/
def Obligations.StepRunsFront : Prop :=
  ∀ (c : Instr) (s : State), step { s with pending := c :: s.pending } = exec c s

/-- With no command waiting the device idles (the model's choice: log 4); without power, or held in reset, it performs none but the
commands of power and of the reset pin. -/
def Obligations.IdleAndHeld : Prop :=
  (∀ s : State, s.pending = [] → step s = .next s)
  ∧ (∀ (c : Instr) (s : State), s.up = false → c ≠ .resetAssert → c ≠ .resetRelease → c ≠ .powerRemoval → c ≠ .powerUp →
    exec c s = .next s)

/-- Every command is performed in every state, by a next state whose queue is the one it was given: no command stops the
device (the model's choice for commands that find nothing to do: log 3). -/
def Obligations.EveryCommandCompletes : Prop :=
  ∀ (c : Instr) (s : State), ∃ t, exec c s = .next t ∧ t.pending = s.pending

/-- Pins and power agree after every step that starts from a state in which they agree. -/
def Obligations.PowerInvKept : Prop := ∀ s t : State, PowerInv s → step s = .next t → PowerInv t

/-- They agree at reset, whose memories are in canonical form, with tide OFF at 0 and nothing pending. -/
def Obligations.ResetState : Prop :=
  PowerInv State.reset ∧ Ready State.reset ∧ State.reset.mem.wf = true ∧ State.reset.tideState = 0
    ∧ State.reset.tide.now = 0 ∧ State.reset.pending = []

/-- No step clears a fuse: not a reset, not the removal of power, not any command. -/
def Obligations.NoStepClearsFuses : Prop := ∀ s t : State, step s = .next t → FusesKept s t

/-- No command other than the removal of power takes away a trip that is in force. -/
def Obligations.TripsStay : Prop :=
  ∀ (c : Instr) (s t : State), c ≠ .powerRemoval → s.pwr.powered = true → s.pwr.tripped = true → exec c s = .next t →
    t.pwr.tripped = true

/-! ## Tide (R10 to R34, R286) -/

/-- The boundary of the device's own count takes tide to the next multiple of 1,024, or, where a load is armed that does not move tide
back, to TIDE_SET; what was armed is spent. A jump in ACQUIRE takes tide forward to the master's and is spent. As a boundary is taken, an
armed lock or load leaves a timing master LOCKED, with its own number and epoch in TIDE_MASTER_ID, HOPS 0 and no upstream port; a jump
leaves a device that follows LOCKED; and MASTER written 0 takes it to ACQUIRE. -/
def Obligations.TideBoundaries : Prop :=
  (∀ (s : State) (power : BitVec 16), Ready s → s.tideState ≠ 0 → s.loadTaken = false →
    Completes (.tickBoundary power) s fun t =>
      t.tide.now = BitVec.ofNat 64 ((s.tide.now.toNat / 1024 + 1) * 1024) ∧ t.tide.loadArmed = false ∧ t.tide.lockArmed = false)
  ∧ (∀ (s : State) (power : BitVec 16), Ready s → s.loadTaken = true →
    Completes (.tickBoundary power) s fun t => t.tide.now = s.r64 Reg.tideSet ∧ t.tide.loadArmed = false)
  ∧ (∀ (s : State) (master : Dword), Ready s → s.loadTaken = true →
    Completes (.tideJump master) s fun t => t.tide.now = s.r64 Reg.tideSet ∧ t.tide.loadArmed = false)
  ∧ (∀ (s : State) (master : Dword), Ready s → s.tideState = 1 → s.isMaster = false → s.tide.jumpDue = true →
    s.nextBoundary ≤ master.toNat →
    Completes (.tideJump master) s fun t => t.tide.now = master ∧ t.tide.jumpDue = false)
  ∧ (∀ (s : State) (v : Nat), s.tideState = 1 → s.rb Reg.tideCtrl 1 = true → s.tide.masterArmed = none →
    s.tide.lockArmed = true ∨ s.loadTaken = true →
    (s.advance v false).tideState = 2 ∧ (s.advance v false).upstream = 0xF ∧ (s.advance v false).rf Reg.tideStat 12 4 = 0
      ∧ (s.advance v false).r32 Reg.tideMasterId = BitVec.ofNat 32 (s.dev + s.rf Reg.tideCtrl 16 16 * 2 ^ 16))
  ∧ (∀ (s : State) (v : Nat), (s.advance v true).tideState = 2)
  ∧ (∀ (s : State) (v : Nat), s.rb Reg.tideCtrl 1 = false → s.tide.masterArmed = some false → (s.advance v false).tideState = 1)

/-- A REQ that is due takes the next exchange number and is outstanding with the tide at which it was sent; a RESP answers a REQ with
its exchange number and the two tides; each leaves in the next codeword of its port. A RESP that answers the REQ outstanding on its
port ends it. -/
def Obligations.TimeMessages : Prop :=
  (∀ (s : State) (p : Fin 8) (t1 : Nat), Ready s → s.tideState ≠ 0 → s.timePort p.val = true →
    s.reqDue p.val = true →
    Completes (.timeReqSend p t1) s fun t =>
      optAt t.tide.reqs p.val = some (t1, s.tide.xseq) ∧ t.tide.xseq = s.tide.xseq + 1
      ∧ ∃ lanes rest, t.out = .codeword p.val (.time false (s.timeMsg s.tide.xseq 0 0)) lanes :: rest
        ∧ ((s.port p.val).txNum % 8192 ≠ 0 → rest = s.out))
  ∧ (∀ (s : State) (p : Fin 8) (m : TimeMsg) (t2 t3 : Nat), Ready s → s.timePort p.val = true →
    Completes (.timeReqReceive p m t2 t3) s fun t =>
      ∃ (r : TimeMsg) (lanes : List (List Nat)) (rest : List Out),
        t.out = .codeword p.val (.time true r) lanes :: rest ∧ r.xseq = m.xseq ∧ r.t2 = t2 ∧ r.t3 = t3
        ∧ ((s.port p.val).txNum % 8192 ≠ 0 → rest = s.out))
  ∧ (∀ (s : State) (p : Fin 8) (m : TimeMsg) (t1 t4 : Nat), Ready s → s.tideState ≠ 0 → s.timePort p.val = true →
    optAt s.tide.reqs p.val = some (t1, m.xseq) →
    Completes (.timeRespReceive p m t4) s fun t => optAt t.tide.reqs p.val = none)

/-- The answer to a Delay_Req of the device completes an exchange with the master over PTP: it records the measured offset in
TIDE_OFFSET, here on a path without asymmetry, and ends the silence that HOLDOVER counts. LOCKED turns to HOLDOVER after 16 message periods without an exchange, class 10, and HOLDOVER to
LOST at its limit, class 3. -/
def Obligations.ExchangesAndHoldover : Prop :=
  (∀ (s : State) (p : Fin 8) (e : PtpEvent) (down t3 o : Int), Ready s → s.tideState ≠ 0 → s.portState p.val = 5 →
    s.ethernet p.val = true → s.ptpFollows p.val = true → e.msg.kind = .delayResp →
    (s.ptpPort p.val).asked = some (e.msg.seq, down, t3) →
    o = (down + (ptpTime e.msg - ptpCorr e.msg - t3)) / 2 / 4096 → o.natAbs < 2 ^ 17 → s.r32 (Reg.tideAsym p.val) = 0 →
    Completes (.ptpMessageReceive p e) s fun t =>
      t.r32 Reg.tideOffset = BitVec.ofInt 32 o ∧ t.tide.silent = 0 ∧ t.upstream = p.val ∧ (t.ptpPort p.val).asked = none)
  ∧ (∀ s : State, Ready s → s.tideState = 2 → s.isMaster = false → 16 * (s.r32 Reg.tideMsgPeriod).toNat ≤ s.tide.silent →
    Completes .holdoverEntry s fun t => t.tideState = 3 ∧ t.evq = s.evq ++ [⟨tidePn, 10, 10, 5125⟩])
  ∧ (∀ s : State, Ready s → s.tideState = 3 → s.isMaster = false → s.tide.epochWait = false →
    (s.r32 Reg.tideHoldoverLimit).toNat ≤ s.tide.holdTicks →
    Completes .holdoverLimitExpiry s fun t => t.tideState = 4 ∧ t.evq = s.evq ++ [⟨tidePn, 8, 3, 5125⟩])

/-- TIDE_CTRL: EN starts tide in ACQUIRE and stops it in OFF; MASTER is set; SET_LOAD in OFF loads tide at once and in ACQUIRE is
armed for the next boundary; REBASE leaves LOST for ACQUIRE; LOCK is armed in ACQUIRE. A step timer armed by EN 1 starts from the
next boundary on. A start that is due and can be delivered is delivered once the commands of its boundary are resolved: a signal to the
token counters of its group, or the interrupt of the serving cores, which timer 0 starts their step with; the starts that it stands for
but itself count in SKIPPED, and none is left lost. -/
def Obligations.TideControlsAndStepTimers : Prop :=
  (∀ s : State, Ready s → s.tideState = 0 → Completes (.tideEnWrite true) s fun t => t.tideState = 1)
  ∧ (∀ s : State, Ready s → s.tideState ≠ 0 → Completes (.tideEnWrite false) s fun t => t.tideState = 0)
  ∧ (∀ (s : State) (v : Bool), Ready s → Completes (.tideMasterWrite v) s fun t => t.rb Reg.tideCtrl 1 = v)
  ∧ (∀ s : State, Ready s → s.tideState = 0 → Completes .setLoad s fun t => t.tide.now = s.r64 Reg.tideSet)
  ∧ (∀ s : State, Ready s → s.tideState = 1 → s.isMaster = true → Completes .setLoad s fun t => t.tide.loadArmed = true)
  ∧ (∀ s : State, Ready s → s.tideState = 4 → Completes .rebase s fun t => t.tideState = 1)
  ∧ (∀ s : State, Ready s → s.tideState = 1 → s.isMaster = true → Completes .lock s fun t => t.tide.lockArmed = true)
  ∧ (∀ (s : State) (n : Fin 4) (ctrl : Word), Ready s → ctrl.getLsbD 0 = true →
    Completes (.stepTimerArm n ctrl) s fun t =>
      t.stepTimer n.val = ⟨s.tick + 1, 0⟩ ∧ t.rf (Reg.tideStepCtrl n.val) 0 8 = fld ctrl 0 8)
  ∧ (∀ (s : State) (n : Fin 4), DueOnly (.stepTimer n.val) s → s.unresolved = false → 0 < (s.stepTimer n.val).lost →
    s.rb (Reg.tideStepCtrl n.val) 1 = true → (n.val = 0 → s.running = false) →
    Completes (.stepTimerStart n) s fun t =>
      t.due = [] ∧ (t.stepTimer n.val).lost = 0 ∧ (s.released = true → .srvIrq n.val ∈ t.out) ∧ t.signals = s.signals
      ∧ t.heldSignals = s.heldSignals
      ∧ t.rf (Reg.tideStepCtrl n.val) 16 8
        = min 255 (s.rf (Reg.tideStepCtrl n.val) 16 8 + ((s.stepTimer n.val).lost - 1)))
  ∧ (∀ s : State, DueOnly (.stepTimer 0) s → s.unresolved = false → 0 < (s.stepTimer 0).lost →
    s.rb (Reg.tideStepCtrl 0) 1 = true → s.running = true → s.srv.basket.live = true → s.srv.basket.start = none →
    Completes (.stepTimerStart 0) s fun t =>
      t.due = [] ∧ (t.stepTimer 0).lost = 0 ∧ t.srv.basket.start = some s.tick
      ∧ t.r64 Reg.srvStepNum = s.r64 Reg.srvStepNum + 1)
  ∧ (∀ (s : State) (n : Fin 4), DueOnly (.stepTimer n.val) s → s.unresolved = false → 0 < (s.stepTimer n.val).lost →
    s.rb (Reg.tideStepCtrl n.val) 1 = false →
    Completes (.stepTimerStart n) s fun t =>
      t.due = [] ∧ (t.stepTimer n.val).lost = 0
      ∧ (s.duty = 0 → t.heldSignals = s.heldSignals ++ (s.groupEngines (s.rf (Reg.tideStepCtrl n.val) 8 4)).map fun e =>
          ⟨e, s.rf (Reg.tideStepCtrl n.val) 2 6, 1, false⟩)
      ∧ (s.duty ≠ 0 → ∀ e ∈ s.groupEngines (s.rf (Reg.tideStepCtrl n.val) 8 4),
          s.tcImg e (s.rf (Reg.tideStepCtrl n.val) 2 6) = 0 → s.tcStuck e (s.rf (Reg.tideStepCtrl n.val) 2 6) = false →
          (s.r32 (Reg.engTc e (s.rf (Reg.tideStepCtrl n.val) 2 6))).toNat + 1 < 2 ^ 32 →
          (t.r32 (Reg.engTc e (s.rf (Reg.tideStepCtrl n.val) 2 6))).toNat
            = (s.r32 (Reg.engTc e (s.rf (Reg.tideStepCtrl n.val) 2 6))).toNat + 1))

/-! ## Mode commits (R23 to R27, R46) -/

/-- A write of an engine's ENG_NUM_CTRL takes the next commit generation, is pending with the value written under it, and leaves the value
in force as it is until its commit. At the commit, at its boundary or late, the engine's pending value takes force as that generation,
with the tick of the commit. The commit of any unit leaves nothing of it pending and no commit of it outstanding; MIXED_TIMEOUT is
reported where units still owe theirs. -/
def Obligations.ModeCommits : Prop :=
  (∀ (s : State) (r : Requester) (e : Fin 256) (v : Word), Ready s → s.keyed r = true →
    Completes (.commitRequest r { off := Reg.engNumCtrl e.val, size := 4, data := v.setWidth 64 }) s fun t =>
      t.rf Reg.tideCommitGen 16 16 = (s.rf Reg.tideCommitGen 16 16 + 1) % 2 ^ 16
      ∧ t.rf (blkModeShadow (enPage e.val)) 0 16 = t.rf Reg.tideCommitGen 16 16
      ∧ t.rb (blkModeShadow (enPage e.val)) 16 = true
      ∧ (∀ j, optAt t.commit.shadow (Reg.engNumCtrl e.val / 4) = some j →
        j &&& shMask (Reg.engNumCtrl e.val / 4) = v &&& shMask (Reg.engNumCtrl e.val / 4))
      ∧ (optAt t.commit.shadow (Reg.engNumCtrl e.val / 4)).isSome = true ∧ (t.unitCommit (enPage e.val)).isSome = true
      ∧ t.rb (Reg.engNumCtrl e.val) 0 = s.rb (Reg.engNumCtrl e.val) 0)
  ∧ (∀ (s : State) (e : Fin 256) (v m : Word), DueOnly (.commit (enPage e.val)) s →
    s.pagePending (enPage e.val) = [(Reg.engNumCtrl e.val / 4, v)] → m = shMask (Reg.engNumCtrl e.val / 4) →
    Completes (.modeCommit (enPage e.val)) s fun t =>
      t.r32 (Reg.engNumCtrl e.val) = (s.r32 (Reg.engNumCtrl e.val) &&& ~~~m) ||| (v &&& m)
      ∧ t.rf (blkModeActive (enPage e.val)) 0 16 = s.rf (blkModeShadow (enPage e.val)) 0 16
      ∧ t.rb (blkModeShadow (enPage e.val)) 16 = false ∧ t.r64 (blkCommitTick (enPage e.val)) = BitVec.ofNat 64 s.tick)
  ∧ (∀ (s : State) (e : Fin 256) (v m : Word), DueOnly (.lateCommit (enPage e.val)) s →
    s.pagePending (enPage e.val) = [(Reg.engNumCtrl e.val / 4, v)] → m = shMask (Reg.engNumCtrl e.val / 4) →
    Completes (.unitLateCommit (enPage e.val)) s fun t =>
      t.r32 (Reg.engNumCtrl e.val) = (s.r32 (Reg.engNumCtrl e.val) &&& ~~~m) ||| (v &&& m)
      ∧ t.rf (blkModeActive (enPage e.val)) 0 16 = s.rf (blkModeShadow (enPage e.val)) 0 16
      ∧ t.rb (blkModeShadow (enPage e.val)) 16 = false ∧ t.r64 (blkCommitTick (enPage e.val)) = BitVec.ofNat 64 s.tick)
  ∧ (∀ (s : State) (pn : Nat), DueOnly (.commit pn) s →
    Completes (.modeCommit pn) s fun t => t.due = [] ∧ t.unitCommit pn = none ∧ t.pagePending pn = [])
  ∧ (∀ (s : State) (pn : Nat), DueOnly (.lateCommit pn) s →
    Completes (.unitLateCommit pn) s fun t => t.due = [] ∧ t.unitCommit pn = none ∧ t.pagePending pn = [])
  ∧ (∀ s : State, DueOnly .mixedTimeout s → s.owing ≠ [] →
    Completes .mixedTimeout s fun t => t.due = [] ∧ t.commit.timedOut = true)

/-! ## Registers (R36 to R46, R51) -/

/-- Writes by a requester that may make them complete without an error response. A word of a block's common header, other than BLK_CTRL
and BLK_PROTO_LIMIT: RW bits take the value written, W1C bits written 1 clear, every other bit and every other register stays; eight
bytes write two such words. BLK_PROTO_LIMIT takes a value from LOWEST to HIGHEST and ignores every other. BLK_CTRL of an engine sets
DEBUG and FLUSH_ON_FORCE and enables it, disables it or leaves its forced disable pending. ENG_XL_INV, CORE_XL_INV and SEC_MBX_IN act
on a write of all eight bytes, and on no other. -/
def Obligations.HeaderWordIsWritten : Prop :=
  (∀ (s : State) (r : Requester) (off : Nat) (v : Word) (w : Reg.WordInfo), Ready s →
    accessMapped { off := off, size := 4, data := v.setWidth 64 } = true → isPage off = true →
    off % 0x1000 < 0x100 → off % 0x1000 ≠ 0x10 → off % 0x1000 ≠ 0x3C → mayWrite r off = true → s.keyed r = true →
    Reg.info off = some w → w.sh = 0 →
    Completes (.regWrite r { off := off, size := 4, data := v.setWidth 64 }) s fun t =>
      t.r32 off = (((s.r32 off &&& ~~~w.rw) ||| (v &&& w.rw)) &&& ~~~(v &&& w.w1c))
      ∧ (∀ o, o / 4 ≠ off / 4 → t.r32 o = s.r32 o)
      ∧ t.out = .reg r true 0 :: s.out
      ∧ t.evq = s.evq ∧ t.tide = s.tide ∧ t.commit = s.commit ∧ t.engines = s.engines ∧ t.mem = s.mem ∧ t.ports = s.ports
      ∧ t.xpt = s.xpt ∧ t.srv = s.srv ∧ t.sec = s.sec)
  ∧ (∀ (s : State) (r : Requester) (off : Nat) (v : Dword) (lo hi : Reg.WordInfo), Ready s →
    accessMapped { off := off, size := 8, data := v } = true → isPage off = true → off % 0x1000 < 0x100 →
    off % 0x1000 ≠ 0x10 → off % 0x1000 ≠ 0x38 → mayWrite r off = true → mayWrite r (off + 4) = true → s.keyed r = true →
    Reg.info off = some lo → Reg.info (off + 4) = some hi → lo.sh = 0 → hi.sh = 0 →
    Completes (.regWrite r { off := off, size := 8, data := v }) s fun t =>
      t.r32 off = (((s.r32 off &&& ~~~lo.rw) ||| (v.setWidth 32 &&& lo.rw)) &&& ~~~(v.setWidth 32 &&& lo.w1c))
      ∧ t.r32 (off + 4) = (((s.r32 (off + 4) &&& ~~~hi.rw) ||| ((v >>> 32).setWidth 32 &&& hi.rw))
        &&& ~~~((v >>> 32).setWidth 32 &&& hi.w1c))
      ∧ (∀ o, o / 8 ≠ off / 8 → t.r32 o = s.r32 o) ∧ t.out = .reg r true 0 :: s.out ∧ t.evq = s.evq)
  ∧ (∀ (s : State) (r : Requester) (off pn : Nat) (v : Word) (w : Reg.WordInfo), Ready s → off = blkProtoLimit pn →
    accessMapped { off := off, size := 4, data := v.setWidth 64 } = true → isPage off = true → mayWrite r off = true →
    s.keyed r = true → Reg.info off = some w → w.sh = 0 →
    (s.rf (blkProto pn) 16 16 ≤ fld v 0 16 → fld v 0 16 ≤ s.rf (blkProto pn) 0 16 →
      Completes (.regWrite r { off := off, size := 4, data := v.setWidth 64 }) s fun t =>
        t.r32 off = (((s.r32 off &&& ~~~w.rw) ||| (v &&& w.rw)) &&& ~~~(v &&& w.w1c)) ∧ t.out = .reg r true 0 :: s.out)
    ∧ (fld v 0 16 < s.rf (blkProto pn) 16 16 ∨ s.rf (blkProto pn) 0 16 < fld v 0 16 →
      Completes (.regWrite r { off := off, size := 4, data := v.setWidth 64 }) s fun t =>
        t.regs = s.regs ∧ t.out = .reg r true 0 :: s.out))
  ∧ (∀ (s : State) (r : Requester) (e : Fin 256) (v : Word), Ready s → s.keyed r = true → s.debugLock = false →
    Completes (.regWrite r { off := blkCtrl (enPage e.val), size := 4, data := v.setWidth 64 }) s fun t =>
      t.out = .reg r true 0 :: s.out ∧ t.rb (blkCtrl (enPage e.val)) 2 = v.getLsbD 2 ∧ t.rb (blkCtrl (enPage e.val)) 8 = v.getLsbD 8
      ∧ (v.getLsbD 0 = true → (s.engine e.val).forcePend = false →
        t.rb (blkCtrl (enPage e.val)) 0 = true ∧ t.active (enPage e.val) = true)
      ∧ (v.getLsbD 0 = false → t.rb (blkCtrl (enPage e.val)) 0 = false
        ∧ (s.active (enPage e.val) = true → t.active (enPage e.val) = true ∧ t.draining (enPage e.val) = true)
        ∧ (t.engine e.val).forcePend = ((s.engine e.val).forcePend || v.getLsbD 1)))
  ∧ (∀ (s : State) (r : Requester) (e : Fin 256) (v : Dword), Ready s → s.keyed r = true →
    (Completes (.regWrite r { off := Reg.engXlInv e.val, size := 8, data := v }) s fun t =>
      t.out = .reg r true 0 :: s.out ∧ t.engines = (s.engInv e.val v).engines)
    ∧ Completes (.regWrite r { off := Reg.engXlInv e.val, size := 4, data := v }) s fun t =>
      t.out = .reg r false 0 :: s.out ∧ { t with out := s.out } = s)
  ∧ (∀ (s : State) (r : Requester) (c : Fin 8) (v : Dword), Ready s → s.keyed r = true →
    (Completes (.regWrite r { off := Reg.coreXlInv c.val, size := 8, data := v }) s fun t =>
      t.out = .reg r true 0 :: s.out ∧ t.mem = (s.coreInv c.val v).mem)
    ∧ Completes (.regWrite r { off := Reg.coreXlInv c.val, size := 4, data := v }) s fun t =>
      t.out = .reg r false 0 :: s.out ∧ { t with out := s.out } = s)
  ∧ (∀ (s : State) (v : Dword), Ready s → s.mbxTakes .host = true →
    (Completes (.regWrite .host { off := Reg.secMbxIn, size := 8, data := v }) s fun t =>
      t.out = .reg .host true 0 :: s.out ∧ t.sec = (s.mbxInput .host v).sec)
    ∧ Completes (.regWrite .host { off := Reg.secMbxIn, size := 4, data := v }) s fun t =>
      t.out = .reg .host false 0 :: s.out ∧ { t with out := s.out } = s)

/-- A word that a requester may not write, and one that a peer without the management key writes, stays as it is: the access is answered with an error response, and REG_ACCESS becomes pending
in the page, a class 10 event, or in each page of the group of a blanket page. An access that is not four or eight bytes, is not aligned to its size, lies outside the register
space or reaches no page is answered with an error response and changes nothing. -/
def Obligations.RefusedWritesChangeNothing : Prop :=
  (∀ (s : State) (r : Requester) (off : Nat) (v : Word) (k : Reg.Page × Nat), Ready s →
    accessMapped { off := off, size := 4, data := v.setWidth 64 } = true → Reg.page (off / 0x1000) = some k →
    needs64 k.1 (off % 0x1000) = false →
    mayWrite r off = false ∨ s.keyed r = false →
    Completes (.regWrite r { off := off, size := 4, data := v.setWidth 64 }) s fun t =>
      t.regs = s.regs ∧ t.evq = s.evq ++ [⟨off / 0x1000, 1, 10, pageSrc (off / 0x1000)⟩]
      ∧ t.out = .reg r false 0 :: s.out ∧ t.sec = s.sec ∧ t.mem = s.mem ∧ t.engines = s.engines)
  ∧ (∀ (s : State) (r : Requester) (a : RegAcc), Ready s → accessMapped a = true → isBlanket a.off = true → s.keyed r = false →
    Completes (.regWrite r a) s fun t =>
      t.regs = s.regs ∧ t.evq = s.evq ++ (s.blanketPages a.off).map (fun pn => ⟨pn, 1, 10, pageSrc pn⟩)
      ∧ t.out = .reg r false 0 :: s.out)
  ∧ (∀ (s : State) (r : Requester) (a : RegAcc), Ready s → accessMapped a = false →
    Completes (.regWrite r a) s fun t => t.out = .reg r false 0 :: s.out ∧ { t with out := s.out } = s)

/-- R45: a read at 0x800 + x of a page, for x below 0x800, returns the register at x with each SH field replaced by its pending
value, or by its value in force when none is pending; every other field reads as at x. A write to 0x800 or above is ignored. -/
def Obligations.ShadowView : Prop :=
  (∀ (s : State) (tag : BitVec 16) (off : Nat), Ready s → s.gp0Up = true → isPage off = true → off % 4 = 0 → off < regSpace →
    off % 0x1000 < 0x800 →
    Completes (.regRd tag (off + 0x800) 4) s fun t =>
      t.out = .regCpl tag 0 ((match optAt s.commit.shadow (off / 4) with
        | some v => ((s.wordRead off).2 &&& ~~~(shMask (off / 4))) ||| (v &&& shMask (off / 4))
        | none => (s.wordRead off).2).setWidth 64) :: (s.wordRead off).1.out)
  ∧ (∀ (s : State) (r : Requester) (off : Nat) (v : Word), Ready s → isPage off = true → off % 4 = 0 → off < regSpace →
    0x800 ≤ off % 0x1000 → mayWrite r off = true → s.keyed r = true →
    Completes (.regWrite r { off := off, size := 4, data := v.setWidth 64 }) s fun t =>
      t.out = .reg r true 0 :: s.out ∧ { t with out := s.out } = s)

/-- A write to a blanket page reaches every engine or channel of its group, enabled or not, and no other register: a word of the common
header as at each page alone; BLK_CTRL with EN 1 enables the members, with EN 0 it lets those that are active drain, and engines
outside the group stay as they were. -/
def Obligations.BlanketWriteReachesItsGroup : Prop :=
  (∀ (s : State) (r : Requester) (off : Nat) (v : Word) (late : List Nat), Ready s → s.keyed r = true → isBlanket off = true →
    off % 4 = 0 → off % 0x1000 < 0x100 → off % 0x1000 ≠ 0x10 → off % 0x1000 ≠ 0x3C →
    (∀ pn ∈ s.blanketPages off, shMask ((0x1000 * pn + off % 0x1000) / 4) = 0) →
    Completes (.blanketWrite r { off := off, size := 4, data := v.setWidth 64 } late) s fun t =>
      (∀ pn ∈ s.blanketPages off, t.r32 (0x1000 * pn + off % 0x1000) =
        match Reg.info (0x1000 * pn + off % 0x1000) with
        | some w => ((s.r32 (0x1000 * pn + off % 0x1000) &&& ~~~w.rw) ||| (v &&& w.rw)) &&& ~~~(v &&& w.w1c)
        | none => s.r32 (0x1000 * pn + off % 0x1000))
      ∧ (∀ o, (∀ pn ∈ s.blanketPages off, o / 4 ≠ (0x1000 * pn + off % 0x1000) / 4) → t.r32 o = s.r32 o)
      ∧ t.out = .reg r true 0 :: s.out ∧ t.evq = s.evq)
  ∧ (∀ (s : State) (r : Requester) (k : Nat) (v : Word) (late : List Nat), Ready s → s.keyed r = true → k < 16 →
    v.getLsbD 0 = true → (∀ e ∈ s.groupEngines k, (s.engine e).forcePend = false) →
    Completes (.blanketWrite r { off := 0x300010 + 0x1000 * k, size := 4, data := v.setWidth 64 } late) s fun t =>
      (∀ e ∈ s.groupEngines k, t.rb (blkCtrl (enPage e)) 0 = true ∧ t.active (enPage e) = true)
      ∧ (∀ e, e < 256 → e ∉ s.groupEngines k → t.r32 (blkCtrl (enPage e)) = s.r32 (blkCtrl (enPage e))
        ∧ t.r32 (blkStat (enPage e)) = s.r32 (blkStat (enPage e)))
      ∧ t.out = .reg r true 0 :: s.out)
  ∧ (∀ (s : State) (r : Requester) (k : Nat) (v : Word) (late : List Nat), Ready s → s.keyed r = true → k < 16 →
    v.getLsbD 0 = false → v.getLsbD 1 = false →
    Completes (.blanketWrite r { off := 0x300010 + 0x1000 * k, size := 4, data := v.setWidth 64 } late) s fun t =>
      (∀ e ∈ s.groupEngines k, t.rb (blkCtrl (enPage e)) 0 = false
        ∧ (s.active (enPage e) = true → t.draining (enPage e) = true))
      ∧ (∀ e, e < 256 → e ∉ s.groupEngines k → t.r32 (blkCtrl (enPage e)) = s.r32 (blkCtrl (enPage e))
        ∧ t.r32 (blkStat (enPage e)) = s.r32 (blkStat (enPage e)))
      ∧ t.out = .reg r true 0 :: s.out)
  ∧ (∀ (s : State) (r : Requester) (k : Nat) (v : Word) (late : List Nat), Ready s → s.keyed r = true → k < 16 →
    v.getLsbD 0 = true → s.mem.wbOwed = [] →
    (∀ ch ∈ s.groupChannels k, s.forced.contains (chPage ch) = false ∧ s.rb (Reg.stkStat ch) 0 = false) →
    Completes (.blanketWrite r { off := 0x310010 + 0x1000 * k, size := 4, data := v.setWidth 64 } late) s fun t =>
      (∀ ch ∈ s.groupChannels k, t.rb (blkCtrl (chPage ch)) 0 = true ∧ t.active (chPage ch) = true)
      ∧ t.mem = s.mem ∧ t.out = .reg r true 0 :: s.out)

/-! ## Enabling and disabling (R75, R76, R234, R340, R494) -/

/-- A write of 1 to EN enables an engine, or a channel whose traffic generator is idle, that has no forced disable pending; a
write of 0 to EN of a running engine leaves it active and draining, as it does a channel that still has accesses to perform, and an idle
channel inactive; a board interface is enabled and disabled likewise, and a port that is DOWN begins training as it is enabled; FORCE_OFF
with EN 0 leaves a forced disable pending; a draining engine with no task in flight completes its drain: ACTIVE, DRAINING and FORCED are 0 and DRAIN_COMPLETE is raised. -/
def Obligations.UnitsEnableAndDrain : Prop :=
  (∀ (s : State) (e : Fin 256), Ready s → (s.engine e.val).forcePend = false →
    Completes (.unitEnable (enPage e.val)) s fun t =>
      t.rb (blkCtrl (enPage e.val)) 0 = true ∧ t.active (enPage e.val) = true ∧ t.draining (enPage e.val) = false)
  ∧ (∀ (s : State) (ch : Fin 4096), Ready s → s.forced.contains (chPage ch.val) = false → s.rb (Reg.stkStat ch.val) 0 = false →
    s.mem.wbOwed = [] →
    Completes (.unitEnable (chPage ch.val)) s fun t =>
      t.rb (blkCtrl (chPage ch.val)) 0 = true ∧ t.active (chPage ch.val) = true ∧ t.mem = s.mem)
  ∧ (∀ (s : State) (e : Fin 256), Ready s → s.active (enPage e.val) = true →
    Completes (.gracefulDisable (enPage e.val)) s fun t =>
      t.rb (blkCtrl (enPage e.val)) 0 = false ∧ t.active (enPage e.val) = true ∧ t.draining (enPage e.val) = true
      ∧ t.engines = s.engines)
  ∧ (∀ (s : State) (ch : Fin 4096), Ready s → s.active (chPage ch.val) = true → s.chanBusy ch.val = false →
    Completes (.gracefulDisable (chPage ch.val)) s fun t =>
      t.rb (blkCtrl (chPage ch.val)) 0 = false ∧ t.active (chPage ch.val) = false ∧ t.mem = s.mem)
  ∧ (∀ (s : State) (ch : Fin 4096), Ready s → s.active (chPage ch.val) = true → s.chanBusy ch.val = true →
    Completes (.gracefulDisable (chPage ch.val)) s fun t =>
      t.rb (blkCtrl (chPage ch.val)) 0 = false ∧ t.active (chPage ch.val) = true ∧ t.draining (chPage ch.val) = true
      ∧ t.mem = s.mem)
  ∧ (∀ (s : State) (n : Fin 16), Ready s → s.forced.contains (bmPage n.val) = false →
    Completes (.unitEnable (bmPage n.val)) s fun t =>
      t.rb (blkCtrl (bmPage n.val)) 0 = true ∧ t.active (bmPage n.val) = true ∧ t.draining (bmPage n.val) = false ∧ t.mem = s.mem)
  ∧ (∀ (s : State) (n : Fin 16), Ready s → s.active (bmPage n.val) = true →
    Completes (.gracefulDisable (bmPage n.val)) s fun t =>
      t.rb (blkCtrl (bmPage n.val)) 0 = false ∧ t.active (bmPage n.val) = s.boardBusy n.val
      ∧ (s.boardBusy n.val = true → t.draining (bmPage n.val) = true) ∧ t.mem = s.mem)
  ∧ (∀ (s : State) (p : Fin 8), Ready s → (s.port p.val).forcePend = false → s.portEn p.val = false → s.portState p.val = 0 →
    (s.r32 (Reg.fabCfg p.val)).getLsbD 0 = false →
    Completes (.unitEnable (fpPage p.val)) s fun t =>
      t.rb (blkCtrl (fpPage p.val)) 0 = true ∧ t.active (fpPage p.val) = true ∧ t.portState p.val = 1)
  ∧ (∀ (s : State) (e : Fin 256), Ready s → s.rb (blkCtrl (enPage e.val)) 0 = false →
    Completes (.forceOff (enPage e.val)) s fun t => (t.engine e.val).forcePend = true ∧ t.regs = s.regs)
  ∧ (∀ (s : State) (ch : Fin 4096), Ready s → s.rb (blkCtrl (chPage ch.val)) 0 = false →
    Completes (.forceOff (chPage ch.val)) s fun t => t.forced.contains (chPage ch.val) = true ∧ t.regs = s.regs)
  ∧ (∀ (s : State) (e : Fin 256), Ready s → s.draining (enPage e.val) = true → s.noneInFlight e.val = true →
    Completes (.drainComplete e) s fun t =>
      t.rf (blkStat (enPage e.val)) 0 3 = 0 ∧ t.evq = s.evq ++ [⟨enPage e.val, 14, 5, e.val⟩])

/-- A forced disable at its boundary: the engine, channel or port that it reaches stands inactive with FORCED 1, and nothing of
the disable is pending any more. The task in flight of an engine ends CANCELLED: its signals leave with the error flag, its gives as they
are, DONE passes it, its destinations in the scratchpad are poisoned, its queue keeps the error, and TASK_ERR and DRAIN_COMPLETE are sampled; with FLUSH_ON_FORCE the fetched
descriptor that has not started goes with it. A read that waits at the channel is answered poisoned. A port's live queue pair enters ERROR. -/
def Obligations.ForcedDisables : Prop :=
  (∀ (s : State) (e : Fin 256), DueOnly (.forceEngine e.val) s →
    Completes (.forcedDisableEngine e) s fun t =>
      t.due = [] ∧ t.rf (blkStat (enPage e.val)) 0 3 = 4 ∧ (t.engine e.val).forcePend = false)
  ∧ (∀ (s : State) (e : Fin 256) (k : Task), DueOnly (.forceEngine e.val) s → (s.engine e.val).tasks = [k] → k.done = false →
    k.queue < 4 → k.held = false → (∀ x ∈ k.dests, ∃ u n, x = Dest.spad u n) → s.rb (blkCtrl (enPage e.val)) 8 = false →
    Completes (.forcedDisableEngine e) s fun t =>
      (∀ u n i, Dest.spad u n ∈ k.dests → u ≤ i → i < u + n → flagAt (t.engine e.val).spadPoison i = true) ∧
      (t.engine e.val).tasks = [] ∧ t.r32 (Reg.engQDone e.val k.queue) = s.r32 (Reg.engQDone e.val k.queue) + 1
      ∧ t.r32 (Reg.engQHead e.val k.queue) = s.r32 (Reg.engQHead e.val k.queue)
      ∧ t.rb (Reg.engQStat e.val k.queue) 8 = true
      ∧ t.rb (blkEvt (enPage e.val)) 8 = true ∧ t.rb (blkEvt (enPage e.val)) 14 = true
      ∧ t.signals = (s.sendSignals e.val k.desc true).signals
      ∧ t.gives = s.gives ++ (Desc.gives k.desc).map (fun g => (⟨g.engine, g.cc, g.count, false⟩ : Flight)))
  ∧ (∀ (s : State) (e : Fin 256) (q : Fin 4) (d : Desc), DueOnly (.forceEngine e.val) s → (s.engine e.val).tasks = [] →
    s.rb (blkCtrl (enPage e.val)) 8 = true → d.operation = some .nop → d.invalid e.val (s.engine e.val) = false →
    Sparse.get (fun _ => []) (s.engine e.val).fetched q.val = [d] →
    s.r32 (Reg.engQTail e.val q.val) = s.r32 (Reg.engQHead e.val q.val) + 1 →
    (∀ p : Fin 4, p ≠ q → s.r32 (Reg.engQTail e.val p.val) = s.r32 (Reg.engQHead e.val p.val)) →
    Completes (.forcedDisableEngine e) s fun t =>
      t.r32 (Reg.engQHead e.val q.val) = s.r32 (Reg.engQTail e.val q.val)
      ∧ t.r32 (Reg.engQDone e.val q.val) = s.r32 (Reg.engQDone e.val q.val) + 1
      ∧ t.rb (Reg.engQStat e.val q.val) 8 = true ∧ t.signals = (s.sendSignals e.val d true).signals
      ∧ t.gives = s.gives ++ d.gives.map (fun g => (⟨g.engine, g.cc, g.count, false⟩ : Flight)))
  ∧ (∀ (s : State) (ch : Fin 4096), DueOnly (.forceChannel (chPage ch.val)) s → s.mem.waiting = [] →
    Completes (.forcedDisableChannel (chPage ch.val)) s fun t =>
      t.due = [] ∧ t.rf (blkStat (chPage ch.val)) 0 3 = 4 ∧ t.forced.contains (chPage ch.val) = false ∧ t.mem = s.mem)
  ∧ (∀ (s : State) (ch : Fin 4096) (src off key : Nat), DueOnly (.forceChannel (chPage ch.val)) s →
    s.mem.waiting = [.stack ⟨src, off, .read, 1, []⟩] → off % 128 = 0 → s.place off = some key → keyChan key = ch.val →
    s.quarantined (keyCore key) off = false → s.cached key = none → s.chanOn ch.val = false →
    Completes (.forcedDisableChannel (chPage ch.val)) s fun t =>
      t.due = [] ∧ t.rf (blkStat (chPage ch.val)) 0 3 = 4 ∧ t.mem.waiting = [] ∧ ∃ d, .line src true true d ∈ t.out)
  ∧ (∀ (s : State) (n : Fin 16), DueOnly (.forceChannel (bmPage n.val)) s → s.mem.lower = [] →
    Completes (.forcedDisableChannel (bmPage n.val)) s fun t =>
      t.due = [] ∧ t.rf (blkStat (bmPage n.val)) 0 3 = 4 ∧ t.forced.contains (bmPage n.val) = false ∧ t.mem = s.mem)
  ∧ (∀ (s : State) (p : Fin 8), DueOnly (.forcePort p.val) s → s.liveQps = [] →
    Completes (.forcedDisablePort p) s fun t =>
      t.due = [] ∧ t.rf (blkStat (fpPage p.val)) 0 3 = 4 ∧ t.portState p.val = 0 ∧ (t.port p.val).forcePend = false)
  ∧ (∀ (s : State) (p : Fin 8) (n : Nat), DueOnly (.forcePort p.val) s → s.liveQps = [n] → (s.qp n).port = p.val →
    (s.qp n).state ≠ 0 → (s.qp n).state ≠ 6 → s.xpt.cqOvf = [] → (s.qp n).rsigs = [] → (s.qp n).sqTail = (s.qp n).sqDone →
    (s.qp n).rqTail = (s.qp n).rqDone →
    Completes (.forcedDisablePort p) s fun t =>
      t.due = [] ∧ (t.qp n).state = 6 ∧ (t.qp n).errStatus = 2 ∧ (t.qp n).wqes = [] ∧ t.portState p.val = 0)

/-! ## Tasks: the start (R58 to R68) -/

/-- Control tasks and tasks of the matrix unit start where the head of their queue can and no wait of theirs meets an error: they
join the tasks in flight, HEAD passes them, and their unit performs them on what the start has consumed, or they wait for the tile
that an earlier task holds. A TICK whose boundary is past completes at once. -/
def Obligations.ControlAndMatrixTasksStart : Prop :=
  (∀ (s : State) (e : Fin 256) (q : Fin 4) (d : Desc), Startable s e.val q.val d .tick → d.waits.any (s.waitErr e.val) = false →
    (s.tick < d.op 0 64 →
      Completes (.tick e q) s (Performed s e.val q.val d 0 (performControl (given s e.val q.val d 0) e.val q.val d)))
    ∧ (d.op 0 64 ≤ s.tick → (s.engine e.val).tasks = [] →
      Completes (.tick e q) s fun t =>
        t.r32 (Reg.engQHead e.val q.val) = s.r32 (Reg.engQHead e.val q.val) + 1
        ∧ t.r32 (Reg.engQDone e.val q.val) = s.r32 (Reg.engQDone e.val q.val) + 1 ∧ (t.engine e.val).tasks = []))
  ∧ StartsAs .event .event noSlots performControl
  ∧ StartsAs .mmaFp8 .mmaFp8 mmaSlots (performMma .mmaFp8)
  ∧ StartsAs .mmaCode .mmaCode mmaSlots (performMma .mmaCode)
  ∧ StartsAs .mmaInt8 .mmaInt8 mmaSlots (performMma .mmaInt8)
  ∧ StartsAs .mmaBf16 .mmaBf16 mmaSlots (performMma .mmaBf16)
  ∧ StartsAs .tileZero .tileZero tileOutSlots performTileZero
  ∧ StartsAs .tileOut .tileOut tileOutSlots performTileOut
  ∧ StartsAs .kvAppend .kvAppend tileOutSlots performKvAppend
  ∧ StartsAs .tileSave .tileSave allSlots performTileSave
  ∧ StartsAs .tileLoad .tileLoad allSlots performTileLoad

/-- Tasks of the vector unit start where the head of their queue can and no wait of theirs meets an error: they join the tasks in
flight, HEAD passes them, and their unit performs them on what the start has consumed, or they wait for the tile that an earlier
task holds. -/
def Obligations.VectorTasksStart : Prop :=
  StartsAs .chain .chain chainSlots performChain
  ∧ StartsAs .permute .permute noSlots (performVec streamWrites permuteReads runPermute)
  ∧ StartsAs .shuffle .shuffle noSlots (performVec streamWrites shuffleReads runShuffle)
  ∧ StartsAs .pack .pack noSlots (performVec packWrites packReads runPack)
  ∧ StartsAs .unpack .unpack noSlots (performVec streamWrites unpackReads runUnpack)
  ∧ StartsAs .rotary .rotary noSlots (performVec streamWrites rotaryReads runRotary)
  ∧ StartsAs .topk .topk noSlots (performVec topkWrites topkReads runTopk)
  ∧ StartsAs .sample .sample noSlots (performVec sampleWrites sampleReads runSample)
  ∧ StartsAs .random .random noSlots (performVec streamWrites randomReads runRandom)
  ∧ StartsAs .quant .quant noSlots performQuant

/-- Tasks of the attention and move units start where the head of their queue can and no wait of theirs meets an error: they join the tasks in
flight, HEAD passes them, and their unit performs them on what the start has consumed, or they wait for the tile that an earlier
task holds. -/
def Obligations.AttentionAndMoveTasksStart : Prop :=
  StartsAs .attnFwd .attnFwd noSlots (performAttn false)
  ∧ StartsAs .attnMerge .attnMerge noSlots performMerge
  ∧ StartsAs .attnBwd .attnBwd noSlots (performAttn true)
  ∧ StartsAs .load .load noSlots performLoad
  ∧ StartsAs .store .store noSlots performStore
  ∧ StartsAs .accum .accum noSlots performAccum
  ∧ StartsAs .copy .copy noSlots performCopy
  ∧ StartsAs .brinePack .brinePack noSlots performBrinePack
  ∧ StartsAs .brineUnpack .brineUnpack noSlots performBrineUnpack

/-- A task that finds an error at a wait starts all the same and is not performed, whatever its operation: it is in flight with status
TOKEN_ERR (a TICK completes with it at once), and the scratchpad and the accumulators of its engine stay as they are. -/
def Obligations.TaskWithAnErrorIsNotPerformed : Prop :=
  (∀ (s : State) (e : Fin 256) (q : Fin 4) (d : Desc), Startable s e.val q.val d .tick → d.waits.any (s.waitErr e.val) = true →
    (s.engine e.val).tasks = [] →
    Completes (.tick e q) s fun t =>
      t.r32 (Reg.engQDone e.val q.val) = s.r32 (Reg.engQDone e.val q.val) + 1 ∧ t.rb (Reg.engQStat e.val q.val) 8 = true
      ∧ (t.engine e.val).tasks = [] ∧ SameUnits s t e.val)
  ∧ NotPerformedAs .event .event noSlots
  ∧ NotPerformedAs .mmaFp8 .mmaFp8 mmaSlots
  ∧ NotPerformedAs .mmaCode .mmaCode mmaSlots
  ∧ NotPerformedAs .mmaInt8 .mmaInt8 mmaSlots
  ∧ NotPerformedAs .mmaBf16 .mmaBf16 mmaSlots
  ∧ NotPerformedAs .tileZero .tileZero tileOutSlots
  ∧ NotPerformedAs .tileOut .tileOut tileOutSlots
  ∧ NotPerformedAs .kvAppend .kvAppend tileOutSlots
  ∧ NotPerformedAs .tileSave .tileSave allSlots
  ∧ NotPerformedAs .tileLoad .tileLoad allSlots
  ∧ NotPerformedAs .chain .chain chainSlots
  ∧ NotPerformedAs .permute .permute noSlots
  ∧ NotPerformedAs .shuffle .shuffle noSlots
  ∧ NotPerformedAs .pack .pack noSlots
  ∧ NotPerformedAs .unpack .unpack noSlots
  ∧ NotPerformedAs .rotary .rotary noSlots
  ∧ NotPerformedAs .topk .topk noSlots
  ∧ NotPerformedAs .sample .sample noSlots
  ∧ NotPerformedAs .random .random noSlots
  ∧ NotPerformedAs .quant .quant noSlots
  ∧ NotPerformedAs .attnFwd .attnFwd noSlots
  ∧ NotPerformedAs .attnMerge .attnMerge noSlots
  ∧ NotPerformedAs .attnBwd .attnBwd noSlots
  ∧ NotPerformedAs .load .load noSlots
  ∧ NotPerformedAs .store .store noSlots
  ∧ NotPerformedAs .accum .accum noSlots
  ∧ NotPerformedAs .copy .copy noSlots
  ∧ NotPerformedAs .brinePack .brinePack noSlots
  ∧ NotPerformedAs .brineUnpack .brineUnpack noSlots

/-- TILE_ZERO leaves every word of its tile's slots at zero, without flags or poison, and every other slot as it was. -/
def Obligations.TileZeroClears : Prop :=
  ∀ (s : State) (e : Fin 256) (q : Fin 4) (d : Desc), Startable s e.val q.val d .tileZero → d.waits.any (s.waitErr e.val) = false →
    slotsTaken s e.val d (tileOutSlots (s.engine e.val) d) = false →
    Completes (.tileZero e q) s fun t =>
      (∀ slot ∈ tileSlots d.tileOp.tile d.tileOp.shape, ∀ w, w < 2048 → (t.engine e.val).accWord slot w = 0)
      ∧ (∀ slot ∈ tileSlots d.tileOp.tile d.tileOp.shape,
        ((t.engine e.val).slot slot).flags = 0 ∧ ((t.engine e.val).slot slot).poison = 0
        ∧ ((t.engine e.val).slot slot).shape = some (BitVec.ofNat 2 d.tileOp.shape))
      ∧ (∀ slot, slot ∉ tileSlots d.tileOp.tile d.tileOp.shape →
        (t.engine e.val).slot slot = (s.engine e.val).slot slot
        ∧ ∀ w, w < 2048 → (t.engine e.val).accWord slot w = (s.engine e.val).accWord slot w)

/-- R416: each 32-byte unit of the scratchpad carries one poison bit. A write that covers the whole unit sets it to the poison of the
data written, one that covers part of it sets it where its data are poisoned and else leaves it; a read that touches a marked unit
reads poisoned. -/
def Obligations.ScratchpadPoisonBits : Prop :=
  (∀ (g : Engine) (a u : Nat) (b : List Byte) (p : Bool), b ≠ [] →
    (a ≤ 32 * u → 32 * u + 32 ≤ a + b.length → flagAt (spadWrite g a b p).spadPoison u = p)
    ∧ (a < 32 * u + 32 → 32 * u < a + b.length → ¬ (a ≤ 32 * u ∧ 32 * u + 32 ≤ a + b.length) →
      flagAt (spadWrite g a b p).spadPoison u = (flagAt g.spadPoison u || p))
    ∧ (32 * u + 32 ≤ a ∨ a + b.length ≤ 32 * u → flagAt (spadWrite g a b p).spadPoison u = flagAt g.spadPoison u))
  ∧ (∀ (g : Engine) (a n : Nat), 0 < n →
    (spadPoisoned g a n = true ↔ ∃ u, a / 32 ≤ u ∧ u ≤ (a + n - 1) / 32 ∧ flagAt g.spadPoison u = true))

/-! ## Queues: TAIL, fetch, stop, completion (R58 to R62, R73, R495) -/

/-- A write of TAIL takes it where the queue then holds no more tasks than its entries and HEAD is not behind it, and keeps what
is fetched below it; every other write is ignored and raises QUEUE_RANGE. The next descriptor below TAIL is fetched, or stops its
queue with FSTOP and its cause, and none is where there is none or where the queue or its engine does not run. A write of 1 to FSTOP clears
it and its cause, and the descriptor is fetched again where the engine is active. -/
def Obligations.QueueTailAndFetch : Prop :=
  (∀ (s : State) (e : Fin 256) (q : Fin 4) (v done head : Word), Ready s → done = s.r32 (Reg.engQDone e.val q.val) →
    head = s.r32 (Reg.engQHead e.val q.val) →
    (wrapDist v done ≤ 2 ^ s.rf (Reg.engQCfg e.val q.val) 0 5 → wrapDist head done ≤ wrapDist v done →
      Completes (.queueTailWrite e q v) s fun t =>
        t.r32 (Reg.engQTail e.val q.val) = v ∧ t.evq = s.evq
        ∧ Sparse.get (fun _ => []) (t.engine e.val).fetched q.val
          = (Sparse.get (fun _ => []) (s.engine e.val).fetched q.val).take (wrapDist v done - wrapDist head done)
        ∧ ∀ o, o / 4 ≠ Reg.engQTail e.val q.val / 4 → t.r32 o = s.r32 o)
    ∧ (2 ^ s.rf (Reg.engQCfg e.val q.val) 0 5 < wrapDist v done ∨ wrapDist v done < wrapDist head done →
      Completes (.queueTailWrite e q v) s fun t =>
        t.regs = s.regs ∧ t.engines = s.engines ∧ t.evq = s.evq ++ [⟨enPage e.val, 11, 10, e.val⟩]))
  ∧ (∀ (s : State) (e : Fin 256) (q : Fin 4), Ready s → toFetch s e.val q.val = true → s.rb (Reg.engQStat e.val q.val) 9 = false →
    Completes (.descriptorFetch e q) s (Fetched s s e.val q.val))
  ∧ (∀ (s : State) (e : Fin 256) (q : Fin 4), Ready s → toFetch s e.val q.val = false ∨ s.rb (Reg.engQStat e.val q.val) 9 = true →
    Completes (.descriptorFetch e q) s fun t => t.regs = s.regs ∧ t.engines = s.engines ∧ t.evq = s.evq)
  ∧ (∀ (s : State) (e : Fin 256) (q : Fin 4), Ready s → s.rb (Reg.engQStat e.val q.val) 9 = true →
    (toFetch s e.val q.val = true →
      Completes (.fstopClear e q) s
        (Fetched s ((s.wb (Reg.engQStat e.val q.val) 9 false).wf (Reg.engQStat e.val q.val) 10 2 0) e.val q.val))
    ∧ (toFetch s e.val q.val = false →
      Completes (.fstopClear e q) s fun t =>
        t.rb (Reg.engQStat e.val q.val) 9 = false ∧ t.rf (Reg.engQStat e.val q.val) 10 2 = 0 ∧ t.engines = s.engines
        ∧ ∀ o, o / 4 ≠ Reg.engQStat e.val q.val / 4 → t.r32 o = s.r32 o))
  ∧ (∀ (s : State) (e : Fin 256) (q : Fin 4), Ready s → s.rb (Reg.engQStat e.val q.val) 9 = false →
    Completes (.fstopClear e q) s fun t => t.regs = s.regs ∧ t.engines = s.engines ∧ t.evq = s.evq)

/-- A NOP starts and completes at once, with TOKEN_ERR where a wait of it meets an error, and an invalid descriptor starts and completes
DESC_ERR; at the front of their queue they retire: HEAD and DONE pass them, and their signals, which carry the error flag where they
failed, and their gives are on their way. -/
def Obligations.NopAndInvalidCompleteAtOnce : Prop :=
  (∀ (s : State) (e : Fin 256) (q : Fin 4) (d : Desc), Startable s e.val q.val d .nop → d.waits.any (s.waitErr e.val) = false →
    s.qTasks e.val q.val = [] →
    Completes (.nop e q) s fun t =>
      t.r32 (Reg.engQHead e.val q.val) = s.r32 (Reg.engQHead e.val q.val) + 1
      ∧ t.r32 (Reg.engQDone e.val q.val) = s.r32 (Reg.engQDone e.val q.val) + 1
      ∧ (t.engine e.val).tasks = (s.engine e.val).tasks ∧ t.signals = (s.sendSignals e.val d false).signals
      ∧ t.gives = s.gives ++ d.gives.map (fun g => (⟨g.engine, g.cc, g.count, false⟩ : Flight)))
  ∧ (∀ (s : State) (e : Fin 256) (q : Fin 4) (d : Desc), Startable s e.val q.val d .nop → d.waits.any (s.waitErr e.val) = true →
    s.qTasks e.val q.val = [] →
    Completes (.nop e q) s fun t =>
      t.r32 (Reg.engQHead e.val q.val) = s.r32 (Reg.engQHead e.val q.val) + 1
      ∧ t.r32 (Reg.engQDone e.val q.val) = s.r32 (Reg.engQDone e.val q.val) + 1
      ∧ t.rb (Reg.engQStat e.val q.val) 8 = true ∧ ⟨enPage e.val, 8, 5, e.val⟩ ∈ t.evq
      ∧ t.signals = (s.sendSignals e.val d true).signals
      ∧ t.gives = s.gives ++ d.gives.map (fun g => (⟨g.engine, g.cc, g.count, false⟩ : Flight)))
  ∧ (∀ (s : State) (e : Fin 256) (q : Fin 4) (d : Desc), Ready s → s.head e.val q.val = some d →
    s.ready e.val q.val = true → d.invalid e.val (s.engine e.val) = true → s.qTasks e.val q.val = [] →
    Completes (.invalidDescriptor e q) s fun t =>
      t.r32 (Reg.engQHead e.val q.val) = s.r32 (Reg.engQHead e.val q.val) + 1
      ∧ t.r32 (Reg.engQDone e.val q.val) = s.r32 (Reg.engQDone e.val q.val) + 1
      ∧ t.rb (Reg.engQStat e.val q.val) 8 = true ∧ ⟨enPage e.val, 8, 5, e.val⟩ ∈ t.evq)

/-- The only task in flight of an engine, with nothing left to add to memory, completes and retires: DONE passes it, HEAD stays, its
gives are on their way. Where it fails inside its unit it completes UNIT_ERR, which sets its queue's error bit and raises TASK_ERR;
where it ends OK its engine's scratchpad and accumulators stay as they are. -/
def Obligations.TaskCompletes : Prop :=
  ∀ (s : State) (e : Fin 256) (q : Fin 4) (k : Task) (bad : Bool), Ready s → (s.engine e.val).tasks = [k] → k.queue = q.val →
    k.done = false → k.counts = [] → k.owed = [] → k.status = stOk →
    (Desc.operation k.desc = some .tick → Desc.op k.desc 0 64 ≤ s.tick) → s.mem.lowerWait e.val q.val k.index = false →
    Completes (.taskComplete e q k.index bad) s fun t =>
      t.r32 (Reg.engQDone e.val q.val) = s.r32 (Reg.engQDone e.val q.val) + 1
      ∧ t.r32 (Reg.engQHead e.val q.val) = s.r32 (Reg.engQHead e.val q.val)
      ∧ (t.engine e.val).tasks = []
      ∧ t.gives = s.gives ++ (Desc.gives k.desc).map (fun g => (⟨g.engine, g.cc, g.count, false⟩ : Flight))
      ∧ (bad = false ∨ 4 ≤ Desc.unit k.desc → SameUnits s t e.val)
      ∧ (bad = true → Desc.unit k.desc < 4 →
        t.rb (Reg.engQStat e.val q.val) 8 = true ∧ ⟨enPage e.val, 8, 2, e.val⟩ ∈ t.evq)

/-! ## Tokens and credits (R63 to R67, R450) -/

/-- A signal adds its amount to its token counter and its error to the error flag; a sum of 2^32 or more leaves all ones, the stuck
flag and TOKEN_OVF, and a stuck counter stays. While the duty is 0 the signal is held. A signal or give to a counter that is away
is added by a near-memory operation to its word of the image that holds it, and a signal's error to the image's error word. A give adds to its credit counter up to
LIMIT; beyond it, VALUE is LIMIT, the overflow flag is set and CREDIT_OVF is raised. -/
def Obligations.TokensAndCreditsArrive : Prop :=
  (∀ (s : State) (f : Flight) (rest : List Flight), Ready s → s.signals = f :: rest → s.duty ≠ 0 → f.engine < 256 →
    f.counter < 64 → s.tcImg f.engine f.counter = 0 →
    Completes .tokenSignalArrive s fun t =>
      t.signals = rest ∧ t.tcErr f.engine f.counter = (s.tcErr f.engine f.counter || f.err)
      ∧ (s.tcStuck f.engine f.counter = true →
        t.r32 (Reg.engTc f.engine f.counter) = s.r32 (Reg.engTc f.engine f.counter) ∧ t.evq = s.evq)
      ∧ (s.tcStuck f.engine f.counter = false → (s.r32 (Reg.engTc f.engine f.counter)).toNat + f.amount < 2 ^ 32 →
        (t.r32 (Reg.engTc f.engine f.counter)).toNat = (s.r32 (Reg.engTc f.engine f.counter)).toNat + f.amount ∧ t.evq = s.evq)
      ∧ (s.tcStuck f.engine f.counter = false → 2 ^ 32 ≤ (s.r32 (Reg.engTc f.engine f.counter)).toNat + f.amount →
        t.r32 (Reg.engTc f.engine f.counter) = 0xFFFFFFFF ∧ t.tcStuck f.engine f.counter = true
        ∧ t.evq = s.evq ++ [⟨enPage f.engine, 9, 10, f.engine⟩]))
  ∧ (∀ (s : State) (f : Flight) (rest : List Flight), Ready s → s.signals = f :: rest → s.duty = 0 →
    Completes .tokenSignalArrive s fun t =>
      t.signals = rest ∧ t.heldSignals = s.heldSignals ++ [f] ∧ t.regs = s.regs ∧ t.evq = s.evq)
  ∧ (∀ (s u : State) (f : Flight) (rest : List Flight) (img : Nat), Ready s → s.signals = f :: rest → s.duty ≠ 0 →
    img = s.tcImg f.engine f.counter → img ≠ 0 →
    u = ({ s with signals := rest }.nma (s.awayWord f.engine img (8 * f.counter)) f.engine 9 [f.amount] 0 false).1 →
    (f.err = false → Completes .tokenSignalArrive s fun t => t.mem = u.mem)
    ∧ (f.err = true → Completes .tokenSignalArrive s fun t =>
        t.mem = (u.nma (u.awayWord f.engine img 0x200) f.engine 13 [2 ^ f.counter] 0 false).1.mem))
  ∧ (∀ (s : State) (f : Flight) (rest : List Flight) (img : Nat), Ready s → s.gives = f :: rest →
    img = s.ccImg f.engine f.counter → img ≠ 0 →
    Completes .creditGiveArrive s fun t =>
      t.mem = ({ s with gives := rest }.nma (s.awayWord f.engine img (0x240 + 8 * f.counter)) f.engine 9 [f.amount * 2 ^ 16] 0
        false).1.mem)
  ∧ (∀ (s : State) (f : Flight) (rest : List Flight), Ready s → s.gives = f :: rest → f.engine < 256 → f.counter < 32 →
    s.ccImg f.engine f.counter = 0 →
    Completes .creditGiveArrive s fun t =>
      t.gives = rest
      ∧ (s.rf (Reg.engCc f.engine f.counter) 0 16 + f.amount ≤ s.rf (Reg.engCc f.engine f.counter) 16 16 →
        t.rf (Reg.engCc f.engine f.counter) 0 16 = s.rf (Reg.engCc f.engine f.counter) 0 16 + f.amount ∧ t.evq = s.evq)
      ∧ (s.rf (Reg.engCc f.engine f.counter) 16 16 < s.rf (Reg.engCc f.engine f.counter) 0 16 + f.amount →
        t.rf (Reg.engCc f.engine f.counter) 0 16 = s.rf (Reg.engCc f.engine f.counter) 16 16
        ∧ (t.r32 (Reg.engCcOvf f.engine)).getLsbD f.counter = true
        ∧ t.evq = s.evq ++ [⟨enPage f.engine, 10, 10, f.engine⟩]))

/-- Writes of the counters: ENG_TC_ADD adds as a signal does, with its error, its stuck counter and its overflow, or is held as one, or
added to the image of a counter that is away; a token counter takes the value and is no longer
stuck; a credit counter takes VALUE and LIMIT, VALUE not above LIMIT; no other register changes. A write of a counter that is away
is refused. -/
def Obligations.CounterWrites : Prop :=
  (∀ (s : State) (e : Fin 256) (v : Word), Ready s → s.duty ≠ 0 → v.getLsbD 8 = false → s.tcImg e.val (fld v 0 6) = 0 →
    s.tcStuck e.val (fld v 0 6) = false → (s.r32 (Reg.engTc e.val (fld v 0 6))).toNat + fld v 16 16 < 2 ^ 32 →
    Completes (.engTcAdd e v) s fun t =>
      (t.r32 (Reg.engTc e.val (fld v 0 6))).toNat = (s.r32 (Reg.engTc e.val (fld v 0 6))).toNat + fld v 16 16
      ∧ ∀ o, o / 4 ≠ Reg.engTc e.val (fld v 0 6) / 4 → t.r32 o = s.r32 o)
  ∧ (∀ (s : State) (e : Fin 256) (v : Word) (c : Nat), Ready s → s.duty ≠ 0 → c = fld v 0 6 → s.tcImg e.val c = 0 →
    Completes (.engTcAdd e v) s fun t =>
      t.tcErr e.val c = (s.tcErr e.val c || v.getLsbD 8)
      ∧ (s.tcStuck e.val c = true → t.r32 (Reg.engTc e.val c) = s.r32 (Reg.engTc e.val c) ∧ t.evq = s.evq)
      ∧ (s.tcStuck e.val c = false → 2 ^ 32 ≤ (s.r32 (Reg.engTc e.val c)).toNat + fld v 16 16 →
        t.r32 (Reg.engTc e.val c) = 0xFFFFFFFF ∧ t.tcStuck e.val c = true
        ∧ t.evq = s.evq ++ [⟨enPage e.val, 9, 10, e.val⟩]))
  ∧ (∀ (s : State) (e : Fin 256) (v : Word) (img : Nat), Ready s → s.duty ≠ 0 → v.getLsbD 8 = false →
    img = s.tcImg e.val (fld v 0 6) → img ≠ 0 →
    Completes (.engTcAdd e v) s fun t =>
      t.mem = (s.nma (s.awayWord e.val img (8 * fld v 0 6)) e.val 9 [fld v 16 16] 0 false).1.mem)
  ∧ (∀ (s : State) (e : Fin 256) (v : Word), Ready s → s.duty = 0 →
    Completes (.engTcAdd e v) s fun t =>
      t.heldSignals = s.heldSignals ++ [⟨e.val, fld v 0 6, fld v 16 16, v.getLsbD 8⟩] ∧ t.regs = s.regs)
  ∧ (∀ (s : State) (e : Fin 256) (c : Fin 64) (v : Word), Ready s → s.tcImg e.val c.val = 0 →
    Completes (.engTcWrite e c v) s fun t =>
      t.r32 (Reg.engTc e.val c.val) = v ∧ t.tcStuck e.val c.val = false ∧ t.evq = s.evq
      ∧ ∀ c' : Fin 64, c' ≠ c → t.r32 (Reg.engTc e.val c'.val) = s.r32 (Reg.engTc e.val c'.val))
  ∧ (∀ (s : State) (e : Fin 256) (c : Fin 32) (v : Word), Ready s → s.ccImg e.val c.val = 0 → fld v 0 16 ≤ fld v 16 16 →
    Completes (.engCcWrite e c v) s fun t =>
      t.r32 (Reg.engCc e.val c.val) = v ∧ t.evq = s.evq ∧ ∀ o, o / 4 ≠ Reg.engCc e.val c.val / 4 → t.r32 o = s.r32 o)
  ∧ (∀ (s : State) (e : Fin 256) (c : Fin 32) (v : Word), Ready s → s.ccImg e.val c.val = 0 → fld v 16 16 < fld v 0 16 →
    Completes (.engCcWrite e c v) s fun t =>
      t.rf (Reg.engCc e.val c.val) 0 16 = fld v 16 16 ∧ t.rf (Reg.engCc e.val c.val) 16 16 = fld v 16 16
      ∧ (t.r32 (Reg.engCcOvf e.val)).getLsbD c.val = true ∧ t.evq = s.evq ++ [⟨enPage e.val, 10, 10, e.val⟩])
  ∧ (∀ (s : State) (e : Fin 256) (c : Fin 64) (v : Word), Ready s → s.tcImg e.val c.val ≠ 0 →
    Completes (.engTcWrite e c v) s fun t => t.regs = s.regs ∧ t.evq = s.evq ++ [⟨enPage e.val, 1, 10, e.val⟩])
  ∧ (∀ (s : State) (e : Fin 256) (c : Fin 32) (v : Word), Ready s → s.ccImg e.val c.val ≠ 0 →
    Completes (.engCcWrite e c v) s fun t => t.regs = s.regs ∧ t.evq = s.evq ++ [⟨enPage e.val, 1, 10, e.val⟩])

/-- An enabled engine with work that has neither started nor completed a task for ENG_STALL_LIMIT ticks raises STALL once, with
what holds its queues in ENG_STALL_SNAP. -/
def Obligations.StallIsRaised : Prop :=
  ∀ (s : State) (e : Fin 256), Ready s → s.rb (blkCtrl (enPage e.val)) 0 = true → s.r32 (Reg.engStallLimit e.val) ≠ 0 →
    (s.engine e.val).stalled = false → (List.range 4).any (s.queueBusy e.val) = true →
    (s.engine e.val).progress + (s.r32 (Reg.engStallLimit e.val)).toNat ≤ s.tick →
    Completes (.stall e) s fun t =>
      t.evq = s.evq ++ [⟨enPage e.val, 12, 10, e.val⟩] ∧ (t.engine e.val).stalled = true
      ∧ t.r32 (Reg.engStallSnap e.val) = BitVec.ofNat 32 (s.stallSnap e.val)
      ∧ ∀ o, o / 4 ≠ Reg.engStallSnap e.val / 4 → t.r32 o = s.r32 o

/-! ## Who reaches what -/

/-- Only the commands that are named as reaching a unit change it; each command leaves every other unit as it was. -/
def Obligations.CommandsKeepToTheirUnits : Prop :=
  ∀ (c : Instr) (s t : State), s.due = [] → exec c s = .next t →
    (reachesTide c = false → t.tide = s.tide ∧ t.commit = s.commit)
    ∧ (reachesEngines c = false → t.engines = s.engines)
    ∧ (reachesMem c = false → t.mem = s.mem)
    ∧ (reachesLinks c = false → t.ports = s.ports)
    ∧ (reachesXpt c = false → t.xpt = s.xpt)
    ∧ (reachesSrv c = false → t.srv = s.srv)
    ∧ (reachesPwr c = false → t.pwr = s.pwr)
    ∧ (reachesSec c = false → t.sec = s.sec)

/-! ## Stack memory (R212 to R236) -/

/-- A whole line written under the streaming hint is stored at its channel, and no other byte of stack memory changes; read back
there it is answered as it was stored, with symbol errors that the line's code corrects put right, and poisoned where they cannot be or where it was written so; a locked read holds the line for its requester, whose unlocking write stores its line and
releases it; any other access to a locked line of a channel that is enabled, or that the cache holds, waits and changes nothing else.
A line that the cache holds is answered from there. In a quarantined page, and at a disabled channel, a read is answered poisoned and a
write is dropped with an access error; QUAR_HIT is raised, and UE for a read of a disabled channel. -/
def Obligations.StackLines : Prop :=
  (∀ (s : State) (off key src : Nat) (b : List Byte), Ready s → LineAtChannel s off key src → b.length = 128 →
    Completes (.stackAccess ⟨src, off, .write 0 b false, 1, []⟩) s fun t =>
      cellRead t.mem.dram (128 * key) 128 = some b ∧ SameBytesOutside s.mem.dram t.mem.dram (128 * key) 128
      ∧ t.out = .line src true false [] :: s.out)
  ∧ (∀ (s : State) (off key src : Nat) (d : List Byte), Ready s → LineAtChannel s off key src →
    cellRead s.mem.dram (128 * key) 128 = some d → flagAt s.mem.dramPoison key = false →
    Sparse.get (fun _ => []) s.mem.dramErr key = [] →
    Completes (.stackAccess ⟨src, off, .read, 1, []⟩) s fun t =>
      t.out = .line src true false d :: s.out ∧ t.mem = s.mem)
  ∧ (∀ (s : State) (off key src : Nat), Ready s → LineAtChannel s off key src →
    Completes (.stackAccess ⟨src, off, .lockRead, 1, []⟩) s fun t =>
      t.mem.locks = s.mem.locks ++ [⟨key, src, s.tide.now.toNat⟩] ∧ t.mem.dram = s.mem.dram)
  ∧ (∀ (s : State) (off key src : Nat) (b : List Byte) (l : Lock), Ready s → OffAtChannel s off key → s.mem.locks = [l] →
    l.key = key → l.src = src → s.mem.waiting = [] → b.length = 128 →
    Completes (.stackAccess ⟨src, off, .unlockWrite 0 b false, 1, []⟩) s fun t =>
      t.mem.locks = [] ∧ cellRead t.mem.dram (128 * key) 128 = some b
      ∧ SameBytesOutside s.mem.dram t.mem.dram (128 * key) 128 ∧ t.out = .line src true false [] :: s.out)
  ∧ (∀ (s : State) (off key src : Nat), Ready s → off % 128 = 0 → s.place off = some key → s.lockHolds key src = true →
    s.served key = true →
    Completes (.stackAccess ⟨src, off, .read, 1, []⟩) s fun t =>
      t.mem = { s.mem with waiting := s.mem.waiting ++ [.stack ⟨src, off, .read, 1, []⟩] } ∧ t.regs = s.regs ∧ t.out = s.out
      ∧ t.evq = s.evq)
  ∧ (∀ (s : State) (off key src : Nat) (d : List Byte) (errs fix : List SymErr) (n : Nat) (dec : Decoded), Ready s →
    LineAtChannel s off key src → cellRead s.mem.dram (128 * key) 128 = some d → errs = Sparse.get (fun _ => []) s.mem.dramErr key →
    dec = decodeLine (s.rb (Reg.stkCtrl (keyChan key)) 2) (flagAt s.mem.dramPoison key) errs →
    (dec = .uncorrectable →
      Completes (.stackAccess ⟨src, off, .read, 1, []⟩) s fun t =>
        t.mem = s.mem ∧ (∃ d, t.out = .line src true true d :: s.out) ∧ ⟨chPage (keyChan key), 9, 2, 1024 + keyChan key⟩ ∈ t.evq)
    ∧ (dec = .corrected fix → fix ≠ [] →
      Completes (.stackAccess ⟨src, off, .read, 1, []⟩) s fun t =>
        t.mem = s.mem ∧ t.out = .line src true false (applyErrs d (errs ++ fix)) :: s.out
        ∧ ⟨chPage (keyChan key), 8, 10, 1024 + keyChan key⟩ ∈ t.evq)
    ∧ (dec = .poison n →
      Completes (.stackAccess ⟨src, off, .read, 1, []⟩) s fun t =>
        t.mem = s.mem ∧ ∃ d, t.out = .line src true true d :: s.out))
  ∧ (∀ (s : State) (off key src : Nat) (l : CLine), Ready s → off % 128 = 0 → s.place off = some key →
    s.lockHolds key src = false → s.mem.waiting = [] →
    (s.quarantined (keyCore key) off = true →
      (Completes (.stackAccess ⟨src, off, .read, 1, []⟩) s fun t =>
        t.mem = s.mem ∧ (∃ d, t.out = .line src true true d :: s.out) ∧ ⟨coPage (keyCore key), 9, 10, 281 + keyCore key⟩ ∈ t.evq)
      ∧ ∀ b : List Byte, b ≠ [] → b.length ≤ 128 → Completes (.stackAccess ⟨src, off, .write 0 b false, 1, []⟩) s fun t =>
        t.mem = s.mem ∧ t.out = .line src false false [] :: s.out ∧ ⟨coPage (keyCore key), 9, 10, 281 + keyCore key⟩ ∈ t.evq)
    ∧ (s.quarantined (keyCore key) off = false → s.cached key = none → s.chanOn (keyChan key) = false →
      (Completes (.stackAccess ⟨src, off, .read, 1, []⟩) s fun t =>
        t.mem = s.mem ∧ (∃ d, t.out = .line src true true d :: s.out) ∧ ⟨chPage (keyChan key), 9, 2, 1024 + keyChan key⟩ ∈ t.evq)
      ∧ ∀ b : List Byte, b.length = 128 → Completes (.stackAccess ⟨src, off, .write 0 b false, 1, []⟩) s fun t =>
        t.mem = s.mem ∧ t.out = .line src false false [] :: s.out)
    ∧ (s.quarantined (keyCore key) off = false → s.cached key = some l →
      Completes (.stackAccess ⟨src, off, .read, 1, []⟩) s fun t =>
        t.out = .line src true l.poison l.data :: s.out ∧ t.mem.dram = s.mem.dram))

/-- A near-memory operation on a clean line of its channel, well formed: the line is as the operation makes it of the operands,
no other byte changes, its flags are kept in STK_NMA_FLAGS, and a scalar form answers with the element as it was; a poisoned operand of a
scalar form leaves the line's data as they were, poisoned. One that is not well formed is answered with an access error. -/
def Obligations.NearMemoryOperations : Prop :=
  (∀ (s : State) (a : NmaAcc) (key : Nat) (d : List Byte), Ready s → nmaOk a = true → a.poison = false → a.upset = [] →
    LineAtChannel s (a.off / 128 * 128) key a.src → s.place a.off = some key → s.quarantined (keyCore key) a.off = false →
    cellRead s.mem.dram (128 * key) 128 = some d → flagAt s.mem.dramPoison key = false →
    Sparse.get (fun _ => []) s.mem.dramErr key = [] →
    Completes (.nmaOperation a) s fun t =>
      cellRead t.mem.dram (128 * key) 128 = some (nmaBytes a.op.toNat (a.off % 128) d (nmaOperands a) a.b.toNat).1
      ∧ SameBytesOutside s.mem.dram t.mem.dram (128 * key) 128
      ∧ t.out = .line a.src true false
          (if nmaScalar a.op.toNat then slice d (a.off % 128) (nmaWidth a.op.toNat) else []) :: s.out
      ∧ t.r32 (Reg.stkNmaFlags (keyChan key)) = s.r32 (Reg.stkNmaFlags (keyChan key))
        ||| (nmaBytes a.op.toNat (a.off % 128) d (nmaOperands a) a.b.toNat).2.setWidth 32)
  ∧ (∀ (s : State) (a : NmaAcc) (key : Nat) (d : List Byte), Ready s → nmaOk a = true → a.poison = true → a.upset = [] →
    nmaScalar a.op.toNat = true → LineAtChannel s (a.off / 128 * 128) key a.src → s.place a.off = some key →
    s.quarantined (keyCore key) a.off = false → cellRead s.mem.dram (128 * key) 128 = some d → flagAt s.mem.dramPoison key = false →
    Sparse.get (fun _ => []) s.mem.dramErr key = [] →
    Completes (.nmaOperation a) s fun t =>
      flagAt t.mem.dramPoison key = true ∧ cellRead t.mem.dram (128 * key) 128 = some d
      ∧ t.out = .line a.src true true (slice d (a.off % 128) (nmaWidth a.op.toNat)) :: s.out)
  ∧ (∀ (s : State) (a : NmaAcc) (key : Nat), Ready s → nmaOk a = false → a.upset = [] → s.place a.off = some key →
    s.lockHolds key a.src = false → s.mem.waiting = [] →
    Completes (.nmaOperation a) s fun t =>
      t.mem = s.mem ∧ t.regs = s.regs ∧ t.evq = s.evq ∧ t.out = .line a.src false false [] :: s.out)

/-- What a channel and a die do of themselves: a lock that has stood too long is released and LOCK_TO raised, and a channel that drains and
has no other access left has drained; scrubbing goes on to
the next line, and a correctable line that the cache does not hold is stored corrected; refresh goes on to the next bank and rows;
a die's reading is recorded. -/
def Obligations.ChannelsAndDies : Prop :=
  (∀ (s : State) (ch : Fin 4096) (l : Lock), Ready s → s.mem.locks.find? (fun l => keyChan l.key == ch.val) = some l →
    s.mem.waiting = [] →
    Completes (.lockTimeout ch) s fun t =>
      t.mem.locks = s.mem.locks.erase l ∧ t.evq = s.evq ++ [⟨chPage ch.val, 11, 10, 1024 + ch.val⟩]
      ∧ (s.draining (chPage ch.val) = false → t.regs = s.regs)
      ∧ (s.draining (chPage ch.val) = true → (∀ x ∈ s.mem.locks.erase l, keyChan x.key ≠ ch.val) →
        t.rf (blkStat (chPage ch.val)) 0 3 = 0))
  ∧ (∀ (s : State) (ch : Fin 4096) (up : Upset), Ready s → s.rb (Reg.stkCtrl ch.val) 1 = true → s.mem.locks = [] →
    Completes (.scrubRead ch up) s fun t => natAt t.mem.scrub ch.val = (natAt s.mem.scrub ch.val + 1) % 1572864)
  ∧ (∀ (s : State) (ch : Fin 4096) (key : Nat) (d : List Byte) (fix : List (Nat × BitVec 16)), Ready s →
    s.rb (Reg.stkCtrl ch.val) 1 = true → s.mem.locks = [] → key = lineKey ch.val (natAt s.mem.scrub ch.val) → s.cached key = none →
    cellRead s.mem.dram (128 * key) 128 = some d →
    decodeLine (s.rb (Reg.stkCtrl ch.val) 2) (flagAt s.mem.dramPoison key) (Sparse.get (fun _ => []) s.mem.dramErr key) =
      .corrected fix → keyChan key = ch.val →
    Completes (.scrubRead ch []) s fun t =>
      Sparse.get (fun _ => []) t.mem.dramErr key = [] ∧ flagAt t.mem.dramPoison key = false)
  ∧ (∀ (s : State) (ch : Fin 4096), Ready s →
    Completes (.refresh ch) s fun t =>
      natAt t.mem.refresh ch.val = (natAt s.mem.refresh ch.val + 1) % 24576 ∧ t.mem.dram = s.mem.dram)
  ∧ (∀ (s : State) (c : Fin 8) (d : Fin 16) (temp : BitVec 10), Ready s →
    Completes (.dieTempReading c d temp) s fun t =>
      t.r32 (Reg.coreStkTemp c.val d.val) = BitVec.ofNat 32 (temp.toNat + 2 ^ 15))

/-- The core cache and its write-combining buffer: WB_ALL begins a flush that FLUSH_DONE ends, stores each dirty line of the core at its
channel and leaves it clean, or owes it where the channel is disabled; WC_FLUSH leaves the core no entry, and the timeout none that has
passed it, and the bytes that an entry held stand in the cache over what the line held, or wait for its lock; an error in a clean line drops the line, a corrected one is only counted. -/
def Obligations.CacheFlushes : Prop :=
  (∀ (s : State) (c : Fin 8), Ready s →
    Completes (.wbAll c) s fun t => t.rb (Reg.cchStat c.val) 0 = true ∧ c.val ∈ t.mem.flushing)
  ∧ (∀ (s : State) (c : Fin 8), Ready s → c.val ∈ s.mem.flushing →
    Completes (.flushDone c) s fun t =>
      t.mem.flushing = s.mem.flushing.erase c.val ∧ t.evq = s.evq ++ [⟨ccPage c.val, 8, 5, 289 + c.val⟩]
      ∧ t.mem.dram = s.mem.dram)
  ∧ (∀ (s : State) (c : Fin 8), Ready s →
    Completes (.wcFlush c) s fun t => t.mem.wc.filter (fun w => w.core == c.val) = [])
  ∧ (∀ (s : State) (c : Fin 8) (key : Nat) (l : CLine), Ready s → (s.mem.cache.map (·.key)).Nodup → s.cached key = some l →
    l.core = c.val → l.dirty = true → l.data.length = 128 →
    Completes (.wbAll c) s fun t =>
      (s.chanOn (keyChan key) = true →
        cellRead t.mem.dram (128 * key) 128 = some l.data ∧ t.cached key = some { l with dirty := false })
      ∧ (s.chanOn (keyChan key) = false → key ∈ t.mem.wbOwed ∧ t.cached key = some l))
  ∧ (∀ (s : State) (c : Fin 8) (w : WcEntry) (l : CLine), Ready s → s.mem.wc.filter (fun w => w.core == c.val) = [w] →
    s.cached w.key = some l →
    ((s.mem.locks.any fun x => x.key == w.key) = false →
      Completes (.wcFlush c) s fun t =>
        (t.cached w.key).map (·.data) = some (mergeBytes w.mask l.data w.data) ∧ (t.cached w.key).map (·.dirty) = some true)
    ∧ ((s.mem.locks.any fun x => x.key == w.key) = true →
      Completes (.wcFlush c) s fun t => t.mem.waiting = s.mem.waiting ++ [.wc w] ∧ t.mem.cache = s.mem.cache))
  ∧ (∀ (s : State) (c : Fin 8) (w : WcEntry) (d : List Byte), Ready s → s.mem.wc.filter (fun w => w.core == c.val) = [w] →
    (s.mem.locks.any fun x => x.key == w.key) = false → s.cached w.key = none → s.chanOn (keyChan w.key) = true →
    cellRead s.mem.dram (128 * w.key) 128 = some d → flagAt s.mem.dramPoison w.key = false →
    Sparse.get (fun _ => []) s.mem.dramErr w.key = [] → w.mask ≠ BitVec.allOnes 128 →
    Completes (.wcFlush c) s fun t =>
      (t.cached w.key).map (·.data) = some (mergeBytes w.mask d w.data) ∧ (t.cached w.key).map (·.dirty) = some true)
  ∧ (∀ (s : State) (c : Fin 8) (w : WcEntry) (l : CLine), Ready s → s.r32 (Reg.cchWcTimeout c.val) ≠ 0 →
    s.mem.wc.filter (fun w => w.core == c.val && decide (w.first + (s.r32 (Reg.cchWcTimeout c.val)).toNat ≤ s.tick)) = [w] →
    s.cached w.key = some l → (s.mem.locks.any fun x => x.key == w.key) = false →
    Completes (.wcTimeout c) s fun t =>
      (t.cached w.key).map (·.data) = some (mergeBytes w.mask l.data w.data) ∧ (t.cached w.key).map (·.dirty) = some true)
  ∧ (∀ (s : State) (c : Fin 8), Ready s → s.r32 (Reg.cchWcTimeout c.val) ≠ 0 →
    Completes (.wcTimeout c) s fun t =>
      ∀ w ∈ t.mem.wc, w.core = c.val → s.tick < w.first + (s.r32 (Reg.cchWcTimeout c.val)).toNat)
  ∧ (∀ (s : State) (c : Fin 8) (ch : Fin 4096) (line : Nat) (l : CLine), Ready s →
    s.cached (lineKey ch.val line) = some l → l.core = c.val → l.dirty = false →
    Completes (.cchSramError c (.clean ch line)) s fun t =>
      t.cached (lineKey ch.val line) = none ∧ t.mem.dram = s.mem.dram ∧ t.evq = s.evq)
  ∧ (∀ (s : State) (c : Fin 8), Ready s → (s.r64 (Reg.cchSramCeCnt c.val)).toNat % 2 ^ 48 + 1 < 2 ^ 48 →
    Completes (.cchSramError c .single) s fun t =>
      fld (t.r64 (Reg.cchSramCeCnt c.val)) 0 48 = fld (s.r64 (Reg.cchSramCeCnt c.val)) 0 48 + 1 ∧ t.mem = s.mem
      ∧ t.evq = s.evq)

/-- The traffic generator of a disabled channel starts at its first line, writes the pattern's next line or checks it, which changes no
line and reports one that differs, at which STOP_ON_FAIL ends the run; it stops where TG_EN is written 0, and reports that it is done; with
EN 1 it does not start. -/
def Obligations.TrafficGenerator : Prop :=
  (∀ (s : State) (ch : Fin 4096), Ready s → s.rb (blkCtrl (chPage ch.val)) 0 = false → s.rb (Reg.stkStat ch.val) 0 = false →
    Completes (.tgStart ch) s fun t =>
      t.rb (Reg.stkCtrl ch.val) 0 = true ∧ t.rb (Reg.stkStat ch.val) 0 = true
      ∧ optAt t.mem.tg ch.val = some ⟨s.rf (Reg.stkTgStart ch.val) 0 21, 0, false, false⟩)
  ∧ (∀ (s : State) (ch : Fin 4096), Ready s → s.rb (blkCtrl (chPage ch.val)) 0 = true →
    Completes (.tgStart ch) s fun t => t.rb (Reg.stkCtrl ch.val) 0 = false ∧ t.mem = s.mem)
  ∧ (∀ (s : State) (ch : Fin 4096), Ready s → Completes (.tgStop ch) s fun t => t.rb (Reg.stkCtrl ch.val) 0 = false ∧ t.mem = s.mem)
  ∧ (∀ (s : State) (ch : Fin 4096) (g : Tg), Ready s → optAt s.mem.tg ch.val = some g → s.tgOver ch.val g = false →
    s.rf (Reg.stkTgCfg ch.val) 3 2 = 0 →
    Completes (.tgLineOperation ch []) s fun t =>
      cellRead t.mem.dram (128 * lineKey ch.val g.line) 128 =
          some (tgLine (tgBeats (s.rf (Reg.stkTgCfg ch.val) 0 3) g.line (s.r64 (Reg.stkTgSeed ch.val)) (s.r64 (Reg.stkTgUser ch.val)))
            false)
      ∧ SameBytesOutside s.mem.dram t.mem.dram (128 * lineKey ch.val g.line) 128
      ∧ optAt t.mem.tg ch.val = some (s.tgAdvance ch.val 0 g))
  ∧ (∀ (s : State) (ch : Fin 4096) (g : Tg) (want d : List Byte), Ready s → optAt s.mem.tg ch.val = some g →
    s.tgOver ch.val g = false → s.rf (Reg.stkTgCfg ch.val) 3 2 = 1 → s.rb (Reg.stkTgCfg ch.val) 5 = false →
    want = tgLine (tgBeats (s.rf (Reg.stkTgCfg ch.val) 0 3) g.line (s.r64 (Reg.stkTgSeed ch.val)) (s.r64 (Reg.stkTgUser ch.val))) false →
    cellRead s.mem.dram (128 * lineKey ch.val g.line) 128 = some d → flagAt s.mem.dramPoison (lineKey ch.val g.line) = false →
    Sparse.get (fun _ => []) s.mem.dramErr (lineKey ch.val g.line) = [] →
    (firstDiff (dataSymbols want) (dataSymbols d) = none →
      Completes (.tgLineOperation ch []) s fun t =>
        t.mem.dram = s.mem.dram ∧ optAt t.mem.tg ch.val = some (s.tgAdvance ch.val 1 g))
    ∧ (firstDiff (dataSymbols want) (dataSymbols d) ≠ none →
      Completes (.tgLineOperation ch []) s fun t =>
        t.mem.dram = s.mem.dram ∧ ⟨chPage ch.val, 13, 10, 1024 + ch.val⟩ ∈ t.evq
        ∧ optAt t.mem.tg ch.val = some (if s.rb (Reg.stkTgCfg ch.val) 6 then { g with stop := true } else s.tgAdvance ch.val 1 g)))
  ∧ (∀ (s : State) (ch : Fin 4096) (g : Tg), Ready s → optAt s.mem.tg ch.val = some g → s.tgOver ch.val g = true →
    Completes (.tgDone ch) s fun t =>
      optAt t.mem.tg ch.val = none ∧ t.rb (Reg.stkStat ch.val) 0 = false
      ∧ t.evq = s.evq ++ [⟨chPage ch.val, 12, 5, 1024 + ch.val⟩])

/-! ## Translation and the lower tiers (R244 to R272) -/

/-- A walk that finds a leaf with no fault leaves the translation in the cache of its engine, or of the hub; a walk that faults leaves the
cache as it was. The leaf of a brine object, in space 1 or 2 of the device, is kept with what its header says where the header passes its
check and gives the page's size, else it is not kept. An invalidation leaves no translation and no table pointer that it names. -/
def Obligations.TranslationsAreKeptAndDropped : Prop :=
  (∀ (s : State) (e : Fin 256) (ctx : Fin 64) (va : Nat), Ready s → va < 2 ^ 48 →
    (s.engine e.val).xl.any (fun t => t.ctx == ctx.val && t.va == va / 2 ^ t.log2 * 2 ^ t.log2) = false →
    Completes (.pageWalk (some e) ctx va) s fun t =>
      ((s.walk (some e.val) ctx.val va).2.1 ≠ 0 → (t.engine e.val).xl = (s.engine e.val).xl)
      ∧ ((s.walk (some e.val) ctx.val va).2.1 = 0 → (s.walk (some e.val) ctx.val va).2.2.brine = false →
        (t.engine e.val).xl.head? = some (s.walk (some e.val) ctx.val va).2.2))
  ∧ (∀ (s : State) (ctx : Fin 64) (va : Nat), Ready s → va < 2 ^ 48 →
    s.mem.hubXl.any (fun t => t.ctx == ctx.val && t.va == va / 2 ^ t.log2 * 2 ^ t.log2) = false →
    Completes (.pageWalk none ctx va) s fun t =>
      ((s.walk none ctx.val va).2.1 ≠ 0 → t.mem.hubXl = (s.walk none ctx.val va).1.mem.hubXl)
      ∧ ((s.walk none ctx.val va).2.1 = 0 → (s.walk none ctx.val va).2.2.brine = false →
        t.mem.hubXl.head? = some (s.walk none ctx.val va).2.2))
  ∧ (∀ (s w : State) (e : Fin 256) (ctx : Fin 64) (va : Nat) (x : XEntry), Ready s → va < 2 ^ 48 →
    (s.engine e.val).xl.any (fun t => t.ctx == ctx.val && t.va == va / 2 ^ t.log2 * 2 ^ t.log2) = false →
    s.walk (some e.val) ctx.val va = (w, 0, x) → x.brine = true → saDev x.frame = s.dev →
    saSpace x.frame = 1 ∨ saSpace x.frame = 2 →
    Completes (.pageWalk (some e) ctx va) s fun t =>
      (∀ h, (w.brineHdr (saSpace x.frame) (saOff x.frame)).2 = .inl h → h.raw = 2 ^ x.log2 →
        (t.engine e.val).xl.head? = some { x with dataOff := h.dataOff, total := h.total })
      ∧ (∀ h, (w.brineHdr (saSpace x.frame) (saOff x.frame)).2 = .inl h → h.raw ≠ 2 ^ x.log2 →
        (t.engine e.val).xl = (s.engine e.val).xl)
      ∧ (∀ why, (w.brineHdr (saSpace x.frame) (saOff x.frame)).2 = .inr why → (t.engine e.val).xl = (s.engine e.val).xl))
  ∧ (∀ (s : State) (e : Fin 256) (v : Dword), Ready s →
    Completes (.engXlInv e v) s fun t =>
      (t.engine e.val).xl = (s.engine e.val).xl.filter (fun x => invKeeps v x.ctx x.va x.log2) ∧ t.mem = s.mem)
  ∧ (∀ (s : State) (c : Fin 8) (v : Dword), Ready s →
    Completes (.coreXlInv c v) s fun t =>
      (∀ w ∈ t.mem.walk, w.core = c.val → invKeeps v w.ctx (w.pfx * 2 ^ levelLow w.level) (levelLow w.level) = true)
      ∧ t.engines = s.engines ∧ t.mem.dram = s.mem.dram)

/-- Board lines and the host window: a whole line written to an enabled interface is stored and read back; at a disabled one a read is
answered poisoned, with UE, and a write is dropped with an access error, as is every access past the tier's end and every lock. A write to host memory leaves
as a DMA write, and a poisoned one fails; a read leaves as a DMA read, whose data answer it and bring what the device last saw up to date; an access
that no segment of the window takes is answered with an access error. An outstanding access that is late at the boundary
that samples it ends and LT_LATE is raised; one reported late before, or failed, is marked for the boundary that samples it. A board interface that has trained reports it. -/
def Obligations.LowerTierAccesses : Prop :=
  (∀ (s : State) (off src : Nat) (b : List Byte), Ready s → off % 128 = 0 → off < s.tierSize → s.boardOn off = true →
    b.length = 128 →
    Completes (.boardAccess ⟨src, off, .write 0 b false, []⟩) s fun t =>
      cellRead t.mem.board off 128 = some b ∧ SameBytesOutside s.mem.board t.mem.board off 128
      ∧ t.out = .line src true false [] :: s.out ∧ t.mem.dram = s.mem.dram)
  ∧ (∀ (s : State) (off src : Nat) (d : List Byte), Ready s → off % 128 = 0 → off < s.tierSize → s.boardOn off = true →
    cellRead s.mem.board off 128 = some d → flagAt s.mem.boardPoison (off / 128) = false →
    Sparse.get (fun _ => []) s.mem.boardErr (off / 128) = [] →
    Completes (.boardAccess ⟨src, off, .read, []⟩) s fun t => t.out = .line src true false d :: s.out
      ∧ t.mem = { s.mem with lower := s.mem.lower ++ [s.lowerOf 1 off 128 src false] })
  ∧ (∀ (s : State) (off src : Nat), Ready s → off % 128 = 0 →
    (off < s.tierSize → s.boardOn off = false →
      (Completes (.boardAccess ⟨src, off, .read, []⟩) s fun t =>
        t.mem = s.mem ∧ (∃ d, t.out = .line src true true d :: s.out)
        ∧ ⟨bmPage (boardIface off), 9, 2, 265 + boardIface off⟩ ∈ t.evq)
      ∧ ∀ b : List Byte, b.length = 128 → Completes (.boardAccess ⟨src, off, .write 0 b false, []⟩) s fun t =>
        t.mem = s.mem ∧ t.out = .line src false false [] :: s.out)
    ∧ (s.tierSize ≤ off →
      (Completes (.boardAccess ⟨src, off, .read, []⟩) s fun t => t.mem = s.mem ∧ ∃ d, t.out = .line src false false d :: s.out)
      ∧ ∀ b : List Byte, b.length = 128 → Completes (.boardAccess ⟨src, off, .write 0 b false, []⟩) s fun t =>
        t.mem = s.mem ∧ t.out = .line src false false [] :: s.out)
    ∧ (Completes (.boardAccess ⟨src, off, .lockRead, []⟩) s fun t => t.mem = s.mem ∧ ∃ d, t.out = .line src false false d :: s.out))
  ∧ (∀ (s : State) (off src : Nat) (b : List Byte), Ready s → 0 < b.length → off % 128 + b.length ≤ 128 →
    (s.hostAddr off true = none → Completes (.hostWindowAccess ⟨src, off, b.length, some (b, false)⟩) s fun t =>
      t.mem = s.mem ∧ t.out = .line src false false [] :: s.out)
    ∧ (∀ a, s.hostAddr off true = some a → Completes (.hostWindowAccess ⟨src, off, b.length, some (b, true)⟩) s fun t =>
      t.mem = { s.mem with lower := s.mem.lower ++ [{ s.lowerOf 2 off b.length src true with failed := true }] }
      ∧ t.out = .line src false false [] :: s.out)
    ∧ (∀ a, s.hostAddr off false = some a → s.gp0Up = true → s.mem.reading = none →
      Completes (.hostWindowAccess ⟨src, off, b.length, none⟩) s fun t =>
        t.out = .dmaRd s.mem.nextTag (BitVec.ofNat 64 a) b.length :: s.out ∧ t.mem.nextTag = s.mem.nextTag + 1
        ∧ t.mem.host = s.mem.host))
  ∧ (∀ (s : State) (off src a : Nat) (b : List Byte), Ready s → s.hostAddr off true = some a → s.gp0Up = true →
    0 < b.length → off % 128 + b.length ≤ 128 → s.gtxVersion < 0x102 →
    Completes (.hostWindowAccess ⟨src, off, b.length, some (b, false)⟩) s fun t =>
      cellRead t.mem.host off b.length = some b ∧ SameBytesOutside s.mem.host t.mem.host off b.length
      ∧ t.out = .line src true false [] :: .dmaWr (BitVec.ofNat 64 a) false b :: s.out)
  ∧ (∀ (s : State) (l : Lower) (rest : List Lower) (bytes : List Byte), Ready s → s.mem.lower = l :: rest → l.space = 2 →
    l.write = false → l.len = bytes.length → 0 < l.len → l.task = none →
    Completes (.dmaCpl l.tag 0 bytes) s fun t =>
      t.mem.lower = rest ∧ cellRead t.mem.host l.off l.len = some bytes
      ∧ SameBytesOutside s.mem.host t.mem.host l.off l.len ∧ (l.kind = .row → t.out = .line l.src true false bytes :: s.out))
  ∧ (∀ (s : State) (i : Nat) (l : Lower), Ready s → s.mem.lower[i]? = some l → l.task = none → l.len ≠ 0 →
    l.tick + 1 + s.lateLimit l.space ≤ s.tick →
    Completes (.lowerTierLate i) s fun t =>
      t.mem.lower = s.mem.lower.eraseIdx i
      ∧ ⟨0x210, 10, 2, if l.space = 1 then 265 + boardIface l.off else 264⟩ ∈ t.evq)
  ∧ (∀ (s : State) (i : Nat) (l : Lower), Ready s → s.mem.lower[i]? = some l → l.task = none → l.len ≠ 0 →
    s.tick < l.tick + 1 + s.lateLimit l.space →
    Completes (.lowerTierLate i) s fun t => t.mem.lower = s.mem.lower.set i { l with late := true } ∧ t.evq = s.evq)
  ∧ (∀ (s : State) (i : Nat) (l : Lower), Ready s → s.mem.lower[i]? = some l → l.task = none → l.len ≠ 0 →
    Completes (.lowerTierFailed i) s fun t =>
      t.mem.lower = s.mem.lower.set i { l with failed := true } ∧ t.evq = s.evq ∧ t.regs = s.regs)
  ∧ (∀ (s : State) (n : Fin 16), Ready s → s.rb (blkCtrl (bmPage n.val)) 0 = true → s.rf (Reg.brdCfg n.val) 4 2 ≠ 3 →
    Completes (.boardTrained n) s fun t =>
      t.rb (Reg.brdStat n.val) 0 = true ∧ natAt t.mem.trained n.val = s.rf (Reg.brdCfg n.val) 0 2 + 1)

/-! ## Links (R277 to R296, R340) -/

/-- Training: it starts in DETECT on a port that is enabled, by command, at the retry of a port that is DOWN, and on GP0, unless an
Ethernet port has no MAC address; it goes on through EQUALISE, QUALIFY and NEGOTIATE to UP, or ends DOWN where QUALIFY finds too few
lanes, and where NEGOTIATE agrees on nothing or the peer reports the port's own device number; DETECT that finds no peer for 2 ms
leaves the port DOWN. With an optical module an Ethernet port is UP when QUALIFY ends (the model's reading of R292 and R293: log 166). -/
def Obligations.TrainingStates : Prop :=
  (∀ (s : State) (p : Fin 8), Ready s → s.portEn p.val = true →
    ((s.r32 (Reg.fabCfg p.val)).getLsbD 0 = false →
      Completes (.fabRetrain p) s fun t =>
        t.portState p.val = 1 ∧ t.badLanes p.val = 0 ∧ (t.port p.val).enteredAt = s.tick
        ∧ ∃ lanes rest, t.out = .codeword p.val .training lanes :: rest)
    ∧ ((s.r32 (Reg.fabCfg p.val)).getLsbD 0 = true →
      Completes (.fabRetrain p) s fun t => t.portState p.val = (if fld (s.r64 (Reg.fabMac p.val)) 0 48 = 0 then 0 else 1)))
  ∧ (∀ s : State, Ready s → s.portEn 8 = true → Completes .gtxRetrain s fun t => t.portState 8 = 1 ∧ t.badLanes 8 = 0)
  ∧ (∀ (s : State) (p : Fin 8), Ready s → s.portEn p.val = false →
    Completes (.fabRetrain p) s fun t => t.regs = s.regs ∧ t.ports = s.ports)
  ∧ (∀ (s : State) (p : Fin 8), Ready s → s.portEn p.val = true → s.portState p.val = 0 → s.r32 (Reg.fabRetry p.val) ≠ 0 →
    (s.port p.val).downAt + (s.r32 (Reg.fabRetry p.val)).toNat ≤ s.tick → (s.r32 (Reg.fabCfg p.val)).getLsbD 0 = false →
    Completes (.portRetryExpiry p) s fun t => t.portState p.val = 1)
  ∧ (∀ (s : State) (p : Fin 9), Ready s → s.portState p.val = 1 →
    ((s.port p.val).enteredAt + 1953 ≤ s.tick →
      Completes (.detectTimeout p) s fun t => t.portState p.val = 0 ∧ t.evq = s.evq)
    ∧ (s.tick < (s.port p.val).enteredAt + 1953 →
      Completes (.detectTimeout p) s fun t => t.regs = s.regs ∧ t.ports = s.ports))
  ∧ (∀ (s : State) (p : Fin 9) (eth : Bool), Ready s → s.portState p.val = 1 →
    (s.ethernet p.val = eth → Completes (.peerDetected p eth) s fun t => t.portState p.val = 2 ∧ t.ports = s.ports)
    ∧ (s.ethernet p.val ≠ eth → Completes (.peerDetected p eth) s fun t => t.regs = s.regs ∧ t.ports = s.ports))
  ∧ (∀ (s : State) (p : Fin 9), Ready s → s.portState p.val = 2 →
    Completes (.equaliseDone p) s fun t => t.portState p.val = 3 ∧ t.ports = s.ports)
  ∧ (∀ (s : State) (p : Fin 9) (r : QualifyResult) (g : Nat) (w : Nat × Nat), Ready s → s.portState p.val = 3 →
    (s.port p.val).retrain = false →
    g = Nat.land ((s.modPort p.val fun x => { x with reversed := r.reversed, inverted := r.inverted }).ownGood p.val r.errs)
      r.peerGood.toNat →
    w = chooseWidth (lanesOf p.val) g →
    (s.minWidth p.val ≤ w.1 → s.ethernet p.val = false ∨ s.optical p.val = false →
      Completes (.qualifyDone p r) s fun t =>
        t.portState p.val = 4 ∧ t.widthNow p.val = w.1 ∧ t.evq = s.evq ∧ (t.port p.val).good = BitVec.ofNat 8 g)
    ∧ (s.minWidth p.val ≤ w.1 → s.ethernet p.val = true → s.optical p.val = true → (s.port p.val).fallback = false →
      Completes (.qualifyDone p r) s fun t => t.portState p.val = 5 ∧ ⟨portPage p.val, 8, 5, 256 + p.val⟩ ∈ t.evq)
    ∧ (w.1 < s.minWidth p.val → Completes (.qualifyDone p r) s fun t => t.portState p.val = 0 ∧ t.evq = s.evq))
  ∧ (∀ (s : State) (p : Fin 8) (r : NegRecord), Ready s → s.portState p.val = 4 → s.ethernet p.val = false →
    (∀ v, s.agreedWith p.val r = some v →
      Completes (.negotiationRecord p.castSucc r) s fun t =>
        t.portState p.val = 5 ∧ t.rf (blkProtoActive (portPage p.val)) 0 16 = v % 2 ^ 16
        ∧ ⟨portPage p.val, 8, 5, 256 + p.val⟩ ∈ t.evq)
    ∧ (s.agreedWith p.val r = none →
      Completes (.negotiationRecord p.castSucc r) s fun t =>
        t.portState p.val = 0 ∧ ⟨portPage p.val, 12, 10, 256 + p.val⟩ ∈ t.evq)
    ∧ (r.dev = (s.port p.val).own →
      Completes (.negotiationRecord p.castSucc r) s fun t =>
        t.portState p.val = 0 ∧ ⟨portPage p.val, 12, 10, 256 + p.val⟩ ∈ t.evq))
  ∧ (∀ (s : State) (p : Fin 8) (r : NegRecord), Ready s → s.portState p.val = 4 → s.ethernet p.val = true →
    s.optical p.val = false →
    Completes (.negotiationRecord p.castSucc r) s fun t =>
      t.portState p.val = (if (s.ethRate p.val r.rates).isSome then 5 else 0))

/-- What ends or degrades a link that is UP: a lane that fails is marked bad and the port enters RETRAIN, or an Ethernet port goes DOWN
and trains again; a RETRAIN that lasts too long leaves the port DOWN. A graceful disable sends what has begun to leave, and when its
flits are all acknowledged it leaves the port DOWN. -/
def Obligations.LinkFailures : Prop :=
  (∀ (s : State) (p : Fin 9) (lane : Fin 8), Ready s → lane.val < lanesOf p.val → s.portState p.val = 5 →
    s.ethernet p.val = false → (p.val < 8 → (s.r32 (Reg.fabCfg p.val)).getLsbD 0 = false) →
    Completes (.laneLossOfLock p lane) s fun t =>
      t.portState p.val = 6 ∧ (t.port p.val).retrain = true ∧ (BitVec.ofNat 8 (t.badLanes p.val)).getLsbD lane.val = true)
  ∧ (∀ (s : State) (p : Fin 8) (lane : Fin 8), Ready s → s.portState p.val = 5 → s.ethernet p.val = true →
    s.portEn p.val = true → (s.r32 (Reg.fabCfg p.val)).getLsbD 0 = true → fld (s.r64 (Reg.fabMac p.val)) 0 48 ≠ 0 →
    Completes (.laneLossOfLock p.castSucc lane) s fun t =>
      t.portState p.val = 1 ∧ (t.port p.val).fallback = true ∧ ⟨portPage p.val, 9, 3, 256 + p.val⟩ ∈ t.evq)
  ∧ (∀ (s : State) (p : Fin 9) (lane : Fin 8) (count : Nat), Ready s → lane.val < lanesOf p.val → s.portState p.val = 5 →
    s.ethernet p.val = false → (p.val < 8 → (s.r32 (Reg.fabCfg p.val)).getLsbD 0 = false) →
    (s.portSet p.val Reg.fabLaneCeLim 0 32 2048 < count →
      Completes (.laneCeLimit p lane count) s fun t => t.portState p.val = 6 ∧ (t.port p.val).retrain = true)
    ∧ (count ≤ s.portSet p.val Reg.fabLaneCeLim 0 32 2048 →
      Completes (.laneCeLimit p lane count) s fun t => t.regs = s.regs ∧ t.ports = s.ports))
  ∧ (∀ (s : State) (p : Fin 9), Ready s → (s.port p.val).retrain = true →
    (s.port p.val).enteredAt + s.portSet p.val Reg.fabRetrainLimit 0 16 1024 ≤ s.tick →
    Completes (.retrainTimeout p) s fun t =>
      t.portState p.val = 0 ∧ (t.port p.val).retrain = false
      ∧ t.evq = s.evq ++ [⟨portPage p.val, 9, 3, 256 + p.val⟩])
  ∧ (∀ (s : State) (p : Fin 8), Ready s → s.draining (fpPage p.val) = true → (s.port p.val).replay = [] → (s.port p.val).tx = [] →
    Completes (.portDrained p) s fun t =>
      t.portState p.val = 0 ∧ t.rf (blkStat (fpPage p.val)) 0 3 = 0 ∧ (t.port p.val).graceful = true
      ∧ t.evq = s.evq ++ [⟨fpPage p.val, 14, 5, 256 + p.val⟩])
  ∧ (∀ (s : State) (p : Fin 8), Ready s → s.active (fpPage p.val) = true → s.portState p.val = 5 → s.ethernet p.val = false →
    Completes (.gracefulDisable (fpPage p.val)) s fun t =>
      t.rb (blkCtrl (fpPage p.val)) 0 = false ∧ t.draining (fpPage p.val) = true ∧ t.portState p.val = 5 ∧ (t.port p.val).tx = []
      ∧ (t.port p.val).replay.length = (s.port p.val).replay.length + streamFlits (s.port p.val).tx)

/-- Codewords and flits: a codeword that cannot be corrected is counted and discarded, the symbols corrected in another are counted
and its flit goes on; a flit in sequence is accepted and, where no packet can start, acknowledged by a NULL flit, one that fails its CRC is refused once; the flits that wait for
acknowledgement are sent again after the timeout; a packet that has credit leaves in flits of rising sequence that stay in the replay
buffer, or as a frame in Ethernet mode. -/
def Obligations.FlitsAndPackets : Prop :=
  (∀ (s : State) (p : Fin 8) (c : Codeword) (l : List Nat), Ready s → s.portState p.val ≠ 0 → s.ethernet p.val = false →
    l = fixSymbols (gatherSymbols (s.lanesIn p.val c.lanes)) c.fix →
    (15 < c.fix.length ∨ isWord l = false → (s.r64 (Reg.fabFecUeCnt p.val)).toNat % 2 ^ 48 + 1 < 2 ^ 48 →
      Completes (.codewordReceive p.castSucc c) s fun t =>
        fld (t.r64 (Reg.fabFecUeCnt p.val)) 0 48 = fld (s.r64 (Reg.fabFecUeCnt p.val)) 0 48 + 1
        ∧ t.port p.val = { s.port p.val with
            rxNum := (s.port p.val).rxNum + 1
            rxScr := (decodeWord (gatherSymbols (s.lanesIn p.val c.lanes)) (s.port p.val).rxScr).2.2 })
    ∧ (c.fix.length ≤ 15 → isWord l = true → (s.port p.val).rxNum % 8192 = 0 →
      (s.r64 (Reg.fabFecCeCnt p.val)).toNat % 2 ^ 48 + c.fix.length < 2 ^ 48 →
      Completes (.codewordReceive p.castSucc c) s fun t =>
        fld (t.r64 (Reg.fabFecCeCnt p.val)) 0 48 = fld (s.r64 (Reg.fabFecCeCnt p.val)) 0 48 + c.fix.length
        ∧ t.out = s.out)
    ∧ (c.fix.length ≤ 15 → isWord l = true → (s.port p.val).rxNum % 8192 ≠ 0 →
      (decodeWord l (s.port p.val).rxScr).1 = 0 →
      Completes (.codewordReceive p.castSucc c) s fun t =>
        t.ports = ((wordTaken s p.val c (decodeWord l (s.port p.val).rxScr).2.2).flitReceive p.val
          (flitOf (decodeWord l (s.port p.val).rxScr).2.1)).ports))
  ∧ (∀ (s : State) (p : Fin 9) (f : Flit), Ready s → s.portState p.val = 5 → s.ethernet p.val = false →
    crc64 (flitBytes f) = f.crc.toNat → f.nak = false → f.null = false → f.seq = (s.port p.val).rxSeq + 1 →
    Completes (.flitReceive p f) s fun t =>
      (t.port p.val).rxSeq = f.seq ∧ (t.port p.val).nakSent = false
      ∧ ((List.range 8).any ((s.port p.val).canStart true) = true → t.out = s.out)
      ∧ ((s.port p.val).txq = [] → ∃ g lanes rest, t.out = .codeword p.val (.flit g) lanes :: rest
        ∧ g.null = true ∧ g.ackValid = true ∧ g.ack = f.seq))
  ∧ (∀ (s : State) (p : Fin 9) (f : Flit), Ready s → s.portState p.val = 5 → s.ethernet p.val = false →
    crc64 (flitBytes f) ≠ f.crc.toNat →
    ((s.port p.val).nakSent = false →
      Completes (.flitReceive p f) s fun t =>
        (t.port p.val).rxSeq = (s.port p.val).rxSeq ∧ (t.port p.val).nakSent = true
        ∧ ∃ g lanes rest, t.out = .codeword p.val (.flit g) lanes :: rest ∧ g.nak = true ∧ g.ack = (s.port p.val).rxSeq)
    ∧ ((s.port p.val).nakSent = true → Completes (.flitReceive p f) s fun t => t.ports = s.ports ∧ t.out = s.out))
  ∧ (∀ (s : State) (p : Fin 9) (x : Flit), Ready s → s.portState p.val = 5 → (s.port p.val).replay = [x] →
    (s.port p.val).replays < 8 → (s.port p.val).ackAt + s.portSet p.val Reg.fabLlrTimeout 0 8 4 ≤ s.tick →
    Completes (.llrTimeout p) s fun t =>
      (t.port p.val).replay = [x] ∧ (t.port p.val).replays = (s.port p.val).replays + 1
      ∧ ∃ g lanes rest, t.out = .codeword p.val (.flit g) lanes :: rest ∧ g.seq = x.seq ∧ g.slots = x.slots)
  ∧ (∀ (s : State) (p : Fin 9) (k : TxPkt) (n : Nat), Ready s → s.portState p.val = 5 → s.portEn p.val = true →
    s.ethernet p.val = false → (s.port p.val).txq = [k] → k.vl < 8 → k.slots ≤ natAt (s.port p.val).credit k.vl →
    n = streamFlits ((s.port p.val).tx ++ packetSlots k) → (s.port p.val).replay.length + n ≤ 1024 →
    Completes (.packetSend p) s fun t =>
      (t.port p.val).txq = [] ∧ (t.port p.val).tx = [] ∧ (t.port p.val).replay.length = (s.port p.val).replay.length + n
      ∧ natAt (t.port p.val).credit k.vl = natAt (s.port p.val).credit k.vl - k.slots)
  ∧ (∀ (s : State) (p : Fin 9) (k : TxPkt), Ready s → s.portState p.val = 5 → s.portEn p.val = true →
    s.ethernet p.val = true → (s.port p.val).txq = [k] → optAt (s.port p.val).paused k.vl = none →
    Completes (.packetSend p) s fun t => (t.port p.val).txq = [] ∧ ∃ rest, t.out = .frame p.val k.bytes :: rest)

/-- Ethernet flow control: a frame that is accepted is held by its priority, a PAUSE frame and one that is damaged or of no legal length
are discarded; a PFC frame pauses its priority until a pause of 0 or
the pause's end; XOFF is sent again while it stands; a storm is reported. -/
def Obligations.EthernetFlowControl : Prop :=
  (∀ (s : State) (p : Fin 8) (f : EthFrame), Ready s → s.portState p.val = 5 → s.ethernet p.val = true → f.fcsOk = true →
    f.pause = false → 64 ≤ f.bytes → f.bytes ≤ 9216 →
    ((List.range 8).map fun i => natAt (s.port p.val).level i).sum + f.bytes ≤ ethBuffer →
    Completes (.ethFrameReceive p f) s fun t =>
      natAt (t.port p.val).level f.prio.val = natAt (s.port p.val).level f.prio.val + f.bytes)
  ∧ (∀ (s : State) (p : Fin 8) (f : EthFrame), Ready s →
    f.pause = true ∨ f.fcsOk = false ∨ f.bytes < 64 ∨ 9216 < f.bytes →
    Completes (.ethFrameReceive p f) s fun t => t.ports = s.ports ∧ t.regs = s.regs ∧ t.out = s.out)
  ∧ (∀ (s : State) (p : Fin 8) (prio : Fin 8) (quanta : BitVec 16), Ready s → s.portState p.val = 5 → s.ethernet p.val = true →
    s.pfcEn p.val prio.val = true →
    Completes (.pfcFrameReceive p prio quanta) s fun t =>
      (quanta = 0 → optAt (t.port p.val).paused prio.val = none)
      ∧ (quanta ≠ 0 → (optAt (t.port p.val).paused prio.val).isSome = true))
  ∧ (∀ (s : State) (p : Fin 8) (prio : Fin 8), Ready s → s.ethernet p.val = true → s.pfcEn p.val prio.val = true →
    flagAt (s.port p.val).xoff prio.val = true →
    Completes (.pfcRefresh p prio) s fun t => t.out = .pfc p.val prio.val 0xFFFF :: s.out ∧ t.ports = s.ports)
  ∧ (∀ (s : State) (p : Fin 8) (prio : Fin 8) (at_ : Nat), Ready s → optAt (s.port p.val).paused prio.val = some (at_, 0) →
    s.r32 (Reg.fabPfcStorm p.val) ≠ 0 → at_ + (s.r32 (Reg.fabPfcStorm p.val)).toNat ≤ s.tick →
    Completes (.pfcStorm p prio) s fun t =>
      t.evq = s.evq ++ [⟨fpPage p.val, 13, 10, 256 + p.val⟩]
      ∧ flagAt (t.port p.val).dropping prio.val = s.rb (Reg.fabPfcCfg p.val) 8)
  ∧ (∀ (s : State) (p : Fin 8) (prio : Fin 8), Ready s →
    Completes (.pfcPauseExpiry p prio) s fun t => optAt (t.port p.val).paused prio.val = none)

/-! ## The host (R297 to R304) -/

/-- Register accesses of the host: a read and a write of the device's own half of the window are answered with their tag, an access
of the other half goes to the peer; a doorbell at an offset that has none raises an event of the link's page. -/
def Obligations.HostAccesses : Prop :=
  (∀ (s : State) (tag : BitVec 16) (off : Nat), Ready s → s.gp0Up = true → off < regSpace →
    accessMapped { off := off, size := 4, data := 0 } = true →
    Completes (.regRd tag off 4) s fun t => t.out = .regCpl tag 0 ((s.anyRead off).2.setWidth 64) :: (s.anyRead off).1.out)
  ∧ (∀ (s : State) (tag : BitVec 16) (a : RegAcc), Ready s → s.gp0Up = true → a.off < regSpace → accessMapped a = false →
    Completes (.regWr tag a) s fun t => t.out = .regCpl tag 1 0 :: s.out ∧ t.regs = s.regs)
  ∧ (∀ (s : State) (tag : BitVec 16) (off : Nat) (v : Word) (w : Reg.WordInfo), Ready s → s.gp0Up = true →
    accessMapped { off := off, size := 4, data := v.setWidth 64 } = true → isPage off = true →
    off % 0x1000 < 0x100 → off % 0x1000 ≠ 0x10 → off % 0x1000 ≠ 0x3C → mayWrite .host off = true →
    Reg.info off = some w → w.sh = 0 →
    Completes (.regWr tag { off := off, size := 4, data := v.setWidth 64 }) s fun t =>
      t.r32 off = (((s.r32 off &&& ~~~w.rw) ||| (v &&& w.rw)) &&& ~~~(v &&& w.w1c)) ∧ t.out = .regCpl tag 0 0 :: s.out)
  ∧ (∀ (s : State) (tag : BitVec 16) (a : RegAcc), Ready s → s.gp0Up = true → regSpace ≤ a.off → a.off < 2 * regSpace →
    Completes (.regWr tag a) s fun t =>
      t.regs = s.regs ∧ t.out = .forwarded (BitVec.ofNat 10 (s.rf Reg.gtxPeerDev 0 10)) (BitVec.ofNat 16 (s.rf Reg.gtxPeerPkey 0 16))
        tag true { a with off := a.off - regSpace } :: s.out
      ∧ t.xpt.fwd = s.xpt.fwd ++ [⟨s.rf Reg.gtxPeerDev 0 10, tag, 0⟩])
  ∧ (∀ (s : State) (n : Fin 65536) (data : Dword), Ready s → s.gp0Up = true →
    Completes (.doorbell (0x280000 + 8 * n.val) data) s fun t =>
      t.xpt = (s.ring n.val true true data).xpt ∧ t.out = (s.ring n.val true true data).out)
  ∧ (∀ (s : State) (off : Nat) (data : Dword), Ready s → s.gp0Up = true → isDoorbell off = false → off ≠ Reg.srvCmdTail →
    Completes (.doorbell off data) s fun t => t.regs = s.regs ∧ t.evq = s.evq ++ [⟨gtxPn, 1, 10, 264⟩])

/-- The token stream: the producer and the consumer index are taken as written, and while GP0 is down nothing is sent; a flush, and
the timeout of the record that has waited longest, send the record that has room, as a TOKEN packet with the new index from Gutex 1.1 on,
else as DMA writes of the record and then of the index; a host ring that has been full for GTX_TS_STALL ticks raises TS_STALL once. -/
def Obligations.TokenStream : Prop :=
  (∀ (s : State) (v : Word), Ready s →
    Completes (.gtxTsDevProdWrite v) s fun t =>
      t.r32 Reg.gtxTsDevProd = v
      ∧ (s.gp0Up = false ∨ s.released = false →
        t.out = s.out ∧ t.r32 Reg.gtxTsProd = s.r32 Reg.gtxTsProd ∧ t.ports = s.ports))
  ∧ (∀ (s : State) (v : Word), Ready s →
    Completes (.gtxTsConsWrite v) s fun t => t.r32 Reg.gtxTsCons = v ∧ (s.gp0Up = false → t.out = s.out ∧ t.ports = s.ports))
  ∧ (∀ (s : State) (addr prod hostProd : Nat), Ready s → s.gp0Up = true → s.released = true → s.tsRoom ≠ 0 → s.tsWaiting = 1 →
    addr = ((s.r64 Reg.gtxTsHostBase).toNat / 16 * 16 + 16 * (s.tsProd % s.tsSize)) % 2 ^ 64 → prod = s.tsProd + 1 →
    hostProd = (s.r64 Reg.gtxTsHostProd).toNat / 4 * 4 →
    (0x101 ≤ s.gtxVersion → Completes .tsFlush s fun t =>
      t.r32 Reg.gtxTsProd = s.r32 Reg.gtxTsProd + 1 ∧ t.tsFirst = none
      ∧ t.out = .token (BitVec.ofNat 64 addr) (s.tsRecords s.tsProd 1).2 (BitVec.ofNat 32 prod) (BitVec.ofNat 64 hostProd) :: s.out)
    ∧ (s.gtxVersion < 0x101 → Completes .tsFlush s fun t =>
      t.r32 Reg.gtxTsProd = s.r32 Reg.gtxTsProd + 1 ∧ t.tsFirst = none
      ∧ t.out = .dmaWr (BitVec.ofNat 64 hostProd) false (bytesLE 4 (BitVec.ofNat 32 prod).toNat)
        :: .dmaWr (BitVec.ofNat 64 addr) false (s.tsRecords s.tsProd 1).2 :: s.out))
  ∧ (∀ (s : State) (first addr prod hostProd : Nat), Ready s → s.gp0Up = true → s.released = true → s.tsRoom ≠ 0 →
    s.tsWaiting = 1 → s.tsFirst = some first → first + (s.r32 Reg.gtxTsFlush).toNat ≤ s.tick → 0x101 ≤ s.gtxVersion →
    addr = ((s.r64 Reg.gtxTsHostBase).toNat / 16 * 16 + 16 * (s.tsProd % s.tsSize)) % 2 ^ 64 → prod = s.tsProd + 1 →
    hostProd = (s.r64 Reg.gtxTsHostProd).toNat / 4 * 4 →
    Completes .tsFlushExpiry s fun t =>
      t.r32 Reg.gtxTsProd = s.r32 Reg.gtxTsProd + 1 ∧ t.tsFirst = none
      ∧ t.out = .token (BitVec.ofNat 64 addr) (s.tsRecords s.tsProd 1).2 (BitVec.ofNat 32 prod) (BitVec.ofNat 64 hostProd) :: s.out)
  ∧ (∀ (s : State) (full : Nat), Ready s → s.tsFull = some (full, false) → s.r32 Reg.gtxTsStall ≠ 0 →
    full + (s.r32 Reg.gtxTsStall).toNat ≤ s.tick →
    Completes .tsStall s fun t => t.tsFull = some (full, true) ∧ t.evq = s.evq ++ [⟨gtxPn, 11, 10, 264⟩])
  ∧ (∀ (s : State) (full : Nat), Ready s → s.tsFull = some (full, true) →
    Completes .tsStall s fun t => t.tsFull = s.tsFull ∧ t.evq = s.evq)

/-! ## Transport: requests (R319 to R332) -/

/-- A doorbell takes the tails that the rings have room for; a tail beyond its ring is ignored and raises DB_OVF. A delayed
acknowledgement is sent at the boundary that makes it due, and at no other time; an expiry of the retransmit timer counts a retry, doubles the timer and shrinks the window to one packet;
the end of an RNR delay ends the wait. -/
def Obligations.DoorbellsAndTimers : Prop :=
  (∀ (s : State) (n : Fin 65536) (data : Dword), Ready s → (s.qp n.val).state ≠ 0 → (s.qp n.val).state ≠ 6 →
    tailOk (data.setWidth 32) (s.qp n.val).sqDone (s.qp n.val).sqHead (2 ^ (s.qp n.val).sqSize) = true →
    Completes (.qpDoorbell n true false data) s fun t =>
      t.qp n.val = { s.qp n.val with sqTail := data.setWidth 32 } ∧ t.evq = s.evq ∧ t.regs = s.regs)
  ∧ (∀ (s : State) (n : Fin 65536) (data : Dword), Ready s → (s.qp n.val).state ≠ 0 → (s.qp n.val).state ≠ 6 →
    tailOk (data.setWidth 32) (s.qp n.val).sqDone (s.qp n.val).sqHead (2 ^ (s.qp n.val).sqSize) = false →
    Completes (.qpDoorbell n true false data) s fun t => t.xpt = s.xpt ∧ t.evq = s.evq ++ [⟨xptPn, 14, 10, 264⟩])
  ∧ (∀ (s : State) (n : Fin 65536) (lo hi : Bool) (data : Dword), Ready s → (s.qp n.val).state = 0 →
    Completes (.qpDoorbell n lo hi data) s fun t => t = s)
  ∧ (∀ (s : State) (n : Fin 65536), DueOnly (.delayedAck n.val) s → (s.qp n.val).unacked ≠ 0 → (s.qp n.val).responds = true →
    Completes (.delayedAck n) s fun t =>
      t.due = [] ∧ (t.qp n.val).unacked = 0 ∧ (t.qp n.val).ece = false ∧ (t.qp n.val).epsn = (s.qp n.val).epsn)
  ∧ (∀ (s : State) (n : Fin 65536), Ready s → Unmoved s (.delayedAck n))
  ∧ (∀ (s u : State) (n : Fin 65536) (w : Wqe), Ready s → (s.qp n.val).requests = true → (s.qp n.val).una ≠ (s.qp n.val).npsn →
    s.timerHeld (s.qp n.val) = false → (s.qp n.val).timerAt + (s.qp n.val).timerMul * (s.qp n.val).rto ≤ s.tick →
    (s.qp n.val).goBackN = true → s.resendFrom n.val (s.qp n.val).una = u → u.xpt = s.xpt → s.xpt.cqOvf = [] →
    (s.qp n.val).retries + 1 ≤ (s.qp n.val).retryMax → (s.qp n.val).wqes = [w] → w.fail = 0 →
    (s.qp n.val).npsn = (s.qp n.val).endPsn → seqLe (w.psn + BitVec.ofNat 24 w.count) (s.qp n.val).una = false →
    Completes (.retransmitTimeout n) s fun t =>
      (t.qp n.val).retries = (s.qp n.val).retries + 1 ∧ (t.qp n.val).timerMul = min 64 (2 * (s.qp n.val).timerMul)
      ∧ (t.qp n.val).timerAt = u.tick ∧ (t.qp n.val).cwnd = 256 ∧ t.ports = u.ports)
  ∧ (∀ (s : State) (n : Fin 65536) (psn : BitVec 24) (until_ : Nat), Ready s → (s.qp n.val).rnrWait = some (psn, until_) →
    (s.qp n.val).requests = true → until_ ≤ s.tick → (s.qp n.val).wqes = [] → (s.qp n.val).state = 3 → s.xpt.cqOvf = [] →
    (s.qp n.val).npsn = (s.qp n.val).una →
    Completes (.rnrDelayExpiry n) s fun t => (t.qp n.val).rnrWait = none)

/-- A send WQE of each operation starts and its request packet goes to its port, where its queue pair stands in RTS with an open window. -/
def Obligations.WorkRequestsStart : Prop :=
  ∀ (s : State) (n : Fin 65536) (v : List Dword) (w : Wqe) (s1 s2 : State) (k : Packet),
    (Posted s n.val opSend v w s1 s2 k → Completes (.sendWqe n) s (Sent s n.val w s2 k))
    ∧ (Posted s n.val opWrite v w s1 s2 k → Completes (.writeWqe n) s (Sent s n.val w s2 k))
    ∧ (Posted s n.val opRead v w s1 s2 k → Completes (.readWqe n) s (Sent s n.val w s2 k))
    ∧ (Posted s n.val opAtomic v w s1 s2 k → Completes (.atomicWqe n) s (Sent s n.val w s2 k))
    ∧ (Posted s n.val opAdd v w s1 s2 k → Completes (.addWriteWqe n) s (Sent s n.val w s2 k))
    ∧ (Posted s n.val opRake v w s1 s2 k → Completes (.rakeWqe n) s (Sent s n.val w s2 k))

/-- Replies and acknowledgements at the requester: the first part of a READ of several and of a rake is placed and marked as
received; the reply of an ATOMIC and the acknowledgement of the only WRITE complete their WQE; an ABORT ends an idle queue pair in
ERROR. -/
def Obligations.RepliesArrive : Prop :=
  (∀ (s u : State) (p : Fin 8) (k : Packet) (n : Nat) (w : Wqe), Passes s p.val 3 k → n = k.dstQpn.toNat →
    (s.qp n).wqes = [w] → wqOp w.words = opRead → w.fail = 0 → w.stale = false → w.got = [] → k.psn = w.psn → w.psn = (s.qp n).una →
    2 ≤ w.count → w.count < 2 ^ 22 → (s.qp n).npsn = w.psn + BitVec.ofNat 24 w.count → (s.qp n).state = 3 →
    k.payload.length = min (s.qp n).pmtu (wqLen w.words) →
    (takenIn s k).vSpanWrite (s.qp n).local_ (wqLocal w.words) 0 k.payload k.poison = (u, 0) → u.xpt = s.xpt →
    Completes (.readResp p k) s fun t =>
      (t.qp n).wqes = [{ w with got := [0], poison := w.poison || k.poison }] ∧ (t.qp n).una = w.psn + 1 ∧ SameStores t.mem u.mem)
  ∧ (∀ (s u : State) (p : Fin 8) (k : Packet) (n : Nat) (w : Wqe), Passes s p.val 5 k → n = k.dstQpn.toNat →
    (s.qp n).wqes = [w] → wqOp w.words = opAtomic → w.fail = 0 → w.stale = false → w.got = [] → k.psn = w.psn →
    w.psn = (s.qp n).una → w.count = 1 → (s.qp n).npsn = w.psn + 1 → (s.qp n).state = 3 → k.payload.length = 8 →
    nth 0 w.words 4 = 0 → fld (nth 0 w.words 0) 8 1 = 0 →
    (takenIn s k).vSpanWrite (s.qp n).local_ (wqLocal w.words) 0 (k.payload.take (wqLen w.words)) k.poison = (u, 0) → u.xpt = s.xpt →
    Completes (.atomicResp p k) s fun t =>
      (t.qp n).wqes = [] ∧ (t.qp n).sqDone = w.index + 1 ∧ (t.qp n).una = w.psn + 1 ∧ SameStores t.mem u.mem)
  ∧ (∀ (s : State) (p : Fin 8) (k : Packet) (n : Nat) (w : Wqe) (a b c : Dword), Passes s p.val 8 k → n = k.dstQpn.toNat →
    k.ext = [a, b, c] → fld a 24 8 = 0 → (s.qp n).wqes = [w] → wqOp w.words = opWrite → w.fail = 0 → w.stale = false →
    w.poison = false → w.psn = (s.qp n).una → 0 < w.count → w.count < 2 ^ 22 → (s.qp n).npsn = w.psn + BitVec.ofNat 24 w.count →
    fld a 0 24 = (s.qp n).npsn.toNat → (s.qp n).state = 3 → nth 0 w.words 4 = 0 → fld (nth 0 w.words 0) 8 1 = 0 →
    Completes (.ack p k) s fun t =>
      (t.qp n).wqes = [] ∧ (t.qp n).sqDone = w.index + 1 ∧ (t.qp n).una = (s.qp n).npsn ∧ (t.qp n).retries = 0)
  ∧ (∀ (s : State) (p : Fin 8) (k : Packet) (n : Nat), Passes s p.val 9 k → n = k.dstQpn.toNat →
    (s.qp n).sqTail = (s.qp n).sqDone → (s.qp n).rqTail = (s.qp n).rqDone →
    Completes (.abort p k) s fun t =>
      (t.qp n).state = 6 ∧ (t.qp n).errStatus = 13 ∧ ⟨xptPn, 8, 3, (s.qp n).src⟩ ∈ t.evq)
  ∧ (∀ (s u v : State) (p : Fin 8) (k : Packet) (n : Nat) (w : Wqe) (slot : Nat), Passes s p.val 0x11 k → n = k.dstQpn.toNat →
    2 ≤ (s.qp n).major → k.ext.length = 1 → (s.qp n).wqes = [w] → wqOp w.words = opRake → w.fail = 0 → w.stale = false →
    w.got = [] → w.requests (s.qp n) = 1 → k.psn = w.psn → w.psn = (s.qp n).una → 2 ≤ w.count → w.count < 2 ^ 22 →
    (s.qp n).npsn = w.psn + BitVec.ofNat 24 w.count → (s.qp n).state = 3 → fld (nth 0 k.ext 0) 0 2 = 0 →
    packetsFor (s.qp n).pmtu (wqLen w.words) = 1 → fld (nth 0 k.ext 0) 16 4 = w.attempt.toNat →
    k.payload.length = min (s.qp n).pmtu w.size → w.slot = none → (takenIn s k).claimSlot n w.words = (u, some slot) → u.xpt = s.xpt →
    u.vSpanWrite (s.qp n).local_ (wqGather w.words + 64 + slot * wqStride w.words) 0 k.payload k.poison = (v, 0) → v.xpt = s.xpt →
    Completes (.rakeResp p k) s fun t =>
      (t.qp n).wqes = [{ w with slot := some slot, got := [0], poison := w.poison || k.poison }] ∧ SameStores t.mem v.mem)

/-! ## Transport: requests received (R314 to R318, R328, R333 to R337) -/

/-- The next request of a connection is performed: what it writes or adds lies in memory, what it reads is sent, ePSN passes it. -/
def Obligations.RequestsArePerformed : Prop :=
  (∀ (s a b c : State) (p : Fin 8) (k : Packet) (n : Nat) (h : Reth) (g : Region), NextRequest s p.val 1 k →
    n = k.dstQpn.toNat → h = rethOf k → h.bad = false → k.payload ≠ [] → k.payload.length ≤ (s.qp n).pmtu → h.rsig = 0 →
    h.op = 0 → h.key ≠ 0xFFFFFFFF → (takenIn s k).keyCheck h.key h.off k.payload.length k.pkey.toNat (s.qp n).src .wr = (a, 0, g) →
    (k.poison = true → a.leadsToHost { (s.qp n).acc g.ctx with spaces := [0, 1, 2] } (g.va + h.off) k.payload.length = false) →
    a.canReach { (s.qp n).acc g.ctx with spaces := [0, 1, 2] } (g.va + h.off) k.payload.length true = (b, 0) →
    b.vSpanWrite { (s.qp n).acc g.ctx with spaces := [0, 1, 2] } (g.va + h.off) 0 k.payload k.poison = (c, 0) → c.xpt = s.xpt →
    Completes (.write p k) s fun t => (t.qp n).epsn = (s.qp n).epsn + 1 ∧ SameStores t.mem c.mem)
  ∧ (∀ (s a b c : State) (p : Fin 8) (k : Packet) (n : Nat) (h : Reth) (g : Region), NextRequest s p.val 6 k →
    n = k.dstQpn.toNat → h = rethOf k → h.bad = false → k.payload ≠ [] → k.payload.length ≤ (s.qp n).pmtu → h.rsig = 0 →
    h.op ≤ 6 → k.payload.length % nmaWidth h.op = 0 → h.key ≠ 0xFFFFFFFF →
    (takenIn s k).keyCheck h.key h.off k.payload.length k.pkey.toNat (s.qp n).src .atom = (a, 0, g) → (g.va + h.off) % nmaWidth h.op = 0 →
    (k.poison = true → a.leadsToHost { (s.qp n).acc g.ctx with spaces := [0] } (g.va + h.off) k.payload.length = false) →
    a.canReach { (s.qp n).acc g.ctx with spaces := [0] } (g.va + h.off) k.payload.length true = (b, 0) →
    b.vAdd { (s.qp n).acc g.ctx with spaces := [0] } (g.va + h.off) h.op k.payload k.poison = (c, 0) → c.xpt = s.xpt →
    Completes (.addWrite p k) s fun t => (t.qp n).epsn = (s.qp n).epsn + 1 ∧ SameStores t.mem c.mem)
  ∧ (∀ (s a b : State) (p : Fin 8) (k : Packet) (n : Nat) (h : Reth) (g : Region) (parts : List (List Byte × Bool)),
    NextRequest s p.val 2 k → n = k.dstQpn.toNat → h = rethOf k → h.bad = false → k.payload = [] → h.op = 0 → h.rsig = 0 →
    h.key ≠ 0xFFFFFFFF → (takenIn s k).keyCheck h.key h.off h.len k.pkey.toNat (s.qp n).src .rd = (a, 0, g) →
    a.readParts ((s.qp n).acc g.ctx) (g.va + h.off) h.len (s.qp n).pmtu = (b, parts, 0) → b.xpt = s.xpt →
    Completes (.readReq p k) s fun t =>
      (t.qp n).epsn = (s.qp n).epsn + BitVec.ofNat 24 (packetsFor (s.qp n).pmtu h.len)
      ∧ t.ports = (b.sendParts n k.psn parts).ports ∧ SameStores t.mem b.mem)
  ∧ (∀ (s a b : State) (p : Fin 8) (k : Packet) (n op : Nat) (w0 w1 w2 w3 : Dword) (g : Region) (r : Rd),
    NextRequest s p.val 4 k → n = k.dstQpn.toNat → k.ext = [w0, w1, w2, w3] → k.payload = [] → k.tc.toNat ≤ 3 →
    fld w0 52 12 = 0 → fld w1 35 29 = 0 → op = fld w0 48 4 → 8 ≤ op → op ≤ 12 → fld w1 32 3 = nmaWidth op % 8 →
    fld w1 0 32 ≠ 0xFFFFFFFF → (takenIn s k).keyCheck (fld w1 0 32) (fld w0 0 48) (nmaWidth op) k.pkey.toNat (s.qp n).src .atom = (a, 0, g) →
    (g.va + fld w0 0 48) % nmaWidth op = 0 →
    (if op = 11 ∨ op = 12 then
        a.vNma { (s.qp n).acc g.ctx with spaces := [0] } (g.va + fld w0 0 48) op [w3.toNat] w2.toNat k.poison
      else a.vNma { (s.qp n).acc g.ctx with spaces := [0] } (g.va + fld w0 0 48) op [w2.toNat] 0 k.poison) = (b, r) →
    r.err = 0 → b.xpt = s.xpt →
    Completes (.atomic p k) s fun t =>
      (t.qp n).epsn = (s.qp n).epsn + 1 ∧ SameStores t.mem b.mem
      ∧ (t.qp n).atomics.head? = some (k.psn, BitVec.ofNat 64 (natLE (r.data.take (nmaWidth op))), r.poison))

/-- Messages and rakes at their holder: the first of several packets of a SEND is placed in the next receive WQE, a CM packet fills
QP 0's, the first of several packets of a rake opens a job on the member chosen and is placed in its landing slot, and the reply
of a job whose STORE has signalled ends it. -/
def Obligations.MessagesAndRakes : Prop :=
  (∀ (s a b : State) (p : Fin 8) (k : Packet) (n va len tag : Nat) (lsig : Word) (w : Dword), NextRequest s p.val 0 k →
    n = k.dstQpn.toNat → k.ext = [w] → fld w 56 8 = 0 → fld w 24 32 = 0 → fld w 0 24 = (s.qp n).rqDone.toNat % 2 ^ 24 →
    k.payload ≠ [] → k.payload.length ≤ (s.qp n).pmtu → k.payload.length ≤ len → k.tc.toNat ≤ 3 → k.first = true →
    k.last = false → (s.qp n).rqTail ≠ (s.qp n).rqDone → (takenIn s k).readRq n (s.qp n).rqDone = (a, some (va, len, tag, lsig)) →
    badSig lsig.toNat = false →
    a.xpt = s.xpt → (withRecv a n tag lsig).vSpanWrite (s.qp n).local_ va 0 k.payload k.poison = (b, 0) →
    b.xpt = (withRecv a n tag lsig).xpt →
    Completes (.send p k) s fun t =>
      (t.qp n).epsn = (s.qp n).epsn + 1 ∧ SameStores t.mem b.mem
      ∧ (t.qp n).recv = [{ index := (s.qp n).rqDone, tag := tag, lsig := lsig, len := 0, last := none, poison := k.poison }])
  ∧ (∀ (s a b c : State) (p : Fin 8) (k : Packet) (va len tag : Nat) (lsig : Word), Ready s → k.opcode.toNat = 0xA →
    k.rsv = 0 → s.portState p.val = 5 → k.dstDev.toNat = s.dev → k.dstQpn = 0 → k.pcrc = pcrcOf k →
    (s.ethernet p.val = true → s.addressed p.val k = true) → k.ver.toNat = (s.qp 0).major → (s.qp 0).state ≠ 0 →
    (s.qp 0).state ≠ 1 → (s.qp 0).state ≠ 6 →
    (s.pkeyKnown k.pkey.toNat = true ∨ (k.pkey ≠ 0 ∧ k.pkey.toNat = s.rf Reg.xptMgmtPkey 0 16)) → k.payload.length = 64 → k.ext = [] →
    (s.qp 0).rqDone ≠ (s.qp 0).rqTail → (takenIn s k).readRq 0 (s.qp 0).rqDone = (a, some (va, len, tag, lsig)) →
    badSig lsig.toNat = false → 64 ≤ len → a.vSpanWrite (s.qp 0).local_ va 0 k.payload k.poison = (b, 0) →
    b.finishRecv 0 (s.qp 0).rqDone tag lsig k.poison.toNat 64 k.pkey.toNat k.srcDev.toNat = c → c.xpt.cqOvf = [] →
    Completes (.cm p k) s fun t =>
      (t.qp 0).rqDone = (s.qp 0).rqDone + 1
      ∧ (c.running = false ∨ k.poison = true → t.mem = c.mem ∧ t.srv = c.srv)
      ∧ (c.running = true → k.poison = false →
        t.mem = (c.cmHandle k.srcDev.toNat (cmOf k.payload)).mem ∧ t.srv = (c.cmHandle k.srcDev.toNat (cmOf k.payload)).srv))
  ∧ (∀ (s o u : State) (p : Fin 8) (k : Packet) (n crew e attempt len : Nat) (j : RakeJob), NextRequest s p.val 0x10 k →
    n = k.dstQpn.toNat → rakeHead k = (crew, attempt, 0, len, true) → k.first = true → k.last = false →
    (s.crewCtrl crew).getLsbD 0 = true → k.pkey.toNat = s.crewPkey crew → (blockOf k.payload).bad = false →
    len = (blockOf k.payload).len → len ≤ 8320 → partOk (s.qp n).pmtu len 0 0 (packetsFor (s.qp n).pmtu len) k = true →
    (takenIn s k).chooseMember crew (blockOf k.payload).hint = some e →
    (takenIn s k).openJob n crew e attempt len (blockOf k.payload) k false = (o, j) → j ∉ s.xpt.jobs →
    o.vSpanWrite (o.crewAcc j) (o.landing j) 0 (o.landed j 0 k.payload) k.poison = (u, 0) → u.xpt = o.xpt →
    Completes (.rakeReq p k) s fun t =>
      (t.qp n).epsn = (s.qp n).epsn + 1 ∧ SameStores t.mem u.mem ∧ t.xpt.jobs = s.xpt.jobs ++ [{ j with got := 1 }]
      ∧ j.engine = e ∧ j.qp = n ∧ j.packets = packetsFor (s.qp n).pmtu len ∧ j.due = none)
  ∧ (∀ (s : State) (n : Fin 16) (e : Fin 256) (j : RakeJob) (at_ : Nat) (err : Bool), Ready s →
    s.storedJob n.val e.val = some (j, at_, err) →
    (j.live = false →
      Completes (.rakeReply n e) s fun t =>
        t.xpt.jobs = s.xpt.jobs.erase j ∧ t.tcErr e.val (crewTc (s.crewCtrl n.val)) = false ∧ t.ports = s.ports)
    ∧ (j.live = true → (s.qp j.qp).responds = false → Completes (.rakeReply n e) s fun t => t.xpt = s.xpt ∧ t.regs = s.regs)
    ∧ (j.live = true → (s.qp j.qp).responds = true → err = true →
      Completes (.rakeReply n e) s fun t =>
        t.xpt.jobs = s.xpt.jobs.erase j ∧ t.tcErr e.val (crewTc (s.crewCtrl n.val)) = false
        ∧ ⟨xptPn, 15, 10, (s.qp j.qp).src⟩ ∈ t.evq))
  ∧ (∀ (s b : State) (n : Fin 16) (e : Fin 256) (j : RakeJob) (at_ : Nat) (parts : List (List Byte × Bool)), Ready s →
    s.storedJob n.val e.val = some (j, at_, false) → j.live = true → (s.qp j.qp).responds = true →
    (s.setBit64 (Reg.engTcErr e.val) (crewTc (s.crewCtrl n.val)) false).readParts (s.crewAcc j) (s.landing j + 0x2080) (jobSize j)
      (s.qp j.qp).pmtu = (b, parts, 0) → b.xpt = s.xpt →
    Completes (.rakeReply n e) s fun t => t.xpt.jobs = s.xpt.jobs.erase j ∧ SameStores t.mem b.mem)

/-- Queue-pair commands: each is taken from the states that allow it and brings the state that it names; from every other state it
leaves the transport as it is and sets ERR. -/
def Obligations.QueuePairCommands : Prop :=
  (∀ (s a : State) (n : Fin 65536) (r : Rd) (q : Qp), Ready s → (s.qp n.val).state = 0 →
    s.tableRead Reg.xptQpcBase (256 * n.val) 64 (s.qp n.val).src = (a, r) →
    q = { Qp.reset with ctx := (List.range 8).map fun i => BitVec.ofNat 64 (natLE (slice r.data (8 * i) 8)) } →
    (r.err = 0 → r.poison = false → q.badContext = false → a.pkeyKnown q.pkey = true →
      Completes (.qpInit n) s fun t =>
        (t.qp n.val).state = 1 ∧ (t.qp n.val).ctx = q.ctx ∧ (t.qp n.val).port = q.c 0 1 3 ∧ (t.qp n.val).npsn = q.spsn
        ∧ (t.qp n.val).una = q.spsn ∧ (t.qp n.val).epsn = q.rpsn ∧ t.r32 Reg.xptQpCmdStat = 0x100)
    ∧ (r.err ≠ 0 ∨ r.poison = true ∨ q.badContext = true ∨ a.pkeyKnown q.pkey = false →
      Completes (.qpInit n) s fun t => t.xpt = a.xpt ∧ t.rb Reg.xptQpCmdStat 1 = true))
  ∧ (∀ (s : State) (n : Fin 65536), Ready s → (s.qp n.val).state = 1 →
    Completes (.qpRtr n) s fun t => t.qp n.val = { s.qp n.val with state := 2 } ∧ t.r32 Reg.xptQpCmdStat = 0x200)
  ∧ (∀ (s : State) (n : Fin 65536), Ready s → (s.qp n.val).state = 2 ∨ (s.qp n.val).state = 5 →
    Completes (.qpRts n) s fun t => t.qp n.val = { s.qp n.val with state := 3 } ∧ t.r32 Reg.xptQpCmdStat = 0x300)
  ∧ (∀ (s : State) (n : Fin 65536), Ready s → (s.qp n.val).state = 3 →
    ((s.qp n.val).wqes = [] →
      Completes (.qpDrain n) s fun t =>
        t.qp n.val = { s.qp n.val with state := 5 } ∧ t.evq = s.evq ++ [⟨xptPn, 10, 5, (s.qp n.val).src⟩]
        ∧ t.r32 Reg.xptQpCmdStat = 0x500)
    ∧ (∀ w ws, (s.qp n.val).wqes = w :: ws → w.fail = 0 → seqLe (w.psn + BitVec.ofNat 24 w.count) (s.qp n.val).una = false →
      Completes (.qpDrain n) s fun t =>
        t.qp n.val = { s.qp n.val with state := 4 } ∧ t.evq = s.evq ∧ t.r32 Reg.xptQpCmdStat = 0x400))
  ∧ (∀ (s : State) (n : Fin 65536), Ready s →
    (s.qp n.val).state = 1 ∨ (s.qp n.val).state = 2 ∨ (s.qp n.val).state = 3 ∨ (s.qp n.val).state = 4 ∨ (s.qp n.val).state = 5 →
    Completes (.qpForce n) s fun t => t.qp n.val = { s.qp n.val with forcePend := true } ∧ t.rb Reg.xptQpCmdStat 1 = false)
  ∧ (∀ (s : State) (n : Fin 65536), DueOnly (.qpCancel n.val) s → (s.qp n.val).state ≠ 0 → (s.qp n.val).state ≠ 6 →
    Completes (.qpCancel n) s fun t =>
      t.due = [] ∧ (t.qp n.val).state = 6 ∧ (t.qp n.val).errStatus = 2 ∧ (t.qp n.val).forcePend = false
      ∧ t.r32 Reg.xptQpCmdStat = 0x600)
  ∧ (∀ (s : State) (n : Fin 65536), DueOnly (.qpCancel n.val) s → (s.qp n.val).state = 6 →
    Completes (.qpCancel n) s fun t =>
      t.due = [] ∧ t.qp n.val = { s.qp n.val with forcePend := false } ∧ t.r32 Reg.xptQpCmdStat = 0x602)
  ∧ (∀ (s : State) (n : Fin 65536), Ready s →
    (s.qp n.val).state = 1 ∨ (s.qp n.val).state = 2 ∨ (s.qp n.val).state = 5 ∨ (s.qp n.val).state = 6 →
    Completes (.qpReset n) s fun t =>
      t.qp n.val = Qp.reset ∧ t.r32 Reg.xptQpCmdStat = 0 ∧ ∀ c ∈ t.srv.conns, c.qpn ≠ n.val)
  ∧ (∀ (s : State) (n : Fin 65536) (p : Fin 8), Ready s → s.xpt.cqOvf = [] →
    (s.qp n.val).state = 5 ∨ ((s.qp n.val).state = 3 ∧ (s.qp n.val).wqes = []) →
    Completes (.migrate n p) s fun t => t.qp n.val = { s.qp n.val with port := p.val } ∧ t.rb Reg.xptQpCmdStat 1 = false)
  ∧ (∀ (s m u : State) (n : Fin 65536) (p : Fin 8) (w : Wqe), Ready s → (s.qp n.val).state = 3 ∨ (s.qp n.val).state = 4 →
    s.xpt.cqOvf = [] → (s.qp n.val).wqes = [w] → w.fail = 0 → (s.qp n.val).npsn = (s.qp n.val).endPsn →
    seqLe (w.psn + BitVec.ofNat 24 w.count) (s.qp n.val).una = false → m = s.modQp n.val (fun q => { q with port := p.val }) →
    u = m.resendFrom n.val (s.qp n.val).una → u.xpt = m.xpt →
    Completes (.migrate n p) s fun t =>
      (t.qp n.val).port = p.val ∧ (t.qp n.val).state = (s.qp n.val).state ∧ t.ports = u.ports)
  ∧ (∀ (s : State) (n : Fin 65536) (p : Fin 8), Ready s →
    ∀ c ∈ [(Instr.qpInit n, [0]), (.qpRtr n, [1]), (.qpRts n, [2, 5]), (.qpDrain n, [3]), (.qpForce n, [1, 2, 3, 4, 5]),
      (.qpReset n, [1, 2, 5, 6]), (.migrate n p, [3, 4, 5])], (s.qp n.val).state ∉ c.2 →
    Completes c.1 s fun t => t.xpt = s.xpt ∧ t.rb Reg.xptQpCmdStat 1 = true)

/-- Regions and crews: REGISTER gives the region's new key, REVOKE fences it and ends once nothing is in flight on it, and each is
refused with ERR where it may not or while another is busy, as a write of a reserved OP is then, and ERR stays when a REVOKE ends; a crew is enabled where its key, members, scratchpad and queues allow it,
else refused, and a write of VALID 0 disables it. -/
def Obligations.RegionsAndCrews : Prop :=
  (∀ (s a : State) (i : BitVec 20) (g : Region) (ok : Bool), Ready s → s.rb Reg.xptRgnStat 0 = false →
    s.region i.toNat rgnSrc = (a, g, ok) → a.rgnEntries = s.rgnEntries →
    (i.toNat < s.rgnEntries → i ≠ 0xFFFFF → ok = true → g.state = 0 →
      Completes (.register i) s fun t =>
        t.r32 Reg.xptRgnKey = BitVec.ofNat 32 ((g.gen + 1) % 4096 * 2 ^ 20 + i.toNat) ∧ t.r32 Reg.xptRgnStat = 0
        ∧ ⟨xptPn, 12, 5, 264⟩ ∈ t.evq)
    ∧ (s.rgnEntries ≤ i.toNat ∨ i = 0xFFFFF ∨ ok = false ∨ g.state ≠ 0 →
      Completes (.register i) s fun t =>
        t.r32 Reg.xptRgnStat = 2 ∧ t.mem = a.mem ∧ t.evq = a.evq ++ [⟨xptPn, 12, 5, 264⟩])
    ∧ (i.toNat < s.rgnEntries → ok = true → g.state = 1 →
      Completes (.revokeRegion i) s fun t => t.xpt.rgn = some (i.toNat, 2) ∧ t.r32 Reg.xptRgnStat = 1)
    ∧ (s.rgnEntries ≤ i.toNat ∨ ok = false ∨ g.state ≠ 1 →
      Completes (.revokeRegion i) s fun t => t.xpt = a.xpt ∧ t.r32 Reg.xptRgnStat = 2 ∧ t.evq = a.evq ++ [⟨xptPn, 12, 5, 264⟩]))
  ∧ (∀ (s : State) (i : BitVec 20), Ready s → s.rb Reg.xptRgnStat 0 = true → ∀ c ∈ [Instr.register i, .revokeRegion i],
    Completes c s fun t => t.rb Reg.xptRgnStat 0 = true ∧ t.rb Reg.xptRgnStat 1 = true ∧ t.mem = s.mem ∧ t.xpt = s.xpt)
  ∧ (∀ (s : State) (r : Requester) (v : Word), Ready s → s.keyed r = true → s.rb Reg.xptRgnStat 0 = true →
    fld v 20 2 = 0 ∨ fld v 20 2 = 3 →
    Completes (.regWrite r { off := Reg.xptPage + 0x130, size := 4, data := v.setWidth 64 }) s fun t =>
      t.rb Reg.xptRgnStat 0 = true ∧ t.rb Reg.xptRgnStat 1 = true ∧ t.xpt = s.xpt ∧ t.out = .reg r true 0 :: s.out)
  ∧ (∀ (s a : State) (i k : Nat) (g : Region) (b : Bool), Ready s → s.xpt.rgn = some (i, k) → s.region i rgnSrc = (a, g, b) →
    (g.inflight = 0 →
      Completes .rgnDone s fun t =>
        t.xpt.rgn = none ∧ t.rb Reg.xptRgnStat 0 = false ∧ t.rb Reg.xptRgnStat 1 = (a.setRegion i 0).rb Reg.xptRgnStat 1
        ∧ ⟨xptPn, 12, 5, 264⟩ ∈ t.evq)
    ∧ (g.inflight ≠ 0 → Completes .rgnDone s fun t => t.xpt = s.xpt ∧ t.regs = s.regs))
  ∧ (∀ (s : State) (n : Fin 16) (v : Word), Ready s →
    (crewAllowed s n.val v →
      Completes (.crewEnable n v) s fun t =>
        t.r32 (Reg.xptCrewCtrl n.val) = putFld (v &&& 0x3FFFF) 0 1 1 ∧ t.rb (Reg.xptCrewStat n.val) 16 = false
        ∧ t.xpt.jobs = s.xpt.jobs)
    ∧ (¬ crewAllowed s n.val v →
      Completes (.crewEnable n v) s fun t =>
        t.rb (Reg.xptCrewCtrl n.val) 0 = false ∧ t.rb (Reg.xptCrewStat n.val) 16 = true ∧ t.xpt = s.xpt))
  ∧ (∀ (s : State) (n : Fin 16), Ready s →
    Completes (.crewDisable n) s fun t =>
      t.rb (Reg.xptCrewCtrl n.val) 0 = false ∧ ∀ o, o / 4 ≠ Reg.xptCrewCtrl n.val / 4 → t.r32 o = s.r32 o)

/-! ## The serving firmware (R365 to R392, R421 to R425) -/

/-- Each command of the ring, resolved, has its effect on requests, drafts, adapters, budgets, queries and fences and leaves the
list; one with a reserved bit set, or that names no request, has none but its completion, and one whose turn it is not is not
resolved. -/
def Obligations.RingCommands : Prop :=
  (∀ (s : State) (x : TakenCmd) (i : Nat), Resolves s 1 x → paramsReserved x.block = false →
    s.badSubmit (Hamper.ofParams x.block x.rec_) = false → s.freeHamper = some i →
    Completes .submit s fun t =>
      (t.hamper i).state = 1 ∧ (t.hamper i).hostTag = x.rec_.tag ∧ (t.hamper i).gen = (s.hamper i).gen
      ∧ (t.hamper i).arriveTick = s.tick
      ∧ (t.hamper i).promptLen = (Hamper.ofParams x.block x.rec_).promptLen
      ∧ (t.hamper i).genMax = (Hamper.ofParams x.block x.rec_).genMax
      ∧ (t.hamper i).deadlineTick = (if (Hamper.ofParams x.block x.rec_).ttftLimit = 0 then 0
          else s.tick + (Hamper.ofParams x.block x.rec_).ttftLimit)
      ∧ t.srv.cmds = s.srv.cmds.erase x)
  ∧ (∀ (s : State) (x : TakenCmd) (i : Nat), Resolves s 2 x → Names s x i →
    Completes .cancel s fun t => (t.hamper i).state = 10 ∧ (t.hamper i).endReason = 5)
  ∧ (∀ (s : State) (x : TakenCmd) (i : Nat), Resolves s 3 x → Names s x i → x.rec_.w3 ≠ 0 →
    ((s.hamper i).state = 3 ∨ ((s.hamper i).state = 4 ∧ (s.hamper i).heldFrom = 3) →
      Completes .park s fun t =>
        (t.hamper i).state = 7
        ∧ (t.hamper i).park = some ⟨fld x.rec_.w2 0 1, x.rec_.w2.getLsbD 1, x.rec_.w3.toNat, x.rec_.tag, x.index⟩
        ∧ t.srv.owed = s.srv.owed)
    ∧ ((s.hamper i).state ≠ 3 → ¬ ((s.hamper i).state = 4 ∧ (s.hamper i).heldFrom = 3) →
      Completes .park s fun t => (t.hamper i).state = (s.hamper i).state ∧ (t.hamper i).park = (s.hamper i).park))
  ∧ (∀ (s : State) (x : TakenCmd) (i : Nat), Resolves s 4 x → Names s x i →
    ((s.hamper i).state = 8 → (s.hamper i).expired = none →
      Completes .resume s fun t => (t.hamper i).state = 6 ∧ (t.hamper i).deadlineTick = 0)
    ∧ ((s.hamper i).state ≠ 8 ∨ (s.hamper i).expired ≠ none →
      Completes .resume s fun t => (t.hamper i).state = (s.hamper i).state))
  ∧ (∀ (s : State) (x : TakenCmd) (i : Nat), Resolves s 5 x → Names s x i → 1 ≤ fld x.rec_.w3 24 5 →
    fld x.rec_.w3 24 5 ≤ 16 → x.rec_.w2.toNat % 128 = 0 →
    draftOk x.block (fld x.rec_.w3 24 5) (x.rec_.w3.getLsbD 29) = true →
    Completes .draft s fun t =>
      optAt t.srv.drafts i = some
        { base := fld x.rec_.w3 0 24
          tokens := (List.range (fld x.rec_.w3 24 5)).map fun j => BitVec.ofNat 32 (natLE (slice x.block (4 * j) 4))
          parents := (List.range (fld x.rec_.w3 24 5)).map fun j => nth 0 x.block (64 + j) })
  ∧ (∀ (s : State) (x : TakenCmd) (n v : Nat), Resolves s 6 x → n = fld x.rec_.w2 0 12 → 4 ≤ fld x.rec_.w2 16 9 →
    fld x.rec_.w2 16 9 ≤ 256 → fld x.rec_.w2 16 9 % 4 = 0 → (s.adapter n).vers.length = 4 →
    ((List.range 4).find? fun v => (nth AdapterVer.reset (s.adapter n).vers v).vstate == 0) = some v →
    Completes .adapterLoad s fun t =>
      (t.adapter n).state = 1 ∧ (t.adapter n).rank = fld x.rec_.w2 16 9 ∧ (t.adapter n).cur = v
      ∧ nth AdapterVer.reset (t.adapter n).vers v = ⟨(s.adapter n).top + 1, 0, fld x.rec_.w3 0 48, 1, fld x.rec_.w2 32 6⟩)
  ∧ (∀ (s : State) (x : TakenCmd), Resolves s 7 x →
    Completes .adapterRetire s fun t => (t.adapter (fld x.rec_.w2 0 12)).state = 2)
  ∧ (∀ (s : State) (x : TakenCmd), Resolves s 8 x →
    Completes .budget s fun t =>
      t.budget (fld x.rec_.w2 0 12) = { s.budget (fld x.rec_.w2 0 12) with
        rate := fld x.rec_.w3 0 32, burst := fld x.rec_.w3 32 32, promptW := fld x.rec_.w4 0 8,
        unlimited := x.rec_.w4.getLsbD 8 })
  ∧ (∀ (s : State) (x : TakenCmd) (i : Nat), Resolves s 9 x → s.named x.rec_ = some i → x.rec_.w2.toNat % 32 = 0 →
    Completes .query s fun t =>
      t.srv.queries = s.srv.queries ++ [(x.rec_.w2.toNat, i, ⟨9, 0, 0, cmdHandle x.rec_, x.rec_.tag, s.tick, 0, 0⟩)]
      ∧ t.hamper i = s.hamper i ∧ t.srv.cmds = s.srv.cmds.erase x)
  ∧ (∀ (s : State) (x : TakenCmd) (l : List Nat), Resolves s 10 x →
    l = (s.srv.hampers.filter fun e => match e.2.park with | some p => p.before x.index | none => false).map (·.1) →
    Completes .fence s fun t =>
      t.srv.cmds = s.srv.cmds.erase x
      ∧ t.srv.fences = s.srv.fences ++ (if l = [] ∧ s.srv.queries = [] then [] else [(x.rec_.tag, l)]))
  ∧ (∀ (s : State) (x : TakenCmd), Ready s → s.running = true → s.nextCmd = some x → s.inOrder (cmdKey x.op) = true →
    cmdReserved x.rec_ = true →
    ∀ c ∈ [(Instr.submit, 1), (.cancel, 2), (.park, 3), (.resume, 4), (.draft, 5), (.adapterLoad, 6), (.adapterRetire, 7),
      (.budget, 8), (.query, 9), (.fence, 10)], x.op = c.2 →
    Completes c.1 s fun t =>
      t.srv.cmds = s.srv.cmds.erase x ∧ t.srv.budgets = s.srv.budgets ∧ t.srv.adapters = s.srv.adapters
      ∧ t.srv.drafts = s.srv.drafts ∧ ⟨srvPn, 8, 10, srvSrc⟩ ∈ t.evq ∧ ∀ i, (t.hamper i).state = (s.hamper i).state)
  ∧ (∀ (s : State) (x : TakenCmd), Ready s → s.running = true → s.nextCmd = some x → s.inOrder (cmdKey x.op) = true →
    s.named x.rec_ = none → ∀ c ∈ [(Instr.cancel, 2), (.park, 3), (.resume, 4), (.draft, 5)], x.op = c.2 →
    Completes c.1 s fun t =>
      t.srv.cmds = s.srv.cmds.erase x ∧ t.srv.drafts = s.srv.drafts ∧ ∀ i, (t.hamper i).state = (s.hamper i).state)
  ∧ (∀ (s : State), Ready s →
    ∀ c ∈ [(Instr.submit, 1), (.cancel, 2), (.park, 3), (.resume, 4), (.draft, 5), (.adapterLoad, 6), (.adapterRetire, 7),
      (.budget, 8), (.query, 9), (.fence, 10)],
    s.running = false ∨ s.nextCmd = none ∨ (∃ x, s.nextCmd = some x ∧ x.op ≠ c.2 ∧ 1 ≤ x.op ∧ x.op ≤ 10) →
    Completes c.1 s fun t => t.srv = s.srv ∧ t.regs = s.regs ∧ t.evq = s.evq)

/-- The firmware's own events: what the rings and the tracker take, the moves, expiries and releases of requests, the steps and their
rows, and the reload of a poisoned weight page. -/
def Obligations.FirmwareEvents : Prop :=
  (∀ (s : State) (v : Word) (wrote : List HostSpan), Ready s → (v - s.r32 Reg.srvCmdHead).toNat ≤ 2 ^ s.rf Reg.srvCmdCfg 0 5 →
    Completes (.srvCmdTailWrite v wrote) s fun t => t.r32 Reg.srvCmdTail = v)
  ∧ (∀ (s : State) (v : Word) (wrote : List HostSpan), Ready s → 2 ^ s.rf Reg.srvCmdCfg 0 5 < (v - s.r32 Reg.srvCmdHead).toNat →
    Completes (.srvCmdTailWrite v wrote) s fun t => t.regs = s.regs ∧ t.srv = s.srv)
  ∧ (∀ (s : State) (v : Word), Ready s →
    Completes (.srvCplConsWrite v) s fun t => t.r32 Reg.srvCplCons = v ∧ (s.srv.owed = [] → t.srv.owed = []))
  ∧ (∀ (s : State) (n : Fin 4), Ready s → s.released = true → natAt s.srv.beats n.val + 1024 ≤ s.tick →
    Completes (.srvCoreBeat n) s fun t => t.r32 (Reg.srvCoreBeat n.val) = s.r32 (Reg.srvCoreBeat n.val) + 1
      ∧ natAt t.srv.beats n.val = s.tick)
  ∧ (∀ s : State, Ready s → s.running = false → s.released = true → s.tideState = 2 ∨ s.isMaster = true →
    Completes .hamperTrackerStart s fun t => t.running = true)
  ∧ (∀ (s : State) (i : Nat) (e : Fin 256), ServesOn s e.val → (s.hamper i).state = 5 →
    (Completes (.swapComplete i e true) s fun t =>
      (t.hamper i).state = 6 ∧ (t.hamper i).pages = 0
      ∧ (t.hamper i).copy = some ⟨1, false, ((s.resolved (taskKey e.val)).cacheParts i).2⟩
      ∧ t.pool (s.hamper i).ctx = s.pool (s.hamper i).ctx + (s.hamper i).pages)
    ∧ ((s.hamper i).retried = false →
      Completes (.swapComplete i e false) s fun t => (t.hamper i).state = 5 ∧ (t.hamper i).retried = true)
    ∧ ((s.hamper i).retried = true →
      Completes (.swapComplete i e false) s fun t => (t.hamper i).state = 10 ∧ (t.hamper i).endReason = 11))
  ∧ (∀ (s : State) (i : Nat) (e : Fin 256), ServesOn s e.val → (s.hamper i).state = 9 →
    (Completes (.restoreComplete i e true) s fun t =>
      (t.hamper i).state = (if (s.hamper i).heldFrom = 2 then 2 else 3) ∧ (t.hamper i).copy = none ∧ (t.hamper i).len = (s.hamper i).len)
    ∧ ((s.hamper i).retried = false →
      Completes (.restoreComplete i e false) s fun t => (t.hamper i).state = 9 ∧ (t.hamper i).retried = true)
    ∧ ((s.hamper i).retried = true →
      Completes (.restoreComplete i e false) s fun t => (t.hamper i).state = 10 ∧ (t.hamper i).endReason = 8))
  ∧ (∀ (s : State) (i : Nat) (e : Fin 256) (p : Parking), ServesOn s e.val → (s.hamper i).state = 7 → s.inBasket i = false →
    (s.hamper i).park = some p →
    (Completes (.thermosMovesComplete i e true) s fun t =>
      (t.hamper i).state = 8 ∧ (t.hamper i).copy = some ⟨p.tier, p.pack, ((s.resolved (taskKey e.val)).cacheParts i).2⟩
      ∧ (t.hamper i).pages = 0 ∧ (t.hamper i).deadlineTick = s.tick + p.ttl ∧ (t.hamper i).park = none)
    ∧ ((s.hamper i).retried = false →
      Completes (.thermosMovesComplete i e false) s fun t => (t.hamper i).state = 7 ∧ (t.hamper i).retried = true)
    ∧ ((s.hamper i).retried = true →
      Completes (.thermosMovesComplete i e false) s fun t =>
        (t.hamper i).state = (if s.holdNow i = 0 then 3 else 4) ∧ (t.hamper i).hold = s.holdNow i ∧ (t.hamper i).park = none))
  ∧ (∀ (s : State) (i : Nat), Serves s 8 → (s.hamper i).state = 10 → (s.hamper i).endOwed = false → (s.hamper i).moving = false →
    s.inBasket i = false →
    Completes (.pageRelease i) s fun t => (t.hamper i).state = 0 ∧ (t.hamper i).gen = (s.hamper i).gen + 1 ∧ (t.hamper i).pages = 0)
  ∧ (∀ (s : State) (i : Nat), Serves s 10 → (s.hamper i).state = 8 → (s.hamper i).expired = none → (s.hamper i).deadlineTick ≤ s.tick →
    Completes (.thermosExpiry i) s fun t => (t.hamper i).expired = some s.tick ∧ (t.hamper i).state = 8)
  ∧ (∀ (s : State) (i at_ : Nat), Serves s 8 → (s.hamper i).state = 8 → (s.hamper i).expired = some at_ → at_ < s.tick →
    Completes (.thermosRelease i) s fun t => (t.hamper i).state = 10 ∧ (t.hamper i).endReason = 6)
  ∧ (∀ (s : State) (i : Nat), Serves s 10 → (s.hamper i).state ≠ 0 → (s.hamper i).state ≠ 8 →
    (s.hamper i).state ≠ 10 → (s.hamper i).firstTick = 0 → (s.hamper i).deadlineTick ≠ 0 →
    (s.hamper i).ttftMiss = false → (s.hamper i).deadlineTick ≤ s.tick →
    Completes (.ttftDeadlineExpiry i) s fun t => (t.hamper i).ttftMiss = true ∧ (t.hamper i).state = (s.hamper i).state)
  ∧ (∀ s : State, Builds s →
    Completes .basketBuild s fun t =>
      t.srv.basket.start = none ∧ t.srv.basket.rerun = false ∧ t.srv.basket.live = !t.srv.basket.rows.isEmpty
      ∧ t.srv.basket.rows.length ≤ s.rf Reg.srvStepCfg 0 13 ∧ t.rf Reg.srvLoad 0 13 = t.srv.basket.rows.length
      ∧ t.srv.tables.length = t.srv.basket.rows.length ∧ t.srv.drafts = [] ∧ ∀ r ∈ t.srv.basket.rows, r.done = false ∧ r.weight = none)
  ∧ (∀ (s : State) (i : Nat) (h : Hamper), Builds s → Alone s i h →
    (Decodes s i h (s.draftOf i).tokens.length →
      Completes .basketBuild s fun t =>
        (∃ r : Row, t.srv.basket.rows = [r] ∧ r.hamper = i ∧ r.gen = h.gen ∧ r.chunk = 0 ∧ r.drafts = s.draftOf i ∧ r.lenBefore = h.len)
        ∧ t.srv.basket.live = true ∧ (t.hamper i).state = 3 ∧ (t.hamper i).len = h.len + 1 + (s.draftOf i).tokens.length
        ∧ t.srv.tables = [stepRow h i h.len (1 + (s.draftOf i).tokens.length) true (s.draftOf i)]
        ∧ ((s.budget h.customer).unlimited = false → (t.budget h.customer).balance
          = ((s.budgetRefresh h.customer s.tick).budget h.customer).balance - (1 + (s.draftOf i).tokens.length) * 65536))
    ∧ (h.state = 3 ∨ (h.state = 4 ∧ h.heldFrom = 3) →
      (s.budgetRefresh h.customer s.tick).affords h.customer ((1 + (s.draftOf i).tokens.length) * 65536) = false →
      Completes .basketBuild s fun t =>
        t.srv.basket.rows = [] ∧ (t.hamper i).state = 4 ∧ (t.hamper i).heldFrom = 3 ∧ (t.hamper i).hold = 1 ∧ (t.hamper i).len = h.len)
    ∧ (h.state = 6 → pagesFor h.ctx (h.len + s.rf Reg.srvReserve 0 24) ≤ s.pool h.ctx →
      Completes .basketBuild s fun t =>
        t.srv.basket.rows = [] ∧ (t.hamper i).state = 9 ∧ (t.hamper i).pages = pagesFor h.ctx h.len
        ∧ t.pool h.ctx = s.pool h.ctx - pagesFor h.ctx h.len)
    ∧ (h.state = 2 → s.chunkLen h ≠ 0 →
      (s.budgetRefresh h.customer s.tick).affords h.customer
        ((s.chunkLen h * (s.budget h.customer).promptW + 15) / 16 * 65536) = true → 1 ≤ s.tokenRoom →
      s.lacks i (h.promptDone + s.chunkLen h) ≤ s.pool h.ctx →
      Completes .basketBuild s fun t =>
        (∃ r : Row, t.srv.basket.rows = [r] ∧ r.hamper = i ∧ r.gen = h.gen ∧ r.chunk = s.chunkLen h ∧ r.lenBefore = h.len)
        ∧ (t.hamper i).state = 2 ∧ (t.hamper i).promptDone = h.promptDone ∧ (t.hamper i).len = h.promptDone + s.chunkLen h
        ∧ t.srv.tables = [stepRow h i h.len (s.chunkLen h) false DraftBlock.none_])
    ∧ (h.state = 1 → h.promptLen ≤ 64 → h.import_ = false →
      (pagesFor h.ctx (h.promptLen + s.rf Reg.srvReserve 0 24) ≤ s.pool h.ctx →
        Completes .basketBuild s fun t => (t.hamper i).state = 2 ∧ (t.hamper i).promptDone = 0 ∧ (t.hamper i).shared = none)
      ∧ (s.srv.retained = [] → s.pool h.ctx < pagesFor h.ctx (h.promptLen + s.rf Reg.srvReserve 0 24) →
        Completes .basketBuild s fun t => t.srv.basket.rows = [] ∧ (t.hamper i).state = 1)))
  ∧ (∀ (s : State) (i j : Nat) (h g : Hamper), Builds s → i ≠ j →
    s.srv.hampers = [(i, h), (j, g)] ∨ s.srv.hampers = [(j, g), (i, h)] → s.ctxRuns h.ctx = true → s.ctxRuns g.ctx = true →
    s.srv.queries = [] → s.rf Reg.srvStepCfg 0 13 = 1 → 0 < (s.r32 Reg.srvStepTokens).toNat → g.priority < h.priority →
    Decodes s i h (s.draftOf i).tokens.length → g.state = 3 →
    Completes .basketBuild s fun t =>
      t.srv.basket.rows.map (·.hamper) = [i] ∧ (t.hamper i).state = 3 ∧ (t.hamper j).state = 4 ∧ (t.hamper j).heldFrom = 3
      ∧ (t.hamper j).hold = 0)
  ∧ (∀ (s : State) (k : Nat) (r : Row) (x : RowResult), RowDue s k r x →
    (s.hamper r.hamper).gen ≠ r.gen ∨ (s.hamper r.hamper).state = 0 ∨ (s.hamper r.hamper).state = 10 →
    Completes (.rowCompletion k x) s fun t =>
      RowDone s k t ∧ (t.hamper r.hamper).state = (s.hamper r.hamper).state ∧ (t.hamper r.hamper).genCount = (s.hamper r.hamper).genCount)
  ∧ (∀ (s : State) (k : Nat) (r : Row) (x : RowResult) (h : Hamper) (tok : Word) (a : Nat), RowRead s k r x .clean →
    h = s.hamper r.hamper → tok = (nth (0, 0) x.samples 0).1 →
    a = (acceptPath r.drafts x.samples r.drafts.tokens.length 255).length →
    (r.chunk = 0 → s.tokenStop h tok (r.lenBefore + 1) ≠ 0 →
      Completes (.rowCompletion k x) s fun t =>
        RowDone s k t ∧ (t.hamper r.hamper).state = 10 ∧ (t.hamper r.hamper).endReason = s.tokenStop h tok (r.lenBefore + 1)
        ∧ (t.hamper r.hamper).genCount = h.genCount + 1 ∧ (t.hamper r.hamper).lastToken = tok
        ∧ (t.hamper r.hamper).len = r.lenBefore + 1)
    ∧ (r.chunk = 0 → h.nstop = 0 → h.nseq = 0 → h.genCount + a + 1 < h.genMax → r.lenBefore + 1 + a < h.ctxMax → s.rtMode ≠ 1 →
      r.lenBefore + 1 + a < 2 ^ 24 →
      Completes (.rowCompletion k x) s fun t =>
        RowDone s k t ∧ (t.hamper r.hamper).state = h.state ∧ (t.hamper r.hamper).genCount = h.genCount + a + 1
        ∧ (t.hamper r.hamper).len = r.lenBefore + a + 1)
    ∧ (r.chunk ≠ 0 → h.promptDone + r.chunk < h.promptLen →
      Completes (.rowCompletion k x) s fun t =>
        RowDone s k t ∧ (t.hamper r.hamper).state = h.state ∧ (t.hamper r.hamper).promptDone = h.promptDone + r.chunk
        ∧ (t.hamper r.hamper).genCount = h.genCount)
    ∧ (r.chunk ≠ 0 → h.promptLen ≤ h.promptDone + r.chunk → h.state = 2 → s.tokenStop h tok h.promptLen = 0 →
      Completes (.rowCompletion k x) s fun t =>
        RowDone s k t ∧ (t.hamper r.hamper).state = 3 ∧ (t.hamper r.hamper).promptDone = h.promptDone + r.chunk
        ∧ (t.hamper r.hamper).genCount = h.genCount + 1 ∧ (t.hamper r.hamper).lastToken = tok))
  ∧ (∀ (s : State) (k : Nat) (r : Row) (x : RowResult),
    (RowRead s k r x .fault →
      Completes (.rowCompletion k x) s fun t =>
        RowDone s k t ∧ (t.hamper r.hamper).state = 10 ∧ (t.hamper r.hamper).endReason = 8 ∧ (t.hamper r.hamper).len = r.lenBefore)
    ∧ (RowRead s k r x .poisoned → (∀ w, x.weights = some w → s.weightHit w = false) →
      Completes (.rowCompletion k x) s fun t =>
        RowDone s k t ∧ (t.hamper r.hamper).state = 10 ∧ (t.hamper r.hamper).endReason = 7 ∧ (t.hamper r.hamper).len = r.lenBefore)
    ∧ ∀ w : WeightAt, RowRead s k r x .poisoned → x.weights = some w → s.weightHit w = true →
      Completes (.rowCompletion k x) s fun t =>
        t.srv.basket.rows = s.srv.basket.rows.set k { r with done := true, weight := some w.page }
        ∧ (t.hamper r.hamper).state = (s.hamper r.hamper).state ∧ (t.hamper r.hamper).len = r.lenBefore
        ∧ optAt t.srv.weights w.page = some ⟨(s.hamper r.hamper).ctx, w.sh, w.va, w.page, false⟩)
  ∧ (∀ (s : State) (page frame : Nat) (wrote : List Nat) (w : WeightPage), Serves s 5 → optAt s.srv.weights page = some w →
    s.srv.basket.live = false →
    (s.weightRows page ≠ [] → (s.goldenFirst w.sh (s.goldenList page wrote)).2 = none →
      Completes (.weightReloadComplete page wrote frame) s fun t =>
        optAt t.srv.weights page = some { w with lost := true } ∧ ⟨srvPn, 18, 2, srvSrc⟩ ∈ t.evq
        ∧ ∀ r ∈ s.weightRows page, (s.hamper r.hamper).gen = r.gen → (s.hamper r.hamper).state ≠ 0 → (s.hamper r.hamper).state ≠ 10 →
          (t.hamper r.hamper).state = 10 ∧ (t.hamper r.hamper).endReason = 10)
    ∧ (s.weightRows page ≠ [] ∨ w.lost = true → (s.goldenFirst w.sh (s.goldenList page wrote)).2.isSome = true →
      Completes (.weightReloadComplete page wrote frame) s fun t => optAt t.srv.weights page = none))
  ∧ (∀ (s : State) (at_ : Nat), Serves s 0 → s.srv.rerunAt = some at_ → at_ ≤ s.tick → s.reloading = false →
    Completes .rerunRelease s fun t =>
      t.srv.rerunAt = none ∧ t.srv.basket.live = true ∧ t.srv.basket.start = some s.tick)
  ∧ (∀ (s : State) (n : Fin 4) (i : Nat), Ready s → s.running = true → (s.hamper i).state ≠ 0 → (s.hamper i).state ≠ 10 →
    (Completes (.dataPoisonException n (.hamper i)) s fun t => (t.hamper i).state = 10 ∧ (t.hamper i).endReason = 7)
    ∧ ∀ (k : Nat) (r : Row), s.basketRows[k]? = some r → r.hamper = i → r.gen = (s.hamper i).gen →
      ∀ w ∈ [PoisonRecord.stepTable k, .sampled k],
      Completes (.dataPoisonException n w) s fun t => (t.hamper i).state = 10 ∧ (t.hamper i).endReason = 7)
  ∧ (∀ (s : State) (n : Fin 4), Ready s →
    Completes (.dataPoisonException n .other) s fun t => t.srv = s.srv ∧ t.evq = s.evq)

/-! ## Contexts, shares, accounting and static mode (R393 to R412) -/

/-- A SAVE of an idle engine whose image can be written saves it, empties it and takes its counters away; where a line of the image
cannot be written it fails with CAUSE 4 and the engine keeps what it holds. A LOAD of a slot that is away brings back its memories,
registers and counters where its image is good, else it fails with CAUSE 3; a command for a busy engine, or a slot that does not fit it,
is refused. Their end is reported with its cause, and counted for the context. A context that has stayed blocked is marked so; a share
window gives every context its use, and asks a switchable context above its share to yield to one below it that is away; an accounting
period adds what it has counted to the records and starts anew. A write of SRV_RT_CFG enters the mode that it names, static mode only
where nothing refuses it, and does nothing more while the tracker runs. -/
def Obligations.ContextsAndModes : Prop :=
  (∀ (s u : State) (e : Fin 256) (slot : BitVec 2), Saves s e.val slot.toNat →
    ((saving s e.val slot.toNat).cswStore e.val = (u, true) →
      Completes (.cswSave e slot) s fun t =>
        (t.engine e.val).csw = some ⟨1, slot.toNat, 0, s.savedCtx e.val⟩ ∧ (t.engine e.val).spad = [] ∧ (t.engine e.val).acc = []
        ∧ (t.engine e.val).slots = [] ∧ (t.engine e.val).fetched = [] ∧ (t.engine e.val).tasks = []
        ∧ (∀ q : Fin 4, t.r32 (Reg.engQHead e.val q.val) = 0 ∧ t.r32 (Reg.engQTail e.val q.val) = 0)
        ∧ t.slotHeld e.val slot.toNat = true
        ∧ (t.r64 (Reg.engCswAway e.val (slot.toNat - 1))).toNat = (s.cswAddr e.val slot.toNat).cswHdr e.val
        ∧ (s.cswAddr e.val slot.toNat).cswImage e.val ∈ t.mem.images
        ∧ ∀ n : Fin 64, ((s.cswAddr e.val slot.toNat).r64 (Reg.engCswTcmask e.val)).getLsbD n.val = true →
          t.tcImg e.val n.val = slot.toNat)
    ∧ ((saving s e.val slot.toNat).cswStore e.val = (u, false) →
      Completes (.cswSave e slot) s fun t =>
        t.engines = (u.modEngine e.val fun g => { g with csw := some ⟨1, slot.toNat, 4, s.savedCtx e.val⟩ }).engines
        ∧ t.regs = u.regs))
  ∧ (∀ (s u : State) (e : Fin 256) (slot : BitVec 2) (hdr : Nat) (a : Rd) (im : Image), Loads s e.val slot.toNat hdr u a →
    (u.imageOf hdr = some im → u.imageGood im = true → a.poison = false → a.err = 0 →
      Completes (.cswLoad e slot) s fun t =>
        (t.engine e.val).csw = some ⟨2, slot.toNat, 0, s.loadedCtx e.val slot.toNat⟩ ∧ (t.engine e.val).spad = im.spad
        ∧ (t.engine e.val).spadPoison = im.spadPoison ∧ (t.engine e.val).acc = im.acc ∧ (t.engine e.val).slots = im.slots
        ∧ (t.engine e.val).fetched = [] ∧ t.slotHeld e.val slot.toNat = false ∧ im ∉ t.mem.images
        ∧ (∀ f : Nat → Word, im.regs = imageRegs.map (fun o => (o, f o)) → ∀ o ∈ imageRegs, t.r32 (Reg.engPage e.val + o) = f o)
        ∧ ∀ n : Fin 64, u.tcImg e.val n.val = slot.toNat → natLE (slice a.data (8 * n.val) 8) < 2 ^ 32 →
          natLE (slice a.data 520 8) / 2 ^ n.val % 2 = 0 →
          t.tcImg e.val n.val = 0 ∧ (t.r32 (Reg.engTc e.val n.val)).toNat = natLE (slice a.data (8 * n.val) 8)
          ∧ t.tcErr e.val n.val = (natLE (slice a.data 512 8) / 2 ^ n.val % 2 == 1))
    ∧ (u.imageOf hdr = none ∨ (u.imageOf hdr = some im ∧ (u.imageGood im = false ∨ a.poison = true ∨ a.err ≠ 0)) →
      Completes (.cswLoad e slot) s fun t =>
        t.engines = (u.modEngine e.val fun g => { g with csw := some ⟨2, slot.toNat, 3, s.loadedCtx e.val slot.toNat⟩ }).engines
        ∧ t.regs = u.regs))
  ∧ (∀ (s : State) (e : Fin 256) (slot : BitVec 2), Ready s →
    (s.cswIdle e.val = false → ∀ c ∈ [Instr.cswSave e slot, .cswLoad e slot], Completes c s fun t =>
      t.rb (Reg.engCswStat e.val) 1 = true ∧ t.rf (Reg.engCswStat e.val) 4 4 = 1 ∧ t.engines = s.engines
      ∧ t.rb (Reg.engCswStat e.val) 0 = s.rb (Reg.engCswStat e.val) 0 ∧ t.evq = s.evq ++ [⟨enPage e.val, 22, 10, e.val⟩])
    ∧ (s.cswIdle e.val = true →
      ∀ c ∈ [(Instr.cswSave e slot, decide (slot = 0) || s.slotHeld e.val slot.toNat),
        (.cswLoad e slot, decide (slot = 0) || !s.slotHeld e.val slot.toNat)], c.2 = true →
      Completes c.1 s fun t => t.rf (Reg.engCswStat e.val) 4 4 = 2 ∧ t.engines = s.engines))
  ∧ (∀ (s : State) (e : Fin 256) (j : CswJob), Ready s → (s.engine e.val).csw = some j → j.cause < 16 →
    Completes (.cswDone e) s fun t =>
      (t.engine e.val).csw = none ∧ t.rb (Reg.engCswStat e.val) 0 = false
      ∧ (j.cause = 0 → t.evq = s.evq ++ [⟨enPage e.val, 21, 5, e.val⟩]
        ∧ ∀ k, j.ctx = some k → (t.ctx k).moved = (s.ctx k).moved ||| (1 <<< e.val)
          ∧ natAt t.srv.switches k = natAt s.srv.switches k + (if j.op = 1 then 1 else 0))
      ∧ (j.cause ≠ 0 → t.rb (Reg.engCswStat e.val) 1 = true ∧ t.rf (Reg.engCswStat e.val) 4 4 = j.cause ∧ t.srv = s.srv))
  ∧ (∀ (s : State) (k : Fin 64), Ready s →
    (s.running = true → s.ctxBlocks k.val = true → (s.ctx k.val).blocked = false →
      Completes (.contextBlocked k) s fun t =>
        t.ctx k.val = { s.ctx k.val with blocked := true, blockedAt := s.tick } ∧ ∀ j, j ≠ k.val → t.ctx j = s.ctx j)
    ∧ (s.running = false ∨ s.ctxBlocks k.val = false ∨ (s.ctx k.val).blocked = true → Unmoved s (.contextBlocked k)))
  ∧ (∀ s : State, Ready s →
    (s.running = true → s.srv.windowAt + (s.r32 Reg.srvShareWindow).toNat ≤ s.tick →
      Completes .shareWindow s fun t =>
        t.srv.windowAt = s.tick
        ∧ (∀ k ∈ sharers s, s.ctxState k = 1 →
          (t.ctx k).yield_ = ((s.ctx k).switchable && overShare s k (t.ctx k).used
            && (sharers s).any fun j => s.ctxState j == 3 && (s.ctx j).meets (s.ctx k) && underShare s j (t.ctx j).used))
        ∧ ∀ k, k ∉ sharers s → t.ctx k = s.ctx k)
    ∧ (s.running = false ∨ s.tick < s.srv.windowAt + (s.r32 Reg.srvShareWindow).toNat → Unmoved s .shareWindow))
  ∧ (∀ (s : State) (key : Nat → Nat) (line : Nat → CLine), Ready s →
    (s.rb Reg.pwrAcctCfg 31 = true → s.srv.acctAt + (s.r32 Reg.pwrAcctPeriod).toNat ≤ s.tick →
      (Completes .acctPeriod s fun t =>
        t.srv.acctAt = s.tick ∧ t.srv.switches = [] ∧ t.srv.loaded = [] ∧ t.srv.blocked = [] ∧ t.srv.energy = 0)
      ∧ (BooksCached s key line →
        Completes .acctPeriod s fun t =>
          t.r64 Reg.pwrAcctGen = s.r64 Reg.pwrAcctGen + 1
          ∧ ∀ k < 65, (t.cached (key k)).map (·.data)
              = some (acctBytes (line k).data ((List.range 13).map (s.acctCount k)) (nth 0 s.energyParts k) s.tick)
            ∧ natAt t.srv.carried k = nth 0 s.energyParts k % 1024))
    ∧ (s.rb Reg.pwrAcctCfg 31 = false ∨ s.tick < s.srv.acctAt + (s.r32 Reg.pwrAcctPeriod).toNat → Unmoved s .acctPeriod))
  ∧ (∀ (s : State) (v : Word), Ready s → s.running = false → fld v 0 2 = 0 ∨ fld v 0 2 = 2 →
    Completes (.staticModeEntry v) s fun t => t.rtMode = fld v 0 2 ∧ t.rf Reg.srvRtCfg 0 2 = fld v 0 2)
  ∧ (∀ (s : State) (v : Word), Ready s → s.running = true ∨ fld v 0 2 = 3 →
    Completes (.staticModeEntry v) s fun t => t.rtMode = s.rtMode ∧ t.rf Reg.srvRtCfg 0 2 = fld v 0 2)
  ∧ (∀ (s : State) (v : Word), Ready s → s.running = false → fld v 0 2 = 1 →
    ((s.w32 Reg.srvRtCfg 1).staticRefused = 0 →
      Completes (.staticModeEntry v) s fun t => t.rtMode = 1 ∧ 1 ≤ t.rf Reg.srvStepCfg 0 13 ∧ 1 ≤ (t.r32 Reg.srvStepTokens).toNat)
    ∧ ((s.w32 Reg.srvRtCfg 1).staticRefused ≠ 0 →
      Completes (.staticModeEntry v) s fun t =>
        t.rtMode = s.rtMode ∧ t.rb Reg.srvRtStat 2 = true ∧ t.rf Reg.srvRtStat 4 4 = (s.w32 Reg.srvRtCfg 1).staticRefused))

/-! ## Events, snapshots, power and the sideband (R417, R426 to R434, R441 to R453) -/

/-- EVT_REARM arms the groups named; TAKE and CLEAR are armed for the next boundary and RELEASE gives the counters back; an error of
an engine's SRAM is poisoned where it lies and reported; a read of ENG_ACC_DATA and of TIDE_NOW is answered, and refused to a peer
whose key does not reach the registers. -/
def Obligations.EventsAndReads : Prop :=
  (∀ (s : State) (v : Word), Ready s →
    Completes (.evtRearm v) s fun t =>
      t.r32 Reg.tideEvtArmed = s.r32 Reg.tideEvtArmed ||| (v &&& 0x01FFFFFF)
      ∧ ∀ o, o / 4 ≠ Reg.tideEvtArmed / 4 → t.r32 o = s.r32 o)
  ∧ (∀ s : State, Ready s → Completes .take s fun t =>
      t.tide.snapTake = true ∧ t.tide.snapClear = s.tide.snapClear ∧ t.rb Reg.tideCntSnap 9 = true)
  ∧ (∀ s : State, Ready s → Completes .clear s fun t =>
      t.tide.snapClear = true ∧ t.tide.snapTake = s.tide.snapTake ∧ t.rb Reg.tideCntSnap 9 = true)
  ∧ (∀ s : State, Ready s → Completes .release s fun t =>
      t.rb Reg.tideCntSnap 8 = false ∧ t.rb Reg.tideCntSnap 9 = s.rb Reg.tideCntSnap 9 ∧ t.tide = s.tide)
  ∧ (∀ (s : State) (e : Fin 256) (u : Fin 65536), Ready s →
    Completes (.spadUe e (.unit u)) s fun t =>
      flagAt (t.engine e.val).spadPoison u.val = true ∧ (t.engine e.val).spad = (s.engine e.val).spad
      ∧ ⟨enPage e.val, 23, 2, e.val⟩ ∈ t.evq)
  ∧ (∀ (s : State) (e : Fin 256) (slot : Fin 32) (word : Fin 2048), Ready s →
    Completes (.spadUe e (.acc slot word)) s fun t =>
      (∀ n ∈ (accRow (s.engine e.val) slot.val word.val).1,
        ((s.engine e.val).slot n).shape ≠ some 1 ∨ (accRow (s.engine e.val) slot.val word.val).2 < 32 →
        ((t.engine e.val).slot n).poison
          = ((s.engine e.val).slot n).poison ||| (1 <<< (accRow (s.engine e.val) slot.val word.val).2))
      ∧ (∀ n, n ∉ (accRow (s.engine e.val) slot.val word.val).1 → (t.engine e.val).slot n = (s.engine e.val).slot n)
      ∧ (t.engine e.val).acc = (s.engine e.val).acc
      ∧ (t.engine e.val).spad = (s.engine e.val).spad ∧ (t.engine e.val).spadPoison = (s.engine e.val).spadPoison
      ∧ ⟨enPage e.val, 23, 2, e.val⟩ ∈ t.evq)
  ∧ (∀ (s : State) (e : Fin 256) (r : Requester), Ready s → s.keyed r = false →
    Completes (.engAccDataRead e r) s fun t => t.out = .reg r false 0 :: s.out ∧ t.engines = s.engines)
  ∧ (∀ (s : State) (r : Requester) (elapsed : BitVec 10), Ready s → s.keyed r = false →
    Completes (.tideNowRead r elapsed) s fun t => t.out = .reg r false 0 :: s.out ∧ t.tide = s.tide)
  ∧ (∀ (s : State) (e : Fin 256) (r : Requester), Ready s → s.keyed r = true →
    Completes (.engAccDataRead e r) s fun t =>
      t.out = .reg r true ((s.accData e.val).setWidth 64) :: s.out ∧ t.engines = s.engines)
  ∧ (∀ (s : State) (r : Requester) (elapsed : BitVec 10), Ready s → s.keyed r = true → s.tideState ≠ 0 →
    Completes (.tideNowRead r elapsed) s fun t =>
      t.tide.now = BitVec.ofNat 64 (max s.tide.now.toNat (s.tide.now.toNat / 1024 * 1024 + elapsed.toNat))
      ∧ t.tide.latch = (t.tide.now >>> 32).setWidth 32
      ∧ t.out = .reg r true ((t.tide.now.setWidth 32 : Word).setWidth 64) :: s.out)

/-- PWR_CAP takes what software writes and PWR_CAP_BMC what the sideband writes, which raises an event; EMERG is set; the sideband
reads where its offset stands, writes PWR_CAP_BMC, EMERG and BLK_EVT, and is refused every other write. A sensor's reading is
recorded; one at its TRIP limit or at 125 °C, a fall of PWR_GOOD and a rail fault bring a trip: SMBALERT_N falls, and the first of
them is the one that is pending. -/
def Obligations.PowerAndSideband : Prop :=
  (∀ (s : State) (v : Word), Ready s → Completes (.pwrCapWrite v) s fun t =>
      t.rf Reg.pwrCap 0 11 = fld v 0 11 ∧ t.evq = s.evq ∧ ∀ o, o / 4 ≠ Reg.pwrCap / 4 → t.r32 o = s.r32 o)
  ∧ (∀ (s : State) (v : Word), Ready s → Completes (.pwrCapBmcWrite v) s fun t =>
      t.rf Reg.pwrCapBmc 0 11 = fld v 0 11 ∧ t.evq = s.evq ++ [⟨pwrPn, 12, 10, 5126⟩])
  ∧ (∀ s : State, Ready s → Completes .emerg s fun t =>
      t.rb Reg.pwrCtrl 0 = true ∧ ∀ o, o / 4 ≠ Reg.pwrCtrl / 4 → t.r32 o = s.r32 o)
  ∧ (∀ (s : State) (b0 b1 : Byte), Ready s → Completes (.smbSetOffset b0 b1) s fun t =>
      t.pwr.smbOff = BitVec.ofNat 12 (b0.toNat + 256 * b1.toNat) ∧ t.regs = s.regs)
  ∧ (∀ s : State, Ready s → s.pwr.smbOff.toNat % 4 = 0 → Completes .smbRead s fun t =>
      t.out = .smb true (s.viewRead (Reg.pwrPage + s.pwr.smbOff.toNat)).2 :: (s.viewRead (Reg.pwrPage + s.pwr.smbOff.toNat)).1.out
      ∧ t.pwr = s.pwr)
  ∧ (∀ s : State, Ready s → s.pwr.smbOff.toNat % 4 ≠ 0 → Completes .smbRead s fun t =>
      t.out = .smb true 0 :: s.out ∧ t.pwr = s.pwr ∧ t.regs = s.regs)
  ∧ (∀ (s : State) (v : Word), Ready s → Completes (.smbWrite 0x108 v) s fun t =>
      t.rb Reg.pwrCtrl 0 = v.getLsbD 0 ∧ (∀ o, o / 4 ≠ Reg.pwrCtrl / 4 → t.r32 o = s.r32 o) ∧ t.out = .smb true 0 :: s.out)
  ∧ (∀ (s : State) (v : Word), Ready s → Completes (.smbWrite 0x18 v) s fun t =>
      t.r32 (blkEvt pwrPn) = (s.plainWrite (blkEvt pwrPn) v).r32 (blkEvt pwrPn) ∧ t.out = .smb true 0 :: s.out)
  ∧ (∀ (s : State) (v : Word), Ready s → Completes (.smbWrite 0x104 v) s fun t =>
      t.rf Reg.pwrCapBmc 0 11 = fld v 0 11 ∧ t.out = .smb true 0 :: s.out)
  ∧ (∀ (s : State) (off : BitVec 12) (v : Word), Ready s → off ≠ 0x104 → off ≠ 0x108 → off ≠ 0x18 →
    Completes (.smbWrite off v) s fun t => t.regs = s.regs ∧ t.evq = s.evq ∧ t.out = .smb false 0 :: s.out)
  ∧ (∀ (s : State) (n : Fin 36) (temp : BitVec 10), Ready s → quarters temp < 4 * (s.rf Reg.pwrTlim 8 8 : Int) → quarters temp < 500 →
    Completes (.sensorReading n temp) s fun t =>
      t.r32 (Reg.pwrTemp n.val) = BitVec.ofNat 32 (temp.toNat + 2 ^ 15) ∧ t.pwr = s.pwr)
  ∧ (∀ (s : State) (n : Fin 36) (temp : BitVec 10), Ready s → 4 * (s.rf Reg.pwrTlim 8 8 : Int) ≤ quarters temp →
    Completes (.sensorReading n temp) s fun t =>
      t.pwr.thermTripN = false ∧ t.pwr.smbAlertN = false ∧ ⟨pwrPn, 10, 1, 5126⟩ ∈ t.evq
      ∧ t.pwr.trip = if s.pwr.trip.isNone && !s.pwr.tripped then some (1, 0) else s.pwr.trip)
  ∧ (∀ (s : State) (n : Fin 36) (temp : BitVec 10), Ready s → quarters temp < 4 * (s.rf Reg.pwrTlim 8 8 : Int) → 500 ≤ quarters temp →
    Completes (.sensorReading n temp) s fun t =>
      t.pwr.thermTripN = false ∧ t.pwr.smbAlertN = false ∧ ⟨pwrPn, 10, 1, 5126⟩ ∈ t.evq
      ∧ t.pwr.trip = if s.pwr.trip.isNone && !s.pwr.tripped then some (3, 0) else s.pwr.trip)
  ∧ (∀ s : State, Ready s → Completes .pwrGoodFall s fun t =>
      t.pwr.smbAlertN = false ∧ t.pwr.thermTripN = s.pwr.thermTripN ∧ t.evq = s.evq ++ [⟨pwrPn, 11, 1, 5126⟩]
      ∧ t.pwr.trip = if s.pwr.trip.isNone && !s.pwr.tripped then some (4, 0) else s.pwr.trip)
  ∧ (∀ (s : State) (r : Fin 38), Ready s → Completes (.railFault r) s fun t =>
      t.pwr.smbAlertN = false ∧ t.evq = s.evq ++ [⟨pwrPn, 11, 1, 5126⟩]
      ∧ t.pwr.trip = if s.pwr.trip.isNone && !s.pwr.tripped then some (5, r.val) else s.pwr.trip)

/-! ## Boot and resets (R443, R455 to R476) -/

/-- Each state of the boot: FUSE_LOAD ends in FETCH, or with a double-bit error in HALTED with CAUSE 1; FETCH takes the image that a
good descriptor names, or stops with CAUSE 2 or 9; VERIFY goes on to CONFIG with the image's records, tries the other slot, or stops
with its cause; each record is performed, or stops the boot with CAUSE 7 or 8; RELEASED is entered when none is left. A step of a
state that the boot does not stand in changes nothing. -/
def Obligations.BootSteps : Prop :=
  (∀ (s : State) (f : FuseSense), Ready s → s.bootState = 0 → s.rb Reg.fuseStat 0 = false → doubleBit f = false →
    Completes (.fuseLoad f) s fun t =>
      t.bootState = 1 ∧ t.rb Reg.fuseStat 0 = true ∧ t.sec.misread = misreadBits f ∧ t.sec.partMode = t.partFused)
  ∧ (∀ (s : State) (f : FuseSense), Ready s → s.bootState = 0 → s.rb Reg.fuseStat 0 = false → doubleBit f = true →
    Completes (.fuseLoad f) s fun t =>
      t.bootState = 6 ∧ t.rf Reg.secBootStat 8 4 = 1 ∧ t.rb Reg.fuseStat 1 = true)
  ∧ (∀ (s : State) (f : FlashRead) (d : List Byte), Ready s → s.bootState = 1 → f.err = false →
    bootDescriptor f = some d → s.rb Reg.secBootStat 4 = false →
    Completes (.fetch f) s fun t =>
      t.bootState = 2 ∧ t.rb Reg.secBootStat 3 = (nth 0 d 12).getLsbD 0
      ∧ t.sec.image = flashImage f (slotOffset d ((nth 0 d 12).getLsbD 0)))
  ∧ (∀ (s : State) (f : FlashRead), Ready s → s.bootState = 1 → f.err = false → bootDescriptor f = none → s.portState 8 ≠ 0 →
    Completes (.fetch f) s fun t => t.rf Reg.secBootStat 8 4 = 2 ∧ t.bootState = if s.recoveryEn then 5 else 6)
  ∧ (∀ (s : State) (f : FlashRead), Ready s → s.bootState = 1 → f.err = true → s.portState 8 ≠ 0 →
    (∀ d, bootDescriptor f = some d → s.bootAltEn = true → s.rb Reg.secBootStat 4 = false → s.sec.viaMbx = false →
      Completes (.fetch f) s fun t =>
        t.bootState = 1 ∧ t.rb Reg.secBootStat 4 = true ∧ t.rb Reg.secBootStat 3 = !(nth 0 d 12).getLsbD 0)
    ∧ (bootDescriptor f = none ∨ s.bootAltEn = false ∨ s.rb Reg.secBootStat 4 = true →
      Completes (.fetch f) s fun t => t.rf Reg.secBootStat 8 4 = 9 ∧ t.bootState = if s.recoveryEn then 5 else 6))
  ∧ (∀ s : State, Ready s → s.bootState = 2 → s.portState 8 ≠ 0 →
    Completes .verify s fun t =>
      (s.verifyCause s.sec.image = 0 → t.bootState = 3 ∧ t.sec.records = imgRecords s.sec.image ∧ t.r32 Reg.secBootRecord = 0
        ∧ t.sec.secSram = sramSections s.sec.image [1] ∧ t.sec.srvSram = sramSections s.sec.image [2, 4])
      ∧ (s.verifyCause s.sec.image ≠ 0 → s.bootAltEn = true → s.rb Reg.secBootStat 4 = false → s.sec.viaMbx = false →
        t.bootState = 1 ∧ t.rb Reg.secBootStat 3 = (!s.rb Reg.secBootStat 3) ∧ t.rb Reg.secBootStat 4 = true)
      ∧ (s.verifyCause s.sec.image ≠ 0 → s.bootAltEn = false ∨ s.rb Reg.secBootStat 4 = true ∨ s.sec.viaMbx = true →
        t.rf Reg.secBootStat 8 4 = s.verifyCause s.sec.image ∧ t.bootState = if s.recoveryEn then 5 else 6))
  ∧ (∀ (s u : State) (r : CfgRec) (l : List CfgRec), Ready s → s.bootState = 3 → s.sec.records = r :: l → r.op = 1 →
    s.regWrite .security { off := r.off.toNat, size := 4, data := r.value } [] = (u, false) → u.portState 8 ≠ 0 →
    Completes .wr32 s fun t => t.rf Reg.secBootStat 8 4 = 7)
  ∧ (∀ (s u : State) (r : CfgRec) (l : List CfgRec), Ready s → s.bootState = 3 → s.sec.records = r :: l → r.op = 2 →
    s.regWrite .security { off := r.off.toNat, size := 8, data := r.value } [] = (u, false) → u.portState 8 ≠ 0 →
    Completes .wr64 s fun t => t.rf Reg.secBootStat 8 4 = 7)
  ∧ (∀ (s u : State) (r : CfgRec) (l : List CfgRec), Ready s → s.bootState = 3 → s.sec.records = r :: l → r.op = 1 →
    s.regWrite .security { off := r.off.toNat, size := 4, data := r.value } [] = (u, true) → u.sec.records = s.sec.records →
    Completes .wr32 s fun t => t.sec.records = l ∧ t.r32 Reg.secBootRecord = u.r32 Reg.secBootRecord + 1)
  ∧ (∀ (s u : State) (r : CfgRec) (l : List CfgRec), Ready s → s.bootState = 3 → s.sec.records = r :: l → r.op = 2 →
    s.regWrite .security { off := r.off.toNat, size := 8, data := r.value } [] = (u, true) → u.sec.records = s.sec.records →
    Completes .wr64 s fun t => t.sec.records = l ∧ t.r32 Reg.secBootRecord = u.r32 Reg.secBootRecord + 1)
  ∧ (∀ (s u : State) (r : CfgRec), Ready s → s.bootState = 3 → s.sec.records = [r] → r.op = 1 →
    s.regWrite .security { off := r.off.toNat, size := 4, data := r.value } [] = (u, true) → u.sec.records = s.sec.records →
    Completes .config s fun t => t.sec.records = [] ∧ t.r32 Reg.secBootRecord = u.r32 Reg.secBootRecord + 1)
  ∧ (∀ (s u : State) (r : CfgRec) (l : List CfgRec) (elapsed : Word) (v : Dword), Ready s → s.bootState = 3 →
    s.sec.records = r :: l → r.op = 3 → s.regRead { off := r.off.toNat, size := 4, data := 0 } = (u, some v) →
    u.sec.records = s.sec.records →
    Completes (.poll32 elapsed) s fun t =>
      (v.setWidth 32 &&& r.mask.setWidth 32 = r.value.setWidth 32 &&& (r.mask.setWidth 32 : Word) → t.sec.records = l)
      ∧ (v.setWidth 32 &&& r.mask.setWidth 32 ≠ r.value.setWidth 32 &&& (r.mask.setWidth 32 : Word) → elapsed.toNat < r.time.toNat →
        t.sec.records = r :: l ∧ t.regs = u.regs)
      ∧ (v.setWidth 32 &&& r.mask.setWidth 32 ≠ r.value.setWidth 32 &&& (r.mask.setWidth 32 : Word) → r.time.toNat ≤ elapsed.toNat →
        u.portState 8 ≠ 0 → t.rf Reg.secBootStat 8 4 = 8))
  ∧ (∀ (s : State) (r : CfgRec) (l : List CfgRec) (elapsed : Word), Ready s → s.bootState = 3 → s.sec.records = r :: l → r.op = 4 →
    Completes (.delay elapsed) s fun t =>
      (r.time.toNat ≤ elapsed.toNat → t.sec.records = l ∧ t.r32 Reg.secBootRecord = s.r32 Reg.secBootRecord + 1)
      ∧ (elapsed.toNat < r.time.toNat → t.sec.records = r :: l ∧ t.regs = s.regs))
  ∧ (∀ s : State, Ready s → s.bootState = 3 → s.sec.records = [] → s.portState 8 ≠ 0 →
    Completes .released s fun t => t.bootState = 4 ∧ t.r64 Reg.secBootTick = BitVec.ofNat 64 s.tick)
  ∧ (∀ (s : State) (f : FuseSense), Ready s → s.bootState ≠ 0 → Unmoved s (.fuseLoad f))
  ∧ (∀ (s : State) (f : FlashRead), Ready s → s.bootState ≠ 1 → Unmoved s (.fetch f))
  ∧ (∀ s : State, Ready s → s.bootState ≠ 2 → Unmoved s .verify)
  ∧ (∀ (s : State) (elapsed : Word), Ready s → s.bootState ≠ 3 →
    Unmoved s .config ∧ Unmoved s .wr32 ∧ Unmoved s .wr64 ∧ Unmoved s (.poll32 elapsed) ∧ Unmoved s (.delay elapsed)
      ∧ Unmoved s .released)

/-- Resets and power: RESET_N low leaves everything but fuses and trips as after a cold reset, with as many fuses of a change in
progress as had been programmed; RESET_N high lets the boot start; the removal of power takes away trips as well, and its return
leaves RESET_N low. PWR_RESET with its key asks for a warm reset, which a trip refuses; the warm reset keeps stack and board memory,
waits while fuses are programmed and starts the boot anew. -/
def Obligations.ResetsAndPower : Prop :=
  (∀ s : State, s.pwr.powered = true → Completes .resetAssert s fun t =>
      t.pwr.resetN = false ∧ (∃ n, t.sec.fuses = s.sec.fuses ++ s.programming.take n) ∧ t.pwr.tripped = s.pwr.tripped ∧ t.bootState = 0 ∧ t.tideState = 0
      ∧ t.mem = State.reset.mem ∧ t.xpt = State.reset.xpt ∧ t.srv = State.reset.srv)
  ∧ (∀ s : State, s.pwr.powered = true → s.pwr.resetN = false → Completes .resetRelease s fun t =>
      t.pwr.resetN = true ∧ t.regs = s.regs ∧ t.mem = s.mem ∧ t.sec = s.sec)
  ∧ (∀ s : State, Completes .powerRemoval s fun t =>
      t.pwr.powered = false ∧ t.pwr.resetN = false ∧ t.pwr.tripped = false ∧ t.pwr.trip = none ∧ t.bootState = 0
      ∧ ∃ n, t.sec.fuses = s.sec.fuses ++ s.programming.take n)
  ∧ (∀ s : State, s.pwr.powered = false → Completes .powerUp s fun t =>
      t.pwr.powered = true ∧ t.pwr.resetN = s.pwr.resetN ∧ t.regs = s.regs ∧ t.sec = s.sec)
  ∧ (∀ s : State, s.pwr.powered = true → Unmoved s .powerUp)
  ∧ (∀ s : State, s.pwr.powered = false → Unmoved s .resetAssert ∧ Unmoved s .resetRelease)
  ∧ (∀ (s : State) (v : Word), Ready s → fld v 16 16 = 0x5752 → v.getLsbD 0 = true → s.rb Reg.pwrStat 10 = false →
    Completes (.pwrReset v) s fun t => t.sec.resetWait = true ∧ t.rb Reg.pwrResetStat 0 = false)
  ∧ (∀ (s : State) (v : Word), Ready s → fld v 16 16 = 0x5752 → v.getLsbD 0 = true → s.rb Reg.pwrStat 10 = true →
    Completes (.pwrReset v) s fun t => t.sec = s.sec ∧ t.rb Reg.pwrResetStat 0 = true)
  ∧ (∀ (s : State) (v : Word), Ready s → fld v 16 16 ≠ 0x5752 ∨ v.getLsbD 0 = false →
    Completes (.pwrReset v) s fun t => t.sec = s.sec ∧ t.regs = s.regs)
  ∧ (∀ s : State, Ready s → s.sec.resetWait = true → s.progBusy = false → Completes .warmReset s fun t =>
      t.bootState = 0 ∧ t.tideState = 0 ∧ t.pwr.resetN = true ∧ t.sec.resetWait = false ∧ t.sec.fuses = s.sec.fuses
      ∧ t.pwr.tripped = s.pwr.tripped ∧ t.mem.dram = s.flushAll.mem.dram ∧ t.mem.board = s.flushAll.mem.board
      ∧ t.mem.cache = [] ∧ t.mem.refresh = s.flushAll.mem.refresh ∧ t.mem.images = s.flushAll.mem.images
      ∧ t.rb Reg.secBootStat 12 = false)
  ∧ (∀ s : State, Ready s → s.sec.resetWait = false ∨ s.progBusy = true → Unmoved s .warmReset)

/-! ## Identity and the mailbox (R481 to R491) -/

/-- The mailbox: a write of SEC_MBX_CTRL claims it where it is free, and not where it is owned; its owner releases it; its owner's
input words are taken in order and others refused; output is read word by word and the last word frees it. The derivation of the
identity key ends in RELEASED or RECOVERY where the seed is valid. -/
def Obligations.Mailbox : Prop :=
  (∀ (s : State) (r : Requester) (v : Word), Ready s → mayWrite r Reg.secMbxCtrl = true → s.mbxOwned = false → fld v 0 8 ≠ 0 →
    0 < fld v 8 24 →
    Completes (.mbxClaim r v) s fun t =>
      t.mbxOwned = true ∧ t.mbxOwner = reqSrc r ∧ t.mbxBusy = false ∧ t.sec.mbxOp = fld v 0 8 ∧ t.sec.mbxLen = fld v 8 24
      ∧ t.sec.mbxIn = [])
  ∧ (∀ (s : State) (r : Requester) (v : Word), Ready s → mayWrite r Reg.secMbxCtrl = true → s.mbxOwned = true →
    Completes (.mbxClaim r v) s fun t => t.sec = s.sec ∧ t.regs = s.regs)
  ∧ (∀ (s : State) (r : Requester), Ready s → mayWrite r Reg.secMbxCtrl = true → s.mbxOwned = true → s.mbxOwner = reqSrc r →
    s.mbxBusy = false →
    Completes (.mbxRelease r) s fun t => t.mbxOwned = false ∧ t.sec.mbxIn = [] ∧ t.sec.mbxOut = [])
  ∧ (∀ (s : State) (r : Requester) (v : Dword), Ready s → mayWrite r Reg.secMbxIn = true → s.mbxTakes r = true →
    s.sec.mbxIn.length + 1 < s.sec.mbxLen →
    Completes (.mbxInputWord r v) s fun t =>
      t.sec.mbxIn = s.sec.mbxIn ++ [v] ∧ t.regs = s.regs ∧ t.evq = s.evq ∧ t.out = .reg r true 0 :: s.out)
  ∧ (∀ (s : State) (r : Requester) (v : Dword), Ready s → mayWrite r Reg.secMbxIn = true → s.mbxTakes r = true →
    s.sec.mbxIn.length + 1 = s.sec.mbxLen → 1 ≤ s.sec.mbxOp → s.sec.mbxOp ≤ 12 →
    Completes (.mbxInputWord r v) s fun t => t.sec.mbxIn = s.sec.mbxIn ++ [v] ∧ t.mbxBusy = true)
  ∧ (∀ (s : State) (r : Requester) (v : Dword), Ready s → mayWrite r Reg.secMbxIn = true → s.mbxTakes r = false →
    Completes (.mbxInputWord r v) s fun t =>
      t.sec = s.sec ∧ t.evq = s.evq ++ [⟨secPn, 1, 10, 5124⟩] ∧ t.out = .reg r false 0 :: s.out)
  ∧ (∀ (s : State) (r : Requester), Ready s → s.keyed r = true → s.mbxLeft ≠ [] →
    Completes (.mbxOutputRead r) s fun t =>
      t.out = .mbx r (BitVec.ofNat 64 (natLE (slice s.mbxLeft 0 8))) :: s.out ∧ t.sec.mbxOut = s.sec.mbxOut.drop 8
      ∧ t.mbxOwned = (s.mbxOwned && decide (8 < s.mbxLeft.length)))
  ∧ (∀ (s : State) (r : Requester), Ready s → s.keyed r = false →
    Completes (.mbxOutputRead r) s fun t => t.out = .reg r false 0 :: s.out ∧ t.sec = s.sec)
  ∧ (∀ (s : State) (r : Requester) (v : Word) (w : Dword), Ready s → mayWrite r Reg.secMbxCtrl = false → mayWrite r Reg.secMbxIn = false →
    (Completes (.mbxClaim r v) s fun t => t.sec = s.sec ∧ t.out = .reg r false 0 :: s.out)
      ∧ (Completes (.mbxRelease r) s fun t => t.sec = s.sec ∧ t.out = .reg r false 0 :: s.out)
      ∧ Completes (.mbxInputWord r w) s fun t => t.sec = s.sec ∧ t.out = .reg r false 0 :: s.out)
  ∧ (∀ s : State, Ready s → s.bootState = 4 ∨ s.bootState = 5 → s.seedValid = true →
    Completes .identityDerivation s fun t => t.sec.idReady = true ∧ t.sec.fuses = s.sec.fuses)

/-- The mailbox commands, where they are allowed and their input is good, end OK with their output and their effect: the identity and
a challenge are given, a report is signed, owners are enrolled and revoked, fuses count, keys are kept and an image is taken. One whose
authorisation fails ends with that result and changes no fuse; either way its challenge is spent. One that the boot state does not
allow ends STATE, in HALTED as elsewhere; an IMAGE that is not of the length it states ends INVALID. -/
def Obligations.MailboxCommands : Prop :=
  (∀ s : State, Runs s 1 0 [4, 5] → Keyed s →
    Completes .getId s fun t => Ended s t 0 ∧ t.sec.mbxOut = s.deviceId ++ s.identityKey)
  ∧ (∀ s : State, Runs s 1 0 [4, 5] → s.seedValid = false → Completes .getId s fun t => Ended s t 10 ∧ t.sec.mbxOut = [])
  ∧ (∀ s : State, Runs s 2 0 [4, 5] →
    Completes .getChallenge s fun t => Ended s t 0 ∧ t.sec.challenge = some t.sec.mbxOut ∧ t.sec.mbxOut.length = 32)
  ∧ (∀ s : State, Runs s 3 4 [4, 5] → Keyed s →
    Completes .attest s fun t =>
      Ended s t 0 ∧ t.sec.mbxOut = s.sec.mbxOut
        ++ slice (dsaSign s.identitySeed s.sec.mbxOut (ascii ['L', 'M', 'P', '-', 'A', 'T', 'T', '1'])) 0 3309)
  ∧ (∀ (s : State) (k : Nat), Runs s 4 4 [4, 5] → s.owned = false → s.digestOk s.mbxBytes = true →
    (List.range 4).find? s.ownerFree = some k →
    Completes (.enroll true) s fun t => Ended s t 0 ∧ t.ownerEnrolled k = true)
  ∧ (∀ (s : State) (k : Nat) (args block : List Byte), Presented s 4 32 [4, 5] args block → s.owned = true → s.digestOk args = true →
    (List.range 4).find? s.ownerFree = some k →
    Completes (.enroll true) s fun t => Decided s t (s.authorise 4 args block).2 (t.ownerEnrolled k = true))
  ∧ (∀ (s : State) (args block : List Byte), Presented s 5 8 [4, 5] args block → argNat args < 4 →
    s.ownerEnrolled (argNat args) = true → s.ownerRevoked (argNat args) = false →
    Completes (.revoke true) s fun t => Decided s t (s.authorise 5 args block).2 (t.ownerRevoked (argNat args) = true))
  ∧ (∀ (s : State) (j : Nat) (args block : List Byte), Presented s 6 8 [4] args block → argNat args < 16 →
    ((List.range 16).find? fun j => !s.partUsed j) = some j →
    Completes (.setPartMode true) s fun t => Decided s t (s.authorise 6 args block).2 (t.partCommit j = true))
  ∧ (∀ (s : State) (r : RunImage), Runs s 7 1 [4] → argNat s.mbxBytes ≤ 128 → s.sec.run = some r → argNat s.mbxBytes ≤ r.rollback →
    Completes (.rollbackAdvance true) s fun t =>
      Ended s t 0
      ∧ ∀ i ∈ ((List.range 128).filter fun i => !s.fuse (rollbackBase + i)).take (argNat s.mbxBytes - s.rollbackCount),
        t.fuse (rollbackBase + i) = true)
  ∧ (∀ s : State, Runs s 8 0 [4, 5] → s.debugLock = false →
    Completes (.debugLock true) s fun t => Ended s t 0 ∧ t.debugLock = true)
  ∧ (∀ (s : State) (i : Nat), Runs s 9 1 [4] → keyOk (argNat s.mbxBytes) = true → s.pkeyAt (argNat s.mbxBytes) = none →
    argNat s.mbxBytes ≠ s.mgmtKey → s.pkeyCount < s.pkeyRoom → ((List.range 64).find? fun i => (s.pkeyEntry i).isNone) = some i →
    Completes .pkeyAdd s fun t =>
      Ended s t 0 ∧ t.pkeyEntry i = some (argNat s.mbxBytes) ∧ t.sec.mbxOut = bytesLE 8 i)
  ∧ (∀ (s : State) (i : Nat), Runs s 10 1 [4] → argNat s.mbxBytes ≤ 0xFFFF → s.pkeyAt (argNat s.mbxBytes) = some i →
    s.keyInUse (argNat s.mbxBytes) = false →
    Completes .pkeyRemove s fun t => Ended s t 0 ∧ t.pkeyEntry i = none)
  ∧ (∀ s : State, Runs s 11 1 [4] → keyOk (argNat s.mbxBytes) = true → s.pkeyAt (argNat s.mbxBytes) = none → s.liveQps = [] →
    Completes .mgmtKey s fun t => Ended s t 0 ∧ t.mgmtKey = argNat s.mbxBytes)
  ∧ (∀ (s : State) (n : Nat), Ready s → s.mbxBusy = true → s.sec.mbxOp = 12 → s.bootState = 5 → n = imgNat s.mbxBytes 0x10 4 →
    ((n + 7) / 8 * 8 = s.mbxBytes.length →
      Completes .image s fun t =>
        t.bootState = 2 ∧ t.sec.viaMbx = true ∧ t.mbxBusy = true ∧ t.sec.image = s.mbxBytes.take n)
    ∧ ((n + 7) / 8 * 8 ≠ s.mbxBytes.length →
      Completes .image s fun t => Ended s t 2 ∧ t.bootState = 5 ∧ t.sec.image = s.sec.image ∧ t.sec.viaMbx = s.sec.viaMbx))
  ∧ (∀ s : State, Ready s → s.mbxBusy = true → s.bootState = 6 →
    ∀ c ∈ [(Instr.getId, 1), (.getChallenge, 2), (.attest, 3), (.enroll true, 4), (.revoke true, 5), (.setPartMode true, 6),
      (.rollbackAdvance true, 7), (.debugLock true, 8), (.pkeyAdd, 9), (.pkeyRemove, 10), (.mgmtKey, 11), (.image, 12)],
    s.sec.mbxOp = c.2 → Completes c.1 s fun t => Ended s t 1 ∧ t.sec.mbxOut = [] ∧ t.sec.fuses = s.sec.fuses ∧ t.bootState = 6)
  ∧ (∀ s : State, Ready s → s.mbxBusy = true → s.bootState = 5 →
    ∀ c ∈ [(Instr.setPartMode true, 6), (.rollbackAdvance true, 7), (.pkeyAdd, 9), (.pkeyRemove, 10), (.mgmtKey, 11)],
    s.sec.mbxOp = c.2 → Completes c.1 s fun t => Ended s t 1 ∧ t.sec.mbxOut = [] ∧ t.sec.fuses = s.sec.fuses)
end

