-- ==== Sys2Proof/Laws/Cells.lean ====
section
/-! SUPPORT. Laws of byte memories: what a read after a write gives, and that a write keeps the canonical form. -/
namespace Sys2Proof.Machine

/-! ## The canonical form -/

theorem cellRising_mono {lo hi : Nat} {m : List Host.Cell} (h : lo ≤ hi) (hm : cellRising hi m = true) :
    cellRising lo m = true := by
  cases m with
  | nil => rfl
  | cons x t => simp only [cellRising, Bool.and_eq_true, decide_eq_true_eq] at hm ⊢; exact ⟨by omega, hm.2⟩

theorem cellRising_filter (p : Host.Cell → Bool) {lo : Nat} {m : List Host.Cell} (hm : cellRising lo m = true) :
    cellRising lo (m.filter p) = true := by
  induction m generalizing lo with
  | nil => rfl
  | cons x t ih =>
    simp only [cellRising, Bool.and_eq_true, decide_eq_true_eq] at hm
    rw [List.filter_cons]
    split
    · simp [cellRising, hm.1, ih hm.2]
    · exact cellRising_mono (by omega) (ih hm.2)

/-- What lies from a bound on is rising from there. -/
theorem cellRising_from {lo n : Nat} {m : List Host.Cell} (hm : cellRising lo m = true) :
    cellRising n (m.filter fun x => decide (n ≤ x.1)) = true := by
  induction m generalizing lo with
  | nil => rfl
  | cons x t ih =>
    simp only [cellRising, Bool.and_eq_true, decide_eq_true_eq] at hm
    rw [List.filter_cons]
    split
    · rename_i hx
      simp only [cellRising, Bool.and_eq_true]
      exact ⟨hx, cellRising_filter _ hm.2⟩
    · exact ih hm.2

/-- Two rising parts join where the first ends at or below where the second begins. -/
theorem cellRising_append {lo mid : Nat} {m n : List Host.Cell} (hm : cellRising lo m = true) (hb : ∀ x ∈ m, x.1 < mid)
    (hl : lo ≤ mid) (hn : cellRising mid n = true) : cellRising lo (m ++ n) = true := by
  induction m generalizing lo with
  | nil => exact cellRising_mono hl hn
  | cons x t ih =>
    simp only [cellRising, Bool.and_eq_true, decide_eq_true_eq, List.cons_append] at hm ⊢
    exact ⟨hm.1, ih hm.2 (fun y hy => hb y (by simp [hy])) (hb x (by simp))⟩

theorem cellRising_cells (a : Nat) (b : List Byte) : cellRising a (cellsFrom a b) = true := by
  induction b generalizing a with
  | nil => rfl
  | cons x t ih => simp [cellsFrom, cellRising, ih]

theorem cellsFrom_lt {a : Nat} {b : List Byte} : ∀ x ∈ cellsFrom a b, x.1 < a + b.length := by
  induction b generalizing a with
  | nil => simp [cellsFrom]
  | cons y t ih =>
    intro x hx
    simp only [cellsFrom, List.mem_cons] at hx
    rcases hx with rfl | hx
    · simp
    · have := ih x hx; simp only [List.length_cons]; omega

theorem cellsFrom_le {a : Nat} {b : List Byte} : ∀ x ∈ cellsFrom a b, a ≤ x.1 := by
  induction b generalizing a with
  | nil => simp [cellsFrom]
  | cons y t ih =>
    intro x hx
    simp only [cellsFrom, List.mem_cons] at hx
    rcases hx with rfl | hx
    · exact Nat.le_refl _
    · have := ih x hx; omega

/-- A write keeps the canonical form. -/
theorem cellWrite_wf {m : List Host.Cell} (a : Nat) (b : List Byte) (hm : cellWf m = true) : cellWf (cellWrite m a b) = true := by
  unfold cellWf cellWrite at *
  rw [List.append_assoc]
  refine cellRising_append (mid := a) (cellRising_filter _ hm) ?_ (Nat.zero_le _) ?_
  · intro x hx; simpa using (List.mem_filter.mp hx).2
  · exact cellRising_append (cellRising_cells a b) cellsFrom_lt (by omega) (cellRising_from hm)

/-- The memories of the machine after reset list nothing. -/
theorem reset_mem_wf : Mem.wf State.reset.mem = true := by decide

/-! ## A read after a write -/

/-- A byte outside what is written reads as before. -/
theorem cellByte_write_other (m : List Host.Cell) (a : Nat) (b : List Byte) (j : Nat) (hj : j < a ∨ a + b.length ≤ j) :
    cellByte (cellWrite m a b) j = cellByte m j := by
  have hc : (cellsFrom a b).find? (fun x => x.1 == j) = none := by
    rw [List.find?_eq_none]
    intro x hx
    have h1 := cellsFrom_le x hx
    have h2 := cellsFrom_lt x hx
    simp only [beq_iff_eq]; omega
  unfold cellByte cellWrite
  rw [List.find?_append, List.find?_append, hc]
  congr 1
  rw [List.find?_filter, List.find?_filter]
  induction m with
  | nil => rfl
  | cons x t ih =>
    simp only [List.find?_cons]
    by_cases hx : x.1 = j
    · rcases hj with h | h
      · simp [hx, h]
      · have hn : (t.find? fun y => decide (y.1 < a) && decide (y.1 = j)) = none := by
          rw [List.find?_eq_none]
          intro y _; simp only [Bool.and_eq_true, decide_eq_true_eq, not_and]; omega
        have : ¬ j < a := by omega
        simp [hx, this, h, hn]
    · have hb : (x.1 == j) = false := by simpa using hx
      simpa [hb] using ih

theorem cellByte_cells (a : Nat) (b : List Byte) (i : Nat) (h : i < b.length) :
    (cellsFrom a b).find? (fun x => x.1 == a + i) = some (a + i, b[i]) := by
  induction b generalizing a i with
  | nil => simp at h
  | cons y t ih =>
    cases i with
    | zero => simp [cellsFrom]
    | succ i =>
      have : (a == a + (i + 1)) = false := by simp
      simp only [cellsFrom, List.find?_cons, this]
      have := ih (a + 1) i (by simpa using h)
      rw [show a + 1 + i = a + (i + 1) by omega] at this
      simpa using this

/-- A byte that is written reads as written. -/
theorem cellByte_write_self (m : List Host.Cell) (a : Nat) (b : List Byte) (i : Nat) (h : i < b.length) :
    cellByte (cellWrite m a b) (a + i) = some b[i] := by
  unfold cellByte cellWrite
  have hn : (m.filter fun x => decide (x.1 < a)).find? (fun x => x.1 == a + i) = none := by
    rw [List.find?_eq_none]
    intro x hx
    have := (List.mem_filter.mp hx).2
    simp only [decide_eq_true_eq] at this
    simp only [beq_iff_eq]; omega
  rw [List.find?_append, List.find?_append, cellByte_cells a b i h, hn]
  rfl

end Sys2Proof.Machine
end

