-- ==== Sys2Proof/Laws/Sparse.lean ====
section
/-! SUPPORT. Laws of sparse maps: a read after a write, and that every write keeps the canonical form. -/
namespace Sys2Proof.Sparse

variable {α : Type} {d : Nat → α}

theorem get_drop (m : Sparse α) (k j : Nat) : get d (drop m k) j = if j = k then d j else get d m j := by
  induction m with
  | nil => simp [drop, get]
  | cons e t ih =>
    obtain ⟨i, w⟩ := e
    rw [drop] at ih ⊢
    by_cases hik : i = k
    · subst hik
      simp only [bne_self_eq_false, Bool.false_eq_true, not_false_eq_true, List.filter_cons_of_neg, get, ih]
      split <;> simp_all [eq_comm]
    · rw [List.filter_cons_of_pos (by simpa using hik)]
      simp only [get, ih]
      split <;> simp_all

theorem get_ins (m : Sparse α) (k : Nat) (v : α) (j : Nat) (h : ∀ e ∈ m, e.1 ≠ k) :
    get d (ins m k v) j = if j = k then v else get d m j := by
  induction m with
  | nil => simp [ins, get, eq_comm]
  | cons e t ih =>
    obtain ⟨i, w⟩ := e
    have hi : i ≠ k := h (i, w) (by simp)
    have ht := ih fun e he => h e (by simp [he])
    unfold ins
    split
    · simp only [get, ht]
      by_cases hj : i = j
      · subst hj; simp [hi]
      · simp [hj]
    · simp only [get, eq_comm (a := k)]

theorem drop_ne (m : Sparse α) (k : Nat) : ∀ e ∈ drop m k, e.1 ≠ k := by
  intro e he; simpa using (List.mem_filter.mp he).2

/-- A read after a write. -/
@[simp] theorem get_set [DecidableEq α] (m : Sparse α) (k : Nat) (v : α) (j : Nat) :
    get d (set d m k v) j = if j = k then v else get d m j := by
  unfold set
  split
  · rw [get_drop]; split <;> simp_all
  · rw [get_ins _ _ _ _ (drop_ne m k), get_drop]; split <;> simp_all

theorem get_set_self [DecidableEq α] (m : Sparse α) (k : Nat) (v : α) : get d (set d m k v) k = v := by simp

/-! ## The canonical form -/

theorem rising_mono {lo hi : Nat} {m : Sparse α} (h : lo ≤ hi) (hm : rising hi m = true) : rising lo m = true := by
  cases m with
  | nil => rfl
  | cons e t => simp only [rising, Bool.and_eq_true, decide_eq_true_eq] at hm ⊢; exact ⟨by omega, hm.2⟩

theorem rising_filter (f : Nat × α → Bool) {lo : Nat} {m : Sparse α} (hm : rising lo m = true) :
    rising lo (m.filter f) = true := by
  induction m generalizing lo with
  | nil => rfl
  | cons e t ih =>
    simp only [rising, Bool.and_eq_true, decide_eq_true_eq] at hm
    rw [List.filter_cons]
    split
    · simpa [rising, hm.1] using ih hm.2
    · exact ih (rising_mono (by omega) hm.2)

theorem rising_ins {lo : Nat} {m : Sparse α} {k : Nat} (v : α) (hk : lo ≤ k) (hm : rising lo m = true)
    (hn : ∀ e ∈ m, e.1 ≠ k) : rising lo (ins m k v) = true := by
  induction m generalizing lo with
  | nil => simp [ins, rising, hk]
  | cons e t ih =>
    obtain ⟨i, w⟩ := e
    have hi : i ≠ k := hn (i, w) (by simp)
    simp only [rising, Bool.and_eq_true, decide_eq_true_eq] at hm
    unfold ins
    split
    · rename_i hlt
      simp only [rising, Bool.and_eq_true, decide_eq_true_eq]
      exact ⟨hm.1, ih hlt hm.2 fun e he => hn e (by simp [he])⟩
    · simp only [rising, Bool.and_eq_true, decide_eq_true_eq]
      exact ⟨hk, by omega, hm.2⟩

theorem mem_ins {m : Sparse α} {k : Nat} {v : α} {e : Nat × α} (he : e ∈ ins m k v) : e = (k, v) ∨ e ∈ m := by
  induction m with
  | nil => simpa [ins] using he
  | cons a t ih =>
    unfold ins at he
    split at he
    · rcases List.mem_cons.mp he with h | h
      · exact .inr (by simp [h])
      · rcases ih h with h | h
        · exact .inl h
        · exact .inr (by simp [h])
    · simpa using he

/-- A write keeps the canonical form. -/
theorem wf_set [DecidableEq α] {m : Sparse α} (k : Nat) (v : α) (hm : wf d m = true) : wf d (set d m k v) = true := by
  simp only [wf, Bool.and_eq_true, List.all_eq_true, Bool.not_eq_true', decide_eq_false_iff_not] at hm ⊢
  unfold set
  split
  · exact ⟨rising_filter _ hm.1, fun e he => hm.2 e (List.mem_filter.mp he).1⟩
  · rename_i hv
    refine ⟨rising_ins v (Nat.zero_le _) (rising_filter _ hm.1) (drop_ne m k), fun e he => ?_⟩
    rcases mem_ins he with h | h
    · simpa [h] using hv
    · exact hm.2 e (List.mem_filter.mp h).1

end Sys2Proof.Sparse
end

