-- ==== Sys2Proof/Laws/State.lean ====
section
/-! SUPPORT. One lemma for each field of the state and each of its plain updates: what the update makes of the field. -/
namespace Sys2Proof.Machine

/-! ## w32 -/

@[simp] theorem State.w32_pending (s : State) (off : Nat) (v : Word) : (s.w32 off v).pending = s.pending := rfl
@[simp] theorem State.w32_regs (s : State) (off : Nat) (v : Word) : (s.w32 off v).regs = Sparse.set Reg.resetWord s.regs (off / 4) v := rfl
@[simp] theorem State.w32_tide (s : State) (off : Nat) (v : Word) : (s.w32 off v).tide = s.tide := rfl
@[simp] theorem State.w32_commit (s : State) (off : Nat) (v : Word) : (s.w32 off v).commit = s.commit := rfl
@[simp] theorem State.w32_evq (s : State) (off : Nat) (v : Word) : (s.w32 off v).evq = s.evq := rfl
@[simp] theorem State.w32_evtAt (s : State) (off : Nat) (v : Word) : (s.w32 off v).evtAt = s.evtAt := rfl
@[simp] theorem State.w32_logq (s : State) (off : Nat) (v : Word) : (s.w32 off v).logq = s.logq := rfl
@[simp] theorem State.w32_due (s : State) (off : Nat) (v : Word) : (s.w32 off v).due = s.due := rfl
@[simp] theorem State.w32_engines (s : State) (off : Nat) (v : Word) : (s.w32 off v).engines = s.engines := rfl
@[simp] theorem State.w32_signals (s : State) (off : Nat) (v : Word) : (s.w32 off v).signals = s.signals := rfl
@[simp] theorem State.w32_gives (s : State) (off : Nat) (v : Word) : (s.w32 off v).gives = s.gives := rfl
@[simp] theorem State.w32_heldSignals (s : State) (off : Nat) (v : Word) : (s.w32 off v).heldSignals = s.heldSignals := rfl
@[simp] theorem State.w32_forced (s : State) (off : Nat) (v : Word) : (s.w32 off v).forced = s.forced := rfl
@[simp] theorem State.w32_mem (s : State) (off : Nat) (v : Word) : (s.w32 off v).mem = s.mem := rfl
@[simp] theorem State.w32_ports (s : State) (off : Nat) (v : Word) : (s.w32 off v).ports = s.ports := rfl
@[simp] theorem State.w32_xpt (s : State) (off : Nat) (v : Word) : (s.w32 off v).xpt = s.xpt := rfl
@[simp] theorem State.w32_srv (s : State) (off : Nat) (v : Word) : (s.w32 off v).srv = s.srv := rfl
@[simp] theorem State.w32_pwr (s : State) (off : Nat) (v : Word) : (s.w32 off v).pwr = s.pwr := rfl
@[simp] theorem State.w32_sec (s : State) (off : Nat) (v : Word) : (s.w32 off v).sec = s.sec := rfl
@[simp] theorem State.w32_tsMarks (s : State) (off : Nat) (v : Word) : (s.w32 off v).tsMarks = s.tsMarks := rfl
@[simp] theorem State.w32_tsFull (s : State) (off : Nat) (v : Word) : (s.w32 off v).tsFull = s.tsFull := rfl
@[simp] theorem State.w32_out (s : State) (off : Nat) (v : Word) : (s.w32 off v).out = s.out := rfl
@[simp] theorem State.w32_fresh (s : State) (off : Nat) (v : Word) : (s.w32 off v).fresh = s.fresh := rfl

/-! ## raise -/

@[simp] theorem State.raise_pending (s : State) (pn bit cls src : Nat) : (s.raise pn bit cls src).pending = s.pending := rfl
@[simp] theorem State.raise_regs (s : State) (pn bit cls src : Nat) : (s.raise pn bit cls src).regs = s.regs := rfl
@[simp] theorem State.raise_tide (s : State) (pn bit cls src : Nat) : (s.raise pn bit cls src).tide = s.tide := rfl
@[simp] theorem State.raise_commit (s : State) (pn bit cls src : Nat) : (s.raise pn bit cls src).commit = s.commit := rfl
@[simp] theorem State.raise_evq (s : State) (pn bit cls src : Nat) : (s.raise pn bit cls src).evq = s.evq ++ [⟨pn, bit, cls, src⟩] := rfl
@[simp] theorem State.raise_evtAt (s : State) (pn bit cls src : Nat) : (s.raise pn bit cls src).evtAt = s.evtAt := rfl
@[simp] theorem State.raise_logq (s : State) (pn bit cls src : Nat) : (s.raise pn bit cls src).logq = s.logq := rfl
@[simp] theorem State.raise_due (s : State) (pn bit cls src : Nat) : (s.raise pn bit cls src).due = s.due := rfl
@[simp] theorem State.raise_engines (s : State) (pn bit cls src : Nat) : (s.raise pn bit cls src).engines = s.engines := rfl
@[simp] theorem State.raise_signals (s : State) (pn bit cls src : Nat) : (s.raise pn bit cls src).signals = s.signals := rfl
@[simp] theorem State.raise_gives (s : State) (pn bit cls src : Nat) : (s.raise pn bit cls src).gives = s.gives := rfl
@[simp] theorem State.raise_heldSignals (s : State) (pn bit cls src : Nat) : (s.raise pn bit cls src).heldSignals = s.heldSignals := rfl
@[simp] theorem State.raise_forced (s : State) (pn bit cls src : Nat) : (s.raise pn bit cls src).forced = s.forced := rfl
@[simp] theorem State.raise_mem (s : State) (pn bit cls src : Nat) : (s.raise pn bit cls src).mem = s.mem := rfl
@[simp] theorem State.raise_ports (s : State) (pn bit cls src : Nat) : (s.raise pn bit cls src).ports = s.ports := rfl
@[simp] theorem State.raise_xpt (s : State) (pn bit cls src : Nat) : (s.raise pn bit cls src).xpt = s.xpt := rfl
@[simp] theorem State.raise_srv (s : State) (pn bit cls src : Nat) : (s.raise pn bit cls src).srv = s.srv := rfl
@[simp] theorem State.raise_pwr (s : State) (pn bit cls src : Nat) : (s.raise pn bit cls src).pwr = s.pwr := rfl
@[simp] theorem State.raise_sec (s : State) (pn bit cls src : Nat) : (s.raise pn bit cls src).sec = s.sec := rfl
@[simp] theorem State.raise_tsMarks (s : State) (pn bit cls src : Nat) : (s.raise pn bit cls src).tsMarks = s.tsMarks := rfl
@[simp] theorem State.raise_tsFull (s : State) (pn bit cls src : Nat) : (s.raise pn bit cls src).tsFull = s.tsFull := rfl
@[simp] theorem State.raise_out (s : State) (pn bit cls src : Nat) : (s.raise pn bit cls src).out = s.out := rfl
@[simp] theorem State.raise_fresh (s : State) (pn bit cls src : Nat) : (s.raise pn bit cls src).fresh = s.fresh := rfl

/-! ## setEngine -/

@[simp] theorem State.setEngine_pending (s : State) (e : Nat) (g : Engine) : (s.setEngine e g).pending = s.pending := rfl
@[simp] theorem State.setEngine_regs (s : State) (e : Nat) (g : Engine) : (s.setEngine e g).regs = s.regs := rfl
@[simp] theorem State.setEngine_tide (s : State) (e : Nat) (g : Engine) : (s.setEngine e g).tide = s.tide := rfl
@[simp] theorem State.setEngine_commit (s : State) (e : Nat) (g : Engine) : (s.setEngine e g).commit = s.commit := rfl
@[simp] theorem State.setEngine_evq (s : State) (e : Nat) (g : Engine) : (s.setEngine e g).evq = s.evq := rfl
@[simp] theorem State.setEngine_evtAt (s : State) (e : Nat) (g : Engine) : (s.setEngine e g).evtAt = s.evtAt := rfl
@[simp] theorem State.setEngine_logq (s : State) (e : Nat) (g : Engine) : (s.setEngine e g).logq = s.logq := rfl
@[simp] theorem State.setEngine_due (s : State) (e : Nat) (g : Engine) : (s.setEngine e g).due = s.due := rfl
@[simp] theorem State.setEngine_engines (s : State) (e : Nat) (g : Engine) : (s.setEngine e g).engines = Sparse.set (fun _ => Engine.reset) s.engines e g := rfl
@[simp] theorem State.setEngine_signals (s : State) (e : Nat) (g : Engine) : (s.setEngine e g).signals = s.signals := rfl
@[simp] theorem State.setEngine_gives (s : State) (e : Nat) (g : Engine) : (s.setEngine e g).gives = s.gives := rfl
@[simp] theorem State.setEngine_heldSignals (s : State) (e : Nat) (g : Engine) : (s.setEngine e g).heldSignals = s.heldSignals := rfl
@[simp] theorem State.setEngine_forced (s : State) (e : Nat) (g : Engine) : (s.setEngine e g).forced = s.forced := rfl
@[simp] theorem State.setEngine_mem (s : State) (e : Nat) (g : Engine) : (s.setEngine e g).mem = s.mem := rfl
@[simp] theorem State.setEngine_ports (s : State) (e : Nat) (g : Engine) : (s.setEngine e g).ports = s.ports := rfl
@[simp] theorem State.setEngine_xpt (s : State) (e : Nat) (g : Engine) : (s.setEngine e g).xpt = s.xpt := rfl
@[simp] theorem State.setEngine_srv (s : State) (e : Nat) (g : Engine) : (s.setEngine e g).srv = s.srv := rfl
@[simp] theorem State.setEngine_pwr (s : State) (e : Nat) (g : Engine) : (s.setEngine e g).pwr = s.pwr := rfl
@[simp] theorem State.setEngine_sec (s : State) (e : Nat) (g : Engine) : (s.setEngine e g).sec = s.sec := rfl
@[simp] theorem State.setEngine_tsMarks (s : State) (e : Nat) (g : Engine) : (s.setEngine e g).tsMarks = s.tsMarks := rfl
@[simp] theorem State.setEngine_tsFull (s : State) (e : Nat) (g : Engine) : (s.setEngine e g).tsFull = s.tsFull := rfl
@[simp] theorem State.setEngine_out (s : State) (e : Nat) (g : Engine) : (s.setEngine e g).out = s.out := rfl
@[simp] theorem State.setEngine_fresh (s : State) (e : Nat) (g : Engine) : (s.setEngine e g).fresh = s.fresh := rfl

/-! ## setPort -/

@[simp] theorem State.setPort_pending (s : State) (p : Nat) (x : Port) : (s.setPort p x).pending = s.pending := rfl
@[simp] theorem State.setPort_regs (s : State) (p : Nat) (x : Port) : (s.setPort p x).regs = s.regs := rfl
@[simp] theorem State.setPort_tide (s : State) (p : Nat) (x : Port) : (s.setPort p x).tide = s.tide := rfl
@[simp] theorem State.setPort_commit (s : State) (p : Nat) (x : Port) : (s.setPort p x).commit = s.commit := rfl
@[simp] theorem State.setPort_evq (s : State) (p : Nat) (x : Port) : (s.setPort p x).evq = s.evq := rfl
@[simp] theorem State.setPort_evtAt (s : State) (p : Nat) (x : Port) : (s.setPort p x).evtAt = s.evtAt := rfl
@[simp] theorem State.setPort_logq (s : State) (p : Nat) (x : Port) : (s.setPort p x).logq = s.logq := rfl
@[simp] theorem State.setPort_due (s : State) (p : Nat) (x : Port) : (s.setPort p x).due = s.due := rfl
@[simp] theorem State.setPort_engines (s : State) (p : Nat) (x : Port) : (s.setPort p x).engines = s.engines := rfl
@[simp] theorem State.setPort_signals (s : State) (p : Nat) (x : Port) : (s.setPort p x).signals = s.signals := rfl
@[simp] theorem State.setPort_gives (s : State) (p : Nat) (x : Port) : (s.setPort p x).gives = s.gives := rfl
@[simp] theorem State.setPort_heldSignals (s : State) (p : Nat) (x : Port) : (s.setPort p x).heldSignals = s.heldSignals := rfl
@[simp] theorem State.setPort_forced (s : State) (p : Nat) (x : Port) : (s.setPort p x).forced = s.forced := rfl
@[simp] theorem State.setPort_mem (s : State) (p : Nat) (x : Port) : (s.setPort p x).mem = s.mem := rfl
@[simp] theorem State.setPort_ports (s : State) (p : Nat) (x : Port) : (s.setPort p x).ports = Sparse.set (fun _ => Port.reset) s.ports p x := rfl
@[simp] theorem State.setPort_xpt (s : State) (p : Nat) (x : Port) : (s.setPort p x).xpt = s.xpt := rfl
@[simp] theorem State.setPort_srv (s : State) (p : Nat) (x : Port) : (s.setPort p x).srv = s.srv := rfl
@[simp] theorem State.setPort_pwr (s : State) (p : Nat) (x : Port) : (s.setPort p x).pwr = s.pwr := rfl
@[simp] theorem State.setPort_sec (s : State) (p : Nat) (x : Port) : (s.setPort p x).sec = s.sec := rfl
@[simp] theorem State.setPort_tsMarks (s : State) (p : Nat) (x : Port) : (s.setPort p x).tsMarks = s.tsMarks := rfl
@[simp] theorem State.setPort_tsFull (s : State) (p : Nat) (x : Port) : (s.setPort p x).tsFull = s.tsFull := rfl
@[simp] theorem State.setPort_out (s : State) (p : Nat) (x : Port) : (s.setPort p x).out = s.out := rfl
@[simp] theorem State.setPort_fresh (s : State) (p : Nat) (x : Port) : (s.setPort p x).fresh = s.fresh := rfl

/-! ## setQp -/

@[simp] theorem State.setQp_pending (s : State) (n : Nat) (x : Qp) : (s.setQp n x).pending = s.pending := rfl
@[simp] theorem State.setQp_regs (s : State) (n : Nat) (x : Qp) : (s.setQp n x).regs = s.regs := rfl
@[simp] theorem State.setQp_tide (s : State) (n : Nat) (x : Qp) : (s.setQp n x).tide = s.tide := rfl
@[simp] theorem State.setQp_commit (s : State) (n : Nat) (x : Qp) : (s.setQp n x).commit = s.commit := rfl
@[simp] theorem State.setQp_evq (s : State) (n : Nat) (x : Qp) : (s.setQp n x).evq = s.evq := rfl
@[simp] theorem State.setQp_evtAt (s : State) (n : Nat) (x : Qp) : (s.setQp n x).evtAt = s.evtAt := rfl
@[simp] theorem State.setQp_logq (s : State) (n : Nat) (x : Qp) : (s.setQp n x).logq = s.logq := rfl
@[simp] theorem State.setQp_due (s : State) (n : Nat) (x : Qp) : (s.setQp n x).due = s.due := rfl
@[simp] theorem State.setQp_engines (s : State) (n : Nat) (x : Qp) : (s.setQp n x).engines = s.engines := rfl
@[simp] theorem State.setQp_signals (s : State) (n : Nat) (x : Qp) : (s.setQp n x).signals = s.signals := rfl
@[simp] theorem State.setQp_gives (s : State) (n : Nat) (x : Qp) : (s.setQp n x).gives = s.gives := rfl
@[simp] theorem State.setQp_heldSignals (s : State) (n : Nat) (x : Qp) : (s.setQp n x).heldSignals = s.heldSignals := rfl
@[simp] theorem State.setQp_forced (s : State) (n : Nat) (x : Qp) : (s.setQp n x).forced = s.forced := rfl
@[simp] theorem State.setQp_mem (s : State) (n : Nat) (x : Qp) : (s.setQp n x).mem = s.mem := rfl
@[simp] theorem State.setQp_ports (s : State) (n : Nat) (x : Qp) : (s.setQp n x).ports = s.ports := rfl
@[simp] theorem State.setQp_xpt (s : State) (n : Nat) (x : Qp) : (s.setQp n x).xpt = { s.xpt with qps := Sparse.set (fun _ => Qp.reset) s.xpt.qps n x } := rfl
@[simp] theorem State.setQp_srv (s : State) (n : Nat) (x : Qp) : (s.setQp n x).srv = s.srv := rfl
@[simp] theorem State.setQp_pwr (s : State) (n : Nat) (x : Qp) : (s.setQp n x).pwr = s.pwr := rfl
@[simp] theorem State.setQp_sec (s : State) (n : Nat) (x : Qp) : (s.setQp n x).sec = s.sec := rfl
@[simp] theorem State.setQp_tsMarks (s : State) (n : Nat) (x : Qp) : (s.setQp n x).tsMarks = s.tsMarks := rfl
@[simp] theorem State.setQp_tsFull (s : State) (n : Nat) (x : Qp) : (s.setQp n x).tsFull = s.tsFull := rfl
@[simp] theorem State.setQp_out (s : State) (n : Nat) (x : Qp) : (s.setQp n x).out = s.out := rfl
@[simp] theorem State.setQp_fresh (s : State) (n : Nat) (x : Qp) : (s.setQp n x).fresh = s.fresh := rfl

/-! ## setHamper -/

@[simp] theorem State.setHamper_pending (s : State) (i : Nat) (x : Hamper) : (s.setHamper i x).pending = s.pending := rfl
@[simp] theorem State.setHamper_regs (s : State) (i : Nat) (x : Hamper) : (s.setHamper i x).regs = s.regs := rfl
@[simp] theorem State.setHamper_tide (s : State) (i : Nat) (x : Hamper) : (s.setHamper i x).tide = s.tide := rfl
@[simp] theorem State.setHamper_commit (s : State) (i : Nat) (x : Hamper) : (s.setHamper i x).commit = s.commit := rfl
@[simp] theorem State.setHamper_evq (s : State) (i : Nat) (x : Hamper) : (s.setHamper i x).evq = s.evq := rfl
@[simp] theorem State.setHamper_evtAt (s : State) (i : Nat) (x : Hamper) : (s.setHamper i x).evtAt = s.evtAt := rfl
@[simp] theorem State.setHamper_logq (s : State) (i : Nat) (x : Hamper) : (s.setHamper i x).logq = s.logq := rfl
@[simp] theorem State.setHamper_due (s : State) (i : Nat) (x : Hamper) : (s.setHamper i x).due = s.due := rfl
@[simp] theorem State.setHamper_engines (s : State) (i : Nat) (x : Hamper) : (s.setHamper i x).engines = s.engines := rfl
@[simp] theorem State.setHamper_signals (s : State) (i : Nat) (x : Hamper) : (s.setHamper i x).signals = s.signals := rfl
@[simp] theorem State.setHamper_gives (s : State) (i : Nat) (x : Hamper) : (s.setHamper i x).gives = s.gives := rfl
@[simp] theorem State.setHamper_heldSignals (s : State) (i : Nat) (x : Hamper) : (s.setHamper i x).heldSignals = s.heldSignals := rfl
@[simp] theorem State.setHamper_forced (s : State) (i : Nat) (x : Hamper) : (s.setHamper i x).forced = s.forced := rfl
@[simp] theorem State.setHamper_mem (s : State) (i : Nat) (x : Hamper) : (s.setHamper i x).mem = s.mem := rfl
@[simp] theorem State.setHamper_ports (s : State) (i : Nat) (x : Hamper) : (s.setHamper i x).ports = s.ports := rfl
@[simp] theorem State.setHamper_xpt (s : State) (i : Nat) (x : Hamper) : (s.setHamper i x).xpt = s.xpt := rfl
@[simp] theorem State.setHamper_srv (s : State) (i : Nat) (x : Hamper) : (s.setHamper i x).srv = { s.srv with hampers := Sparse.set (fun _ => Hamper.reset) s.srv.hampers i x } := rfl
@[simp] theorem State.setHamper_pwr (s : State) (i : Nat) (x : Hamper) : (s.setHamper i x).pwr = s.pwr := rfl
@[simp] theorem State.setHamper_sec (s : State) (i : Nat) (x : Hamper) : (s.setHamper i x).sec = s.sec := rfl
@[simp] theorem State.setHamper_tsMarks (s : State) (i : Nat) (x : Hamper) : (s.setHamper i x).tsMarks = s.tsMarks := rfl
@[simp] theorem State.setHamper_tsFull (s : State) (i : Nat) (x : Hamper) : (s.setHamper i x).tsFull = s.tsFull := rfl
@[simp] theorem State.setHamper_out (s : State) (i : Nat) (x : Hamper) : (s.setHamper i x).out = s.out := rfl
@[simp] theorem State.setHamper_fresh (s : State) (i : Nat) (x : Hamper) : (s.setHamper i x).fresh = s.fresh := rfl

/-! ## modTide -/

@[simp] theorem State.modTide_pending (s : State) (f : Tide → Tide) : (s.modTide f).pending = s.pending := rfl
@[simp] theorem State.modTide_regs (s : State) (f : Tide → Tide) : (s.modTide f).regs = s.regs := rfl
@[simp] theorem State.modTide_tide (s : State) (f : Tide → Tide) : (s.modTide f).tide = f s.tide := rfl
@[simp] theorem State.modTide_commit (s : State) (f : Tide → Tide) : (s.modTide f).commit = s.commit := rfl
@[simp] theorem State.modTide_evq (s : State) (f : Tide → Tide) : (s.modTide f).evq = s.evq := rfl
@[simp] theorem State.modTide_evtAt (s : State) (f : Tide → Tide) : (s.modTide f).evtAt = s.evtAt := rfl
@[simp] theorem State.modTide_logq (s : State) (f : Tide → Tide) : (s.modTide f).logq = s.logq := rfl
@[simp] theorem State.modTide_due (s : State) (f : Tide → Tide) : (s.modTide f).due = s.due := rfl
@[simp] theorem State.modTide_engines (s : State) (f : Tide → Tide) : (s.modTide f).engines = s.engines := rfl
@[simp] theorem State.modTide_signals (s : State) (f : Tide → Tide) : (s.modTide f).signals = s.signals := rfl
@[simp] theorem State.modTide_gives (s : State) (f : Tide → Tide) : (s.modTide f).gives = s.gives := rfl
@[simp] theorem State.modTide_heldSignals (s : State) (f : Tide → Tide) : (s.modTide f).heldSignals = s.heldSignals := rfl
@[simp] theorem State.modTide_forced (s : State) (f : Tide → Tide) : (s.modTide f).forced = s.forced := rfl
@[simp] theorem State.modTide_mem (s : State) (f : Tide → Tide) : (s.modTide f).mem = s.mem := rfl
@[simp] theorem State.modTide_ports (s : State) (f : Tide → Tide) : (s.modTide f).ports = s.ports := rfl
@[simp] theorem State.modTide_xpt (s : State) (f : Tide → Tide) : (s.modTide f).xpt = s.xpt := rfl
@[simp] theorem State.modTide_srv (s : State) (f : Tide → Tide) : (s.modTide f).srv = s.srv := rfl
@[simp] theorem State.modTide_pwr (s : State) (f : Tide → Tide) : (s.modTide f).pwr = s.pwr := rfl
@[simp] theorem State.modTide_sec (s : State) (f : Tide → Tide) : (s.modTide f).sec = s.sec := rfl
@[simp] theorem State.modTide_tsMarks (s : State) (f : Tide → Tide) : (s.modTide f).tsMarks = s.tsMarks := rfl
@[simp] theorem State.modTide_tsFull (s : State) (f : Tide → Tide) : (s.modTide f).tsFull = s.tsFull := rfl
@[simp] theorem State.modTide_out (s : State) (f : Tide → Tide) : (s.modTide f).out = s.out := rfl
@[simp] theorem State.modTide_fresh (s : State) (f : Tide → Tide) : (s.modTide f).fresh = s.fresh := rfl

/-! ## modCommit -/

@[simp] theorem State.modCommit_pending (s : State) (f : Commit → Commit) : (s.modCommit f).pending = s.pending := rfl
@[simp] theorem State.modCommit_regs (s : State) (f : Commit → Commit) : (s.modCommit f).regs = s.regs := rfl
@[simp] theorem State.modCommit_tide (s : State) (f : Commit → Commit) : (s.modCommit f).tide = s.tide := rfl
@[simp] theorem State.modCommit_commit (s : State) (f : Commit → Commit) : (s.modCommit f).commit = f s.commit := rfl
@[simp] theorem State.modCommit_evq (s : State) (f : Commit → Commit) : (s.modCommit f).evq = s.evq := rfl
@[simp] theorem State.modCommit_evtAt (s : State) (f : Commit → Commit) : (s.modCommit f).evtAt = s.evtAt := rfl
@[simp] theorem State.modCommit_logq (s : State) (f : Commit → Commit) : (s.modCommit f).logq = s.logq := rfl
@[simp] theorem State.modCommit_due (s : State) (f : Commit → Commit) : (s.modCommit f).due = s.due := rfl
@[simp] theorem State.modCommit_engines (s : State) (f : Commit → Commit) : (s.modCommit f).engines = s.engines := rfl
@[simp] theorem State.modCommit_signals (s : State) (f : Commit → Commit) : (s.modCommit f).signals = s.signals := rfl
@[simp] theorem State.modCommit_gives (s : State) (f : Commit → Commit) : (s.modCommit f).gives = s.gives := rfl
@[simp] theorem State.modCommit_heldSignals (s : State) (f : Commit → Commit) : (s.modCommit f).heldSignals = s.heldSignals := rfl
@[simp] theorem State.modCommit_forced (s : State) (f : Commit → Commit) : (s.modCommit f).forced = s.forced := rfl
@[simp] theorem State.modCommit_mem (s : State) (f : Commit → Commit) : (s.modCommit f).mem = s.mem := rfl
@[simp] theorem State.modCommit_ports (s : State) (f : Commit → Commit) : (s.modCommit f).ports = s.ports := rfl
@[simp] theorem State.modCommit_xpt (s : State) (f : Commit → Commit) : (s.modCommit f).xpt = s.xpt := rfl
@[simp] theorem State.modCommit_srv (s : State) (f : Commit → Commit) : (s.modCommit f).srv = s.srv := rfl
@[simp] theorem State.modCommit_pwr (s : State) (f : Commit → Commit) : (s.modCommit f).pwr = s.pwr := rfl
@[simp] theorem State.modCommit_sec (s : State) (f : Commit → Commit) : (s.modCommit f).sec = s.sec := rfl
@[simp] theorem State.modCommit_tsMarks (s : State) (f : Commit → Commit) : (s.modCommit f).tsMarks = s.tsMarks := rfl
@[simp] theorem State.modCommit_tsFull (s : State) (f : Commit → Commit) : (s.modCommit f).tsFull = s.tsFull := rfl
@[simp] theorem State.modCommit_out (s : State) (f : Commit → Commit) : (s.modCommit f).out = s.out := rfl
@[simp] theorem State.modCommit_fresh (s : State) (f : Commit → Commit) : (s.modCommit f).fresh = s.fresh := rfl

/-! ## modMem -/

@[simp] theorem State.modMem_pending (s : State) (f : Mem → Mem) : (s.modMem f).pending = s.pending := rfl
@[simp] theorem State.modMem_regs (s : State) (f : Mem → Mem) : (s.modMem f).regs = s.regs := rfl
@[simp] theorem State.modMem_tide (s : State) (f : Mem → Mem) : (s.modMem f).tide = s.tide := rfl
@[simp] theorem State.modMem_commit (s : State) (f : Mem → Mem) : (s.modMem f).commit = s.commit := rfl
@[simp] theorem State.modMem_evq (s : State) (f : Mem → Mem) : (s.modMem f).evq = s.evq := rfl
@[simp] theorem State.modMem_evtAt (s : State) (f : Mem → Mem) : (s.modMem f).evtAt = s.evtAt := rfl
@[simp] theorem State.modMem_logq (s : State) (f : Mem → Mem) : (s.modMem f).logq = s.logq := rfl
@[simp] theorem State.modMem_due (s : State) (f : Mem → Mem) : (s.modMem f).due = s.due := rfl
@[simp] theorem State.modMem_engines (s : State) (f : Mem → Mem) : (s.modMem f).engines = s.engines := rfl
@[simp] theorem State.modMem_signals (s : State) (f : Mem → Mem) : (s.modMem f).signals = s.signals := rfl
@[simp] theorem State.modMem_gives (s : State) (f : Mem → Mem) : (s.modMem f).gives = s.gives := rfl
@[simp] theorem State.modMem_heldSignals (s : State) (f : Mem → Mem) : (s.modMem f).heldSignals = s.heldSignals := rfl
@[simp] theorem State.modMem_forced (s : State) (f : Mem → Mem) : (s.modMem f).forced = s.forced := rfl
@[simp] theorem State.modMem_mem (s : State) (f : Mem → Mem) : (s.modMem f).mem = f s.mem := rfl
@[simp] theorem State.modMem_ports (s : State) (f : Mem → Mem) : (s.modMem f).ports = s.ports := rfl
@[simp] theorem State.modMem_xpt (s : State) (f : Mem → Mem) : (s.modMem f).xpt = s.xpt := rfl
@[simp] theorem State.modMem_srv (s : State) (f : Mem → Mem) : (s.modMem f).srv = s.srv := rfl
@[simp] theorem State.modMem_pwr (s : State) (f : Mem → Mem) : (s.modMem f).pwr = s.pwr := rfl
@[simp] theorem State.modMem_sec (s : State) (f : Mem → Mem) : (s.modMem f).sec = s.sec := rfl
@[simp] theorem State.modMem_tsMarks (s : State) (f : Mem → Mem) : (s.modMem f).tsMarks = s.tsMarks := rfl
@[simp] theorem State.modMem_tsFull (s : State) (f : Mem → Mem) : (s.modMem f).tsFull = s.tsFull := rfl
@[simp] theorem State.modMem_out (s : State) (f : Mem → Mem) : (s.modMem f).out = s.out := rfl
@[simp] theorem State.modMem_fresh (s : State) (f : Mem → Mem) : (s.modMem f).fresh = s.fresh := rfl

/-! ## modSrv -/

@[simp] theorem State.modSrv_pending (s : State) (f : Srv → Srv) : (s.modSrv f).pending = s.pending := rfl
@[simp] theorem State.modSrv_regs (s : State) (f : Srv → Srv) : (s.modSrv f).regs = s.regs := rfl
@[simp] theorem State.modSrv_tide (s : State) (f : Srv → Srv) : (s.modSrv f).tide = s.tide := rfl
@[simp] theorem State.modSrv_commit (s : State) (f : Srv → Srv) : (s.modSrv f).commit = s.commit := rfl
@[simp] theorem State.modSrv_evq (s : State) (f : Srv → Srv) : (s.modSrv f).evq = s.evq := rfl
@[simp] theorem State.modSrv_evtAt (s : State) (f : Srv → Srv) : (s.modSrv f).evtAt = s.evtAt := rfl
@[simp] theorem State.modSrv_logq (s : State) (f : Srv → Srv) : (s.modSrv f).logq = s.logq := rfl
@[simp] theorem State.modSrv_due (s : State) (f : Srv → Srv) : (s.modSrv f).due = s.due := rfl
@[simp] theorem State.modSrv_engines (s : State) (f : Srv → Srv) : (s.modSrv f).engines = s.engines := rfl
@[simp] theorem State.modSrv_signals (s : State) (f : Srv → Srv) : (s.modSrv f).signals = s.signals := rfl
@[simp] theorem State.modSrv_gives (s : State) (f : Srv → Srv) : (s.modSrv f).gives = s.gives := rfl
@[simp] theorem State.modSrv_heldSignals (s : State) (f : Srv → Srv) : (s.modSrv f).heldSignals = s.heldSignals := rfl
@[simp] theorem State.modSrv_forced (s : State) (f : Srv → Srv) : (s.modSrv f).forced = s.forced := rfl
@[simp] theorem State.modSrv_mem (s : State) (f : Srv → Srv) : (s.modSrv f).mem = s.mem := rfl
@[simp] theorem State.modSrv_ports (s : State) (f : Srv → Srv) : (s.modSrv f).ports = s.ports := rfl
@[simp] theorem State.modSrv_xpt (s : State) (f : Srv → Srv) : (s.modSrv f).xpt = s.xpt := rfl
@[simp] theorem State.modSrv_srv (s : State) (f : Srv → Srv) : (s.modSrv f).srv = f s.srv := rfl
@[simp] theorem State.modSrv_pwr (s : State) (f : Srv → Srv) : (s.modSrv f).pwr = s.pwr := rfl
@[simp] theorem State.modSrv_sec (s : State) (f : Srv → Srv) : (s.modSrv f).sec = s.sec := rfl
@[simp] theorem State.modSrv_tsMarks (s : State) (f : Srv → Srv) : (s.modSrv f).tsMarks = s.tsMarks := rfl
@[simp] theorem State.modSrv_tsFull (s : State) (f : Srv → Srv) : (s.modSrv f).tsFull = s.tsFull := rfl
@[simp] theorem State.modSrv_out (s : State) (f : Srv → Srv) : (s.modSrv f).out = s.out := rfl
@[simp] theorem State.modSrv_fresh (s : State) (f : Srv → Srv) : (s.modSrv f).fresh = s.fresh := rfl

/-! ## modXpt -/

@[simp] theorem State.modXpt_pending (s : State) (f : Xpt → Xpt) : (s.modXpt f).pending = s.pending := rfl
@[simp] theorem State.modXpt_regs (s : State) (f : Xpt → Xpt) : (s.modXpt f).regs = s.regs := rfl
@[simp] theorem State.modXpt_tide (s : State) (f : Xpt → Xpt) : (s.modXpt f).tide = s.tide := rfl
@[simp] theorem State.modXpt_commit (s : State) (f : Xpt → Xpt) : (s.modXpt f).commit = s.commit := rfl
@[simp] theorem State.modXpt_evq (s : State) (f : Xpt → Xpt) : (s.modXpt f).evq = s.evq := rfl
@[simp] theorem State.modXpt_evtAt (s : State) (f : Xpt → Xpt) : (s.modXpt f).evtAt = s.evtAt := rfl
@[simp] theorem State.modXpt_logq (s : State) (f : Xpt → Xpt) : (s.modXpt f).logq = s.logq := rfl
@[simp] theorem State.modXpt_due (s : State) (f : Xpt → Xpt) : (s.modXpt f).due = s.due := rfl
@[simp] theorem State.modXpt_engines (s : State) (f : Xpt → Xpt) : (s.modXpt f).engines = s.engines := rfl
@[simp] theorem State.modXpt_signals (s : State) (f : Xpt → Xpt) : (s.modXpt f).signals = s.signals := rfl
@[simp] theorem State.modXpt_gives (s : State) (f : Xpt → Xpt) : (s.modXpt f).gives = s.gives := rfl
@[simp] theorem State.modXpt_heldSignals (s : State) (f : Xpt → Xpt) : (s.modXpt f).heldSignals = s.heldSignals := rfl
@[simp] theorem State.modXpt_forced (s : State) (f : Xpt → Xpt) : (s.modXpt f).forced = s.forced := rfl
@[simp] theorem State.modXpt_mem (s : State) (f : Xpt → Xpt) : (s.modXpt f).mem = s.mem := rfl
@[simp] theorem State.modXpt_ports (s : State) (f : Xpt → Xpt) : (s.modXpt f).ports = s.ports := rfl
@[simp] theorem State.modXpt_xpt (s : State) (f : Xpt → Xpt) : (s.modXpt f).xpt = f s.xpt := rfl
@[simp] theorem State.modXpt_srv (s : State) (f : Xpt → Xpt) : (s.modXpt f).srv = s.srv := rfl
@[simp] theorem State.modXpt_pwr (s : State) (f : Xpt → Xpt) : (s.modXpt f).pwr = s.pwr := rfl
@[simp] theorem State.modXpt_sec (s : State) (f : Xpt → Xpt) : (s.modXpt f).sec = s.sec := rfl
@[simp] theorem State.modXpt_tsMarks (s : State) (f : Xpt → Xpt) : (s.modXpt f).tsMarks = s.tsMarks := rfl
@[simp] theorem State.modXpt_tsFull (s : State) (f : Xpt → Xpt) : (s.modXpt f).tsFull = s.tsFull := rfl
@[simp] theorem State.modXpt_out (s : State) (f : Xpt → Xpt) : (s.modXpt f).out = s.out := rfl
@[simp] theorem State.modXpt_fresh (s : State) (f : Xpt → Xpt) : (s.modXpt f).fresh = s.fresh := rfl

/-! ## modPwr -/

@[simp] theorem State.modPwr_pending (s : State) (f : Pwr → Pwr) : (s.modPwr f).pending = s.pending := rfl
@[simp] theorem State.modPwr_regs (s : State) (f : Pwr → Pwr) : (s.modPwr f).regs = s.regs := rfl
@[simp] theorem State.modPwr_tide (s : State) (f : Pwr → Pwr) : (s.modPwr f).tide = s.tide := rfl
@[simp] theorem State.modPwr_commit (s : State) (f : Pwr → Pwr) : (s.modPwr f).commit = s.commit := rfl
@[simp] theorem State.modPwr_evq (s : State) (f : Pwr → Pwr) : (s.modPwr f).evq = s.evq := rfl
@[simp] theorem State.modPwr_evtAt (s : State) (f : Pwr → Pwr) : (s.modPwr f).evtAt = s.evtAt := rfl
@[simp] theorem State.modPwr_logq (s : State) (f : Pwr → Pwr) : (s.modPwr f).logq = s.logq := rfl
@[simp] theorem State.modPwr_due (s : State) (f : Pwr → Pwr) : (s.modPwr f).due = s.due := rfl
@[simp] theorem State.modPwr_engines (s : State) (f : Pwr → Pwr) : (s.modPwr f).engines = s.engines := rfl
@[simp] theorem State.modPwr_signals (s : State) (f : Pwr → Pwr) : (s.modPwr f).signals = s.signals := rfl
@[simp] theorem State.modPwr_gives (s : State) (f : Pwr → Pwr) : (s.modPwr f).gives = s.gives := rfl
@[simp] theorem State.modPwr_heldSignals (s : State) (f : Pwr → Pwr) : (s.modPwr f).heldSignals = s.heldSignals := rfl
@[simp] theorem State.modPwr_forced (s : State) (f : Pwr → Pwr) : (s.modPwr f).forced = s.forced := rfl
@[simp] theorem State.modPwr_mem (s : State) (f : Pwr → Pwr) : (s.modPwr f).mem = s.mem := rfl
@[simp] theorem State.modPwr_ports (s : State) (f : Pwr → Pwr) : (s.modPwr f).ports = s.ports := rfl
@[simp] theorem State.modPwr_xpt (s : State) (f : Pwr → Pwr) : (s.modPwr f).xpt = s.xpt := rfl
@[simp] theorem State.modPwr_srv (s : State) (f : Pwr → Pwr) : (s.modPwr f).srv = s.srv := rfl
@[simp] theorem State.modPwr_pwr (s : State) (f : Pwr → Pwr) : (s.modPwr f).pwr = f s.pwr := rfl
@[simp] theorem State.modPwr_sec (s : State) (f : Pwr → Pwr) : (s.modPwr f).sec = s.sec := rfl
@[simp] theorem State.modPwr_tsMarks (s : State) (f : Pwr → Pwr) : (s.modPwr f).tsMarks = s.tsMarks := rfl
@[simp] theorem State.modPwr_tsFull (s : State) (f : Pwr → Pwr) : (s.modPwr f).tsFull = s.tsFull := rfl
@[simp] theorem State.modPwr_out (s : State) (f : Pwr → Pwr) : (s.modPwr f).out = s.out := rfl
@[simp] theorem State.modPwr_fresh (s : State) (f : Pwr → Pwr) : (s.modPwr f).fresh = s.fresh := rfl

/-! ## modSec -/

@[simp] theorem State.modSec_pending (s : State) (f : Sec → Sec) : (s.modSec f).pending = s.pending := rfl
@[simp] theorem State.modSec_regs (s : State) (f : Sec → Sec) : (s.modSec f).regs = s.regs := rfl
@[simp] theorem State.modSec_tide (s : State) (f : Sec → Sec) : (s.modSec f).tide = s.tide := rfl
@[simp] theorem State.modSec_commit (s : State) (f : Sec → Sec) : (s.modSec f).commit = s.commit := rfl
@[simp] theorem State.modSec_evq (s : State) (f : Sec → Sec) : (s.modSec f).evq = s.evq := rfl
@[simp] theorem State.modSec_evtAt (s : State) (f : Sec → Sec) : (s.modSec f).evtAt = s.evtAt := rfl
@[simp] theorem State.modSec_logq (s : State) (f : Sec → Sec) : (s.modSec f).logq = s.logq := rfl
@[simp] theorem State.modSec_due (s : State) (f : Sec → Sec) : (s.modSec f).due = s.due := rfl
@[simp] theorem State.modSec_engines (s : State) (f : Sec → Sec) : (s.modSec f).engines = s.engines := rfl
@[simp] theorem State.modSec_signals (s : State) (f : Sec → Sec) : (s.modSec f).signals = s.signals := rfl
@[simp] theorem State.modSec_gives (s : State) (f : Sec → Sec) : (s.modSec f).gives = s.gives := rfl
@[simp] theorem State.modSec_heldSignals (s : State) (f : Sec → Sec) : (s.modSec f).heldSignals = s.heldSignals := rfl
@[simp] theorem State.modSec_forced (s : State) (f : Sec → Sec) : (s.modSec f).forced = s.forced := rfl
@[simp] theorem State.modSec_mem (s : State) (f : Sec → Sec) : (s.modSec f).mem = s.mem := rfl
@[simp] theorem State.modSec_ports (s : State) (f : Sec → Sec) : (s.modSec f).ports = s.ports := rfl
@[simp] theorem State.modSec_xpt (s : State) (f : Sec → Sec) : (s.modSec f).xpt = s.xpt := rfl
@[simp] theorem State.modSec_srv (s : State) (f : Sec → Sec) : (s.modSec f).srv = s.srv := rfl
@[simp] theorem State.modSec_pwr (s : State) (f : Sec → Sec) : (s.modSec f).pwr = s.pwr := rfl
@[simp] theorem State.modSec_sec (s : State) (f : Sec → Sec) : (s.modSec f).sec = f s.sec := rfl
@[simp] theorem State.modSec_tsMarks (s : State) (f : Sec → Sec) : (s.modSec f).tsMarks = s.tsMarks := rfl
@[simp] theorem State.modSec_tsFull (s : State) (f : Sec → Sec) : (s.modSec f).tsFull = s.tsFull := rfl
@[simp] theorem State.modSec_out (s : State) (f : Sec → Sec) : (s.modSec f).out = s.out := rfl
@[simp] theorem State.modSec_fresh (s : State) (f : Sec → Sec) : (s.modSec f).fresh = s.fresh := rfl

/-! ## drawn -/

@[simp] theorem State.drawn_pending (s : State) : (s.drawn).pending = s.pending := rfl
@[simp] theorem State.drawn_regs (s : State) : (s.drawn).regs = s.regs := rfl
@[simp] theorem State.drawn_tide (s : State) : (s.drawn).tide = s.tide := rfl
@[simp] theorem State.drawn_commit (s : State) : (s.drawn).commit = s.commit := rfl
@[simp] theorem State.drawn_evq (s : State) : (s.drawn).evq = s.evq := rfl
@[simp] theorem State.drawn_evtAt (s : State) : (s.drawn).evtAt = s.evtAt := rfl
@[simp] theorem State.drawn_logq (s : State) : (s.drawn).logq = s.logq := rfl
@[simp] theorem State.drawn_due (s : State) : (s.drawn).due = s.due := rfl
@[simp] theorem State.drawn_engines (s : State) : (s.drawn).engines = s.engines := rfl
@[simp] theorem State.drawn_signals (s : State) : (s.drawn).signals = s.signals := rfl
@[simp] theorem State.drawn_gives (s : State) : (s.drawn).gives = s.gives := rfl
@[simp] theorem State.drawn_heldSignals (s : State) : (s.drawn).heldSignals = s.heldSignals := rfl
@[simp] theorem State.drawn_forced (s : State) : (s.drawn).forced = s.forced := rfl
@[simp] theorem State.drawn_mem (s : State) : (s.drawn).mem = s.mem := rfl
@[simp] theorem State.drawn_ports (s : State) : (s.drawn).ports = s.ports := rfl
@[simp] theorem State.drawn_xpt (s : State) : (s.drawn).xpt = s.xpt := rfl
@[simp] theorem State.drawn_srv (s : State) : (s.drawn).srv = s.srv := rfl
@[simp] theorem State.drawn_pwr (s : State) : (s.drawn).pwr = s.pwr := rfl
@[simp] theorem State.drawn_sec (s : State) : (s.drawn).sec = s.sec := rfl
@[simp] theorem State.drawn_tsMarks (s : State) : (s.drawn).tsMarks = s.tsMarks := rfl
@[simp] theorem State.drawn_tsFull (s : State) : (s.drawn).tsFull = s.tsFull := rfl
@[simp] theorem State.drawn_out (s : State) : (s.drawn).out = s.out := rfl
@[simp] theorem State.drawn_fresh (s : State) : (s.drawn).fresh = s.fresh + 1 := rfl

/-! ## drawnN -/

@[simp] theorem State.drawnN_pending (s : State) (n : Nat) : (s.drawnN n).pending = s.pending := rfl
@[simp] theorem State.drawnN_regs (s : State) (n : Nat) : (s.drawnN n).regs = s.regs := rfl
@[simp] theorem State.drawnN_tide (s : State) (n : Nat) : (s.drawnN n).tide = s.tide := rfl
@[simp] theorem State.drawnN_commit (s : State) (n : Nat) : (s.drawnN n).commit = s.commit := rfl
@[simp] theorem State.drawnN_evq (s : State) (n : Nat) : (s.drawnN n).evq = s.evq := rfl
@[simp] theorem State.drawnN_evtAt (s : State) (n : Nat) : (s.drawnN n).evtAt = s.evtAt := rfl
@[simp] theorem State.drawnN_logq (s : State) (n : Nat) : (s.drawnN n).logq = s.logq := rfl
@[simp] theorem State.drawnN_due (s : State) (n : Nat) : (s.drawnN n).due = s.due := rfl
@[simp] theorem State.drawnN_engines (s : State) (n : Nat) : (s.drawnN n).engines = s.engines := rfl
@[simp] theorem State.drawnN_signals (s : State) (n : Nat) : (s.drawnN n).signals = s.signals := rfl
@[simp] theorem State.drawnN_gives (s : State) (n : Nat) : (s.drawnN n).gives = s.gives := rfl
@[simp] theorem State.drawnN_heldSignals (s : State) (n : Nat) : (s.drawnN n).heldSignals = s.heldSignals := rfl
@[simp] theorem State.drawnN_forced (s : State) (n : Nat) : (s.drawnN n).forced = s.forced := rfl
@[simp] theorem State.drawnN_mem (s : State) (n : Nat) : (s.drawnN n).mem = s.mem := rfl
@[simp] theorem State.drawnN_ports (s : State) (n : Nat) : (s.drawnN n).ports = s.ports := rfl
@[simp] theorem State.drawnN_xpt (s : State) (n : Nat) : (s.drawnN n).xpt = s.xpt := rfl
@[simp] theorem State.drawnN_srv (s : State) (n : Nat) : (s.drawnN n).srv = s.srv := rfl
@[simp] theorem State.drawnN_pwr (s : State) (n : Nat) : (s.drawnN n).pwr = s.pwr := rfl
@[simp] theorem State.drawnN_sec (s : State) (n : Nat) : (s.drawnN n).sec = s.sec := rfl
@[simp] theorem State.drawnN_tsMarks (s : State) (n : Nat) : (s.drawnN n).tsMarks = s.tsMarks := rfl
@[simp] theorem State.drawnN_tsFull (s : State) (n : Nat) : (s.drawnN n).tsFull = s.tsFull := rfl
@[simp] theorem State.drawnN_out (s : State) (n : Nat) : (s.drawnN n).out = s.out := rfl
@[simp] theorem State.drawnN_fresh (s : State) (n : Nat) : (s.drawnN n).fresh = s.fresh + n := rfl

/-! ## emit -/

@[simp] theorem State.emit_pending (s : State) (o : Out) : (s.emit o).pending = s.pending := rfl
@[simp] theorem State.emit_regs (s : State) (o : Out) : (s.emit o).regs = s.regs := rfl
@[simp] theorem State.emit_tide (s : State) (o : Out) : (s.emit o).tide = s.tide := rfl
@[simp] theorem State.emit_commit (s : State) (o : Out) : (s.emit o).commit = s.commit := rfl
@[simp] theorem State.emit_evq (s : State) (o : Out) : (s.emit o).evq = s.evq := rfl
@[simp] theorem State.emit_evtAt (s : State) (o : Out) : (s.emit o).evtAt = s.evtAt := rfl
@[simp] theorem State.emit_logq (s : State) (o : Out) : (s.emit o).logq = s.logq := rfl
@[simp] theorem State.emit_due (s : State) (o : Out) : (s.emit o).due = s.due := rfl
@[simp] theorem State.emit_engines (s : State) (o : Out) : (s.emit o).engines = s.engines := rfl
@[simp] theorem State.emit_signals (s : State) (o : Out) : (s.emit o).signals = s.signals := rfl
@[simp] theorem State.emit_gives (s : State) (o : Out) : (s.emit o).gives = s.gives := rfl
@[simp] theorem State.emit_heldSignals (s : State) (o : Out) : (s.emit o).heldSignals = s.heldSignals := rfl
@[simp] theorem State.emit_forced (s : State) (o : Out) : (s.emit o).forced = s.forced := rfl
@[simp] theorem State.emit_mem (s : State) (o : Out) : (s.emit o).mem = s.mem := rfl
@[simp] theorem State.emit_ports (s : State) (o : Out) : (s.emit o).ports = s.ports := rfl
@[simp] theorem State.emit_xpt (s : State) (o : Out) : (s.emit o).xpt = s.xpt := rfl
@[simp] theorem State.emit_srv (s : State) (o : Out) : (s.emit o).srv = s.srv := rfl
@[simp] theorem State.emit_pwr (s : State) (o : Out) : (s.emit o).pwr = s.pwr := rfl
@[simp] theorem State.emit_sec (s : State) (o : Out) : (s.emit o).sec = s.sec := rfl
@[simp] theorem State.emit_tsMarks (s : State) (o : Out) : (s.emit o).tsMarks = s.tsMarks := rfl
@[simp] theorem State.emit_tsFull (s : State) (o : Out) : (s.emit o).tsFull = s.tsFull := rfl
@[simp] theorem State.emit_out (s : State) (o : Out) : (s.emit o).out = o :: s.out := rfl
@[simp] theorem State.emit_fresh (s : State) (o : Out) : (s.emit o).fresh = s.fresh := rfl

/-! ## wf -/

@[simp] theorem State.wf_pending (s : State) (off lo len x : Nat) : (s.wf off lo len x).pending = s.pending := rfl
@[simp] theorem State.wf_tide (s : State) (off lo len x : Nat) : (s.wf off lo len x).tide = s.tide := rfl
@[simp] theorem State.wf_commit (s : State) (off lo len x : Nat) : (s.wf off lo len x).commit = s.commit := rfl
@[simp] theorem State.wf_evq (s : State) (off lo len x : Nat) : (s.wf off lo len x).evq = s.evq := rfl
@[simp] theorem State.wf_evtAt (s : State) (off lo len x : Nat) : (s.wf off lo len x).evtAt = s.evtAt := rfl
@[simp] theorem State.wf_logq (s : State) (off lo len x : Nat) : (s.wf off lo len x).logq = s.logq := rfl
@[simp] theorem State.wf_due (s : State) (off lo len x : Nat) : (s.wf off lo len x).due = s.due := rfl
@[simp] theorem State.wf_engines (s : State) (off lo len x : Nat) : (s.wf off lo len x).engines = s.engines := rfl
@[simp] theorem State.wf_signals (s : State) (off lo len x : Nat) : (s.wf off lo len x).signals = s.signals := rfl
@[simp] theorem State.wf_gives (s : State) (off lo len x : Nat) : (s.wf off lo len x).gives = s.gives := rfl
@[simp] theorem State.wf_heldSignals (s : State) (off lo len x : Nat) : (s.wf off lo len x).heldSignals = s.heldSignals := rfl
@[simp] theorem State.wf_forced (s : State) (off lo len x : Nat) : (s.wf off lo len x).forced = s.forced := rfl
@[simp] theorem State.wf_mem (s : State) (off lo len x : Nat) : (s.wf off lo len x).mem = s.mem := rfl
@[simp] theorem State.wf_ports (s : State) (off lo len x : Nat) : (s.wf off lo len x).ports = s.ports := rfl
@[simp] theorem State.wf_xpt (s : State) (off lo len x : Nat) : (s.wf off lo len x).xpt = s.xpt := rfl
@[simp] theorem State.wf_srv (s : State) (off lo len x : Nat) : (s.wf off lo len x).srv = s.srv := rfl
@[simp] theorem State.wf_pwr (s : State) (off lo len x : Nat) : (s.wf off lo len x).pwr = s.pwr := rfl
@[simp] theorem State.wf_sec (s : State) (off lo len x : Nat) : (s.wf off lo len x).sec = s.sec := rfl
@[simp] theorem State.wf_tsMarks (s : State) (off lo len x : Nat) : (s.wf off lo len x).tsMarks = s.tsMarks := rfl
@[simp] theorem State.wf_tsFull (s : State) (off lo len x : Nat) : (s.wf off lo len x).tsFull = s.tsFull := rfl
@[simp] theorem State.wf_out (s : State) (off lo len x : Nat) : (s.wf off lo len x).out = s.out := rfl
@[simp] theorem State.wf_fresh (s : State) (off lo len x : Nat) : (s.wf off lo len x).fresh = s.fresh := rfl

/-! ## wb -/

@[simp] theorem State.wb_pending (s : State) (off lo : Nat) (b : Bool) : (s.wb off lo b).pending = s.pending := rfl
@[simp] theorem State.wb_tide (s : State) (off lo : Nat) (b : Bool) : (s.wb off lo b).tide = s.tide := rfl
@[simp] theorem State.wb_commit (s : State) (off lo : Nat) (b : Bool) : (s.wb off lo b).commit = s.commit := rfl
@[simp] theorem State.wb_evq (s : State) (off lo : Nat) (b : Bool) : (s.wb off lo b).evq = s.evq := rfl
@[simp] theorem State.wb_evtAt (s : State) (off lo : Nat) (b : Bool) : (s.wb off lo b).evtAt = s.evtAt := rfl
@[simp] theorem State.wb_logq (s : State) (off lo : Nat) (b : Bool) : (s.wb off lo b).logq = s.logq := rfl
@[simp] theorem State.wb_due (s : State) (off lo : Nat) (b : Bool) : (s.wb off lo b).due = s.due := rfl
@[simp] theorem State.wb_engines (s : State) (off lo : Nat) (b : Bool) : (s.wb off lo b).engines = s.engines := rfl
@[simp] theorem State.wb_signals (s : State) (off lo : Nat) (b : Bool) : (s.wb off lo b).signals = s.signals := rfl
@[simp] theorem State.wb_gives (s : State) (off lo : Nat) (b : Bool) : (s.wb off lo b).gives = s.gives := rfl
@[simp] theorem State.wb_heldSignals (s : State) (off lo : Nat) (b : Bool) : (s.wb off lo b).heldSignals = s.heldSignals := rfl
@[simp] theorem State.wb_forced (s : State) (off lo : Nat) (b : Bool) : (s.wb off lo b).forced = s.forced := rfl
@[simp] theorem State.wb_mem (s : State) (off lo : Nat) (b : Bool) : (s.wb off lo b).mem = s.mem := rfl
@[simp] theorem State.wb_ports (s : State) (off lo : Nat) (b : Bool) : (s.wb off lo b).ports = s.ports := rfl
@[simp] theorem State.wb_xpt (s : State) (off lo : Nat) (b : Bool) : (s.wb off lo b).xpt = s.xpt := rfl
@[simp] theorem State.wb_srv (s : State) (off lo : Nat) (b : Bool) : (s.wb off lo b).srv = s.srv := rfl
@[simp] theorem State.wb_pwr (s : State) (off lo : Nat) (b : Bool) : (s.wb off lo b).pwr = s.pwr := rfl
@[simp] theorem State.wb_sec (s : State) (off lo : Nat) (b : Bool) : (s.wb off lo b).sec = s.sec := rfl
@[simp] theorem State.wb_tsMarks (s : State) (off lo : Nat) (b : Bool) : (s.wb off lo b).tsMarks = s.tsMarks := rfl
@[simp] theorem State.wb_tsFull (s : State) (off lo : Nat) (b : Bool) : (s.wb off lo b).tsFull = s.tsFull := rfl
@[simp] theorem State.wb_out (s : State) (off lo : Nat) (b : Bool) : (s.wb off lo b).out = s.out := rfl
@[simp] theorem State.wb_fresh (s : State) (off lo : Nat) (b : Bool) : (s.wb off lo b).fresh = s.fresh := rfl

/-! ## w64 -/

@[simp] theorem State.w64_pending (s : State) (off : Nat) (v : Dword) : (s.w64 off v).pending = s.pending := rfl
@[simp] theorem State.w64_tide (s : State) (off : Nat) (v : Dword) : (s.w64 off v).tide = s.tide := rfl
@[simp] theorem State.w64_commit (s : State) (off : Nat) (v : Dword) : (s.w64 off v).commit = s.commit := rfl
@[simp] theorem State.w64_evq (s : State) (off : Nat) (v : Dword) : (s.w64 off v).evq = s.evq := rfl
@[simp] theorem State.w64_evtAt (s : State) (off : Nat) (v : Dword) : (s.w64 off v).evtAt = s.evtAt := rfl
@[simp] theorem State.w64_logq (s : State) (off : Nat) (v : Dword) : (s.w64 off v).logq = s.logq := rfl
@[simp] theorem State.w64_due (s : State) (off : Nat) (v : Dword) : (s.w64 off v).due = s.due := rfl
@[simp] theorem State.w64_engines (s : State) (off : Nat) (v : Dword) : (s.w64 off v).engines = s.engines := rfl
@[simp] theorem State.w64_signals (s : State) (off : Nat) (v : Dword) : (s.w64 off v).signals = s.signals := rfl
@[simp] theorem State.w64_gives (s : State) (off : Nat) (v : Dword) : (s.w64 off v).gives = s.gives := rfl
@[simp] theorem State.w64_heldSignals (s : State) (off : Nat) (v : Dword) : (s.w64 off v).heldSignals = s.heldSignals := rfl
@[simp] theorem State.w64_forced (s : State) (off : Nat) (v : Dword) : (s.w64 off v).forced = s.forced := rfl
@[simp] theorem State.w64_mem (s : State) (off : Nat) (v : Dword) : (s.w64 off v).mem = s.mem := rfl
@[simp] theorem State.w64_ports (s : State) (off : Nat) (v : Dword) : (s.w64 off v).ports = s.ports := rfl
@[simp] theorem State.w64_xpt (s : State) (off : Nat) (v : Dword) : (s.w64 off v).xpt = s.xpt := rfl
@[simp] theorem State.w64_srv (s : State) (off : Nat) (v : Dword) : (s.w64 off v).srv = s.srv := rfl
@[simp] theorem State.w64_pwr (s : State) (off : Nat) (v : Dword) : (s.w64 off v).pwr = s.pwr := rfl
@[simp] theorem State.w64_sec (s : State) (off : Nat) (v : Dword) : (s.w64 off v).sec = s.sec := rfl
@[simp] theorem State.w64_tsMarks (s : State) (off : Nat) (v : Dword) : (s.w64 off v).tsMarks = s.tsMarks := rfl
@[simp] theorem State.w64_tsFull (s : State) (off : Nat) (v : Dword) : (s.w64 off v).tsFull = s.tsFull := rfl
@[simp] theorem State.w64_out (s : State) (off : Nat) (v : Dword) : (s.w64 off v).out = s.out := rfl
@[simp] theorem State.w64_fresh (s : State) (off : Nat) (v : Dword) : (s.w64 off v).fresh = s.fresh := rfl

/-! ## orReg -/

@[simp] theorem State.orReg_pending (s : State) (off : Nat) (v : Word) : (s.orReg off v).pending = s.pending := rfl
@[simp] theorem State.orReg_tide (s : State) (off : Nat) (v : Word) : (s.orReg off v).tide = s.tide := rfl
@[simp] theorem State.orReg_commit (s : State) (off : Nat) (v : Word) : (s.orReg off v).commit = s.commit := rfl
@[simp] theorem State.orReg_evq (s : State) (off : Nat) (v : Word) : (s.orReg off v).evq = s.evq := rfl
@[simp] theorem State.orReg_evtAt (s : State) (off : Nat) (v : Word) : (s.orReg off v).evtAt = s.evtAt := rfl
@[simp] theorem State.orReg_logq (s : State) (off : Nat) (v : Word) : (s.orReg off v).logq = s.logq := rfl
@[simp] theorem State.orReg_due (s : State) (off : Nat) (v : Word) : (s.orReg off v).due = s.due := rfl
@[simp] theorem State.orReg_engines (s : State) (off : Nat) (v : Word) : (s.orReg off v).engines = s.engines := rfl
@[simp] theorem State.orReg_signals (s : State) (off : Nat) (v : Word) : (s.orReg off v).signals = s.signals := rfl
@[simp] theorem State.orReg_gives (s : State) (off : Nat) (v : Word) : (s.orReg off v).gives = s.gives := rfl
@[simp] theorem State.orReg_heldSignals (s : State) (off : Nat) (v : Word) : (s.orReg off v).heldSignals = s.heldSignals := rfl
@[simp] theorem State.orReg_forced (s : State) (off : Nat) (v : Word) : (s.orReg off v).forced = s.forced := rfl
@[simp] theorem State.orReg_mem (s : State) (off : Nat) (v : Word) : (s.orReg off v).mem = s.mem := rfl
@[simp] theorem State.orReg_ports (s : State) (off : Nat) (v : Word) : (s.orReg off v).ports = s.ports := rfl
@[simp] theorem State.orReg_xpt (s : State) (off : Nat) (v : Word) : (s.orReg off v).xpt = s.xpt := rfl
@[simp] theorem State.orReg_srv (s : State) (off : Nat) (v : Word) : (s.orReg off v).srv = s.srv := rfl
@[simp] theorem State.orReg_pwr (s : State) (off : Nat) (v : Word) : (s.orReg off v).pwr = s.pwr := rfl
@[simp] theorem State.orReg_sec (s : State) (off : Nat) (v : Word) : (s.orReg off v).sec = s.sec := rfl
@[simp] theorem State.orReg_tsMarks (s : State) (off : Nat) (v : Word) : (s.orReg off v).tsMarks = s.tsMarks := rfl
@[simp] theorem State.orReg_tsFull (s : State) (off : Nat) (v : Word) : (s.orReg off v).tsFull = s.tsFull := rfl
@[simp] theorem State.orReg_out (s : State) (off : Nat) (v : Word) : (s.orReg off v).out = s.out := rfl
@[simp] theorem State.orReg_fresh (s : State) (off : Nat) (v : Word) : (s.orReg off v).fresh = s.fresh := rfl

/-! ## raiseIf -/

@[simp] theorem State.raiseIf_pending (s : State) (c : Bool) (pn bit cls src : Nat) : (s.raiseIf c pn bit cls src).pending = s.pending := by cases c <;> rfl
@[simp] theorem State.raiseIf_regs (s : State) (c : Bool) (pn bit cls src : Nat) : (s.raiseIf c pn bit cls src).regs = s.regs := by cases c <;> rfl
@[simp] theorem State.raiseIf_tide (s : State) (c : Bool) (pn bit cls src : Nat) : (s.raiseIf c pn bit cls src).tide = s.tide := by cases c <;> rfl
@[simp] theorem State.raiseIf_commit (s : State) (c : Bool) (pn bit cls src : Nat) : (s.raiseIf c pn bit cls src).commit = s.commit := by cases c <;> rfl
@[simp] theorem State.raiseIf_evtAt (s : State) (c : Bool) (pn bit cls src : Nat) : (s.raiseIf c pn bit cls src).evtAt = s.evtAt := by cases c <;> rfl
@[simp] theorem State.raiseIf_logq (s : State) (c : Bool) (pn bit cls src : Nat) : (s.raiseIf c pn bit cls src).logq = s.logq := by cases c <;> rfl
@[simp] theorem State.raiseIf_due (s : State) (c : Bool) (pn bit cls src : Nat) : (s.raiseIf c pn bit cls src).due = s.due := by cases c <;> rfl
@[simp] theorem State.raiseIf_engines (s : State) (c : Bool) (pn bit cls src : Nat) : (s.raiseIf c pn bit cls src).engines = s.engines := by cases c <;> rfl
@[simp] theorem State.raiseIf_signals (s : State) (c : Bool) (pn bit cls src : Nat) : (s.raiseIf c pn bit cls src).signals = s.signals := by cases c <;> rfl
@[simp] theorem State.raiseIf_gives (s : State) (c : Bool) (pn bit cls src : Nat) : (s.raiseIf c pn bit cls src).gives = s.gives := by cases c <;> rfl
@[simp] theorem State.raiseIf_heldSignals (s : State) (c : Bool) (pn bit cls src : Nat) : (s.raiseIf c pn bit cls src).heldSignals = s.heldSignals := by cases c <;> rfl
@[simp] theorem State.raiseIf_forced (s : State) (c : Bool) (pn bit cls src : Nat) : (s.raiseIf c pn bit cls src).forced = s.forced := by cases c <;> rfl
@[simp] theorem State.raiseIf_mem (s : State) (c : Bool) (pn bit cls src : Nat) : (s.raiseIf c pn bit cls src).mem = s.mem := by cases c <;> rfl
@[simp] theorem State.raiseIf_ports (s : State) (c : Bool) (pn bit cls src : Nat) : (s.raiseIf c pn bit cls src).ports = s.ports := by cases c <;> rfl
@[simp] theorem State.raiseIf_xpt (s : State) (c : Bool) (pn bit cls src : Nat) : (s.raiseIf c pn bit cls src).xpt = s.xpt := by cases c <;> rfl
@[simp] theorem State.raiseIf_srv (s : State) (c : Bool) (pn bit cls src : Nat) : (s.raiseIf c pn bit cls src).srv = s.srv := by cases c <;> rfl
@[simp] theorem State.raiseIf_pwr (s : State) (c : Bool) (pn bit cls src : Nat) : (s.raiseIf c pn bit cls src).pwr = s.pwr := by cases c <;> rfl
@[simp] theorem State.raiseIf_sec (s : State) (c : Bool) (pn bit cls src : Nat) : (s.raiseIf c pn bit cls src).sec = s.sec := by cases c <;> rfl
@[simp] theorem State.raiseIf_tsMarks (s : State) (c : Bool) (pn bit cls src : Nat) : (s.raiseIf c pn bit cls src).tsMarks = s.tsMarks := by cases c <;> rfl
@[simp] theorem State.raiseIf_tsFull (s : State) (c : Bool) (pn bit cls src : Nat) : (s.raiseIf c pn bit cls src).tsFull = s.tsFull := by cases c <;> rfl
@[simp] theorem State.raiseIf_out (s : State) (c : Bool) (pn bit cls src : Nat) : (s.raiseIf c pn bit cls src).out = s.out := by cases c <;> rfl
@[simp] theorem State.raiseIf_fresh (s : State) (c : Bool) (pn bit cls src : Nat) : (s.raiseIf c pn bit cls src).fresh = s.fresh := by cases c <;> rfl

/-! ## sample -/

@[simp] theorem State.sample_pending (s : State) (pn bit : Nat) : (s.sample pn bit).pending = s.pending := by unfold State.sample; split <;> rfl
@[simp] theorem State.sample_tide (s : State) (pn bit : Nat) : (s.sample pn bit).tide = s.tide := by unfold State.sample; split <;> rfl
@[simp] theorem State.sample_commit (s : State) (pn bit : Nat) : (s.sample pn bit).commit = s.commit := by unfold State.sample; split <;> rfl
@[simp] theorem State.sample_evq (s : State) (pn bit : Nat) : (s.sample pn bit).evq = s.evq := by unfold State.sample; split <;> rfl
@[simp] theorem State.sample_logq (s : State) (pn bit : Nat) : (s.sample pn bit).logq = s.logq := by unfold State.sample; split <;> rfl
@[simp] theorem State.sample_due (s : State) (pn bit : Nat) : (s.sample pn bit).due = s.due := by unfold State.sample; split <;> rfl
@[simp] theorem State.sample_engines (s : State) (pn bit : Nat) : (s.sample pn bit).engines = s.engines := by unfold State.sample; split <;> rfl
@[simp] theorem State.sample_signals (s : State) (pn bit : Nat) : (s.sample pn bit).signals = s.signals := by unfold State.sample; split <;> rfl
@[simp] theorem State.sample_gives (s : State) (pn bit : Nat) : (s.sample pn bit).gives = s.gives := by unfold State.sample; split <;> rfl
@[simp] theorem State.sample_heldSignals (s : State) (pn bit : Nat) : (s.sample pn bit).heldSignals = s.heldSignals := by unfold State.sample; split <;> rfl
@[simp] theorem State.sample_forced (s : State) (pn bit : Nat) : (s.sample pn bit).forced = s.forced := by unfold State.sample; split <;> rfl
@[simp] theorem State.sample_mem (s : State) (pn bit : Nat) : (s.sample pn bit).mem = s.mem := by unfold State.sample; split <;> rfl
@[simp] theorem State.sample_ports (s : State) (pn bit : Nat) : (s.sample pn bit).ports = s.ports := by unfold State.sample; split <;> rfl
@[simp] theorem State.sample_xpt (s : State) (pn bit : Nat) : (s.sample pn bit).xpt = s.xpt := by unfold State.sample; split <;> rfl
@[simp] theorem State.sample_srv (s : State) (pn bit : Nat) : (s.sample pn bit).srv = s.srv := by unfold State.sample; split <;> rfl
@[simp] theorem State.sample_pwr (s : State) (pn bit : Nat) : (s.sample pn bit).pwr = s.pwr := by unfold State.sample; split <;> rfl
@[simp] theorem State.sample_sec (s : State) (pn bit : Nat) : (s.sample pn bit).sec = s.sec := by unfold State.sample; split <;> rfl
@[simp] theorem State.sample_tsMarks (s : State) (pn bit : Nat) : (s.sample pn bit).tsMarks = s.tsMarks := by unfold State.sample; split <;> rfl
@[simp] theorem State.sample_tsFull (s : State) (pn bit : Nat) : (s.sample pn bit).tsFull = s.tsFull := by unfold State.sample; split <;> rfl
@[simp] theorem State.sample_out (s : State) (pn bit : Nat) : (s.sample pn bit).out = s.out := by unfold State.sample; split <;> rfl
@[simp] theorem State.sample_fresh (s : State) (pn bit : Nat) : (s.sample pn bit).fresh = s.fresh := by unfold State.sample; split <;> rfl

/-! ## count -/

@[simp] theorem State.count_pending (s : State) (off n : Nat) : (s.count off n).pending = s.pending := by unfold State.count; simp only [State.raiseIf_pending, State.w64_pending]
@[simp] theorem State.count_tide (s : State) (off n : Nat) : (s.count off n).tide = s.tide := by unfold State.count; simp only [State.raiseIf_tide, State.w64_tide]
@[simp] theorem State.count_commit (s : State) (off n : Nat) : (s.count off n).commit = s.commit := by unfold State.count; simp only [State.raiseIf_commit, State.w64_commit]
@[simp] theorem State.count_evtAt (s : State) (off n : Nat) : (s.count off n).evtAt = s.evtAt := by unfold State.count; simp only [State.raiseIf_evtAt, State.w64_evtAt]
@[simp] theorem State.count_logq (s : State) (off n : Nat) : (s.count off n).logq = s.logq := by unfold State.count; simp only [State.raiseIf_logq, State.w64_logq]
@[simp] theorem State.count_due (s : State) (off n : Nat) : (s.count off n).due = s.due := by unfold State.count; simp only [State.raiseIf_due, State.w64_due]
@[simp] theorem State.count_engines (s : State) (off n : Nat) : (s.count off n).engines = s.engines := by unfold State.count; simp only [State.raiseIf_engines, State.w64_engines]
@[simp] theorem State.count_signals (s : State) (off n : Nat) : (s.count off n).signals = s.signals := by unfold State.count; simp only [State.raiseIf_signals, State.w64_signals]
@[simp] theorem State.count_gives (s : State) (off n : Nat) : (s.count off n).gives = s.gives := by unfold State.count; simp only [State.raiseIf_gives, State.w64_gives]
@[simp] theorem State.count_heldSignals (s : State) (off n : Nat) : (s.count off n).heldSignals = s.heldSignals := by unfold State.count; simp only [State.raiseIf_heldSignals, State.w64_heldSignals]
@[simp] theorem State.count_forced (s : State) (off n : Nat) : (s.count off n).forced = s.forced := by unfold State.count; simp only [State.raiseIf_forced, State.w64_forced]
@[simp] theorem State.count_mem (s : State) (off n : Nat) : (s.count off n).mem = s.mem := by unfold State.count; simp only [State.raiseIf_mem, State.w64_mem]
@[simp] theorem State.count_ports (s : State) (off n : Nat) : (s.count off n).ports = s.ports := by unfold State.count; simp only [State.raiseIf_ports, State.w64_ports]
@[simp] theorem State.count_xpt (s : State) (off n : Nat) : (s.count off n).xpt = s.xpt := by unfold State.count; simp only [State.raiseIf_xpt, State.w64_xpt]
@[simp] theorem State.count_srv (s : State) (off n : Nat) : (s.count off n).srv = s.srv := by unfold State.count; simp only [State.raiseIf_srv, State.w64_srv]
@[simp] theorem State.count_pwr (s : State) (off n : Nat) : (s.count off n).pwr = s.pwr := by unfold State.count; simp only [State.raiseIf_pwr, State.w64_pwr]
@[simp] theorem State.count_sec (s : State) (off n : Nat) : (s.count off n).sec = s.sec := by unfold State.count; simp only [State.raiseIf_sec, State.w64_sec]
@[simp] theorem State.count_tsMarks (s : State) (off n : Nat) : (s.count off n).tsMarks = s.tsMarks := by unfold State.count; simp only [State.raiseIf_tsMarks, State.w64_tsMarks]
@[simp] theorem State.count_tsFull (s : State) (off n : Nat) : (s.count off n).tsFull = s.tsFull := by unfold State.count; simp only [State.raiseIf_tsFull, State.w64_tsFull]
@[simp] theorem State.count_out (s : State) (off n : Nat) : (s.count off n).out = s.out := by unfold State.count; simp only [State.raiseIf_out, State.w64_out]
@[simp] theorem State.count_fresh (s : State) (off n : Nat) : (s.count off n).fresh = s.fresh := by unfold State.count; simp only [State.raiseIf_fresh, State.w64_fresh]

/-! ## Reads that an update leaves as they are -/

@[simp] theorem State.w32_engine (s : State) (off : Nat) (v : Word) (e' : Nat) : (s.w32 off v).engine e' = s.engine e' := rfl
@[simp] theorem State.w32_port (s : State) (off : Nat) (v : Word) (p' : Nat) : (s.w32 off v).port p' = s.port p' := rfl
@[simp] theorem State.w32_qp (s : State) (off : Nat) (v : Word) (n' : Nat) : (s.w32 off v).qp n' = s.qp n' := rfl
@[simp] theorem State.w32_hamper (s : State) (off : Nat) (v : Word) (i' : Nat) : (s.w32 off v).hamper i' = s.hamper i' := rfl
@[simp] theorem State.w32_tick (s : State) (off : Nat) (v : Word) : (s.w32 off v).tick = s.tick := rfl
@[simp] theorem State.w32_free (s : State) (off : Nat) (v : Word) : (s.w32 off v).free = s.free := rfl
@[simp] theorem State.raise_rf (s : State) (pn bit cls src : Nat) (o' l' n' : Nat) : (s.raise pn bit cls src).rf o' l' n' = s.rf o' l' n' := rfl
@[simp] theorem State.raise_rb (s : State) (pn bit cls src : Nat) (o' b' : Nat) : (s.raise pn bit cls src).rb o' b' = s.rb o' b' := rfl
@[simp] theorem State.raise_r64 (s : State) (pn bit cls src : Nat) (o' : Nat) : (s.raise pn bit cls src).r64 o' = s.r64 o' := rfl
@[simp] theorem State.raise_tideState (s : State) (pn bit cls src : Nat) : (s.raise pn bit cls src).tideState = s.tideState := rfl
@[simp] theorem State.raise_r32 (s : State) (pn bit cls src : Nat) (off' : Nat) : (s.raise pn bit cls src).r32 off' = s.r32 off' := rfl
@[simp] theorem State.raise_engine (s : State) (pn bit cls src : Nat) (e' : Nat) : (s.raise pn bit cls src).engine e' = s.engine e' := rfl
@[simp] theorem State.raise_port (s : State) (pn bit cls src : Nat) (p' : Nat) : (s.raise pn bit cls src).port p' = s.port p' := rfl
@[simp] theorem State.raise_qp (s : State) (pn bit cls src : Nat) (n' : Nat) : (s.raise pn bit cls src).qp n' = s.qp n' := rfl
@[simp] theorem State.raise_hamper (s : State) (pn bit cls src : Nat) (i' : Nat) : (s.raise pn bit cls src).hamper i' = s.hamper i' := rfl
@[simp] theorem State.raise_tick (s : State) (pn bit cls src : Nat) : (s.raise pn bit cls src).tick = s.tick := rfl
@[simp] theorem State.raise_free (s : State) (pn bit cls src : Nat) : (s.raise pn bit cls src).free = s.free := rfl
@[simp] theorem State.setEngine_rf (s : State) (e : Nat) (g : Engine) (o' l' n' : Nat) : (s.setEngine e g).rf o' l' n' = s.rf o' l' n' := rfl
@[simp] theorem State.setEngine_rb (s : State) (e : Nat) (g : Engine) (o' b' : Nat) : (s.setEngine e g).rb o' b' = s.rb o' b' := rfl
@[simp] theorem State.setEngine_r64 (s : State) (e : Nat) (g : Engine) (o' : Nat) : (s.setEngine e g).r64 o' = s.r64 o' := rfl
@[simp] theorem State.setEngine_tideState (s : State) (e : Nat) (g : Engine) : (s.setEngine e g).tideState = s.tideState := rfl
@[simp] theorem State.setEngine_r32 (s : State) (e : Nat) (g : Engine) (off' : Nat) : (s.setEngine e g).r32 off' = s.r32 off' := rfl
@[simp] theorem State.setEngine_port (s : State) (e : Nat) (g : Engine) (p' : Nat) : (s.setEngine e g).port p' = s.port p' := rfl
@[simp] theorem State.setEngine_qp (s : State) (e : Nat) (g : Engine) (n' : Nat) : (s.setEngine e g).qp n' = s.qp n' := rfl
@[simp] theorem State.setEngine_hamper (s : State) (e : Nat) (g : Engine) (i' : Nat) : (s.setEngine e g).hamper i' = s.hamper i' := rfl
@[simp] theorem State.setEngine_tick (s : State) (e : Nat) (g : Engine) : (s.setEngine e g).tick = s.tick := rfl
@[simp] theorem State.setEngine_free (s : State) (e : Nat) (g : Engine) : (s.setEngine e g).free = s.free := rfl
@[simp] theorem State.setPort_rf (s : State) (p : Nat) (x : Port) (o' l' n' : Nat) : (s.setPort p x).rf o' l' n' = s.rf o' l' n' := rfl
@[simp] theorem State.setPort_rb (s : State) (p : Nat) (x : Port) (o' b' : Nat) : (s.setPort p x).rb o' b' = s.rb o' b' := rfl
@[simp] theorem State.setPort_r64 (s : State) (p : Nat) (x : Port) (o' : Nat) : (s.setPort p x).r64 o' = s.r64 o' := rfl
@[simp] theorem State.setPort_tideState (s : State) (p : Nat) (x : Port) : (s.setPort p x).tideState = s.tideState := rfl
@[simp] theorem State.setPort_r32 (s : State) (p : Nat) (x : Port) (off' : Nat) : (s.setPort p x).r32 off' = s.r32 off' := rfl
@[simp] theorem State.setPort_engine (s : State) (p : Nat) (x : Port) (e' : Nat) : (s.setPort p x).engine e' = s.engine e' := rfl
@[simp] theorem State.setPort_qp (s : State) (p : Nat) (x : Port) (n' : Nat) : (s.setPort p x).qp n' = s.qp n' := rfl
@[simp] theorem State.setPort_hamper (s : State) (p : Nat) (x : Port) (i' : Nat) : (s.setPort p x).hamper i' = s.hamper i' := rfl
@[simp] theorem State.setPort_tick (s : State) (p : Nat) (x : Port) : (s.setPort p x).tick = s.tick := rfl
@[simp] theorem State.setPort_free (s : State) (p : Nat) (x : Port) : (s.setPort p x).free = s.free := rfl
@[simp] theorem State.setQp_rf (s : State) (n : Nat) (x : Qp) (o' l' n' : Nat) : (s.setQp n x).rf o' l' n' = s.rf o' l' n' := rfl
@[simp] theorem State.setQp_rb (s : State) (n : Nat) (x : Qp) (o' b' : Nat) : (s.setQp n x).rb o' b' = s.rb o' b' := rfl
@[simp] theorem State.setQp_r64 (s : State) (n : Nat) (x : Qp) (o' : Nat) : (s.setQp n x).r64 o' = s.r64 o' := rfl
@[simp] theorem State.setQp_tideState (s : State) (n : Nat) (x : Qp) : (s.setQp n x).tideState = s.tideState := rfl
@[simp] theorem State.setQp_r32 (s : State) (n : Nat) (x : Qp) (off' : Nat) : (s.setQp n x).r32 off' = s.r32 off' := rfl
@[simp] theorem State.setQp_engine (s : State) (n : Nat) (x : Qp) (e' : Nat) : (s.setQp n x).engine e' = s.engine e' := rfl
@[simp] theorem State.setQp_port (s : State) (n : Nat) (x : Qp) (p' : Nat) : (s.setQp n x).port p' = s.port p' := rfl
@[simp] theorem State.setQp_hamper (s : State) (n : Nat) (x : Qp) (i' : Nat) : (s.setQp n x).hamper i' = s.hamper i' := rfl
@[simp] theorem State.setQp_tick (s : State) (n : Nat) (x : Qp) : (s.setQp n x).tick = s.tick := rfl
@[simp] theorem State.setQp_free (s : State) (n : Nat) (x : Qp) : (s.setQp n x).free = s.free := rfl
@[simp] theorem State.setHamper_rf (s : State) (i : Nat) (x : Hamper) (o' l' n' : Nat) : (s.setHamper i x).rf o' l' n' = s.rf o' l' n' := rfl
@[simp] theorem State.setHamper_rb (s : State) (i : Nat) (x : Hamper) (o' b' : Nat) : (s.setHamper i x).rb o' b' = s.rb o' b' := rfl
@[simp] theorem State.setHamper_r64 (s : State) (i : Nat) (x : Hamper) (o' : Nat) : (s.setHamper i x).r64 o' = s.r64 o' := rfl
@[simp] theorem State.setHamper_tideState (s : State) (i : Nat) (x : Hamper) : (s.setHamper i x).tideState = s.tideState := rfl
@[simp] theorem State.setHamper_r32 (s : State) (i : Nat) (x : Hamper) (off' : Nat) : (s.setHamper i x).r32 off' = s.r32 off' := rfl
@[simp] theorem State.setHamper_engine (s : State) (i : Nat) (x : Hamper) (e' : Nat) : (s.setHamper i x).engine e' = s.engine e' := rfl
@[simp] theorem State.setHamper_port (s : State) (i : Nat) (x : Hamper) (p' : Nat) : (s.setHamper i x).port p' = s.port p' := rfl
@[simp] theorem State.setHamper_qp (s : State) (i : Nat) (x : Hamper) (n' : Nat) : (s.setHamper i x).qp n' = s.qp n' := rfl
@[simp] theorem State.setHamper_tick (s : State) (i : Nat) (x : Hamper) : (s.setHamper i x).tick = s.tick := rfl
@[simp] theorem State.setHamper_free (s : State) (i : Nat) (x : Hamper) : (s.setHamper i x).free = s.free := rfl
@[simp] theorem State.modTide_rf (s : State) (f : Tide → Tide) (o' l' n' : Nat) : (s.modTide f).rf o' l' n' = s.rf o' l' n' := rfl
@[simp] theorem State.modTide_rb (s : State) (f : Tide → Tide) (o' b' : Nat) : (s.modTide f).rb o' b' = s.rb o' b' := rfl
@[simp] theorem State.modTide_r64 (s : State) (f : Tide → Tide) (o' : Nat) : (s.modTide f).r64 o' = s.r64 o' := rfl
@[simp] theorem State.modTide_tideState (s : State) (f : Tide → Tide) : (s.modTide f).tideState = s.tideState := rfl
@[simp] theorem State.modTide_r32 (s : State) (f : Tide → Tide) (off' : Nat) : (s.modTide f).r32 off' = s.r32 off' := rfl
@[simp] theorem State.modTide_engine (s : State) (f : Tide → Tide) (e' : Nat) : (s.modTide f).engine e' = s.engine e' := rfl
@[simp] theorem State.modTide_port (s : State) (f : Tide → Tide) (p' : Nat) : (s.modTide f).port p' = s.port p' := rfl
@[simp] theorem State.modTide_qp (s : State) (f : Tide → Tide) (n' : Nat) : (s.modTide f).qp n' = s.qp n' := rfl
@[simp] theorem State.modTide_hamper (s : State) (f : Tide → Tide) (i' : Nat) : (s.modTide f).hamper i' = s.hamper i' := rfl
@[simp] theorem State.modTide_free (s : State) (f : Tide → Tide) : (s.modTide f).free = s.free := rfl
@[simp] theorem State.modCommit_rf (s : State) (f : Commit → Commit) (o' l' n' : Nat) : (s.modCommit f).rf o' l' n' = s.rf o' l' n' := rfl
@[simp] theorem State.modCommit_rb (s : State) (f : Commit → Commit) (o' b' : Nat) : (s.modCommit f).rb o' b' = s.rb o' b' := rfl
@[simp] theorem State.modCommit_r64 (s : State) (f : Commit → Commit) (o' : Nat) : (s.modCommit f).r64 o' = s.r64 o' := rfl
@[simp] theorem State.modCommit_tideState (s : State) (f : Commit → Commit) : (s.modCommit f).tideState = s.tideState := rfl
@[simp] theorem State.modCommit_r32 (s : State) (f : Commit → Commit) (off' : Nat) : (s.modCommit f).r32 off' = s.r32 off' := rfl
@[simp] theorem State.modCommit_engine (s : State) (f : Commit → Commit) (e' : Nat) : (s.modCommit f).engine e' = s.engine e' := rfl
@[simp] theorem State.modCommit_port (s : State) (f : Commit → Commit) (p' : Nat) : (s.modCommit f).port p' = s.port p' := rfl
@[simp] theorem State.modCommit_qp (s : State) (f : Commit → Commit) (n' : Nat) : (s.modCommit f).qp n' = s.qp n' := rfl
@[simp] theorem State.modCommit_hamper (s : State) (f : Commit → Commit) (i' : Nat) : (s.modCommit f).hamper i' = s.hamper i' := rfl
@[simp] theorem State.modCommit_tick (s : State) (f : Commit → Commit) : (s.modCommit f).tick = s.tick := rfl
@[simp] theorem State.modCommit_free (s : State) (f : Commit → Commit) : (s.modCommit f).free = s.free := rfl
@[simp] theorem State.modMem_rf (s : State) (f : Mem → Mem) (o' l' n' : Nat) : (s.modMem f).rf o' l' n' = s.rf o' l' n' := rfl
@[simp] theorem State.modMem_rb (s : State) (f : Mem → Mem) (o' b' : Nat) : (s.modMem f).rb o' b' = s.rb o' b' := rfl
@[simp] theorem State.modMem_r64 (s : State) (f : Mem → Mem) (o' : Nat) : (s.modMem f).r64 o' = s.r64 o' := rfl
@[simp] theorem State.modMem_tideState (s : State) (f : Mem → Mem) : (s.modMem f).tideState = s.tideState := rfl
@[simp] theorem State.modMem_r32 (s : State) (f : Mem → Mem) (off' : Nat) : (s.modMem f).r32 off' = s.r32 off' := rfl
@[simp] theorem State.modMem_engine (s : State) (f : Mem → Mem) (e' : Nat) : (s.modMem f).engine e' = s.engine e' := rfl
@[simp] theorem State.modMem_port (s : State) (f : Mem → Mem) (p' : Nat) : (s.modMem f).port p' = s.port p' := rfl
@[simp] theorem State.modMem_qp (s : State) (f : Mem → Mem) (n' : Nat) : (s.modMem f).qp n' = s.qp n' := rfl
@[simp] theorem State.modMem_hamper (s : State) (f : Mem → Mem) (i' : Nat) : (s.modMem f).hamper i' = s.hamper i' := rfl
@[simp] theorem State.modMem_tick (s : State) (f : Mem → Mem) : (s.modMem f).tick = s.tick := rfl
@[simp] theorem State.modMem_free (s : State) (f : Mem → Mem) : (s.modMem f).free = s.free := rfl
@[simp] theorem State.modSrv_rf (s : State) (f : Srv → Srv) (o' l' n' : Nat) : (s.modSrv f).rf o' l' n' = s.rf o' l' n' := rfl
@[simp] theorem State.modSrv_rb (s : State) (f : Srv → Srv) (o' b' : Nat) : (s.modSrv f).rb o' b' = s.rb o' b' := rfl
@[simp] theorem State.modSrv_r64 (s : State) (f : Srv → Srv) (o' : Nat) : (s.modSrv f).r64 o' = s.r64 o' := rfl
@[simp] theorem State.modSrv_tideState (s : State) (f : Srv → Srv) : (s.modSrv f).tideState = s.tideState := rfl
@[simp] theorem State.modSrv_r32 (s : State) (f : Srv → Srv) (off' : Nat) : (s.modSrv f).r32 off' = s.r32 off' := rfl
@[simp] theorem State.modSrv_engine (s : State) (f : Srv → Srv) (e' : Nat) : (s.modSrv f).engine e' = s.engine e' := rfl
@[simp] theorem State.modSrv_port (s : State) (f : Srv → Srv) (p' : Nat) : (s.modSrv f).port p' = s.port p' := rfl
@[simp] theorem State.modSrv_qp (s : State) (f : Srv → Srv) (n' : Nat) : (s.modSrv f).qp n' = s.qp n' := rfl
@[simp] theorem State.modSrv_tick (s : State) (f : Srv → Srv) : (s.modSrv f).tick = s.tick := rfl
@[simp] theorem State.modSrv_free (s : State) (f : Srv → Srv) : (s.modSrv f).free = s.free := rfl
@[simp] theorem State.modXpt_rf (s : State) (f : Xpt → Xpt) (o' l' n' : Nat) : (s.modXpt f).rf o' l' n' = s.rf o' l' n' := rfl
@[simp] theorem State.modXpt_rb (s : State) (f : Xpt → Xpt) (o' b' : Nat) : (s.modXpt f).rb o' b' = s.rb o' b' := rfl
@[simp] theorem State.modXpt_r64 (s : State) (f : Xpt → Xpt) (o' : Nat) : (s.modXpt f).r64 o' = s.r64 o' := rfl
@[simp] theorem State.modXpt_tideState (s : State) (f : Xpt → Xpt) : (s.modXpt f).tideState = s.tideState := rfl
@[simp] theorem State.modXpt_r32 (s : State) (f : Xpt → Xpt) (off' : Nat) : (s.modXpt f).r32 off' = s.r32 off' := rfl
@[simp] theorem State.modXpt_engine (s : State) (f : Xpt → Xpt) (e' : Nat) : (s.modXpt f).engine e' = s.engine e' := rfl
@[simp] theorem State.modXpt_port (s : State) (f : Xpt → Xpt) (p' : Nat) : (s.modXpt f).port p' = s.port p' := rfl
@[simp] theorem State.modXpt_hamper (s : State) (f : Xpt → Xpt) (i' : Nat) : (s.modXpt f).hamper i' = s.hamper i' := rfl
@[simp] theorem State.modXpt_tick (s : State) (f : Xpt → Xpt) : (s.modXpt f).tick = s.tick := rfl
@[simp] theorem State.modXpt_free (s : State) (f : Xpt → Xpt) : (s.modXpt f).free = s.free := rfl
@[simp] theorem State.modPwr_rf (s : State) (f : Pwr → Pwr) (o' l' n' : Nat) : (s.modPwr f).rf o' l' n' = s.rf o' l' n' := rfl
@[simp] theorem State.modPwr_rb (s : State) (f : Pwr → Pwr) (o' b' : Nat) : (s.modPwr f).rb o' b' = s.rb o' b' := rfl
@[simp] theorem State.modPwr_r64 (s : State) (f : Pwr → Pwr) (o' : Nat) : (s.modPwr f).r64 o' = s.r64 o' := rfl
@[simp] theorem State.modPwr_tideState (s : State) (f : Pwr → Pwr) : (s.modPwr f).tideState = s.tideState := rfl
@[simp] theorem State.modPwr_r32 (s : State) (f : Pwr → Pwr) (off' : Nat) : (s.modPwr f).r32 off' = s.r32 off' := rfl
@[simp] theorem State.modPwr_engine (s : State) (f : Pwr → Pwr) (e' : Nat) : (s.modPwr f).engine e' = s.engine e' := rfl
@[simp] theorem State.modPwr_port (s : State) (f : Pwr → Pwr) (p' : Nat) : (s.modPwr f).port p' = s.port p' := rfl
@[simp] theorem State.modPwr_qp (s : State) (f : Pwr → Pwr) (n' : Nat) : (s.modPwr f).qp n' = s.qp n' := rfl
@[simp] theorem State.modPwr_hamper (s : State) (f : Pwr → Pwr) (i' : Nat) : (s.modPwr f).hamper i' = s.hamper i' := rfl
@[simp] theorem State.modPwr_tick (s : State) (f : Pwr → Pwr) : (s.modPwr f).tick = s.tick := rfl
@[simp] theorem State.modPwr_free (s : State) (f : Pwr → Pwr) : (s.modPwr f).free = s.free := rfl
@[simp] theorem State.modSec_rf (s : State) (f : Sec → Sec) (o' l' n' : Nat) : (s.modSec f).rf o' l' n' = s.rf o' l' n' := rfl
@[simp] theorem State.modSec_rb (s : State) (f : Sec → Sec) (o' b' : Nat) : (s.modSec f).rb o' b' = s.rb o' b' := rfl
@[simp] theorem State.modSec_r64 (s : State) (f : Sec → Sec) (o' : Nat) : (s.modSec f).r64 o' = s.r64 o' := rfl
@[simp] theorem State.modSec_tideState (s : State) (f : Sec → Sec) : (s.modSec f).tideState = s.tideState := rfl
@[simp] theorem State.modSec_r32 (s : State) (f : Sec → Sec) (off' : Nat) : (s.modSec f).r32 off' = s.r32 off' := rfl
@[simp] theorem State.modSec_engine (s : State) (f : Sec → Sec) (e' : Nat) : (s.modSec f).engine e' = s.engine e' := rfl
@[simp] theorem State.modSec_port (s : State) (f : Sec → Sec) (p' : Nat) : (s.modSec f).port p' = s.port p' := rfl
@[simp] theorem State.modSec_qp (s : State) (f : Sec → Sec) (n' : Nat) : (s.modSec f).qp n' = s.qp n' := rfl
@[simp] theorem State.modSec_hamper (s : State) (f : Sec → Sec) (i' : Nat) : (s.modSec f).hamper i' = s.hamper i' := rfl
@[simp] theorem State.modSec_tick (s : State) (f : Sec → Sec) : (s.modSec f).tick = s.tick := rfl
@[simp] theorem State.modSec_free (s : State) (f : Sec → Sec) : (s.modSec f).free = s.free := rfl
@[simp] theorem State.drawn_rf (s : State) (o' l' n' : Nat) : (s.drawn).rf o' l' n' = s.rf o' l' n' := rfl
@[simp] theorem State.drawn_rb (s : State) (o' b' : Nat) : (s.drawn).rb o' b' = s.rb o' b' := rfl
@[simp] theorem State.drawn_r64 (s : State) (o' : Nat) : (s.drawn).r64 o' = s.r64 o' := rfl
@[simp] theorem State.drawn_tideState (s : State) : (s.drawn).tideState = s.tideState := rfl
@[simp] theorem State.drawn_r32 (s : State) (off' : Nat) : (s.drawn).r32 off' = s.r32 off' := rfl
@[simp] theorem State.drawn_engine (s : State) (e' : Nat) : (s.drawn).engine e' = s.engine e' := rfl
@[simp] theorem State.drawn_port (s : State) (p' : Nat) : (s.drawn).port p' = s.port p' := rfl
@[simp] theorem State.drawn_qp (s : State) (n' : Nat) : (s.drawn).qp n' = s.qp n' := rfl
@[simp] theorem State.drawn_hamper (s : State) (i' : Nat) : (s.drawn).hamper i' = s.hamper i' := rfl
@[simp] theorem State.drawn_tick (s : State) : (s.drawn).tick = s.tick := rfl
@[simp] theorem State.drawnN_rf (s : State) (n : Nat) (o' l' n' : Nat) : (s.drawnN n).rf o' l' n' = s.rf o' l' n' := rfl
@[simp] theorem State.drawnN_rb (s : State) (n : Nat) (o' b' : Nat) : (s.drawnN n).rb o' b' = s.rb o' b' := rfl
@[simp] theorem State.drawnN_r64 (s : State) (n : Nat) (o' : Nat) : (s.drawnN n).r64 o' = s.r64 o' := rfl
@[simp] theorem State.drawnN_tideState (s : State) (n : Nat) : (s.drawnN n).tideState = s.tideState := rfl
@[simp] theorem State.drawnN_r32 (s : State) (n : Nat) (off' : Nat) : (s.drawnN n).r32 off' = s.r32 off' := rfl
@[simp] theorem State.drawnN_engine (s : State) (n : Nat) (e' : Nat) : (s.drawnN n).engine e' = s.engine e' := rfl
@[simp] theorem State.drawnN_port (s : State) (n : Nat) (p' : Nat) : (s.drawnN n).port p' = s.port p' := rfl
@[simp] theorem State.drawnN_qp (s : State) (n : Nat) (n' : Nat) : (s.drawnN n).qp n' = s.qp n' := rfl
@[simp] theorem State.drawnN_hamper (s : State) (n : Nat) (i' : Nat) : (s.drawnN n).hamper i' = s.hamper i' := rfl
@[simp] theorem State.drawnN_tick (s : State) (n : Nat) : (s.drawnN n).tick = s.tick := rfl
@[simp] theorem State.emit_rf (s : State) (o : Out) (o' l' n' : Nat) : (s.emit o).rf o' l' n' = s.rf o' l' n' := rfl
@[simp] theorem State.emit_rb (s : State) (o : Out) (o' b' : Nat) : (s.emit o).rb o' b' = s.rb o' b' := rfl
@[simp] theorem State.emit_r64 (s : State) (o : Out) (o' : Nat) : (s.emit o).r64 o' = s.r64 o' := rfl
@[simp] theorem State.emit_tideState (s : State) (o : Out) : (s.emit o).tideState = s.tideState := rfl
@[simp] theorem State.emit_r32 (s : State) (o : Out) (off' : Nat) : (s.emit o).r32 off' = s.r32 off' := rfl
@[simp] theorem State.emit_engine (s : State) (o : Out) (e' : Nat) : (s.emit o).engine e' = s.engine e' := rfl
@[simp] theorem State.emit_port (s : State) (o : Out) (p' : Nat) : (s.emit o).port p' = s.port p' := rfl
@[simp] theorem State.emit_qp (s : State) (o : Out) (n' : Nat) : (s.emit o).qp n' = s.qp n' := rfl
@[simp] theorem State.emit_hamper (s : State) (o : Out) (i' : Nat) : (s.emit o).hamper i' = s.hamper i' := rfl
@[simp] theorem State.emit_tick (s : State) (o : Out) : (s.emit o).tick = s.tick := rfl
@[simp] theorem State.emit_free (s : State) (o : Out) : (s.emit o).free = s.free := rfl
@[simp] theorem State.wf_engine (s : State) (off lo len x : Nat) (e' : Nat) : (s.wf off lo len x).engine e' = s.engine e' := rfl
@[simp] theorem State.wf_port (s : State) (off lo len x : Nat) (p' : Nat) : (s.wf off lo len x).port p' = s.port p' := rfl
@[simp] theorem State.wf_qp (s : State) (off lo len x : Nat) (n' : Nat) : (s.wf off lo len x).qp n' = s.qp n' := rfl
@[simp] theorem State.wf_hamper (s : State) (off lo len x : Nat) (i' : Nat) : (s.wf off lo len x).hamper i' = s.hamper i' := rfl
@[simp] theorem State.wf_tick (s : State) (off lo len x : Nat) : (s.wf off lo len x).tick = s.tick := rfl
@[simp] theorem State.wf_free (s : State) (off lo len x : Nat) : (s.wf off lo len x).free = s.free := rfl
@[simp] theorem State.wb_engine (s : State) (off lo : Nat) (b : Bool) (e' : Nat) : (s.wb off lo b).engine e' = s.engine e' := rfl
@[simp] theorem State.wb_port (s : State) (off lo : Nat) (b : Bool) (p' : Nat) : (s.wb off lo b).port p' = s.port p' := rfl
@[simp] theorem State.wb_qp (s : State) (off lo : Nat) (b : Bool) (n' : Nat) : (s.wb off lo b).qp n' = s.qp n' := rfl
@[simp] theorem State.wb_hamper (s : State) (off lo : Nat) (b : Bool) (i' : Nat) : (s.wb off lo b).hamper i' = s.hamper i' := rfl
@[simp] theorem State.wb_tick (s : State) (off lo : Nat) (b : Bool) : (s.wb off lo b).tick = s.tick := rfl
@[simp] theorem State.wb_free (s : State) (off lo : Nat) (b : Bool) : (s.wb off lo b).free = s.free := rfl
@[simp] theorem State.w64_engine (s : State) (off : Nat) (v : Dword) (e' : Nat) : (s.w64 off v).engine e' = s.engine e' := rfl
@[simp] theorem State.w64_port (s : State) (off : Nat) (v : Dword) (p' : Nat) : (s.w64 off v).port p' = s.port p' := rfl
@[simp] theorem State.w64_qp (s : State) (off : Nat) (v : Dword) (n' : Nat) : (s.w64 off v).qp n' = s.qp n' := rfl
@[simp] theorem State.w64_hamper (s : State) (off : Nat) (v : Dword) (i' : Nat) : (s.w64 off v).hamper i' = s.hamper i' := rfl
@[simp] theorem State.w64_tick (s : State) (off : Nat) (v : Dword) : (s.w64 off v).tick = s.tick := rfl
@[simp] theorem State.w64_free (s : State) (off : Nat) (v : Dword) : (s.w64 off v).free = s.free := rfl
@[simp] theorem State.orReg_engine (s : State) (off : Nat) (v : Word) (e' : Nat) : (s.orReg off v).engine e' = s.engine e' := rfl
@[simp] theorem State.orReg_port (s : State) (off : Nat) (v : Word) (p' : Nat) : (s.orReg off v).port p' = s.port p' := rfl
@[simp] theorem State.orReg_qp (s : State) (off : Nat) (v : Word) (n' : Nat) : (s.orReg off v).qp n' = s.qp n' := rfl
@[simp] theorem State.orReg_hamper (s : State) (off : Nat) (v : Word) (i' : Nat) : (s.orReg off v).hamper i' = s.hamper i' := rfl
@[simp] theorem State.orReg_tick (s : State) (off : Nat) (v : Word) : (s.orReg off v).tick = s.tick := rfl
@[simp] theorem State.orReg_free (s : State) (off : Nat) (v : Word) : (s.orReg off v).free = s.free := rfl
@[simp] theorem State.raiseIf_rf (s : State) (c : Bool) (pn bit cls src : Nat) (o' l' n' : Nat) : (s.raiseIf c pn bit cls src).rf o' l' n' = s.rf o' l' n' := by cases c <;> rfl
@[simp] theorem State.raiseIf_rb (s : State) (c : Bool) (pn bit cls src : Nat) (o' b' : Nat) : (s.raiseIf c pn bit cls src).rb o' b' = s.rb o' b' := by cases c <;> rfl
@[simp] theorem State.raiseIf_r64 (s : State) (c : Bool) (pn bit cls src : Nat) (o' : Nat) : (s.raiseIf c pn bit cls src).r64 o' = s.r64 o' := by cases c <;> rfl
@[simp] theorem State.raiseIf_tideState (s : State) (c : Bool) (pn bit cls src : Nat) : (s.raiseIf c pn bit cls src).tideState = s.tideState := by cases c <;> rfl
@[simp] theorem State.raiseIf_r32 (s : State) (c : Bool) (pn bit cls src : Nat) (off' : Nat) : (s.raiseIf c pn bit cls src).r32 off' = s.r32 off' := by cases c <;> rfl
@[simp] theorem State.raiseIf_engine (s : State) (c : Bool) (pn bit cls src : Nat) (e' : Nat) : (s.raiseIf c pn bit cls src).engine e' = s.engine e' := by cases c <;> rfl
@[simp] theorem State.raiseIf_port (s : State) (c : Bool) (pn bit cls src : Nat) (p' : Nat) : (s.raiseIf c pn bit cls src).port p' = s.port p' := by cases c <;> rfl
@[simp] theorem State.raiseIf_qp (s : State) (c : Bool) (pn bit cls src : Nat) (n' : Nat) : (s.raiseIf c pn bit cls src).qp n' = s.qp n' := by cases c <;> rfl
@[simp] theorem State.raiseIf_hamper (s : State) (c : Bool) (pn bit cls src : Nat) (i' : Nat) : (s.raiseIf c pn bit cls src).hamper i' = s.hamper i' := by cases c <;> rfl
@[simp] theorem State.raiseIf_tick (s : State) (c : Bool) (pn bit cls src : Nat) : (s.raiseIf c pn bit cls src).tick = s.tick := by cases c <;> rfl
@[simp] theorem State.raiseIf_free (s : State) (c : Bool) (pn bit cls src : Nat) : (s.raiseIf c pn bit cls src).free = s.free := by cases c <;> rfl
@[simp] theorem State.sample_engine (s : State) (pn bit : Nat) (e' : Nat) : (s.sample pn bit).engine e' = s.engine e' := by unfold State.sample; split <;> rfl
@[simp] theorem State.sample_port (s : State) (pn bit : Nat) (p' : Nat) : (s.sample pn bit).port p' = s.port p' := by unfold State.sample; split <;> rfl
@[simp] theorem State.sample_qp (s : State) (pn bit : Nat) (n' : Nat) : (s.sample pn bit).qp n' = s.qp n' := by unfold State.sample; split <;> rfl
@[simp] theorem State.sample_hamper (s : State) (pn bit : Nat) (i' : Nat) : (s.sample pn bit).hamper i' = s.hamper i' := by unfold State.sample; split <;> rfl
@[simp] theorem State.sample_tick (s : State) (pn bit : Nat) : (s.sample pn bit).tick = s.tick := by unfold State.sample; split <;> rfl
@[simp] theorem State.sample_free (s : State) (pn bit : Nat) : (s.sample pn bit).free = s.free := by unfold State.sample; split <;> rfl
@[simp] theorem State.count_engine (s : State) (off n : Nat) (e' : Nat) : (s.count off n).engine e' = s.engine e' := by unfold State.count; simp only [State.raiseIf_engine, State.w64_engine]
@[simp] theorem State.count_port (s : State) (off n : Nat) (p' : Nat) : (s.count off n).port p' = s.port p' := by unfold State.count; simp only [State.raiseIf_port, State.w64_port]
@[simp] theorem State.count_qp (s : State) (off n : Nat) (n' : Nat) : (s.count off n).qp n' = s.qp n' := by unfold State.count; simp only [State.raiseIf_qp, State.w64_qp]
@[simp] theorem State.count_hamper (s : State) (off n : Nat) (i' : Nat) : (s.count off n).hamper i' = s.hamper i' := by unfold State.count; simp only [State.raiseIf_hamper, State.w64_hamper]
@[simp] theorem State.count_tick (s : State) (off n : Nat) : (s.count off n).tick = s.tick := by unfold State.count; simp only [State.raiseIf_tick, State.w64_tick]
@[simp] theorem State.count_free (s : State) (off n : Nat) : (s.count off n).free = s.free := by unfold State.count; simp only [State.raiseIf_free, State.w64_free]

/-! ## A footprint -/

@[simp] theorem Footprint.apply_pending (fp : Footprint) (s t : State) : (fp.apply s t).pending = s.pending := rfl
@[simp] theorem Footprint.apply_regs (fp : Footprint) (s t : State) : (fp.apply s t).regs = if fp.regs then t.regs else s.regs := rfl
@[simp] theorem Footprint.apply_tide (fp : Footprint) (s t : State) : (fp.apply s t).tide = if fp.tide then t.tide else s.tide := rfl
@[simp] theorem Footprint.apply_commit (fp : Footprint) (s t : State) : (fp.apply s t).commit = if fp.commit then t.commit else s.commit := rfl
@[simp] theorem Footprint.apply_evq (fp : Footprint) (s t : State) : (fp.apply s t).evq = if fp.events then t.evq else s.evq := rfl
@[simp] theorem Footprint.apply_evtAt (fp : Footprint) (s t : State) : (fp.apply s t).evtAt = if fp.events then t.evtAt else s.evtAt := rfl
@[simp] theorem Footprint.apply_logq (fp : Footprint) (s t : State) : (fp.apply s t).logq = if fp.events then t.logq else s.logq := rfl
@[simp] theorem Footprint.apply_due (fp : Footprint) (s t : State) : (fp.apply s t).due = s.due := rfl
@[simp] theorem Footprint.apply_engines (fp : Footprint) (s t : State) : (fp.apply s t).engines = if fp.engines then t.engines else s.engines := rfl
@[simp] theorem Footprint.apply_signals (fp : Footprint) (s t : State) : (fp.apply s t).signals = if fp.flights then t.signals else s.signals := rfl
@[simp] theorem Footprint.apply_gives (fp : Footprint) (s t : State) : (fp.apply s t).gives = if fp.flights then t.gives else s.gives := rfl
@[simp] theorem Footprint.apply_heldSignals (fp : Footprint) (s t : State) : (fp.apply s t).heldSignals = if fp.flights then t.heldSignals else s.heldSignals := rfl
@[simp] theorem Footprint.apply_forced (fp : Footprint) (s t : State) : (fp.apply s t).forced = if fp.forced then t.forced else s.forced := rfl
@[simp] theorem Footprint.apply_mem (fp : Footprint) (s t : State) : (fp.apply s t).mem = if fp.mem then t.mem else s.mem := rfl
@[simp] theorem Footprint.apply_ports (fp : Footprint) (s t : State) : (fp.apply s t).ports = if fp.ports then t.ports else s.ports := rfl
@[simp] theorem Footprint.apply_xpt (fp : Footprint) (s t : State) : (fp.apply s t).xpt = if fp.xpt then t.xpt else s.xpt := rfl
@[simp] theorem Footprint.apply_srv (fp : Footprint) (s t : State) : (fp.apply s t).srv = if fp.srv then t.srv else s.srv := rfl
@[simp] theorem Footprint.apply_pwr (fp : Footprint) (s t : State) : (fp.apply s t).pwr = if fp.pwr then t.pwr else s.pwr := rfl
@[simp] theorem Footprint.apply_sec (fp : Footprint) (s t : State) : (fp.apply s t).sec = if fp.sec then t.sec else s.sec := rfl
@[simp] theorem Footprint.apply_tsMarks (fp : Footprint) (s t : State) : (fp.apply s t).tsMarks = if fp.tokens then t.tsMarks else s.tsMarks := rfl
@[simp] theorem Footprint.apply_tsFull (fp : Footprint) (s t : State) : (fp.apply s t).tsFull = if fp.tokens then t.tsFull else s.tsFull := rfl
@[simp] theorem Footprint.apply_out (fp : Footprint) (s t : State) : (fp.apply s t).out = t.out := rfl
@[simp] theorem Footprint.apply_fresh (fp : Footprint) (s t : State) : (fp.apply s t).fresh = t.fresh := rfl

end Sys2Proof.Machine
end

