-- ==== Sys2Proof/Laws/Regs.lean ====
section
/-! SUPPORT. Laws of bit fields and of the register file: a read after a write. -/
namespace Sys2Proof.Machine

/-! ## Bit fields -/

theorem testBit_fld {w : Nat} (v : BitVec w) (lo len i : Nat) :
    (fld v lo len).testBit i = (decide (i < len) && v.getLsbD (lo + i)) := by
  simp [fld, Nat.testBit_mod_two_pow, Nat.testBit_div_two_pow, BitVec.getLsbD, Nat.add_comm]

theorem getLsbD_putFld {w : Nat} (v : BitVec w) (lo len x i : Nat) (hi : i < w) :
    (putFld v lo len x).getLsbD i = if lo ≤ i ∧ i < lo + len then x.testBit (i - lo) else v.getLsbD i := by
  simp only [putFld, BitVec.getLsbD_or, BitVec.getLsbD_and, BitVec.getLsbD_not, BitVec.getLsbD_ofNat,
    Nat.testBit_mul_two_pow, Nat.testBit_two_pow_sub_one, Nat.testBit_mod_two_pow, hi, decide_true, Bool.true_and]
  by_cases h1 : lo ≤ i
  · by_cases h2 : i < lo + len
    · have h3 : i - lo < len := by omega
      simp [h1, h2, h3]
    · have h3 : ¬ i - lo < len := by omega
      simp [h1, h2, h3]
  · simp [h1]

/-- The field that has been set. -/
@[simp] theorem fld_putFld {w : Nat} (v : BitVec w) (lo len x : Nat) (h : lo + len ≤ w) :
    fld (putFld v lo len x) lo len = x % 2 ^ len := by
  apply Nat.eq_of_testBit_eq
  intro i
  rw [testBit_fld, Nat.testBit_mod_two_pow]
  by_cases hi : i < len
  · rw [getLsbD_putFld _ _ _ _ _ (by omega)]; simp [hi]
  · simp [hi]

/-- A field apart from the one that has been set. -/
theorem fld_putFld_apart {w : Nat} (v : BitVec w) (lo len x lo' len' : Nat) (hw : lo' + len' ≤ w)
    (h : lo' + len' ≤ lo ∨ lo + len ≤ lo') : fld (putFld v lo len x) lo' len' = fld v lo' len' := by
  apply Nat.eq_of_testBit_eq
  intro i
  rw [testBit_fld, testBit_fld]
  by_cases hi : i < len'
  · rw [getLsbD_putFld _ _ _ _ _ (by omega), if_neg (by omega)]
  · simp [hi]

/-! ## The register file -/

/-- A word read after a word written. -/
@[simp] theorem State.r32_w32 (s : State) (off : Nat) (v : Word) (off' : Nat) :
    (s.w32 off v).r32 off' = if off' / 4 = off / 4 then v else s.r32 off' := by
  simp [State.r32, State.w32]

theorem State.r32_w32_self (s : State) (off : Nat) (v : Word) : (s.w32 off v).r32 off = v := by simp

/-- A 64-bit register read after it has been written. -/
theorem State.r64_w64_self (s : State) (off : Nat) (v : Dword) : (s.w64 off v).r64 off = v := by
  have h1 : ¬ off / 4 = (off + 4) / 4 := by omega
  simp only [State.r64, State.w64, State.r32_w32, if_true, if_neg h1]
  apply BitVec.eq_of_getLsbD_eq
  intro i hi
  rw [BitVec.getLsbD_append]
  by_cases h : i < 32
  · simp [h]
  · have h3 : i - 32 < 32 := by omega
    have h4 : 32 + (i - 32) = i := by omega
    simp [h, h3, h4]

/-- A field of a register read after it has been set. -/
theorem State.rf_wf_self (s : State) (off lo len x : Nat) (h : lo + len ≤ 32) :
    (s.wf off lo len x).rf off lo len = x % 2 ^ len := by
  simp [State.rf, State.wf, h]

theorem State.rf_wf_apart (s : State) (off lo len x lo' len' : Nat) (hw : lo' + len' ≤ 32)
    (h : lo' + len' ≤ lo ∨ lo + len ≤ lo') : (s.wf off lo len x).rf off lo' len' = s.rf off lo' len' := by
  simp [State.rf, State.wf, fld_putFld_apart, hw, h]

/-- A word, a field and a bit of any register after a field of a register has been set. -/
theorem State.r32_wf (s : State) (off lo len x off' : Nat) :
    (s.wf off lo len x).r32 off' = if off' / 4 = off / 4 then putFld (s.r32 off) lo len x else s.r32 off' := by
  simp [State.wf]

theorem State.rf_wf (s : State) (off lo len x off' lo' len' : Nat) :
    (s.wf off lo len x).rf off' lo' len' =
      if off' / 4 = off / 4 then fld (putFld (s.r32 off) lo len x) lo' len' else s.rf off' lo' len' := by
  simp only [State.rf, State.r32_wf]; split <;> rfl

theorem State.rb_wf (s : State) (off lo len x off' b : Nat) :
    (s.wf off lo len x).rb off' b =
      if off' / 4 = off / 4 then (putFld (s.r32 off) lo len x).getLsbD b else s.rb off' b := by
  simp only [State.rb, State.r32_wf]; split <;> rfl

theorem State.rf_w32 (s : State) (off : Nat) (v : Word) (off' lo len : Nat) :
    (s.w32 off v).rf off' lo len = if off' / 4 = off / 4 then fld v lo len else s.rf off' lo len := by
  simp only [State.rf, State.r32_w32]; split <;> rfl

theorem State.rb_w32 (s : State) (off : Nat) (v : Word) (off' b : Nat) :
    (s.w32 off v).rb off' b = if off' / 4 = off / 4 then v.getLsbD b else s.rb off' b := by
  simp only [State.rb, State.r32_w32]; split <;> rfl

theorem State.r64_w32 (s : State) (off : Nat) (v : Word) (off' : Nat) (h : off' / 4 ≠ off / 4) (h' : (off' + 4) / 4 ≠ off / 4) :
    (s.w32 off v).r64 off' = s.r64 off' := by
  simp only [State.r64, State.r32_w32, if_neg h, if_neg h']

/-- A word of another register. -/
theorem State.r32_wf_other (s : State) (off lo len x off' : Nat) (h : off' / 4 ≠ off / 4) :
    (s.wf off lo len x).r32 off' = s.r32 off' := by
  simp [State.wf, h]

theorem State.rb_wb (s : State) (off lo : Nat) (b : Bool) (lo' : Nat) (h : lo' < 32) :
    (s.wb off lo b).rb off lo' = if lo' = lo then b else s.rb off lo' := by
  simp only [State.rb, State.wb, State.wf, State.r32_w32_self]
  rw [getLsbD_putFld _ _ _ _ _ h]
  by_cases hl : lo' = lo
  · subst hl; cases b <;> simp
  · rw [if_neg (by omega), if_neg hl]

end Sys2Proof.Machine
end

