-- ==== Sys2Proof/Laws/Run.lean ====
section
/-! SUPPORT. Laws of how a command is performed: in a state that is ready it is its operation within its footprint, and in a
device that is not up it is nothing. -/
namespace Sys2Proof.Machine

@[simp] theorem State.settle_nil (s : State) (h : s.due = []) : s.settle = s := by simp [State.settle, State.settleTo, h]

@[simp] theorem State.ready_eq (s : State) (h : s.due = []) : s.ready_ = s := by
  unfold State.ready_; rw [State.settle_nil s h]

/-- In a ready state a command is its operation, within its footprint. -/
theorem run_ready (fp : Footprint) (f : State → State) (s : State) (h : Ready s) : run fp f s = .next (fp.apply s (f s)) := by
  simp [run, h.1, State.ready_eq s h.2]

@[simp] theorem State.settleFirm_nil (s : State) (h : s.due = []) : s.settleFirm = s := by simp [State.settleFirm, State.settleTo, h]

@[simp] theorem State.readyFirm_eq (s : State) (h : s.due = []) : s.readyFirm = s := by
  unfold State.readyFirm; rw [State.settleFirm_nil s h]

/-- In a ready state a command of the firmware is its operation, within its footprint. -/
theorem runFirm_ready (fp : Footprint) (f : State → State) (s : State) (h : Ready s) :
    runFirm fp f s = .next (fp.apply s (f s)) := by
  simp [runFirm, h.1, State.readyFirm_eq s h.2]

theorem runFirm_next (fp : Footprint) (f : State → State) (s : State) :
    ∃ t, runFirm fp f s = .next t ∧ t.pending = s.pending := by
  unfold runFirm; split
  · exact ⟨_, rfl, rfl⟩
  · exact ⟨_, rfl, rfl⟩

/-- Due work and boundaries are performed on a device that is up. -/
theorem runWhole_up (f : State → State) (s : State) (h : s.up = true) :
    runWhole f s = .next { f s with pending := s.pending } := by
  simp [runWhole, h]

theorem run_down (fp : Footprint) (f : State → State) (s : State) (h : s.up = false) : run fp f s = .next s := by
  simp [run, h]

theorem runWhole_down (f : State → State) (s : State) (h : s.up = false) : runWhole f s = .next s := by
  simp [runWhole, h]

/-- Every way of performing a command answers a next state and leaves the queue as it was given. -/
theorem run_next (fp : Footprint) (f : State → State) (s : State) : ∃ t, run fp f s = .next t ∧ t.pending = s.pending := by
  unfold run; split
  · exact ⟨_, rfl, rfl⟩
  · exact ⟨_, rfl, rfl⟩

theorem runWhole_next (f : State → State) (s : State) : ∃ t, runWhole f s = .next t ∧ t.pending = s.pending := by
  unfold runWhole; split
  · exact ⟨_, rfl, rfl⟩
  · exact ⟨_, rfl, rfl⟩

theorem runPower_next (f : State → State) (s : State) : ∃ t, runPower f s = .next t ∧ t.pending = s.pending := ⟨_, rfl, rfl⟩

/-- A command performed within a footprint completes, with what its operation makes of a ready state. -/
theorem completes_run {c : Instr} {s : State} {fp : Footprint} {f : State → State} {P : State → Prop} (h : Ready s)
    (hc : exec c s = run fp f s) (hp : P (fp.apply s (f s))) : Completes c s P :=
  ⟨_, hc.trans (run_ready fp f s h), hp⟩

/-- A command that performs due work, or a boundary, completes with what its operation makes of the state. -/
theorem completes_whole {c : Instr} {s : State} {f : State → State} {P : State → Prop} (h : s.up = true)
    (hc : exec c s = runWhole f s) (hp : P { f s with pending := s.pending }) : Completes c s P :=
  ⟨_, hc.trans (runWhole_up f s h), hp⟩

/-! ## Reads through a footprint -/

@[simp] theorem Footprint.apply_r32 (fp : Footprint) (s t : State) (off : Nat) :
    (fp.apply s t).r32 off = if fp.regs then t.r32 off else s.r32 off := by cases h : fp.regs <;> simp [State.r32, h]
@[simp] theorem Footprint.apply_r64 (fp : Footprint) (s t : State) (off : Nat) :
    (fp.apply s t).r64 off = if fp.regs then t.r64 off else s.r64 off := by cases h : fp.regs <;> simp [State.r64, h]
@[simp] theorem Footprint.apply_rf (fp : Footprint) (s t : State) (off lo len : Nat) :
    (fp.apply s t).rf off lo len = if fp.regs then t.rf off lo len else s.rf off lo len := by
  cases h : fp.regs <;> simp [State.rf, h]
@[simp] theorem Footprint.apply_rb (fp : Footprint) (s t : State) (off lo : Nat) :
    (fp.apply s t).rb off lo = if fp.regs then t.rb off lo else s.rb off lo := by cases h : fp.regs <;> simp [State.rb, h]
@[simp] theorem Footprint.apply_engine (fp : Footprint) (s t : State) (e : Nat) :
    (fp.apply s t).engine e = if fp.engines then t.engine e else s.engine e := by
  cases h : fp.engines <;> simp [State.engine, h]
@[simp] theorem Footprint.apply_port (fp : Footprint) (s t : State) (p : Nat) :
    (fp.apply s t).port p = if fp.ports then t.port p else s.port p := by cases h : fp.ports <;> simp [State.port, h]
@[simp] theorem Footprint.apply_qp (fp : Footprint) (s t : State) (n : Nat) :
    (fp.apply s t).qp n = if fp.xpt then t.qp n else s.qp n := by cases h : fp.xpt <;> simp [State.qp, h]
@[simp] theorem Footprint.apply_hamper (fp : Footprint) (s t : State) (i : Nat) :
    (fp.apply s t).hamper i = if fp.srv then t.hamper i else s.hamper i := by cases h : fp.srv <;> simp [State.hamper, h]

/-- One piece of due work with nothing else due. -/
theorem State.due_only (s : State) (d : Due) (h : s.due = [d]) (hu : d.isLast = true → s.unresolved = false) :
    s.due_ d = s.performList [d] [] := by
  cases hd : d.isLast
  · simp [State.due_, h, dueTo, hd]
  · simp [State.due_, h, dueTo, hu hd]

/-- Outside its footprint a change leaves the state as it was. -/
theorem State.within_pending (s : State) (fp : Footprint) (f : State → State) : (s.within fp f).pending = s.pending := rfl
theorem State.within_due (s : State) (fp : Footprint) (f : State → State) : (s.within fp f).due = s.due := rfl

/-- Nothing stays due behind the last piece of due work. -/
theorem State.performList_nil_due (s : State) (l : List Due) : (s.performList l []).due = [] := rfl

end Sys2Proof.Machine
end

