-- ==== Sys2Proof/Laws/Exec.lean ====
section
/-! SUPPORT. What exec answers for each command: one lemma for each constructor. -/
namespace Sys2Proof.Machine

theorem exec_tickBoundary (power : BitVec 16) (s : State) : exec (.tickBoundary power) s =
    runWhole (fun s => s.tickBoundary power.toNat) s := rfl
theorem exec_timeReqSend (p : Fin 8) (t1 : Nat) (s : State) : exec (.timeReqSend p t1) s =
    run { tide := true, ports := true } (fun s => s.timeReqSend p.val t1) s := rfl
theorem exec_timeReqReceive (p : Fin 8) (m : TimeMsg) (t2 : Nat) (t3 : Nat) (s : State) : exec (.timeReqReceive p m t2 t3) s =
    run { regs := true, tide := true, events := true, ports := true } (fun s => s.timeReqReceive p.val m t2 t3) s := rfl
theorem exec_timeRespReceive (p : Fin 8) (m : TimeMsg) (t4 : Nat) (s : State) : exec (.timeRespReceive p m t4) s =
    run { regs := true, tide := true, events := true } (fun s => s.timeRespReceive p.val m t4) s := rfl
theorem exec_ptpMessageReceive (p : Fin 8) (e : PtpEvent) (s : State) : exec (.ptpMessageReceive p e) s =
    run { regs := true, tide := true, events := true } (fun s => s.ptpMessage p.val e) s := rfl
theorem exec_holdoverEntry (s : State) : exec (.holdoverEntry) s =
    run { regs := true, tide := true, events := true } (fun s => s.holdoverEntry) s := rfl
theorem exec_holdoverLimitExpiry (s : State) : exec (.holdoverLimitExpiry) s =
    run { regs := true, tide := true, events := true } (fun s => s.holdoverExpiry) s := rfl
theorem exec_tideEnWrite (v : Bool) (s : State) : exec (.tideEnWrite v) s =
    run { regs := true, tide := true } (fun s => s.tideEn v) s := rfl
theorem exec_tideMasterWrite (v : Bool) (s : State) : exec (.tideMasterWrite v) s =
    run { regs := true, tide := true } (fun s => s.tideMaster v) s := rfl
theorem exec_setLoad (s : State) : exec (.setLoad) s =
    run { tide := true } (fun s => s.tideSetLoad) s := rfl
theorem exec_rebase (s : State) : exec (.rebase) s =
    run { regs := true, tide := true } (fun s => s.tideRebase) s := rfl
theorem exec_lock (s : State) : exec (.lock) s =
    run { tide := true } (fun s => s.tideLock) s := rfl
theorem exec_tideJump (master : Dword) (s : State) : exec (.tideJump master) s =
    runWhole (fun s => s.tideJump master.toNat) s := rfl
theorem exec_stepTimerArm (n : Fin 4) (ctrl : Word) (s : State) : exec (.stepTimerArm n ctrl) s =
    run { regs := true, tide := true } (fun s => s.stepCtrl n.val ctrl) s := rfl
theorem exec_stepTimerStart (n : Fin 4) (s : State) : exec (.stepTimerStart n) s =
    runWhole (fun s => s.due_ (.stepTimer n.val)) s := rfl
theorem exec_commitRequest (r : Requester) (a : RegAcc) (s : State) : exec (.commitRequest r a) s =
    run regFoot (fun s => s.commitAccess r a) s := rfl
theorem exec_modeCommit (page : Nat) (s : State) : exec (.modeCommit page) s =
    runWhole (fun s => s.due_ (.commit page)) s := rfl
theorem exec_unitLateCommit (page : Nat) (s : State) : exec (.unitLateCommit page) s =
    runWhole (fun s => s.due_ (.lateCommit page)) s := rfl
theorem exec_mixedTimeout (s : State) : exec (.mixedTimeout) s =
    runWhole (fun s => s.due_ .mixedTimeout) s := rfl
theorem exec_regWrite (r : Requester) (a : RegAcc) (s : State) : exec (.regWrite r a) s =
    run regFoot (fun s => s.writeAccess r a []) s := rfl
theorem exec_blanketWrite (r : Requester) (a : RegAcc) (late : List Nat) (s : State) : exec (.blanketWrite r a late) s =
    run regFoot (fun s => s.blanketAccess r a late) s := rfl
theorem exec_unitEnable (page : Nat) (s : State) : exec (.unitEnable page) s =
    run moveFoot (fun s => s.unitOn page) s := rfl
theorem exec_gracefulDisable (page : Nat) (s : State) : exec (.gracefulDisable page) s =
    run { regs := true, ports := true } (fun s => s.unitOff page) s := rfl
theorem exec_forceOff (page : Nat) (s : State) : exec (.forceOff page) s =
    run { engines := true, forced := true, ports := true } (fun s => s.unitForceOff page) s := rfl
theorem exec_drainComplete (e : Fin 256) (s : State) : exec (.drainComplete e) s =
    run { regs := true, events := true } (fun s => s.drainDone e.val) s := rfl
theorem exec_forcedDisableEngine (e : Fin 256) (s : State) : exec (.forcedDisableEngine e) s =
    runWhole (fun s => s.due_ (.forceEngine e.val)) s := rfl
theorem exec_forcedDisableChannel (page : Nat) (s : State) : exec (.forcedDisableChannel page) s =
    runWhole (fun s => s.due_ (.forceChannel page)) s := rfl
theorem exec_forcedDisablePort (p : Fin 8) (s : State) : exec (.forcedDisablePort p) s =
    runWhole (fun s => s.due_ (.forcePort p.val)) s := rfl
theorem exec_queueTailWrite (e : Fin 256) (q : Fin 4) (v : Word) (s : State) : exec (.queueTailWrite e q v) s =
    run taskFoot (fun s => s.tailWrite e.val q.val v) s := rfl
theorem exec_descriptorFetch (e : Fin 256) (q : Fin 4) (s : State) : exec (.descriptorFetch e q) s =
    run moveFoot (fun s => s.fetch e.val q.val) s := rfl
theorem exec_fstopClear (e : Fin 256) (q : Fin 4) (s : State) : exec (.fstopClear e q) s =
    run moveFoot (fun s => s.fstopClear e.val q.val) s := rfl
theorem exec_invalidDescriptor (e : Fin 256) (q : Fin 4) (s : State) : exec (.invalidDescriptor e q) s =
    run { regs := true, events := true, engines := true, flights := true, mem := true, ports := true }
    (fun s => s.startInvalid e.val q.val) s := rfl
theorem exec_taskComplete (e : Fin 256) (q : Fin 4) (index : Word) (unitErr : Bool) (s : State) : exec (.taskComplete e q index unitErr) s =
    run { regs := true, events := true, engines := true, flights := true, mem := true, ports := true }
    (fun s => s.taskComplete e.val q.val index unitErr) s := rfl
theorem exec_tokenSignalArrive (s : State) : exec (.tokenSignalArrive) s =
    run { regs := true, events := true, flights := true, mem := true, xpt := true } (fun s => s.signalArrive) s := rfl
theorem exec_creditGiveArrive (s : State) : exec (.creditGiveArrive) s =
    run { regs := true, events := true, flights := true, mem := true } (fun s => s.giveArrive) s := rfl
theorem exec_engTcAdd (e : Fin 256) (v : Word) (s : State) : exec (.engTcAdd e v) s =
    run { regs := true, events := true, flights := true, mem := true, xpt := true } (fun s => s.tcAdd e.val v) s := rfl
theorem exec_engTcWrite (e : Fin 256) (t : Fin 64) (v : Word) (s : State) : exec (.engTcWrite e t v) s =
    run { regs := true, events := true } (fun s => s.tcWrite e.val t.val v) s := rfl
theorem exec_engCcWrite (e : Fin 256) (c : Fin 32) (v : Word) (s : State) : exec (.engCcWrite e c v) s =
    run { regs := true, events := true } (fun s => s.ccWrite e.val c.val v) s := rfl
theorem exec_stall (e : Fin 256) (s : State) : exec (.stall e) s =
    run taskFoot (fun s => s.stallCheck e.val) s := rfl
theorem exec_nop (e : Fin 256) (q : Fin 4) (s : State) : exec (.nop e q) s =
    run { regs := true, events := true, engines := true, flights := true, mem := true, ports := true }
    (fun s => s.startNop e.val q.val) s := rfl
theorem exec_tick (e : Fin 256) (q : Fin 4) (s : State) : exec (.tick e q) s =
    run { regs := true, events := true, engines := true, flights := true, mem := true, ports := true }
    (fun s => s.startTick e.val q.val) s := rfl
theorem exec_event (e : Fin 256) (q : Fin 4) (s : State) : exec (.event e q) s =
    run taskFoot (fun s => s.startTask e.val q.val .event noSlots noDests performControl) s := rfl
theorem exec_mmaFp8 (e : Fin 256) (q : Fin 4) (s : State) : exec (.mmaFp8 e q) s =
    run taskFoot (fun s => s.startTask e.val q.val .mmaFp8 mmaSlots mmaDests (performMma .mmaFp8)) s := rfl
theorem exec_mmaCode (e : Fin 256) (q : Fin 4) (s : State) : exec (.mmaCode e q) s =
    run taskFoot (fun s => s.startTask e.val q.val .mmaCode mmaSlots mmaDests (performMma .mmaCode)) s := rfl
theorem exec_mmaInt8 (e : Fin 256) (q : Fin 4) (s : State) : exec (.mmaInt8 e q) s =
    run taskFoot (fun s => s.startTask e.val q.val .mmaInt8 mmaSlots mmaDests (performMma .mmaInt8)) s := rfl
theorem exec_mmaBf16 (e : Fin 256) (q : Fin 4) (s : State) : exec (.mmaBf16 e q) s =
    run taskFoot (fun s => s.startTask e.val q.val .mmaBf16 mmaSlots mmaDests (performMma .mmaBf16)) s := rfl
theorem exec_tileZero (e : Fin 256) (q : Fin 4) (s : State) : exec (.tileZero e q) s =
    run taskFoot (fun s => s.startTask e.val q.val .tileZero tileOutSlots tileZeroDests performTileZero) s := rfl
theorem exec_tileOut (e : Fin 256) (q : Fin 4) (s : State) : exec (.tileOut e q) s =
    run taskFoot (fun s => s.startTask e.val q.val .tileOut tileOutSlots tileOutDests performTileOut) s := rfl
theorem exec_kvAppend (e : Fin 256) (q : Fin 4) (s : State) : exec (.kvAppend e q) s =
    run moveFoot (fun s => s.startTask e.val q.val .kvAppend tileOutSlots appendDests performKvAppend) s := rfl
theorem exec_tileSave (e : Fin 256) (q : Fin 4) (s : State) : exec (.tileSave e q) s =
    run moveFoot (fun s => s.startTask e.val q.val .tileSave allSlots tileSaveDests performTileSave) s := rfl
theorem exec_tileLoad (e : Fin 256) (q : Fin 4) (s : State) : exec (.tileLoad e q) s =
    run moveFoot (fun s => s.startTask e.val q.val .tileLoad allSlots tileLoadDests performTileLoad) s := rfl
theorem exec_chain (e : Fin 256) (q : Fin 4) (s : State) : exec (.chain e q) s =
    run taskFoot (fun s => s.startTask e.val q.val .chain chainSlots chainDests performChain) s := rfl
theorem exec_permute (e : Fin 256) (q : Fin 4) (s : State) : exec (.permute e q) s =
    run taskFoot
    (fun s => s.startTask e.val q.val .permute noSlots (vecDests streamWrites) (performVec streamWrites permuteReads runPermute)) s := rfl
theorem exec_shuffle (e : Fin 256) (q : Fin 4) (s : State) : exec (.shuffle e q) s =
    run taskFoot
    (fun s => s.startTask e.val q.val .shuffle noSlots (vecDests streamWrites) (performVec streamWrites shuffleReads runShuffle)) s := rfl
theorem exec_pack (e : Fin 256) (q : Fin 4) (s : State) : exec (.pack e q) s =
    run taskFoot
    (fun s => s.startTask e.val q.val .pack noSlots (vecDests packWrites) (performVec packWrites packReads runPack)) s := rfl
theorem exec_unpack (e : Fin 256) (q : Fin 4) (s : State) : exec (.unpack e q) s =
    run taskFoot
    (fun s => s.startTask e.val q.val .unpack noSlots (vecDests streamWrites) (performVec streamWrites unpackReads runUnpack)) s := rfl
theorem exec_rotary (e : Fin 256) (q : Fin 4) (s : State) : exec (.rotary e q) s =
    run taskFoot
    (fun s => s.startTask e.val q.val .rotary noSlots (vecDests streamWrites) (performVec streamWrites rotaryReads runRotary)) s := rfl
theorem exec_topk (e : Fin 256) (q : Fin 4) (s : State) : exec (.topk e q) s =
    run taskFoot
    (fun s => s.startTask e.val q.val .topk noSlots (vecDests topkWrites) (performVec topkWrites topkReads runTopk)) s := rfl
theorem exec_sample (e : Fin 256) (q : Fin 4) (s : State) : exec (.sample e q) s =
    run taskFoot
    (fun s => s.startTask e.val q.val .sample noSlots (vecDests sampleWrites) (performVec sampleWrites sampleReads runSample)) s := rfl
theorem exec_random (e : Fin 256) (q : Fin 4) (s : State) : exec (.random e q) s =
    run taskFoot
    (fun s => s.startTask e.val q.val .random noSlots (vecDests streamWrites) (performVec streamWrites randomReads runRandom)) s := rfl
theorem exec_quant (e : Fin 256) (q : Fin 4) (s : State) : exec (.quant e q) s =
    run moveFoot (fun s => s.startTask e.val q.val .quant noSlots quantDests performQuant) s := rfl
theorem exec_attnFwd (e : Fin 256) (q : Fin 4) (s : State) : exec (.attnFwd e q) s =
    run moveFoot (fun s => s.startTask e.val q.val .attnFwd noSlots (attnDests false) (performAttn false)) s := rfl
theorem exec_attnMerge (e : Fin 256) (q : Fin 4) (s : State) : exec (.attnMerge e q) s =
    run taskFoot (fun s => s.startTask e.val q.val .attnMerge noSlots mergeDests performMerge) s := rfl
theorem exec_attnBwd (e : Fin 256) (q : Fin 4) (s : State) : exec (.attnBwd e q) s =
    run moveFoot (fun s => s.startTask e.val q.val .attnBwd noSlots (attnDests true) (performAttn true)) s := rfl
theorem exec_load (e : Fin 256) (q : Fin 4) (s : State) : exec (.load e q) s =
    run moveFoot (fun s => s.startTask e.val q.val .load noSlots loadDests performLoad) s := rfl
theorem exec_store (e : Fin 256) (q : Fin 4) (s : State) : exec (.store e q) s =
    run moveFoot (fun s => s.startTask e.val q.val .store noSlots storeDests performStore) s := rfl
theorem exec_accum (e : Fin 256) (q : Fin 4) (s : State) : exec (.accum e q) s =
    run moveFoot (fun s => s.startTask e.val q.val .accum noSlots storeDests performAccum) s := rfl
theorem exec_copy (e : Fin 256) (q : Fin 4) (s : State) : exec (.copy e q) s =
    run moveFoot (fun s => s.startTask e.val q.val .copy noSlots copyDests performCopy) s := rfl
theorem exec_brinePack (e : Fin 256) (q : Fin 4) (s : State) : exec (.brinePack e q) s =
    run moveFoot (fun s => s.startTask e.val q.val .brinePack noSlots packDests performBrinePack) s := rfl
theorem exec_brineUnpack (e : Fin 256) (q : Fin 4) (s : State) : exec (.brineUnpack e q) s =
    run moveFoot (fun s => s.startTask e.val q.val .brineUnpack noSlots unpackDests performBrineUnpack) s := rfl
theorem exec_stackAccess (a : StackAcc) (s : State) : exec (.stackAccess a) s =
    run memFoot (fun s => s.stackAccess a) s := rfl
theorem exec_nmaOperation (a : NmaAcc) (s : State) : exec (.nmaOperation a) s =
    run memFoot (fun s => s.nmaAccess a) s := rfl
theorem exec_lockTimeout (chan : Fin 4096) (s : State) : exec (.lockTimeout chan) s =
    run memFoot (fun s => s.lockTimeout chan.val) s := rfl
theorem exec_scrubRead (chan : Fin 4096) (upset : Upset) (s : State) : exec (.scrubRead chan upset) s =
    run memFoot (fun s => s.scrubNext chan.val upset) s := rfl
theorem exec_refresh (chan : Fin 4096) (s : State) : exec (.refresh chan) s =
    run { mem := true } (fun s => s.refreshNext chan.val) s := rfl
theorem exec_dieTempReading (core : Fin 8) (die : Fin 16) (temp : BitVec 10) (s : State) : exec (.dieTempReading core die temp) s =
    run { regs := true, events := true, mem := true, ports := true, pwr := true } (fun s => s.dieSensor core.val die.val temp) s := rfl
theorem exec_wbAll (core : Fin 8) (s : State) : exec (.wbAll core) s =
    run memFoot (fun s => s.wbAll core.val) s := rfl
theorem exec_flushDone (core : Fin 8) (s : State) : exec (.flushDone core) s =
    run memFoot (fun s => s.flushDone core.val) s := rfl
theorem exec_wcFlush (core : Fin 8) (s : State) : exec (.wcFlush core) s =
    run memFoot (fun s => s.wcFlush core.val) s := rfl
theorem exec_wcTimeout (core : Fin 8) (s : State) : exec (.wcTimeout core) s =
    run memFoot (fun s => s.wcTimeout core.val) s := rfl
theorem exec_cchSramError (core : Fin 8) (w : SramWhere) (s : State) : exec (.cchSramError core w) s =
    run memFoot (fun s => s.sramError core.val w) s := rfl
theorem exec_tgStart (chan : Fin 4096) (s : State) : exec (.tgStart chan) s =
    run { regs := true, mem := true } (fun s => s.tgStart chan.val) s := rfl
theorem exec_tgStop (chan : Fin 4096) (s : State) : exec (.tgStop chan) s =
    run { regs := true } (fun s => s.tgStop chan.val) s := rfl
theorem exec_tgLineOperation (chan : Fin 4096) (upset : Upset) (s : State) : exec (.tgLineOperation chan upset) s =
    run memFoot (fun s => s.tgLineOp chan.val upset) s := rfl
theorem exec_tgDone (chan : Fin 4096) (s : State) : exec (.tgDone chan) s =
    run memFoot (fun s => s.tgDone chan.val) s := rfl
theorem exec_pageWalk (engine : Option (Fin 256)) (ctx : Fin 64) (va : Nat) (s : State) : exec (.pageWalk engine ctx va) s =
    run moveFoot (fun s => s.pageWalk (engine.map (·.val)) ctx.val va) s := rfl
theorem exec_engXlInv (e : Fin 256) (v : Dword) (s : State) : exec (.engXlInv e v) s =
    run { engines := true } (fun s => s.engInv e.val v) s := rfl
theorem exec_coreXlInv (core : Fin 8) (v : Dword) (s : State) : exec (.coreXlInv core v) s =
    run { mem := true } (fun s => s.coreInv core.val v) s := rfl
theorem exec_boardAccess (a : BoardAcc) (s : State) : exec (.boardAccess a) s =
    run memFoot (fun s => s.boardAccess a) s := rfl
theorem exec_hostWindowAccess (a : HostAcc) (s : State) : exec (.hostWindowAccess a) s =
    run { regs := true, events := true, mem := true, ports := true } (fun s => s.hostAccess a) s := rfl
theorem exec_lowerTierLate (i : Nat) (s : State) : exec (.lowerTierLate i) s =
    run moveFoot (fun s => s.lowerLate i false) s := rfl
theorem exec_lowerTierFailed (i : Nat) (s : State) : exec (.lowerTierFailed i) s =
    run moveFoot (fun s => s.lowerLate i true) s := rfl
theorem exec_boardTrained (n : Fin 16) (s : State) : exec (.boardTrained n) s =
    run { regs := true, mem := true } (fun s => s.boardTrained n.val) s := rfl
theorem exec_fabRetrain (p : Fin 8) (s : State) : exec (.fabRetrain p) s =
    run { regs := true, ports := true } (fun s => s.fullTraining p.val) s := rfl
theorem exec_gtxRetrain (s : State) : exec (.gtxRetrain) s =
    run { regs := true, ports := true } (fun s => s.fullTraining 8) s := rfl
theorem exec_portRetryExpiry (p : Fin 8) (s : State) : exec (.portRetryExpiry p) s =
    run { regs := true, ports := true } (fun s => s.retryExpiry p.val) s := rfl
theorem exec_detectTimeout (p : Fin 9) (s : State) : exec (.detectTimeout p) s =
    run { regs := true, ports := true } (fun s => s.detectTimeout p.val) s := rfl
theorem exec_peerDetected (p : Fin 9) (eth : Bool) (s : State) : exec (.peerDetected p eth) s =
    run { regs := true } (fun s => s.peerDetected p.val eth) s := rfl
theorem exec_equaliseDone (p : Fin 9) (s : State) : exec (.equaliseDone p) s =
    run { regs := true } (fun s => s.equaliseDone p.val) s := rfl
theorem exec_qualifyDone (p : Fin 9) (r : QualifyResult) (s : State) : exec (.qualifyDone p r) s =
    run linkFoot (fun s => s.qualifyDone p.val r) s := rfl
theorem exec_negotiationRecord (p : Fin 9) (r : NegRecord) (s : State) : exec (.negotiationRecord p r) s =
    run { mem := true, regs := true, events := true, ports := true, tokens := true } (fun s => s.negotiate p.val r) s := rfl
theorem exec_codewordReceive (p : Fin 9) (c : Codeword) (s : State) : exec (.codewordReceive p c) s =
    run { regs := true, tide := true, events := true, ports := true } (fun s => s.codeword p.val c) s := rfl
theorem exec_flitReceive (p : Fin 9) (f : Flit) (s : State) : exec (.flitReceive p f) s =
    run linkFoot (fun s => s.flitReceive p.val f) s := rfl
theorem exec_llrTimeout (p : Fin 9) (s : State) : exec (.llrTimeout p) s =
    run linkFoot (fun s => s.llrTimeout p.val) s := rfl
theorem exec_packetSend (p : Fin 9) (s : State) : exec (.packetSend p) s =
    run { ports := true } (fun s => s.packetSend p.val) s := rfl
theorem exec_laneLossOfLock (p : Fin 9) (lane : Fin 8) (s : State) : exec (.laneLossOfLock p lane) s =
    run linkFoot (fun s => s.laneFail p.val lane.val) s := rfl
theorem exec_laneCeLimit (p : Fin 9) (lane : Fin 8) (count : Nat) (s : State) : exec (.laneCeLimit p lane count) s =
    run linkFoot (fun s => s.laneCe p.val lane.val count) s := rfl
theorem exec_retrainTimeout (p : Fin 9) (s : State) : exec (.retrainTimeout p) s =
    run linkFoot (fun s => s.retrainTimeout p.val) s := rfl
theorem exec_portDrained (p : Fin 8) (s : State) : exec (.portDrained p) s =
    run linkFoot (fun s => s.portDrained p.val) s := rfl
theorem exec_ethFrameReceive (p : Fin 8) (f : EthFrame) (s : State) : exec (.ethFrameReceive p f) s =
    run { ports := true } (fun s => s.ethFrame p.val f) s := rfl
theorem exec_pfcFrameReceive (p : Fin 8) (prio : Fin 8) (quanta : BitVec 16) (s : State) : exec (.pfcFrameReceive p prio quanta) s =
    run { ports := true } (fun s => s.pfcReceive p.val prio.val quanta) s := rfl
theorem exec_pfcRefresh (p : Fin 8) (prio : Fin 8) (s : State) : exec (.pfcRefresh p prio) s =
    run {} (fun s => s.pfcRefresh p.val prio.val) s := rfl
theorem exec_pfcStorm (p : Fin 8) (prio : Fin 8) (s : State) : exec (.pfcStorm p prio) s =
    run { events := true, ports := true } (fun s => s.pfcStorm p.val prio.val) s := rfl
theorem exec_regRd (tag : BitVec 16) (off : Nat) (size : Nat) (s : State) : exec (.regRd tag off size) s =
    run { regs := true, tide := true, events := true, ports := true, xpt := true, sec := true } (fun s => s.hostRegRead tag off size) s := rfl
theorem exec_regWr (tag : BitVec 16) (a : RegAcc) (s : State) : exec (.regWr tag a) s =
    run regFoot (fun s => s.hostRegWrite tag a) s := rfl
theorem exec_dmaCpl (tag : Nat) (status : BitVec 8) (bytes : List Byte) (s : State) : exec (.dmaCpl tag status bytes) s =
    run moveFoot (fun s => s.hostArrive tag (status == 0) bytes) s := rfl
theorem exec_doorbell (off : Nat) (data : Dword) (s : State) : exec (.doorbell off data) s =
    run regFoot (fun s => s.doorbell off data) s := rfl
theorem exec_gtxTsDevProdWrite (v : Word) (s : State) : exec (.gtxTsDevProdWrite v) s =
    run { mem := true, regs := true, events := true, ports := true, tokens := true } (fun s => s.tsDevProd v) s := rfl
theorem exec_tsFlushExpiry (s : State) : exec (.tsFlushExpiry) s =
    run { mem := true, regs := true, events := true, ports := true, tokens := true } (fun s => s.tsFlushExpiry) s := rfl
theorem exec_tsFlush (s : State) : exec (.tsFlush) s =
    run { mem := true, regs := true, events := true, ports := true, tokens := true } (fun s => s.tsFlush) s := rfl
theorem exec_gtxTsConsWrite (v : Word) (s : State) : exec (.gtxTsConsWrite v) s =
    run { mem := true, regs := true, events := true, ports := true, tokens := true } (fun s => s.tsCons v) s := rfl
theorem exec_tsStall (s : State) : exec (.tsStall) s =
    run { events := true, tokens := true } (fun s => s.tsStall) s := rfl
theorem exec_qpDoorbell (qp : Fin 65536) (lo : Bool) (hi : Bool) (data : Dword) (s : State) : exec (.qpDoorbell qp lo hi data) s =
    run packetFoot (fun s => s.ring qp.val lo hi data) s := rfl
theorem exec_sendWqe (qp : Fin 65536) (s : State) : exec (.sendWqe qp) s =
    run packetFoot (fun s => s.startWqe qp.val opSend) s := rfl
theorem exec_writeWqe (qp : Fin 65536) (s : State) : exec (.writeWqe qp) s =
    run packetFoot (fun s => s.startWqe qp.val opWrite) s := rfl
theorem exec_readWqe (qp : Fin 65536) (s : State) : exec (.readWqe qp) s =
    run packetFoot (fun s => s.startWqe qp.val opRead) s := rfl
theorem exec_atomicWqe (qp : Fin 65536) (s : State) : exec (.atomicWqe qp) s =
    run packetFoot (fun s => s.startWqe qp.val opAtomic) s := rfl
theorem exec_addWriteWqe (qp : Fin 65536) (s : State) : exec (.addWriteWqe qp) s =
    run packetFoot (fun s => s.startWqe qp.val opAdd) s := rfl
theorem exec_rakeWqe (qp : Fin 65536) (s : State) : exec (.rakeWqe qp) s =
    run packetFoot (fun s => s.startWqe qp.val opRake) s := rfl
theorem exec_send (p : Fin 8) (k : Packet) (s : State) : exec (.send p k) s =
    run packetFoot (fun s => s.rxSend p.val k) s := rfl
theorem exec_write (p : Fin 8) (k : Packet) (s : State) : exec (.write p k) s =
    run regFoot (fun s => s.rxWrite p.val k false State.regAccess) s := rfl
theorem exec_addWrite (p : Fin 8) (k : Packet) (s : State) : exec (.addWrite p k) s =
    run regFoot (fun s => s.rxWrite p.val k true State.regAccess) s := rfl
theorem exec_readReq (p : Fin 8) (k : Packet) (s : State) : exec (.readReq p k) s =
    run regFoot (fun s => s.rxRead p.val k State.regAccess) s := rfl
theorem exec_readResp (p : Fin 8) (k : Packet) (s : State) : exec (.readResp p k) s =
    run packetFoot (fun s => s.rxReadResp p.val k) s := rfl
theorem exec_atomic (p : Fin 8) (k : Packet) (s : State) : exec (.atomic p k) s =
    run packetFoot (fun s => s.rxAtomic p.val k) s := rfl
theorem exec_atomicResp (p : Fin 8) (k : Packet) (s : State) : exec (.atomicResp p k) s =
    run packetFoot (fun s => s.rxAtomicResp p.val k) s := rfl
theorem exec_ack (p : Fin 8) (k : Packet) (s : State) : exec (.ack p k) s =
    run packetFoot (fun s => s.rxAck p.val k) s := rfl
theorem exec_abort (p : Fin 8) (k : Packet) (s : State) : exec (.abort p k) s =
    run packetFoot (fun s => s.rxAbort p.val k) s := rfl
theorem exec_cm (p : Fin 8) (k : Packet) (s : State) : exec (.cm p k) s =
    run { packetFoot with srv := true } (fun s => s.rxCm p.val k) s := rfl
theorem exec_delayedAck (qp : Fin 65536) (s : State) : exec (.delayedAck qp) s =
    runWhole (fun s => s.due_ (.delayedAck qp.val)) s := rfl
theorem exec_retransmitTimeout (qp : Fin 65536) (s : State) : exec (.retransmitTimeout qp) s =
    run packetFoot (fun s => s.retransmit qp.val) s := rfl
theorem exec_rnrDelayExpiry (qp : Fin 65536) (s : State) : exec (.rnrDelayExpiry qp) s =
    run packetFoot (fun s => s.rnrExpiry qp.val) s := rfl
theorem exec_qpInit (qp : Fin 65536) (s : State) : exec (.qpInit qp) s =
    run { regs := true, events := true, mem := true, ports := true, xpt := true } (fun s => s.qpInit qp.val) s := rfl
theorem exec_qpRtr (qp : Fin 65536) (s : State) : exec (.qpRtr qp) s =
    run { regs := true, xpt := true } (fun s => s.qpRtr qp.val) s := rfl
theorem exec_qpRts (qp : Fin 65536) (s : State) : exec (.qpRts qp) s =
    run { regs := true, xpt := true } (fun s => s.qpRts qp.val) s := rfl
theorem exec_qpDrain (qp : Fin 65536) (s : State) : exec (.qpDrain qp) s =
    run packetFoot (fun s => s.qpDrain qp.val) s := rfl
theorem exec_qpForce (qp : Fin 65536) (s : State) : exec (.qpForce qp) s =
    run { regs := true, xpt := true } (fun s => s.qpForce qp.val) s := rfl
theorem exec_qpCancel (qp : Fin 65536) (s : State) : exec (.qpCancel qp) s =
    runWhole (fun s => s.due_ (.qpCancel qp.val)) s := rfl
theorem exec_qpReset (qp : Fin 65536) (s : State) : exec (.qpReset qp) s =
    run { regs := true, xpt := true, srv := true } (fun s => s.qpReset qp.val) s := rfl
theorem exec_migrate (qp : Fin 65536) (port : Fin 8) (s : State) : exec (.migrate qp port) s =
    run packetFoot (fun s => s.migrate qp.val port.val) s := rfl
theorem exec_register (index : BitVec 20) (s : State) : exec (.register index) s =
    run { regs := true, events := true, mem := true, ports := true } (fun s => s.registerRegion index.toNat) s := rfl
theorem exec_revokeRegion (index : BitVec 20) (s : State) : exec (.revokeRegion index) s =
    run { regs := true, events := true, mem := true, ports := true, xpt := true } (fun s => s.revokeFence index.toNat) s := rfl
theorem exec_rgnDone (s : State) : exec (.rgnDone) s =
    run { regs := true, events := true, mem := true, ports := true, xpt := true } (fun s => s.revokeDone) s := rfl
theorem exec_crewEnable (n : Fin 16) (ctrl : Word) (s : State) : exec (.crewEnable n ctrl) s =
    run { regs := true, xpt := true } (fun s => s.crewEnable n.val ctrl) s := rfl
theorem exec_crewDisable (n : Fin 16) (s : State) : exec (.crewDisable n) s =
    run { regs := true } (fun s => s.crewDisable n.val) s := rfl
theorem exec_rakeReq (p : Fin 8) (k : Packet) (s : State) : exec (.rakeReq p k) s =
    run packetFoot (fun s => s.rxRake p.val k) s := rfl
theorem exec_rakeReply (n : Fin 16) (e : Fin 256) (s : State) : exec (.rakeReply n e) s =
    run { regs := true, events := true, engines := true, mem := true, ports := true, xpt := true }
    (fun s => s.rakeReply n.val e.val) s := rfl
theorem exec_rakeResp (p : Fin 8) (k : Packet) (s : State) : exec (.rakeResp p k) s =
    run packetFoot (fun s => s.rxRakeResp p.val k) s := rfl
theorem exec_srvCmdTailWrite (v : Word) (wrote : List HostSpan) (s : State) : exec (.srvCmdTailWrite v wrote) s =
    run firmFoot (fun s => (s.hostWrote wrote).srvTail v) s := rfl
theorem exec_submit (s : State) : exec (.submit) s =
    runFirm firmFoot (fun s => s.command 1 fun s x => s.submit x.rec_ x.block) s := rfl
theorem exec_cancel (s : State) : exec (.cancel) s =
    runFirm firmFoot (fun s => s.command 2 fun s x => s.cancel x.rec_) s := rfl
theorem exec_park (s : State) : exec (.park) s =
    runFirm firmFoot (fun s => s.command 3 fun s x => s.park x) s := rfl
theorem exec_resume (s : State) : exec (.resume) s =
    runFirm firmFoot (fun s => s.command 4 fun s x => s.resume x.rec_) s := rfl
theorem exec_draft (s : State) : exec (.draft) s =
    runFirm firmFoot (fun s => s.command 5 fun s x => s.draft x.rec_ x.block) s := rfl
theorem exec_adapterLoad (s : State) : exec (.adapterLoad) s =
    runFirm firmFoot (fun s => s.command 6 fun s x => s.adapterLoad x.rec_) s := rfl
theorem exec_adapterRetire (s : State) : exec (.adapterRetire) s =
    runFirm firmFoot (fun s => s.command 7 fun s x => s.adapterRetire x.rec_) s := rfl
theorem exec_budget (s : State) : exec (.budget) s =
    runFirm firmFoot (fun s => s.command 8 fun s x => s.budgetSet x.rec_) s := rfl
theorem exec_query (s : State) : exec (.query) s =
    runFirm firmFoot (fun s => s.command 9 fun s x => s.query x.rec_) s := rfl
theorem exec_fence (s : State) : exec (.fence) s =
    runFirm firmFoot (fun s => s.command 10 fun s x => s.fence x) s := rfl
theorem exec_srvCplConsWrite (v : Word) (s : State) : exec (.srvCplConsWrite v) s =
    run firmFoot (fun s => s.srvCons v) s := rfl
theorem exec_basketBuild (s : State) : exec (.basketBuild) s =
    runFirm { regs := true, events := true, engines := true, mem := true, ports := true, srv := true }
    (fun s => s.basketBuild) s := rfl
theorem exec_rowCompletion (row : Nat) (r : RowResult) (s : State) : exec (.rowCompletion row r) s =
    runFirm { regs := true, events := true, engines := true, mem := true, ports := true, srv := true, tokens := true }
    (fun s => s.rowCompletion row r) s := rfl
theorem exec_weightReloadComplete (page : Nat) (golden : List Nat) (frame : Nat) (s : State) : exec (.weightReloadComplete page golden frame) s =
    runFirm { regs := true, events := true, engines := true, mem := true, ports := true, srv := true }
    (fun s => s.weightReload page golden frame) s := rfl
theorem exec_rerunRelease (s : State) : exec (.rerunRelease) s =
    run { regs := true, events := true, flights := true, mem := true, xpt := true, srv := true } (fun s => s.rerunRelease) s := rfl
theorem exec_swapComplete (i : Nat) (e : Fin 256) (ok : Bool) (s : State) : exec (.swapComplete i e ok) s =
    runFirm firmFoot (fun s => s.swapComplete i e.val ok) s := rfl
theorem exec_restoreComplete (i : Nat) (e : Fin 256) (ok : Bool) (s : State) : exec (.restoreComplete i e ok) s =
    runFirm firmFoot (fun s => s.restoreComplete i e.val ok) s := rfl
theorem exec_thermosMovesComplete (i : Nat) (e : Fin 256) (ok : Bool) (s : State) : exec (.thermosMovesComplete i e ok) s =
    runFirm firmFoot (fun s => s.thermosComplete i e.val ok) s := rfl
theorem exec_pageRelease (i : Nat) (s : State) : exec (.pageRelease i) s =
    runFirm firmFoot (fun s => s.pageRelease i) s := rfl
theorem exec_thermosExpiry (i : Nat) (s : State) : exec (.thermosExpiry i) s =
    runFirm { regs := true, srv := true } (fun s => s.thermosExpiry i) s := rfl
theorem exec_thermosRelease (i : Nat) (s : State) : exec (.thermosRelease i) s =
    runFirm firmFoot (fun s => s.thermosRelease i) s := rfl
theorem exec_ttftDeadlineExpiry (i : Nat) (s : State) : exec (.ttftDeadlineExpiry i) s =
    runFirm firmFoot (fun s => s.ttftExpiry i) s := rfl
theorem exec_srvCoreBeat (n : Fin 4) (s : State) : exec (.srvCoreBeat n) s =
    run { regs := true, srv := true } (fun s => s.coreBeat n.val) s := rfl
theorem exec_cswSave (e : Fin 256) (slot : BitVec 2) (s : State) : exec (.cswSave e slot) s =
    run moveFoot (fun s => s.cswSave e.val slot.toNat) s := rfl
theorem exec_cswLoad (e : Fin 256) (slot : BitVec 2) (s : State) : exec (.cswLoad e slot) s =
    run moveFoot (fun s => s.cswLoad e.val slot.toNat) s := rfl
theorem exec_cswDone (e : Fin 256) (s : State) : exec (.cswDone e) s =
    run { regs := true, events := true, engines := true, srv := true } (fun s => s.cswDone e.val) s := rfl
theorem exec_contextBlocked (ctx : Fin 64) (s : State) : exec (.contextBlocked ctx) s =
    runFirm { srv := true } (fun s => s.contextBlocked ctx.val) s := rfl
theorem exec_shareWindow (s : State) : exec (.shareWindow) s =
    run { srv := true } (fun s => s.shareWindow) s := rfl
theorem exec_acctPeriod (s : State) : exec (.acctPeriod) s =
    run firmFoot (fun s => s.acctPeriod) s := rfl
theorem exec_staticModeEntry (v : Word) (s : State) : exec (.staticModeEntry v) s =
    run { regs := true } (fun s => s.rtCfg v) s := rfl
theorem exec_evtRearm (v : Word) (s : State) : exec (.evtRearm v) s =
    run { regs := true } (fun s => s.evtRearm v) s := rfl
theorem exec_take (s : State) : exec (.take) s =
    run { regs := true, tide := true } (fun s => s.snapArm true false) s := rfl
theorem exec_release (s : State) : exec (.release) s =
    run { regs := true } (fun s => s.snapRelease) s := rfl
theorem exec_clear (s : State) : exec (.clear) s =
    run { regs := true, tide := true } (fun s => s.snapArm false true) s := rfl
theorem exec_spadUe (e : Fin 256) (w : SpadWhere) (s : State) : exec (.spadUe e w) s =
    run taskFoot (fun s => s.spadUe e.val w) s := rfl
theorem exec_dataPoisonException (_n : Fin 4) (w : PoisonRecord) (s : State) : exec (.dataPoisonException _n w) s =
    run firmFoot (fun s => s.dataPoison w) s := rfl
theorem exec_pwrCapWrite (v : Word) (s : State) : exec (.pwrCapWrite v) s =
    run { regs := true } (fun s => s.plainWrite Reg.pwrCap v) s := rfl
theorem exec_pwrCapBmcWrite (v : Word) (s : State) : exec (.pwrCapBmcWrite v) s =
    run { regs := true, events := true } (fun s => s.capBmcWrite v) s := rfl
theorem exec_emerg (s : State) : exec (.emerg) s =
    run { regs := true } (fun s => s.wb Reg.pwrCtrl 0 true) s := rfl
theorem exec_smbSetOffset (b0 : Byte) (b1 : Byte) (s : State) : exec (.smbSetOffset b0 b1) s =
    run { pwr := true } (fun s => s.smbSetOffset b0 b1) s := rfl
theorem exec_smbRead (s : State) : exec (.smbRead) s =
    run { regs := true, tide := true, events := true, sec := true } (fun s => s.smbRead) s := rfl
theorem exec_smbWrite (off : BitVec 12) (v : Word) (s : State) : exec (.smbWrite off v) s =
    run { regs := true, events := true } (fun s => s.smbWrite off.toNat v) s := rfl
theorem exec_sensorReading (n : Fin 36) (temp : BitVec 10) (s : State) : exec (.sensorReading n temp) s =
    run { regs := true, events := true, ports := true, pwr := true } (fun s => s.sensorReading n.val temp) s := rfl
theorem exec_pwrGoodFall (s : State) : exec (.pwrGoodFall) s =
    run { regs := true, events := true, ports := true, pwr := true } (fun s => s.pwrGoodFall) s := rfl
theorem exec_railFault (r : Fin 38) (s : State) : exec (.railFault r) s =
    run { regs := true, events := true, ports := true, pwr := true } (fun s => s.railFault r.val) s := rfl
theorem exec_resetAssert (s : State) : exec (.resetAssert) s =
    runPower (fun s => s.resetAssert) s := rfl
theorem exec_resetRelease (s : State) : exec (.resetRelease) s =
    runPower (fun s => s.resetRelease) s := rfl
theorem exec_powerRemoval (s : State) : exec (.powerRemoval) s =
    runPower (fun s => s.powerRemoval) s := rfl
theorem exec_fuseLoad (f : FuseSense) (s : State) : exec (.fuseLoad f) s =
    run { regs := true, tide := true, events := true, ports := true, sec := true } (fun s => s.fuseLoad f) s := rfl
theorem exec_fetch (f : FlashRead) (s : State) : exec (.fetch f) s =
    run { regs := true, events := true, ports := true, sec := true } (fun s => s.fetchImage f) s := rfl
theorem exec_verify (s : State) : exec (.verify) s =
    run { regs := true, events := true, ports := true, sec := true } (fun s => s.verifyImage) s := rfl
theorem exec_config (s : State) : exec (.config) s =
    run regFoot (fun s => s.configure) s := rfl
theorem exec_wr32 (s : State) : exec (.wr32) s =
    run regFoot (fun s => s.record 1 0) s := rfl
theorem exec_wr64 (s : State) : exec (.wr64) s =
    run regFoot (fun s => s.record 2 0) s := rfl
theorem exec_poll32 (elapsed : Word) (s : State) : exec (.poll32 elapsed) s =
    run regFoot (fun s => s.record 3 elapsed.toNat) s := rfl
theorem exec_delay (elapsed : Word) (s : State) : exec (.delay elapsed) s =
    run regFoot (fun s => s.record 4 elapsed.toNat) s := rfl
theorem exec_released (s : State) : exec (.released) s =
    run { regs := true, events := true, ports := true, sec := true } (fun s => s.release) s := rfl
theorem exec_pwrReset (v : Word) (s : State) : exec (.pwrReset v) s =
    run mailFoot (fun s => s.resetRequest v) s := rfl
theorem exec_warmReset (s : State) : exec (.warmReset) s =
    runWhole (fun s => s.warmReset) s := rfl
theorem exec_identityDerivation (s : State) : exec (.identityDerivation) s =
    run { sec := true } (fun s => s.deriveIdentity) s := rfl
theorem exec_mbxClaim (r : Requester) (v : Word) (s : State) : exec (.mbxClaim r v) s =
    run mailFoot (fun s => s.mbxCtrlAccess r (State.mbxClaim · r v)) s := rfl
theorem exec_mbxRelease (r : Requester) (s : State) : exec (.mbxRelease r) s =
    run mailFoot (fun s => s.mbxCtrlAccess r (State.mbxRelease · r)) s := rfl
theorem exec_mbxInputWord (r : Requester) (v : Dword) (s : State) : exec (.mbxInputWord r v) s =
    run regFoot (fun s => s.writeAccess r { off := Reg.secMbxIn, size := 8, data := v } []) s := rfl
theorem exec_mbxOutputRead (r : Requester) (s : State) : exec (.mbxOutputRead r) s =
    run { regs := true, events := true, sec := true } (fun s => s.mbxOutput r) s := rfl
theorem exec_getId (s : State) : exec (.getId) s =
    run mailFoot (fun s => s.getId) s := rfl
theorem exec_getChallenge (s : State) : exec (.getChallenge) s =
    run mailFoot (fun s => s.getChallenge) s := rfl
theorem exec_attest (s : State) : exec (.attest) s =
    run mailFoot (fun s => s.attest) s := rfl
theorem exec_enroll (progOk : Bool) (s : State) : exec (.enroll progOk) s =
    run mailFoot (fun s => s.enroll progOk) s := rfl
theorem exec_revoke (progOk : Bool) (s : State) : exec (.revoke progOk) s =
    run mailFoot (fun s => s.revokeOwner progOk) s := rfl
theorem exec_setPartMode (progOk : Bool) (s : State) : exec (.setPartMode progOk) s =
    run mailFoot (fun s => s.setPartMode progOk) s := rfl
theorem exec_rollbackAdvance (progOk : Bool) (s : State) : exec (.rollbackAdvance progOk) s =
    run mailFoot (fun s => s.rollbackAdvance progOk) s := rfl
theorem exec_debugLock (progOk : Bool) (s : State) : exec (.debugLock progOk) s =
    run mailFoot (fun s => s.debugLockCmd progOk) s := rfl
theorem exec_pkeyAdd (s : State) : exec (.pkeyAdd) s =
    run mailFoot (fun s => s.pkeyAdd) s := rfl
theorem exec_pkeyRemove (s : State) : exec (.pkeyRemove) s =
    run { regs := true, events := true, mem := true, ports := true, sec := true } (fun s => s.pkeyRemove) s := rfl
theorem exec_mgmtKey (s : State) : exec (.mgmtKey) s =
    run mailFoot (fun s => s.mgmtKeySet) s := rfl
theorem exec_image (s : State) : exec (.image) s =
    run mailFoot (fun s => s.imageCmd) s := rfl
theorem exec_powerUp (s : State) : exec (.powerUp) s =
    runPower (fun s => s.powerUp) s := rfl
theorem exec_hamperTrackerStart (s : State) : exec (.hamperTrackerStart) s =
    run firmFoot (fun s => s.trackerStart) s := rfl
theorem exec_engAccDataRead (e : Fin 256) (r : Requester) (s : State) : exec (.engAccDataRead e r) s =
    run { regs := true, tide := true, events := true, sec := true } (fun s => s.readAccess r (Reg.engAccData e.val)) s := rfl
theorem exec_tideNowRead (r : Requester) (elapsed : BitVec 10) (s : State) : exec (.tideNowRead r elapsed) s =
    run { tide := true, events := true } (fun s => s.tideNowRead r elapsed.toNat) s := rfl
theorem exec_pfcPauseExpiry (p : Fin 8) (prio : Fin 8) (s : State) : exec (.pfcPauseExpiry p prio) s =
    run { ports := true } (fun s => s.pfcExpiry p.val prio.val) s := rfl

end Sys2Proof.Machine
end

