-- ==== Sys2Proof/Laws/Frame.lean ====
section
/-! SUPPORT. What the shared memory operations may change: each keeps to its footprint, and so does every walk over lines. -/
namespace Sys2Proof.Machine

/-- t is s changed inside a footprint. -/
structure Keeps (fp : Footprint) (s t : State) : Prop where
  pending : t.pending = s.pending
  due : t.due = s.due
  regs : fp.regs = false → t.regs = s.regs
  tide : fp.tide = false → t.tide = s.tide
  commit : fp.commit = false → t.commit = s.commit
  evq : fp.events = false → t.evq = s.evq
  evtAt : fp.events = false → t.evtAt = s.evtAt
  logq : fp.events = false → t.logq = s.logq
  engines : fp.engines = false → t.engines = s.engines
  signals : fp.flights = false → t.signals = s.signals
  gives : fp.flights = false → t.gives = s.gives
  heldSignals : fp.flights = false → t.heldSignals = s.heldSignals
  forced : fp.forced = false → t.forced = s.forced
  mem : fp.mem = false → t.mem = s.mem
  ports : fp.ports = false → t.ports = s.ports
  xpt : fp.xpt = false → t.xpt = s.xpt
  srv : fp.srv = false → t.srv = s.srv
  pwr : fp.pwr = false → t.pwr = s.pwr
  sec : fp.sec = false → t.sec = s.sec
  tsMarks : fp.tokens = false → t.tsMarks = s.tsMarks
  tsFull : fp.tokens = false → t.tsFull = s.tsFull

theorem Keeps.refl (fp : Footprint) (s : State) : Keeps fp s s := by constructor <;> simp

theorem Keeps.trans {fp : Footprint} {s t u : State} (h : Keeps fp s t) (g : Keeps fp t u) : Keeps fp s u :=
  ⟨g.1.trans h.1, g.2.trans h.2, fun x => (g.3 x).trans (h.3 x), fun x => (g.4 x).trans (h.4 x), fun x => (g.5 x).trans (h.5 x),
    fun x => (g.6 x).trans (h.6 x), fun x => (g.7 x).trans (h.7 x), fun x => (g.8 x).trans (h.8 x), fun x => (g.9 x).trans (h.9 x),
    fun x => (g.10 x).trans (h.10 x), fun x => (g.11 x).trans (h.11 x), fun x => (g.12 x).trans (h.12 x),
    fun x => (g.13 x).trans (h.13 x), fun x => (g.14 x).trans (h.14 x), fun x => (g.15 x).trans (h.15 x),
    fun x => (g.16 x).trans (h.16 x), fun x => (g.17 x).trans (h.17 x), fun x => (g.18 x).trans (h.18 x),
    fun x => (g.19 x).trans (h.19 x), fun x => (g.20 x).trans (h.20 x), fun x => (g.21 x).trans (h.21 x)⟩

/-- Whatever a footprint is applied to keeps to it. -/
theorem keeps_apply (fp : Footprint) (s t : State) : Keeps fp s (fp.apply s t) := by constructor <;> simp_all

theorem keeps_of {α : Type} (fp : Footprint) (s : State) (r : State × α) : Keeps fp s (fp.of s r).1 := keeps_apply fp s r.1

theorem keeps_within (s : State) (fp : Footprint) (f : State → State) : Keeps fp s (s.within fp f) := keeps_apply fp s (f s)

/-- What keeps to the memories keeps to what a unit with its own translation cache may change. -/
theorem Keeps.low {s t : State} (h : Keeps lowFoot s t) : Keeps moveFoot s t := by
  constructor <;> first | exact h.pending | exact h.due | skip
  all_goals first
    | exact fun x => absurd x (by decide)
    | exact fun _ => h.tide rfl | exact fun _ => h.commit rfl | exact fun _ => h.engines rfl
    | exact fun _ => h.signals rfl | exact fun _ => h.gives rfl | exact fun _ => h.heldSignals rfl | exact fun _ => h.forced rfl
    | exact fun _ => h.xpt rfl | exact fun _ => h.srv rfl | exact fun _ => h.pwr rfl | exact fun _ => h.sec rfl
    | exact fun _ => h.tsMarks rfl | exact fun _ => h.tsFull rfl

/-- A walk whose every step keeps to a footprint keeps to it. -/
theorem keeps_foldl {α β : Type} (fp : Footprint) (f : State × β → α → State × β) (h : ∀ a x, Keeps fp a.1 (f a x).1)
    (l : List α) (b : State × β) : Keeps fp b.1 (l.foldl f b).1 := by
  induction l generalizing b with
  | nil => exact Keeps.refl fp b.1
  | cons x l ih => exact (h b x).trans (ih (f b x))

theorem lineRead_keeps (s : State) (space off src hint : Nat) : Keeps lowFoot s (s.lineRead space off src hint).1 := keeps_of ..
theorem lineWrite_keeps (s : State) (space off src hint : Nat) (b : List Byte) (poison : Bool) :
    Keeps lowFoot s (s.lineWrite space off src hint b poison).1 := keeps_of ..
theorem translate_keeps (s : State) (x : Xlator) (ctx va : Nat) : Keeps moveFoot s (s.translate x ctx va).1 := keeps_of ..
theorem vRead_keeps (s : State) (a : Acc) (va n hint : Nat) : Keeps moveFoot s (s.vRead a va n hint).1 := keeps_of ..
theorem vWrite_keeps (s : State) (a : Acc) (va hint : Nat) (b : List Byte) (poison : Bool) :
    Keeps moveFoot s (s.vWrite a va hint b poison).1 := keeps_of ..
theorem vNma_keeps (s : State) (a : Acc) (va op : Nat) (ops : List Nat) (cas : Nat) (poison : Bool) :
    Keeps moveFoot s (s.vNma a va op ops cas poison).1 := keeps_of ..

theorem spanRead_keeps (s : State) (space off n src hint : Nat) : Keeps lowFoot s (s.spanRead space off n src hint).1 := by
  unfold State.spanRead
  exact keeps_foldl lowFoot _ (fun a p => by dsimp only; exact lineRead_keeps ..) _ (s, _)

theorem spanWrite_keeps (s : State) (space off src hint : Nat) (b : List Byte) (poison : Bool) :
    Keeps lowFoot s (s.spanWrite space off src hint b poison).1 := by
  unfold State.spanWrite
  exact keeps_foldl lowFoot _ (fun a p => by dsimp only; exact lineWrite_keeps ..) _ (s, (0, 0))

theorem vSpanRead_keeps (s : State) (a : Acc) (va n hint : Nat) : Keeps moveFoot s (s.vSpanRead a va n hint).1 := by
  unfold State.vSpanRead
  refine keeps_foldl moveFoot _ (fun c p => ?_) _ (s, _)
  dsimp only
  split
  · exact Keeps.refl ..
  · exact vRead_keeps ..

theorem vSpanWrite_keeps (s : State) (a : Acc) (va hint : Nat) (b : List Byte) (poison : Bool) :
    Keeps moveFoot s (s.vSpanWrite a va hint b poison).1 := by
  unfold State.vSpanWrite
  refine keeps_foldl moveFoot _ (fun c p => ?_) _ (s, (0, 0))
  dsimp only
  split
  · exact Keeps.refl ..
  · exact vWrite_keeps ..

theorem tableRead_keeps (s : State) (reg off n src : Nat) : Keeps lowFoot s (s.tableRead reg off n src).1 := by
  unfold State.tableRead; exact spanRead_keeps ..
theorem tableWrite_keeps (s : State) (reg off src : Nat) (b : List Byte) : Keeps lowFoot s (s.tableWrite reg off src b) := by
  unfold State.tableWrite; exact spanWrite_keeps ..

/-- The firmware's writes leave its own books as they are. -/
theorem srvPut_keeps (s : State) (off : Nat) (b : List Byte) : Keeps lowFoot s (s.srvPut off b) := by
  unfold State.srvPut; exact spanWrite_keeps ..

end Sys2Proof.Machine
end

