-- ==== Sys2Proof/Tests/Slice0.lean ====
section
/-! SUPPORT. Tests: the checks of WellFormed, a concrete state and operands for the hypotheses of every statement, and what
some commands leave on small states. Expected values come from the rules and examples that the comments name. -/
set_option Elab.async false

namespace Sys2Proof.Tests

open Sys2Proof.Machine

/-- A command is performed, and p holds of the state that it leaves. -/
def done (c : Instr) (s : State) (p : State → Bool) : Bool :=
  match exec c s with
  | .next t => p t
  | _ => false

/-- Register words written over a state. -/
def regs (s : State) (l : List (Nat × Word)) : State := l.foldl (fun s x => s.w32 x.1 x.2) s

/-- The device after reset, and with tide in ACQUIRE (1), LOCKED (2), HOLDOVER (3) or LOST (4). -/
def off : State := State.reset
def tideIn (n : Nat) : State := off.w32 Reg.tideStat (BitVec.ofNat 32 n)

/-- One piece of work due. -/
def owing (s : State) (d : Due) : State := { s with due := [d] }

/-- Port p in state 5, UP, and GP0 UP. -/
def portUp (s : State) (p : Nat) : State := s.setPortState p 5
def gp0 : State := portUp off 8

/-- RELEASED. -/
def bootDone : State := off.w32 Reg.secBootStat 4

/-- Engine 0 enabled and running, with duty 64. -/
def eng : State := regs off [(blkCtrl 0, 1), (blkStat 0, 1), (Reg.pwrStat, 64)]

/-- Queue 0 of engine 0 with one fetched descriptor. -/
def head (d : Desc) : State := (eng.w32 (Reg.engQTail 0 0) 1).modEngine 0 fun g => { g with fetched := [(0, [d])] }

/-- A descriptor of a unit and opcode with an operand. -/
def desc (unit opcode : Nat) (operand : Nat) : Desc := BitVec.ofNat 512 (opcode + unit * 2 ^ 8 + operand * 2 ^ 384)

/-- The same with a wait on TC0 for 1, met and carrying an error. -/
def badWait (d : Desc) : Desc := d ||| BitVec.ofNat 512 ((2 ^ 6 + 2 ^ 9) * 2 ^ 64)
def headErr (d : Desc) : State := regs (head (badWait d)) [(Reg.engTc 0 0, 1), (Reg.engTcErr 0, 1)]

/-! ## Witnesses: the queue, the whole machine, tide -/

theorem wit_IdleAndHeld : off.pending = [] ∧ ({ off with pwr := { off.pwr with resetN := false } } : State).up = false
    ∧ Instr.lock ≠ .resetAssert := by decide +kernel

/-- One command waiting. -/
def waiting (c : Instr) (s : State) : State := { s with pending := [c] }
theorem wit_PowerInvKept : PowerInv (waiting .pwrGoodFall off) ∧ ∃ t, step (waiting .pwrGoodFall off) = .next t :=
  ⟨by decide +kernel, _, rfl⟩

theorem wit_NoStepClearsFuses :
    ∃ t, step (waiting .resetAssert { off with sec := { off.sec with fuses := [3] } }) = .next t := ⟨_, rfl⟩

/-- A trip in force, and a command that is not the removal of power. -/
def tripped : State := { off with pwr := { off.pwr with tripped := true, smbAlertN := false } }
theorem wit_TripsStay : tripped.pwr.powered = true ∧ tripped.pwr.tripped = true ∧ Instr.resetAssert ≠ .powerRemoval
    ∧ ∃ t, exec .resetAssert tripped = .next t := ⟨by decide +kernel, by decide +kernel, by decide, _, rfl⟩

/-- A jump due in ACQUIRE. -/
def jump : State := (tideIn 1).modTide fun t => { t with jumpDue := true }
/-- A timing master in ACQUIRE with a lock armed, or with a load armed that moves tide forward. -/
def locking : State := ((tideIn 1).w32 Reg.tideCtrl 3).modTide fun t => { t with lockArmed := true }
def loading : State := (((tideIn 1).w32 Reg.tideCtrl 3).w64 Reg.tideSet 5000).modTide fun t => { t with loadArmed := true }
/-- MASTER written 0 in ACQUIRE. -/
def unmastering : State := (tideIn 1).modTide fun t => { t with masterArmed := some false }
theorem wit_TideBoundaries :
    (Ready (tideIn 2) ∧ (tideIn 2).tideState ≠ 0 ∧ (tideIn 2).loadTaken = false)
    ∧ (Ready loading ∧ loading.loadTaken = true)
    ∧ (Ready jump ∧ jump.tideState = 1 ∧ jump.isMaster = false ∧ jump.tide.jumpDue = true ∧ jump.nextBoundary ≤ (1024 : Dword).toNat)
    ∧ ([locking, loading].all fun s => s.tideState == 1 && s.rb Reg.tideCtrl 1 && s.tide.masterArmed == none
      && (s.tide.lockArmed || s.loadTaken)) = true
    ∧ (unmastering.rb Reg.tideCtrl 1 = false ∧ unmastering.tide.masterArmed = some false) := by decide +kernel

def msg : TimeMsg := { state := 2, xseq := 7, master := 1, epoch := 0, hops := 0, t2 := 3, t3 := 4 }
/-- FP0 UP with tide LOCKED, and a REQ of exchange 7 outstanding. -/
def timed : State := portUp (tideIn 2) 0
def asked : State := timed.modTide fun t => { t with reqs := [(0, some (5, 7))] }
theorem wit_TimeMessages :
    (Ready timed ∧ timed.tideState ≠ 0 ∧ timed.timePort 0 = true ∧ timed.reqDue 0 = true)
    ∧ (Ready asked ∧ asked.tideState ≠ 0 ∧ asked.timePort 0 = true ∧ optAt asked.tide.reqs 0 = some (5, msg.xseq)) := by
  decide +kernel

/-- An Ethernet port FP0 UP, tide LOCKED. -/
def eth : State := (timed.modPort 0 fun x => { x with cfg := 1 })
/-- The answer to its Delay_Req of number 3: the master stood 2 ns (in 2^-16 ns) behind at the Sync and took the request 6 ns before
it was sent. -/
def ptp : PtpEvent := { msg := { transport := .l2, kind := .delayResp, seq := 3, twoStep := false, correction := 0, sec := 0, ns := 94 },
                        rx := 0, tx := 0, peerDelay := false, replyTwoStep := false }
def synced : State := eth.modPtp 0 fun q => { q with asked := some (3, -131072, 6553600) }
def quiet : State := (tideIn 2).modTide fun t => { t with silent := 16 * ((tideIn 2).r32 Reg.tideMsgPeriod).toNat }
def held : State := (tideIn 3).modTide fun t => { t with holdTicks := ((tideIn 3).r32 Reg.tideHoldoverLimit).toNat }
def eth1 : State := eth.w32 Reg.tideCtrl 0x000000F1
theorem wit_ExchangesAndHoldover :
    (Ready synced ∧ synced.tideState ≠ 0 ∧ synced.portState 0 = 5 ∧ synced.ethernet 0 = true ∧ synced.ptpFollows 0 = true
      ∧ ptp.msg.kind = .delayResp
      ∧ (synced.ptpPort 0).asked = some (ptp.msg.seq, -131072, 6553600)
      ∧ (-64 : Int) = (-131072 + (ptpTime ptp.msg - ptpCorr ptp.msg - 6553600)) / 2 / 4096 ∧ synced.r32 (Reg.tideAsym 0) = 0)
    ∧ (Ready quiet ∧ quiet.tideState = 2 ∧ quiet.isMaster = false ∧ 16 * (quiet.r32 Reg.tideMsgPeriod).toNat ≤ quiet.tide.silent)
    ∧ (Ready held ∧ held.tideState = 3 ∧ held.isMaster = false ∧ held.tide.epochWait = false
      ∧ (held.r32 Reg.tideHoldoverLimit).toNat ≤ held.tide.holdTicks) := by decide +kernel

def master : State := (tideIn 1).w32 Reg.tideCtrl 3
/-- Step timer 0 with one start lost, its start due: to counters, to the serving cores, to the firmware, which has a basket. -/
def stepDue : State := owing ((tideIn 2).modTide fun t => { t with steps := [(0, ⟨1, 1⟩)] }) (.stepTimer 0)
def stepIrq : State := stepDue.w32 (Reg.tideStepCtrl 0) 2
def stepServed : State := (stepIrq.w32 Reg.srvStat 1).modSrv fun v => { v with basket := { v.basket with live := true, start := none } }
theorem wit_TideControlsAndStepTimers :
    (Ready off ∧ off.tideState = 0) ∧ (Ready (tideIn 2) ∧ (tideIn 2).tideState ≠ 0)
    ∧ (Ready master ∧ master.tideState = 1 ∧ master.isMaster = true) ∧ (Ready (tideIn 4) ∧ (tideIn 4).tideState = 4)
    ∧ (1 : Word).getLsbD 0 = true
    ∧ ([stepDue, stepIrq, stepServed].all fun s =>
        decide (DueOnly (.stepTimer (0 : Fin 4).val) s ∧ s.unresolved = false ∧ 0 < (s.stepTimer 0).lost)) = true
    ∧ (stepIrq.rb (Reg.tideStepCtrl 0) 1 = true ∧ stepIrq.running = false)
    ∧ (stepServed.rb (Reg.tideStepCtrl 0) 1 = true ∧ stepServed.running = true ∧ stepServed.srv.basket.live = true
      ∧ stepServed.srv.basket.start = none)
    ∧ (stepDue.rb (Reg.tideStepCtrl 0) 1 = false ∧ (stepDue.w32 Reg.pwrStat 0).duty = 0 ∧ (stepDue.w32 Reg.pwrStat 64).duty ≠ 0
      ∧ stepDue.tcImg 0 0 = 0 ∧ stepDue.tcStuck 0 0 = false ∧ (stepDue.r32 (Reg.engTc 0 0)).toNat + 1 < 2 ^ 32) := by
  decide +kernel

/-- The page of engine 0 has a commit due that it owes, of ENG_NUM_CTRL, and the tide unit owes MIXED_TIMEOUT. -/
def owes : State := off.setUnitCommit (enPage 0) (some ⟨some 1, true, true, false⟩) |>.modCommit fun c =>
  { c with scope := [enPage 0], shadow := [(Reg.engNumCtrl 0 / 4, some 1)] }
theorem wit_ModeCommits :
    (Ready off ∧ off.keyed .host = true)
    ∧ ([Due.commit (enPage 0), .lateCommit (enPage 0)].all fun d =>
        decide (DueOnly d (owing owes d) ∧ (owing owes d).pagePending (enPage 0) = [(Reg.engNumCtrl 0 / 4, 1)])) = true
    ∧ (DueOnly .mixedTimeout (owing owes .mixedTimeout) ∧ (owing owes .mixedTimeout).owing ≠ []) := by decide +kernel

/-! ## Witnesses: registers, enables -/

def wr (o : Nat) (v : Word) : RegAcc := { off := o, size := 4, data := v.setWidth 64 }

def wr8 (o : Nat) (v : Dword) : RegAcc := { off := o, size := 8, data := v }
/-- The host holds the mailbox, which wants one word. -/
def claimed : State := (regs off [(Reg.secMbxStat, 0x01080001)]).modSec fun x => { x with mbxLen := 1 }
theorem wit_HeaderWordIsWritten :
    (Ready off ∧ accessMapped (wr 0x1C 5) = true ∧ isPage 0x1C = true ∧ 0x1C % 0x1000 < 0x100 ∧ mayWrite .host 0x1C = true
      ∧ off.keyed .host = true ∧ (Reg.info 0x1C).map (·.sh) = some 0)
    ∧ (accessMapped (wr8 0x18 5) = true ∧ isPage 0x18 = true ∧ mayWrite .host 0x18 = true
      ∧ (Reg.info 0x18).map (·.sh) = some 0)
    ∧ (0x3C = blkProtoLimit 0 ∧ accessMapped (wr 0x3C 0) = true ∧ isPage 0x3C = true ∧ mayWrite .host 0x3C = true
      ∧ (Reg.info 0x3C).map (·.sh) = some 0
      ∧ off.rf (blkProto 0) 16 16 ≤ off.rf (blkProto 0) 0 16 ∧ off.rf (blkProto 0) 0 16 < fld (0xFFFF : Word) 0 16)
    ∧ (off.debugLock = false ∧ (off.engine 0).forcePend = false ∧ eng.active (enPage 0) = true)
    ∧ (Ready claimed ∧ claimed.mbxTakes .host = true) := by decide +kernel

/-- A peer that carries no management key. -/
def unkeyed : Requester := .peer 0 5
theorem wit_RefusedWritesChangeNothing :
    (Ready off ∧ accessMapped (wr 0x233010 1) = true ∧ Reg.page (0x233010 / 0x1000) = some (.sec, 0)
      ∧ needs64 .sec (0x233010 % 0x1000) = false ∧ mayWrite .host 0x233010 = false)
    ∧ (off.keyed unkeyed = false ∧ accessMapped (wr 0x30001C 1) = true ∧ isBlanket 0x30001C = true)
    ∧ accessMapped (wr 0x3FFFFFC 1) = false ∧ accessMapped (wr 2 1) = false := by decide +kernel

theorem wit_ShadowView :
    (Ready gp0 ∧ gp0.gp0Up = true ∧ isPage 0x700 = true ∧ 0x700 < regSpace ∧ 0x700 % 0x1000 < 0x800)
    ∧ (isPage 0xF00 = true ∧ 0xF00 < regSpace ∧ 0x800 ≤ 0xF00 % 0x1000 ∧ mayWrite .host 0xF00 = true) := by decide +kernel

theorem wit_BlanketWriteReachesItsGroup :
    (Ready off ∧ off.keyed .host = true ∧ isBlanket 0x30001C = true ∧ (off.blanketPages 0x30001C).length = 32
      ∧ ∀ pn ∈ off.blanketPages 0x30001C, shMask ((0x1000 * pn + 0x1C) / 4) = 0)
    ∧ ((∀ e ∈ off.groupEngines 0, (off.engine e).forcePend = false) ∧ 0 ∈ off.groupEngines 0 ∧ 32 ∉ off.groupEngines 0)
    ∧ ((1 : Word).getLsbD 0 = true ∧ (0 : Word).getLsbD 0 = false ∧ (0 : Word).getLsbD 1 = false)
    ∧ off.mem.wbOwed = [] := by decide +kernel
/-- A group of one channel. -/
def oneChan : State := regs off [(Reg.coreBgrpCh 0 0 0, 1)]
theorem wit_BlanketChannels : oneChan.groupChannels 9 = [0]
    ∧ ∀ ch ∈ oneChan.groupChannels 9, oneChan.forced.contains (chPage ch) = false ∧ oneChan.rb (Reg.stkStat ch) 0 = false := by
  decide +kernel

/-- Engine 0 and channel 0 draining or disabled. -/
def drain : State := regs off [(blkStat 0, 3)]
def chan : State := regs off [(blkCtrl (chPage 0), 1), (blkStat (chPage 0), 1)]
theorem wit_UnitsEnableAndDrain :
    (Ready off ∧ (off.engine 0).forcePend = false)
    ∧ (off.forced.contains (chPage 0) = false ∧ off.rb (Reg.stkStat 0) 0 = false ∧ off.mem.wbOwed = [])
    ∧ (Ready eng ∧ eng.active (enPage 0) = true) ∧ (Ready chan ∧ chan.active (chPage 0) = true)
    ∧ chan.chanBusy 0 = false ∧ (chan.modMem fun m => { m with locks := [⟨0, 5, 0⟩] }).chanBusy 0 = true
    ∧ off.rb (blkCtrl (enPage 0)) 0 = false ∧ off.rb (blkCtrl (chPage 0)) 0 = false
    ∧ (Ready drain ∧ drain.draining (enPage 0) = true ∧ drain.noneInFlight 0 = true) := by decide +kernel

/-- A task of engine 0 in flight; or a NOP fetched and not started, to be flushed. -/
def struck : Task := { queue := 0, index := 0, desc := desc 4 0 0, status := 0, done := false, dests := [.spad 3 2], slots := 0,
                       flush := false, cword := 0, held := false, counts := [], owed := [] }
def cancels : State := (owing eng (.forceEngine 0)).modEngine 0 fun g => { g with tasks := [struck] }
def flushes : State := (owing (head (desc 4 0 0)) (.forceEngine 0)).w32 (blkCtrl 0) 0x101
/-- A live queue pair on port 0. -/
def forcesQp : State := (owing timed (.forcePort 0)).modQp 3 fun q => { q with state := 3 }
theorem wit_ForcedDisables :
    DueOnly (.forceEngine 0) (owing eng (.forceEngine 0))
    ∧ (DueOnly (.forceEngine 0) cancels ∧ (cancels.engine 0).tasks = [struck] ∧ cancels.rb (blkCtrl (enPage 0)) 8 = false)
    ∧ (∀ x ∈ struck.dests, ∃ u n, x = Dest.spad u n)
    ∧ (DueOnly (.forceEngine 0) flushes ∧ (flushes.engine 0).tasks = [] ∧ flushes.rb (blkCtrl (enPage 0)) 8 = true
      ∧ (desc 4 0 0).operation = some .nop ∧ (desc 4 0 0).invalid 0 (flushes.engine 0) = false
      ∧ Sparse.get (fun _ => []) (flushes.engine 0).fetched 0 = [desc 4 0 0]
      ∧ flushes.r32 (Reg.engQTail 0 0) = flushes.r32 (Reg.engQHead 0 0) + 1
      ∧ ∀ p : Fin 4, p ≠ 0 → flushes.r32 (Reg.engQTail 0 p.val) = flushes.r32 (Reg.engQHead 0 p.val))
    ∧ (DueOnly (.forceChannel (chPage 0)) (owing chan (.forceChannel (chPage 0)))
      ∧ (owing chan (.forceChannel (chPage 0))).mem.waiting = [])
    ∧ (DueOnly (.forcePort 0) (owing timed (.forcePort 0)) ∧ (owing timed (.forcePort 0)).liveQps = [])
    ∧ (DueOnly (.forcePort 0) forcesQp ∧ forcesQp.liveQps = [3] ∧ (forcesQp.qp 3).port = 0 ∧ (forcesQp.qp 3).state = 3
      ∧ forcesQp.xpt.cqOvf = [] ∧ (forcesQp.qp 3).rsigs = [] ∧ (forcesQp.qp 3).sqTail = (forcesQp.qp 3).sqDone
      ∧ (forcesQp.qp 3).rqTail = (forcesQp.qp 3).rqDone) :=
  ⟨by decide +kernel, by decide +kernel, by simp [struck], by decide +kernel⟩

/-- Board interface 3 active; channel 0 with a read that waits there. -/
def board3 : State := regs off [(blkStat (bmPage 3), 1)]
def waits0 : State := (owing (regs off [(blkStat (chPage 0), 3)]) (.forceChannel (chPage 0))).modMem fun m => { m with waiting := [.stack ⟨9, 0, .read, 1, []⟩] }
theorem wit_MemoryAndPorts :
    (Ready board3 ∧ board3.forced.contains (bmPage 3) = false ∧ board3.active (bmPage 3) = true)
    ∧ (Ready off ∧ (off.port 2).forcePend = false ∧ off.portEn 2 = false ∧ off.portState 2 = 0
      ∧ (off.r32 (Reg.fabCfg 2)).getLsbD 0 = false)
    ∧ (DueOnly (.forceChannel (chPage 0)) waits0 ∧ waits0.place 0 = some (lineKey 0 0) ∧ keyChan (lineKey 0 0) = 0
      ∧ waits0.quarantined (keyCore (lineKey 0 0)) 0 = false ∧ waits0.cached (lineKey 0 0) = none ∧ waits0.chanOn 0 = false)
    ∧ (DueOnly (.forceChannel (bmPage 3)) (owing board3 (.forceChannel (bmPage 3)))
      ∧ (owing board3 (.forceChannel (bmPage 3))).mem.lower = []) := by
  and_intros <;> decide +kernel

/-! ## Witnesses: tasks -/

/-- A valid descriptor of each operation. -/
def opDesc : Op → Desc
  | .mmaFp8 => desc 0 1 (2 ^ 16 + 2 ^ 24 + 2 ^ 32)
  | .mmaCode => desc 0 2 (2 ^ 16 + 2 ^ 24 + 2 ^ 32)
  | .mmaInt8 => desc 0 3 (2 ^ 16 + 2 ^ 24 + 2 ^ 32)
  | .mmaBf16 => desc 0 4 (2 ^ 16 + 2 ^ 24 + 2 ^ 32)
  | .tileZero => desc 0 8 2
  | .tileOut => desc 0 9 (2 ^ 16 + 2 ^ 24)
  | .kvAppend => desc 0 9 (2 ^ 16 + 2 ^ 24 + 2 ^ 96)
  | .tileSave => desc 0 0xC 0
  | .tileLoad => desc 0 0xD 0
  | .attnFwd => desc 1 1 (2 ^ 32)
  | .attnMerge => desc 1 2 (2 ^ 32)
  | .attnBwd => desc 1 3 (2 ^ 32)
  | .chain => desc 2 1 (2 ^ 80)
  | .permute => desc 2 2 (2 ^ 80)
  | .shuffle => desc 2 3 (2 ^ 80)
  | .pack => desc 2 4 (4 * 2 ^ 80 + 5 * 2 ^ 100)
  | .unpack => desc 2 5 (4 * 2 ^ 80 + 5 * 2 ^ 103)
  | .rotary => desc 2 6 (2 * 2 ^ 80 + 2 * 2 ^ 100)
  | .topk => desc 2 8 (2 ^ 64 + 2 ^ 80 + 2 * 2 ^ 100)
  | .sample => desc 2 9 (2 ^ 64 + 2 ^ 80)
  | .random => desc 2 0xA (2 ^ 80 + 4 * 2 ^ 103)
  | .quant => desc 2 0xC (32 * 2 ^ 80 + 2 * 2 ^ 100)
  | .load => desc 3 1 (2 ^ 64)
  | .store => desc 3 2 (2 ^ 64)
  | .accum => desc 3 3 (2 ^ 64)
  | .copy => desc 3 4 (2 ^ 96)
  | .brinePack => desc 3 5 (2 ^ 96)
  | .brineUnpack => desc 3 6 0
  | .nop => desc 4 0 0
  | .tick => desc 4 1 9
  | .event => desc 4 2 7

/-- Every operation but CHAIN, whose program stands in the scratchpad. -/
def plainOps : List Op :=
  [.mmaFp8, .mmaCode, .mmaInt8, .mmaBf16, .tileZero, .tileOut, .kvAppend, .tileSave, .tileLoad, .attnFwd, .attnMerge, .attnBwd,
    .permute, .shuffle, .pack, .unpack, .rotary, .topk, .sample, .random, .quant, .load, .store, .accum, .copy, .brinePack,
    .brineUnpack, .nop, .tick, .event]

/-- A program of one NEG stage at address 0. -/
def withProg (s : State) : State := s.modEngine 0 fun g => spadWrite g 0 (bytesLE 8 1 ++ bytesLE 8 7) false

theorem wit_TasksStart : ∀ o ∈ plainOps, Startable (head (opDesc o)) 0 0 (opDesc o) o
    ∧ (opDesc o).waits.any ((head (opDesc o)).waitErr 0) = false := by decide +kernel

theorem wit_ChainStarts : Startable (withProg (head (opDesc .chain))) 0 0 (opDesc .chain) .chain
    ∧ (opDesc .chain).waits.any ((withProg (head (opDesc .chain))).waitErr 0) = false := by decide +kernel

theorem wit_TaskWithAnErrorIsNotPerformed : ∀ o ∈ plainOps, Startable (headErr (opDesc o)) 0 0 (badWait (opDesc o)) o
    ∧ (badWait (opDesc o)).waits.any ((headErr (opDesc o)).waitErr 0) = true := by decide +kernel

theorem wit_ChainWithAnError : Startable (withProg (headErr (opDesc .chain))) 0 0 (badWait (opDesc .chain)) .chain
    ∧ (badWait (opDesc .chain)).waits.any ((withProg (headErr (opDesc .chain))).waitErr 0) = true := by decide +kernel

theorem wit_ScratchpadPoisonBits : ([1] : List Byte) ≠ [] ∧ (0 : Nat) ≤ 32 * 0 ∧ 32 * 0 + 32 ≤ 0 + (List.replicate 32 (0 : Byte)).length
    ∧ (33 : Nat) < 32 * 1 + 32 ∧ 32 * 1 < 33 + [(1 : Byte)].length ∧ (32 * 0 + 32 ≤ 33 ∨ 33 + [(1 : Byte)].length ≤ 32 * 0) := by decide

/-- A TICK whose boundary is past. -/
def lateTick : State := head (desc 4 1 0)
theorem wit_LateTick : Startable lateTick 0 0 (desc 4 1 0) .tick ∧ Desc.op (desc 4 1 0) 0 64 ≤ lateTick.tick
    ∧ (lateTick.engine 0).tasks = [] := by decide +kernel

/-- A task of queue 1 in flight that holds every slot. -/
def holder : Task :=
  { queue := 1, index := 0, desc := desc 4 2 0, status := stOk, done := false, dests := [], slots := 0xFFFFFFFF, flush := false,
    cword := 0, held := false, counts := [], owed := [] }
def busy (o : Op) : State := (withProg (head (opDesc o))).modEngine 0 fun g => { g with tasks := [holder] }
def slotOps : List (Op × (Fin 256 → Fin 4 → Instr) × (Engine → Desc → BitVec 32)) :=
  [(.mmaFp8, .mmaFp8, mmaSlots), (.mmaCode, .mmaCode, mmaSlots), (.mmaInt8, .mmaInt8, mmaSlots), (.mmaBf16, .mmaBf16, mmaSlots),
    (.tileZero, .tileZero, tileOutSlots), (.tileOut, .tileOut, tileOutSlots), (.kvAppend, .kvAppend, tileOutSlots),
    (.tileSave, .tileSave, allSlots), (.tileLoad, .tileLoad, allSlots)]
theorem wit_TileIsHeld : slotOps.all (fun x => decide (Startable (busy x.1) 0 0 (opDesc x.1) x.1
    ∧ (opDesc x.1).waits.any ((busy x.1).waitErr 0) = false
    ∧ slotsTaken (busy x.1) 0 (opDesc x.1) (x.2.2 ((busy x.1).engine 0) (opDesc x.1)) = true)) = true := by decide +kernel

/-- TILE_ZERO of SHAPE 0 at slot 2 clears slots 2 and 3 (R109, R110). -/
theorem test_tile_zero : done (.tileZero 0 0) ((head (opDesc .tileZero)).modEngine 0 fun g => { g with acc := [(2048 * 3, 5)] })
    (fun t => (t.engine 0).acc == [] && (t.engine 0).tasks.length == 1 && t.r32 (Reg.engQHead 0 0) == 1) = true := by decide +kernel

/-- A CHAIN over tile 0, which the task of queue 1 holds. -/
def tileChain : Desc := opDesc .chain ||| BitVec.ofNat 512 (2 ^ 108 * 2 ^ 384)
def busyChain : State := (withProg (head tileChain)).modEngine 0 fun g => { g with tasks := [holder] }
theorem wit_ChainIsHeld : Startable busyChain 0 0 tileChain .chain ∧ tileChain.waits.any (busyChain.waitErr 0) = false
    ∧ slotsTaken busyChain 0 tileChain (chainSlots (busyChain.engine 0) tileChain) = true := by decide +kernel

/-! ## Witnesses: queues, tokens, credits -/

/-- Queue 0 stopped with the cause 2. -/
def stopped : State := regs off [(Reg.engQStat 0 0, 0xA00)]
/-- Queue 1 of engine 5, one descriptor written, its ring in the scratchpad or nowhere. -/
def fetchA : State := regs off [(blkCtrl 5, 1), (blkStat 5, 1), (Reg.engQTail 5 1, 1), (Reg.engQCfg 5 1, 0x100)]
def fetchB : State := regs off [(blkCtrl 5, 1), (blkStat 5, 1), (Reg.engQTail 5 1, 1)]
def stoppedRun : State := fetchA.w32 (Reg.engQStat 5 1) 0xA00
theorem wit_QueueTailAndFetch :
    (Ready eng ∧ wrapDist (1 : Word) (eng.r32 (Reg.engQDone 0 0)) ≤ 2 ^ eng.rf (Reg.engQCfg 0 0) 0 5
      ∧ wrapDist (eng.r32 (Reg.engQHead 0 0)) (eng.r32 (Reg.engQDone 0 0)) ≤ wrapDist (1 : Word) (eng.r32 (Reg.engQDone 0 0)))
    ∧ 2 ^ eng.rf (Reg.engQCfg 0 0) 0 5 < wrapDist (0x7FFF0000 : Word) (eng.r32 (Reg.engQDone 0 0))
    ∧ (∀ s ∈ [fetchA, fetchB], Ready s ∧ s.active (enPage 5) = true ∧ s.rb (Reg.engQStat 5 1) 9 = false
      ∧ Sparse.get (fun _ => []) (s.engine 5).fetched 1 = [] ∧ wrapDist (s.r32 (Reg.engQHead 5 1) + 0#32) (s.r32 (Reg.engQDone 5 1))
        < wrapDist (s.r32 (Reg.engQTail 5 1)) (s.r32 (Reg.engQDone 5 1)))
    ∧ (∀ s ∈ [fetchA, fetchB], toFetch s 5 1 = true)
    ∧ (Ready stopped ∧ stopped.rb (Reg.engQStat 0 0) 9 = true ∧ toFetch stopped 0 0 = false)
    ∧ (toFetch stoppedRun 5 1 = true ∧ stoppedRun.rb (Reg.engQStat 5 1) 9 = true) := by decide +kernel

/-- A unit that no operation has. -/
def bad : State := head (desc 9 1 0)
theorem wit_NopAndInvalidCompleteAtOnce :
    (Startable (head (opDesc .nop)) 0 0 (opDesc .nop) .nop ∧ (opDesc .nop).waits.any ((head (opDesc .nop)).waitErr 0) = false
      ∧ (head (opDesc .nop)).qTasks 0 0 = [])
    ∧ (Startable (headErr (opDesc .nop)) 0 0 (badWait (opDesc .nop)) .nop
      ∧ (badWait (opDesc .nop)).waits.any ((headErr (opDesc .nop)).waitErr 0) = true ∧ (headErr (opDesc .nop)).qTasks 0 0 = [])
    ∧ (Ready bad ∧ bad.head 0 0 = some (desc 9 1 0) ∧ bad.ready 0 0 = true ∧ (desc 9 1 0).invalid 0 (bad.engine 0) = true
      ∧ bad.qTasks 0 0 = []) := by decide +kernel

/-- An EVENT in flight. -/
def flying : Task := { holder with queue := 0, desc := opDesc .event, slots := 0 }
def inFlight : State := (regs eng [(Reg.engQTail 0 0, 1), (Reg.engQHead 0 0, 1)]).modEngine 0 fun g => { g with tasks := [flying] }
theorem wit_TaskCompletes : Ready inFlight ∧ flying.queue = (0 : Fin 4).val ∧ flying.counts = [] ∧ flying.owed = [] ∧ (inFlight.engine 0).tasks = [flying]
    ∧ flying.done = false ∧ flying.status = stOk ∧ Desc.operation flying.desc = some .event
    ∧ inFlight.mem.lowerWait 0 0 flying.index = false := by decide +kernel

/-- A signal of 3 to TC63 of engine 255, its counter at v; a give of 5 to CC31, its LIMIT l. -/
def sig (v : Word) : State := { eng.w32 (Reg.engTc 255 63) v with signals := [⟨255, 63, 3, false⟩] }
def giveTo (l : Word) : State := { off.w32 (Reg.engCc 0 31) (l <<< 16) with gives := [⟨0, 31, 5, false⟩] }
theorem wit_TokensAndCreditsArrive :
    [(0 : Word), 0xFFFFFFFC, 0xFFFFFFFD].all (fun v => decide (Ready (sig v) ∧ (sig v).duty ≠ 0 ∧ (sig v).tcImg 255 63 = 0
      ∧ (sig v).tcStuck 255 63 = false)) = true
    ∧ [(5 : Word), 4].all (fun l => decide (Ready (giveTo l) ∧ (giveTo l).ccImg 0 31 = 0)) = true := by decide +kernel

/-- The same with the duty 0, and with the counter stuck. -/
def sigHeld : State := (sig 0).w32 Reg.pwrStat 0
def sigStuck : State := (sig 0xFFFFFFFF).w32 (Reg.engTcStuck 255 + 4) 0x80000000
/-- TC63 and CC31 of engine 0 away. -/
def away : State := regs off [(Reg.engTcImg1 0 + 4, 0xC0000000), (Reg.engCcImg 0 + 4, 0xC0000000)]
def sigAway (err : Bool) : State := { away with signals := [⟨0, 63, 3, err⟩], gives := [⟨0, 31, 5, false⟩] }
theorem wit_HeldAndStuck : (∀ err ∈ [false, true], Ready (sigAway err) ∧ (sigAway err).duty ≠ 0 ∧ (sigAway err).tcImg 0 63 ≠ 0
      ∧ (sigAway err).ccImg 0 31 ≠ 0) ∧ (Ready sigHeld ∧ sigHeld.duty = 0) ∧ (Ready sigStuck ∧ sigStuck.duty ≠ 0 ∧ sigStuck.tcImg 255 63 = 0
    ∧ sigStuck.tcStuck 255 63 = true) := by decide +kernel

/-- TC63 of engine 0 at all ones, and stuck for m above 0. -/
def full (m : Word) : State := regs eng [(Reg.engTc 0 63, 0xFFFFFFFF), (Reg.engTcStuck 0 + 4, m)]
theorem wit_CounterWrites :
    (Ready eng ∧ eng.duty ≠ 0 ∧ (0xFFFF003F : Word).getLsbD 8 = false ∧ eng.tcImg 0 63 = 0 ∧ eng.tcStuck 0 63 = false
      ∧ (eng.r32 (Reg.engTc 0 63)).toNat + fld (0xFFFF003F : Word) 16 16 < 2 ^ 32)
    ∧ ([(0 : Word), 0x80000000].all fun m => decide (fld (0xFFFF013F : Word) 0 6 = 63
        ∧ (full m).duty ≠ 0
        ∧ (full m).tcImg 0 63 = 0
        ∧ (full m).tcStuck 0 63 = (m != 0)))
      = true
    ∧ (away.duty ≠ 0 ∧ away.tcImg 0 (fld (0xFFFF003F : Word) 0 6) ≠ 0) ∧ (Ready sigHeld ∧ sigHeld.duty = 0)
    ∧ off.tcImg 0 0 = 0 ∧ (off.ccImg 0 31 = 0 ∧ fld (0xFFFFFFFF : Word) 0 16 ≤ fld (0xFFFFFFFF : Word) 16 16) := by decide +kernel

/-- A queue that holds a descriptor, one tick after the engine last moved. -/
def stalled : State := ((head (opDesc .tick)).w32 (Reg.engStallLimit 0) 1).modTide fun t => { t with now := 1024 }
theorem wit_StallIsRaised : Ready stalled ∧ stalled.rb (blkCtrl (enPage 0)) 0 = true ∧ stalled.r32 (Reg.engStallLimit 0) ≠ 0
    ∧ (stalled.engine 0).stalled = false ∧ (List.range 4).any (stalled.queueBusy 0) = true
    ∧ (stalled.engine 0).progress + (stalled.r32 (Reg.engStallLimit 0)).toNat ≤ stalled.tick := by decide +kernel

/-! ## Witnesses: memory, translation, lower tiers -/

theorem wit_CommandsKeepToTheirUnits : off.due = [] ∧ ∃ t, exec .resetAssert off = .next t := ⟨rfl, _, rfl⟩

/-- Channels 0, 5 and 511 enabled; lines 0 and 5 hold bytes 7. -/
def chans : State := regs off [(blkCtrl (chPage 0), 1), (blkCtrl (chPage 5), 1), (blkCtrl (chPage 511), 1)]
def sevens : List Byte := List.replicate 128 7
def stored (key : Nat) : State := chans.modMem fun m => { m with dram := cellWrite m.dram (128 * key) sevens }
theorem wit_StackLines :
    (Ready chans ∧ LineAtChannel chans 0 (lineKey 0 0) 3 ∧ LineAtChannel chans (5 * 128) (lineKey 5 0) 3 ∧ sevens.length = 128)
    ∧ (Ready (stored (lineKey 5 0)) ∧ LineAtChannel (stored (lineKey 5 0)) (5 * 128) (lineKey 5 0) 3
      ∧ cellRead (stored (lineKey 5 0)).mem.dram (128 * lineKey 5 0) 128 = some sevens
      ∧ flagAt (stored (lineKey 5 0)).mem.dramPoison (lineKey 5 0) = false
      ∧ Sparse.get (fun _ => []) (stored (lineKey 5 0)).mem.dramErr (lineKey 5 0) = []) := by decide +kernel

/-- Line 0 of channel 5 locked for source 3. -/
def locked : State := chans.modMem fun m => { m with locks := [⟨lineKey 5 0, 3, 0⟩] }
theorem wit_StackLines_locked : Ready locked ∧ locked.place (5 * 128) = some (lineKey 5 0)
    ∧ locked.lockHolds (lineKey 5 0) 4 = true ∧ locked.served (lineKey 5 0) = true ∧ locked.lockHolds (lineKey 5 0) 3 = true
    ∧ OffAtChannel locked (5 * 128) (lineKey 5 0) ∧ locked.mem.waiting = [] := by decide +kernel

def nmaS : NmaAcc := { src := 3, off := 5 * 128 + 124, op := 8, bytes := [], a := 5, b := 0, poison := false, upset := [] }
def nmaV : NmaAcc := { src := 3, off := 5 * 128 + 120, op := 0, bytes := List.replicate 8 0x3F, a := 0, b := 0, poison := false, upset := [] }
theorem wit_NearMemoryOperations : [nmaS, nmaV].all (fun a => decide (nmaOk a = true ∧ a.poison = false ∧ a.upset = []
    ∧ LineAtChannel (stored (lineKey 5 0)) (a.off / 128 * 128) (lineKey 5 0) a.src
    ∧ (stored (lineKey 5 0)).place a.off = some (lineKey 5 0)
    ∧ (stored (lineKey 5 0)).quarantined (keyCore (lineKey 5 0)) a.off = false)) = true := by decide +kernel

/-- Line 0 of channel 5 with an error of one symbol, scrubbing enabled there. -/
def worn : State := ((stored (lineKey 5 0)).w32 (Reg.stkCtrl 5) 2).modMem fun m => { m with dramErr := [(lineKey 5 0, [(3, 0x10)])] }
theorem wit_ChannelsAndDies :
    ((∀ s ∈ [locked, locked.w32 (blkStat (chPage 5)) 3], Ready s ∧ s.mem.waiting = []
        ∧ s.mem.locks.find? (fun l => keyChan l.key == 5) = some ⟨lineKey 5 0, 3, 0⟩)
      ∧ locked.draining (chPage 5) = false ∧ (locked.w32 (blkStat (chPage 5)) 3).draining (chPage 5) = true
      ∧ ∀ x ∈ locked.mem.locks.erase ⟨lineKey 5 0, 3, 0⟩, keyChan x.key ≠ 5)
    ∧ (Ready worn ∧ worn.rb (Reg.stkCtrl 5) 1 = true ∧ worn.mem.locks = [] ∧ lineKey 5 0 = lineKey 5 (natAt worn.mem.scrub 5)
      ∧ worn.cached (lineKey 5 0) = none ∧ cellRead worn.mem.dram (128 * lineKey 5 0) 128 = some sevens
      ∧ decodeLine (worn.rb (Reg.stkCtrl 5) 2) (flagAt worn.mem.dramPoison (lineKey 5 0))
        (Sparse.get (fun _ => []) worn.mem.dramErr (lineKey 5 0)) = .corrected [(3, 0x10)]
      ∧ keyChan (lineKey 5 0) = 5) := by decide +kernel

/-- That line written poisoned, or with errors of four symbols; a quarantined page; a line that the cache holds. -/
def broken (poison : Bool) (e : List SymErr) : State := (stored (lineKey 5 0)).modMem fun m => { m with
  dramPoison := if poison then setFlag m.dramPoison (lineKey 5 0) true else m.dramPoison, dramErr := if e = [] then [] else [(lineKey 5 0, e)] }
theorem wit_StackLines_errors : ∀ x ∈ [(true, [], Decoded.poison 0), (false, [(3, 0x10)], .corrected [(3, 0x10)]),
      (false, [(3, 0x10), (9, 0x20), (20, 1), (31, 7)], .uncorrectable)],
    Ready (broken x.1 x.2.1) ∧ LineAtChannel (broken x.1 x.2.1) (5 * 128) (lineKey 5 0) 3
      ∧ cellRead (broken x.1 x.2.1).mem.dram (128 * lineKey 5 0) 128 = some sevens
      ∧ decodeLine ((broken x.1 x.2.1).rb (Reg.stkCtrl 5) 2) (flagAt (broken x.1 x.2.1).mem.dramPoison (lineKey 5 0))
        (Sparse.get (fun _ => []) (broken x.1 x.2.1).mem.dramErr (lineKey 5 0)) = x.2.2 := by decide +kernel
def barred : State := chans.w64 (Reg.coreQuar 0 63) (BitVec.ofNat 64 (2 ^ 63 + 12 * 2 ^ 40))
theorem wit_StackLines_refused :
    (Ready barred ∧ barred.place (5 * 128) = some (lineKey 5 0) ∧ barred.lockHolds (lineKey 5 0) 3 = false ∧ barred.mem.waiting = []
      ∧ barred.quarantined (keyCore (lineKey 5 0)) (5 * 128) = true)
    ∧ (off.place (5 * 128) = some (lineKey 5 0) ∧ off.quarantined (keyCore (lineKey 5 0)) (5 * 128) = false
      ∧ off.cached (lineKey 5 0) = none ∧ off.chanOn (keyChan (lineKey 5 0)) = false ∧ off.lockHolds (lineKey 5 0) 3 = false) := by
  and_intros <;> decide +kernel
theorem wit_NearMemoryOperations_others :
    (nmaOk { nmaS with poison := true } = true ∧ nmaScalar 8 = true)
    ∧ (nmaOk { nmaS with off := 5 * 128 + 121 } = false ∧ chans.place (5 * 128 + 121) = some (lineKey 5 0)
      ∧ chans.lockHolds (lineKey 5 0) 3 = false) := by decide +kernel

/-- The cache of core 7 flushing, with a clean line of its channel 4095 and a write-combining entry. -/
def caching : State := (off.w32 (Reg.cchWcTimeout 7) 1).modMem fun m => { m with
  flushing := [7], cache := [⟨7, lineKey 4095 9, sevens, false, false, false⟩] }
/-- Core 0 with a dirty line of channel 5, which is enabled, or of channel 6, which is not. -/
def dirtyLine (ch : Nat) : CLine := ⟨0, lineKey ch 0, sevens, false, true, false⟩
def dirty (ch : Nat) : State := chans.modMem fun m => { m with cache := [dirtyLine ch] }
theorem wit_CacheStores : ∀ ch ∈ [5, 6], Ready (dirty ch) ∧ ((dirty ch).mem.cache.map (·.key)).Nodup
    ∧ (dirty ch).cached (lineKey ch 0) = some (dirtyLine ch) ∧ (dirtyLine ch).data.length = 128
    ∧ (dirty ch).chanOn (keyChan (lineKey ch 0)) = (ch == 5) := by decide +kernel
theorem wit_StackLines_cached : (dirty 5).place (5 * 128) = some (lineKey 5 0) ∧ (dirty 5).lockHolds (lineKey 5 0) 3 = false
    ∧ (dirty 5).mem.waiting = [] ∧ (dirty 5).quarantined (keyCore (lineKey 5 0)) (5 * 128) = false := by decide +kernel
/-- Core 0 with four bytes held for line 0 of channel 5: the line cached, locked as well, or only stored. -/
def heldBytes : WcEntry := ⟨0, lineKey 5 0, 0xF, sevens, false, 0⟩
def combining (s : State) : State :=
  ((regs s [(Reg.cchWcTimeout 0, 2)]).modMem fun m => { m with wc := [heldBytes] }).modTide fun t => { t with now := 2048 }
def combiningLocked : State := (combining (dirty 5)).modMem fun m => { m with locks := [⟨lineKey 5 0, 3, 0⟩] }
theorem wit_BuffersStore :
    (∀ s ∈ [combining (dirty 5), combiningLocked, combining (stored (lineKey 5 0))],
      Ready s ∧ s.mem.wc.filter (fun w => w.core == 0) = [heldBytes])
    ∧ (∀ s ∈ [combining (dirty 5), combiningLocked], s.cached heldBytes.key = some (dirtyLine 5))
    ∧ (∀ s ∈ [combining (dirty 5), combining (stored (lineKey 5 0))], (s.mem.locks.any fun x => x.key == heldBytes.key) = false)
    ∧ (combiningLocked.mem.locks.any fun x => x.key == heldBytes.key) = true
    ∧ ((combining (stored (lineKey 5 0))).cached heldBytes.key = none
      ∧ (combining (stored (lineKey 5 0))).chanOn (keyChan heldBytes.key) = true
      ∧ cellRead (combining (stored (lineKey 5 0))).mem.dram (128 * heldBytes.key) 128 = some sevens
      ∧ flagAt (combining (stored (lineKey 5 0))).mem.dramPoison heldBytes.key = false
      ∧ Sparse.get (fun _ => []) (combining (stored (lineKey 5 0))).mem.dramErr heldBytes.key = []
      ∧ heldBytes.mask ≠ BitVec.allOnes 128)
    ∧ ((combining (dirty 5)).r32 (Reg.cchWcTimeout 0) ≠ 0
      ∧ (combining (dirty 5)).mem.wc.filter (fun w => w.core == 0
        && decide (w.first + ((combining (dirty 5)).r32 (Reg.cchWcTimeout 0)).toNat ≤ (combining (dirty 5)).tick)) = [heldBytes]) := by
  decide +kernel
theorem wit_CacheFlushes :
    (Ready caching ∧ (7 : Nat) ∈ caching.mem.flushing ∧ caching.r32 (Reg.cchWcTimeout 7) ≠ 0
      ∧ caching.cached (lineKey 4095 9) = some ⟨7, lineKey 4095 9, sevens, false, false, false⟩)
    ∧ (caching.r64 (Reg.cchSramCeCnt 7)).toNat % 2 ^ 48 + 1 < 2 ^ 48 := by decide +kernel

/-- The traffic generator of channel 5 at line 9, pattern 4; and stopped. -/
def generating (stop : Bool) : State :=
  (regs off [(Reg.stkCtrl 5, 1), (Reg.stkTgCfg 5, 4), (Reg.stkTgEnd 5, 20)]).modMem fun m => { m with tg := [(5, some ⟨9, 0, false, stop⟩)] }
theorem wit_TrafficGenerator :
    (Ready off ∧ off.rb (blkCtrl (chPage 4095)) 0 = false ∧ off.rb (Reg.stkStat 4095) 0 = false)
    ∧ (Ready chans ∧ chans.rb (blkCtrl (chPage 5)) 0 = true)
    ∧ (Ready (generating false) ∧ optAt (generating false).mem.tg 5 = some ⟨9, 0, false, false⟩
      ∧ (generating false).tgOver 5 ⟨9, 0, false, false⟩ = false ∧ (generating false).rf (Reg.stkTgCfg 5) 3 2 = 0)
    ∧ (Ready (generating true) ∧ optAt (generating true).mem.tg 5 = some ⟨9, 0, false, true⟩
      ∧ (generating true).tgOver 5 ⟨9, 0, false, true⟩ = true) := by decide +kernel

/-- The generator of channel 5 checking line 9, which holds the pattern or sevens. -/
def pattern9 : List Byte := tgLine (tgBeats 4 9 0 0) false
def checking (d : List Byte) (stopOnFail : Nat) : State :=
  ((generating false).w32 (Reg.stkTgCfg 5) (BitVec.ofNat 32 (4 + 8 + 64 * stopOnFail))).modMem fun m => { m with
    dram := cellWrite m.dram (128 * lineKey 5 9) d }
theorem wit_TrafficGenerator_check : ∀ x ∈ [(pattern9, 0), (sevens, 0), (sevens, 1)],
    Ready (checking x.1 x.2) ∧ optAt (checking x.1 x.2).mem.tg 5 = some ⟨9, 0, false, false⟩
      ∧ (checking x.1 x.2).tgOver 5 ⟨9, 0, false, false⟩ = false ∧ (checking x.1 x.2).rf (Reg.stkTgCfg 5) 3 2 = 1
      ∧ (checking x.1 x.2).rb (Reg.stkTgCfg 5) 5 = false
      ∧ pattern9 = tgLine (tgBeats ((checking x.1 x.2).rf (Reg.stkTgCfg 5) 0 3) 9 ((checking x.1 x.2).r64 (Reg.stkTgSeed 5))
        ((checking x.1 x.2).r64 (Reg.stkTgUser 5))) false
      ∧ cellRead (checking x.1 x.2).mem.dram (128 * lineKey 5 9) 128 = some x.1
      ∧ flagAt (checking x.1 x.2).mem.dramPoison (lineKey 5 9) = false
      ∧ Sparse.get (fun _ => []) (checking x.1 x.2).mem.dramErr (lineKey 5 9) = []
      ∧ decide (firstDiff (dataSymbols pattern9) (dataSymbols x.1) = none) = (x.1 == pattern9) := by decide +kernel

/-- Context 0 of core 0 with its root at offset 0, where entry 0 points to a table at 0x1000 whose entry 0 is a writable page of
1 GiB at 0; and with no table entry. -/
def entry (s : State) (off key : Nat) (e : Nat) : State :=
  s.modMem fun m => { m with dram := cellWrite m.dram (128 * key + off) (bytesLE 8 e ++ List.replicate 120 0) }
def mapped : State :=
  let s := regs chans [(Reg.coreCtxRoot 0 0, 1), (blkCtrl (chPage 32), 1)]
  entry (entry s 0 (lineKey 0 0) 0x1001) 0 (lineKey 32 0) (1 + 2 + 4 + 30 * 2 ^ 7)
def unmapped : State := entry (regs chans [(Reg.coreCtxRoot 0 0, 1)]) 0 (lineKey 0 0) 0
theorem wit_TranslationsAreKeptAndDropped : (Ready mapped ∧ 0x12345 < 2 ^ 48 ∧ (mapped.engine 0).xl = [])
    ∧ (Ready unmapped ∧ (unmapped.engine 0).xl = [] ∧ unmapped.mem.hubXl = []) := by decide +kernel

/-- The board tier trained at DENSITY 0, its interface 0 enabled; its line 0 written. -/
def board : State := (regs off [(blkCtrl (bmPage 0), 1)]).modMem fun m => { m with trained := (List.range 16).map fun n => (n, 1) }
def boarded : State := board.modMem fun m => { m with board := cellWrite m.board 0 sevens }
/-- Window 0 of 4 KiB, writable, at host address 0x100000; a read of it, one of the board and one late. -/
def window : State := (gp0.w64 (Reg.gtxHwinBase 0) 0x100000).w64 (Reg.gtxHwinCtrl 0) 3
def lower (space : Nat) : Lower :=
  { space := space, off := 64, len := 4, write := false, src := 3, tick := 0, tag := 9, task := none, kind := .access
    va := 0, req := 0, dests := [], failed := false, late := false }
def waits (space : Nat) : State :=
  (window.modMem fun m => { m with lower := [lower space] }).modTide fun t => { t with now := 1024 * 0x20000 }
/-- The same access, made in the tick that stands. -/
def early (space : Nat) : State := (waits space).modTide fun t => { t with now := 0 }
theorem wit_LowerTierAccesses :
    (Ready board ∧ 0 < board.tierSize ∧ board.boardOn 0 = true)
    ∧ (Ready boarded ∧ 0 < boarded.tierSize ∧ boarded.boardOn 0 = true ∧ cellRead boarded.mem.board 0 128 = some sevens
      ∧ flagAt boarded.mem.boardPoison 0 = false ∧ Sparse.get (fun _ => []) boarded.mem.boardErr 0 = [])
    ∧ (Ready window ∧ window.hostAddr 4092 true = some 0x100FFC ∧ window.gp0Up = true ∧ window.gtxVersion < 0x102)
    ∧ (∀ n ∈ [1, 2], Ready (waits n) ∧ (waits n).mem.lower[0]? = some (lower n)
      ∧ (lower n).tick + 1 + (waits n).lateLimit n ≤ (waits n).tick
      ∧ (early n).tick < (lower n).tick + 1 + (early n).lateLimit n)
    ∧ (board.rb (blkCtrl (bmPage 0)) 0 = true ∧ board.rf (Reg.brdCfg 0) 4 2 ≠ 3) := by decide +kernel
/-- Interface 1 is disabled, and nothing lies past the tier's end; the window takes nothing past its 4 KiB. -/
theorem wit_LowerTierAccesses_refused : (∃ o, o % 128 = 0 ∧ o < board.tierSize ∧ board.boardOn o = false)
    ∧ (board.tierSize / 128 * 128 = board.tierSize ∧ board.tierSize ≤ board.tierSize)
    ∧ (window.hostAddr 4096 true = none ∧ window.hostAddr 4092 false = some 0x100FFC ∧ window.mem.reading = none
      ∧ (0 : Nat) < [(1 : Byte)].length ∧ 4096 % 128 + [(1 : Byte)].length ≤ 128)
    ∧ ({ lower 2 with kind := .row }.kind = .row) :=
  ⟨⟨128 * ((List.range 64).find? fun i => !board.boardOn (128 * i)).get!, by decide +kernel⟩, by decide +kernel⟩

/-- Tables in space 1 of engine 0 and of the hub: pages of 2 MiB from 0x200000 on, a brine object where b is 8, whose header gives raw
bytes or stands badly. -/
def brineMapped (b raw : Nat) : State :=
  let s := (regs off ((Reg.coreCtxRoot 0 0, 3) :: (List.range 16).map fun n => (blkCtrl (bmPage n), 1))).modMem fun m =>
    { m with trained := (List.range 16).map fun n => (n, 1) }
  let put (off : Nat) (l : List Byte) (m : List Host.Cell) := cellWrite m off (l ++ List.replicate (128 - l.length) 0)
  let tables (m : List Host.Cell) := put 0x2000 (bytesLE 8 (1 + 2 + b + 21 * 2 ^ 7 + 2 ^ 51 + 0x200000))
    (put 0x1000 (bytesLE 8 (1 + 2 ^ 51 + 0x2000)) (put 0 (bytesLE 8 (1 + 2 ^ 51 + 0x1000)) m))
  let object := brineHeaderBytes ⟨raw / 4096, raw, 0x2000, 0x3000, 0⟩
  s.modMem fun m => { m with board := put 0x200000 object (tables m.board) }
def leafOf (x : Xlator) (b raw : Nat) : State × Nat × XEntry := (brineMapped b raw).walk x 0 0x12345
theorem wit_WalksSucceed : (∀ x ∈ [none, some 0], (leafOf x 0 0x200000).2.1 = 0 ∧ (leafOf x 0 0x200000).2.2.brine = false)
    ∧ Ready (brineMapped 0 0x200000) ∧ ((brineMapped 0 0x200000).engine 0).xl = [] ∧ (brineMapped 0 0x200000).mem.hubXl = [] := by
  decide +kernel
theorem wit_BrineLeaves : (∀ raw ∈ [0x1000, 0x200000, 0], (leafOf (some 0) 8 raw).2.1 = 0 ∧ (leafOf (some 0) 8 raw).2.2.brine = true
      ∧ saDev (leafOf (some 0) 8 raw).2.2.frame = (brineMapped 8 raw).dev ∧ saSpace (leafOf (some 0) 8 raw).2.2.frame = 1
      ∧ ((leafOf (some 0) 8 raw).1.brineHdr 1 (saOff (leafOf (some 0) 8 raw).2.2.frame)).2
        = if raw = 0 then .inr 12 else .inl ⟨raw / 4096, raw, 0x2000, 0x3000, 0⟩)
    ∧ (leafOf (some 0) 8 0).2.2.log2 = 21 := by decide +kernel

/-! ## Witnesses: links, host, token stream -/

/-- Port p enabled and in state n; GP0 is enabled once BOOT_STAT says so. -/
def portAt (p n : Nat) : State :=
  ((regs off [(blkCtrl (fpPage 0), 1), (blkCtrl (fpPage 7), 1), (Reg.secBootStat, 4)]).setPortState p n).modPort p fun x => { x with limit := 0x101 }
def good : QualifyResult := { errs := List.replicate 8 0, peerGood := 0xFF, reversed := false, inverted := 0 }
def neg : NegRecord := { low := 0x100, high := 0x102, credits := List.replicate 8 100, dev := 3, port := 2, rates := 0 }
def retry : State := ((portAt 7 0).w32 (Reg.fabRetry 7) 1).modTide fun t => { t with now := 1024 * 9 }
theorem wit_TrainingStates :
    (Ready (portAt 7 0) ∧ (portAt 7 0).portEn 7 = true ∧ ((portAt 7 0).r32 (Reg.fabCfg 7)).getLsbD 0 = false
      ∧ (portAt 8 0).portEn 8 = true)
    ∧ (Ready retry ∧ retry.portEn 7 = true ∧ retry.portState 7 = 0 ∧ retry.r32 (Reg.fabRetry 7) ≠ 0
      ∧ (retry.port 7).downAt + (retry.r32 (Reg.fabRetry 7)).toNat ≤ retry.tick ∧ (retry.r32 (Reg.fabCfg 7)).getLsbD 0 = false)
    ∧ (∀ p ∈ [0, 7, 8], ∀ n ∈ [1, 2, 3, 4], Ready (portAt p n) ∧ (portAt p n).portState p = n)
    ∧ (∀ p ∈ [0, 8], ((portAt p 3).port p).retrain = false ∧ (portAt p 3).minWidth p
        ≤ (chooseWidth (lanesOf p) (Nat.land ((portAt p 3).ownGood p good.errs) good.peerGood.toNat)).1
      ∧ (chooseWidth (lanesOf p) (Nat.land ((portAt p 3).ownGood p good.errs) 0)).1 < (portAt p 3).minWidth p)
    ∧ (∀ p ∈ [0, 8], Nat.land (((portAt p 3).modPort p fun x => { x with reversed := good.reversed, inverted := good.inverted }).ownGood p
        good.errs) good.peerGood.toNat = Nat.land ((portAt p 3).ownGood p good.errs) good.peerGood.toNat
      ∧ (portAt p 3).ethernet p = false)
    ∧ ((portAt 7 4).ethernet 7 = false ∧ (portAt 7 4).agreedWith 7 neg ≠ none
      ∧ (portAt 7 4).agreedWith 7 { neg with low := 0x300, high := 0x300 } = none
      ∧ ({ neg with dev := 0 } : NegRecord).dev = ((portAt 7 4).port 7).own) := by
  decide +kernel

/-- FP7 in Ethernet mode, and in DETECT of late. -/
def ethAt (n : Nat) : State := ((portAt 7 n).modPort 7 fun x => { x with cfg := 1 }).w32 (Reg.fabCfg 7) 1
def optic : State := (ethAt 3).modPort 7 fun x => { x with cfg := 0x11 }
def searched (n : Nat) : State := (portAt 7 1).modTide fun t => { t with now := BitVec.ofNat 64 (1024 * n) }
theorem wit_TrainingStates_ethernet :
    (Ready (ethAt 4) ∧ (ethAt 4).portState 7 = 4 ∧ (ethAt 4).ethernet 7 = true ∧ (ethAt 4).optical 7 = false)
    ∧ (Ready optic ∧ optic.portState 7 = 3 ∧ (optic.port 7).retrain = false ∧ optic.ethernet 7 = true ∧ optic.optical 7 = true
      ∧ (optic.port 7).fallback = false ∧ optic.minWidth 7 ≤ (chooseWidth (lanesOf 7) (Nat.land ((optic.modPort 7 fun x =>
        { x with reversed := good.reversed, inverted := good.inverted }).ownGood 7 good.errs) good.peerGood.toNat)).1)
    ∧ (Ready (ethAt 5) ∧ ((ethAt 5).r32 (Reg.fabCfg 7)).getLsbD 0 = true ∧ (ethAt 5).portEn 7 = true)
    ∧ ((portAt 6 0).portEn 6 = false)
    ∧ (∀ n ∈ [1952, 1953], Ready (searched n) ∧ (searched n).portState 7 = 1 ∧ (searched n).ethernet 7 = false
      ∧ (decide ((searched n).tick < ((searched n).port 7).enteredAt + 1953) = decide (n < 1953))) := by decide +kernel

/-- Port p in RETRAIN for long; FP7 draining with nothing left. -/
def retrains (p : Nat) : State := ((portAt p 6).modPort p fun x => { x with retrain := true }).modTide fun t => { t with now := 1024 * 0x20000 }
def drains : State := (portAt 7 5).w32 (blkStat (fpPage 7)) 3
def leavingPort : State := ((portAt 7 5).w32 (blkStat (fpPage 7)) 1).modPort 7 fun x => { x with tx := [1, 2, 3] }
def ethMac : State := (ethAt 5).w64 (Reg.fabMac 7) 0x123456789A
theorem wit_LinkFailures :
    (∀ p ∈ [0, 8], Ready (portAt p 5) ∧ 3 < lanesOf p ∧ (portAt p 5).portState p = 5 ∧ (portAt p 5).ethernet p = false
      ∧ (p < 8 → ((portAt p 5).r32 (Reg.fabCfg p)).getLsbD 0 = false) ∧ (portAt p 5).portSet p Reg.fabLaneCeLim 0 32 2048 < 2 ^ 33)
    ∧ (∀ p ∈ [0, 8], Ready (retrains p) ∧ ((retrains p).port p).retrain = true
      ∧ ((retrains p).port p).enteredAt + (retrains p).portSet p Reg.fabRetrainLimit 0 16 1024 ≤ (retrains p).tick)
    ∧ (Ready ethMac ∧ ethMac.portState 7 = 5 ∧ ethMac.ethernet 7 = true ∧ ethMac.portEn 7 = true
      ∧ (ethMac.r32 (Reg.fabCfg 7)).getLsbD 0 = true ∧ fld (ethMac.r64 (Reg.fabMac 7)) 0 48 ≠ 0)
    ∧ (Ready drains ∧ drains.draining (fpPage 7) = true ∧ (drains.port 7).replay = []
      ∧ (drains.port 7).tx = [])
    ∧ (Ready leavingPort ∧ leavingPort.active (fpPage 7) = true ∧ leavingPort.portState 7 = 5 ∧ leavingPort.ethernet 7 = false) := by decide +kernel

theorem crc64Bits_lt (n c : Nat) (h : c < 2 ^ 64) : crc64Bits n c < 2 ^ 64 := by
  induction n generalizing c with
  | zero => exact h
  | succ n ih =>
    simp only [crc64Bits]
    apply ih
    split
    · exact Nat.xor_lt_two_pow (Nat.mod_lt _ (by decide)) (by decide)
    · omega

theorem crc64_lt (b : List Byte) : crc64 b < 2 ^ 64 := by
  have fold : ∀ (l : List Byte) (c : Nat), c < 2 ^ 64 →
      l.foldl (fun c x => crc64Bits 8 (Nat.xor c (x.toNat * 2 ^ 56))) c < 2 ^ 64 := by
    intro l
    induction l with
    | nil => intro c h; simpa only [List.foldl_nil] using h
    | cons x l ih =>
      intro c h
      rw [List.foldl_cons]
      apply ih
      apply crc64Bits_lt
      exact Nat.xor_lt_two_pow h (by have := x.isLt; omega)
  unfold crc64
  apply Nat.xor_lt_two_pow
  · exact fold b _ (by decide)
  · decide

/-- A flit of zeros but for its sequence number 1, with a CRC. -/
def flit (crc : BitVec 64) : Flit := { seq := 1, ack := 0, ackValid := false, nak := false, null := false, cr := [], slots := [], crc := crc, rsv := 0 }
theorem crc64_value (b : List Byte) : ∃ c d : BitVec 64, crc64 b = c.toNat ∧ crc64 b ≠ d.toNat := by
  have h : (BitVec.ofNat 64 (crc64 b)).toNat = crc64 b := Nat.mod_eq_of_lt (crc64_lt b)
  refine ⟨_, BitVec.ofNat 64 (crc64 b) + 1, h.symm, fun e => ?_⟩
  have e' := BitVec.eq_of_toNat_eq (h.trans e)
  generalize BitVec.ofNat 64 (crc64 b) = x at e'
  have := congrArg (· - x) e'
  simp at this
theorem wit_FlitsAndPackets_crc : ∃ c d : BitVec 64, crc64 (flitBytes (flit c)) = (flit c).crc.toNat
    ∧ crc64 (flitBytes (flit d)) ≠ (flit d).crc.toNat := crc64_value (flitBytes (flit 0))
def fresh (p : Nat) : State := (portAt p 5).modPort p fun x => { x with rxSeq := 0, nakSent := false }
/-- One flit unacknowledged for long; one packet of 39 slots waiting on lane 7 with 39 slots of credit. -/
def unacked (p : Nat) : State := ((fresh p).modPort p fun x => { x with replay := [flit 0] }).modTide fun t => { t with now := 1024 * 999 }
def pkt : TxPkt := { vl := 7, slots := 39, type := 1, bytes := [1, 2, 3], packet := none }
def queued (p : Nat) : State := (fresh p).modPort p fun x => { x with txq := [pkt], credit := setNat x.credit 7 39 }
def ethQueue : State := (ethAt 5).modPort 7 fun x => { x with txq := [pkt] }
/-- FP7 with one codeword received; a codeword of zeros whose one error is corrected, and one that is not a word of the code. -/
def later (p : Nat) : State := (portAt p 5).modPort p fun x => { x with rxNum := 1 }
def zeroWord (fix : List (Nat × Nat)) (first : Nat) : Codeword :=
  { lanes := [first :: List.replicate 543 0], fix := fix, rx := 0, tx := 0 }
theorem wit_FlitsAndPackets_codeword :
    isWord (fixSymbols (gatherSymbols ((later 7).lanesIn 7 (zeroWord [(0, 5)] 5).lanes)) (zeroWord [(0, 5)] 5).fix) = true
    ∧ isWord (fixSymbols (gatherSymbols ((later 7).lanesIn 7 (zeroWord [] 5).lanes)) (zeroWord [] 5).fix) = false := by decide +kernel
theorem wit_FlitsAndPackets_kind :
    (decodeWord (fixSymbols (gatherSymbols ((later 7).lanesIn 7 (zeroWord [(0, 5)] 5).lanes)) (zeroWord [(0, 5)] 5).fix)
      ((later 7).port 7).rxScr).1 = 0 := by decide +kernel
theorem wit_FlitsAndPackets :
    (Ready (portAt 7 1) ∧ (portAt 7 1).portState 7 ≠ 0 ∧ (portAt 7 1).ethernet 7 = false
      ∧ ((portAt 7 1).r64 (Reg.fabFecUeCnt 7)).toNat % 2 ^ 48 + 1 < 2 ^ 48
      ∧ ((portAt 7 1).r64 (Reg.fabFecCeCnt 7)).toNat % 2 ^ 48 + 1 < 2 ^ 48 ∧ ((portAt 7 1).port 7).rxNum % 8192 = 0
      ∧ ((later 7).port 7).rxNum % 8192 ≠ 0)
    ∧ (∀ p ∈ [0, 8], Ready (fresh p) ∧ (fresh p).portState p = 5 ∧ (fresh p).ethernet p = false
      ∧ (flit 0).seq = ((fresh p).port p).rxSeq + 1 ∧ ((fresh p).port p).nakSent = false
      ∧ ((fresh p).port p).txq = [] ∧ (List.range 8).any (((queued p).port p).canStart true) = true)
    ∧ (∀ p ∈ [0, 8], Ready (unacked p) ∧ (unacked p).portState p = 5 ∧ ((unacked p).port p).replay = [flit 0]
      ∧ ((unacked p).port p).replays < 8
      ∧ ((unacked p).port p).ackAt + (unacked p).portSet p Reg.fabLlrTimeout 0 8 4 ≤ (unacked p).tick)
    ∧ (∀ p ∈ [0, 8], Ready (queued p) ∧ (queued p).portState p = 5 ∧ (queued p).portEn p = true ∧ (queued p).ethernet p = false
      ∧ ((queued p).port p).txq = [pkt] ∧ pkt.vl < 8 ∧ pkt.slots ≤ natAt ((queued p).port p).credit pkt.vl
      ∧ ((queued p).port p).replay.length + streamFlits (((queued p).port p).tx ++ packetSlots pkt) ≤ 1024)
    ∧ (Ready ethQueue ∧ ethQueue.portState 7 = 5 ∧ ethQueue.portEn 7 = true ∧ ethQueue.ethernet 7 = true
      ∧ (ethQueue.port 7).txq = [pkt] ∧ optAt (ethQueue.port 7).paused pkt.vl = none) := by decide +kernel

/-- FP0 runs Ethernet, with PFC for priority 3, of which it has sent XOFF; or which the peer has paused for long. -/
def pfc : State := (eth.w32 (Reg.fabPfcCfg 0) 8).modPort 0 fun x => { x with xoff := setFlag x.xoff 3 true }
def storm : State := ((eth.w32 (Reg.fabPfcStorm 0) 1).modPort 0 fun x => { x with paused := [(3, some (0, 0))] }).modTide fun t => { t with now := 2048 }
theorem wit_EthernetFlowControl :
    (Ready eth ∧ eth.portState 0 = 5 ∧ eth.ethernet 0 = true
      ∧ ((List.range 8).map fun i => natAt (eth.port 0).level i).sum + 9216 ≤ ethBuffer)
    ∧ ([⟨0, 64, true, true⟩, ⟨0, 64, false, false⟩, ⟨0, 63, true, false⟩, ⟨0, 9217, true, false⟩] : List EthFrame).all
      (fun f => f.pause || !f.fcsOk || decide (f.bytes < 64) || decide (9216 < f.bytes)) = true
    ∧ (Ready pfc ∧ pfc.portState 0 = 5 ∧ pfc.ethernet 0 = true ∧ pfc.pfcEn 0 3 = true ∧ flagAt (pfc.port 0).xoff 3 = true)
    ∧ (Ready storm ∧ optAt (storm.port 0).paused 3 = some (0, 0) ∧ storm.r32 (Reg.fabPfcStorm 0) ≠ 0
      ∧ 0 + (storm.r32 (Reg.fabPfcStorm 0)).toNat ≤ storm.tick) := by decide +kernel

theorem wit_HostAccesses :
    (Ready gp0 ∧ gp0.gp0Up = true ∧ accessMapped (wr 0x1C 0) = true ∧ accessMapped (wr 0x3FFFFFC 0) = false)
    ∧ (isPage 0x1C = true ∧ 0x1C % 0x1000 < 0x100 ∧ mayWrite .host 0x1C = true)
    ∧ (regSpace ≤ regSpace + 0x1C ∧ regSpace + 0x1C < 2 * regSpace)
    ∧ (isDoorbell 0x1C = false ∧ 0x1C ≠ Reg.srvCmdTail) := by decide +kernel

/-- One record waiting since tick 0, with room in the host ring, over Gutex 1.1 or 1.0; the ring full since tick 0. -/
def stream : State :=
  (regs (portUp bootDone 8) [(Reg.gtxTsDevProd, 1), (Reg.gtxTsFlush, 1), (blkProtoActive gtxPn, 0x101)]).modTide fun t => { t with now := 4096 }
def stream0 : State := stream.w32 (blkProtoActive gtxPn) 0x100
def waiting1 : State := { stream with tsMarks := [(1, 0)] }
def ringFull (told : Bool) : State := { stream.w32 Reg.gtxTsStall 1 with tsFull := some (0, told) }
theorem wit_TokenStream :
    (Ready bootDone ∧ bootDone.released = true ∧ bootDone.gp0Up = false ∧ Ready gp0 ∧ gp0.released = false)
    ∧ (∀ s ∈ [stream, stream0], Ready s ∧ s.gp0Up = true ∧ s.released = true ∧ s.tsRoom ≠ 0 ∧ s.tsWaiting = 1)
    ∧ 0x101 ≤ stream.gtxVersion ∧ stream0.gtxVersion < 0x101
    ∧ (Ready waiting1 ∧ waiting1.gp0Up = true ∧ waiting1.released = true ∧ waiting1.tsRoom ≠ 0 ∧ waiting1.tsWaiting = 1
      ∧ waiting1.tsFirst = some 0 ∧ 0 + (waiting1.r32 Reg.gtxTsFlush).toNat ≤ waiting1.tick ∧ 0x101 ≤ waiting1.gtxVersion)
    ∧ (∀ told ∈ [false, true], Ready (ringFull told) ∧ (ringFull told).tsFull = some (0, told)
      ∧ (ringFull told).r32 Reg.gtxTsStall ≠ 0 ∧ 0 + ((ringFull told).r32 Reg.gtxTsStall).toNat ≤ (ringFull told).tick) := by
  decide +kernel

/-! ## Witnesses: transport -/

/-- Board lines from an offset: the bytes, and zeros up to whole lines. -/
def lines (s : State) (off : Nat) (b : List Byte) : State :=
  s.modMem fun m => { m with board := cellWrite m.board off (b ++ List.replicate ((128 - b.length % 128) % 128) 0) }
/-- Words written out in bytes. -/
def words (l : List Nat) : List Byte := l.flatMap (bytesLE 8)

/-- A queue pair in a state, of version 2.0, with PMTU 1024, rings of 16 at 0x1000 and 0x3000, key 0x1234, its peer being queue
pair 9 of device 3. -/
def qpIn (state : Nat) : Qp := { Qp.reset with
  state := state, cwnd := 256 * 16, ssthresh := 256 * 16, recover := 0xFFFFFF
  ctx := [BitVec.ofNat 64 (0x1234 * 2 ^ 16 + 9 * 2 ^ 32 + 3 * 2 ^ 48),
    BitVec.ofNat 64 (2 * 2 ^ 4 + 4 * 2 ^ 8 + 4 * 2 ^ 13 + 3 * 2 ^ 42 + 3 * 2 ^ 45 + 2 ^ 48), 0x1000, 0x3000, 16, 0, 0, 0] }

/-- The device with a trained board, FP0 UP, its hub's translations and its tables of regions, completion queues and contexts;
region 3 is 4 KiB of the board, region 2 a page of stack memory. -/
def fabric : State :=
  let s := regs (portUp off 0) ((List.range 16).map fun n => (blkCtrl (bmPage n), 1))
  let s := regs s [(blkCtrl (fpPage 0), 1), (blkCtrl (chPage 5), 1), (blkCtrl (chPage 31), 1), (Reg.xptPkeyTab 0, 0x80001234), (Reg.xptRgnCfg, 4)]
  let s := ((s.w64 Reg.xptRgnBase 0x100001).w64 Reg.xptCqBase 0x110001).w64 Reg.xptQpcBase 0x120001
  let s := s.modMem fun m => { m with
    trained := (List.range 16).map fun n => (n, 1)
    dram := cellWrite (cellWrite m.dram (128 * lineKey 5 0) (List.replicate 128 7)) (128 * lineKey 31 0) (List.replicate 128 0)
    hubXl := [⟨0, 0, 30, 2 ^ 51, true, false, 0, 0⟩, ⟨0, 2 ^ 30, 12, 0, true, false, 0, 0⟩,
      ⟨0, 2 ^ 30 + 4096, 12, 2 ^ 51 + 0x30000, true, false, 0, 0⟩] }
  let s := lines s 0x100000 (List.replicate 64 0 ++ words [1 + 28 + 0x1234 * 2 ^ 32, 2 ^ 30, 4096, 0] ++ words [1 + 28 + 0x1234 * 2 ^ 32, 0x4000, 4096, 0])
  let s := lines (lines (lines s 0x110000 (words [0])) 0x4000 (sevens.take 16)) 0x2000 (sevens.take 8)
  s.setQp 5 (qpIn 3)

/-- Queue pair 5 with a send WQE of words v at index 0. -/
def posted (v : List Nat) : State := (lines fabric 0x1000 (words v)).modQp 5 fun q => { q with sqTail := 1 }
def sendV : List Nat := [8 * 2 ^ 32, 0x2000, 0, 0, 0, 0, 0, 0]
def writeV : List Nat := [1 + 8 * 2 ^ 32, 0x2000, 0x40, 3, 0, 0, 0, 0]
def readV : List Nat := [2 + 8 * 2 ^ 32, 0x2000, 0x40, 3, 0, 0, 0, 0]
def atomicV : List Nat := [4 + 8 * 2 ^ 10 + 4 * 2 ^ 32, 0x2000, 0x40, 3, 0, 1, 0, 0]
def addV : List Nat := [6 + 8 * 2 ^ 32, 0x2000, 0x40, 3, 0, 0, 0, 0]
/-- A rake of a block of one row of 64 elements; its record goes to a gather area of which the first word is in stack memory. -/
def rakeV : List Nat := [0x10 + 192 * 2 ^ 32, 0x2000, 0, 0, 0, 2 ^ 30 + 4096 - 64, 100, 0]
def rakeBlock : List Byte := words [2 ^ 16, 0, 0, 0, 0, 0, 0, 0, 0, 0, 2 ^ 24, 0] ++ List.replicate 96 0

/-- The hypotheses of WorkRequestsStart that concern the WQE, at the states that the memory path leaves. -/
def starts (s : State) (op : Nat) : Bool :=
  match s.readSq 5 (s.qp 5).sqHead with
  | (r, some v) =>
    let m := r.makeWqe 5 v
    let k := (withWqe m.1 5 m.2).wqePacket 5 m.2 0
    decide (Ready s ∧ (5 : Nat) ≠ 0 ∧ (s.qp 5).state = 3 ∧ s.pwr.tripped = false ∧ (s.qp 5).wqes = [] ∧ (s.qp 5).sqHead ≠ (s.qp 5).sqTail
      ∧ (s.qp 5).una = (s.qp 5).npsn ∧ (s.qp 5).rnrWait = none ∧ 256 ≤ (s.qp 5).cwnd ∧ 1 ≤ (s.qp 5).wndMax ∧ s.xpt.cqOvf = []
      ∧ wqOp v = op ∧ s.wkindMet v = true ∧ m.1.xpt = s.xpt ∧ m.2.fail = 0 ∧ m.2.requests (s.qp 5) = 1 ∧ 0 < m.2.count
      ∧ m.2.count < 2 ^ 23 ∧ k.2.isSome = true ∧ k.1.xpt = (withWqe m.1 5 m.2).xpt)
  | _ => false

theorem starts_posted (s : State) (op : Nat) (h : starts s op = true) :
    ∃ v w s1 s2 k, Posted s 5 op v w s1 s2 k := by
  unfold starts at h
  split at h
  · next r v hr =>
    simp only [decide_eq_true_eq] at h
    obtain ⟨h1, h2, h3, h4, h5, h6, h7, h8, h9, h10, h11, h12, h13, h14, h15, h16, h17, h18, h19, h20⟩ := h
    obtain ⟨k, hk⟩ := Option.isSome_iff_exists.mp h19
    exact ⟨v, _, _, _, k, h1, h2, h3, h4, h5, h6, h7, h8, h9, h10, h11, by rw [hr], h12, h13, by rw [hr], h14, h15, h16, h17, h18,
      by rw [← hk], h20⟩
  · cases h

theorem wit_WorkRequestsStart :
    (∃ v w s1 s2 k, Posted (posted sendV) 5 opSend v w s1 s2 k) ∧ (∃ v w s1 s2 k, Posted (posted writeV) 5 opWrite v w s1 s2 k)
    ∧ (∃ v w s1 s2 k, Posted (posted readV) 5 opRead v w s1 s2 k) ∧ (∃ v w s1 s2 k, Posted (posted atomicV) 5 opAtomic v w s1 s2 k)
    ∧ (∃ v w s1 s2 k, Posted (posted addV) 5 opAdd v w s1 s2 k)
    ∧ (∃ v w s1 s2 k, Posted (lines (posted rakeV) 0x2000 rakeBlock) 5 opRake v w s1 s2 k) :=
  ⟨starts_posted _ _ (by decide +kernel), starts_posted _ _ (by decide +kernel), starts_posted _ _ (by decide +kernel),
    starts_posted _ _ (by decide +kernel), starts_posted _ _ (by decide +kernel), starts_posted _ _ (by decide +kernel)⟩

/-- A packet of opcode op to queue pair 5 from its peer, without its CRC. -/
def pk (op : Nat) (psn : BitVec 24) (ext : List Nat) (payload : List Byte) : Packet :=
  { opcode := BitVec.ofNat 8 op, ver := 2, ackreq := false, first := true, last := true, ce := false, pkey := 0x1234, dstQpn := 5,
    dstDev := 0, psn := psn, srcQpn := 9, srcDev := 3, tc := 0, poison := false, ext := ext.map (BitVec.ofNat 64), payload := payload,
    pcrc := 0, ip := none, rsv := 0 }
/-- The same with its CRC, which the header's CRC field does not enter. -/
def withCrc (k : Packet) : Packet := { k with pcrc := pcrcOf k }
theorem pcrc_withCrc (k : Packet) : (withCrc k).pcrc = pcrcOf (withCrc k) := rfl

def passOk (s : State) (p op : Nat) (k : Packet) : Bool :=
  decide (Ready s ∧ k.opcode.toNat = op ∧ k.rsv = 0 ∧ forwardedReply k = false ∧ s.portState p = 5 ∧ k.dstDev.toNat = s.dev
    ∧ s.ethernet p = false ∧ k.ver.toNat = (s.qp k.dstQpn.toNat).major
    ∧ (s.qp k.dstQpn.toNat).state ≠ 0 ∧ (s.qp k.dstQpn.toNat).state ≠ 1 ∧ (s.qp k.dstQpn.toNat).state ≠ 6
    ∧ k.srcDev.toNat = (s.qp k.dstQpn.toNat).c 0 48 10 ∧ k.srcQpn.toNat = (s.qp k.dstQpn.toNat).c 0 32 16
    ∧ k.pkey.toNat = (s.qp k.dstQpn.toNat).pkey ∧ s.xpt.cqOvf = [])
def nextOk (s : State) (p op : Nat) (k : Packet) : Bool :=
  passOk s p op k && decide ((s.qp k.dstQpn.toNat).shut = false ∧ opVersion op ≤ (s.qp k.dstQpn.toNat).version
    ∧ k.psn = (s.qp k.dstQpn.toNat).epsn ∧ (s.qp k.dstQpn.toNat).ahead = [] ∧ (s.qp k.dstQpn.toNat).recv = []
    ∧ (s.qp k.dstQpn.toNat).rsigs = [])
theorem passes_withCrc {s : State} {p op : Nat} {k : Packet} (h : passOk s p op k = true) : Passes s p op (withCrc k) := by
  unfold passOk at h
  simp only [decide_eq_true_eq] at h
  obtain ⟨h1, h2, h3, h4, h5, h6, h7, h8⟩ := h
  exact ⟨h1, h2, h3, h4, h5, h6, pcrc_withCrc k, fun e => absurd (h7.symm.trans e) Bool.false_ne_true, h8⟩
theorem nextRequest_withCrc {s : State} {p op : Nat} {k : Packet} (h : nextOk s p op k = true) : NextRequest s p op (withCrc k) := by
  unfold nextOk at h
  simp only [Bool.and_eq_true, decide_eq_true_eq] at h
  exact ⟨passes_withCrc h.1, h.2⟩
theorem eq_of_snd {α β : Type} {x : α × β} {v : β} (h : x.2 = v) : x = (x.1, v) := by rw [← h]
theorem eq_of_mid {α β γ : Type} {x : α × β × γ} {v : β} (h : x.2.1 = v) : x = (x.1, v, x.2.2) := by rw [← h]
theorem eq_of_last {α β γ : Type} {x : α × β × γ} {v : γ} (h : x.2.2 = v) : x = (x.1, x.2.1, v) := by rw [← h]

/-- Queue pair 5 with a WQE sent and not answered, of words v and n PSNs. -/
def sent (v : List Nat) (n size : Nat) : State := (posted v).modQp 5 fun q => { q with
  sqHead := 1, npsn := BitVec.ofNat 24 n
  wqes := [{ index := 0, words := v.map (BitVec.ofNat 64), psn := 0, count := n, got := [], slot := none, attempt := 0, poison := false,
             stale := false, msn := 0, size := size, fail := 0 }] }
def one (s : State) : Wqe := (s.qp 5).wqes.headD ⟨0, [], 0, 0, [], none, 0, false, false, 0, 0, 0⟩
def readLong : List Nat := [2 + 2048 * 2 ^ 32, 0x8000, 0x40, 3, 0, 0, 0, 0]
def late (s : State) : State := s.modTide fun t => { t with now := 1024 * 100 }
/-- A delay after an RNR that has ended, with nothing sent. -/
def rnr : State := fabric.modQp 5 fun q => { q with rnrWait := some (0, 0) }

/-- Three packets not yet acknowledged, their acknowledgement due. -/
def unanswered : State := owing (fabric.modQp 5 fun q => { q with unacked := 3 }) (.delayedAck 5)

theorem wit_DoorbellsAndTimers :
    (Ready fabric ∧ (fabric.qp 5).state ≠ 0 ∧ (fabric.qp 5).state ≠ 6
      ∧ tailOk ((16 : Dword).setWidth 32) (fabric.qp 5).sqDone (fabric.qp 5).sqHead (2 ^ (fabric.qp 5).sqSize) = true
      ∧ tailOk ((17 : Dword).setWidth 32) (fabric.qp 5).sqDone (fabric.qp 5).sqHead (2 ^ (fabric.qp 5).sqSize) = false
      ∧ (fabric.qp 6).state = 0)
    ∧ (DueOnly (.delayedAck 5) unanswered ∧ (unanswered.qp 5).unacked ≠ 0 ∧ (unanswered.qp 5).responds = true)
    ∧ (Ready rnr ∧ (rnr.qp 5).rnrWait = some (0, 0) ∧ (rnr.qp 5).requests = true ∧ 0 ≤ rnr.tick ∧ (rnr.qp 5).wqes = []
      ∧ (rnr.qp 5).state = 3 ∧ rnr.xpt.cqOvf = [] ∧ (rnr.qp 5).npsn = (rnr.qp 5).una) := by decide +kernel

/-- A WRITE whose time is over, on a connection that goes back. -/
def timedOut : State := late ((sent writeV 1 0).modQp 5 fun q => { q with ctx := (nth 0 q.ctx 0 + 1) :: q.ctx.drop 1 })
theorem wit_DoorbellsAndTimers_timeout : ∃ u, Ready timedOut ∧ (timedOut.qp 5).requests = true ∧ (timedOut.qp 5).una ≠ (timedOut.qp 5).npsn
    ∧ timedOut.timerHeld (timedOut.qp 5) = false ∧ (timedOut.qp 5).timerAt + (timedOut.qp 5).timerMul * (timedOut.qp 5).rto ≤ timedOut.tick
    ∧ (timedOut.qp 5).goBackN = true ∧ timedOut.resendFrom 5 (timedOut.qp 5).una = u ∧ u.xpt = timedOut.xpt ∧ timedOut.xpt.cqOvf = []
    ∧ (timedOut.qp 5).retries + 1 ≤ (timedOut.qp 5).retryMax ∧ (timedOut.qp 5).wqes = [one timedOut] ∧ (one timedOut).fail = 0
    ∧ (timedOut.qp 5).npsn = (timedOut.qp 5).endPsn
    ∧ seqLe ((one timedOut).psn + BitVec.ofNat 24 (one timedOut).count) (timedOut.qp 5).una = false :=
  ⟨timedOut.resendFrom 5 0, by decide +kernel, by decide +kernel, by decide +kernel, by decide +kernel, by decide +kernel,
    by decide +kernel, rfl, by decide +kernel, by decide +kernel, by decide +kernel, by decide +kernel, by decide +kernel,
    by decide +kernel, by decide +kernel⟩

def respK : Packet := pk 3 0 [] (List.replicate 1024 1)
def atomK : Packet := pk 5 0 [0, 0, 0] (List.replicate 8 1)
def ackK : Packet := pk 8 0 [1, 0, 0] []
def rakeRespK : Packet := pk 0x11 0 [0] (List.replicate 1024 1)
/-- A rake of one request packet whose record of 2,000 bytes is still to come. -/
def raking : State := sent rakeV 2 2000
theorem wit_RepliesArrive :
    (Passes (sent readLong 2 2048) 0 3 (withCrc respK) ∧ Passes (sent atomicV 1 4) 0 5 (withCrc atomK) ∧ Passes (sent writeV 1 8) 0 8 (withCrc ackK)
      ∧ Passes fabric 0 9 (withCrc (pk 9 0 [] [])) ∧ Passes raking 0 0x11 (withCrc rakeRespK))
    ∧ (let s := sent readLong 2 2048
      (s.qp 5).wqes = [one s] ∧ wqOp (one s).words = opRead ∧ (one s).got = [] ∧ (one s).psn = (s.qp 5).una ∧ (one s).count = 2
      ∧ (s.qp 5).npsn = (one s).psn + 2 ∧ respK.payload.length = min (s.qp 5).pmtu (wqLen (one s).words)
      ∧ ((takenIn s respK).vSpanWrite (s.qp 5).local_ (wqLocal (one s).words) 0 respK.payload false).2 = 0
      ∧ ((takenIn s respK).vSpanWrite (s.qp 5).local_ (wqLocal (one s).words) 0 respK.payload false).1.xpt = s.xpt)
    ∧ (let s := sent atomicV 1 4
      (s.qp 5).wqes = [one s] ∧ wqOp (one s).words = opAtomic ∧ (one s).count = 1 ∧ (s.qp 5).npsn = (one s).psn + 1
      ∧ nth 0 (one s).words 4 = 0 ∧ fld (nth 0 (one s).words 0) 8 1 = 0
      ∧ ((takenIn s atomK).vSpanWrite (s.qp 5).local_ (wqLocal (one s).words) 0 (atomK.payload.take (wqLen (one s).words)) false).2 = 0
      ∧ ((takenIn s atomK).vSpanWrite (s.qp 5).local_ (wqLocal (one s).words) 0 (atomK.payload.take (wqLen (one s).words)) false).1.xpt = s.xpt)
    ∧ (let s := sent writeV 1 8
      (s.qp 5).wqes = [one s] ∧ wqOp (one s).words = opWrite ∧ (one s).poison = false ∧ (s.qp 5).npsn.toNat = 1
      ∧ nth 0 (one s).words 4 = 0 ∧ fld (nth 0 (one s).words 0) 8 1 = 0)
    ∧ ((fabric.qp 5).sqTail = (fabric.qp 5).sqDone ∧ (fabric.qp 5).rqTail = (fabric.qp 5).rqDone)
    ∧ (let u := (takenIn raking rakeRespK).claimSlot 5 (one raking).words
      2 ≤ (raking.qp 5).major ∧ (raking.qp 5).wqes = [one raking] ∧ wqOp (one raking).words = opRake
      ∧ (one raking).requests (raking.qp 5) = 1 ∧ (one raking).count = 2 ∧ (raking.qp 5).npsn = (one raking).psn + 2
      ∧ packetsFor (raking.qp 5).pmtu (wqLen (one raking).words) = 1 ∧ fld (0 : Dword) 16 4 = (one raking).attempt.toNat
      ∧ rakeRespK.payload.length = min (raking.qp 5).pmtu (one raking).size ∧ (one raking).slot = none ∧ u.2 = some 0
      ∧ u.1.xpt = raking.xpt
      ∧ (u.1.vSpanWrite (raking.qp 5).local_ (wqGather (one raking).words + 64) 0 rakeRespK.payload false).2 = 0
      ∧ (u.1.vSpanWrite (raking.qp 5).local_ (wqGather (one raking).words + 64) 0 rakeRespK.payload false).1.xpt = raking.xpt) :=
  ⟨⟨passes_withCrc (by decide +kernel), passes_withCrc (by decide +kernel), passes_withCrc (by decide +kernel), passes_withCrc (by decide +kernel),
    passes_withCrc (by decide +kernel)⟩, by decide +kernel, by decide +kernel, by decide +kernel, by decide +kernel, by decide +kernel⟩

def writeK : Packet := pk 1 0 [0x40, 3 + 8 * 2 ^ 32, 0] (List.replicate 8 1)
def addK : Packet := pk 6 0 [5 * 128, 2 + 8 * 2 ^ 32, 0] (List.replicate 8 1)
def readK : Packet := pk 2 0 [0x40, 3 + 8 * 2 ^ 32, 0] []
def atomicK : Packet := pk 4 0 [5 * 128 + 8 * 2 ^ 48, 2 + 4 * 2 ^ 32, 1, 0] []

/-- What the memory path finds for a WRITE (add false) or an ADD_WRITE. -/
def placed (k : Packet) (add : Bool) : Bool :=
  let h := rethOf k
  let c := (takenIn fabric k).keyCheck h.key h.off k.payload.length k.pkey.toNat (fabric.qp 5).src (if add then .atom else .wr)
  let a := { (fabric.qp 5).acc c.2.2.ctx with spaces := if add then [0] else [0, 1, 2] }
  let b := c.1.canReach a (c.2.2.va + h.off) k.payload.length true
  let r := if add then b.1.vAdd a (c.2.2.va + h.off) h.op k.payload false else b.1.vSpanWrite a (c.2.2.va + h.off) 0 k.payload false
  decide (h.bad = false ∧ k.payload ≠ [] ∧ k.payload.length ≤ (fabric.qp 5).pmtu ∧ h.rsig = 0 ∧ h.op = 0 ∧ h.key ≠ 0xFFFFFFFF
    ∧ k.payload.length % nmaWidth h.op = 0 ∧ (c.2.2.va + h.off) % nmaWidth h.op = 0 ∧ c.2.1 = 0 ∧ b.2 = 0 ∧ r.2 = 0 ∧ r.1.xpt = fabric.xpt)
theorem wit_RequestsArePerformed :
    (NextRequest fabric 0 1 (withCrc writeK) ∧ NextRequest fabric 0 6 (withCrc addK) ∧ NextRequest fabric 0 2 (withCrc readK)
      ∧ NextRequest fabric 0 4 (withCrc atomicK))
    ∧ placed writeK false = true ∧ placed addK true = true
    ∧ (let h := rethOf readK
      let c := (takenIn fabric readK).keyCheck h.key h.off h.len 0x1234 (fabric.qp 5).src .rd
      let r := c.1.readParts ((fabric.qp 5).acc c.2.2.ctx) (c.2.2.va + h.off) h.len (fabric.qp 5).pmtu
      h.bad = false ∧ readK.payload = [] ∧ h.op = 0 ∧ h.rsig = 0 ∧ h.key ≠ 0xFFFFFFFF ∧ c.2.1 = 0 ∧ r.2.2 = 0 ∧ r.1.xpt = fabric.xpt)
    ∧ (let c := (takenIn fabric atomicK).keyCheck 2 (5 * 128) (nmaWidth 8) 0x1234 (fabric.qp 5).src .atom
      let r := c.1.vNma { (fabric.qp 5).acc c.2.2.ctx with spaces := [0] } (c.2.2.va + 5 * 128) 8 [1] 0 false
      fld (nth (0 : Dword) atomicK.ext 0) 48 4 = 8 ∧ fld (nth (0 : Dword) atomicK.ext 1) 32 3 = nmaWidth 8 % 8 ∧ c.2.1 = 0
      ∧ (c.2.2.va + 5 * 128) % nmaWidth 8 = 0 ∧ r.2.err = 0 ∧ r.1.xpt = fabric.xpt) :=
  ⟨⟨nextRequest_withCrc (by decide +kernel), nextRequest_withCrc (by decide +kernel), nextRequest_withCrc (by decide +kernel),
    nextRequest_withCrc (by decide +kernel)⟩, by decide +kernel, by decide +kernel, by decide +kernel, by decide +kernel⟩

/-- Queue pair n with a receive WQE of 256 bytes at 0x4000 posted. -/
def receiving (n : Nat) : State :=
  ((lines fabric 0x3000 (words [0x4000, 256, 7, 0])).setQp n (qpIn 3)).modQp n fun q => { q with rqTail := 1 }
def sendK : Packet := { pk 0 0 [0] (List.replicate 8 1) with last := false }
def cmK : Packet := { pk 0xA 0 [] (List.replicate 64 1) with dstQpn := 0 }
theorem wit_MessagesAndRakes_messages :
    NextRequest (receiving 5) 0 0 (withCrc sendK)
    ∧ (let s := receiving 5
      let a := (takenIn s sendK).readRq 5 (s.qp 5).rqDone
      let b := (withRecv a.1 5 7 0).vSpanWrite (s.qp 5).local_ 0x4000 0 sendK.payload false
      (s.qp 5).rqTail ≠ (s.qp 5).rqDone ∧ a.2 = some (0x4000, 256, 7, 0) ∧ a.1.xpt = s.xpt ∧ b.2 = 0 ∧ b.1.xpt = (withRecv a.1 5 7 0).xpt)
    ∧ (let s := receiving 0
      let a := (takenIn s cmK).readRq 0 (s.qp 0).rqDone
      let b := a.1.vSpanWrite (s.qp 0).local_ 0x4000 0 cmK.payload false
      let c := b.1.finishRecv 0 (s.qp 0).rqDone 7 0 0 64 0x1234 3
      Ready s ∧ s.portState 0 = 5 ∧ s.ethernet 0 = false ∧ cmK.dstDev.toNat = s.dev ∧ cmK.ver.toNat = (s.qp 0).major ∧ (s.qp 0).state = 3
      ∧ s.pkeyKnown cmK.pkey.toNat = true ∧ cmK.payload.length = 64 ∧ (s.qp 0).rqDone ≠ (s.qp 0).rqTail
      ∧ a.2 = some (0x4000, 256, 7, 0) ∧ b.2 = 0 ∧ c.xpt.cqOvf = []) :=
  ⟨nextRequest_withCrc (by decide +kernel), by decide +kernel, by decide +kernel⟩

/-- The words of the members of crew 0 over a state: engine 0 or none (listed with their zeros, for a quick look-up). -/
def members (s : State) (v : Word) : State :=
  { s with regs := ((List.range 8).map fun i => (Reg.xptCrewMembers0 0 / 4 + i, if i = 0 then v else 0)) ++ s.regs }
/-- Crew 0 of engine 0, landing at 0x40000, with room for one job. -/
def crew : State :=
  let s := regs fabric [(blkCtrl 0, 1), (blkStat 0, 1), (Reg.xptCrewCtrl 0, 1), (Reg.xptCrewKey 0, 0x1234), (Reg.engQCfg 0 0, 4)]
  members (s.w64 (Reg.xptCrewLand 0) 0x40000) 1
/-- The first of two packets of a block of four rows of 256 elements. -/
def rakeK : Packet := { pk 0x10 0 [0, 1152] (words [4 * 2 ^ 16 + 3 * 2 ^ 24, 0, 0, 0, 0, 0, 0, 0, 0, 0, 2 ^ 24, 0] ++ List.replicate 928 0)
  with last := false }
theorem wit_MessagesAndRakes_rake :
    NextRequest crew 0 0x10 (withCrc rakeK)
    ∧ (let o := (takenIn crew rakeK).openJob 5 0 0 0 1152 (blockOf rakeK.payload) rakeK false
      let u := o.1.vSpanWrite (o.1.crewAcc o.2) (o.1.landing o.2) 0 (o.1.landed o.2 0 rakeK.payload) false
      rakeHead rakeK = (0, 0, 0, 1152, true) ∧ (crew.crewCtrl 0).getLsbD 0 = true ∧ rakeK.pkey.toNat = crew.crewPkey 0
      ∧ (blockOf rakeK.payload).bad = false ∧ (blockOf rakeK.payload).len = 1152
      ∧ partOk (crew.qp 5).pmtu 1152 0 0 (packetsFor (crew.qp 5).pmtu 1152) rakeK = true
      ∧ (takenIn crew rakeK).chooseMember 0 (blockOf rakeK.payload).hint = some 0 ∧ o.2 ∉ crew.xpt.jobs ∧ u.2 = 0 ∧ u.1.xpt = o.1.xpt) :=
  ⟨nextRequest_withCrc (by decide +kernel), by decide +kernel⟩

/-- A job of crew 0 whose STORE has signalled, with its record of one row of 64 elements in its landing slot. -/
def job : RakeJob := {
  crew := 0, engine := 0, slot := 0, qp := 5, psn := 0, replyPsn := 0, packets := 1, got := 1, blockLen := 192, attempt := 0
  accepted := 0, due := some 1, rerun := false, mass := false, prec := false, rows := 1, dch := 0, stored := none, live := true }
def answered : State := (lines (members (crew.w32 (Reg.engTc 0 0) 1) 1) 0x42080 (List.replicate 384 0)).modXpt fun x => { x with jobs := [job] }
def answeredErr : State := members (answered.w64 (Reg.engTcErr 0) 1) 1
/-- The same, its connection gone, and its queue pair in ERROR. -/
def gone : State := answered.modXpt fun x => { x with jobs := [{ job with live := false }] }
def deaf : State := answered.modQp 5 fun q => { q with state := 6 }
theorem wit_MessagesAndRakes_reply :
    (Ready answeredErr ∧ answeredErr.storedJob 0 0 = some (job, 0, true) ∧ job.live = true ∧ (answeredErr.qp job.qp).responds = true)
    ∧ (let b := (answered.setBit64 (Reg.engTcErr 0) (crewTc (answered.crewCtrl 0)) false).readParts (answered.crewAcc job) (answered.landing job + 0x2080) (jobSize job)
        (answered.qp 5).pmtu
      Ready answered ∧ answered.storedJob 0 0 = some (job, 0, false) ∧ (answered.qp job.qp).responds = true ∧ b.2.2 = 0
      ∧ b.1.xpt = answered.xpt)
    ∧ (Ready gone ∧ gone.storedJob 0 0 = some ({ job with live := false }, 0, false))
    ∧ (Ready deaf ∧ deaf.storedJob 0 0 = some (job, 0, false) ∧ (deaf.qp job.qp).responds = false) := by decide +kernel

/-- Queue pair 5 in state n; its context in its table. -/
def inState (n : Nat) : State := fabric.setQp 5 (qpIn n)
def table : State := (lines fabric (0x120000 + 256 * 5) (words ((qpIn 0).ctx.map BitVec.toNat))).setQp 5 Qp.reset
theorem wit_QueuePairCommands :
    (let r := table.tableRead Reg.xptQpcBase (256 * 5) 64 (table.qp 5).src
      let q := { Qp.reset with ctx := (List.range 8).map fun i => BitVec.ofNat 64 (natLE (slice r.2.data (8 * i) 8)) }
      Ready table ∧ (table.qp 5).state = 0 ∧ r.2.err = 0 ∧ r.2.poison = false ∧ q.badContext = false ∧ r.1.pkeyKnown q.pkey = true)
    ∧ (∀ n ∈ [1, 2, 3, 4, 5, 6], Ready (inState n) ∧ ((inState n).qp 5).state = n ∧ ((inState n).qp 5).wqes = [])
    ∧ DueOnly (.qpCancel 5) (owing (inState 6) (.qpCancel 5))
    ∧ (let m := (sent writeV 1 8).modQp 5 fun q => { q with port := 7 }
      Ready (sent writeV 1 8) ∧ (one (sent writeV 1 8)).fail = 0 ∧ ((sent writeV 1 8).qp 5).npsn = ((sent writeV 1 8).qp 5).endPsn
      ∧ seqLe ((one (sent writeV 1 8)).psn + BitVec.ofNat 24 (one (sent writeV 1 8)).count) ((sent writeV 1 8).qp 5).una = false
      ∧ (m.resendFrom 5 ((sent writeV 1 8).qp 5).una).xpt = m.xpt)
    ∧ (DueOnly (.qpCancel 5) (owing (inState 3) (.qpCancel 5)) ∧ (fabric.qp 5).sqTail = (fabric.qp 5).sqDone
      ∧ (fabric.qp 5).rqTail = (fabric.qp 5).rqDone ∧ fabric.xpt.cqOvf = []) := by decide +kernel

/-- Entry 1 of the region table is free; a REVOKE of region 3 is in progress. -/
def revoking : State := fabric.modXpt fun x => { x with rgn := some (3, 2) }
def busyRgn : State := revoking.w32 Reg.xptRgnStat 1
def crewless : State := members crew 0
theorem wit_RegionsAndCrews :
    (Ready fabric ∧ fabric.rb Reg.xptRgnStat 0 = false ∧ 3 < fabric.rgnEntries ∧ (fabric.region 1 rgnSrc).2.2 = true
      ∧ (fabric.region 1 rgnSrc).2.1.state = 0 ∧ (fabric.region 1 rgnSrc).1.rgnEntries = fabric.rgnEntries
      ∧ (fabric.region 3 rgnSrc).2.2 = true ∧ (fabric.region 3 rgnSrc).2.1.state = 1)
    ∧ (Ready busyRgn ∧ busyRgn.keyed .host = true ∧ busyRgn.rb Reg.xptRgnStat 0 = true
      ∧ fld (0 : Word) 20 2 = 0 ∧ fld (0x300000 : Word) 20 2 = 3)
    ∧ (Ready revoking ∧ revoking.xpt.rgn = some (3, 2) ∧ (revoking.region 3 rgnSrc).2.1.inflight = 0)
    ∧ (Ready crew ∧ crew.pkeyKnown (crew.crewPkey 0) = true ∧ crew.crewMembers 0 = [0]
      ∧ crew.rf (Reg.xptCrewSpad 0) 0 16 * 32 + crewSlots 1 * 0xC000 ≤ 2 ^ 21 ∧ crew.rf (Reg.engQCfg 0 (crewQueue 1)) 8 6 = crewCtx 1
      ∧ 4 ≤ crew.rf (Reg.engQCfg 0 (crewQueue 1)) 0 5)
    ∧ (Ready crewless ∧ crewless.crewMembers 0 = []) := by decide +kernel

/-! ## Witnesses: the serving firmware -/

/-- The firmware runs at tick 100 with 16 hampers and the key 0x1234. -/
def serve : State :=
  (regs off [(Reg.secBootStat, 4), (Reg.srvStat, 1), (Reg.srvHamperCfg, 4), (Reg.srvCmdCfg, 4), (Reg.srvCplCfg, 8), (Reg.xptPkeyTab 0, 0x80001234)]).modTide
    fun t => { t with now := 1024 * 100 }
/-- Hamper 3 of generation 1. -/
def requested (f : Hamper → Hamper) : State :=
  serve.modSrv fun v => { v with hampers := [(3, f { Hamper.reset with gen := 1 })] }
def inHamper (n : Nat) : State := requested fun h => { h with state := n }
/-- A command on it. -/
def cmd (op w2 w3 : Nat) : CmdRec := { w0 := BitVec.ofNat 64 (op + 0x100003 * 2 ^ 32), tag := 77, w2 := BitVec.ofNat 64 w2, w3 := BitVec.ofNat 64 w3,
                                       w4 := 0, w5 := 0, w6 := 0, w7 := 0 }
/-- A command on none. -/
def free (op w2 w3 : Nat) : CmdRec := { cmd op w2 w3 with w0 := BitVec.ofNat 64 op }
/-- Parameters: a prompt of 8 tokens, one token to generate, context limit 16, top-k 1, key 0x1234, TTFT limit 5. -/
def params : List Byte := List.replicate 24 0 ++ bytesLE 4 8 ++ bytesLE 4 1 ++ bytesLE 4 16 ++ bytesLE 4 0 ++ bytesLE 8 (0x1234 * 2 ^ 32)
  ++ List.replicate 16 0 ++ bytesLE 4 1 ++ bytesLE 4 5 ++ List.replicate 184 0
def parked : State := requested fun h => { h with state := 3 }
def inThermos : State := requested fun h => { h with state := 8 }
def draftB : List Byte := List.replicate 64 9 ++ [255, 0] ++ List.replicate 62 0

/-- A command sampled, with what its W2 points to. -/
def taking (c : CmdRec) (b : List Byte) : TakenCmd := ⟨0, c, b, true⟩
def ring (s : State) (c : CmdRec) (b : List Byte) : State := s.modSrv fun v => { v with cmds := [taking c b] }
/-- A request moving, as a fence finds it. -/
def leaving : State := requested fun h => { h with state := 7, park := some ⟨0, true, 9, 77, 0⟩ }

theorem wit_RingCommands :
    (Resolves (ring serve (free 1 0 0) params) 1 (taking (free 1 0 0) params) ∧ paramsReserved params = false
      ∧ (ring serve (free 1 0 0) params).badSubmit (Hamper.ofParams params (free 1 0 0)) = false
      ∧ (ring serve (free 1 0 0) params).freeHamper = some 0)
    ∧ (Resolves (ring (inHamper 1) (cmd 2 0 0) []) 2 (taking (cmd 2 0 0) []) ∧ Names (ring (inHamper 1) (cmd 2 0 0) []) (taking (cmd 2 0 0) []) 3)
    ∧ ([3, 2].all fun n => decide (Resolves (ring (inHamper n) (cmd 3 1 9) []) 3 (taking (cmd 3 1 9) [])
      ∧ Names (ring (inHamper n) (cmd 3 1 9) []) (taking (cmd 3 1 9) []) 3 ∧ (cmd 3 1 9).w3 ≠ 0 ∧ ((inHamper n).hamper 3).state = n)) = true
    ∧ ([8, 3].all fun n => decide (Resolves (ring (inHamper n) (cmd 4 0 0) []) 4 (taking (cmd 4 0 0) [])
      ∧ Names (ring (inHamper n) (cmd 4 0 0) []) (taking (cmd 4 0 0) []) 3 ∧ ((inHamper n).hamper 3).expired = none)) = true
    ∧ (Resolves (ring parked (cmd 5 0 (2 * 2 ^ 24 + 7)) draftB) 5 (taking (cmd 5 0 (2 * 2 ^ 24 + 7)) draftB)
      ∧ Names (ring parked (cmd 5 0 (2 * 2 ^ 24 + 7)) draftB) (taking (cmd 5 0 (2 * 2 ^ 24 + 7)) draftB) 3 ∧ draftOk draftB 2 false = true
      ∧ fld (cmd 5 0 (2 * 2 ^ 24 + 7)).w3 24 5 = 2 ∧ (cmd 5 0 (2 * 2 ^ 24 + 7)).w2.toNat % 128 = 0) :=
  by and_intros <;> decide +kernel
theorem wit_RingCommands_more :
    (Resolves (ring serve (free 6 (5 + 8 * 2 ^ 16) 0x1000) []) 6 (taking (free 6 (5 + 8 * 2 ^ 16) 0x1000) [])
      ∧ fld (free 6 (5 + 8 * 2 ^ 16) 0x1000).w2 16 9 = 8 ∧ (serve.adapter 5).vers.length = 4
      ∧ ((List.range 4).find? fun v => (nth AdapterVer.reset (serve.adapter 5).vers v).vstate == 0) = some 0)
    ∧ Resolves (ring serve (free 7 5 0) []) 7 (taking (free 7 5 0) []) ∧ Resolves (ring serve (free 8 5 77) []) 8 (taking (free 8 5 77) [])
    ∧ (Resolves (ring parked (cmd 9 0x40 0) []) 9 (taking (cmd 9 0x40 0) []) ∧ parked.named (cmd 9 0x40 0) = some 3
      ∧ (cmd 9 0x40 0).w2.toNat % 32 = 0)
    ∧ ([serve, leaving].all fun s => decide (Resolves (ring s (free 10 0 0) []) 10 (taking (free 10 0 0) []))) = true
    ∧ (let s := ring serve (free 8 (2 ^ 63) 0) []
      Ready s ∧ s.running = true ∧ s.nextCmd = some (taking (free 8 (2 ^ 63) 0) []) ∧ s.inOrder (cmdKey 8) = true
      ∧ (taking (free 8 (2 ^ 63) 0) []).op = 8 ∧ cmdReserved (free 8 (2 ^ 63) 0) = true)
    ∧ (let s := ring serve (cmd 2 0 0) []
      s.nextCmd = some (taking (cmd 2 0 0) []) ∧ s.inOrder (cmdKey 2) = true ∧ s.named (cmd 2 0 0) = none)
    ∧ ((leaving.hamper 3).park.map fun p => p.before 0) = some true ∧ serve.srv.hampers = [] ∧ serve.srv.queries = []
    ∧ off.running = false ∧ serve.nextCmd = none ∧ Ready off ∧ Ready serve :=
  by and_intros <;> decide +kernel

def row : Row := { hamper := 3, gen := 1, chunk := 0, drafts := ⟨0, [], []⟩, cost := 1, fallback := false, done := false, lenBefore := 0,
                   weight := none }
/-- Rows of a step that awaits weight page 0x1000, whose golden copies fail or not; a re-run due; a step timer that starts every tick. -/
def lostPage (lost : Bool) : State := (parked.modBasket fun _ => { rows := [{ row with weight := some 0x1000 }], start := none, live := false,
                                                                   rerun := false }).modSrv
  fun v => { v with weights := [(0x1000, some ⟨0, 12, 0x1000, 0x1000, lost⟩)] }
def idleStep : State := regs serve [(Reg.tideStepCtrl 0, 3), (Reg.tideStepPeriod 0, 1)]
def rerunDue : State := (parked.modBasket fun _ => { rows := [row], start := none, live := false, rerun := false }).modSrv
  fun v => { v with rerunAt := some 100 }
/-- RELEASED, and tide is locked. -/
def tideReady : State := (tideIn 2).w32 Reg.secBootStat 4
/-- A request in a state, whose move has or has not been tried before. -/
def moving_ (n : Nat) (retried : Bool) : State :=
  requested fun h => { h with state := n, retried := retried, park := if n = 7 then some ⟨1, false, 9, 77, 0⟩ else none }
theorem wit_FirmwareEvents :
    (Ready serve ∧ ((16 : Word) - serve.r32 Reg.srvCmdHead).toNat ≤ 2 ^ serve.rf Reg.srvCmdCfg 0 5
      ∧ 2 ^ serve.rf Reg.srvCmdCfg 0 5 < ((17 : Word) - serve.r32 Reg.srvCmdHead).toNat ∧ serve.srv.owed = [])
    ∧ natAt (serve.modTide fun t => { t with now := 1024 * 1024 }).srv.beats 3 + 1024 ≤ (serve.modTide fun t => { t with now := 1024 * 1024 }).tick
    ∧ (Ready tideReady ∧ tideReady.running = false ∧ tideReady.released = true ∧ tideReady.tideState = 2) ∧ serve.released = true
    ∧ (∀ r ∈ [false, true], ∀ n ∈ [5, 7, 9], ServesOn (moving_ n r) 255 ∧ ((moving_ n r).hamper 3).state = n
      ∧ ((moving_ n r).hamper 3).retried = r)
    ∧ (∀ r ∈ [false, true], (moving_ 7 r).inBasket 3 = false ∧ ((moving_ 7 r).hamper 3).park = some ⟨1, false, 9, 77, 0⟩)
    ∧ (Serves (inHamper 10) 8 ∧ ((inHamper 10).hamper 3).endOwed = false ∧ ((inHamper 10).hamper 3).moving = false
      ∧ (inHamper 10).inBasket 3 = false)
    ∧ (Serves inThermos 10 ∧ (inThermos.hamper 3).expired = none ∧ (inThermos.hamper 3).deadlineTick ≤ inThermos.tick)
    ∧ (Serves (requested fun h => { h with state := 8, expired := some 99 }) 8 ∧ 99 < (inHamper 8).tick)
    ∧ (Serves (requested fun h => { h with state := 1, deadlineTick := 100 }) 10 ∧ 100 ≤ (inHamper 1).tick
      ∧ ((inHamper 1).hamper 3).firstTick = 0 ∧ ((inHamper 1).hamper 3).ttftMiss = false)
    ∧ Builds idleStep
    ∧ (∀ b ∈ [false, true], Serves (lostPage b) 5 ∧ optAt (lostPage b).srv.weights 0x1000 = some ⟨0, 12, 0x1000, 0x1000, b⟩
      ∧ (lostPage b).srv.basket.live = false ∧ (lostPage b).weightRows 0x1000 ≠ []
      ∧ ((lostPage b).goldenFirst 12 ((lostPage b).goldenList 0x1000 [2 ^ 54])).2.isSome = true
      ∧ ((lostPage b).goldenFirst 12 ((lostPage b).goldenList 0x1000 [2 ^ 53])).2 = none
      ∧ ((lostPage b).goldenFirst 12 ((lostPage b).goldenList 0x1000 [])).2 = none)
    ∧ (Serves rerunDue 0 ∧ rerunDue.srv.rerunAt = some 100 ∧ 100 ≤ rerunDue.tick ∧ rerunDue.reloading = false)
    ∧ (Ready parked ∧ parked.running = true ∧ (parked.hamper 3).state ≠ 0 ∧ (parked.hamper 3).state ≠ 10)
    ∧ (rerunDue.basketRows[0]? = some row ∧ row.gen = (rerunDue.hamper 3).gen) :=
  by and_intros <;> decide +kernel

/-- A step before its build: context 0 on its engines, 16 slots in the token ring, one row of a request h; its budget covers nothing, or
64 tokens. -/
def basket (h : Hamper) : State :=
  (regs idleStep [(Reg.coreCtxRoot 0 0, 1), (Reg.srvStepCfg, 1 + 64 * 2 ^ 16), (Reg.srvStepTokens, 64), (Reg.gtxTsDevCfg, 4), (Reg.srvReserve, 0)]).modSrv fun v =>
    { v with hampers := [(3, h)] }
def rich (s : State) : State := s.modSrv fun v => { v with budgets := [(0, { Budget.reset with balance := 64 * 65536, burst := 64 })] }
def drafting (s : State) : State := s.modSrv fun v => { v with drafts := [(3, some ⟨0, [1, 2], [255, 0]⟩)] }
/-- A request that decodes, holding the pages of its next row; one with a prompt of 8 tokens. -/
def decoder (n : Nat) : Hamper := { Hamper.reset with gen := 1, state := 3, pages := pagesFor 0 n, priority := 1, genMax := 10, ctxMax := 100 }
def prompted (n : Nat) : Hamper := { Hamper.reset with gen := 1, state := n, promptLen := 8, genMax := 1, ctxMax := 100 }

theorem lacks_none (s : State) (i n : Nat) (hc : (s.hamper i).ctx = 0) (hp : (s.hamper i).pages = pagesFor 0 n) : s.lacks i n = 0 := by
  simp only [State.lacks, hc, hp]
  omega
theorem decodes_ok (s : State) (n : Nat) (hs : (s.hamper 3) = decoder (0 + 1 + n)) (ha : (s.budgetRefresh 0 s.tick).affords 0 ((1 + n) * 65536) = true)
    (ht : 1 + n ≤ s.tokenRoom) : Decodes s 3 (decoder (0 + 1 + n)) n :=
  ⟨.inl rfl, ha, ht, by rw [show (decoder (0 + 1 + n)).len + 1 + n = 0 + 1 + n from rfl, lacks_none s 3 _ (by rw [hs]; rfl) (by rw [hs]; rfl)]; omega⟩
theorem wit_BasketDecodes :
    (Builds (rich (basket (decoder 1))) ∧ Alone (rich (basket (decoder 1))) 3 (decoder 1)
      ∧ Decodes (rich (basket (decoder 1))) 3 (decoder 1) ((rich (basket (decoder 1))).draftOf 3).tokens.length)
    ∧ (Builds (drafting (rich (basket (decoder 3)))) ∧ Alone (drafting (rich (basket (decoder 3)))) 3 (decoder 3)
      ∧ Decodes (drafting (rich (basket (decoder 3)))) 3 (decoder 3) ((drafting (rich (basket (decoder 3)))).draftOf 3).tokens.length
      ∧ ((drafting (rich (basket (decoder 3)))).budget 0).unlimited = false)
    ∧ (Builds (basket (decoder 1)) ∧ Alone (basket (decoder 1)) 3 (decoder 1)
      ∧ ((basket (decoder 1)).budgetRefresh 0 (basket (decoder 1)).tick).affords 0 ((1 + 0) * 65536) = false) :=
  ⟨⟨by decide +kernel, ⟨rfl, by decide +kernel⟩, decodes_ok _ 0 rfl (by decide +kernel) (by decide +kernel)⟩,
    ⟨by decide +kernel, ⟨rfl, by decide +kernel⟩, decodes_ok _ 2 rfl (by decide +kernel) (by decide +kernel), by decide +kernel⟩,
    ⟨by decide +kernel, ⟨rfl, by decide +kernel⟩, by decide +kernel⟩⟩

/-- The pool of context 0 holds n pages. -/
def pooled (n : Nat) (s : State) : State := s.modSrv fun v => { v with pool := [(0, some n)] }
def swapped : Hamper := { decoder 0 with state := 6, pages := 0, len := 5 }
def prefilling : Hamper := { prompted 2 with pages := pagesFor 0 8 }
theorem pages_pos (n : Nat) (h : 0 < n) : 0 < pagesFor 0 n := by
  apply Nat.mul_pos
  · simp only [streams]; omega
  · apply Nat.div_pos
    · simp only [perPage]; omega
    · simp only [perPage]; omega
theorem wit_BasketOthers :
    (let s := pooled (pagesFor 0 5) (basket swapped); Builds s ∧ Alone s 3 swapped ∧ swapped.state = 6 ∧ pagesFor swapped.ctx (swapped.len + s.rf Reg.srvReserve 0 24) ≤ s.pool swapped.ctx)
    ∧ (let s := rich (basket prefilling); Builds s ∧ Alone s 3 prefilling ∧ prefilling.state = 2 ∧ s.chunkLen prefilling ≠ 0
      ∧ (s.budgetRefresh 0 s.tick).affords 0 ((s.chunkLen prefilling * (s.budget 0).promptW + 15) / 16 * 65536) = true
      ∧ 1 ≤ s.tokenRoom ∧ s.lacks 3 (prefilling.promptDone + s.chunkLen prefilling) ≤ s.pool 0)
    ∧ (let s := pooled (pagesFor 0 8) (basket (prompted 1)); Builds s ∧ Alone s 3 (prompted 1) ∧ pagesFor 0 ((prompted 1).promptLen + s.rf Reg.srvReserve 0 24) ≤ s.pool 0)
    ∧ (let s := pooled 0 (basket (prompted 1)); Builds s ∧ Alone s 3 (prompted 1) ∧ s.srv.retained = [] ∧ s.pool 0 < pagesFor 0 ((prompted 1).promptLen + s.rf Reg.srvReserve 0 24)) :=
  ⟨⟨by decide +kernel, ⟨rfl, by decide +kernel⟩, rfl, by
      have h : (pooled (pagesFor 0 5) (basket swapped)).rf Reg.srvReserve 0 24 = 0 := by decide +kernel
      rw [h]
      exact Nat.le_refl _⟩,
    ⟨by decide +kernel, ⟨rfl, by decide +kernel⟩, rfl, by decide +kernel, by decide +kernel, by decide +kernel, by
      have h : (rich (basket prefilling)).chunkLen prefilling = 8 := by decide +kernel
      rw [h, lacks_none _ 3 _ rfl rfl]
      omega⟩,
    ⟨by decide +kernel, ⟨rfl, by decide +kernel⟩, by
      have h : (pooled (pagesFor 0 8) (basket (prompted 1))).rf Reg.srvReserve 0 24 = 0 := by decide +kernel
      rw [h]
      exact Nat.le_refl _⟩,
    ⟨by decide +kernel, ⟨rfl, by decide +kernel⟩, rfl, by
      have h : (pooled 0 (basket (prompted 1))).rf Reg.srvReserve 0 24 = 0 := by decide +kernel
      rw [h]
      exact pages_pos 8 (by decide)⟩⟩

/-- Two requests that decode, with room for one row. -/
def lower_ : Hamper := { decoder 1 with priority := 0 }
def pair : State := (rich (basket (decoder 1))).modSrv fun v => { v with hampers := [(3, decoder 1), (4, lower_)] }
theorem wit_BasketOfTwo : Builds pair ∧ pair.srv.hampers = [(3, decoder 1), (4, lower_)] ∧ pair.ctxRuns 0 = true ∧ pair.srv.queries = []
    ∧ pair.rf Reg.srvStepCfg 0 13 = 1 ∧ 0 < (pair.r32 Reg.srvStepTokens).toNat ∧ lower_.priority < (decoder 1).priority
    ∧ Decodes pair 3 (decoder 1) (pair.draftOf 3).tokens.length ∧ lower_.state = 3 :=
  ⟨by decide +kernel, rfl, by decide +kernel, rfl, by decide +kernel, by decide +kernel, by decide +kernel,
    decodes_ok _ 0 rfl (by decide +kernel) (by decide +kernel), rfl⟩

/-- A step of one row that runs, of request h. -/
def stepping (h : Hamper) (r : Row) : State :=
  (serve.modSrv fun v => { v with hampers := [(3, h)] }).modBasket fun _ => { rows := [r], start := some 99, live := true, rerun := false }
def plain : Hamper := { decoder 1 with pages := 0 }
def lastToken : Hamper := { plain with genMax := 1 }
def chunked (n : Nat) : Row := { row with chunk := n }
def result : RowResult := ⟨[(5, 0)], 0, 0, none⟩
/-- The fault logs of the engines hold nothing. -/
def NoLogs (s : State) : Prop := ∀ e < 256, s.r64 (Reg.engAtFlog e) = 0 ∧ s.r64 (Reg.engKvFlog e) = 0
theorem serve_logs : NoLogs serve := by unfold NoLogs; decide +kernel
theorem rowRead_quiet {s : State} {r : Row} {x : RowResult} {m : RowMark} (q : NoLogs s) (h : RowDue s 0 r x ∧ (s.hamper r.hamper).gen = r.gen
    ∧ (s.hamper r.hamper).state ≠ 0 ∧ (s.hamper r.hamper).state ≠ 10
    ∧ (if s.lateMark x.engine.val then .fault else if flagAt (s.engine x.engine.val).spadPoison x.unit then .poisoned else RowMark.clean) = m) :
    RowRead s 0 r x m := by
  have none_ : ∀ handle, s.logMark handle = none := fun handle => by
    rw [State.logMark, List.findSome?_eq_none_iff]
    intro e he
    obtain ⟨h1, h2⟩ := q e (List.mem_range.mp he)
    rw [h1, h2]
    simp [logged, fld]
  exact ⟨h.1, h.2.1, h.2.2.1, h.2.2.2.1, by rw [State.rowMark, none_]; exact h.2.2.2.2⟩
theorem wit_RowsComplete :
    (∀ x ∈ [(plain, row), (lastToken, row), (prompted 2, chunked 2), (prompted 2, chunked 8)],
        RowRead (stepping x.1 x.2) 0 x.2 result .clean)
    ∧ RowRead (stepping { prompted 2 with genMax := 2 } (chunked 8)) 0 (chunked 8) result .clean
    ∧ ((stepping lastToken row).tokenStop lastToken 5 1 ≠ 0 ∧ row.chunk = 0)
    ∧ (plain.nstop = 0 ∧ plain.nseq = 0 ∧ (acceptPath row.drafts result.samples 0 255).length = 0 ∧ plain.genCount + 0 + 1 < plain.genMax
      ∧ row.lenBefore + 1 + 0 < plain.ctxMax ∧ (stepping plain row).rtMode ≠ 1)
    ∧ ((prompted 2).promptDone + (chunked 2).chunk < (prompted 2).promptLen
      ∧ (prompted 2).promptLen ≤ (prompted 2).promptDone + (chunked 8).chunk
      ∧ (stepping { prompted 2 with genMax := 2 } (chunked 8)).tokenStop { prompted 2 with genMax := 2 } 5 8 = 0)
    ∧ (RowDue (stepping { plain with gen := 2 } row) 0 row result ∧ ((stepping { plain with gen := 2 } row).hamper 3).gen ≠ row.gen)
    ∧ (RowDue (stepping { plain with state := 10 } row) 0 row result) := by
  refine ⟨fun x hx => rowRead_quiet (fun e he => serve_logs e he) ?_, rowRead_quiet (fun e he => serve_logs e he) (by decide +kernel),
    by decide +kernel⟩
  revert x
  decide +kernel

/-- The row's attention has failed; its sampled output is poisoned; and a line of a weight page is named by STK_ERR_LOG of this step. -/
def failed : State := (stepping plain row).w64 (Reg.engAtFlog 0) (BitVec.ofNat 64 (2 ^ 12 + 2 ^ 16 * plain.handle 3))
def poisonedRow : State := (stepping plain row).modEngine 0 fun g => { g with spadPoison := [(0, true)] }
def named_ : State := (poisonedRow.w32 (Reg.stkErrLog (keyChan ((off.place 0x1000).getD 0)))
    (BitVec.ofNat 32 (2 * 2 ^ 21 + keyLine ((off.place 0x1000).getD 0)))).w64 (Reg.stkErrTick (keyChan ((off.place 0x1000).getD 0))) (1024 * 100)
def mapping : WeightAt := ⟨0x1000, 0x5000, 12⟩
theorem wit_RowsFail : RowRead failed 0 row result .fault ∧ RowRead poisonedRow 0 row result .poisoned
    ∧ (RowRead poisonedRow 0 row { result with weights := some mapping } .poisoned ∧ poisonedRow.weightHit mapping = false)
    ∧ (RowRead named_ 0 row { result with weights := some mapping } .poisoned ∧ named_.weightHit mapping = true) :=
  ⟨by decide +kernel, rowRead_quiet (fun e he => serve_logs e he) (by decide +kernel),
    ⟨rowRead_quiet (fun e he => serve_logs e he) (by decide +kernel), by decide +kernel⟩, by decide +kernel, by decide +kernel⟩

/-! ## A SAVE whose image is written: its header hits the cache, its data go to the board -/

/-- Every register is as in b, but for the hit counter of core 0's cache. -/
def Agree (s b : State) : Prop := ∀ o, o / 8 ≠ Reg.cchHitCnt 0 / 8 → s.r32 o = b.r32 o

theorem place_agree {s b : State} (h : Agree s b) {p : Nat} (hp : p < 2 ^ 33) : s.place p = b.place p := by
  have hm : ∀ c < 8, s.panMode c 0 = b.panMode c 0 := fun c hc => by
    have := h (Reg.corePanMode c (0 / 16)) (by simp [Reg.corePanMode, Reg.corePage, Reg.cchHitCnt, Reg.cchPage]; omega)
    simp only [State.panMode, State.rf, this]
  have hj : p / 2 ^ 33 = 0 := Nat.div_eq_of_lt hp
  have hc : s.chipCores 0 = b.chipCores 0 := List.filter_congr fun c hc => by rw [hm c (List.mem_range.mp hc)]
  have hr : p % 2 ^ 33 / 2 ^ 30 < 8 := by omega
  simp only [State.place, hj, hc, hm _ hr]

theorem quarantined_agree {s b : State} (h : Agree s b) (p : Nat) : s.quarantined 0 p = b.quarantined 0 p := by
  have hq : ∀ i ∈ List.range 64, s.r64 (Reg.coreQuar 0 i) = b.r64 (Reg.coreQuar 0 i) := fun i hi => by
    have := List.mem_range.mp hi
    simp only [State.r64, h (Reg.coreQuar 0 i) (by simp [Reg.coreQuar, Reg.corePage, Reg.cchHitCnt, Reg.cchPage]; omega),
      h (Reg.coreQuar 0 i + 4) (by simp [Reg.coreQuar, Reg.corePage, Reg.cchHitCnt, Reg.cchPage]; omega)]
  simp only [State.quarantined]
  rw [Bool.eq_iff_iff]
  simp only [List.any_eq_true]
  exact exists_congr fun i => and_congr_right fun hi => by rw [hq i hi]

/-- With no entry valid, no offset is quarantined. -/
theorem unquarantined {s : State} {c : Nat} (h : ∀ i < 64, (s.r64 (Reg.coreQuar c i)).getLsbD 63 = false) (p : Nat) :
    s.quarantined c p = false := by
  simp only [State.quarantined, List.any_eq_false]
  intro i hi
  rw [h i (List.mem_range.mp hi)]
  simp

/-- What the writes of the image keep, of a state b: registers, no lock and no image, a trained board, and 32 lines of core 0 cached. -/
structure Cached (b s : State) : Prop where
  agree : Agree s b
  locks : s.mem.locks = []
  images : s.mem.images = []
  trained : s.mem.trained = b.mem.trained
  cached : ∀ i < 32, ∃ k l, b.place (128 * i) = some k ∧ s.cached k = some l ∧ l.core = 0

theorem count_agree (s : State) (n : Nat) : Agree (s.count (Reg.cchHitCnt 0) n) s := by
  intro o ho
  have hr : ∀ (s : State) (c : Bool) (pn bit cls src : Nat), (s.raiseIf c pn bit cls src).r32 o = s.r32 o := by
    intro s c pn bit cls src
    simp only [State.raiseIf]
    split <;> rfl
  have h1 : ¬ o / 4 = Reg.cchHitCnt 0 / 4 := by
    intro h; apply ho; omega
  have h2 : ¬ o / 4 = (Reg.cchHitCnt 0 + 4) / 4 := by
    simp only [Reg.cchHitCnt, Reg.cchPage] at ho ⊢
    omega
  simp only [State.count, hr, State.w64, Machine.State.r32_w32, if_neg h1, if_neg h2]

theorem find_move (l : List CLine) (x y : CLine) (k : Nat) (h : l.find? (fun c => c.key == y.key) = some x) (hk : y.core = x.core)
    (hl : ∃ z, l.find? (fun c => c.key == k) = some z ∧ z.core = 0) :
    ∃ z, (y :: l.filter fun c => c.key != y.key).find? (fun c => c.key == k) = some z ∧ z.core = 0 := by
  obtain ⟨z, hz, hc⟩ := hl
  by_cases hy : y.key = k
  · subst hy
    rw [h] at hz
    cases hz
    exact ⟨y, by simp, hk.trans hc⟩
  · refine ⟨z, ?_, hc⟩
    rw [List.find?_cons_of_neg (by simpa using hy), List.find?_filter]
    rw [← hz]
    congr 1
    funext c
    by_cases e : c.key = k
    · simp [e, Ne.symm hy]
    · simp [e]

theorem hitLine_mem (s : State) (l : CLine) :
    (s.hitLine l 0).mem = { s.mem with cache := l :: (s.mem.cache.filter fun x => x.key != l.key) } := by
  have hm : (s.count (Reg.cchHitCnt l.core) 1).mem = s.mem := by
    simp only [State.count, State.raiseIf]
    split <;> rfl
  simp only [State.hitLine, show ¬ (0 = 2) by decide, false_and, if_false, State.modMem, hm]

/-- A hit leaves a state that keeps them. -/
theorem hit_keeps {b s t : State} (I : Cached b s) {k : Nat} {l l' : CLine} (hl : s.cached k = some l) (hc : l'.core = 0)
    (hlc : l.core = 0) (hk : l'.key = k) (hr : t.regs = (s.hitLine l' 0).regs) (hm : t.mem = (s.hitLine l' 0).mem) : Cached b t := by
  rw [hitLine_mem] at hm
  refine ⟨fun o ho => ?_, by rw [hm]; exact I.locks, by rw [hm]; exact I.images, by rw [hm]; exact I.trained, fun j hj => ?_⟩
  · refine Eq.trans ?_ (I.agree o ho)
    rw [← count_agree s 1 o ho]
    have e : (s.hitLine l' 0).regs = (s.count (Reg.cchHitCnt l'.core) 1).regs := rfl
    simp only [State.r32, hr, e, hc]
  · obtain ⟨k', l'', hp', hl', hc'⟩ := I.cached j hj
    obtain ⟨z, hz, hc''⟩ := find_move s.mem.cache l l' k' (by rw [hk]; exact hl) (hc.trans hlc.symm) ⟨l'', hl', hc'⟩
    exact ⟨k', z, hp', by simp only [State.cached, hm]; exact hz, hc''⟩

/-- A write of a cached line of core 0. -/
theorem hit_write {b s : State} (I : Cached b s) (hq : ∀ i < 32, b.quarantined 0 (128 * i) = false)
    (hk : ∀ i < 32, ∀ k, b.place (128 * i) = some k → keyCore k = 0)
    {i : Nat} (hi : i < 32) (src : Nat) (d : List Byte) (hd : d.length = 128) :
    (s.lineWrite 0 (128 * i) src 0 d false).2 = 0 ∧ Cached b (s.lineWrite 0 (128 * i) src 0 d false).1 := by
  obtain ⟨k, l, hp, hl, hc⟩ := I.cached i hi
  have hpl : s.place (128 * i) = some k := (place_agree I.agree (by omega)).trans hp
  have hqu : s.quarantined (keyCore k) (128 * i) = false := by
    rw [hk i hi k hp, quarantined_agree I.agree, hq i hi]
  have hkey : l.key = k := by simpa using List.find?_some hl
  have e : s.stackWrite (128 * i) src 0 d false = s.cacheWrite k src 0 (byteMask (128 * i % 128) d.length) (lineOf (128 * i % 128) d) false := by
    simp only [State.stackWrite, State.pastLockAt, I.locks, List.isEmpty_nil, if_true, State.stackWriteNow, hpl, hqu, hd,
      Nat.lt_irrefl, and_false, if_false, Bool.false_eq_true]
  have w : (s.lineWrite 0 (128 * i) src 0 d false) = lowFoot.of s (s.cacheWrite k src 0 (byteMask (128 * i % 128) d.length)
      (lineOf (128 * i % 128) d) false) := by
    show lowFoot.of s (s.stackWrite (128 * i) src 0 d false) = _
    rw [e]
  rw [w]
  generalize byteMask (128 * i % 128) d.length = m
  generalize lineOf (128 * i % 128) d = v
  have c : s.cacheWrite k src 0 m v false = ((s.hitLine { l with
      data := mergeBytes m l.data v
      poison := if m == BitVec.allOnes 128 then false else l.poison || false
      dirty := true } 0).modMem fun m => m.touch 0 k, 0) := by
    simp only [State.cacheWrite, hl]
  rw [c]
  refine ⟨rfl, hit_keeps I (l' := { l with
      data := mergeBytes m l.data v
      poison := if m == BitVec.allOnes 128 then false else l.poison || false
      dirty := true }) hl hc hc hkey rfl ?_⟩
  show Mem.touch _ 0 k = _
  rw [Mem.touch, if_pos (by rw [hitLine_mem]; simp [I.images])]

/-- A write of a line of the board. -/
theorem board_write {b s : State} (I : Cached b s) {off : Nat} (hoff : off < b.tierSize) (hon : ∀ n < 16, b.rb (blkCtrl (bmPage n)) 0 = true)
    (src : Nat) (d : List Byte) (hd : d.length = 128) :
    (s.lineWrite 1 off src 0 d false).2 = 0 ∧ Cached b (s.lineWrite 1 off src 0 d false).1 := by
  have hts : s.tierSize = b.tierSize := by simp only [State.tierSize, I.trained]
  have hn : boardIface off < 16 := Nat.xor_lt_two_pow (n := 4) (by omega) (by omega)
  have hbo : s.boardOn off = true := by
    have e : s.r32 (blkCtrl (bmPage (boardIface off))) = b.r32 (blkCtrl (bmPage (boardIface off))) :=
      I.agree _ (by simp only [blkCtrl, bmPage, Reg.cchHitCnt, Reg.cchPage]; omega)
    have := hon _ hn
    simp only [State.boardOn, State.rb, e] at this ⊢
    exact this
  have w : s.lineWrite 1 off src 0 d false = lowFoot.of s (s.boardWrite off src d false) := rfl
  rw [w]
  have e : s.boardWrite off src d false
      = ((s.issue { s.lowerOf 1 off 128 src true with undo := some (s.boardHeld off) }).boardStore off d false, 0) := by
    rw [State.boardWrite, hts, if_neg (by omega), hbo, if_neg (by simp), if_pos hd]
  rw [e]
  generalize hl : ({ s.lowerOf 1 off 128 src true with undo := some (s.boardHeld off) } : Lower) = x
  have ht : ((s.issue x).boardStore off d false).mem.images = [] := by
    show (Mem.touch _ 1 (off / 128)).images = []
    rw [Mem.touch, if_pos (by show s.mem.images.isEmpty = true; rw [I.images]; rfl)]
    exact I.images
  have hk : ((s.issue x).boardStore off d false).mem.locks = s.mem.locks
      ∧ ((s.issue x).boardStore off d false).mem.trained = s.mem.trained
      ∧ ((s.issue x).boardStore off d false).mem.cache = s.mem.cache := by
    show (Mem.touch _ 1 (off / 128)).locks = _ ∧ (Mem.touch _ 1 (off / 128)).trained = _ ∧ (Mem.touch _ 1 (off / 128)).cache = _
    rw [Mem.touch, if_pos (by show s.mem.images.isEmpty = true; rw [I.images]; rfl)]
    exact ⟨rfl, rfl, rfl⟩
  refine ⟨rfl, ⟨I.agree, hk.1.trans I.locks, ht, hk.2.1.trans I.trained, fun i hi => ?_⟩⟩
  obtain ⟨k, l, hp, hl, hc⟩ := I.cached i hi
  refine ⟨k, l, hp, ?_, hc⟩
  show List.find? _ ((s.issue x).boardStore off d false).mem.cache = _
  rw [hk.2.2]
  exact hl

theorem slice_length (l : List Byte) (i n : Nat) : (slice l i n).length = n := by
  simp only [slice, List.length_append, List.length_take, List.length_drop, List.length_replicate]
  omega

theorem parts_whole (fuel off n : Nat) (ho : off % 128 = 0) (hn : n % 128 = 0) :
    ∀ p ∈ lineParts fuel off n, p.2 = 128 ∧ p.1 % 128 = 0 ∧ off ≤ p.1 ∧ p.1 + 128 ≤ off + n := by
  induction fuel generalizing off n with
  | zero => intro p hp; cases hp
  | succ fuel ih =>
    intro p hp
    simp only [lineParts] at hp
    split at hp
    · cases hp
    · have hk : min n (128 - off % 128) = 128 := by omega
      rw [hk] at hp
      rcases List.mem_cons.mp hp with rfl | hp
      · exact ⟨rfl, ho, by omega, by omega⟩
      · obtain ⟨h1, h2, h3, h4⟩ := ih (off + 128) (n - 128) (by omega) (by omega) p hp
        exact ⟨h1, h2, by omega, by omega⟩

/-- A span of whole lines that can all be written is written. -/
theorem span_write {b : State} {space off src : Nat} {d : List Byte} (ho : off % 128 = 0) (hd : d.length % 128 = 0)
    (h : ∀ s a x, Cached b s → a % 128 = 0 → off ≤ a → a + 128 ≤ off + d.length → x.length = 128 →
      (s.lineWrite space a src 0 x false).2 = 0 ∧ Cached b (s.lineWrite space a src 0 x false).1) {s : State} (I : Cached b s) :
    (s.spanWrite space off src 0 d false).2 = 0 ∧ Cached b (s.spanWrite space off src 0 d false).1 := by
  have key : ∀ (l : List (Nat × Nat)) (t : State × Nat × Nat), (∀ p ∈ l, p.2 = 128 ∧ p.1 % 128 = 0 ∧ off ≤ p.1 ∧ p.1 + 128 ≤ off + d.length) →
      t.2.1 = 0 → Cached b t.1 →
      (l.foldl (fun (acc : State × Nat × Nat) p =>
        let w := acc.1.lineWrite space p.1 src 0 (slice d acc.2.2 p.2) false
        (w.1, if acc.2.1 = 0 then w.2 else acc.2.1, acc.2.2 + p.2)) t).2.1 = 0
      ∧ Cached b (l.foldl (fun (acc : State × Nat × Nat) p =>
        let w := acc.1.lineWrite space p.1 src 0 (slice d acc.2.2 p.2) false
        (w.1, if acc.2.1 = 0 then w.2 else acc.2.1, acc.2.2 + p.2)) t).1 := by
    intro l
    induction l with
    | nil => intro t _ h0 hI; exact ⟨h0, hI⟩
    | cons p l ih =>
      intro t hp h0 hI
      rw [List.foldl_cons]
      obtain ⟨p1, p2, p3, p4⟩ := hp p (List.mem_cons_self ..)
      have w := h t.1 p.1 (slice d t.2.2 p.2) hI p2 p3 p4 (by rw [slice_length, p1])
      exact ih _ (fun q hq => hp q (List.mem_cons_of_mem _ hq)) (by simp only [h0, if_true]; exact w.1) w.2
  exact key _ (s, 0, 0) (parts_whole _ off d.length ho hd) rfl I

theorem free_length (s : State) (n : Nat) : (s.freeBytes n).length = n := by simp [State.freeBytes]

theorem area_length (s : State) (e t c : Nat) : (s.counterArea e t c).2.length = 1024 ∧ (s.counterArea e t c).1.regs = s.regs
    ∧ (s.counterArea e t c).1.mem = s.mem := by
  have key : ∀ (l : List Nat) (a : State × List Byte),
      (l.foldl (fun acc i => (acc.1.drawn, acc.2 ++ bytesLE 8 (acc.1.areaWord e t c i))) a).2.length = a.2.length + 8 * l.length
      ∧ (l.foldl (fun (acc : State × List Byte) i => (acc.1.drawn, acc.2 ++ bytesLE 8 (acc.1.areaWord e t c i))) a).1.regs = a.1.regs
      ∧ (l.foldl (fun (acc : State × List Byte) i => (acc.1.drawn, acc.2 ++ bytesLE 8 (acc.1.areaWord e t c i))) a).1.mem = a.1.mem := by
    intro l
    induction l with
    | nil => intro a; exact ⟨by simp, rfl, rfl⟩
    | cons i l ih =>
      intro a
      rw [List.foldl_cons]
      obtain ⟨h1, h2, h3⟩ := ih (a.1.drawn, a.2 ++ bytesLE 8 (a.1.areaWord e t c i))
      refine ⟨?_, h2, h3⟩
      rw [h1]
      simp [bytesLE]
      omega
  have := key (List.range 128) (s, [])
  exact ⟨this.1.trans (by simp), this.2⟩

theorem Cached.of_eq {b s t : State} (I : Cached b s) (hr : t.regs = s.regs) (hm : t.mem = s.mem) : Cached b t :=
  ⟨fun o ho => (show t.r32 o = s.r32 o by simp only [State.r32, hr]).trans (I.agree o ho), hm ▸ I.locks, hm ▸ I.images, hm ▸ I.trained,
    fun i hi => by simpa only [State.cached, hm] using I.cached i hi⟩

theorem Cached.drawn {b s : State} (I : Cached b s) (n : Nat) : Cached b (s.drawnN n) := ⟨I.agree, I.locks, I.images, I.trained, I.cached⟩

/-- The image of a SAVE with its header at 0, in cached lines, and its data on the board is written. -/
theorem store_succeeds {s : State} {e : Nat} (hd : s.cswHdr e = 0) (hs : s.cswSpace e = 1) (ho : s.cswOff e = 0)
    (ht : imageData ≤ s.tierSize) (hon : ∀ n < 16, s.rb (blkCtrl (bmPage n)) 0 = true) (hq : ∀ i < 32, s.quarantined 0 (128 * i) = false)
    (hk : ∀ i < 32, ∀ k, s.place (128 * i) = some k → keyCore k = 0) (I : Cached s s) : (s.cswStore e).2 = true := by
  have stack : ∀ (off : Nat) (d : List Byte), off % 128 = 0 → d.length % 128 = 0 → off + d.length ≤ 4096 → ∀ {t : State}, Cached s t →
      (t.spanWrite 0 off e 0 d false).2 = 0 ∧ Cached s (t.spanWrite 0 off e 0 d false).1 := fun off d h1 h2 h3 {t} J =>
    span_write h1 h2 (fun u a x K ha hb hc hx => by
      have := hit_write K hq hk (i := a / 128) (by omega) e x hx
      rwa [show 128 * (a / 128) = a by omega] at this) J
  simp only [State.cswStore, hd, hs, ho]
  have hN : imageData % 128 = 0 := by decide
  generalize imageData = N at hN ht ⊢
  have w1 := stack (0 + 1024) (s.freeBytes imageHead) (by decide) (by rw [free_length]; decide) (by rw [free_length]; decide) I
  generalize s.spanWrite 0 (0 + 1024) e 0 (s.freeBytes imageHead) false = r1 at w1 ⊢
  have w2 : ((r1.1.drawnN imageHead).spanWrite 1 0 e 0 ((r1.1.drawnN imageHead).freeBytes N) false).2 = 0
      ∧ Cached s ((r1.1.drawnN imageHead).spanWrite 1 0 e 0 ((r1.1.drawnN imageHead).freeBytes N) false).1 :=
    span_write (by decide) (by rw [free_length]; exact hN) (fun u a x K ha hb hc hx => by
      rw [free_length] at hc
      exact board_write K (by omega) hon e x hx) (w1.2.of_eq rfl rfl)
  generalize (r1.1.drawnN imageHead).spanWrite 1 0 e 0 ((r1.1.drawnN imageHead).freeBytes N) false = r2 at w2 ⊢
  obtain ⟨a1, a2, a3⟩ := area_length (r2.1.drawnN N) e (s.cswTcs e) (s.cswCcs e)
  generalize (r2.1.drawnN N).counterArea e (s.cswTcs e) (s.cswCcs e) = r3 at a1 a2 a3 ⊢
  have J : Cached s r3.1 := (w2.2.drawn N).of_eq a2 a3
  have w3 := stack 0 r3.2 rfl (by omega) (by omega) J
  simp [w1.1, w2.1, w3.1]

/-- Context-switching of engine 0 with its header at 0, of which every line is cached, and its data on the board. -/
def switchable : State :=
  let s := regs off (((List.range 16).map fun n => (blkCtrl (bmPage n), 1)) ++ [(Reg.engCswData 0, 1), (Reg.engCswTcmask 0, 5)])
  s.modMem fun m => { m with
    trained := (List.range 16).map fun n => (n, 1)
    cache := (List.range 32).map fun i => ⟨0, (s.place (128 * i)).getD 0, sevens, false, false, false⟩ }
theorem stored_image : Saves switchable 0 1 ∧ ∃ u, (saving switchable 0 1).cswStore 0 = (u, true) := by
  refine ⟨by decide +kernel, ((saving switchable 0 1).cswStore 0).1, ?_⟩
  have h : ((saving switchable 0 1).cswStore 0).2 = true :=
    store_succeeds (by decide +kernel) (by decide +kernel) (by decide +kernel) (by decide +kernel) (by decide +kernel)
      (fun i _ => unquarantined (by decide +kernel) _) (fun i hi k hk => by
        have : ∀ i < 32, ((saving switchable 0 1).place (128 * i)).map keyCore = some 0 := by decide +kernel
        have := this i hi
        rw [hk] at this
        simpa using this)
      ⟨fun _ _ => rfl, by decide +kernel, by decide +kernel, rfl, fun i hi => by
        have : ∀ i < 32, (((saving switchable 0 1).place (128 * i)).bind (saving switchable 0 1).cached).map (·.core) = some 0 := by
          decide +kernel
        have := this i hi
        generalize (saving switchable 0 1) = s at this ⊢
        cases hp : s.place (128 * i) with
        | none => rw [hp] at this; cases this
        | some k =>
          rw [hp] at this
          cases hl : s.cached k with
          | none => simp [hl] at this
          | some l => exact ⟨k, l, rfl, hl, by simpa [hl] using this⟩⟩
  exact eq_of_snd h

/-- Slot 1 of engine 0 away, with its header at 0, and its image, good, not good, or none. -/
def goodImage : Image := { lines := [off.lineId 0 1024], intact := true, acc := [(0, 7)], slots := [], spad := [(0, 5)], spadPoison := [],
                           era := none, accEra := none, regs := imageRegs.map fun o => (o, 0) }
def slotAway (l : List Image) : State := (switchable.w32 (Reg.engCswStat 0) 0x100).modMem fun m => { m with images := l }
def loaded (l : List Image) : State × Rd := ((slotAway l).wf (Reg.engCswStat 0) 0 8 1).spanRead 0 0 1024 0 0
theorem wit_Loads :
    (∀ l ∈ [[goodImage], [{ goodImage with intact := false }], []], Loads (slotAway l) 0 1 0 (loaded l).1 (loaded l).2)
    ∧ ((loaded [goodImage]).1.imageOf 0 = some goodImage ∧ (loaded [goodImage]).1.imageGood goodImage = true
      ∧ (loaded [goodImage]).2.poison = false ∧ (loaded [goodImage]).2.err = 0)
    ∧ ((loaded [{ goodImage with intact := false }]).1.imageOf 0 = some { goodImage with intact := false }
      ∧ (loaded [{ goodImage with intact := false }]).1.imageGood { goodImage with intact := false } = false)
    ∧ (loaded []).1.imageOf 0 = none := by
  refine ⟨fun l hl => ?_, by decide +kernel, by decide +kernel, by decide +kernel⟩
  have h : ∀ l ∈ [[goodImage], [{ goodImage with intact := false }], []], Ready (slotAway l) ∧ (slotAway l).cswIdle 0 = true
      ∧ (slotAway l).slotHeld 0 1 = true ∧ 0 = ((slotAway l).r64 (Reg.engCswAway 0 0)).toNat := by decide +kernel
  obtain ⟨h1, h2, h3, h4⟩ := h l hl
  exact ⟨h1, h2, by decide, h3, h4, rfl⟩
/-- A SAVE to stack memory whose channels are off. -/
theorem wit_SaveFails : Saves off 0 1 ∧ ((saving off 0 1).cswStore 0).2 = false := by decide +kernel

def switching (op cause : Nat) (ctx : Option Nat) : State :=
  (off.w32 (Reg.engCswStat 0) 1).modEngine 0 fun g => { g with csw := some ⟨op, 2, cause, ctx⟩ }
/-- Context 5 on its engines, idle for long; context 6 with it, above its share, and context 7 away, below it. -/
def ctxRun : State := (regs serve [(Reg.coreCtxRoot 0 5, 1), (Reg.pwrAcctCfg, 0x80000000), (Reg.srvShareWindow, 100),
  (Reg.pwrAcctPeriod, 100), (Reg.srvCtxBlock, 100)]).modSrv fun v => { v with ctxs := [(5, { Ctx.reset with state := 1, quiet := 100 })] }
/-- The accounting records in lines of core 0's cache. -/
def bookLine (k : Nat) : CLine := ⟨0, k * 2 ^ 21, sevens, false, false, false⟩
def booked : State := ctxRun.modMem fun m => { m with cache := (List.range 65).map bookLine }
/-- Tide locked, and a step every 100 ticks. -/
def periodic : State := (tideIn 2).w32 (Reg.tideStepPeriod 0) 100
theorem wit_ContextsAndModes :
    (Ready eng ∧ eng.cswIdle 0 = false) ∧ (Ready off ∧ off.cswIdle 0 = true ∧ off.slotHeld 0 1 = false)
    ∧ (Ready (slotAway []) ∧ (slotAway []).cswIdle 0 = true ∧ (slotAway []).slotHeld 0 1 = true)
    ∧ (∀ op ∈ [1, 2], ∀ n ∈ [0, 3, 4], ∀ c ∈ [none, some 5], Ready (switching op n c)
      ∧ ((switching op n c).engine 0).csw = some ⟨op, 2, n, c⟩)
    ∧ (Ready ctxRun ∧ ctxRun.running = true ∧ ctxRun.ctxBlocks 5 = true ∧ (ctxRun.ctx 5).blocked = false ∧ ctxRun.ctxBlocks 6 = false
      ∧ ctxRun.srv.windowAt + (ctxRun.r32 Reg.srvShareWindow).toNat ≤ ctxRun.tick
      ∧ sharers ctxRun = [5] ∧ ctxRun.ctxState 5 = 1
      ∧ ctxRun.rb Reg.pwrAcctCfg 31 = true ∧ ctxRun.srv.acctAt + (ctxRun.r32 Reg.pwrAcctPeriod).toNat ≤ ctxRun.tick)
    ∧ (off.running = false ∧ off.rb Reg.pwrAcctCfg 31 = false)
    ∧ (Ready booked ∧ booked.rb Reg.pwrAcctCfg 31 = true ∧ booked.srv.acctAt + (booked.r32 Reg.pwrAcctPeriod).toNat ≤ booked.tick)
    ∧ (fld (0 : Word) 0 2 = 0 ∧ fld (2 : Word) 0 2 = 2 ∧ fld (1 : Word) 0 2 = 1 ∧ fld (3 : Word) 0 2 = 3)
    ∧ (Ready periodic ∧ periodic.running = false ∧ (periodic.w32 Reg.srvRtCfg 1).staticRefused = 0
      ∧ (off.w32 Reg.srvRtCfg 1).staticRefused = 4) := by decide +kernel
theorem wit_BooksCached : BooksCached booked (fun k => k * 2 ^ 21) bookLine := by
  have hb : ∀ k < 65, booked.place (booked.acctOff k) = some (k * 2 ^ 21) ∧ keyCore (k * 2 ^ 21) = 0
      ∧ booked.cached (k * 2 ^ 21) = some (bookLine k) := by decide +kernel
  refine ⟨rfl, fun k hk => ?_, fun _ _ _ _ h => Nat.eq_of_mul_eq_mul_right (by decide) h⟩
  obtain ⟨h1, h2, h3⟩ := hb k hk
  exact ⟨h1, by rw [h2]; exact unquarantined (by decide +kernel) _, h3, by simp [bookLine]⟩

/-! ## Witnesses: events, power, boot, the mailbox -/

/-- A peer whose key is not the management key. -/
def stranger : Requester := .peer 3 0x77
theorem wit_EventsAndReads : Ready (tideIn 2) ∧ (tideIn 2).tideState ≠ 0 ∧ (tideIn 2).keyed .host = true
    ∧ (tideIn 2).keyed stranger = false := by decide +kernel

def smbAt (n : Nat) : State := off.modPwr fun p => { p with smbOff := BitVec.ofNat 12 n }
theorem wit_PowerAndSideband :
    (Ready (smbAt 0x104) ∧ (smbAt 0x104).pwr.smbOff.toNat % 4 = 0 ∧ (smbAt 0x105).pwr.smbOff.toNat % 4 ≠ 0)
    ∧ (Ready off ∧ quarters 4 < 4 * (off.rf Reg.pwrTlim 8 8 : Int) ∧ quarters 4 < 500 ∧ 4 * (off.rf Reg.pwrTlim 8 8 : Int) ≤ quarters 0x1FF)
    ∧ (let s := off.wf Reg.pwrTlim 8 8 255
      Ready s ∧ quarters 500 < 4 * (s.rf Reg.pwrTlim 8 8 : Int) ∧ 500 ≤ quarters 500) := by decide +kernel

/-- The boot in state n with GP0 training, and with records. -/
def bootIn (n : Nat) : State := (off.setPortState 8 1).w32 Reg.secBootStat (BitVec.ofNat 32 n)
def withRecords (l : List CfgRec) : State := (bootIn 3).modSec fun x => { x with records := l }
def crec (op off : Nat) : CfgRec := { op := BitVec.ofNat 4 op, off := BitVec.ofNat 26 off, value := 5, mask := 0xFF, time := 7 }
/-- A boot descriptor of the flash with its CRC, at offset 0. -/
def descriptor : List Byte :=
  bytesLE 4 0x5344424C ++ bytesLE 4 0x2000 ++ bytesLE 4 0x4000 ++ [0, 1, 2, 5] ++ List.replicate 44 0 ++ bytesLE 4 15532321
def flash : FlashRead := { extents := [(0, descriptor)], err := false }
/-- Bits of word 3 of CAL and TRIM that sense wrong. -/
def sense (l : List (Fin 72)) : FuseSense := { cells := [(130, 0), (130, 2), (200, 0), (5312, 1)], bits := l.map fun i => (3, i) }
def doubleErr : FuseSense := { cells := [], bits := [(79, 0), (79, 71)] }
/-- R456: two of three cells carry a bit of a triple region, and none of CAL; one wrong bit of a word is corrected. -/
theorem test_fuse_sense : misreadBits (sense []) = [130, 130] ∧ doubleBit (sense [5, 5]) = false ∧ doubleBit doubleErr = true := by decide +kernel
theorem wit_BootSteps :
    (Ready off ∧ off.bootState = 0 ∧ off.rb Reg.fuseStat 0 = false)
    ∧ (Ready (bootIn 1) ∧ (bootIn 1).bootState = 1 ∧ bootDescriptor flash = some descriptor ∧ (bootIn 1).rb Reg.secBootStat 4 = false
      ∧ bootDescriptor ⟨[], false⟩ = none ∧ (bootIn 1).portState 8 ≠ 0)
    ∧ (Ready (bootIn 2) ∧ (bootIn 2).bootState = 2 ∧ (bootIn 2).portState 8 ≠ 0)
    ∧ (Ready (withRecords []) ∧ (withRecords []).bootState = 3 ∧ (withRecords []).portState 8 ≠ 0) := by decide +kernel

/-- Records that are written, and that meet an error response. -/
theorem wit_BootSteps_records :
    ([(1, 4, 0x1C), (2, 8, 0x18)].all fun x =>
      let s := withRecords [crec x.1 x.2.2]
      let w := s.regWrite .security { off := x.2.2, size := x.2.1, data := 5 } []
      decide (Ready s ∧ s.bootState = 3 ∧ s.sec.records = [crec x.1 x.2.2] ∧ (crec x.1 x.2.2).off.toNat = x.2.2) && w.2
        && decide (w.1.sec.records = s.sec.records)) = true
    ∧ ([(1, 4), (2, 8)].all fun x =>
      let s := withRecords [crec x.1 0x3FFFFF8]
      let w := s.regWrite .security { off := 0x3FFFFF8, size := x.2, data := 5 } []
      decide (Ready s ∧ s.bootState = 3) && !w.2 && decide (w.1.portState 8 ≠ 0)) = true
    ∧ (let s := withRecords [crec 3 0x1C]
      let w := s.regRead { off := 0x1C, size := 4, data := 0 }
      Ready s ∧ s.bootState = 3 ∧ w.2.isSome = true ∧ w.1.sec.records = s.sec.records ∧ w.1.portState 8 ≠ 0)
    ∧ (Ready (withRecords [crec 4 0]) ∧ (crec 4 0).op = 4) := by decide +kernel

/-- RESET_N held low; without power; a warm reset asked for; a trip. -/
def lowReset : State := off.modPwr fun p => { p with resetN := false }
def dark : State := off.modPwr fun p => { p with powered := false, resetN := false }
def warm : State := off.modSec fun x => { x with resetWait := true }
theorem wit_ResetsAndPower :
    off.pwr.powered = true ∧ (lowReset.pwr.powered = true ∧ lowReset.pwr.resetN = false) ∧ dark.pwr.powered = false
    ∧ (Ready off ∧ fld (0x57520001 : Word) 16 16 = 0x5752 ∧ (0x57520001 : Word).getLsbD 0 = true ∧ off.rb Reg.pwrStat 10 = false
      ∧ (off.w32 Reg.pwrStat 0x400).rb Reg.pwrStat 10 = true ∧ fld (1 : Word) 16 16 ≠ 0x5752)
    ∧ (Ready warm ∧ warm.sec.resetWait = true ∧ warm.progBusy = false ∧ off.sec.resetWait = false) := by decide +kernel

/-- The mailbox owned by the host, with operation op, len words to come and words b taken; the same running. -/
def mailbox (boot op len : Nat) (b : List Dword) : State :=
  (regs (bootIn boot) [(Reg.secMbxStat, 1 + 264 * 2 ^ 16)]).modSec fun x => { x with mbxOp := op, mbxLen := len, mbxIn := b }
def mailRun (boot op : Nat) (b : List Dword) : State := (mailbox boot op b.length b).wb Reg.secMbxStat 1 true
theorem wit_Mailbox :
    (Ready (bootIn 4) ∧ mayWrite .host Reg.secMbxCtrl = true ∧ (bootIn 4).mbxOwned = false ∧ fld (0x101 : Word) 0 8 ≠ 0
      ∧ 0 < fld (0x101 : Word) 8 24)
    ∧ (Ready (mailbox 4 1 2 []) ∧ (mailbox 4 1 2 []).mbxOwned = true ∧ (mailbox 4 1 2 []).mbxOwner = reqSrc .host
      ∧ (mailbox 4 1 2 []).mbxBusy = false ∧ mayWrite .host Reg.secMbxIn = true ∧ (mailbox 4 1 2 []).mbxTakes .host = true
      ∧ (mailbox 4 1 2 []).mbxTakes (.serving 0) = false ∧ (mailbox 4 1 2 [7]).mbxTakes .host = true)
    ∧ (((bootIn 4).modSec fun x => { x with mbxOut := List.replicate 9 1 }).mbxLeft ≠ [] ∧ (bootIn 4).keyed .host = true)
    ∧ ((bootIn 4).keyed stranger = false ∧ mayWrite stranger Reg.secMbxCtrl = false ∧ mayWrite stranger Reg.secMbxIn = false) := by
  decide +kernel

/-- Whether the part has a valid identity seed is the part's own (Config.fuseFactory): here it has. -/
theorem wit_seed (h : Config.fuseFactory 128 = true) (s : State) (hs : s.sec.misread = []) : s.seedValid = true := by
  simp [State.seedValid, State.fuse, State.fuseCell, hs, h]
theorem wit_noSeed (h : Config.fuseFactory 128 = false) (s : State) (hs : s.sec.misread = []) : s.seedValid = false := by
  simp [State.seedValid, State.fuse, State.fuseCell, hs, h]
theorem wit_MailboxCommands :
    Runs (mailRun 4 1 []) 1 0 [4, 5] ∧ Runs (mailRun 5 2 []) 2 0 [4, 5] ∧ Runs (mailRun 4 3 [1, 2, 3, 4]) 3 4 [4, 5]
    ∧ (Runs (mailRun 4 4 [1, 2, 3, 4]) 4 4 [4, 5] ∧ (mailRun 4 4 [1, 2, 3, 4]).owned = false
      ∧ (mailRun 4 4 [1, 2, 3, 4]).digestOk (mailRun 4 4 [1, 2, 3, 4]).mbxBytes = true
      ∧ (List.range 4).find? (mailRun 4 4 [1, 2, 3, 4]).ownerFree = some 0)
    ∧ (let s := (mailRun 4 7 [3]).modSec fun x => { x with run := some ⟨0, 5, [], [], [], [], [], []⟩ }
      Runs s 7 1 [4] ∧ argNat s.mbxBytes = 3)
    ∧ (Runs (mailRun 4 8 []) 8 0 [4, 5] ∧ (mailRun 4 8 []).debugLock = false)
    ∧ (let s := mailRun 4 9 [0x55]
      Runs s 9 1 [4] ∧ keyOk (argNat s.mbxBytes) = true ∧ s.pkeyAt (argNat s.mbxBytes) = none ∧ argNat s.mbxBytes ≠ s.mgmtKey
      ∧ s.pkeyCount < s.pkeyRoom ∧ ((List.range 64).find? fun i => (s.pkeyEntry i).isNone) = some 0)
    ∧ (Runs (mailRun 4 11 [0x55]) 11 1 [4] ∧ (mailRun 4 11 [0x55]).liveQps = [])
    ∧ (Ready (mailRun 5 12 []) ∧ (mailRun 5 12 []).mbxBusy = true ∧ (mailRun 5 12 []).sec.mbxOp = 12 ∧ (mailRun 5 12 []).bootState = 5)
    ∧ (mailRun 5 6 []).sec.mbxOp = 6 :=
  by and_intros <;> decide +kernel
def keyed55 : State := (mailRun 4 10 [0x55]).w32 (Reg.xptPkeyTab 0) 0x80000055
theorem wit_MailboxCommands_remove : Runs keyed55 10 1 [4] ∧ argNat keyed55.mbxBytes ≤ 0xFFFF ∧ keyed55.pkeyAt (argNat keyed55.mbxBytes) = some 0
    ∧ keyed55.keyInUse (argNat keyed55.mbxBytes) = false :=
  by and_intros <;> decide +kernel

/-- An authorised command with n bytes of arguments, the first of them v, on a part with a valid seed whose key is ready; owner slot 0
enrolled. -/
def signed (op n v : Nat) : State :=
  (mailRun 4 op (BitVec.ofNat 64 v :: List.replicate ((n + authBytes) / 8 - 1) 0)).modSec fun x => { x with idReady := true, fuses := [ownerBase 0 + 256] }
theorem wit_Presented (h : Config.fuseFactory 128 = true) (op n v : Nat) (hx : [(4, 32, 7), (5, 8, 0), (6, 8, 1)].contains (op, n, v) = true) :
    ∃ args block, Presented (signed op n v) op n [4, 5] args block := by
  have k := wit_seed h
  simp only [List.contains_cons, List.contains_nil, Bool.or_eq_true, beq_iff_eq, Prod.mk.injEq, Bool.or_false] at hx
  rcases hx with ⟨rfl, rfl, rfl⟩ | ⟨rfl, rfl, rfl⟩ | ⟨rfl, rfl, rfl⟩ <;>
    exact ⟨_, _, by decide +kernel, by decide +kernel, by decide +kernel, by decide +kernel, ⟨k _ rfl, by decide +kernel⟩, by decide +kernel, rfl, rfl,
      by decide +kernel⟩
theorem wit_Presented_more :
    ((signed 4 32 7).owned = true ∧ (List.range 4).find? (signed 4 32 7).ownerFree = some 1)
    ∧ (signed 4 32 7).digestOk (slice (signed 4 32 7).mbxBytes 0 32) = true
    ∧ ((signed 5 8 0).ownerEnrolled 0 = true ∧ (signed 5 8 0).ownerRevoked 0 = false)
    ∧ argNat (slice (signed 5 8 0).mbxBytes 0 8) = 0 ∧ argNat (slice (signed 6 8 1).mbxBytes 0 8) = 1
    ∧ ((List.range 16).find? fun j => !(signed 6 8 1).partUsed j) = some 0 :=
  by and_intros <;> decide +kernel

/-- A boot whose flash answers with an error, with no good descriptor and with one; the boot that has fallen back. -/
def badFlash : FlashRead := { flash with err := true }
theorem wit_BootSteps_error : badFlash.err = true ∧ bootDescriptor badFlash = some descriptor ∧ bootDescriptor ⟨[], true⟩ = none
    ∧ Ready ((bootIn 1).wb Reg.secBootStat 4 true)
    ∧ ((bootIn 1).wb Reg.secBootStat 4 true).bootState = 1 ∧ ((bootIn 1).wb Reg.secBootStat 4 true).rb Reg.secBootStat 4 = true
    ∧ ((bootIn 1).wb Reg.secBootStat 4 true).portState 8 ≠ 0 := by decide +kernel
/-- A boot in FETCH whose BOOT_ALT_EN fuse senses as b, rightly or not. -/
def altBoot (b : Bool) : State := (bootIn 1).modSec fun x => { x with misread := if Config.fuseFactory 130 = b then [] else [130] }
theorem wit_BootSteps_alt (b : Bool) : (altBoot b).bootAltEn = b ∧ Ready (altBoot b) ∧ (altBoot b).bootState = 1
    ∧ (altBoot b).rb Reg.secBootStat 4 = false ∧ (altBoot b).sec.viaMbx = false ∧ (altBoot b).portState 8 ≠ 0 := by
  refine ⟨?_, by revert b; decide +kernel⟩
  cases b <;> cases h : Config.fuseFactory 130 <;> simp [altBoot, State.bootAltEn, State.fuse, State.fuseCell, h]
/-- An IMAGE whose three words state 24 bytes, and one whose words state 8; commands that run in HALTED and in RECOVERY. -/
theorem wit_MailboxCommands_image :
    (let s := mailRun 5 12 [0, 0, 24];
      Ready s ∧ s.mbxBusy = true ∧ s.sec.mbxOp = 12 ∧ s.bootState = 5 ∧ (imgNat s.mbxBytes 0x10 4 + 7) / 8 * 8 = s.mbxBytes.length)
    ∧ (let s := mailRun 5 12 [0, 0, 8];
      Ready s ∧ s.mbxBusy = true ∧ s.sec.mbxOp = 12 ∧ s.bootState = 5 ∧ (imgNat s.mbxBytes 0x10 4 + 7) / 8 * 8 ≠ s.mbxBytes.length) := by
  and_intros <;> decide +kernel
theorem wit_MailboxCommands_state :
    ∀ x ∈ ((List.range 12).map fun i => (6, i + 1)) ++ [(5, 6), (5, 7), (5, 9), (5, 10), (5, 11)],
      Ready (mailRun x.1 x.2 []) ∧ (mailRun x.1 x.2 []).mbxBusy = true ∧ (mailRun x.1 x.2 []).bootState = x.1
        ∧ (mailRun x.1 x.2 []).sec.mbxOp = x.2 := by decide +kernel
/-- A tile row of an accumulator slot that holds a SHAPE 0 tile and of one that holds none. -/
def tiled : State :=
  off.modEngine 0 fun g => { g with slots := Sparse.set (fun _ => SlotMeta.empty) g.slots 3 { SlotMeta.empty with shape := some 0 } }
theorem wit_EventsAndReads_rows : Ready tiled ∧ accRow (tiled.engine 0) 3 70 = ([3], 33) ∧ accRow (off.engine 0) 3 70 = ([3], 1)
    ∧ ((tiled.engine 0).slot 3).shape ≠ some 1 := by decide +kernel

/-! ## The checks of WellFormed: each refuses an ill-formed command -/

def stk (op : LineOp) : StackAcc := ⟨0, 0, op, 0, []⟩
def brd (op : LineOp) : BoardAcc := ⟨0, 0, op, []⟩
def nma : NmaAcc := ⟨0, 0, 0, List.replicate 4 0, 0, 0, false, []⟩

theorem test_wf_reg_data : Instr.wf (.regWrite .host ⟨0, 4, 0x100000000⟩) = false := by decide
theorem test_wf_reg_commit : Instr.wf (.commitRequest .host ⟨0, 4, 0x100000000⟩) = false := by decide
theorem test_wf_blanket_late : Instr.wf (.blanketWrite .host ⟨0, 4, 1⟩ [0x4000]) = false := by decide
theorem test_wf_page : Instr.wf (.forceOff 0x4000) = false := by decide
theorem test_wf_line_past : Instr.wf (.stackAccess (stk (.write 127 [1, 2] false))) = false := by decide
theorem test_wf_line_empty : Instr.wf (.stackAccess (stk (.unlockWrite 0 [] false))) = false := by decide
theorem test_wf_stack_upset_twice : Instr.wf (.stackAccess { stk .read with upset := [(3, 1), (3, 2)] }) = false := by decide
theorem test_wf_stack_upset_zero : Instr.wf (.stackAccess { stk .read with upset := [(3, 0)] }) = false := by decide
theorem test_wf_stack_off : Instr.wf (.stackAccess { stk .read with off := 2 ^ 51 }) = false := by decide +kernel
theorem test_wf_stack_src : Instr.wf (.stackAccess { stk .read with src := 65536 }) = false := by decide +kernel
theorem test_wf_nma_src : Instr.wf (.nmaOperation { nma with src := 65536 }) = false := by decide +kernel
theorem test_wf_nma_off : Instr.wf (.nmaOperation { nma with off := 2 ^ 51 }) = false := by decide +kernel
theorem test_wf_nma_short : Instr.wf (.nmaOperation { nma with bytes := [0, 0, 0] }) = false := by decide +kernel
theorem test_wf_nma_long : Instr.wf (.nmaOperation { nma with bytes := List.replicate 129 0 }) = false := by decide +kernel
theorem test_wf_nma_upset : Instr.wf (.nmaOperation { nma with upset := [(0, 0)] }) = false := by decide +kernel
theorem test_wf_scrub : Instr.wf (.scrubRead 0 [(0, 0)]) = false := by decide
theorem test_wf_traffic : Instr.wf (.tgLineOperation 0 [(0, 1), (0, 2)]) = false := by decide
theorem test_wf_walk : Instr.wf (.pageWalk none 0 (2 ^ 48)) = false := by decide +kernel
theorem test_wf_board_off : Instr.wf (.boardAccess { brd .read with off := 2 ^ 51 }) = false := by decide +kernel
theorem test_wf_board_src : Instr.wf (.boardAccess { brd .read with src := 65536 }) = false := by decide +kernel
theorem test_wf_board_line : Instr.wf (.boardAccess (brd (.write 128 [1] false))) = false := by decide
theorem test_wf_board_upset : Instr.wf (.boardAccess { brd .read with upset := [(67, 0)] }) = false := by decide
theorem test_wf_host_src : Instr.wf (.hostWindowAccess ⟨65536, 0, 4, none⟩) = false := by decide +kernel
theorem test_wf_host_off : Instr.wf (.hostWindowAccess ⟨0, 2 ^ 51, 4, none⟩) = false := by decide +kernel
theorem test_wf_host_line : Instr.wf (.hostWindowAccess ⟨0, 126, 4, none⟩) = false := by decide
theorem test_wf_host_bytes : Instr.wf (.hostWindowAccess ⟨0, 0, 4, some ([1, 2], false)⟩) = false := by decide
theorem test_wf_fabric_lanes : Instr.wf (.qualifyDone 0 ⟨[0, 0, 0, 0], 0, false, 0⟩) = false := by decide
theorem test_wf_host_lanes : Instr.wf (.qualifyDone 8 ⟨List.replicate 8 0, 0, false, 0⟩) = false := by decide
theorem test_wf_credits : Instr.wf (.negotiationRecord 0 ⟨0, 0, List.replicate 9 0, 0, 0, 0⟩) = false := by decide
theorem test_wf_codeword_lanes : Instr.wf (.codewordReceive 0 ⟨[List.replicate 544 0], [], 0, 0⟩) = false := by decide +kernel
theorem test_wf_codeword_length : Instr.wf (.codewordReceive 0 ⟨List.replicate 2 (List.replicate 271 0), [], 0, 0⟩) = false := by decide +kernel
theorem test_wf_codeword_symbol : Instr.wf (.codewordReceive 0 ⟨List.replicate 2 (List.replicate 272 1024), [], 0, 0⟩) = false := by decide +kernel
theorem test_wf_codeword_fix : Instr.wf (.codewordReceive 0 ⟨List.replicate 2 (List.replicate 272 0), [(5, 1), (5, 2)], 0, 0⟩) = false := by decide +kernel
theorem test_wf_codeword_place : Instr.wf (.codewordReceive 0 ⟨List.replicate 2 (List.replicate 272 0), [(544, 1)], 0, 0⟩) = false := by decide +kernel
theorem test_wf_codeword_zero : Instr.wf (.codewordReceive 0 ⟨List.replicate 2 (List.replicate 272 0), [(1, 0)], 0, 0⟩) = false := by decide +kernel
theorem test_wf_flit_credits : Instr.wf (.flitReceive 0 ⟨0, 0, false, false, false, [], List.replicate 608 0, 0, 0⟩) = false := by decide +kernel
theorem test_wf_flit_slots : Instr.wf (.flitReceive 0 ⟨0, 0, false, false, false, List.replicate 8 0, [], 0, 0⟩) = false := by decide +kernel
theorem test_wf_frame_short : Instr.wf (.ethFrameReceive 0 ⟨0, 63, true, false⟩) = false := by decide
theorem test_wf_frame_long : Instr.wf (.ethFrameReceive 0 ⟨0, 9217, true, false⟩) = false := by decide +kernel
theorem test_wf_dma : Instr.wf (.dmaCpl 0 0 (List.replicate 4097 0)) = false := by decide +kernel
theorem test_wf_payload (k : Packet) (h : 4096 < k.payload.length) : Instr.wf (.write 0 k) = false := by
  simp [Instr.wf, Packet.wf, h]
theorem test_wf_ring : Instr.wf (.srvCmdTailWrite 0 [⟨2 ^ 44, [1]⟩]) = false := by decide +kernel
theorem test_wf_samples : Instr.wf (.rowCompletion 0 ⟨List.replicate 18 (0, 0), 0, 0, none⟩) = false := by decide +kernel
theorem test_wf_flash : Instr.wf (.fetch ⟨[(2 ^ 32, [1])], false⟩) = false := by decide +kernel
theorem test_wf_reg_wr : Instr.wf (.regWr 0 ⟨0, 4, 0x100000000⟩) = false := by decide

/-- Each check lets a command through at the end of its range. -/
theorem test_wf_ends : [Instr.regWrite .host ⟨0, 4, 0xFFFFFFFF⟩, .blanketWrite .host ⟨0, 4, 1⟩ [0x3FFF], .forceOff 0x3FFF,
    .stackAccess ⟨65535, 2 ^ 51 - 1, .write 126 [1, 2] false, 0, [(3, 1), (4, 1)]⟩, .nmaOperation nma,
    .nmaOperation { nma with op := 8, bytes := [] }, .pageWalk none 0 (2 ^ 48 - 1), .hostWindowAccess ⟨0, 124, 4, some ([1, 2, 3, 4], false)⟩,
    .qualifyDone 8 ⟨[0, 0, 0, 0], 0, false, 0⟩, .qualifyDone 7 ⟨List.replicate 8 0, 0, false, 0⟩, .ethFrameReceive 0 ⟨0, 9216, true, false⟩,
    .codewordReceive 0 ⟨List.replicate 2 (List.replicate 272 1023), [(543, 1)], 0, 0⟩,
    .flitReceive 0 ⟨0, 0, false, false, false, List.replicate 8 0, List.replicate 608 0, 0, 0⟩,
    .rowCompletion 0 ⟨List.replicate 17 (0, 0), 0, 0, none⟩].all Instr.wf = true := by decide +kernel

/-! ## The table gives its rows no bits -/

theorem test_decode_none (n w : Nat) : decodeTableWord n w = none := rfl

/-! ## Worked examples of the spec -/

/-- Table 10-3: one offset under the three modes of pan 11. -/
def exOff : Nat := 0x16D2345680
def panned (m : Nat) : State :=
  regs off ((List.range 8).map fun c => (Reg.corePanMode c 0, BitVec.ofNat 32 (m * 2 ^ 22)))
theorem test_place_local : (panned 1).place exOff = some (lineKey (3 * 512 + 157) 0x2C68A) := by decide +kernel
theorem test_place_spread : (panned 0).place exOff = some (lineKey (3 * 512 + 144) 0x2D234) ∧ (panned 2).place exOff = some (lineKey (512 + 234) 0x2DA46) := by
  decide +kernel
theorem test_place_cell : (lineBank 0x2C68A, lineRow 0x2C68A, lineCol 0x2C68A) = (2, 710, 8)
    ∧ (lineBank 0x2D234, lineRow 0x2D234, lineCol 0x2D234) = (7, 722, 3)
    ∧ (lineBank 0x2DA46, lineRow 0x2DA46, lineCol 0x2DA46) = (2, 730, 4) := by decide +kernel

/-- The example after R262: interface 1 and raw line index of a board offset. -/
theorem test_board_place : (boardIface 0x1234567880, boardRaw 0x1234567880 * 128) = (1, 0x136B06F00) := by decide +kernel

/-- The example after R55: 1.0 to 1.2 against 1.0 to 1.1 is 1.1. -/
theorem test_agreed : off.agreed gtxPn 0x102 0x100 0x101 = some 0x101 := by decide +kernel

/-- A plane of the example after R267: one byte and 2,047 zeros. -/
theorem test_brine_tokens : brineEmit 4097 (0x80 :: List.replicate 2047 0) = [0, 0x80] ++ List.replicate 15 0xFF ++ [0xFE] := by decide +kernel

/-- The example after R99: five of the 32 values and 27 more, INT4. -/
def dec (n : Bool) (m : Nat) (k : Int) : Val := (VF.round ⟨.fin n m k, 0⟩ .fp32 false).v
def exRow : List Val :=
  [dec false 0x3333333 (-30), dec true 0x13D70A4 (-26), dec false 0x1EB851F (-28), dec false 0x1999999A (-30), dec true 0xF333333 (-28)]
    ++ List.replicate 27 (dec false 1 (-4))
theorem test_quant : (quantBlock 2 0 false exRow).codes.take 5 = [0, 0xF, 0, 2, 0xC] ∧ (quantBlock 2 0 false exRow).scale = 0xFE
    ∧ (quantBlock 2 2 false exRow).codes.take 5 = [0, 0xE, 1, 3, 9] ∧ (quantBlock 2 2 false exRow).scale = 0xFD
    ∧ (quantBlock 2 2 false exRow).clipped = 1 := by decide +kernel

end Sys2Proof.Tests
end

section
/-! SUPPORT. A write access to a block page: where it lands, and what becomes of the words of the common header and of the
registers that need all 64 bits (R37, R44). -/
namespace Sys2Proof.Machine

/-! ## Pages -/

/-- No block lies in the doorbell window or the blanket pages, nor behind the stacks. -/
theorem Reg.page_eq_none {pn : Nat} (h : 0x280 ≤ pn ∧ pn < 0x1000 ∨ 0x2000 ≤ pn) : Reg.page pn = none := by
  unfold Reg.page
  repeat rw [if_neg (by omega)]

theorem Reg.page_enPage {e : Nat} (he : e < 256) : Reg.page (enPage e) = some (.eng, e) := if_pos he

theorem Reg.page_coPage {c : Nat} (hc : c < 8) : Reg.page (coPage c) = some (.core, c) := by
  rw [Reg.page, coPage, if_neg (by omega), if_pos (by omega), Nat.add_sub_cancel_left]

/-- An offset of a block page lies neither in the doorbell window nor in a blanket page. -/
theorem not_window_of_isPage {off : Nat} (h : isPage off = true) : isDoorbell off = false ∧ isBlanket off = false := by
  have hw : ¬ (0x280000 ≤ off ∧ off < 0x320000) := fun hw => by
    rw [isPage, Reg.page_eq_none (by omega)] at h
    exact absurd h (by decide)
  simp only [isDoorbell, isBlanket, Bool.and_eq_false_iff, decide_eq_false_iff_not]
  omega

theorem lt_regSpace_of_isPage {off : Nat} (h : isPage off = true) : off < regSpace := by
  by_contra hn
  rw [isPage, Reg.page_eq_none (by unfold regSpace at hn; omega)] at h
  exact absurd h (by decide)

theorem accessMapped_of_isPage {a : RegAcc} (hs : a.size = 4 ∨ a.size = 8) (ha : a.off % a.size = 0)
    (hp : isPage a.off = true) : accessMapped a = true := by
  simp [accessMapped, hs, ha, hp, lt_regSpace_of_isPage hp]

theorem aligned_of_accessMapped {a : RegAcc} (h : accessMapped a = true) : a.off % a.size = 0 := by
  simp only [accessMapped, Bool.and_eq_true, beq_iff_eq] at h
  obtain ⟨⟨⟨-, ha⟩, -⟩, -⟩ := h
  exact ha

theorem isPage_of_pageKind {off : Nat} {k : Reg.Page} (h : pageKind off = some k) : isPage off = true := by
  obtain ⟨x, hx, -⟩ := Option.map_eq_some_iff.mp h
  simp [isPage, hx]

theorem pageKind_of_isPage {off : Nat} (h : isPage off = true) : ∃ k, pageKind off = some k := by
  obtain ⟨x, hx⟩ := Option.isSome_iff_exists.mp h
  exact ⟨x.1, by rw [pageKind, hx]; rfl⟩

/-! ## A write access and its answer -/

/-- A keyed write of a block page is that page's own. -/
theorem regWrite_of_isPage {s : State} {r : Requester} {a : RegAcc} (late : List Nat) (hm : accessMapped a = true)
    (hp : isPage a.off = true) (hk : s.keyed r = true) : s.regWrite r a late = s.pageWrite r a := by
  obtain ⟨hd, hb⟩ := not_window_of_isPage hp
  simp [State.regWrite, hm, hk, hd, hb]

/-- A write completes with what it makes of the registers and with its answer. -/
theorem completes_regWrite {s u : State} {r : Requester} {a : RegAcc} {ok : Bool} {P : State → Prop} (h : Ready s)
    (hw : s.regWrite r a [] = (u, ok)) (hp : P (regFoot.apply s (u.emit (.reg r ok 0)))) : Completes (.regWrite r a) s P :=
  completes_run h (exec_regWrite r a s) (by simpa only [State.writeAccess, hw] using hp)

/-- A write that changes nothing and is answered with an error response. -/
theorem completes_regWrite_refused {s : State} {r : Requester} {a : RegAcc} (h : Ready s) (hw : s.regWrite r a [] = (s, false)) :
    Completes (.regWrite r a) s fun t => t.out = .reg r false 0 :: s.out ∧ { t with out := s.out } = s :=
  completes_regWrite h hw ⟨rfl, rfl⟩

/-! ## Registers that need all 64 bits (R37) -/

section Whole
variable {s : State} {r : Requester} {off : Nat} {k : Reg.Page} (v : Dword) (hk : pageKind off = some k)
  (hn : needs64 k (off % 0x1000) = true) (ha : off % 8 = 0) (hm : mayWrite r off = true) (hr : s.keyed r = true)
include hk hn ha hm hr

theorem regWrite_whole : s.regWrite r { off := off, size := 8, data := v } []
    = (s.write64 r off v, k != .sec || s.mbxTakes r) := by
  have hp := isPage_of_pageKind hk
  rw [regWrite_of_isPage [] (accessMapped_of_isPage (.inr rfl) ha hp) hp hr]
  simp [State.pageWrite, hk, hn, hm]

theorem regWrite_half : s.regWrite r { off := off, size := 4, data := v } [] = (s, false) := by
  have hp := isPage_of_pageKind hk
  rw [regWrite_of_isPage [] (accessMapped_of_isPage (.inl rfl) (by dsimp only; omega) hp) hp hr]
  simp [State.pageWrite, hk, hn, hm]

/-- Such a register acts on a write of all eight bytes, and on no other. -/
theorem completes_whole_only {P : State → Prop} (h : Ready s)
    (hp : P (regFoot.apply s ((s.write64 r off v).emit (.reg r (k != .sec || s.mbxTakes r) 0)))) :
    Completes (.regWrite r { off := off, size := 8, data := v }) s P
    ∧ Completes (.regWrite r { off := off, size := 4, data := v }) s fun t =>
      t.out = .reg r false 0 :: s.out ∧ { t with out := s.out } = s :=
  ⟨completes_regWrite h (regWrite_whole v hk hn ha hm hr) hp, completes_regWrite_refused h (regWrite_half v hk hn ha hm hr)⟩

end Whole

theorem mayWrite_eng (r : Requester) {off : Nat} (h : pageKind off = some .eng) : mayWrite r off = true := by
  simp only [mayWrite, h]

theorem mayWrite_core (r : Requester) {off : Nat} (h : pageKind off = some .core) : mayWrite r off = true := by
  simp only [mayWrite, h]

theorem engXlInv_page {e : Nat} (he : e < 256) : Reg.page (Reg.engXlInv e / 0x1000) = some (.eng, e) := by
  rw [show Reg.engXlInv e / 0x1000 = enPage e by unfold Reg.engXlInv Reg.engPage enPage; omega, Reg.page_enPage he]

theorem engXlInv_kind {e : Nat} (he : e < 256) : pageKind (Reg.engXlInv e) = some .eng := by
  rw [pageKind, engXlInv_page he]; rfl

theorem engXlInv_needs64 (e : Nat) : needs64 .eng (Reg.engXlInv e % 0x1000) = true := by
  rw [show Reg.engXlInv e % 0x1000 = 0x7D0 by unfold Reg.engXlInv Reg.engPage; omega]; rfl

theorem engXlInv_aligned (e : Nat) : Reg.engXlInv e % 8 = 0 := by unfold Reg.engXlInv Reg.engPage; omega

theorem coreXlInv_page {c : Nat} (hc : c < 8) : Reg.page (Reg.coreXlInv c / 0x1000) = some (.core, c) := by
  rw [show Reg.coreXlInv c / 0x1000 = coPage c by unfold Reg.coreXlInv Reg.corePage coPage; omega, Reg.page_coPage hc]

theorem coreXlInv_kind {c : Nat} (hc : c < 8) : pageKind (Reg.coreXlInv c) = some .core := by
  rw [pageKind, coreXlInv_page hc]; rfl

theorem coreXlInv_needs64 (c : Nat) : needs64 .core (Reg.coreXlInv c % 0x1000) = true := by
  rw [show Reg.coreXlInv c % 0x1000 = 0x780 by unfold Reg.coreXlInv Reg.corePage; omega]; rfl

theorem coreXlInv_aligned (c : Nat) : Reg.coreXlInv c % 8 = 0 := by unfold Reg.coreXlInv Reg.corePage; omega

theorem coreInv_out (s : State) (c : Nat) (v : Dword) : (s.coreInv c v).out = s.out := by
  unfold State.coreInv; rfl

theorem mbxStart_out (s : State) : s.mbxStart.out = s.out := by
  unfold State.mbxStart
  dsimp only
  split_ifs <;> rfl

theorem mbxInput_out (s : State) (r : Requester) (v : Dword) : (s.mbxInput r v).out = s.out := by
  unfold State.mbxInput
  dsimp only
  split_ifs
  · rw [mbxStart_out]; rfl
  · rfl
  · rfl

/-! ## Words of the common header (R44) -/

theorem needs64_header {k : Reg.Page} {x : Nat} (h : x < 0x100) : needs64 k x = false := by
  cases k <;> simp only [needs64, beq_eq_false_iff_ne] <;> omega

theorem wordAway_header (s : State) {off : Nat} (h : off % 0x1000 < 0x100) : s.wordAway off = false := by
  have h2 : ¬ 0x200 ≤ off % 0x1000 := by omega
  have h4 : ¬ 0x400 ≤ off % 0x1000 := by omega
  simp [State.wordAway, h2, h4]

/-- A word that a row without SH bits holds has none. -/
theorem Reg.findRow_sh_eq_zero {rs : List Reg.Row} (hz : ∀ row ∈ rs, row.sh = 0) {x : Nat} {w : Reg.WordInfo}
    (h : Reg.findRow rs x = some w) : w.sh = 0 := by
  induction rs with
  | nil => simp [Reg.findRow] at h
  | cons row t ih =>
    unfold Reg.findRow at h
    split at h
    · rw [← Option.some.inj h]
      simp [Reg.Row.info, hz row (by simp)]
    · exact ih (fun row' hr => hz row' (by simp [hr])) h

theorem shMask_header {off : Nat} (ha : off % 4 = 0) (h : off % 0x1000 < 0x100) : shMask (off / 4) = 0 := by
  rw [shMask, show 4 * (off / 4) = off by omega]
  split
  next w hw =>
    simp only [Reg.info, h, if_true] at hw
    split at hw
    · cases hw
    · exact Reg.findRow_sh_eq_zero (by simp [Reg.header]) hw
  next => rfl

/-- A commit request of words without SH bits is none. -/
theorem commitParts_nil (s : State) {ws : List (Nat × Word)} (late : List Nat) (h : ∀ w ∈ ws, shMask (w.1 / 4) = 0) :
    s.commitParts ws late = s := by
  have hn : shParts ws = [] := by
    simp only [shParts, List.filterMap_eq_nil_iff]
    intro w hw
    simp [h w hw]
  simp [State.commitParts, hn]

/-- An access that reaches only words of the common header, all of which its requester may write, writes them in turn. -/
theorem pageWrite_header (s : State) {r : Requester} {a : RegAcc} (hp : isPage a.off = true) (hx : a.off % 0x1000 < 0x100)
    (ha : ∀ w ∈ accParts a, w.1 % 4 = 0) (hh : ∀ w ∈ accParts a, w.1 % 0x1000 < 0x100)
    (hw : ∀ w ∈ accParts a, mayWrite r w.1 = true) :
    s.pageWrite r a = (s.each (accParts a) fun s w => s.wordWrite r w.1 w.2, true) := by
  obtain ⟨k, hk⟩ := pageKind_of_isPage hp
  have hok : (accParts a).filter (fun w => mayWrite r w.1) = accParts a :=
    List.filter_eq_self.mpr hw
  have haway : (accParts a).any (fun w => s.wordAway w.1) = false :=
    List.any_eq_false.mpr fun w h => by simp [wordAway_header s (hh w h)]
  have heach : (s.each (accParts a) fun s w => if mayWrite r w.1 then s.wordWrite r w.1 w.2 else s.refuse w.1)
      = s.each (accParts a) fun s w => s.wordWrite r w.1 w.2 :=
    List.foldl_ext _ _ _ fun _ w h => if_pos (hw w h)
  simp [State.pageWrite, hk, needs64_header hx, hok, haway, heach,
    commitParts_nil _ [] fun w h => shMask_header (ha w h) (hh w h)]

/-- A write of four bytes of the common header. -/
theorem regWrite_header_word {s : State} {r : Requester} {off : Nat} (v : Word)
    (hm : accessMapped { off := off, size := 4, data := v.setWidth 64 } = true) (hp : isPage off = true)
    (hx : off % 0x1000 < 0x100) (hw : mayWrite r off = true) (hk : s.keyed r = true) :
    s.regWrite r { off := off, size := 4, data := v.setWidth 64 } [] = (s.wordWrite r off v, true) := by
  have ha := aligned_of_accessMapped hm
  have hparts : accParts { off := off, size := 4, data := v.setWidth 64 } = [(off, v)] := by simp [accParts]
  rw [regWrite_of_isPage [] hm hp hk, pageWrite_header s hp hx (by simpa [hparts] using ha) (by simpa [hparts] using hx)
    (by simpa [hparts] using hw), hparts]
  rfl

/-- A write of eight bytes of the common header: the lower word, then the upper. -/
theorem regWrite_header_pair {s : State} {r : Requester} {off : Nat} (v : Dword)
    (hm : accessMapped { off := off, size := 8, data := v } = true) (hp : isPage off = true)
    (hx : off % 0x1000 < 0x100) (hw : mayWrite r off = true) (hw' : mayWrite r (off + 4) = true) (hk : s.keyed r = true) :
    s.regWrite r { off := off, size := 8, data := v } []
      = ((s.wordWrite r off (v.setWidth 32)).wordWrite r (off + 4) ((v >>> 32).setWidth 32), true) := by
  have ha : off % 8 = 0 := aligned_of_accessMapped hm
  have hparts : accParts { off := off, size := 8, data := v } = [(off, v.setWidth 32), (off + 4, (v >>> 32).setWidth 32)] := rfl
  have hal : ∀ w ∈ accParts { off := off, size := 8, data := v }, w.1 % 4 = 0 := by
    simp only [hparts, List.forall_mem_cons]
    exact ⟨by omega, by omega, by simp⟩
  have hhd : ∀ w ∈ accParts { off := off, size := 8, data := v }, w.1 % 0x1000 < 0x100 := by
    simp only [hparts, List.forall_mem_cons]
    exact ⟨hx, by omega, by simp⟩
  rw [regWrite_of_isPage [] hm hp hk, pageWrite_header s hp hx hal hhd (by simpa [hparts] using ⟨hw, hw'⟩), hparts]
  rfl

/-- A header word but BLK_CTRL and BLK_PROTO_LIMIT is written by its access codes alone. -/
theorem wordWrite_header (s : State) (r : Requester) {off : Nat} (v : Word) (hx : off % 0x1000 < 0x100)
    (hc : off % 0x1000 ≠ 0x10) (hl : off % 0x1000 ≠ 0x3C) : s.wordWrite r off v = s.plainWrite off v := by
  simp [State.wordWrite, hx, hc, hl]

theorem plainWrite_eq_w32 (s : State) {off : Nat} (v : Word) {w : Reg.WordInfo} (h : Reg.info off = some w) :
    s.plainWrite off v = s.w32 off (((s.r32 off &&& ~~~w.rw) ||| (v &&& w.rw)) &&& ~~~(v &&& w.w1c)) := by
  simp [State.plainWrite, h]

theorem wordWrite_protoLimit (s : State) (r : Requester) (pn : Nat) (v : Word) :
    s.wordWrite r (blkProtoLimit pn) v = s.protoWrite pn v := by
  have hd : blkProtoLimit pn / 0x1000 = pn := by unfold blkProtoLimit; omega
  have hx : blkProtoLimit pn % 0x1000 = 0x3C := by unfold blkProtoLimit; omega
  simp [State.wordWrite, hd, hx]

theorem wordWrite_ctrl (s : State) (r : Requester) (pn : Nat) (v : Word) :
    s.wordWrite r (blkCtrl pn) v = s.ctrlWrite pn v := by
  have hd : blkCtrl pn / 0x1000 = pn := by unfold blkCtrl; omega
  have hx : blkCtrl pn % 0x1000 = 0x10 := by unfold blkCtrl; omega
  simp [State.wordWrite, hd, hx]

/-! ## BLK_CTRL of an engine (R75, R76, R494) -/

/-- A bit of a register after a bit of another has been set. -/
theorem State.rb_wb_other (s : State) {off off' : Nat} (lo : Nat) (b : Bool) (lo' : Nat) (h : off' / 4 ≠ off / 4) :
    (s.wb off lo b).rb off' lo' = s.rb off' lo' := by
  rw [State.wb, State.rb_wf, if_neg h]

theorem blkCtrl_word_ne_blkStat (pn : Nat) : blkCtrl pn / 4 ≠ blkStat pn / 4 := by unfold blkCtrl blkStat; omega

theorem State.rb_congr {s t : State} (h : s.regs = t.regs) (off b : Nat) : s.rb off b = t.rb off b := by
  simp only [State.rb, State.r32, h]

theorem engineOn_of_forcePend (s : State) (e : Nat) (h : (s.engine e).forcePend = true) : s.engineOn e = s := if_pos h

/-- The registers of an engine that is enabled. -/
theorem engineOn_regs (s : State) (e : Nat) (h : (s.engine e).forcePend = false) : (s.engineOn e).regs
    = (((s.wb (blkCtrl (enPage e)) 0 true).wb (blkStat (enPage e)) 0 true).wb (blkStat (enPage e)) 1 false).regs := by
  unfold State.engineOn
  rw [if_neg (by simp [h])]
  exact apply_ite State.regs .. |>.trans (ite_self _)

theorem engineOn_enabled (s : State) (e : Nat) (h : (s.engine e).forcePend = false) :
    (s.engineOn e).rb (blkCtrl (enPage e)) 0 = true ∧ (s.engineOn e).active (enPage e) = true := by
  have hne := blkCtrl_word_ne_blkStat (enPage e)
  simp only [State.active, State.rb_congr (engineOn_regs s e h)]
  simp [State.rb_wb_other, State.rb_wb, hne]

/-- Enabling an engine leaves the bits of BLK_CTRL but EN. -/
theorem engineOn_ctrl_bit (s : State) (e : Nat) {b : Nat} (hb : b < 32) (h0 : b ≠ 0) :
    (s.engineOn e).rb (blkCtrl (enPage e)) b = s.rb (blkCtrl (enPage e)) b := by
  cases hf : (s.engine e).forcePend
  · rw [State.rb_congr (engineOn_regs s e hf)]
    simp [State.rb_wb_other, State.rb_wb, blkCtrl_word_ne_blkStat, hb, h0]
  · rw [engineOn_of_forcePend s e hf]

/-- EN of an engine that is disabled reads 0; the other bits of BLK_CTRL stay. -/
theorem engineOff_ctrl_bit (s : State) (e : Nat) {b : Nat} (hb : b < 32) :
    (s.engineOff e).rb (blkCtrl (enPage e)) b = if b = 0 then false else s.rb (blkCtrl (enPage e)) b := by
  rw [State.engineOff, apply_ite (fun t : State => t.rb (blkCtrl (enPage e)) b),
    State.rb_wb_other _ _ _ _ (blkCtrl_word_ne_blkStat (enPage e)), ite_self, State.rb_wb _ _ _ _ _ hb]

/-- An active engine that is disabled drains (R75). -/
theorem engineOff_draining (s : State) (e : Nat) (h : s.active (enPage e) = true) :
    (s.engineOff e).active (enPage e) = true ∧ (s.engineOff e).draining (enPage e) = true := by
  have hne := (blkCtrl_word_ne_blkStat (enPage e)).symm
  have ha : (s.wb (blkCtrl (enPage e)) 0 false).active (enPage e) = true := by
    rwa [State.active, State.rb_wb_other _ _ _ _ hne]
  rw [State.engineOff, if_pos ha]
  simp only [State.active, State.draining, State.rb_wb _ _ _ _ _ (show 0 < 32 by omega),
    State.rb_wb _ _ _ _ _ (show 1 < 32 by omega)]
  exact ⟨ha, rfl⟩

theorem engineOff_engines (s : State) (e : Nat) : (s.engineOff e).engines = s.engines := by
  simp only [State.engineOff, apply_ite State.engines, State.wb_engines, ite_self]

theorem engineForce_engine (s : State) (e : Nat) : (s.engineForce e).engine e = { s.engine e with forcePend := true } :=
  Sparse.get_set_self ..

theorem unitForceOff_engine (s : State) {e : Nat} (he : e < 256) (h : s.rb (blkCtrl (enPage e)) 0 = false) :
    s.unitForceOff (enPage e) = s.engineForce e := by
  simp [State.unitForceOff, State.unitForce, pageHasEn, Reg.page_enPage he, Reg.hasEn, h]

/-- What a write of BLK_CTRL makes of the bits that are an engine's own: DEBUG and FLUSH_ON_FORCE. -/
def State.engineMarks (s : State) (e : Nat) (v : Word) : State :=
  ((s.wb (blkCtrl (enPage e)) 2 (v.getLsbD 2)).when (v.getLsbD 2) (·.modSec fun x => { x with debugSeen := true })).wb
    (blkCtrl (enPage e)) 8 (v.getLsbD 8)

/-- What a write of BLK_CTRL makes of an engine: EN, then FORCE_OFF where EN is 0. -/
def State.engineSwitch (s : State) (e : Nat) (v : Word) : State :=
  if v.getLsbD 0 then s.engineOn e
  else if v.getLsbD 1 then (s.engineOff e).engineForce e else s.engineOff e

/-- Without the debug lock a write of an engine's BLK_CTRL sets its own bits, then switches it. -/
theorem ctrlWrite_engine (s : State) {e : Nat} (he : e < 256) (v : Word) (hd : s.debugLock = false) :
    s.ctrlWrite (enPage e) v = (s.engineMarks e v).within unitFoot (·.engineSwitch e v) := by
  have hoff (t : State) : (if v.getLsbD 1 then (t.engineOff e).unitForceOff (enPage e) else t.engineOff e)
      = if v.getLsbD 1 then (t.engineOff e).engineForce e else t.engineOff e := by
    rw [unitForceOff_engine _ he (by rw [engineOff_ctrl_bit t e (by omega), if_pos rfl])]
  have hd' (b : Bool) : (s.wb (blkCtrl (enPage e)) 2 b).debugLock = false := hd
  simp [State.ctrlWrite, State.engineMarks, State.engineSwitch, State.when, State.unitOn, State.unitOff, pageHasEn,
    Reg.page_enPage he, Reg.hasEn, hd, hd', hoff, show enPage e < 0x100 from he, -BitVec.getLsbD_eq_getElem]

theorem engineMarks_regs (s : State) (e : Nat) (v : Word) : (s.engineMarks e v).regs
    = ((s.wb (blkCtrl (enPage e)) 2 (v.getLsbD 2)).wb (blkCtrl (enPage e)) 8 (v.getLsbD 8)).regs := by
  unfold State.engineMarks State.when
  cases v.getLsbD 2 <;> rfl

theorem engineMarks_set (s : State) (e : Nat) (v : Word) : (s.engineMarks e v).rb (blkCtrl (enPage e)) 2 = v.getLsbD 2
    ∧ (s.engineMarks e v).rb (blkCtrl (enPage e)) 8 = v.getLsbD 8 := by
  simp [State.rb_congr (engineMarks_regs s e v), State.rb_wb]

theorem engineMarks_active (s : State) (e : Nat) (v : Word) :
    (s.engineMarks e v).active (enPage e) = s.active (enPage e) := by
  have hne := (blkCtrl_word_ne_blkStat (enPage e)).symm
  rw [State.active, State.rb_congr (engineMarks_regs s e v), State.rb_wb_other _ _ _ _ hne, State.rb_wb_other _ _ _ _ hne]
  rfl

theorem engineMarks_engine (s : State) (e : Nat) (v : Word) (e' : Nat) : (s.engineMarks e v).engine e' = s.engine e' := by
  unfold State.engineMarks State.when
  cases v.getLsbD 2 <;> rfl

theorem engineMarks_out (s : State) (e : Nat) (v : Word) : (s.engineMarks e v).out = s.out := by
  unfold State.engineMarks State.when
  cases v.getLsbD 2 <;> rfl

theorem engineSwitch_out (s : State) (e : Nat) (v : Word) : (s.engineSwitch e v).out = s.out := by
  have hon : (s.engineOn e).out = s.out := by
    simp only [State.engineOn, State.modEngine, apply_ite State.out, State.wb_out, State.setEngine_out, ite_self]
  have hoff : (s.engineOff e).out = s.out := by
    simp only [State.engineOff, apply_ite State.out, State.wb_out, ite_self]
  have hforce : ((s.engineOff e).engineForce e).out = s.out := hoff
  unfold State.engineSwitch
  split_ifs
  · exact hon
  · exact hforce
  · exact hoff

/-- Switching an engine leaves the bits of BLK_CTRL but EN. -/
theorem engineSwitch_ctrl_bit (s : State) (e : Nat) (v : Word) {b : Nat} (hb : b < 32) (h0 : b ≠ 0) :
    (s.engineSwitch e v).rb (blkCtrl (enPage e)) b = s.rb (blkCtrl (enPage e)) b := by
  have hoff := engineOff_ctrl_bit s e hb
  rw [if_neg h0] at hoff
  unfold State.engineSwitch
  split_ifs
  · exact engineOn_ctrl_bit s e hb h0
  · exact hoff
  · exact hoff

theorem engineSwitch_on (s : State) (e : Nat) {v : Word} (hv : v.getLsbD 0 = true) (h : (s.engine e).forcePend = false) :
    (s.engineSwitch e v).rb (blkCtrl (enPage e)) 0 = true ∧ (s.engineSwitch e v).active (enPage e) = true := by
  rw [State.engineSwitch, if_pos hv]
  exact engineOn_enabled s e h

/-- EN 0 disables the engine, and with FORCE_OFF leaves its forced disable pending (R494). -/
theorem engineSwitch_off (s : State) (e : Nat) {v : Word} (hv : v.getLsbD 0 = false) :
    (s.engineSwitch e v).rb (blkCtrl (enPage e)) 0 = false
    ∧ (s.active (enPage e) = true →
      (s.engineSwitch e v).active (enPage e) = true ∧ (s.engineSwitch e v).draining (enPage e) = true)
    ∧ ((s.engineSwitch e v).engine e).forcePend = ((s.engine e).forcePend || v.getLsbD 1) := by
  have hen : (s.engineOff e).rb (blkCtrl (enPage e)) 0 = false := engineOff_ctrl_bit s e (by omega)
  have heng : (s.engineOff e).engine e = s.engine e := by simp only [State.engine, engineOff_engines]
  rw [State.engineSwitch, hv, if_neg Bool.false_ne_true]
  cases hf : v.getLsbD 1
  · exact ⟨hen, engineOff_draining s e, by simp [heng]⟩
  · exact ⟨hen, engineOff_draining s e, by simp [engineForce_engine]⟩

theorem pageKind_blkCtrl_enPage {e : Nat} (he : e < 256) : pageKind (blkCtrl (enPage e)) = some .eng := by
  rw [pageKind, show blkCtrl (enPage e) / 0x1000 = enPage e by unfold blkCtrl; omega, Reg.page_enPage he]
  rfl

/-- A keyed write of an engine's BLK_CTRL. -/
theorem regWrite_ctrl_engine {s : State} {r : Requester} {e : Nat} (he : e < 256) (v : Word) (hk : s.keyed r = true)
    (hd : s.debugLock = false) :
    s.regWrite r { off := blkCtrl (enPage e), size := 4, data := v.setWidth 64 } []
      = ((s.engineMarks e v).within unitFoot (·.engineSwitch e v), true) := by
  have hpk := pageKind_blkCtrl_enPage he
  have hp := isPage_of_pageKind hpk
  have ha : blkCtrl (enPage e) % 4 = 0 := by unfold blkCtrl; omega
  have hx : blkCtrl (enPage e) % 0x1000 < 0x100 := by unfold blkCtrl; omega
  have hm : accessMapped { off := blkCtrl (enPage e), size := 4, data := v.setWidth 64 } = true :=
    accessMapped_of_isPage (.inl rfl) ha hp
  rw [regWrite_header_word v hm hp hx (mayWrite_eng r hpk) hk, wordWrite_ctrl, ctrlWrite_engine s he v hd]

end Sys2Proof.Machine
end

section
/-! SUPPORT. The statement about the writes of header words. -/
namespace Sys2Proof.Machine

/-- Settles O13, clause by clause: a keyed write that may be made reaches its page (`regWrite_of_isPage`), where a header word is
written by its access codes (`wordWrite_header`, `plainWrite_eq_w32`), an engine's BLK_CTRL sets its marks and switches the engine
(`regWrite_ctrl_engine`), and a register that needs all 64 bits takes eight bytes or none (`completes_whole_only`). -/
theorem headerWordIsWritten : Obligations.HeaderWordIsWritten := by
  unfold Obligations.HeaderWordIsWritten
  refine ⟨?_, ?_, ?_, ?_, ?_, ?_, ?_⟩
  · intro s r off v w h hm hp hx hc hl hw hk hi _
    refine completes_regWrite h (regWrite_header_word v hm hp hx hw hk) ?_
    rw [wordWrite_header s r v hx hc hl, plainWrite_eq_w32 s v hi]
    exact ⟨State.r32_w32_self .., fun o ho => (State.r32_w32 ..).trans (if_neg ho), rfl, rfl, rfl, rfl, rfl, rfl, rfl, rfl, rfl, rfl⟩
  · intro s r off v lo hi h hm hp hx hc hl hw hw' hk hlo hhi _ _
    have ha : off % 8 = 0 := aligned_of_accessMapped hm
    refine completes_regWrite h (regWrite_header_pair v hm hp hx hw hw' hk) ?_
    rw [wordWrite_header s r _ hx hc (by omega), wordWrite_header _ r _ (by omega) (by omega) (by omega),
      plainWrite_eq_w32 _ _ hlo, plainWrite_eq_w32 _ _ hhi]
    refine ⟨?_, ?_, fun o ho => ?_, rfl, rfl⟩
    · simp [regFoot]
    · simp [regFoot]
    · have h0 : o / 4 ≠ off / 4 := by omega
      have h4 : o / 4 ≠ off / 4 + 1 := by omega
      simp [regFoot, h0, h4]
  · rintro s r _ pn v w h rfl hm hp hw hk hi _
    have hx : blkProtoLimit pn % 0x1000 < 0x100 := by unfold blkProtoLimit; omega
    have hwr := regWrite_header_word v hm hp hx hw hk
    rw [wordWrite_protoLimit, State.protoWrite] at hwr
    constructor
    · intro hlow hhigh
      rw [if_neg (by omega), plainWrite_eq_w32 s v hi] at hwr
      exact completes_regWrite h hwr ⟨State.r32_w32_self .., rfl⟩
    · intro hout
      rw [if_pos (by omega)] at hwr
      exact completes_regWrite h hwr ⟨rfl, rfl⟩
  · intro s r e v h hk hd
    refine completes_regWrite h (regWrite_ctrl_engine e.isLt v hk hd) ?_
    obtain ⟨hdebug, hflush⟩ := engineMarks_set s e v
    have heng := engineMarks_engine s e v e
    have hout : (s.engineMarks e v |>.engineSwitch e v).out = s.out := (engineSwitch_out ..).trans (engineMarks_out ..)
    refine ⟨?_, ?_, ?_, fun hv hf => ?_, fun hv => ?_⟩
    · simp [State.within, hout]
    · simp [State.within, regFoot, unitFoot, engineSwitch_ctrl_bit, hdebug]
    · simp [State.within, regFoot, unitFoot, engineSwitch_ctrl_bit, hflush]
    · simpa [State.active, State.within, regFoot, unitFoot] using engineSwitch_on (s.engineMarks e v) e hv (by rw [heng, hf])
    · have hoff := engineSwitch_off (s.engineMarks e v) e hv
      rw [engineMarks_active, heng] at hoff
      simpa [State.active, State.draining, State.within, regFoot, unitFoot] using hoff
  · intro s r e v h hk
    have hpk := engXlInv_kind e.isLt
    refine completes_whole_only v hpk (engXlInv_needs64 e) (engXlInv_aligned e) (mayWrite_eng r hpk) hk h ?_
    rw [State.write64, engXlInv_page e.isLt]
    exact ⟨rfl, rfl⟩
  · intro s r c v h hk
    have hpk := coreXlInv_kind c.isLt
    refine completes_whole_only v hpk (coreXlInv_needs64 c) (coreXlInv_aligned c) (mayWrite_core r hpk) hk h ?_
    rw [State.write64, coreXlInv_page c.isLt]
    exact ⟨congrArg _ (coreInv_out s c v), rfl⟩
  · intro s v h ht
    refine completes_whole_only v (k := .sec) rfl rfl rfl rfl rfl h ?_
    rw [show s.write64 .host Reg.secMbxIn v = s.mbxInput .host v from rfl, ht]
    exact ⟨congrArg _ (mbxInput_out s .host v), rfl⟩

end Sys2Proof.Machine
end

section
/-! SUPPORT. What the memory path leaves alone: an access, a near-memory operation or a write-back changes memory, events,
outputs and the words of its own counters and channels, and nothing else. -/
namespace Sys2Proof.Sparse

theorem filter_drop {α : Type} (p : Nat × α → Bool) (m : Sparse α) {k : Nat} (h : ∀ v, p (k, v) = false) :
    (drop m k).filter p = m.filter p := by
  rw [drop, List.filter_filter]
  refine List.filter_congr fun e _ => ?_
  obtain ⟨j, w⟩ := e
  by_cases hj : j = k
  · subst hj
    simp [h w]
  · simp [hj]

theorem filter_ins {α : Type} (p : Nat × α → Bool) (m : Sparse α) {k : Nat} {v : α} (h : p (k, v) = false) :
    (ins m k v).filter p = m.filter p := by
  induction m with
  | nil => simp [ins, h]
  | cons e t ih =>
    obtain ⟨j, w⟩ := e
    rw [ins]
    split
    · simp only [List.filter_cons, ih]
    · rw [List.filter_cons_of_neg (by simp [h])]

/-- A write of a key that a filter passes over leaves what the filter shows. -/
theorem filter_set {α : Type} [DecidableEq α] (p : Nat × α → Bool) (d : Nat → α) (m : Sparse α) {k : Nat} (v : α)
    (h : ∀ v, p (k, v) = false) : (set d m k v).filter p = m.filter p := by
  unfold set
  split
  · exact filter_drop p m h
  · rw [filter_ins p _ (h v), filter_drop p m h]

/-- A filter of keys shows the keys that it keeps. -/
theorem get_filter {α : Type} (p : Nat → Bool) (d : Nat → α) (m : Sparse α) {k : Nat} (h : p k = true) :
    get d (m.filter fun e => p e.1) k = get d m k := by
  induction m with
  | nil => rfl
  | cons e t ih =>
    obtain ⟨j, w⟩ := e
    by_cases hj : j = k
    · subst hj
      simp [get, h]
    · by_cases hp : p j = true <;> simp [get, hj, hp, ih]

end Sys2Proof.Sparse

namespace Sys2Proof.Machine

/-- A walk whose every step leaves what a view shows leaves it. -/
theorem State.each_view {α β : Type} (view : State → β) (f : State → α → State) (l : List α)
    (h : ∀ s, ∀ x ∈ l, view (f s x) = view s) (s : State) : view (s.each l f) = view s := by
  unfold State.each
  induction l generalizing s with
  | nil => rfl
  | cons x l ih =>
    rw [List.foldl_cons, ih (fun s y hy => h s y (List.mem_cons_of_mem x hy)), h s x List.mem_cons_self]

theorem State.upTo_view {β : Type} (view : State → β) (f : State → Nat → State) (n : Nat)
    (h : ∀ s, ∀ k < n, view (f s k) = view s) (s : State) : view (s.upTo n f) = view s :=
  State.each_view view f (List.range n) (fun s k hk => h s k (List.mem_range.mp hk)) s

/-! ## The words of the memory path -/

/-- Words that the memory path writes, by word index: the counters of the core caches, and the pages of the channels. -/
def pathWord (i : Nat) : Bool :=
  decide (0x42000 ≤ i) && decide (0x44 ≤ i % 0x400) && decide (i % 0x400 < 0x4A) || decide (0x400000 ≤ i)

theorem pathWord_eq_true_iff {i : Nat} :
    pathWord i = true ↔ (0x42000 ≤ i ∧ 0x44 ≤ i % 0x400 ∧ i % 0x400 < 0x4A) ∨ 0x400000 ≤ i := by
  simp [pathWord, and_assoc]

/-- No word of an engine's page is one. -/
theorem pathWord_eq_false_of_lt {off : Nat} (h : off < 0x100000) : pathWord (off / 4) = false := by
  rw [← Bool.not_eq_true, pathWord_eq_true_iff]
  omega

/-- What the memory path does not reach: the state but for memory, events raised or logged, outputs, free values and its words. -/
def State.offPath (s : State) : State :=
  { s with
    regs := s.regs.filter fun e => !pathWord e.1
    evq := [], logq := [], mem := Mem.reset, out := [], fresh := 0 }

theorem State.r32_of_offPath {s t : State} (h : t.offPath = s.offPath) {off : Nat} (hw : pathWord (off / 4) = false) :
    t.r32 off = s.r32 off := by
  have hp : (!pathWord (off / 4)) = true := by simp [hw]
  have hr : t.regs.filter (fun e => !pathWord e.1) = s.regs.filter fun e => !pathWord e.1 := congrArg State.regs h
  rw [State.r32, State.r32, ← Sparse.get_filter (fun i => !pathWord i) _ t.regs hp,
    ← Sparse.get_filter (fun i => !pathWord i) _ s.regs hp, hr]

theorem State.tide_of_offPath {s t : State} (h : t.offPath = s.offPath) : t.tide = s.tide := (congrArg State.tide h : _)
theorem State.commit_of_offPath {s t : State} (h : t.offPath = s.offPath) : t.commit = s.commit := (congrArg State.commit h : _)
theorem State.srv_of_offPath {s t : State} (h : t.offPath = s.offPath) : t.srv = s.srv := (congrArg State.srv h : _)

@[simp] theorem State.modMem_offPath (s : State) (f : Mem → Mem) : (s.modMem f).offPath = s.offPath := rfl
@[simp] theorem State.raise_offPath (s : State) (pn bit cls src : Nat) : (s.raise pn bit cls src).offPath = s.offPath := rfl
@[simp] theorem State.raiseIf_offPath (s : State) (c : Bool) (pn bit cls src : Nat) :
    (s.raiseIf c pn bit cls src).offPath = s.offPath := by cases c <;> rfl
@[simp] theorem State.emit_offPath (s : State) (o : Out) : (s.emit o).offPath = s.offPath := rfl
@[simp] theorem State.drawn_offPath (s : State) : s.drawn.offPath = s.offPath := rfl
@[simp] theorem State.drawnN_offPath (s : State) (n : Nat) : (s.drawnN n).offPath = s.offPath := rfl
@[simp] theorem State.stkLog_offPath (s : State) (key kind symbols src : Nat) :
    (s.stkLog key kind symbols src).offPath = s.offPath := rfl

theorem State.w32_offPath (s : State) {off : Nat} (v : Word) (h : pathWord (off / 4) = true) :
    (s.w32 off v).offPath = s.offPath := by
  have hr := Sparse.filter_set (fun e : Nat × Word => !pathWord e.1) Reg.resetWord s.regs (k := off / 4) v
    (fun _ => by simp [h])
  simp only [State.offPath, State.w32, hr]

theorem State.wb_offPath (s : State) {off : Nat} (lo : Nat) (b : Bool) (h : pathWord (off / 4) = true) :
    (s.wb off lo b).offPath = s.offPath := State.w32_offPath s _ h

theorem State.count_offPath (s : State) {off : Nat} (n : Nat) (h : pathWord (off / 4) = true)
    (h' : pathWord ((off + 4) / 4) = true) : (s.count off n).offPath = s.offPath := by
  rw [State.count, State.raiseIf_offPath, State.w64, State.w32_offPath _ _ h', State.w32_offPath _ _ h]

@[simp] theorem State.countHit_offPath (s : State) (c n : Nat) : (s.count (Reg.cchHitCnt c) n).offPath = s.offPath := by
  apply State.count_offPath <;> rw [pathWord_eq_true_iff, Reg.cchHitCnt, Reg.cchPage] <;> omega
@[simp] theorem State.countMiss_offPath (s : State) (c n : Nat) : (s.count (Reg.cchMissCnt c) n).offPath = s.offPath := by
  apply State.count_offPath <;> rw [pathWord_eq_true_iff, Reg.cchMissCnt, Reg.cchPage] <;> omega
@[simp] theorem State.countWb_offPath (s : State) (c n : Nat) : (s.count (Reg.cchWbCnt c) n).offPath = s.offPath := by
  apply State.count_offPath <;> rw [pathWord_eq_true_iff, Reg.cchWbCnt, Reg.cchPage] <;> omega
@[simp] theorem State.countCe_offPath (s : State) (ch n : Nat) : (s.count (Reg.stkCeCnt ch) n).offPath = s.offPath := by
  apply State.count_offPath <;> rw [pathWord_eq_true_iff, Reg.stkCeCnt, Reg.stkPage] <;> omega
@[simp] theorem State.countUe_offPath (s : State) (ch n : Nat) : (s.count (Reg.stkUeCnt ch) n).offPath = s.offPath := by
  apply State.count_offPath <;> rw [pathWord_eq_true_iff, Reg.stkUeCnt, Reg.stkPage] <;> omega
@[simp] theorem State.wbChanCtrl_offPath (s : State) (ch lo : Nat) (b : Bool) :
    (s.wb (blkCtrl (chPage ch)) lo b).offPath = s.offPath := by
  apply State.wb_offPath; rw [pathWord_eq_true_iff, blkCtrl, chPage]; omega
@[simp] theorem State.wbChanStat_offPath (s : State) (ch lo : Nat) (b : Bool) :
    (s.wb (blkStat (chPage ch)) lo b).offPath = s.offPath := by
  apply State.wb_offPath; rw [pathWord_eq_true_iff, blkStat, chPage]; omega
@[simp] theorem State.nmaFlags_offPath (s : State) (ch : Nat) (f : Flags) : (s.nmaFlags ch f).offPath = s.offPath := by
  rw [State.nmaFlags, State.raiseIf_offPath, State.w32_offPath]
  rw [pathWord_eq_true_iff, Reg.stkNmaFlags, Reg.stkPage]; omega

/-! ## The line at its channel -/

@[simp] theorem State.panMix_offPath (s : State) (p : Nat) : (s.panMix p).offPath = s.offPath := by
  unfold State.panMix
  dsimp only
  split
  · exact State.each_view State.offPath _ _ (fun s c _ => State.raise_offPath s _ _ _ _) s
  · rfl
@[simp] theorem State.stkCe_offPath (s : State) (key symbols src kind : Nat) :
    (s.stkCe key symbols src kind).offPath = s.offPath := by
  unfold State.stkCe
  split <;> simp
@[simp] theorem State.stkUe_offPath (s : State) (key src : Nat) : (s.stkUe key src).offPath = s.offPath := by
  simp [State.stkUe]
@[simp] theorem State.readUnwritten_offPath (s : State) (key src : Nat) : (s.readUnwritten key src).1.offPath = s.offPath := by
  unfold State.readUnwritten
  dsimp only
  split <;> simp
@[simp] theorem State.chanRead_offPath (s : State) (key src : Nat) : (s.chanRead key src).1.offPath = s.offPath := by
  unfold State.chanRead
  split
  · simp
  · dsimp only
    split <;> simp
@[simp] theorem State.chanWrite_offPath (s : State) (key : Nat) (data : List Byte) (poison : Bool) :
    (s.chanWrite key data poison).offPath = s.offPath := rfl
@[simp] theorem State.offRead_offPath (s : State) (key src : Nat) : (s.offRead key src).1.offPath = s.offPath := rfl

/-! ## The core cache -/

@[simp] theorem State.writeBack_offPath (s : State) (l : CLine) : (s.writeBack l).offPath = s.offPath := by
  unfold State.writeBack
  dsimp only
  split <;> simp
@[simp] theorem State.dropLine_offPath (s : State) (key : Nat) : (s.dropLine key).offPath = s.offPath := rfl
@[simp] theorem State.evict_offPath (s : State) (l : CLine) : (s.evict l).offPath = s.offPath := by
  unfold State.evict
  dsimp only
  split <;> simp
@[simp] theorem State.allocLine_offPath (s : State) (l : CLine) : (s.allocLine l).offPath = s.offPath := by
  unfold State.allocLine
  dsimp only
  split <;> simp
@[simp] theorem State.hitLine_offPath (s : State) (l : CLine) (hint : Nat) : (s.hitLine l hint).offPath = s.offPath := by
  simp [State.hitLine]
@[simp] theorem State.cacheRead_offPath (s : State) (key src hint : Nat) : (s.cacheRead key src hint).1.offPath = s.offPath := by
  unfold State.cacheRead
  split
  · dsimp only
    split <;> simp
  · dsimp only
    split_ifs <;> simp
@[simp] theorem State.cacheWrite_offPath (s : State) (key src hint : Nat) (mask : BitVec 128) (data : List Byte) (poison : Bool) :
    (s.cacheWrite key src hint mask data poison).1.offPath = s.offPath := by
  unfold State.cacheWrite
  split
  · simp
  · dsimp only
    split_ifs <;> simp
@[simp] theorem State.wcWrite_offPath (s : State) (w : WcEntry) : (s.wcWrite w).offPath = s.offPath := by
  unfold State.wcWrite
  dsimp only
  split <;> simp
@[simp] theorem State.wcHold_offPath (s : State) (key : Nat) (mask : BitVec 128) (data : List Byte) (poison : Bool) :
    (s.wcHold key mask data poison).offPath = s.offPath := by
  unfold State.wcHold
  dsimp only
  split
  · split <;> simp
  · split
    · split <;> simp
    · simp
@[simp] theorem State.wcFlush_offPath (s : State) (c : Nat) : (s.wcFlush c).offPath = s.offPath :=
  State.each_view State.offPath _ _ (fun s w _ => State.wcWrite_offPath s w) s

/-! ## Accesses and near-memory operations -/

@[simp] theorem State.quarHit_offPath (s : State) (key src : Nat) : (s.quarHit key src).offPath = s.offPath := rfl
@[simp] theorem State.stackReadNow_offPath (s : State) (p src hint : Nat) : (s.stackReadNow p src hint).1.offPath = s.offPath := by
  unfold State.stackReadNow
  split
  · simp
  · split <;> simp
@[simp] theorem State.stackWriteNow_offPath (s : State) (p src hint : Nat) (b : List Byte) (poison : Bool) :
    (s.stackWriteNow p src hint b poison).1.offPath = s.offPath := by
  unfold State.stackWriteNow
  split
  · simp
  · dsimp only
    split_ifs <;> simp
@[simp] theorem State.nmaNow_offPath (s : State) (p src op : Nat) (ops : List Nat) (b : Nat) (poison : Bool) :
    (s.nmaNow p src op ops b poison).1.offPath = s.offPath := by
  unfold State.nmaNow
  dsimp only
  split
  · simp
  · split
    · simp
    · split
      · split_ifs <;> simp
      · split_ifs <;> simp
@[simp] theorem State.answer_offPath (s : State) (src : Nat) (r : Rd) : (s.answer src r).offPath = s.offPath := rfl
@[simp] theorem State.answerWrite_offPath (s : State) (src err : Nat) : (s.answerWrite src err).offPath = s.offPath := rfl
@[simp] theorem State.lockRead_offPath (s : State) (off src hint : Nat) : (s.lockRead off src hint).offPath = s.offPath := by
  unfold State.lockRead
  dsimp only
  split
  · simp
  · split <;> simp
@[simp] theorem State.unlockWrite_offPath (s : State) (off pos src hint : Nat) (b : List Byte) (poison : Bool) :
    (s.unlockWrite off pos src hint b poison).offPath = s.offPath := by
  unfold State.unlockWrite
  split
  · simp
  · split <;> simp
@[simp] theorem State.drained_offPath (s : State) (ch : Nat) : (s.drained ch).offPath = s.offPath := by
  unfold State.drained State.statOff
  split <;> simp
theorem State.admitted_offPath (s : State) (key : Nat) {f : State → State} (h : ∀ u, (f u).offPath = u.offPath) :
    (s.admitted key f).offPath = s.offPath := by
  unfold State.admitted
  dsimp only
  split <;> simp [h]
@[simp] theorem State.performAccess_offPath (s : State) (w : Waiting) : (s.performAccess w).offPath = s.offPath := by
  unfold State.performAccess
  split
  · dsimp only
    split <;> simp
  · split
    · simp
    · dsimp only
      split <;> simp
  · simp
@[simp] theorem State.serveLoop_offPath (s : State) (fuel : Nat) : (s.serveLoop fuel).offPath = s.offPath := by
  induction fuel generalizing s with
  | zero => rfl
  | succ fuel ih =>
    unfold State.serveLoop
    split
    · rfl
    · split
      · rfl
      · rw [ih, State.drained_offPath, State.admitted_offPath _ _ fun u => State.performAccess_offPath u _, State.modMem_offPath]
@[simp] theorem State.serve_offPath (s : State) : s.serve.offPath = s.offPath := State.serveLoop_offPath ..
@[simp] theorem State.lockExpire_offPath (s : State) (l : Lock) : (s.lockExpire l).offPath = s.offPath := by
  simp [State.lockExpire]
@[simp] theorem State.pastLock_offPath (s : State) (key src fuel : Nat) : (s.pastLock key src fuel).offPath = s.offPath := by
  induction fuel generalizing s with
  | zero => rfl
  | succ fuel ih =>
    unfold State.pastLock
    split
    · rfl
    · rw [ih, State.serve_offPath, State.lockExpire_offPath]
@[simp] theorem State.pastLockAt_offPath (s : State) (p src : Nat) : (s.pastLockAt p src).offPath = s.offPath := by
  unfold State.pastLockAt
  split
  · rfl
  · split <;> simp
/-- A near-memory operation of a unit. -/
@[simp] theorem State.nma_offPath (s : State) (p src op : Nat) (ops : List Nat) (b : Nat) (poison : Bool) :
    (s.nma p src op ops b poison).1.offPath = s.offPath := by
  rw [State.nma, State.nmaNow_offPath, State.pastLockAt_offPath]

end Sys2Proof.Machine
end

section
/-! SUPPORT. Words of the registers that the statements about tide, commits and events speak of, by their index in the register file. -/
namespace Sys2Proof.Machine.Reg

@[simp] theorem tideCtrl_word : tideCtrl / 4 = 0x8C842 := rfl
@[simp] theorem tideStat_word : tideStat / 4 = 0x8C843 := rfl
@[simp] theorem tideMasterId_word : tideMasterId / 4 = 0x8C84F := rfl
@[simp] theorem xptDev_word : xptDev / 4 = 0x8C040 := rfl

end Sys2Proof.Machine.Reg
end

section
/-! SUPPORT. What a boundary makes of tide: only its first part, in which tide takes the boundary's value, reaches the clock. -/
namespace Sys2Proof.Machine

/-! ## Operations that leave the tide unit alone -/

theorem State.nma_tide (s : State) (p src op : Nat) (ops : List Nat) (b : Nat) (poison : Bool) :
    (s.nma p src op ops b poison).1.tide = s.tide := State.tide_of_offPath (State.nma_offPath ..)

theorem State.spanRead_tide (s : State) (space off n src hint : Nat) : (s.spanRead space off n src hint).1.tide = s.tide :=
  (spanRead_keeps s space off n src hint).tide rfl

@[simp] theorem State.setBit64_tide (s : State) (off b : Nat) (v : Bool) : (s.setBit64 off b v).tide = s.tide := rfl
@[simp] theorem State.jobsStored_tide (s : State) (f : Flight) : (s.jobsStored f).tide = s.tide := rfl
@[simp] theorem State.gutexSend_tide (s : State) (o : Out) (vl type : Nat) (data : List Byte) :
    (s.gutexSend o vl type data).tide = s.tide := rfl

@[simp] theorem State.tokenAdd_tide (s : State) (f : Flight) : (s.tokenAdd f).tide = s.tide := by
  unfold State.tokenAdd
  dsimp only
  split_ifs <;> simp [State.nma_tide]

@[simp] theorem State.tokenArrive_tide (s : State) (f : Flight) : (s.tokenArrive f).tide = s.tide := by
  unfold State.tokenArrive
  split
  · rfl
  · exact State.tokenAdd_tide s f

@[simp] theorem State.hostWrite_tide (s : State) (o src : Nat) (b : List Byte) (poison : Bool) :
    (s.hostWrite o src b poison).1.tide = s.tide := by
  unfold State.hostWrite
  split
  · rfl
  · split <;> rfl

@[simp] theorem State.modHamper_tide (s : State) (i : Nat) (f : Hamper → Hamper) : (s.modHamper i f).tide = s.tide := rfl

@[simp] theorem State.cplLevel_tide (s : State) : s.cplLevel.tide = s.tide := by
  unfold State.cplLevel
  split <;> simp

@[simp] theorem State.cplWrite_tide (s : State) (fuel : Nat) : (s.cplWrite fuel).tide = s.tide := by
  induction fuel generalizing s with
  | zero => rfl
  | succ fuel ih =>
    unfold State.cplWrite
    split
    · rfl
    · dsimp only
      split_ifs <;> simp [ih]

@[simp] theorem State.takeCommand_tide (s : State) : s.takeCommand.tide = s.tide := by
  unfold State.takeCommand
  dsimp only
  split_ifs <;> simp [State.spanRead_tide]

@[simp] theorem State.intake_tide (s : State) : s.intake.tide = s.tide := by
  unfold State.intake
  dsimp only
  split
  · simp
  · rw [State.upTo_view State.tide _ _ fun s _ _ => State.takeCommand_tide s, State.cplLevel_tide]

@[simp] theorem State.sampleCommands_tide (s : State) : s.sampleCommands.tide = s.tide := by
  simp [State.sampleCommands, State.cplFlush]

@[simp] theorem State.releaseHeld_tide (s : State) : s.releaseHeld.tide = s.tide := by
  unfold State.releaseHeld
  split
  · rfl
  · refine State.each_view State.tide _ _ (fun s f _ => ?_) s
    exact State.tokenAdd_tide s f

@[simp] theorem State.pfcLevel_tide (s : State) (p prio : Nat) : (s.pfcLevel p prio).tide = s.tide := by
  unfold State.pfcLevel
  dsimp only
  split_ifs <;> rfl

@[simp] theorem State.ethDrain_tide (s : State) (p : Nat) : (s.ethDrain p).tide = s.tide := by
  refine State.upTo_view State.tide _ 8 (fun s prio _ => ?_) s
  dsimp only
  split
  · rfl
  · exact State.pfcLevel_tide ..

@[simp] theorem State.holdTimers_tide (s : State) : s.holdTimers.tide = s.tide := rfl

@[simp] theorem State.tripSample_tide (s : State) : s.tripSample.tide = s.tide := by
  unfold State.tripSample
  split <;> rfl

@[simp] theorem State.powerTick_tide (s : State) (p1 : Nat) : (s.powerTick p1).tide = s.tide := by
  simp [State.powerTick]

/-! ## The clock -/

/-- The tide unit but for step timers and snapshots, which a boundary serves after it has moved tide. -/
def State.clock (s : State) : Tide := { s.tide with steps := [], snapTake := false, snapClear := false, snap := [] }

theorem State.clock_congr {s t : State} (h : t.tide = s.tide) : t.clock = s.clock := by rw [State.clock, State.clock, h]

theorem State.snapBoundary_clock (s : State) : s.snapBoundary.clock = s.clock := by
  unfold State.snapBoundary
  dsimp only
  split_ifs <;> rfl

theorem State.boundaryLast_clock (s : State) (trip : Bool) : (s.boundaryLast trip).clock = s.clock := by
  have heth (u : State) : (u.each ((List.range 8).filter u.ethernet) State.ethDrain).tide = u.tide :=
    State.each_view State.tide _ _ (fun s p _ => State.ethDrain_tide s p) u
  have hsnap (u : State) : u.sampleCommands.clock = u.clock := State.clock_congr u.sampleCommands_tide
  unfold State.boundaryLast
  dsimp only
  rw [apply_ite State.clock, hsnap, ite_self, State.snapBoundary_clock]
  exact State.clock_congr (by rw [State.holdTimers_tide, heth, State.releaseHeld_tide])

theorem State.stepBoundary_clock (s : State) (prev : Nat) : (s.stepBoundary prev).1.clock = s.clock := by
  unfold State.stepBoundary
  generalize List.range 4 = l
  suffices h : ∀ acc : State × List Due, acc.1.clock = s.clock → ∀ l : List Nat, (l.foldl _ acc).1.clock = s.clock from
    h (s, []) rfl l
  intro acc hacc l
  induction l generalizing acc with
  | nil => exact hacc
  | cons n l ih =>
    refine ih _ ?_
    dsimp only
    split_ifs <;> exact hacc

theorem State.chooseUpstream_tide (s : State) : s.chooseUpstream.tide = s.tide := by
  unfold State.chooseUpstream
  split
  · rfl
  · split
    · split <;> rfl
    · rfl

/-- A state but for its outputs. -/
def State.muted (s : State) : State := { s with out := [] }

theorem State.ptpSyncOn_muted (s : State) (p : Nat) (seq : BitVec 16) : (s.ptpSyncOn p seq).muted = s.muted := by
  unfold State.ptpSyncOn
  dsimp only
  split <;> rfl

/-- Serving PTP only sends. -/
theorem State.ptpSync_muted (s : State) : s.ptpSync.muted = s.muted := by
  unfold State.ptpSync
  dsimp only
  split
  · rfl
  · exact State.each_view State.muted _ _ (fun s p _ => (State.ptpSyncOn_muted (s.emit _) p _).trans rfl) s

theorem State.ptpSync_tide (s : State) : s.ptpSync.tide = s.tide := (congrArg State.tide s.ptpSync_muted : _)
theorem State.ptpSync_regs (s : State) : s.ptpSync.regs = s.regs := (congrArg State.regs s.ptpSync_muted : _)

theorem State.advance_tide (s : State) (v : Nat) (jump : Bool) : (s.advance v jump).tide = (s.advanceTo v jump).tide := by
  rw [State.advance, State.ptpSync_tide, State.chooseUpstream_tide]

theorem State.within_tide (s : State) (fp : Footprint) (f : State → State) :
    (s.within fp f).tide = if fp.tide then (f s).tide else s.tide := rfl
theorem State.within_clock (s : State) (fp : Footprint) (f : State → State) :
    (s.within fp f).clock = if fp.tide then (f s).clock else s.clock := by
  cases h : fp.tide <;> simp [State.clock, State.within_tide, h]

/-- A boundary moves the clock as tide's advance does, which finds the state that the tick's end leaves. -/
theorem State.boundary_clock (s : State) (v power : Nat) (jump : Bool) :
    (s.boundary v power jump).clock = (s.endTick.advanceTo v jump).clock := by
  have hgather (u : State) (l : List Due) :
      (if l.isEmpty then u.within { regs := true, ports := true } State.gather else { u with due := l }).clock = u.clock := by
    split <;> rfl
  have hpower (u : State) (n : Nat) : (u.powerTick n).clock = u.clock := State.clock_congr (State.powerTick_tide u n)
  have htrip (u : State) : u.tripSample.clock = u.clock := State.clock_congr (State.tripSample_tide u)
  have hadvance (u : State) : (u.advance v jump).clock = (u.advanceTo v jump).clock := State.clock_congr (State.advance_tide u v jump)
  unfold State.boundary
  dsimp only
  rw [hgather]
  simp only [State.within_clock, State.stepBoundary_clock, State.boundaryLast_clock, hpower, htrip, State.boundaryFirst,
    hadvance, moveFoot, if_true, Bool.false_eq_true, if_false, ite_self]

end Sys2Proof.Machine
end

section
/-! SUPPORT. Tide's advance at a boundary, and the statement about boundaries. -/
namespace Sys2Proof.Machine

/-! ## What an advance makes of tide (R10, R30, R33) -/

/-- Tide at a boundary's value v, what was armed spent, and the ticks and the slew advanced: the part of an advance that every state
of Table 2-5 shares. -/
def State.tideMoved (s : State) (v : Nat) : State :=
  let ticks := v / 1024 - s.tick
  let cut : Int := (s.free % 13422 : Nat)
  let u := s.drawn.modTide fun t => { t with
    now := BitVec.ofNat 64 v, last := BitVec.ofNat 64 v, frac := 0
    silent := if s.tideState = 2 then t.silent + ticks else 0
    holdTicks := if s.tideState = 3 then t.holdTicks + ticks else t.holdTicks
    loadArmed := false, lockArmed := false, masterArmed := none
    slew := if 0 ≤ t.slew then max 0 (t.slew - cut) else min 0 (t.slew + cut) }
  u.wb Reg.tideStat 3 (u.tide.slew != 0)

/-- A jump has brought tide to the master's (R30). -/
def State.tideJumped (s : State) : State :=
  ((s.setTideState 2).modTide fun t => { t with jumpDue := false, slew := 0 }).wb Reg.tideStat 3 false

/-- An advance moves tide; then a jump, an armed lock or load, or a write of MASTER takes effect. -/
theorem State.advanceTo_eq (s : State) (v : Nat) (jump : Bool) :
    s.advanceTo v jump =
      if jump then (s.tideMoved v).tideJumped
      else if s.tideState = 1 ∧ (s.tideMoved v).isMaster ∧ (s.loadTaken ∨ s.tide.lockArmed) then (s.tideMoved v).lockMaster
      else match s.tide.masterArmed with
        | some true => if s.tideState = 2 ∨ s.tideState = 3 then (s.tideMoved v).lockMaster else s.tideMoved v
        | some false => ((s.tideMoved v).setTideState 1).noUpstream
        | none => s.tideMoved v := rfl

/-- Whatever takes effect, an advance shows what every continuation of it leaves alone. -/
theorem State.advanceTo_view {β : Type} (view : State → β) {s : State} {v : Nat} {b : β}
    (hmoved : view (s.tideMoved v) = b) (hjump : view (s.tideMoved v).tideJumped = b) (hlock : view (s.tideMoved v).lockMaster = b)
    (hleave : view ((s.tideMoved v).setTideState 1).noUpstream = b) (jump : Bool) : view (s.advanceTo v jump) = b := by
  rw [State.advanceTo_eq]
  cases s.tide.masterArmed with
  | none => split_ifs <;> assumption
  | some b => cases b <;> dsimp only <;> split_ifs <;> assumption

theorem State.advanceTo_now (s : State) (v : Nat) (jump : Bool) : (s.advanceTo v jump).tide.now = BitVec.ofNat 64 v := by
  apply State.advanceTo_view (·.tide.now) <;> rfl

theorem State.advanceTo_loadArmed (s : State) (v : Nat) (jump : Bool) : (s.advanceTo v jump).tide.loadArmed = false := by
  apply State.advanceTo_view (·.tide.loadArmed) <;> rfl

theorem State.advanceTo_lockArmed (s : State) (v : Nat) (jump : Bool) : (s.advanceTo v jump).tide.lockArmed = false := by
  apply State.advanceTo_view (·.tide.lockArmed) <;> rfl

/-- Tide after a boundary. -/
theorem State.boundary_now (s : State) (v power : Nat) (jump : Bool) :
    (s.boundary v power jump).tide.now = BitVec.ofNat 64 v :=
  (congrArg Tide.now (s.boundary_clock v power jump)).trans (State.advanceTo_now ..)

theorem State.boundary_disarms (s : State) (v power : Nat) (jump : Bool) :
    (s.boundary v power jump).tide.loadArmed = false ∧ (s.boundary v power jump).tide.lockArmed = false :=
  ⟨(congrArg Tide.loadArmed (s.boundary_clock v power jump)).trans (State.advanceTo_loadArmed ..),
    (congrArg Tide.lockArmed (s.boundary_clock v power jump)).trans (State.advanceTo_lockArmed ..)⟩

theorem State.boundary_jumpDue (s : State) (v power : Nat) : (s.boundary v power true).tide.jumpDue = false :=
  congrArg Tide.jumpDue (s.boundary_clock v power true)

/-- A load is armed in ACQUIRE only. -/
theorem State.tideState_of_loadTaken {s : State} (h : s.loadTaken = true) : s.tideState = 1 := by
  simp only [State.loadTaken, Bool.and_eq_true, beq_iff_eq] at h
  obtain ⟨⟨⟨-, hst⟩, -⟩, -⟩ := h
  exact hst

/-! ## TIDE_STAT -/

theorem State.tideState_setTideState (s : State) {v : Nat} (h : v < 8) : (s.setTideState v).tideState = v :=
  (State.rf_wf_self s Reg.tideStat 0 3 v (by omega)).trans (Nat.mod_eq_of_lt h)

/-- A field of TIDE_STAT above STATE leaves STATE. -/
theorem State.tideState_wf (s : State) {lo len x : Nat} (h : 3 ≤ lo) : (s.wf Reg.tideStat lo len x).tideState = s.tideState :=
  State.rf_wf_apart s Reg.tideStat lo len x 0 3 (by omega) (by omega)

/-- A register other than TIDE_STAT leaves STATE. -/
theorem State.tideState_w32 (s : State) {off : Nat} (v : Word) (h : Reg.tideStat / 4 ≠ off / 4) :
    (s.w32 off v).tideState = s.tideState := by
  rw [State.tideState, State.rf_w32, if_neg h]; rfl

theorem State.r32_congr {s t : State} (h : t.regs = s.regs) (off : Nat) : t.r32 off = s.r32 off := by
  simp only [State.r32, h]

theorem State.rf_congr {s t : State} (h : t.regs = s.regs) (off lo len : Nat) : t.rf off lo len = s.rf off lo len := by
  simp only [State.rf, State.r32_congr h]

theorem State.tideState_congr {s t : State} (h : t.regs = s.regs) : t.tideState = s.tideState :=
  State.rf_congr h ..

theorem State.noUpstream_tideState (s : State) : s.noUpstream.tideState = s.tideState := by
  rw [State.noUpstream, State.tideState_wf _ (by omega), State.setUpstream, State.tideState_wf _ (by omega)]

/-- The choice of an upstream port leaves STATE. -/
theorem State.chooseUpstream_tideState (s : State) : s.chooseUpstream.tideState = s.tideState := by
  unfold State.chooseUpstream
  split
  · rfl
  · split
    · split
      · rfl
      · exact State.noUpstream_tideState s
    · rw [State.tideState_w32 _ _ (by decide), State.tideState_wf _ (by omega), State.setUpstream,
        State.tideState_wf _ (by omega)]

theorem State.advance_tideState (s : State) (v : Nat) (jump : Bool) :
    (s.advance v jump).tideState = (s.advanceTo v jump).tideState := by
  rw [State.advance, State.tideState_congr (State.ptpSync_regs _), State.chooseUpstream_tideState]

/-- A timing master follows no port. -/
theorem State.chooseUpstream_of_master {s : State} (h : s.isMaster = true) : s.chooseUpstream = s := by
  simp [State.chooseUpstream, h]

/-! ## LOCKED as master -/

theorem State.lockMaster_tideState (s : State) : s.lockMaster.tideState = 2 := by
  rw [State.lockMaster, State.ownMasterId, State.tideState_w32 _ _ (by decide), State.modTide_tideState, State.wb,
    State.tideState_wf _ (by omega), State.tideState_wf _ (by omega), State.setUpstream, State.tideState_wf _ (by omega),
    State.tideState_setTideState _ (by omega)]

theorem State.lockMaster_upstream (s : State) : s.lockMaster.upstream = 0xF := by
  simp (disch := omega) [State.lockMaster, State.ownMasterId, State.upstream, State.setUpstream, State.rf_w32, State.wb,
    State.rf_wf_apart, State.rf_wf_self]

theorem State.lockMaster_hops (s : State) : s.lockMaster.rf Reg.tideStat 12 4 = 0 := by
  simp (disch := omega) [State.lockMaster, State.ownMasterId, State.rf_w32, State.wb, State.rf_wf_apart, State.rf_wf_self]

/-- A field of TIDE_STAT leaves the device's number and the epoch of TIDE_CTRL. -/
theorem State.lockMaster_masterId (s : State) : s.lockMaster.r32 Reg.tideMasterId
    = BitVec.ofNat 32 (s.dev + s.rf Reg.tideCtrl 16 16 * 2 ^ 16) := by
  simp [State.lockMaster, State.ownMasterId, State.dev, State.setTideState, State.setUpstream, State.wb, State.rf_wf]

theorem State.lockMaster_isMaster (s : State) : s.lockMaster.isMaster = s.isMaster := by
  simp [State.isMaster, State.lockMaster, State.ownMasterId, State.setTideState, State.setUpstream, State.wb, State.rb_wf,
    State.rb_w32]

theorem State.tideMoved_isMaster (s : State) (v : Nat) : (s.tideMoved v).isMaster = s.rb Reg.tideCtrl 1 := by
  simp [State.isMaster, State.tideMoved, State.wb, State.rb_wf]

theorem State.tideMoved_masterId (s : State) (v : Nat) : (s.tideMoved v).dev = s.dev
    ∧ (s.tideMoved v).rf Reg.tideCtrl 16 16 = s.rf Reg.tideCtrl 16 16 := by
  simp [State.dev, State.tideMoved, State.wb, State.rf_wf]

/-- A timing master in ACQUIRE with a lock or a load armed is LOCKED as master by its boundary. -/
theorem State.advanceTo_locks {s : State} (v : Nat) (hst : s.tideState = 1) (hm : s.rb Reg.tideCtrl 1 = true)
    (h : s.tide.lockArmed = true ∨ s.loadTaken = true) : s.advanceTo v false = (s.tideMoved v).lockMaster := by
  rw [State.advanceTo_eq, if_neg Bool.false_ne_true, if_pos ⟨hst, by rw [State.tideMoved_isMaster, hm], h.symm⟩]

/-- It follows no port: the upstream port stays as it is. -/
theorem State.advance_locks_regs {s : State} (v : Nat) (hst : s.tideState = 1) (hm : s.rb Reg.tideCtrl 1 = true)
    (h : s.tide.lockArmed = true ∨ s.loadTaken = true) : (s.advance v false).regs = (s.tideMoved v).lockMaster.regs := by
  have hmaster : (s.tideMoved v).lockMaster.isMaster = true := by rw [State.lockMaster_isMaster, State.tideMoved_isMaster, hm]
  rw [State.advance, State.ptpSync_regs, State.advanceTo_locks v hst hm h, State.chooseUpstream_of_master hmaster]

/-- A jump leaves the device LOCKED. -/
theorem State.advance_jump_tideState (s : State) (v : Nat) : (s.advance v true).tideState = 2 := by
  rw [State.advance_tideState, State.advanceTo_eq, if_pos rfl, State.tideJumped, State.wb, State.tideState_wf _ (by omega),
    State.modTide_tideState, State.tideState_setTideState _ (by omega)]

/-- MASTER written 0 takes effect at the boundary: the device acquires again. -/
theorem State.advance_unmaster_tideState {s : State} (v : Nat) (hm : s.rb Reg.tideCtrl 1 = false)
    (h : s.tide.masterArmed = some false) : (s.advance v false).tideState = 1 := by
  have hne : ¬ (s.tideState = 1 ∧ (s.tideMoved v).isMaster = true ∧ (s.loadTaken = true ∨ s.tide.lockArmed = true)) := by
    rw [State.tideMoved_isMaster, hm]
    simp
  rw [State.advance_tideState, State.advanceTo_eq, if_neg Bool.false_ne_true, if_neg hne, h, State.noUpstream_tideState,
    State.tideState_setTideState _ (by omega)]

/-! ## Boundaries -/

/-- Settles O8: a boundary moves the clock as tide's advance does (`boundary_clock`), and an advance is the move to the boundary's value,
then what was armed (`advanceTo_eq`). -/
theorem tideBoundaries : Obligations.TideBoundaries := by
  unfold Obligations.TideBoundaries
  refine ⟨?_, ?_, ?_, ?_, ?_, ?_, ?_⟩
  · intro s power h hst hl
    refine completes_whole h.1 (exec_tickBoundary power s) ?_
    rw [State.tickBoundary, if_neg hst, State.boundaryTide, hl]
    exact ⟨State.boundary_now .., State.boundary_disarms ..⟩
  · intro s power h hl
    have hst : s.tideState ≠ 0 := by rw [State.tideState_of_loadTaken hl]; decide
    refine completes_whole h.1 (exec_tickBoundary power s) ?_
    rw [State.tickBoundary, if_neg hst, State.boundaryTide, if_pos hl]
    exact ⟨(State.boundary_now ..).trans (BitVec.ofNat_toNat ..), (State.boundary_disarms ..).1⟩
  · intro s master h hl
    have hst : s.tideState ≠ 0 := by rw [State.tideState_of_loadTaken hl]; decide
    refine completes_whole h.1 (exec_tideJump master s) ?_
    rw [State.tideJump, if_neg hst, if_pos hl, State.boundaryTide, if_pos hl]
    exact ⟨(State.boundary_now ..).trans (BitVec.ofNat_toNat ..), (State.boundary_disarms ..).1⟩
  · intro s master h hst hm hj hn
    have hl : ¬ s.loadTaken = true := by simp [State.loadTaken, hm]
    have h0 : s.tideState ≠ 0 := by rw [hst]; decide
    refine completes_whole h.1 (exec_tideJump master s) ?_
    rw [State.tideJump, if_neg h0, if_neg hl, if_pos ⟨hj, hst, by rw [hm]; rfl, hn⟩]
    exact ⟨(State.boundary_now ..).trans (BitVec.ofNat_toNat ..), State.boundary_jumpDue ..⟩
  · intro s v hst hm _ ha
    have hr := State.advance_locks_regs v hst hm ha
    obtain ⟨hdev, hepoch⟩ := s.tideMoved_masterId v
    refine ⟨?_, ?_, ?_, ?_⟩
    · rw [State.tideState_congr hr, State.lockMaster_tideState]
    · rw [State.upstream, State.rf_congr hr]
      exact State.lockMaster_upstream _
    · rw [State.rf_congr hr, State.lockMaster_hops]
    · rw [State.r32_congr hr, State.lockMaster_masterId, hdev, hepoch]
  · exact fun s v => s.advance_jump_tideState v
  · exact fun s v hm h => State.advance_unmaster_tideState v hm h

end Sys2Proof.Machine
end

section
/-! SUPPORT. Exchanges with the master, and the statement about exchanges, HOLDOVER and LOST. -/
namespace Sys2Proof.Machine

@[simp] theorem Reg.tideOffset_word : Reg.tideOffset / 4 = 0x8C84C := rfl
@[simp] theorem Reg.tideFreqAdj_word : Reg.tideFreqAdj / 4 = 0x8C84D := rfl
@[simp] theorem Reg.tideAsym_word (n : Nat) : Reg.tideAsym n / 4 = 0x8C854 + n := by unfold Reg.tideAsym Reg.tidePage; omega

/-! ## A completed exchange (R28, R29) -/

/-- What an exchange records, whatever the state of the tide unit then makes of it: TIDE_OFFSET, the end of the silence and of a wait for
a new master, and the port that is followed with the PTP ports. -/
def State.exchangeRecord (s : State) : Word × Nat × Nat × Sparse PtpPort :=
  (s.r32 Reg.tideOffset, s.tide.silent, s.upstream, s.tide.ptp)

theorem State.upstream_wf (s : State) {lo len x : Nat} (h : lo + len ≤ 8 ∨ 12 ≤ lo) :
    (s.wf Reg.tideStat lo len x).upstream = s.upstream :=
  State.rf_wf_apart s Reg.tideStat lo len x 8 4 (by omega) (by omega)

/-- STATE and the flags of TIDE_STAT are no part of the record. -/
theorem State.exchangeRecord_wf (s : State) {lo len x : Nat} (h : lo + len ≤ 8 ∨ 12 ≤ lo) :
    (s.wf Reg.tideStat lo len x).exchangeRecord = s.exchangeRecord := by
  simp [State.exchangeRecord, State.upstream_wf s h, State.r32_wf]

theorem State.exchangeRecord_modTide (s : State) {f : Tide → Tide} (h : (f s.tide).silent = s.tide.silent)
    (h' : (f s.tide).ptp = s.tide.ptp) : (s.modTide f).exchangeRecord = s.exchangeRecord := by
  simp [State.exchangeRecord, State.upstream, h, h']

theorem State.raise_exchangeRecord (s : State) (pn bit cls src : Nat) :
    (s.raise pn bit cls src).exchangeRecord = s.exchangeRecord := rfl

theorem State.enterLost_exchangeRecord (s : State) : s.enterLost.exchangeRecord = s.exchangeRecord := by
  rw [State.enterLost, State.raise_exchangeRecord, State.wb, State.exchangeRecord_wf _ (by omega), State.exchangeRecord_modTide _ rfl rfl,
    State.setTideState, State.exchangeRecord_wf _ (by omega)]

theorem State.steer_exchangeRecord (s : State) (o : Int) : (s.steer o).exchangeRecord = s.exchangeRecord := by
  unfold State.steer
  split
  · exact s.enterLost_exchangeRecord
  · rw [State.wb, State.exchangeRecord_wf _ (by omega), State.exchangeRecord_modTide _ rfl rfl, State.setTideState,
      State.exchangeRecord_wf _ (by omega)]

/-- The registers of an exchange at offset o. -/
def State.exchangeWords (s : State) (o : Int) : State :=
  let s := s.w32 Reg.tideOffset (BitVec.ofInt 32 o)
  (s.w32 Reg.tideFreqAdj (BitVec.ofInt 32 ((s.free % 400001 : Nat) - 200000 : Int))).drawn

/-- The part of an exchange that every state of Table 2-5 shares: its registers, and the end of the silence. -/
def State.exchanged (s : State) (o : Int) : State :=
  (s.exchangeWords o).modTide fun t => { t with silent := 0, epochWait := false }

/-- The offset of an exchange on a port, its asymmetry added. -/
def State.exchangeOffset (s : State) (p : Nat) (offset16 : Int) : Int :=
  offset16 + signed (s.r32 (Reg.tideAsym p)).toNat 32 * 16 / 1000

/-- An exchange is recorded; then it steers, asks for a jump or is the end of HOLDOVER, as the state has it. -/
theorem State.exchange_eq (s : State) (p : Nat) (offset16 : Int) :
    s.exchange p offset16 =
      let o := s.exchangeOffset p offset16
      let u := s.exchanged o
      match u.tideState with
      | 1 =>
        if u.rb Reg.tideStat 4 then u
        else if 0 ≤ o then u.modTide fun t => { t with jumpDue := true }
        else ((u.modTide fun t => { t with jumpDue := false }).wb Reg.tideStat 4 true).raise tidePn 11 10 5125
      | 2 => u.steer o
      | 3 => if (s.exchangeWords o).holdoverOver then u.enterLost else u.steer o
      | _ => u := rfl

theorem State.exchanged_exchangeRecord (s : State) (o : Int) :
    (s.exchanged o).exchangeRecord = (BitVec.ofInt 32 o, 0, s.upstream, s.tide.ptp) := by
  simp [State.exchanged, State.exchangeWords, State.exchangeRecord, State.upstream, State.rf_w32]

/-- An exchange records its offset and ends the silence. -/
theorem State.exchange_exchangeRecord (s : State) (p : Nat) (offset16 : Int) : (s.exchange p offset16).exchangeRecord
    = (BitVec.ofInt 32 (s.exchangeOffset p offset16), 0, s.upstream, s.tide.ptp) := by
  have hlate (u : State) (o : Int) :
      (((u.modTide fun t => { t with jumpDue := false }).wb Reg.tideStat 4 true).raise tidePn 11 10 5125).exchangeRecord
        = u.exchangeRecord := by
    rw [State.raise_exchangeRecord, State.wb, State.exchangeRecord_wf _ (by omega), State.exchangeRecord_modTide _ rfl rfl]
  rw [State.exchange_eq, ← State.exchanged_exchangeRecord]
  dsimp only
  split
  · split_ifs
    · rfl
    · rfl
    · exact hlate _ 0
  · exact State.steer_exchangeRecord ..
  · split
    · exact State.enterLost_exchangeRecord _
    · exact State.steer_exchangeRecord ..
  · rfl

theorem State.exchangeOffset_of_asym {s : State} {p : Nat} (h : s.r32 (Reg.tideAsym p) = 0) (offset16 : Int) :
    s.exchangeOffset p offset16 = offset16 := by
  simp [State.exchangeOffset, h, signed]

/-! ## PTP (R14) -/

theorem State.ptpPort_of_ptp {s t : State} (h : t.tide.ptp = s.tide.ptp) (p : Nat) : t.ptpPort p = s.ptpPort p := by
  rw [State.ptpPort, State.ptpPort, h]

theorem State.ptpPort_modPtp (s : State) (p : Nat) (f : PtpPort → PtpPort) : (s.modPtp p f).ptpPort p = f (s.ptpPort p) :=
  Sparse.get_set_self ..

theorem State.upstream_setUpstream (s : State) {p : Nat} (h : p < 16) : (s.setUpstream p).upstream = p :=
  (State.rf_wf_self s Reg.tideStat 8 4 p (by omega)).trans (Nat.mod_eq_of_lt h)

/-- A PTP exchange makes its port the one that is followed and leaves the PTP ports. -/
theorem State.ptpExchange_exchangeRecord {s : State} {p : Nat} (hp : p < 8) (h : s.r32 (Reg.tideAsym p) = 0) (o : Int) :
    (s.ptpExchange p o).exchangeRecord = (BitVec.ofInt 32 (o / 4096), 0, p, s.tide.ptp) := by
  have hasym : (s.setUpstream p).r32 (Reg.tideAsym p) = 0 := by
    rw [State.setUpstream, State.r32_wf_other _ _ _ _ _ _ (by rw [Reg.tideAsym_word, Reg.tideStat_word]; omega), h]
  rw [State.ptpExchange, State.exchange_exchangeRecord, State.exchangeOffset_of_asym hasym, State.upstream_setUpstream _ (by omega)]
  rfl

/-- The answer to the Delay_Req that a port has outstanding completes an exchange. -/
theorem State.ptpMessage_delayResp {s : State} {p : Nat} {e : PtpEvent} {down t3 : Int} (hst : s.tideState ≠ 0)
    (hup : s.portState p = 5) (heth : s.ethernet p = true) (hf : s.ptpFollows p = true) (hk : e.msg.kind = .delayResp)
    (ha : (s.ptpPort p).asked = some (e.msg.seq, down, t3)) :
    s.ptpMessage p e = (s.modPtp p fun q => { q with asked := none }).ptpExchange p
      ((down + (ptpTime e.msg - ptpCorr e.msg - t3)) / 2) := by
  have hin : ¬ (s.tideState = 0 ∨ s.portState p ≠ 5 ∨ (!s.ethernet p) = true) := by simp [hst, hup, heth]
  have hm : ¬ (e.msg.seq ≠ e.msg.seq ∨ (!s.ptpFollows p) = true) := by simp [hf]
  rw [State.ptpMessage, if_neg hin, State.ptpTake]
  simp only [hk, ha, if_neg hm]

/-! ## HOLDOVER and LOST (R28, R29) -/

theorem State.enterHoldover_tideState (s : State) : s.enterHoldover.tideState = 3 := by
  rw [State.enterHoldover, State.raise_tideState, State.modTide_tideState, State.tideState_setTideState _ (by omega)]

theorem State.enterLost_tideState (s : State) : s.enterLost.tideState = 4 := by
  rw [State.enterLost, State.raise_tideState, State.wb, State.tideState_wf _ (by omega), State.modTide_tideState,
    State.tideState_setTideState _ (by omega)]

theorem State.enterHoldover_evq (s : State) : s.enterHoldover.evq = s.evq ++ [⟨tidePn, 10, 10, 5125⟩] := rfl
theorem State.enterLost_evq (s : State) : s.enterLost.evq = s.evq ++ [⟨tidePn, 8, 3, 5125⟩] := rfl

theorem State.holdoverOver_of_limit {s : State} (hw : s.tide.epochWait = false)
    (hl : (s.r32 Reg.tideHoldoverLimit).toNat ≤ s.tide.holdTicks) : s.holdoverOver = true := by
  simp [State.holdoverOver, hw, hl]

/-- Settles O10: the answer to a Delay_Req completes an exchange (`ptpMessage_delayResp`), whatever state tide is in (`exchange_eq`). -/
theorem exchangesAndHoldover : Obligations.ExchangesAndHoldover := by
  unfold Obligations.ExchangesAndHoldover
  refine ⟨?_, ?_, ?_⟩
  · intro s p e down t3 o h hst hup heth hf hk ha ho _ hasym
    refine completes_run h (exec_ptpMessageReceive p e s) ?_
    have hrec := (s.modPtp p.val fun q => { q with asked := none }).ptpExchange_exchangeRecord p.isLt hasym
      ((down + (ptpTime e.msg - ptpCorr e.msg - t3)) / 2)
    rw [← ho, ← State.ptpMessage_delayResp hst hup heth hf hk ha] at hrec
    obtain ⟨hoff, hsilent, hport, hptp⟩ : _ ∧ _ ∧ _ ∧ _ := by simpa only [State.exchangeRecord, Prod.mk.injEq] using hrec
    refine ⟨hoff, hsilent, hport, ?_⟩
    exact congrArg PtpPort.asked ((State.ptpPort_of_ptp hptp p.val).trans (State.ptpPort_modPtp ..))
  · intro s h hst hm hs
    refine completes_run h (exec_holdoverEntry s) ?_
    rw [State.holdoverEntry, if_pos ⟨hst, by rw [hm]; rfl, hs⟩]
    exact ⟨s.enterHoldover_tideState, s.enterHoldover_evq⟩
  · intro s h hst hm hw hl
    refine completes_run h (exec_holdoverLimitExpiry s) ?_
    rw [State.holdoverExpiry, if_pos ⟨hst, by rw [hm]; rfl, State.holdoverOver_of_limit hw hl⟩]
    exact ⟨s.enterLost_tideState, s.enterLost_evq⟩

end Sys2Proof.Machine
end

section
/-! SUPPORT. Registers of an engine's page; reads of ENG_ACC_DATA and TIDE_NOW; errors of an engine's SRAM; and the statement about
re-arming, snapshots, SRAM errors and these reads. -/
namespace Sys2Proof.Machine

@[simp] theorem Reg.tideCntSnap_word : Reg.tideCntSnap / 4 = 0x8C870 := rfl
@[simp] theorem Reg.tideEvtArmed_word : Reg.tideEvtArmed / 4 = 0x8C881 := rfl

/-! ## Registers of an engine's page -/

theorem engWord_page {e x : Nat} (he : e < 256) (hx : x < 0x1000) : Reg.page ((Reg.engPage e + x) / 0x1000) = some (.eng, e) := by
  rw [show (Reg.engPage e + x) / 0x1000 = enPage e by unfold Reg.engPage enPage; omega, Reg.page_enPage he]

theorem engWord_offset (e : Nat) {x : Nat} (hx : x < 0x1000) : (Reg.engPage e + x) % 0x1000 = x := by
  unfold Reg.engPage; omega

theorem engWord_isPage {e x : Nat} (he : e < 256) (hx : x < 0x1000) : isPage (Reg.engPage e + x) = true := by
  rw [isPage, engWord_page he hx]; rfl

/-- A register behind the header of an engine's page is a row of the engines' table. -/
theorem engWord_info {e x : Nat} (he : e < 256) (hx : 0x100 ≤ x) (hx' : x < 0x800) :
    Reg.info (Reg.engPage e + x) = Reg.findRow Reg.engRows x := by
  have hlo : ¬ x < 0x100 := by omega
  rw [Reg.info, engWord_page he (by omega)]
  simp only [engWord_offset e (show x < 0x1000 by omega), if_neg hlo, if_pos hx', Reg.rows]

/-! ## ENG_ACC_DATA (R126) -/

theorem accAdvance_out (s : State) (e : Nat) : (s.accAdvance e).out = s.out := by
  unfold State.accAdvance
  split <;> rfl

/-- ENG_ACC_DATA reads a word of the accumulator memory and steps to the next. -/
theorem wordRead_accData (s : State) {e : Nat} (he : e < 256) :
    s.wordRead (Reg.engAccData e) = (s.accAdvance e, s.accData e) := by
  have hinfo : Reg.info (Reg.engAccData e) = some ⟨0, 0, 0, 0, .computed, 1⟩ := engWord_info he (by omega) (by omega)
  have hx : Reg.engAccData e % 0x1000 = 0x764 := engWord_offset e (by omega)
  have hpage : Reg.page e = some (.eng, e) := Reg.page_enPage he
  have hpn : Reg.engAccData e / 0x1000 = e := by unfold Reg.engAccData Reg.engPage; omega
  have hnow : Reg.engAccData e ≠ Reg.tideNow ∧ Reg.engAccData e ≠ Reg.tideNow + 4 ∧ Reg.engAccData e ≠ Reg.fuseStat := by
    unfold Reg.engAccData Reg.engPage Reg.tideNow Reg.tidePage Reg.fuseStat Reg.fusePage; omega
  have hother : e ≠ pwrPn ∧ e ≠ xptPn := by unfold pwrPn xptPn; omega
  simp [State.wordRead, State.derived, hinfo, hx, hpage, hpn, hnow, hother]

theorem readAccess_accData {s : State} {r : Requester} {e : Nat} (he : e < 256) (hk : s.keyed r = true) :
    s.readAccess r (Reg.engAccData e) = (s.accAdvance e).emit (.reg r true ((s.accData e).setWidth 64)) := by
  have hp : isPage (Reg.engAccData e) = true := engWord_isPage he (by omega)
  have hx : Reg.engAccData e % 0x1000 < 0x800 := by rw [Reg.engAccData, engWord_offset e (by omega)]; omega
  have hm : accessMapped { off := Reg.engAccData e, size := 4, data := 0#64 } = true :=
    accessMapped_of_isPage (.inl rfl) (by unfold Reg.engAccData Reg.engPage; dsimp only; omega) hp
  obtain ⟨hd, hb⟩ := not_window_of_isPage hp
  simp [State.readAccess, State.regRead, State.anyRead, State.viewRead, hk, hm, hd, hb, hx, wordRead_accData s he]

/-! ## TIDE_NOW (R34) -/

/-- Tide as a read finds it, elapsed ns into its tick, with its upper half latched. -/
def State.tideAt (s : State) (elapsed : Nat) : State :=
  s.modTide fun t =>
    let now : Dword := BitVec.ofNat 64 (max t.now.toNat (t.now.toNat / 1024 * 1024 + elapsed))
    { t with now := now, latch := (now >>> 32).setWidth 32 }

theorem State.tideNowRead_keyed {s : State} {r : Requester} {elapsed : Nat} (hk : s.keyed r = true) (hst : s.tideState ≠ 0)
    (he : elapsed % 1024 = elapsed) : s.tideNowRead r elapsed
      = (s.tideAt elapsed).emit (.reg r true (((s.tideAt elapsed).tide.now.setWidth 32 : Word).setWidth 64)) := by
  simp only [State.tideNowRead, State.tideLow, State.tideRead, hk, Bool.not_true, Bool.false_eq_true, if_false, if_neg hst, he]
  rfl

/-! ## Reads without the key (R40) -/

theorem State.refuse_out (s : State) (off : Nat) : (s.refuse off).out = s.out := by
  unfold State.refuse
  split
  · exact State.each_view State.out _ _ (fun s pn _ => State.raise_out s _ _ _ _) s
  · exact State.raiseIf_out ..

theorem State.refuse_tide (s : State) (off : Nat) : (s.refuse off).tide = s.tide := by
  unfold State.refuse
  split
  · exact State.each_view State.tide _ _ (fun s pn _ => State.raise_tide s _ _ _ _) s
  · exact State.raiseIf_tide ..

/-! ## Snapshots (R433, R434) -/

theorem State.snapArm_flag (s : State) (take clear : Bool) :
    (s.snapArm take clear).rb Reg.tideCntSnap 9 = (s.rb Reg.tideCntSnap 9 || take || clear) := by
  rw [State.snapArm, State.rb_wb _ _ _ _ _ (by omega), if_pos rfl]

/-! ## Errors of an engine's SRAM (R417) -/

/-- Poison comes on rows of a slot that its tile has. -/
theorem Engine.poisonSlot_slot_self (g : Engine) (t : Nat) (rows : BitVec 64) : ((g.poisonSlot t rows).slot t)
    = { g.slot t with poison := (g.slot t).poison ||| (rows &&& if (g.slot t).shape = some 1 then 0xFFFFFFFF else BitVec.allOnes 64) } :=
  Sparse.get_set_self ..

theorem Engine.poisonSlot_slot_other (g : Engine) {t n : Nat} (rows : BitVec 64) (h : n ≠ t) :
    (g.poisonSlot t rows).slot n = g.slot n := (Sparse.get_set ..).trans (if_neg h)

/-- Poison on rows of some slots leaves every other slot, -/
theorem Engine.poisonSlots_other (g : Engine) {l : List Nat} (rows : BitVec 64) {n : Nat} (h : n ∉ l) :
    (l.foldl (fun g t => g.poisonSlot t rows) g).slot n = g.slot n := by
  induction l generalizing g with
  | nil => rfl
  | cons t l ih =>
    obtain ⟨ht, hl⟩ := List.ne_and_not_mem_of_not_mem_cons h
    rw [List.foldl_cons, ih _ hl, Engine.poisonSlot_slot_other g rows ht]

/-- and marks each of them. -/
theorem Engine.poisonSlots_self (g : Engine) {l : List Nat} (hd : l.Nodup) (rows : BitVec 64) {n : Nat} (h : n ∈ l) :
    (l.foldl (fun g t => g.poisonSlot t rows) g).slot n = (g.poisonSlot n rows).slot n := by
  induction l generalizing g with
  | nil => simp at h
  | cons t l ih =>
    obtain ⟨ht, hl⟩ := List.nodup_cons.mp hd
    rw [List.foldl_cons]
    rcases List.mem_cons.mp h with rfl | hn
    · exact Engine.poisonSlots_other _ rows ht
    · have hne : n ≠ t := fun h => ht (h ▸ hn)
      rw [ih _ hl hn, Engine.poisonSlot_slot_self, Engine.poisonSlot_slot_self, Engine.poisonSlot_slot_other g rows hne]

theorem rowBit_and_lower {row : Nat} (h : row < 32) :
    ((1 <<< row : Nat) : BitVec 64) &&& (0xFFFFFFFF : BitVec 64) = ((1 <<< row : Nat) : BitVec 64) := by
  have hall : ∀ r : Fin 32, ((1 <<< r.val : Nat) : BitVec 64) &&& (0xFFFFFFFF : BitVec 64) = ((1 <<< r.val : Nat) : BitVec 64) := by
    decide
  exact hall ⟨row, h⟩

/-- A row that a tile of 32 rows has, or any row of another tile, is marked. -/
theorem Engine.poisonSlot_row (g : Engine) (t : Nat) {row : Nat} (h : (g.slot t).shape ≠ some 1 ∨ row < 32) :
    ((g.poisonSlot t (1 <<< row : Nat)).slot t).poison = (g.slot t).poison ||| (1 <<< row) := by
  rw [Engine.poisonSlot_slot_self]
  dsimp only
  split_ifs with hs
  · rw [rowBit_and_lower (h.resolve_left fun hn => hn hs)]
  · rw [BitVec.and_allOnes]

theorem accRow_nodup (g : Engine) (slot word : Nat) : (accRow g slot word).1.Nodup := by
  unfold accRow
  dsimp only
  split
  · exact List.Nodup.filter _ (by simp)
  · exact List.nodup_singleton _

/-- What an error of an engine's SRAM makes of its engine. -/
def Engine.struck (g : Engine) (w : SpadWhere) : Engine :=
  match w with
  | .unit u => { g with spadPoison := setFlag g.spadPoison u.val true }
  | .acc slot word => (accRow g slot word).1.foldl (fun h t => h.poisonSlot t (1 <<< (accRow g slot word).2 : Nat)) g

theorem State.modEngine_self (s : State) (e : Nat) (f : Engine → Engine) : (s.modEngine e f).engine e = f (s.engine e) :=
  Sparse.get_set_self ..

theorem State.spadUe_engine (s : State) (e : Nat) (w : SpadWhere) :
    (taskFoot.apply s (s.spadUe e w)).engine e = (s.engine e).struck w := by
  rw [Footprint.apply_engine, if_pos (show taskFoot.engines = true from rfl), State.spadUe, State.raise_engine, State.count_engine,
    State.modEngine_self]
  cases w <;> rfl

/-- Errors of accumulator words leave the memories as they are. -/
theorem Engine.poisonSlots_memories (g : Engine) (l : List Nat) (rows : BitVec 64) :
    (l.foldl (fun g t => g.poisonSlot t rows) g).acc = g.acc ∧ (l.foldl (fun g t => g.poisonSlot t rows) g).spad = g.spad
      ∧ (l.foldl (fun g t => g.poisonSlot t rows) g).spadPoison = g.spadPoison := by
  induction l generalizing g with
  | nil => exact ⟨rfl, rfl, rfl⟩
  | cons t l ih => exact ih (g.poisonSlot t rows)

theorem State.spadUe_evq (s : State) (e : Nat) (w : SpadWhere) :
    ⟨enPage e, 23, 2, e⟩ ∈ (taskFoot.apply s (s.spadUe e w)).evq := by
  rw [Footprint.apply_evq, if_pos (show taskFoot.events = true from rfl), State.spadUe, State.raise_evq]
  exact List.mem_append_right _ (List.mem_singleton_self _)

/-- Settles O55: an armed snapshot reads back (`snapArm_flag`), an error strikes its engine alone (`spadUe_engine`), and the two reads
give the word or the tide that they find (`readAccess_accData`, `tideNowRead_keyed`). -/
theorem eventsAndReads : Obligations.EventsAndReads := by
  unfold Obligations.EventsAndReads
  refine ⟨?_, ?_, ?_, ?_, ?_, ?_, ?_, ?_, ?_, ?_⟩
  · intro s v h
    refine completes_run h (exec_evtRearm v s) ⟨?_, fun o ho => ?_⟩
    · exact State.r32_w32_self ..
    · exact (State.r32_w32 ..).trans (if_neg ho)
  · intro s h
    refine completes_run h (exec_take s) ⟨?_, ?_, ?_⟩
    · exact Bool.or_true _
    · exact Bool.or_false _
    · exact (s.snapArm_flag true false).trans (by simp)
  · intro s h
    refine completes_run h (exec_clear s) ⟨?_, ?_, ?_⟩
    · exact Bool.or_true _
    · exact Bool.or_false _
    · exact (s.snapArm_flag false true).trans (by simp)
  · intro s h
    refine completes_run h (exec_release s) ⟨?_, ?_, rfl⟩
    · exact (State.rb_wb s Reg.tideCntSnap 8 false 8 (by omega)).trans (if_pos rfl)
    · exact (State.rb_wb s Reg.tideCntSnap 8 false 9 (by omega)).trans (if_neg (by omega))
  · intro s e u h
    refine completes_run h (exec_spadUe e (.unit u) s) ?_
    rw [State.spadUe_engine]
    exact ⟨Sparse.get_set_self (s.engine e.val).spadPoison u.val true, rfl, State.spadUe_evq ..⟩
  · intro s e slot word h
    refine completes_run h (exec_spadUe e (.acc slot word) s) ?_
    rw [State.spadUe_engine]
    obtain ⟨hacc, hspad, hpoison⟩ := (s.engine e.val).poisonSlots_memories (accRow (s.engine e.val) slot.val word.val).1
      (1 <<< (accRow (s.engine e.val) slot.val word.val).2 : Nat)
    refine ⟨fun n hn hs => ?_, fun n hn => Engine.poisonSlots_other _ _ hn, hacc, hspad, hpoison, State.spadUe_evq ..⟩
    rw [Engine.struck, Engine.poisonSlots_self _ (accRow_nodup ..) _ hn, Engine.poisonSlot_row _ _ hs]
  · intro s e r h hk
    refine completes_run h (exec_engAccDataRead e r s) ⟨?_, rfl⟩
    simp [State.readAccess, hk, State.refuse_out]
  · intro s r elapsed h hk
    refine completes_run h (exec_tideNowRead r elapsed s) ⟨?_, ?_⟩
    · simp [State.tideNowRead, hk, State.refuse_out]
    · simp [State.tideNowRead, hk, State.refuse_tide]
  · intro s e r h hk
    refine completes_run h (exec_engAccDataRead e r s) ⟨?_, rfl⟩
    rw [readAccess_accData e.isLt hk, Footprint.apply_out, State.emit_out, accAdvance_out]
  · intro s r elapsed h hk hst
    refine completes_run h (exec_tideNowRead r elapsed s) ?_
    rw [State.tideNowRead_keyed hk hst (Nat.mod_eq_of_lt elapsed.isLt)]
    exact ⟨rfl, rfl, rfl⟩

end Sys2Proof.Machine
end

section
/-! SUPPORT. Due work performed by a command of its own: the work itself, and then the gathering of the event lines, which writes
only the summaries of events. -/
namespace Sys2Proof.Machine

@[simp] theorem Reg.tideEvtGrp_word : Reg.tideEvtGrp / 4 = 0x8C880 := rfl
@[simp] theorem Reg.tideEvtSum_word (n : Nat) : Reg.tideEvtSum n / 4 = 0x8C8A0 + n := by unfold Reg.tideEvtSum Reg.tidePage; omega

/-- What every step of a walk keeps, the walk keeps. -/
theorem State.each_keeps {α : Type} {P : State → Prop} (f : State → α → State) (l : List α)
    (h : ∀ s, ∀ x ∈ l, P s → P (f s x)) (s : State) (hs : P s) : P (s.each l f) := by
  unfold State.each
  induction l generalizing s with
  | nil => exact hs
  | cons x l ih =>
    exact ih (fun s y hy => h s y (List.mem_cons_of_mem x hy)) _ (h s x List.mem_cons_self hs)

/-! ## The event lines (R427, R429) -/

/-- Words of the event summaries, by word index. -/
def evtWord (i : Nat) : Prop := 0x8C880 ≤ i ∧ i < 0x8C8B9

theorem intrSend_r32 (s : State) (g : Nat) {off : Nat} (h : ¬ evtWord (off / 4)) : (s.intrSend g).r32 off = s.r32 off := by
  unfold State.intrSend
  split
  · refine (State.r32_wf_other s Reg.tideEvtArmed g 1 _ off ?_)
    rw [Reg.tideEvtArmed_word]
    unfold evtWord at h
    omega
  · rfl

/-- The gathering of the event lines writes no register but the summaries and ARMED. -/
theorem gather_r32 (s : State) {off : Nat} (h : ¬ evtWord (off / 4)) : s.gather.r32 off = s.r32 off := by
  unfold State.gather
  dsimp only
  rw [State.upTo_view (·.r32 off) _ _ fun s g _ => intrSend_r32 s g h, State.r32_w32, if_neg]
  · refine State.upTo_view (·.r32 off) _ _ (fun s g hg => ?_) s
    rw [State.r32_w32, if_neg]
    rw [Reg.tideEvtSum_word]
    unfold evtWord at h
    omega
  · rw [Reg.tideEvtGrp_word]
    unfold evtWord at h
    omega

theorem intrSend_out (s : State) (g : Nat) {x : Out} (h : x ∈ s.out) : x ∈ (s.intrSend g).out := by
  unfold State.intrSend
  split
  · exact List.mem_cons_of_mem _ h
  · exact h

/-- It sends, and takes nothing back. -/
theorem gather_out (s : State) {x : Out} (h : x ∈ s.out) : x ∈ s.gather.out := by
  unfold State.gather
  dsimp only
  refine State.each_keeps (P := fun s => x ∈ s.out) State.intrSend _ (fun s g _ => intrSend_out s g) _ ?_
  have hout (f : Nat → Word) : (s.upTo 25 fun s g => s.w32 (Reg.tideEvtSum g) (f g)).out = s.out :=
    State.upTo_view State.out _ _ (fun s g _ => State.w32_out s _ _) s
  rw [State.w32_out, hout]
  exact h

/-! ## One piece of due work -/

/-- The state that a piece of due work, alone due, finds. -/
def State.undue (s : State) : State := { s with due := [] }

/-- What the command of a piece of due work leaves where nothing else is due. -/
def State.dueDone (s : State) (d : Due) : State := { s.performList [d] [] with pending := s.pending }

theorem completes_due {c : Instr} {s : State} {d : Due} {P : State → Prop} (h : DueOnly d s)
    (hu : d.isLast = true → s.unresolved = false) (hc : exec c s = runWhole (fun s => s.due_ d) s) (hp : P (s.dueDone d)) :
    Completes c s P :=
  completes_whole h.1 hc (by rw [State.due_only s d h.2 hu]; exact hp)

theorem dueDone_eq (s : State) (d : Due) :
    s.dueDone d = (s.undue.within dueFoot (·.performDue d)).within { regs := true, ports := true } State.gather := rfl

theorem dueDone_due (s : State) (d : Due) : (s.dueDone d).due = [] := rfl
theorem dueDone_tide (s : State) (d : Due) : (s.dueDone d).tide = (s.undue.performDue d).tide := rfl
theorem dueDone_signals (s : State) (d : Due) : (s.dueDone d).signals = (s.undue.performDue d).signals := rfl
theorem dueDone_heldSignals (s : State) (d : Due) : (s.dueDone d).heldSignals = (s.undue.performDue d).heldSignals := rfl
theorem dueDone_srv (s : State) (d : Due) : (s.dueDone d).srv = (s.undue.performDue d).srv := rfl

theorem dueDone_out (s : State) (d : Due) {x : Out} (h : x ∈ (s.undue.performDue d).out) : x ∈ (s.dueDone d).out := by
  rw [dueDone_eq, State.within, Footprint.apply_out]
  exact gather_out _ h

/-- Its registers are those that the work leaves, but for the summaries of events. -/
theorem dueDone_r32 (s : State) (d : Due) {off : Nat} (h : ¬ evtWord (off / 4)) :
    (s.dueDone d).r32 off = (s.undue.performDue d).r32 off := by
  rw [dueDone_eq, State.within, Footprint.apply_r32, if_pos rfl, gather_r32 _ h, State.within, Footprint.apply_r32,
    if_pos (show dueFoot.regs = true from rfl)]

theorem dueDone_rf (s : State) (d : Due) {off : Nat} (lo len : Nat) (h : ¬ evtWord (off / 4)) :
    (s.dueDone d).rf off lo len = (s.undue.performDue d).rf off lo len := by
  rw [State.rf, State.rf, dueDone_r32 s d h]

theorem dueDone_rb (s : State) (d : Due) {off : Nat} (lo : Nat) (h : ¬ evtWord (off / 4)) :
    (s.dueDone d).rb off lo = (s.undue.performDue d).rb off lo := by
  rw [State.rb, State.rb, dueDone_r32 s d h]

theorem dueDone_r64 (s : State) (d : Due) {off : Nat} (h : ¬ evtWord (off / 4)) (h' : ¬ evtWord ((off + 4) / 4)) :
    (s.dueDone d).r64 off = (s.undue.performDue d).r64 off := by
  rw [State.r64, State.r64, dueDone_r32 s d h, dueDone_r32 s d h']

end Sys2Proof.Machine
end

section
/-! SUPPORT. Commit requests and commits, and the statement about them. -/
namespace Sys2Proof.Machine

@[simp] theorem Reg.tideCommitGen_word : Reg.tideCommitGen / 4 = 0x8C848 := rfl
@[simp] theorem Reg.tideModeStat_word : Reg.tideModeStat / 4 = 0x8C84A := rfl
@[simp] theorem Reg.tideMissSrc_word : Reg.tideMissSrc / 4 = 0x8C84B := rfl
@[simp] theorem Reg.engNumCtrl_word (e : Nat) : Reg.engNumCtrl e / 4 = 0x400 * e + 0x1C0 := by
  unfold Reg.engNumCtrl Reg.engPage; omega
@[simp] theorem blkModeShadow_word (pn : Nat) : blkModeShadow pn / 4 = 0x400 * pn + 0xA := by unfold blkModeShadow; omega
@[simp] theorem blkModeActive_word (pn : Nat) : blkModeActive pn / 4 = 0x400 * pn + 0xB := by unfold blkModeActive; omega
@[simp] theorem blkCommitTick_word (pn : Nat) : blkCommitTick pn / 4 = 0x400 * pn + 0xC := by unfold blkCommitTick; omega

theorem optAt_setOpt_self {α : Type} [DecidableEq α] (m : Sparse (Option α)) (k : Nat) (v : Option α) :
    optAt (setOpt m k v) k = v := Sparse.get_set_self ..

/-! ## What a commit leaves pending (R25) -/

/-- One pending value takes force. -/
def State.commitWord (s : State) (w : Nat × Word) : State :=
  (s.w32 (4 * w.1) ((s.r32 (4 * w.1) &&& ~~~shMask w.1) ||| (w.2 &&& shMask w.1))).modCommit fun c =>
    { c with shadow := setOpt c.shadow w.1 none }

/-- The header of a page as its commit leaves it: the generation in force, nothing pending, and the tick. -/
def State.commitHeader (s : State) (pn : Nat) : State :=
  let gen := s.rf (blkModeShadow pn) 0 16
  let s := s.w32 (blkModeActive pn) (BitVec.ofNat 32 gen)
  (s.wf (blkModeShadow pn) 16 1 0).w64 (blkCommitTick pn) (BitVec.ofNat 64 s.tick)

/-- A page's core cache behaves as the LMP-4192's. -/
def State.pageCompat (s : State) (pn : Nat) : Bool :=
  match Reg.page pn with
  | some (.cch, c) => s.wcCompat c
  | _ => false

/-- A commit: pending values, header, the books, the write-combining buffer, and TIDE_MODE_STAT. -/
theorem State.commitUnit_eq (s : State) (pn : Nat) : s.commitUnit pn =
    ((((s.each (s.pagePending pn) State.commitWord).commitHeader pn).setUnitCommit pn none).compatHook pn
      (s.pageCompat pn)).modeRefresh :=
  rfl

theorem State.compatHook_commit (s : State) (pn : Nat) (was : Bool) : (s.compatHook pn was).commit = s.commit := by
  unfold State.compatHook
  split
  · split
    · exact State.commit_of_offPath (State.wcFlush_offPath ..)
    · rfl
  · rfl

/-- TIDE_MODE_STAT follows the scope, and the units' books stay. -/
theorem State.modeRefresh_books (s : State) :
    s.modeRefresh.commit.units = s.commit.units ∧ s.modeRefresh.commit.shadow = s.commit.shadow := by
  unfold State.modeRefresh
  dsimp only
  split_ifs <;> exact ⟨rfl, rfl⟩

theorem State.each_commitWord_shadow (s : State) (l : List (Nat × Word)) :
    (s.each l State.commitWord).commit.shadow = s.commit.shadow.filter fun e => l.all fun w => e.1 != w.1 := by
  unfold State.each
  induction l generalizing s with
  | nil => simp
  | cons w l ih =>
    have hw : (s.commitWord w).commit.shadow = s.commit.shadow.filter fun e => e.1 != w.1 := by
      simp [State.commitWord, setOpt, Sparse.set, Sparse.drop]
    rw [List.foldl_cons, ih, hw, List.filter_filter]
    exact List.filter_congr fun e _ => by simp [Bool.and_comm]

/-- A commit of any page leaves nothing of it pending and no commit of it outstanding. -/
theorem State.commitUnit_books (s : State) (pn : Nat) :
    (s.commitUnit pn).unitCommit pn = none ∧ (s.commitUnit pn).pagePending pn = [] := by
  obtain ⟨hunits, hshadow⟩ := ((((s.each (s.pagePending pn) State.commitWord).commitHeader pn).setUnitCommit pn none).compatHook pn
    (s.pageCompat pn)).modeRefresh_books
  rw [← State.commitUnit_eq, State.compatHook_commit] at hunits hshadow
  have hleft : (s.commitUnit pn).commit.shadow = s.commit.shadow.filter fun e => (s.pagePending pn).all fun w => e.1 != w.1 :=
    hshadow.trans (State.each_commitWord_shadow s _)
  constructor
  · rw [State.unitCommit, hunits]
    exact optAt_setOpt_self ((s.each (s.pagePending pn) State.commitWord).commitHeader pn).commit.units pn none
  · rw [State.pagePending, List.filterMap_eq_nil_iff, hleft]
    rintro ⟨i, v⟩ hi
    obtain ⟨hmem, hall⟩ := List.mem_filter.mp hi
    split
    · cases v with
      | none => rfl
      | some v =>
        have hpend : (i, v) ∈ s.pagePending pn :=
          List.mem_filterMap.mpr ⟨(i, some v), hmem, by rw [if_pos (by assumption)]; rfl⟩
        simpa using List.all_eq_true.mp hall (i, v) hpend
    · rfl

/-! ## TIDE_MODE_STAT's words -/

/-- Words that TIDE_MODE_STAT's refresh writes, by word index. -/
def modeWord (i : Nat) : Prop := 0x8C848 ≤ i ∧ i < 0x8C84C

theorem State.modeRefresh_r32 (s : State) {off : Nat} (h : ¬ modeWord (off / 4)) : s.modeRefresh.r32 off = s.r32 off := by
  have hmiss : off / 4 ≠ 0x8C84B := fun he => h (by rw [he]; exact ⟨by omega, by omega⟩)
  have hstat : off / 4 ≠ 0x8C84A := fun he => h (by rw [he]; exact ⟨by omega, by omega⟩)
  have hgen : off / 4 ≠ 0x8C848 := fun he => h (by rw [he]; exact ⟨by omega, by omega⟩)
  unfold State.modeRefresh
  dsimp only
  split_ifs <;> simp [State.r32_wf, hmiss, hstat, hgen]

/-! ## The commit of an engine (R24, R25) -/

/-- The page of an engine has no write-combining buffer. -/
theorem State.compatHook_enPage (s : State) {e : Nat} (he : e < 256) (was : Bool) : s.compatHook (enPage e) was = s := by
  rw [State.compatHook, Reg.page_enPage he]

/-- The commit of an engine with one pending value, but for TIDE_MODE_STAT. -/
theorem State.commitUnit_single {s : State} {e : Nat} (he : e < 256) {w : Nat × Word}
    (h : s.pagePending (enPage e) = [w]) :
    s.commitUnit (enPage e) = (((s.commitWord w).commitHeader (enPage e)).setUnitCommit (enPage e) none).modeRefresh := by
  rw [State.commitUnit_eq, h, State.compatHook_enPage _ he]
  rfl

/-- TIDE_MODE_STAT is no register of an engine. -/
theorem State.commitUnit_engine_r32 {s : State} {e : Nat} (he : e < 256) {w : Nat × Word}
    (h : s.pagePending (enPage e) = [w]) {off : Nat} (hoff : off / 4 < 0x40000) :
    (s.commitUnit (enPage e)).r32 off = ((s.commitWord w).commitHeader (enPage e)).r32 off := by
  rw [State.commitUnit_single he h, State.modeRefresh_r32]
  · rfl
  · unfold modeWord
    omega

theorem fld_ofNat_lower (x n : Nat) (h : n ≤ 32) : fld (BitVec.ofNat 32 x) 0 n = x % 2 ^ n := by
  rw [fld, BitVec.toNat_ofNat, pow_zero, Nat.div_one, Nat.mod_mod_of_dvd _ (Nat.pow_dvd_pow 2 h)]

theorem State.rf_lt (s : State) (off lo len : Nat) : s.rf off lo len < 2 ^ len := Nat.mod_lt _ (by positivity)

theorem State.commitHeader_active (s : State) (pn : Nat) :
    (s.commitHeader pn).rf (blkModeActive pn) 0 16 = s.rf (blkModeShadow pn) 0 16 := by
  have hr : (s.commitHeader pn).r32 (blkModeActive pn) = BitVec.ofNat 32 (s.rf (blkModeShadow pn) 0 16) := by
    simp [State.commitHeader, State.w64, State.r32_wf]
  rw [State.rf, hr, fld_ofNat_lower _ 16 (by omega), Nat.mod_eq_of_lt (State.rf_lt ..)]

theorem State.commitHeader_pending (s : State) (pn : Nat) : (s.commitHeader pn).rb (blkModeShadow pn) 16 = false := by
  have hr : (s.commitHeader pn).r32 (blkModeShadow pn) = putFld (s.r32 (blkModeShadow pn)) 16 1 0 := by
    simp [State.commitHeader, State.w64, State.r32_wf]
  rw [State.rb, hr, getLsbD_putFld _ _ _ _ _ (by omega)]
  rfl

/-- The header lies apart from every other word of the page. -/
theorem State.commitHeader_r32_other (s : State) (pn : Nat) {off : Nat} (h : off / 4 < 0x400 * pn + 0xA ∨ 0x400 * pn + 0xD < off / 4) :
    (s.commitHeader pn).r32 off = s.r32 off := by
  have hshadow : off / 4 ≠ 0x400 * pn + 0xA := by omega
  have hactive : off / 4 ≠ 0x400 * pn + 0xB := by omega
  have htick : off / 4 ≠ 0x400 * pn + 0xC := by omega
  have htick' : off / 4 ≠ 0x400 * pn + 0xD := by omega
  simp [State.commitHeader, State.w64, State.r32_wf, hshadow, hactive, htick, htick']

/-- What the commit of ENG_NUM_CTRL makes of the registers of its engine. -/
theorem State.commitNumCtrl_regs {s : State} {e : Nat} (he : e < 256) {v m : Word}
    (h : s.pagePending (enPage e) = [(Reg.engNumCtrl e / 4, v)]) (hm : m = shMask (Reg.engNumCtrl e / 4)) :
    (s.commitUnit (enPage e)).r32 (Reg.engNumCtrl e) = (s.r32 (Reg.engNumCtrl e) &&& ~~~m) ||| (v &&& m)
    ∧ (s.commitUnit (enPage e)).rf (blkModeActive (enPage e)) 0 16 = s.rf (blkModeShadow (enPage e)) 0 16
    ∧ (s.commitUnit (enPage e)).rb (blkModeShadow (enPage e)) 16 = false
    ∧ (s.commitUnit (enPage e)).r64 (blkCommitTick (enPage e)) = BitVec.ofNat 64 s.tick := by
  have hr {off : Nat} (hoff : off / 4 < 0x40000) := State.commitUnit_engine_r32 he h hoff
  have hpage : enPage e = e := rfl
  have hnum := Reg.engNumCtrl_word e
  have hself : 4 * (Reg.engNumCtrl e / 4) = Reg.engNumCtrl e := by unfold Reg.engNumCtrl Reg.engPage; omega
  have hshadow := blkModeShadow_word (enPage e)
  have hactive := blkModeActive_word (enPage e)
  have htick := blkCommitTick_word (enPage e)
  have hword : (s.commitWord (Reg.engNumCtrl e / 4, v)).r32 (Reg.engNumCtrl e)
      = (s.r32 (Reg.engNumCtrl e) &&& ~~~m) ||| (v &&& m) := by
    rw [State.commitWord, State.modCommit_r32, hself, State.r32_w32_self, hm]
  have hother : (s.commitWord (Reg.engNumCtrl e / 4, v)).r32 (blkModeShadow (enPage e)) = s.r32 (blkModeShadow (enPage e)) := by
    rw [State.commitWord, State.modCommit_r32, hself, State.r32_w32, if_neg (by omega)]
  refine ⟨?_, ?_, ?_, ?_⟩
  · rw [hr (by omega), State.commitHeader_r32_other _ _ (by omega), hword]
  · rw [State.rf, hr (by omega), ← State.rf, State.commitHeader_active, State.rf, hother, State.rf]
  · rw [State.rb, hr (by omega), ← State.rb, State.commitHeader_pending]
  · rw [State.r64, hr (by omega), hr (by omega), ← State.r64]
    exact State.r64_w64_self ..

/-! ## Requests (R23, R46) -/

theorem info_engNumCtrl {e : Nat} (he : e < 256) : Reg.info (Reg.engNumCtrl e) = some ⟨0, 0, 1, 0, .plain, 1⟩ :=
  engWord_info he (by omega) (by omega)

theorem shMask_engNumCtrl {e : Nat} (he : e < 256) : shMask (Reg.engNumCtrl e / 4) = 1 := by
  rw [shMask, show 4 * (Reg.engNumCtrl e / 4) = Reg.engNumCtrl e by unfold Reg.engNumCtrl Reg.engPage; omega, info_engNumCtrl he]

/-- A write of ENG_NUM_CTRL, as an access. -/
def numCtrlAcc (e : Nat) (v : Word) : RegAcc := { off := Reg.engNumCtrl e, size := 4, data := v.setWidth 64 }

theorem numCtrlAcc_parts (e : Nat) (v : Word) : accParts (numCtrlAcc e v) = [(Reg.engNumCtrl e, v)] := by
  simp [accParts, numCtrlAcc]

theorem numCtrlAcc_shParts {e : Nat} (he : e < 256) (v : Word) :
    shParts (accParts (numCtrlAcc e v)) = [(Reg.engNumCtrl e / 4, v)] := by
  have hx : Reg.engNumCtrl e % 0x1000 < 0x800 := by rw [Reg.engNumCtrl, engWord_offset e (by omega)]; omega
  rw [numCtrlAcc_parts, shParts, List.filterMap_cons, if_pos ⟨hx, by rw [shMask_engNumCtrl he]; decide⟩]
  rfl

/-- A write under empty masks leaves the word. -/
theorem masked_none (x y : Word) : ((x &&& ~~~(0 : Word)) ||| (y &&& 0)) &&& ~~~(y &&& 0) = x := by
  have hnone : y &&& 0 = 0 := BitVec.and_zero
  have hall : (~~~(0 : Word)) = BitVec.allOnes 32 := rfl
  rw [hnone, hall, BitVec.and_allOnes, BitVec.and_allOnes]
  exact BitVec.or_zero

/-- Without its SH field a write of ENG_NUM_CTRL writes the word back as it was. -/
theorem wordWrite_numCtrl (s : State) (r : Requester) {e : Nat} (he : e < 256) (v : Word) :
    s.wordWrite r (Reg.engNumCtrl e) v = s.within accessFoot fun s => s.w32 (Reg.engNumCtrl e) (s.r32 (Reg.engNumCtrl e)) := by
  have hx : Reg.engNumCtrl e % 0x1000 = 0x700 := engWord_offset e (by omega)
  have hpage : Reg.page (Reg.engNumCtrl e / 0x1000) = some (.eng, e) := engWord_page he (by omega)
  have hplain (s : State) : s.plainWrite (Reg.engPage e + 0x700) v = s.w32 (Reg.engNumCtrl e) (s.r32 (Reg.engNumCtrl e)) := by
    rw [← Reg.engNumCtrl, plainWrite_eq_w32 s v (info_engNumCtrl he)]
    rw [masked_none]
  simp [State.wordWrite, State.engWrite, hx, hpage, hplain]

/-- The state that a request for ENG_NUM_CTRL leaves, but for its answer. -/
def State.numCtrlRequest (s : State) (e : Nat) (v : Word) : State :=
  (s.within accessFoot fun s => s.w32 (Reg.engNumCtrl e) (s.r32 (Reg.engNumCtrl e))).within { regs := true, commit := true }
    (·.commitReq [(Reg.engNumCtrl e / 4, v)] [])

theorem commitAccess_numCtrl {s : State} {r : Requester} {e : Nat} (he : e < 256) (v : Word) (hk : s.keyed r = true) :
    s.commitAccess r (numCtrlAcc e v) = (s.numCtrlRequest e v).emit (.reg r true 0) := by
  have hp : isPage (numCtrlAcc e v).off = true := engWord_isPage he (by omega)
  have hx : (numCtrlAcc e v).off % 0x1000 = 0x700 := engWord_offset e (by omega)
  have hkind : pageKind (numCtrlAcc e v).off = some .eng := by
    rw [pageKind, show (numCtrlAcc e v).off = Reg.engPage e + 0x700 from rfl, engWord_page he (by omega)]
    rfl
  have hmay : mayWrite r (Reg.engNumCtrl e) = true := mayWrite_eng r hkind
  have haway : s.wordAway (Reg.engNumCtrl e) = false := by
    have hx' : Reg.engNumCtrl e % 0x1000 = 0x700 := hx
    simp [State.wordAway, hx']
  have hm : accessMapped (numCtrlAcc e v) = true :=
    accessMapped_of_isPage (.inl rfl) (by simp only [numCtrlAcc, Reg.engNumCtrl, Reg.engPage]; omega) hp
  have hwords : s.accessWords (numCtrlAcc e v) = accParts (numCtrlAcc e v) := by
    rw [State.accessWords, (not_window_of_isPage hp).2, if_neg Bool.false_ne_true]
  have hwrite : s.pageWrite r (numCtrlAcc e v) = (s.numCtrlRequest e v, true) := by
    have hneeds : needs64 .eng 0x700 = false := rfl
    simp only [State.pageWrite, hkind, hx, hneeds, numCtrlAcc_parts, List.filter_cons, hmay, List.filter_nil, State.each,
      List.foldl_cons, List.foldl_nil, if_true, wordWrite_numCtrl s r he v, List.any_cons, List.any_nil, haway]
    have hsh : shParts [(Reg.engNumCtrl e, v)] = [(Reg.engNumCtrl e / 4, v)] := by
      rw [← numCtrlAcc_parts, numCtrlAcc_shParts he]
    simp [State.commitParts, hsh, State.numCtrlRequest]
  rw [State.commitAccess, hwords, numCtrlAcc_shParts he, if_pos (by rfl), State.writeAccess, regWrite_of_isPage [] hm hp hk, hwrite]

/-- The generation that the next request takes. -/
def State.nextGen (s : State) : Nat := (s.rf Reg.tideCommitGen 16 16 + 1) % 65536

/-- A request of one word takes the next generation and leaves it in the header of its unit. -/
theorem State.commitReq_single_r32 (s : State) (i : Nat) (v : Word) (off : Nat) : (s.commitReq [(i, v)] []).r32 off =
    if off / 4 = 0x400 * (i / 0x400) + 0xA then BitVec.ofNat 32 (s.nextGen + 2 ^ 16)
    else (s.wf Reg.tideCommitGen 16 16 s.nextGen).r32 off := by
  unfold State.commitReq
  dsimp only [State.each, List.foldl_cons, List.foldl_nil]
  rw [State.r32_w32, blkModeShadow_word]
  refine ite_congr rfl (fun _ => rfl) fun _ => ?_
  split_ifs <;> rfl

/-- The word is pending in the unit, under its mask. -/
theorem State.commitReq_single_commit (s : State) (i : Nat) (v : Word) :
    optAt (s.commitReq [(i, v)] []).commit.shadow i
      = some (((optAt s.commit.shadow i).getD 0 &&& ~~~shMask i) ||| (v &&& shMask i))
    ∧ ((s.commitReq [(i, v)] []).unitCommit (i / 0x400)).isSome = true := by
  have hshadow (u : State) (h : u.commit.shadow = s.commit.shadow) :
      optAt (setOpt u.commit.shadow i (some (((optAt u.commit.shadow i).getD 0 &&& ~~~shMask i) ||| (v &&& shMask i)))) i
        = some (((optAt s.commit.shadow i).getD 0 &&& ~~~shMask i) ||| (v &&& shMask i)) := by
    rw [optAt_setOpt_self, h]
  constructor
  · unfold State.commitReq
    dsimp only [State.each, List.foldl_cons, List.foldl_nil]
    split_ifs <;> exact hshadow _ rfl
  · unfold State.commitReq State.unitCommit
    dsimp only [State.each, List.foldl_cons, List.foldl_nil]
    simp [State.setUnitCommit, optAt_setOpt_self]

/-- Bits under a mask of a value merged under it. -/
theorem merged_and_mask (old v m : Word) : ((old &&& ~~~m) ||| (v &&& m)) &&& m = v &&& m := by
  ext i
  simp only [BitVec.getElem_and, BitVec.getElem_or, BitVec.getElem_not]
  cases m[i] <;> simp

/-- A word written back as it was leaves every word. -/
theorem State.r32_w32_back (s : State) (off off' : Nat) : (s.w32 off (s.r32 off)).r32 off' = s.r32 off' := by
  rw [State.r32_w32]
  split
  case isTrue h => rw [State.r32, State.r32, h]
  case isFalse => rfl

theorem State.nextGen_lt (s : State) : s.nextGen < 2 ^ 16 := Nat.mod_lt _ (by decide)

/-- What a request for ENG_NUM_CTRL makes of the registers. -/
theorem State.numCtrlRequest_r32 (s : State) (e : Nat) (v : Word) (off : Nat) : (s.numCtrlRequest e v).r32 off =
    if off / 4 = 0x400 * e + 0xA then BitVec.ofNat 32 (s.nextGen + 2 ^ 16)
    else (s.wf Reg.tideCommitGen 16 16 s.nextGen).r32 off := by
  have hback (off' : Nat) : (s.within accessFoot fun s => s.w32 (Reg.engNumCtrl e) (s.r32 (Reg.engNumCtrl e))).r32 off' = s.r32 off' := by
    rw [State.within, Footprint.apply_r32, if_pos (show accessFoot.regs = true from rfl), State.r32_w32_back]
  have hpage : Reg.engNumCtrl e / 4 / 0x400 = e := by rw [Reg.engNumCtrl_word]; omega
  rw [State.numCtrlRequest, State.within, Footprint.apply_r32, if_pos rfl, State.commitReq_single_r32, hpage]
  simp only [State.nextGen, State.r32_wf, State.rf, hback]

/-- What it makes of the commits: the value is pending in the engine's unit. -/
theorem State.numCtrlRequest_commit (s : State) (e : Nat) (v : Word) :
    (∃ j, optAt (s.numCtrlRequest e v).commit.shadow (Reg.engNumCtrl e / 4) = some j
      ∧ j &&& shMask (Reg.engNumCtrl e / 4) = v &&& shMask (Reg.engNumCtrl e / 4))
    ∧ ((s.numCtrlRequest e v).unitCommit (enPage e)).isSome = true := by
  have hpage : Reg.engNumCtrl e / 4 / 0x400 = enPage e := by rw [Reg.engNumCtrl_word, enPage]; omega
  obtain ⟨hshadow, hunit⟩ := State.commitReq_single_commit
    (s.within accessFoot fun s => s.w32 (Reg.engNumCtrl e) (s.r32 (Reg.engNumCtrl e))) (Reg.engNumCtrl e / 4) v
  rw [hpage] at hunit
  exact ⟨⟨_, hshadow, merged_and_mask ..⟩, hunit⟩

/-! ## MIXED_TIMEOUT (R26) -/

/-- While units owe their commits, TIDE_MODE_STAT's refresh leaves the books of the scope. -/
theorem State.modeRefresh_owing (s : State) (h : s.owing ≠ []) : s.modeRefresh.commit = s.commit := by
  have hne : ¬ s.owing.isEmpty = true := by simpa using h
  unfold State.modeRefresh
  dsimp only
  rw [if_neg hne]
  rfl

theorem State.mixedTimeout_timedOut (s : State) (h : s.owing ≠ []) : s.mixedTimeout.commit.timedOut = true := by
  have hne : ¬ s.owing.isEmpty = true := by simpa using h
  rw [State.mixedTimeout, if_neg hne, State.sample_commit, State.modeRefresh_owing]
  · rfl
  · exact h

/-! ## The statement -/

/-- A commit of ENG_NUM_CTRL that is due, at its boundary or late: what the command leaves of the engine's registers. -/
theorem dueDone_numCtrl {s : State} {d : Due} {e : Nat} (he : e < 256) {v m : Word}
    (hd : s.undue.performDue d = s.undue.commitUnit (enPage e))
    (hp : s.pagePending (enPage e) = [(Reg.engNumCtrl e / 4, v)]) (hm : m = shMask (Reg.engNumCtrl e / 4)) :
    (s.dueDone d).r32 (Reg.engNumCtrl e) = (s.r32 (Reg.engNumCtrl e) &&& ~~~m) ||| (v &&& m)
    ∧ (s.dueDone d).rf (blkModeActive (enPage e)) 0 16 = s.rf (blkModeShadow (enPage e)) 0 16
    ∧ (s.dueDone d).rb (blkModeShadow (enPage e)) 16 = false
    ∧ (s.dueDone d).r64 (blkCommitTick (enPage e)) = BitVec.ofNat 64 s.tick := by
  have hev {i : Nat} (hi : i < 0x40000) : ¬ evtWord i := by unfold evtWord; omega
  have hpage : enPage e = e := rfl
  have hnum := Reg.engNumCtrl_word e
  have hshadow := blkModeShadow_word (enPage e)
  have hactive := blkModeActive_word (enPage e)
  have htick := blkCommitTick_word (enPage e)
  rw [dueDone_r32 _ _ (hev (by omega)), dueDone_rf _ _ _ _ (hev (by omega)), dueDone_rb _ _ _ (hev (by omega)),
    dueDone_r64 _ _ (hev (by omega)) (hev (by omega)), hd]
  exact State.commitNumCtrl_regs (s := s.undue) he hp hm

/-- Settles O12: a request of one word leaves the next generation and the value in its unit's header and books
(`numCtrlRequest_r32`, `numCtrlRequest_commit`), a commit moves them into force (`commitNumCtrl_regs`, `commitUnit_books`), and
MIXED_TIMEOUT finds the scope as it stands (`mixedTimeout_timedOut`). -/
theorem modeCommits : Obligations.ModeCommits := by
  unfold Obligations.ModeCommits
  refine ⟨?_, ?_, ?_, ?_, ?_, ?_⟩
  · intro s r e v h hk
    refine completes_run h (exec_commitRequest r (numCtrlAcc e.val v) s) ?_
    rw [commitAccess_numCtrl e.isLt v hk]
    have hreg (u : State) (off : Nat) : (regFoot.apply s (u.emit (.reg r true 0))).r32 off = u.r32 off := by
      rw [Footprint.apply_r32, if_pos (show regFoot.regs = true from rfl)]
      rfl
    have hr (off : Nat) := (hreg _ off).trans (s.numCtrlRequest_r32 e.val v off)
    have hgenword : ¬ (0x8C848 = 0x400 * e.val + 0xA) := by omega
    have hgen : (regFoot.apply s ((s.numCtrlRequest e.val v).emit (.reg r true 0))).rf Reg.tideCommitGen 16 16 = s.nextGen := by
      rw [State.rf, hr, Reg.tideCommitGen_word, if_neg hgenword, State.r32_wf, if_pos rfl, fld_putFld _ _ _ _ (by omega),
        Nat.mod_eq_of_lt s.nextGen_lt]
    have hshadow : (regFoot.apply s ((s.numCtrlRequest e.val v).emit (.reg r true 0))).r32 (blkModeShadow (enPage e.val))
        = BitVec.ofNat 32 (s.nextGen + 2 ^ 16) := by
      rw [hr, blkModeShadow_word, if_pos (by rfl)]
    have hlt := s.nextGen_lt
    have hcommit : (regFoot.apply s ((s.numCtrlRequest e.val v).emit (.reg r true 0))).commit = (s.numCtrlRequest e.val v).commit := by
      rw [Footprint.apply_commit, if_pos (show regFoot.commit = true from rfl), State.emit_commit]
    obtain ⟨⟨j, hj, hjm⟩, hunit⟩ := s.numCtrlRequest_commit e.val v
    refine ⟨hgen, ?_, ?_, fun j' hj' => ?_, ?_, ?_, ?_⟩
    · rw [hgen, State.rf, hshadow, fld_ofNat_lower _ 16 (by decide), Nat.add_mod_right, Nat.mod_eq_of_lt hlt]
    · rw [State.rb, hshadow, BitVec.getLsbD_ofNat, Nat.testBit_eq_decide_div_mod_eq]
      have hbit : (s.nextGen + 2 ^ 16) / 2 ^ 16 % 2 = 1 := by omega
      rw [decide_eq_true hbit]
      rfl
    · rw [hcommit, hj] at hj'
      exact Option.some.inj hj' ▸ hjm
    · rw [hcommit, hj, Option.isSome_some]
    · rw [State.unitCommit, hcommit, ← State.unitCommit, hunit]
    · have hheader : ¬ (0x400 * e.val + 0x1C0 = 0x400 * e.val + 0xA) := by omega
      have hglobal : ¬ (0x400 * e.val + 0x1C0 = 0x8C848) := by omega
      rw [State.rb, hr, Reg.engNumCtrl_word, if_neg hheader, State.r32_wf, Reg.engNumCtrl_word, Reg.tideCommitGen_word,
        if_neg hglobal, State.rb]
  · intro s e v m h hp hm
    exact completes_due h (by simp [Due.isLast]) (exec_modeCommit (enPage e.val) s) (dueDone_numCtrl e.isLt rfl hp hm)
  · intro s e v m h hp hm
    exact completes_due h (by simp [Due.isLast]) (exec_unitLateCommit (enPage e.val) s) (dueDone_numCtrl e.isLt rfl hp hm)
  · intro s pn h
    exact completes_due h (by simp [Due.isLast]) (exec_modeCommit pn s) ⟨dueDone_due .., s.undue.commitUnit_books pn⟩
  · intro s pn h
    exact completes_due h (by simp [Due.isLast]) (exec_unitLateCommit pn s) ⟨dueDone_due .., s.undue.commitUnit_books pn⟩
  · intro s h ho
    exact completes_due h (by simp [Due.isLast]) (exec_mixedTimeout s) ⟨dueDone_due .., s.undue.mixedTimeout_timedOut ho⟩

end Sys2Proof.Machine
end

section
/-! SUPPORT. TIDE_CTRL and the step timers, and the statement about them. -/
namespace Sys2Proof.Machine

@[simp] theorem Reg.tideStepCtrl_word (n : Nat) : Reg.tideStepCtrl n / 4 = 0x8C863 + 4 * n := by
  unfold Reg.tideStepCtrl Reg.tidePage; omega
@[simp] theorem Reg.srvStat_word : Reg.srvStat / 4 = 0x8F056 := rfl
@[simp] theorem Reg.pwrStat_word : Reg.pwrStat / 4 = 0x8D443 := rfl
@[simp] theorem Reg.secBootStat_word : Reg.secBootStat / 4 = 0x8CC40 := rfl
@[simp] theorem Reg.engTc_word (e t : Nat) : Reg.engTc e t / 4 = 0x400 * e + 0x80 + t := by
  unfold Reg.engTc Reg.engPage; omega
@[simp] theorem Reg.coreBgrpEng_word (c k : Nat) : Reg.coreBgrpEng c k / 4 = 0x40040 + 0x400 * c + k := by
  unfold Reg.coreBgrpEng Reg.corePage; omega

/-! ## TIDE_CTRL (R10, R11, R30, R32, R33) -/

theorem State.tideState_wbCtrl (s : State) (lo : Nat) (b : Bool) : (s.wb Reg.tideCtrl lo b).tideState = s.tideState :=
  State.tideState_w32 _ _ (by decide)

/-- EN 1 starts tide in ACQUIRE. -/
theorem State.tideEn_true_tideState {s : State} (h : s.tideState = 0) : (s.tideEn true).tideState = 1 := by
  have hoff : (s.wb Reg.tideCtrl 0 true).tideState = 0 := (s.tideState_wbCtrl 0 true).trans h
  rw [State.tideEn, if_pos rfl, if_pos hoff, State.modTide_tideState, State.tideState_setTideState _ (by omega)]

/-- EN 0 stops it in OFF. -/
theorem State.tideEn_false_tideState {s : State} (h : s.tideState ≠ 0) : (s.tideEn false).tideState = 0 := by
  have hon : (s.wb Reg.tideCtrl 0 false).tideState ≠ 0 := by rwa [State.tideState_wbCtrl]
  rw [State.tideEn, if_neg Bool.false_ne_true, if_neg hon]
  dsimp only
  rw [State.wb, State.tideState_wf _ (by omega), State.noUpstream_tideState, State.tideState_setTideState _ (by omega)]

theorem State.noUpstream_rb_tideCtrl (s : State) (b : Nat) : s.noUpstream.rb Reg.tideCtrl b = s.rb Reg.tideCtrl b := by
  simp [State.noUpstream, State.setUpstream, State.rb_wf]

/-- MASTER holds what was written. -/
theorem State.tideMaster_bit (s : State) (v : Bool) : (s.tideMaster v).rb Reg.tideCtrl 1 = v := by
  have hbit : (s.wb Reg.tideCtrl 1 v).rb Reg.tideCtrl 1 = v := by rw [State.rb_wb _ _ _ _ _ (by omega), if_pos rfl]
  unfold State.tideMaster
  dsimp only
  refine (apply_ite (fun u : State => u.rb Reg.tideCtrl 1) _ _ _).trans ?_
  rw [State.noUpstream_rb_tideCtrl, State.modTide_rb, State.modTide_rb, hbit, ite_self]

/-! ## Arming a step timer (R22) -/

@[simp] theorem State.stepTimer_setStepTimer (s : State) (n : Nat) (x : StepTimer) : (s.setStepTimer n x).stepTimer n = x :=
  Sparse.get_set_self ..

theorem State.stepTimer_congr {s t : State} (h : t.tide = s.tide) (n : Nat) : t.stepTimer n = s.stepTimer n := by
  rw [State.stepTimer, State.stepTimer, h]

theorem State.stepCtrl_stepTimer (s : State) (n : Nat) {v : Word} (h : v.getLsbD 0 = true) :
    (s.stepCtrl n v).stepTimer n = ⟨s.tick + 1, 0⟩ := by
  rw [State.stepCtrl, State.stepTimer_setStepTimer, if_pos h]
  rfl

theorem State.stepCtrl_low (s : State) (n : Nat) (v : Word) : (s.stepCtrl n v).rf (Reg.tideStepCtrl n) 0 8 = fld v 0 8 := by
  have hlt : fld v 0 8 < 2 ^ 8 := Nat.mod_lt _ (by decide)
  generalize hskip : (if fld v 16 8 = 0 then fld (s.r32 (Reg.tideStepCtrl n)) 16 8 else 0) = skipped
  have hr : (s.stepCtrl n v).r32 (Reg.tideStepCtrl n) = BitVec.ofNat 32 (fld v 0 8 + fld v 8 4 * 2 ^ 8 + skipped * 2 ^ 16) := by
    rw [State.stepCtrl, hskip, State.setStepTimer, State.modTide_r32, State.r32_w32_self]
  rw [State.rf, hr, fld_ofNat_lower _ 8 (by decide)]
  omega

/-! ## Starts (R22, R64) -/

/-- A timer's starts, all but one counted in SKIPPED and none left. -/
def State.stepCounted (s : State) (n : Nat) : State :=
  let x := s.stepTimer n
  (s.wf (Reg.tideStepCtrl n) 16 8 (min 255 (s.rf (Reg.tideStepCtrl n) 16 8 + (x.lost - 1)))).setStepTimer n { x with lost := 0 }

/-- Starts that raise an interrupt. -/
theorem State.stepFire_interrupt {s : State} {n : Nat} (h : 0 < (s.stepTimer n).lost) (ht : s.rb (Reg.tideStepCtrl n) 1 = true) :
    s.stepFire n = if (s.stepCounted n).released then (s.stepCounted n).emit (.srvIrq n) else s.stepCounted n := by
  have ht' : (s.r32 (Reg.tideStepCtrl n)).getLsbD 1 = true := ht
  rw [State.stepFire, if_neg (by omega), if_pos ht']
  rfl

/-- A timer's signal to one engine of its group. -/
def State.stepToken (t : Nat) (s : State) (e : Nat) : State := s.tokenArrive ⟨e, t, 1, false⟩

/-- Starts that signal the counters of a group. -/
theorem State.stepFire_counters {s : State} {n : Nat} (h : 0 < (s.stepTimer n).lost) (ht : s.rb (Reg.tideStepCtrl n) 1 = false) :
    s.stepFire n = (s.stepCounted n).each ((s.stepCounted n).groupEngines (s.rf (Reg.tideStepCtrl n) 8 4))
      (State.stepToken (s.rf (Reg.tideStepCtrl n) 2 6)) := by
  have ht' : ¬ (s.r32 (Reg.tideStepCtrl n)).getLsbD 1 = true := Bool.eq_false_iff.mp ht
  rw [State.stepFire, if_neg (by omega), if_neg ht']
  rfl

theorem State.stepCounted_r32 (s : State) (n : Nat) {off : Nat} (h : off / 4 ≠ 0x8C863 + 4 * n) :
    (s.stepCounted n).r32 off = s.r32 off := by
  rw [State.stepCounted, State.setStepTimer, State.modTide_r32, State.r32_wf_other _ _ _ _ _ _ (by rwa [Reg.tideStepCtrl_word])]

/-- SKIPPED counts the starts but one. -/
theorem State.stepCounted_skipped (s : State) (n : Nat) : (s.stepCounted n).rf (Reg.tideStepCtrl n) 16 8
    = min 255 (s.rf (Reg.tideStepCtrl n) 16 8 + ((s.stepTimer n).lost - 1)) := by
  refine (State.rf_wf_self s _ 16 8 _ (by omega)).trans (Nat.mod_eq_of_lt ?_)
  omega

theorem State.stepCounted_lost (s : State) (n : Nat) : ((s.stepCounted n).stepTimer n).lost = 0 := by
  rw [State.stepCounted, State.stepTimer_setStepTimer]

theorem State.groupEngines_lt {s : State} {k e : Nat} (h : e ∈ s.groupEngines k) : e < 256 :=
  List.mem_range.mp (List.mem_of_mem_filter h)

theorem State.groupEngines_nodup (s : State) (k : Nat) : (s.groupEngines k).Nodup := List.nodup_range.filter _

theorem State.stepCounted_groupEngines (s : State) {n k : Nat} (hk : k < 16) :
    (s.stepCounted n).groupEngines k = s.groupEngines k := by
  unfold State.groupEngines
  refine List.filter_congr fun e he => ?_
  have he := List.mem_range.mp he
  have hr : (s.stepCounted n).r32 (Reg.coreBgrpEng (e / 32) (k - 9)) = s.r32 (Reg.coreBgrpEng (e / 32) (k - 9)) :=
    s.stepCounted_r32 n (by rw [Reg.coreBgrpEng_word]; omega)
  rw [hr]

/-! ## Signals to token counters (R63, R64, R396, R450) -/

/-- Words of an engine's token counters, their errors and their overflows, by word index. -/
def counterWord (e i : Nat) : Prop := 0x400 * e + 0x80 ≤ i ∧ i < 0x400 * e + 0xC4

/-- A token writes the counters of its engine, and what the memory path writes. -/
theorem State.tokenAdd_r32 (s : State) {f : Flight} (hf : f.counter < 64) {off : Nat} (hp : pathWord (off / 4) = false)
    (hw : ¬ counterWord f.engine (off / 4)) : (s.tokenAdd f).r32 off = s.r32 off := by
  have hnma (u : State) (p src op : Nat) (ops : List Nat) (b : Nat) (poison : Bool) :
      (u.nma p src op ops b poison).1.r32 off = u.r32 off := State.r32_of_offPath (State.nma_offPath ..) hp
  have hbit {off' : Nat} (u : State) (h : counterWord f.engine (off' / 4)) (h' : counterWord f.engine ((off' + 4) / 4)) (b : Nat)
      (v : Bool) : (u.setBit64 off' b v).r32 off = u.r32 off := by
    have hne : off / 4 ≠ off' / 4 := fun he => hw (he ▸ h)
    have hne' : off / 4 ≠ (off' + 4) / 4 := fun he => hw (he ▸ h')
    rw [State.setBit64, State.w64, State.r32_w32, if_neg hne', State.r32_w32, if_neg hne]
  have herr (u : State) := hbit (off' := Reg.engTcErr f.engine) u
    (by unfold counterWord Reg.engTcErr Reg.engPage; omega) (by unfold counterWord Reg.engTcErr Reg.engPage; omega) f.counter true
  have hstuck (u : State) := hbit (off' := Reg.engTcStuck f.engine) u
    (by unfold counterWord Reg.engTcStuck Reg.engPage; omega) (by unfold counterWord Reg.engTcStuck Reg.engPage; omega) f.counter true
  have hcount (u : State) (v : Word) : (u.w32 (Reg.engTc f.engine f.counter) v).r32 off = u.r32 off := by
    rw [State.r32_w32, if_neg]
    rw [Reg.engTc_word]
    unfold counterWord at hw
    omega
  unfold State.tokenAdd
  dsimp only
  split_ifs <;> simp [State.jobsStored, hnma, herr, hstuck, hcount]

theorem State.tokenArrive_r32 (s : State) {f : Flight} (hf : f.counter < 64) {off : Nat} (hp : pathWord (off / 4) = false)
    (hw : ¬ counterWord f.engine (off / 4)) : (s.tokenArrive f).r32 off = s.r32 off := by
  unfold State.tokenArrive
  split
  · rfl
  · exact s.tokenAdd_r32 hf hp hw

@[simp] theorem State.tokenAdd_srv (s : State) (f : Flight) : (s.tokenAdd f).srv = s.srv := by
  have hnma (u : State) (p src op : Nat) (ops : List Nat) (b : Nat) (poison : Bool) :
      (u.nma p src op ops b poison).1.srv = u.srv := State.srv_of_offPath (State.nma_offPath ..)
  unfold State.tokenAdd
  dsimp only
  split_ifs <;> simp [State.setBit64, State.jobsStored, hnma]

@[simp] theorem State.tokenArrive_srv (s : State) (f : Flight) : (s.tokenArrive f).srv = s.srv := by
  unfold State.tokenArrive
  split
  · rfl
  · exact State.tokenAdd_srv s f

/-- A token at a counter that lies in its register and does not overflow. -/
theorem State.tokenAdd_counts {s : State} {e t n : Nat} (himg : s.tcImg e t = 0) (hstuck : s.tcStuck e t = false)
    (hlt : (s.r32 (Reg.engTc e t)).toNat + n < 2 ^ 32) :
    ((s.tokenAdd ⟨e, t, n, false⟩).r32 (Reg.engTc e t)).toNat = (s.r32 (Reg.engTc e t)).toNat + n := by
  have hadd : s.tokenAdd ⟨e, t, n, false⟩ =
      (s.w32 (Reg.engTc e t) (BitVec.ofNat 32 ((s.r32 (Reg.engTc e t)).toNat + n))).jobsStored ⟨e, t, n, false⟩ := by
    simp only [State.tokenAdd, himg, hstuck, hlt, ne_eq, not_true_eq_false, if_false, if_true, Bool.false_eq_true]
  rw [hadd, State.jobsStored, State.modXpt_r32, State.r32_w32_self, BitVec.toNat_ofNat, Nat.mod_eq_of_lt hlt]

/-- At duty 0 the signals to a group are held, in the order of its engines. -/
theorem State.each_stepToken_held (t : Nat) (l : List Nat) (s : State) (h : s.duty = 0) :
    (s.each l (State.stepToken t)).heldSignals = s.heldSignals ++ l.map fun e => ⟨e, t, 1, false⟩ := by
  induction l generalizing s with
  | nil => simp [State.each]
  | cons e l ih =>
    have hstep : State.stepToken t s e = { s with heldSignals := s.heldSignals ++ [⟨e, t, 1, false⟩] } := by
      rw [State.stepToken, State.tokenArrive, if_pos h]
    have hrest : (s.each (e :: l) (State.stepToken t)) = (State.stepToken t s e).each l (State.stepToken t) := rfl
    rw [hrest, ih _ (by rw [hstep]; exact h), hstep, List.map_cons, List.append_assoc, List.singleton_append]

/-- Signals to engines leave the words of every other one. -/
theorem State.each_stepToken_r32 {t : Nat} (ht : t < 64) {l : List Nat} (s : State) {off : Nat} (hp : pathWord (off / 4) = false)
    (hw : ∀ e ∈ l, ¬ counterWord e (off / 4)) : (s.each l (State.stepToken t)).r32 off = s.r32 off :=
  State.each_view (·.r32 off) _ l (fun s e he => s.tokenArrive_r32 (f := ⟨e, t, 1, false⟩) ht hp (hw e he)) s

theorem State.each_stepToken_tide (t : Nat) (l : List Nat) (s : State) : (s.each l (State.stepToken t)).tide = s.tide :=
  State.each_view State.tide _ l (fun s e _ => s.tokenArrive_tide ⟨e, t, 1, false⟩) s

/-- An engine's page says where its counters lie and which are stuck. -/
theorem State.tc_congr {s u : State} {e : Nat} (h : ∀ off, off / 0x1000 = e → u.r32 off = s.r32 off) (t : Nat) :
    u.tcImg e t = s.tcImg e t ∧ u.tcStuck e t = s.tcStuck e t := by
  have hpage (off : Nat) (hoff : off / 0x1000 = e) (hoff' : (off + 4) / 0x1000 = e) : u.r64 off = s.r64 off := by
    rw [State.r64, h off hoff, h _ hoff', State.r64]
  have himg0 := hpage (Reg.engTcImg0 e) (by unfold Reg.engTcImg0 Reg.engPage; omega) (by unfold Reg.engTcImg0 Reg.engPage; omega)
  have himg1 := hpage (Reg.engTcImg1 e) (by unfold Reg.engTcImg1 Reg.engPage; omega) (by unfold Reg.engTcImg1 Reg.engPage; omega)
  have hstuck := hpage (Reg.engTcStuck e) (by unfold Reg.engTcStuck Reg.engPage; omega) (by unfold Reg.engTcStuck Reg.engPage; omega)
  refine ⟨?_, by rw [State.tcStuck, hstuck, State.tcStuck]⟩
  unfold State.tcImg
  split
  · rw [himg0]
  · rw [himg1]

/-- Signals to other engines leave an engine's page and the duty. -/
theorem State.each_stepToken_other {t : Nat} (ht : t < 64) {l : List Nat} {e : Nat} (he : e < 256) (hl : ∀ x ∈ l, x < 256)
    (hne : ∀ x ∈ l, x ≠ e) (s : State) :
    (∀ off, off / 0x1000 = e → (s.each l (State.stepToken t)).r32 off = s.r32 off)
    ∧ (s.each l (State.stepToken t)).duty = s.duty := by
  refine ⟨fun off hoff => ?_, ?_⟩
  · refine State.each_stepToken_r32 ht s (pathWord_eq_false_of_lt (by omega)) fun x hx => ?_
    have hx := hne x hx
    unfold counterWord
    omega
  · have hpwr : (s.each l (State.stepToken t)).r32 Reg.pwrStat = s.r32 Reg.pwrStat := by
      refine State.each_stepToken_r32 ht s (by decide) fun x hx => ?_
      have hx := hl x hx
      unfold counterWord
      rw [Reg.pwrStat_word]
      omega
    rw [State.duty, State.rf, hpwr, State.duty, State.rf]

theorem State.each_append {α : Type} (s : State) (l m : List α) (f : State → α → State) :
    s.each (l ++ m) f = (s.each l f).each m f :=
  List.foldl_append ..

/-- A group's engine counts its signal, whatever the others count. -/
theorem State.each_stepToken_counts {s : State} {l : List Nat} (hnodup : l.Nodup) (hl : ∀ x ∈ l, x < 256) {e t : Nat} (he : e ∈ l)
    (ht : t < 64) (hduty : s.duty ≠ 0) (himg : s.tcImg e t = 0) (hstuck : s.tcStuck e t = false)
    (hlt : (s.r32 (Reg.engTc e t)).toNat + 1 < 2 ^ 32) :
    ((s.each l (State.stepToken t)).r32 (Reg.engTc e t)).toNat = (s.r32 (Reg.engTc e t)).toNat + 1 := by
  have he' := hl e he
  have hoff : Reg.engTc e t / 0x1000 = e := by unfold Reg.engTc Reg.engPage; omega
  obtain ⟨before, after, rfl⟩ := List.append_of_mem he
  obtain ⟨-, hafter, hbefore⟩ := List.nodup_append.mp hnodup
  obtain ⟨hregs, hduty'⟩ := State.each_stepToken_other ht he' (fun x hx => hl x (List.mem_append_left _ hx))
    (fun x hx => hbefore x hx e List.mem_cons_self) s
  obtain ⟨himg', hstuck'⟩ := State.tc_congr hregs t
  obtain ⟨hregs', -⟩ := State.each_stepToken_other ht he' (fun x hx => hl x (List.mem_append_right _ (List.mem_cons_of_mem e hx)))
    (fun x hx hxe => (List.nodup_cons.mp hafter).1 (hxe ▸ hx)) (State.stepToken t (s.each before (State.stepToken t)) e)
  have hsplit : s.each (before ++ e :: after) (State.stepToken t)
      = (State.stepToken t (s.each before (State.stepToken t)) e).each after (State.stepToken t) := State.each_append ..
  rw [hsplit, hregs' _ hoff, State.stepToken, State.tokenArrive, if_neg (by rwa [hduty']),
    State.tokenAdd_counts (by rw [himg', himg]) (by rw [hstuck', hstuck]) (by rwa [hregs _ hoff]), hregs _ hoff]

/-! ## The serving step (R374) -/

/-- The engines of a step are signalled: the serving state, tide and the registers above the engines' pages stay. -/
theorem State.stepSignal_keeps (s : State) : s.stepSignal.tide = s.tide ∧ s.stepSignal.srv = s.srv
    ∧ ∀ off, 0x40000 ≤ off / 4 → pathWord (off / 4) = false → s.stepSignal.r32 off = s.r32 off := by
  have hc (v : Word) : fld v 0 6 < 64 := Nat.mod_lt _ (by decide)
  refine ⟨?_, ?_, fun off hoff hp => ?_⟩
  · exact State.each_view State.tide _ _ (fun s e _ => State.tokenArrive_tide s _) s
  · exact State.each_view State.srv _ _ (fun s e _ => State.tokenArrive_srv s _) s
  · refine State.each_view (·.r32 off) _ _ (fun s e he => s.tokenArrive_r32 (hc _) hp ?_) s
    have he' : e < 256 := List.mem_range.mp (List.mem_of_mem_filter he)
    unfold counterWord
    dsimp only
    omega

/-- A step that has been built starts. -/
theorem State.stepStart_starts {s : State} (hr : s.running = true) (hl : s.srv.basket.live = true) (hs : s.srv.basket.start = none) :
    s.stepStart.tide = s.tide ∧ s.stepStart.srv.basket.start = some s.tick
    ∧ s.stepStart.r64 Reg.srvStepNum = s.r64 Reg.srvStepNum + 1 := by
  have heq : s.stepStart
      = ((s.modBasket fun b => { b with start := some s.tick }).w64 Reg.srvStepNum (s.r64 Reg.srvStepNum + 1)).stepSignal := by
    rw [State.stepStart, hr, hl, hs]
    rfl
  obtain ⟨htide, hsrv, hregs⟩ := State.stepSignal_keeps
    ((s.modBasket fun b => { b with start := some s.tick }).w64 Reg.srvStepNum (s.r64 Reg.srvStepNum + 1))
  rw [heq]
  refine ⟨htide, by rw [hsrv]; rfl, ?_⟩
  rw [State.r64, hregs _ (by decide) (by decide), hregs _ (by decide) (by decide), ← State.r64]
  exact State.r64_w64_self ..

/-! ## The statement -/

/-- An interrupt is only sent: the state is that of the count. -/
theorem State.stepFire_muted {s : State} {n : Nat} (h : 0 < (s.stepTimer n).lost) (ht : s.rb (Reg.tideStepCtrl n) 1 = true) :
    (s.stepFire n).muted = (s.stepCounted n).muted := by
  rw [State.stepFire_interrupt h ht]
  split <;> rfl

/-- What a start by interrupt shows of the registers is what the count leaves. -/
theorem State.stepFire_r32 {s : State} {n : Nat} (h : 0 < (s.stepTimer n).lost) (ht : s.rb (Reg.tideStepCtrl n) 1 = true) (off : Nat) :
    (s.stepFire n).r32 off = (s.stepCounted n).r32 off :=
  State.r32_congr ((congrArg State.regs (State.stepFire_muted h ht) :)) off

theorem State.stepFire_running {s : State} {n : Nat} (hn : n < 4) (h : 0 < (s.stepTimer n).lost)
    (ht : s.rb (Reg.tideStepCtrl n) 1 = true) : (s.stepFire n).running = s.running := by
  rw [State.running, State.rb, State.stepFire_r32 h ht, s.stepCounted_r32 n (by rw [Reg.srvStat_word]; omega), State.running, State.rb]

/-- The serving cores, where they run, get their interrupt. -/
theorem State.stepFire_srvIrq {s : State} {n : Nat} (hn : n < 4) (h : 0 < (s.stepTimer n).lost)
    (ht : s.rb (Reg.tideStepCtrl n) 1 = true) (hr : s.released = true) : .srvIrq n ∈ (s.stepFire n).out := by
  have hboot : (s.stepCounted n).r32 Reg.secBootStat = s.r32 Reg.secBootStat :=
    s.stepCounted_r32 n (by rw [Reg.secBootStat_word]; omega)
  have hr' : (s.stepCounted n).released = true := by
    rwa [State.released, State.bootState, State.rf, hboot, ← State.rf, ← State.bootState, ← State.released]
  rw [State.stepFire_interrupt h ht, if_pos hr', State.emit_out]
  exact List.mem_cons_self

/-- A timer that starts no serving step fires, and no more. -/
theorem State.performDue_fire {s : State} {n : Nat}
    (h : (s.stepFire n).stepStart = s.stepFire n ∨ n ≠ 0 ∨ s.rb (Reg.tideStepCtrl 0) 1 = false) :
    s.performDue (.stepTimer n) = s.stepFire n := by
  rw [State.performDue, State.when]
  split
  case isFalse => rfl
  case isTrue hc =>
    rw [Bool.and_eq_true, beq_iff_eq] at hc
    obtain ⟨hn, hserve⟩ := hc
    rcases h with h | h | h
    · exact h
    · exact absurd hn h
    · exact absurd hserve (by rw [h]; decide)

theorem State.performDue_interrupt {s : State} {n : Nat} (hn : n < 4) (h : 0 < (s.stepTimer n).lost)
    (ht : s.rb (Reg.tideStepCtrl n) 1 = true) (hr : n = 0 → s.running = false) : s.performDue (.stepTimer n) = s.stepFire n := by
  refine State.performDue_fire ?_
  by_cases h0 : n = 0
  · exact .inl (by rw [State.stepStart, State.stepFire_running hn h ht, hr h0]; rfl)
  · exact .inr (.inl h0)

theorem State.performDue_counters {s : State} {n : Nat} (ht : s.rb (Reg.tideStepCtrl n) 1 = false) :
    s.performDue (.stepTimer n) = s.stepFire n := by
  refine State.performDue_fire (.inr ?_)
  by_cases h0 : n = 0
  · exact .inr (h0 ▸ ht)
  · exact .inl h0

theorem State.performDue_serving {s : State} (ht : s.rb (Reg.tideStepCtrl 0) 1 = true) :
    s.performDue (.stepTimer 0) = (s.stepFire 0).stepStart := by
  rw [State.performDue, ht]
  rfl

/-- Settles O11: TIDE_CTRL's bits act on TIDE_STAT and on what is armed (`tideEn_true_tideState` and its like); a start that is due
counts the others in SKIPPED (`stepCounted_skipped`), and interrupts, starts the serving step (`stepStart_starts`) or signals each
engine of its group (`each_stepToken_counts`). -/
theorem tideControlsAndStepTimers : Obligations.TideControlsAndStepTimers := by
  unfold Obligations.TideControlsAndStepTimers
  refine ⟨?_, ?_, ?_, ?_, ?_, ?_, ?_, ?_, ?_, ?_, ?_⟩
  · exact fun s h hst => completes_run h (exec_tideEnWrite true s) (State.tideEn_true_tideState hst)
  · exact fun s h hst => completes_run h (exec_tideEnWrite false s) (State.tideEn_false_tideState hst)
  · exact fun s v h => completes_run h (exec_tideMasterWrite v s) (s.tideMaster_bit v)
  · intro s h hst
    refine completes_run h (exec_setLoad s) ?_
    rw [State.tideSetLoad, if_pos hst]
    rfl
  · intro s h hst hm
    refine completes_run h (exec_setLoad s) ?_
    rw [State.tideSetLoad, if_neg (by omega), if_pos ⟨hst, hm⟩]
    rfl
  · intro s h hst
    refine completes_run h (exec_rebase s) ?_
    rw [State.tideRebase, if_pos hst]
    exact s.tideState_setTideState (v := 1) (by omega)
  · intro s h hst hm
    refine completes_run h (exec_lock s) ?_
    rw [State.tideLock, if_pos ⟨hst, hm⟩]
    rfl
  · intro s n ctrl h hc
    exact completes_run h (exec_stepTimerArm n ctrl s) ⟨s.stepCtrl_stepTimer n.val hc, s.stepCtrl_low n.val ctrl⟩
  · intro s n h hu hl ht hr
    have hn := n.isLt
    have hl' : 0 < (s.undue.stepTimer n.val).lost := hl
    have ht' : s.undue.rb (Reg.tideStepCtrl n.val) 1 = true := ht
    have hdone : s.undue.performDue (.stepTimer n.val) = s.undue.stepFire n.val := State.performDue_interrupt n.isLt hl' ht' hr
    have hmuted := State.stepFire_muted hl' ht'
    refine completes_due h (fun _ => hu) (exec_stepTimerStart n s) ⟨dueDone_due .., ?_, fun hrel => ?_, ?_, ?_, ?_⟩
    · have htide : (s.dueDone (.stepTimer n.val)).tide = (s.undue.stepCounted n.val).tide := by
        rw [dueDone_tide, hdone]
        exact (congrArg State.tide hmuted :)
      rw [State.stepTimer_congr htide, State.stepCounted_lost]
    · exact dueDone_out s _ (hdone ▸ State.stepFire_srvIrq n.isLt hl' ht' hrel)
    · rw [dueDone_signals, hdone]
      exact (congrArg State.signals hmuted :)
    · rw [dueDone_heldSignals, hdone]
      exact (congrArg State.heldSignals hmuted :)
    · rw [dueDone_rf _ _ _ _ (by rw [Reg.tideStepCtrl_word]; unfold evtWord; omega), hdone, State.rf, State.stepFire_r32 hl' ht',
        ← State.rf, State.stepCounted_skipped]
      rfl
  · intro s h hu hl ht hr hlive hs
    have hl' : 0 < (s.undue.stepTimer 0).lost := hl
    have ht' : s.undue.rb (Reg.tideStepCtrl 0) 1 = true := ht
    have hdone : s.undue.performDue (.stepTimer 0) = (s.undue.stepFire 0).stepStart := State.performDue_serving ht'
    have hmuted := State.stepFire_muted hl' ht'
    have hsrv : (s.undue.stepFire 0).srv = s.srv := (congrArg State.srv hmuted :)
    have htide : (s.undue.stepFire 0).tide = (s.undue.stepCounted 0).tide := (congrArg State.tide hmuted :)
    have htick : (s.undue.stepFire 0).tick = s.tick := by rw [State.tick, htide]; rfl
    have hnum : (s.undue.stepFire 0).r64 Reg.srvStepNum = s.r64 Reg.srvStepNum := by
      rw [State.r64, State.stepFire_r32 hl' ht', State.stepFire_r32 hl' ht', State.stepCounted_r32 _ _ (by decide),
        State.stepCounted_r32 _ _ (by decide)]
      rfl
    have hrun : (s.undue.stepFire 0).running = true := (State.stepFire_running (by decide) hl' ht').trans hr
    obtain ⟨hstart, hbasket, hcount⟩ := State.stepStart_starts hrun (by rw [hsrv, hlive]) (by rw [hsrv, hs])
    refine completes_due h (fun _ => hu) (exec_stepTimerStart 0 s) ⟨dueDone_due .., ?_, ?_, ?_⟩
    · rw [State.stepTimer_congr (((dueDone_tide ..).trans (congrArg State.tide hdone)).trans (hstart.trans htide)),
        State.stepCounted_lost]
    · rw [dueDone_srv, hdone, hbasket, htick]
    · rw [dueDone_r64 _ _ (by unfold evtWord; decide) (by unfold evtWord; decide), hdone, hcount, hnum]
  · intro s n h hu hl ht
    have hl' : 0 < (s.undue.stepTimer n.val).lost := hl
    have ht' : s.undue.rb (Reg.tideStepCtrl n.val) 1 = false := ht
    have hdone : s.undue.performDue (.stepTimer n.val) = (s.undue.stepCounted n.val).each
        (s.groupEngines (s.rf (Reg.tideStepCtrl n.val) 8 4)) (State.stepToken (s.rf (Reg.tideStepCtrl n.val) 2 6)) := by
      rw [State.performDue_counters ht', State.stepFire_counters hl' ht', State.stepCounted_groupEngines _ (State.rf_lt ..)]
      rfl
    have hduty : (s.undue.stepCounted n.val).duty = s.duty := by
      rw [State.duty, State.rf, State.stepCounted_r32 _ _ (by rw [Reg.pwrStat_word]; omega)]
      rfl
    refine completes_due h (fun _ => hu) (exec_stepTimerStart n s)
      ⟨dueDone_due .., ?_, fun h0 => ?_, fun h0 e he himg hstuck hlt => ?_⟩
    · have htide : (s.dueDone (.stepTimer n.val)).tide = (s.undue.stepCounted n.val).tide := by
        rw [dueDone_tide, hdone, State.each_stepToken_tide]
      rw [State.stepTimer_congr htide, State.stepCounted_lost]
    · rw [dueDone_heldSignals, hdone, State.each_stepToken_held _ _ _ (hduty.trans h0)]
      rfl
    · have he' := State.groupEngines_lt he
      have hcounter : s.rf (Reg.tideStepCtrl n.val) 2 6 < 64 := State.rf_lt ..
      have hcounted (off : Nat) (hoff : off / 0x1000 = e) : (s.undue.stepCounted n.val).r32 off = s.r32 off :=
        (s.undue.stepCounted_r32 _ (by omega)).trans rfl
      have hoff : Reg.engTc e (s.rf (Reg.tideStepCtrl n.val) 2 6) / 0x1000 = e := by unfold Reg.engTc Reg.engPage; omega
      obtain ⟨himg', hstuck'⟩ := State.tc_congr hcounted (s.rf (Reg.tideStepCtrl n.val) 2 6)
      rw [dueDone_r32 _ _ (by rw [Reg.engTc_word]; unfold evtWord; omega), hdone,
        State.each_stepToken_counts (s.groupEngines_nodup _) (fun _ => State.groupEngines_lt) he hcounter (by rwa [hduty])
          (by rw [himg', himg]) (by rw [hstuck', hstuck]) (by rwa [hcounted _ hoff]), hcounted _ hoff]

end Sys2Proof.Machine
end

section
/-! SUPPORT. The statement about refused accesses and accesses that reach no page (R37, R39, R40, R43). -/
namespace Sys2Proof.Machine

/-- An access of a block page that is refused raises REG_ACCESS there. -/
theorem refuse_of_isPage (s : State) {off : Nat} (h : isPage off = true) :
    s.refuse off = s.raise (off / 0x1000) 1 10 (pageSrc (off / 0x1000)) := by
  rw [State.refuse, (not_window_of_isPage h).2, if_neg Bool.false_ne_true, show (Reg.page (off / 0x1000)).isSome = true from h]
  rfl

theorem State.each_raise (s : State) (l : List Nat) (bit cls : Nat) (src : Nat → Nat) :
    (s.each l fun s pn => s.raise pn bit cls (src pn)) = { s with evq := s.evq ++ l.map fun pn => ⟨pn, bit, cls, src pn⟩ } := by
  induction l generalizing s with
  | nil => simp [State.each]
  | cons pn l ih =>
    rw [State.each, List.foldl_cons, ← State.each, ih]
    simp [State.raise]

/-- An access of a blanket page that is refused raises REG_ACCESS in each page of the group. -/
theorem refuse_of_isBlanket (s : State) {off : Nat} (h : isBlanket off = true) :
    s.refuse off = { s with evq := s.evq ++ (s.blanketPages off).map fun pn => ⟨pn, 1, 10, pageSrc pn⟩ } := by
  rw [State.refuse, if_pos h, State.each_raise]

theorem regWrite_unmapped (s : State) (r : Requester) {a : RegAcc} (late : List Nat) (h : accessMapped a = false) :
    s.regWrite r a late = (s, false) := by
  simp [State.regWrite, h]

/-- A peer's write without the management key is refused (R40). -/
theorem regWrite_keyless (s : State) {r : Requester} {a : RegAcc} (late : List Nat) (hm : accessMapped a = true)
    (hk : s.keyed r = false) : s.regWrite r a late = (s.refuse a.off, false) := by
  simp [State.regWrite, hm, hk]

theorem accParts_word (off : Nat) (v : Word) : accParts { off := off, size := 4, data := v.setWidth 64 } = [(off, v)] := by
  simp [accParts]

/-- A write of four bytes that its requester may not make is refused (R39). -/
theorem pageWrite_word_refused (s : State) {r : Requester} {off : Nat} {k : Reg.Page} (v : Word) (hk : pageKind off = some k)
    (hn : needs64 k (off % 0x1000) = false) (hw : mayWrite r off = false) :
    s.pageWrite r { off := off, size := 4, data := v.setWidth 64 } = (s.refuse off, false) := by
  simp [State.pageWrite, hk, hn, accParts_word, hw, State.each, State.commitParts, shParts]

/-- A word that its requester may not write, and one that a keyless peer writes, raises REG_ACCESS in its page and is left. -/
theorem regWrite_word_refused (s : State) {r : Requester} {off : Nat} {k : Reg.Page × Nat} (v : Word)
    (hm : accessMapped { off := off, size := 4, data := v.setWidth 64 } = true) (hk : Reg.page (off / 0x1000) = some k)
    (hn : needs64 k.1 (off % 0x1000) = false) (hw : mayWrite r off = false ∨ s.keyed r = false) :
    s.regWrite r { off := off, size := 4, data := v.setWidth 64 } []
      = (s.raise (off / 0x1000) 1 10 (pageSrc (off / 0x1000)), false) := by
  have hkind : pageKind off = some k.1 := by rw [pageKind, hk]; rfl
  have hp := isPage_of_pageKind hkind
  rw [← refuse_of_isPage s hp]
  by_cases hkey : s.keyed r = true
  · have hw' : mayWrite r off = false := hw.resolve_right (by simp [hkey])
    rw [regWrite_of_isPage [] hm hp hkey, pageWrite_word_refused s v hkind hn hw']
  · exact regWrite_keyless s [] hm (Bool.not_eq_true _ ▸ hkey)

/-- Settles O14: a refused write raises REG_ACCESS in the page that it names (`regWrite_word_refused`) or in each page of the group
(`refuse_of_isBlanket`), and an access that is not mapped reaches nothing (`regWrite_unmapped`). -/
theorem refusedWritesChangeNothing : Obligations.RefusedWritesChangeNothing := by
  unfold Obligations.RefusedWritesChangeNothing
  refine ⟨?_, ?_, ?_⟩
  · intro s r off v k h hm hk hn hw
    exact completes_regWrite h (regWrite_word_refused s v hm hk hn hw) ⟨rfl, rfl, rfl, rfl, rfl, rfl⟩
  · intro s r a h hm hb hk
    refine completes_regWrite h (regWrite_keyless s [] hm hk) ?_
    rw [refuse_of_isBlanket s hb]
    exact ⟨rfl, rfl, rfl⟩
  · intro s r a h hm
    exact completes_regWrite_refused h (regWrite_unmapped s r [] hm)

end Sys2Proof.Machine
end

section
/-! SUPPORT. The statement about the shadow view (R45). -/
namespace Sys2Proof.Machine

/-! ## Reads -/

/-- An offset of a block page and its place in the shadow view lie in one page. -/
theorem isPage_shadow {off : Nat} (h : off % 0x1000 < 0x800) : isPage (off + 0x800) = isPage off := by
  rw [isPage, isPage, show (off + 0x800) / 0x1000 = off / 0x1000 by omega]

/-- The read of a word of a block page. -/
theorem anyRead_of_isPage (s : State) {off : Nat} (h : isPage off = true) : s.anyRead off = s.viewRead off := by
  obtain ⟨hd, hb⟩ := not_window_of_isPage h
  simp [State.anyRead, hd, hb]

/-- A word of the shadow view: that of the register, with the pending values of its SH fields. -/
theorem viewRead_shadow (s : State) {off : Nat} (h : off % 0x1000 < 0x800) : s.viewRead (off + 0x800) = ((s.wordRead off).1,
    match optAt s.commit.shadow (off / 4) with
    | some v => ((s.wordRead off).2 &&& ~~~(shMask (off / 4))) ||| (v &&& shMask (off / 4))
    | none => (s.wordRead off).2) := by
  rw [State.viewRead, if_neg (by omega), Nat.add_sub_cancel]
  dsimp only
  cases optAt s.commit.shadow (off / 4) <;> rfl

/-- The host's read of a word of the device's own half of the window is answered with its tag. -/
theorem completes_regRd {s : State} {off : Nat} (tag : BitVec 16) (h : Ready s) (hg : s.gp0Up = true) (hlt : off < regSpace)
    (hm : accessMapped { off := off, size := 4, data := 0 } = true) :
    Completes (.regRd tag off 4) s fun t => t.out = .regCpl tag 0 ((s.anyRead off).2.setWidth 64) :: (s.anyRead off).1.out := by
  refine completes_run h (exec_regRd tag off 4 s) ?_
  have hread : s.regRead { off := off, size := 4, data := 0 } = ((s.anyRead off).1, some ((s.anyRead off).2.setWidth 64)) := by
    rw [State.regRead, hm]
    rfl
  have hhalf : ¬ (regSpace ≤ off ∧ off < 2 * regSpace) := by omega
  simp only [Footprint.apply_out, State.hostRegRead, hg, Bool.not_true, Bool.false_eq_true, if_false, if_neg hhalf, hread]
  rfl

/-! ## Writes -/

theorem needs64_shadow {k : Reg.Page} {x : Nat} (h : 0x800 ≤ x) : needs64 k x = false := by
  cases k <;> simp only [needs64, beq_eq_false_iff_ne] <;> omega

/-- A word of the shadow view is not written. -/
theorem wordWrite_shadow (s : State) (r : Requester) {off : Nat} (v : Word) (h : 0x800 ≤ off % 0x1000) :
    s.wordWrite r off v = s := by
  have h10 : off % 0x1000 ≠ 0x10 := by omega
  have h3C : off % 0x1000 ≠ 0x3C := by omega
  have h100 : ¬ off % 0x1000 < 0x100 := by omega
  simp [State.wordWrite, h10, h3C, h100, h]

theorem wordAway_shadow (s : State) {off : Nat} (h : 0x800 ≤ off % 0x1000) : s.wordAway off = false := by
  have h3 : ¬ off % 0x1000 < 0x300 := by omega
  have h4 : ¬ off % 0x1000 < 0x480 := by omega
  simp [State.wordAway, h3, h4]

theorem shParts_shadow {off : Nat} (v : Word) (h : 0x800 ≤ off % 0x1000) : shParts [(off, v)] = [] := by
  simp [shParts, show ¬ off % 0x1000 < 0x800 by omega]

theorem regWrite_shadow {s : State} {r : Requester} {off : Nat} (v : Word) (hp : isPage off = true) (ha : off % 4 = 0)
    (hx : 0x800 ≤ off % 0x1000) (hw : mayWrite r off = true) (hk : s.keyed r = true) :
    s.regWrite r { off := off, size := 4, data := v.setWidth 64 } [] = (s, true) := by
  obtain ⟨k, hkind⟩ := pageKind_of_isPage hp
  rw [regWrite_of_isPage [] (accessMapped_of_isPage (.inl rfl) ha hp) hp hk]
  simp [State.pageWrite, hkind, needs64_shadow hx, accParts_word, hw, State.each, wordWrite_shadow s r v hx, wordAway_shadow s hx,
    State.commitParts, shParts_shadow v hx]

/-- Settles O15: a word read in the shadow view is the register's with its pending SH fields (`viewRead_shadow`), and a write there
reaches none (`wordWrite_shadow`). -/
theorem shadowView : Obligations.ShadowView := by
  unfold Obligations.ShadowView
  constructor
  · intro s tag off h hg hp ha hlt hx
    have hp' : isPage (off + 0x800) = true := (isPage_shadow hx).trans hp
    have hm : accessMapped { off := off + 0x800, size := 4, data := 0 } = true :=
      accessMapped_of_isPage (.inl rfl) (by dsimp only; omega) hp'
    have hread := completes_regRd tag h hg (lt_regSpace_of_isPage hp') hm
    rwa [anyRead_of_isPage s hp', viewRead_shadow s hx] at hread
  · intro s r off v h hp ha _ hx hw hk
    exact completes_regWrite h (regWrite_shadow v hp ha hx hw hk) ⟨rfl, rfl⟩

end Sys2Proof.Machine
end

section
/-! SUPPORT. The statement about register accesses and doorbells of the host (R41, R299, R300). -/
namespace Sys2Proof.Machine

/-- A write access of the host to the device's own half of the window, with its answer. -/
theorem completes_regWr {s u : State} {tag : BitVec 16} {a : RegAcc} {ok : Bool} {P : State → Prop} (h : Ready s)
    (hg : s.gp0Up = true) (hlt : a.off < regSpace) (hw : s.regWrite .host a [] = (u, ok))
    (hp : P (regFoot.apply s (u.regCpl tag ok 0 0))) : Completes (.regWr tag a) s P := by
  refine completes_run h (exec_regWr tag a s) ?_
  have hhalf : ¬ (regSpace ≤ a.off ∧ a.off < 2 * regSpace) := by omega
  simpa only [State.hostRegWrite, hg, Bool.not_true, Bool.false_eq_true, if_false, if_neg hhalf, hw] using hp

/-- A write access of the upper half of the window goes to the peer. -/
theorem hostRegWrite_forward {s : State} (tag : BitVec 16) {a : RegAcc} (hg : s.gp0Up = true) (hlo : regSpace ≤ a.off)
    (hhi : a.off < 2 * regSpace) : s.hostRegWrite tag a = s.forwardAccess tag true a := by
  simp [State.hostRegWrite, hg, hlo, hhi]

/-- A doorbell of a queue pair rings it with both of its words. -/
theorem doorbell_ring {s : State} {n : Nat} (hn : n < 65536) (data : Dword) (hg : s.gp0Up = true) :
    s.doorbell (0x280000 + 8 * n) data = s.within accessFoot (·.ring n true true data) := by
  have hd : isDoorbell (0x280000 + 8 * n) = true := by
    simp only [isDoorbell, Bool.and_eq_true, decide_eq_true_eq]
    omega
  have h8 : (0x280000 + 8 * n) % 8 = 0 := by omega
  have hm : accessMapped { off := 0x280000 + 8 * n, size := 8, data := data } = true := by
    have hlt : 0x280000 + 8 * n < regSpace := by unfold regSpace; omega
    simp [accessMapped, hd, hlt, h8]
  simp [State.doorbell, hg, hd, h8, State.regWrite, hm, State.keyed]

/-- A doorbell at an offset that has none raises an event of the link's page. -/
theorem doorbell_none {s : State} {off : Nat} (data : Dword) (hg : s.gp0Up = true) (hd : isDoorbell off = false)
    (ht : off ≠ Reg.srvCmdTail) : s.doorbell off data = s.raise gtxPn 1 10 264 := by
  simp [State.doorbell, hg, hd, ht]

/-- Settles O43, clause by clause: own reads and writes (`completes_regRd`, `completes_regWr`), the peer's half of the window
(`hostRegWrite_forward`), and doorbells (`doorbell_ring`, `doorbell_none`). -/
theorem hostAccesses : Obligations.HostAccesses := by
  unfold Obligations.HostAccesses
  refine ⟨?_, ?_, ?_, ?_, ?_, ?_⟩
  · intro s tag off h hg hlt hm
    exact completes_regRd tag h hg hlt hm
  · intro s tag a h hg hlt hm
    exact completes_regWr h hg hlt (regWrite_unmapped s .host [] hm) ⟨rfl, rfl⟩
  · intro s tag off v w h hg hm hp hx hc hl hw hi _
    refine completes_regWr h hg (lt_regSpace_of_isPage hp) (regWrite_header_word v hm hp hx hw rfl) ?_
    rw [wordWrite_header s .host v hx hc hl, plainWrite_eq_w32 s v hi]
    exact ⟨State.r32_w32_self .., rfl⟩
  · intro s tag a h hg hlo hhi
    refine completes_run h (exec_regWr tag a s) ?_
    rw [hostRegWrite_forward tag hg hlo hhi]
    exact ⟨rfl, rfl, rfl⟩
  · intro s n data h hg
    refine completes_run h (exec_doorbell _ data s) ?_
    rw [doorbell_ring n.isLt data hg]
    exact ⟨rfl, rfl⟩
  · intro s off data h hg hd ht
    refine completes_run h (exec_doorbell off data s) ?_
    rw [doorbell_none data hg hd ht]
    exact ⟨rfl, rfl⟩

end Sys2Proof.Machine
end

section
/-! SUPPORT. A write to a blanket page: the same write at the page of every member of its group (R49, R51). -/
namespace Sys2Proof.Machine

/-! ## Walks over the members of a group -/

theorem State.each_map {α β : Type} (s : State) (g : α → β) (l : List α) (f : State → β → State) :
    s.each (l.map g) f = s.each l fun s x => f s (g x) := List.foldl_map

/-- What the step of one member brings about, and the steps of the others keep, holds after the walk. -/
theorem State.each_reaches {α : Type} {P Q : State → Prop} {f : State → α → State} {l : List α} {x : α} (hx : x ∈ l)
    (hkeepQ : ∀ s, ∀ y ∈ l, Q s → Q (f s y)) (hset : ∀ s, Q s → P (f s x)) (hkeepP : ∀ s, ∀ y ∈ l, y ≠ x → P s → P (f s y))
    {s : State} (h : Q s) : P (s.each l f) := by
  induction l generalizing s with
  | nil => cases hx
  | cons y l ih =>
    have hl {z : α} (hz : z ∈ l) : z ∈ y :: l := List.mem_cons_of_mem y hz
    rw [State.each, List.foldl_cons, ← State.each]
    by_cases hxl : x ∈ l
    · exact ih hxl (fun s z hz => hkeepQ s z (hl hz)) (fun s z hz => hkeepP s z (hl hz)) (hkeepQ s y List.mem_cons_self h)
    · obtain rfl : x = y := (List.mem_cons.mp hx).resolve_right hxl
      exact State.each_keeps f l (fun s z hz => hkeepP s z (hl hz) fun he => hxl (he ▸ hz)) _ (hset s h)

/-! ## The write and its answer -/

/-- A write to a blanket page completes with what it makes of the group and with its answer. -/
theorem completes_blanketWrite {s u : State} {r : Requester} {a : RegAcc} {late : List Nat} {ok : Bool} {P : State → Prop}
    (h : Ready s) (hb : isBlanket a.off = true) (hw : s.regWrite r a late = (u, ok))
    (hp : P (regFoot.apply s (u.emit (.reg r ok 0)))) : Completes (.blanketWrite r a late) s P :=
  completes_run h (exec_blanketWrite r a late s) (by simpa only [State.blanketAccess, hb, if_true, State.writeAccess, hw] using hp)

theorem not_doorbell_of_isBlanket {off : Nat} (h : isBlanket off = true) : isDoorbell off = false := by
  simp only [isBlanket, isDoorbell, Bool.and_eq_true, Bool.and_eq_false_iff, decide_eq_true_eq, decide_eq_false_iff_not] at *
  omega

theorem accessMapped_of_isBlanket {a : RegAcc} (hs : a.size = 4 ∨ a.size = 8) (ha : a.off % a.size = 0)
    (hb : isBlanket a.off = true) : accessMapped a = true := by
  have hlt : a.off < regSpace := by
    simp only [isBlanket, Bool.and_eq_true, decide_eq_true_eq] at hb
    unfold regSpace
    omega
  simp [accessMapped, hs, ha, hb, hlt]

/-- A header word of a blanket page is written at every page of the group, in turn. -/
theorem regWrite_blanket_header {s : State} {r : Requester} {off : Nat} (v : Word) (late : List Nat) (hk : s.keyed r = true)
    (hb : isBlanket off = true) (ha : off % 4 = 0) (hx : off % 0x1000 < 0x100) :
    s.regWrite r { off := off, size := 4, data := v.setWidth 64 } late
      = (s.each (s.blanketPages off) fun s pn => s.wordWrite r (0x1000 * pn + off % 0x1000) v, true) := by
  have hm : accessMapped { off := off, size := 4, data := v.setWidth 64 } = true := accessMapped_of_isBlanket (.inl rfl) ha hb
  have hsh : ∀ w ∈ (s.blanketPages off).flatMap fun pn => [(0x1000 * pn + off % 0x1000, v)], shMask (w.1 / 4) = 0 := by
    intro w hw
    obtain ⟨pn, -, hw⟩ := List.mem_flatMap.mp hw
    obtain rfl := List.mem_singleton.mp hw
    exact shMask_header (by dsimp only; omega) (by dsimp only; omega)
  simp only [State.regWrite, hm, hk, not_doorbell_of_isBlanket hb, hb, State.groupWrite, needs64_header hx, accParts_word, List.map_cons,
    List.map_nil, commitParts_nil _ late hsh, Bool.not_true, Bool.false_eq_true, if_false, if_true]
  rfl

/-! ## A word of the common header -/

/-- What a write by the access codes of Table 0-1 makes of a word. -/
def writtenWord (off : Nat) (old v : Word) : Word :=
  match Reg.info off with
  | some w => ((old &&& ~~~w.rw) ||| (v &&& w.rw)) &&& ~~~(v &&& w.w1c)
  | none => old

theorem plainWrite_r32_self (s : State) (off : Nat) (v : Word) :
    (s.plainWrite off v).r32 off = writtenWord off (s.r32 off) v := by
  cases h : Reg.info off with
  | none => simp [State.plainWrite, writtenWord, h]
  | some w => rw [plainWrite_eq_w32 s v h, State.r32_w32_self, writtenWord, h]

theorem plainWrite_r32_other (s : State) {off o : Nat} (v : Word) (ho : o / 4 ≠ off / 4) :
    (s.plainWrite off v).r32 o = s.r32 o := by
  cases h : Reg.info off with
  | none => simp [State.plainWrite, h]
  | some w => rw [plainWrite_eq_w32 s v h, State.r32_w32, if_neg ho]

/-- A write by access codes raises no event and answers nothing. -/
theorem plainWrite_evq_out (s : State) (off : Nat) (v : Word) :
    (s.plainWrite off v).evq = s.evq ∧ (s.plainWrite off v).out = s.out := by
  cases h : Reg.info off with
  | none => simp [State.plainWrite, h]
  | some w => rw [plainWrite_eq_w32 s v h]; exact ⟨rfl, rfl⟩

/-- Written again with the same value a word stays. -/
theorem writtenWord_writtenWord (off : Nat) (old v : Word) : writtenWord off (writtenWord off old v) v = writtenWord off old v := by
  unfold writtenWord
  cases Reg.info off with
  | none => rfl
  | some w =>
    apply BitVec.eq_of_getLsbD_eq
    intro i hi
    simp only [BitVec.getLsbD_and, BitVec.getLsbD_or, BitVec.getLsbD_not, hi, decide_true, Bool.true_and]
    cases w.rw.getLsbD i <;> simp

/-- The word at x of the page of every member is written. -/
theorem each_plainWrite_member (s : State) {l : List Nat} {x pn : Nat} (v : Word) (h : pn ∈ l) :
    (s.each l fun s pn => s.plainWrite (0x1000 * pn + x) v).r32 (0x1000 * pn + x)
      = writtenWord (0x1000 * pn + x) (s.r32 (0x1000 * pn + x)) v := by
  have hother (u : State) {y : Nat} (hy : y ≠ pn) :
      (u.plainWrite (0x1000 * y + x) v).r32 (0x1000 * pn + x) = u.r32 (0x1000 * pn + x) :=
    plainWrite_r32_other u v (by omega)
  refine State.each_reaches h
    (Q := fun u => writtenWord (0x1000 * pn + x) (u.r32 (0x1000 * pn + x)) v
      = writtenWord (0x1000 * pn + x) (s.r32 (0x1000 * pn + x)) v)
    (fun u y _ hu => ?_) (fun u hu => (plainWrite_r32_self ..).trans hu) (fun u y _ hy hu => (hother u hy).trans hu) rfl
  by_cases hy : y = pn
  · rw [hy, plainWrite_r32_self, writtenWord_writtenWord, hu]
  · rw [hother u hy, hu]

/-- No other word is. -/
theorem each_plainWrite_other (s : State) {l : List Nat} {x o : Nat} (v : Word) (h : ∀ pn ∈ l, o / 4 ≠ (0x1000 * pn + x) / 4) :
    (s.each l fun s pn => s.plainWrite (0x1000 * pn + x) v).r32 o = s.r32 o :=
  State.each_view (·.r32 o) _ l (fun u pn hpn => plainWrite_r32_other u v (h pn hpn)) s

theorem each_plainWrite_evq_out (s : State) (l : List Nat) (x : Nat) (v : Word) :
    (s.each l fun s pn => s.plainWrite (0x1000 * pn + x) v).evq = s.evq
      ∧ (s.each l fun s pn => s.plainWrite (0x1000 * pn + x) v).out = s.out :=
  ⟨State.each_view State.evq _ l (fun u _ _ => (plainWrite_evq_out u _ v).1) s,
    State.each_view State.out _ l (fun u _ _ => (plainWrite_evq_out u _ v).2) s⟩

/-- A header word but BLK_CTRL and BLK_PROTO_LIMIT is written by its access codes at every page of the group. -/
theorem regWrite_blanket_plain {s : State} {r : Requester} {off : Nat} (v : Word) (late : List Nat) (hk : s.keyed r = true)
    (hb : isBlanket off = true) (ha : off % 4 = 0) (hx : off % 0x1000 < 0x100) (hc : off % 0x1000 ≠ 0x10) (hl : off % 0x1000 ≠ 0x3C) :
    s.regWrite r { off := off, size := 4, data := v.setWidth 64 } late
      = (s.each (s.blanketPages off) fun s pn => s.plainWrite (0x1000 * pn + off % 0x1000) v, true) := by
  have hstep (u : State) (pn : Nat) :
      u.wordWrite r (0x1000 * pn + off % 0x1000) v = u.plainWrite (0x1000 * pn + off % 0x1000) v :=
    wordWrite_header u r v (by omega) (by omega) (by omega)
  simp only [regWrite_blanket_header v late hk hb ha hx, hstep]

end Sys2Proof.Machine
end

section
/-! SUPPORT. A write of BLK_CTRL to the members of a blanket group (R51, R75, R234). -/
namespace Sys2Proof.Machine

/-! ## BLK_CTRL of one page: its marks, then EN -/

/-- What a write of BLK_CTRL makes of DEBUG and FLUSH_ON_FORCE; a 1 to DEBUG is ignored under the debug lock (R461). -/
def State.ctrlMarks (s : State) (pn : Nat) (v : Word) : State :=
  let s := if v.getLsbD 2 ∧ s.debugLock then s else s.wb (blkCtrl pn) 2 (v.getLsbD 2)
  let s := if v.getLsbD 2 ∧ !s.debugLock then s.modSec fun x => { x with debugSeen := true } else s
  if pn < 0x100 then s.wb (blkCtrl pn) 8 (v.getLsbD 8) else s

theorem ctrlWrite_eq (s : State) (pn : Nat) (v : Word) : s.ctrlWrite pn v = (s.ctrlMarks pn v).within unitFoot fun s =>
    if !pageHasEn pn then s
    else if v.getLsbD 0 then s.unitOn pn
    else if v.getLsbD 1 then (s.unitOff pn).unitForceOff pn else s.unitOff pn := rfl

theorem ctrlMarks_r32_other (s : State) {pn off : Nat} (v : Word) (h : off / 4 ≠ blkCtrl pn / 4) :
    (s.ctrlMarks pn v).r32 off = s.r32 off := by
  unfold State.ctrlMarks
  dsimp only
  split_ifs <;> simp [State.wb, State.r32_wf_other, h]

/-- The marks leave engines, pending forced disables and memory as they are. -/
theorem ctrlMarks_keeps (s : State) (pn : Nat) (v : Word) : (s.ctrlMarks pn v).engines = s.engines
    ∧ (s.ctrlMarks pn v).forced = s.forced ∧ (s.ctrlMarks pn v).mem = s.mem ∧ (s.ctrlMarks pn v).out = s.out := by
  unfold State.ctrlMarks
  dsimp only
  split_ifs <;> simp

/-- A unit whose EN is set stands enabled: ACTIVE, and not DRAINING. -/
def State.enabled (s : State) (pn : Nat) : State :=
  ((s.wb (blkCtrl pn) 0 true).wb (blkStat pn) 0 true).wb (blkStat pn) 1 false

theorem enabled_set (s : State) (pn : Nat) : (s.enabled pn).rb (blkCtrl pn) 0 = true ∧ (s.enabled pn).active pn = true := by
  have hne := blkCtrl_word_ne_blkStat pn
  simp [State.enabled, State.active, State.rb_wb_other, State.rb_wb, hne]

theorem enabled_r32_other (s : State) {pn off : Nat} (hc : off / 4 ≠ blkCtrl pn / 4) (hs : off / 4 ≠ blkStat pn / 4) :
    (s.enabled pn).r32 off = s.r32 off := by
  simp [State.enabled, State.wb, State.r32_wf_other, hc, hs]

theorem State.rb_of_r32 {s t : State} {off : Nat} (h : t.r32 off = s.r32 off) (b : Nat) : t.rb off b = s.rb off b := by
  rw [State.rb, State.rb, h]

theorem blkCtrl_word_ne {pn pn' : Nat} (h : pn' ≠ pn) : blkCtrl pn' / 4 ≠ blkCtrl pn / 4 := by unfold blkCtrl; omega
theorem blkStat_word_ne {pn pn' : Nat} (h : pn' ≠ pn) : blkStat pn' / 4 ≠ blkStat pn / 4 := by unfold blkStat; omega
theorem blkCtrl_word_ne_stat (pn pn' : Nat) : blkCtrl pn' / 4 ≠ blkStat pn / 4 := by unfold blkCtrl blkStat; omega

/-- BLK_CTRL of a blanket page is written at every page of the group. -/
theorem regWrite_blanket_ctrl {s : State} {r : Requester} {off : Nat} (v : Word) (late : List Nat) (hk : s.keyed r = true)
    (hb : isBlanket off = true) (hx : off % 0x1000 = 0x10) :
    s.regWrite r { off := off, size := 4, data := v.setWidth 64 } late
      = (s.each (s.blanketPages off) fun s pn => s.ctrlWrite pn v, true) := by
  have hstep (u : State) (pn : Nat) : u.wordWrite r (0x1000 * pn + off % 0x1000) v = u.ctrlWrite pn v := by
    rw [hx, ← wordWrite_ctrl u r pn v, blkCtrl]
  simp only [regWrite_blanket_header v late hk hb (by omega) (by omega), hstep]

/-! ## Engines -/

/-- A write of BLK_CTRL switches an engine, whatever it makes of its marks. -/
theorem ctrlWrite_enPage (s : State) {e : Nat} (he : e < 256) (v : Word) :
    s.ctrlWrite (enPage e) v = (s.ctrlMarks (enPage e) v).within unitFoot (·.engineSwitch e v) := by
  have hforce (t : State) : (t.engineOff e).unitForceOff (enPage e) = (t.engineOff e).engineForce e :=
    unitForceOff_engine _ he (by rw [engineOff_ctrl_bit t e (by omega), if_pos rfl])
  simp only [ctrlWrite_eq, State.unitOn, State.unitOff, pageHasEn, Reg.page_enPage he, Reg.hasEn, hforce, State.engineSwitch,
    Bool.not_true, Bool.false_eq_true, if_false]

theorem engineOn_r32_other (s : State) {e off : Nat} (hc : off / 4 ≠ blkCtrl (enPage e) / 4)
    (hs : off / 4 ≠ blkStat (enPage e) / 4) : (s.engineOn e).r32 off = s.r32 off := by
  cases hf : (s.engine e).forcePend
  · rw [State.r32_congr (engineOn_regs s e hf)]
    exact enabled_r32_other s hc hs
  · rw [engineOn_of_forcePend s e hf]

theorem engineOff_r32_other (s : State) {e off : Nat} (hc : off / 4 ≠ blkCtrl (enPage e) / 4)
    (hs : off / 4 ≠ blkStat (enPage e) / 4) : (s.engineOff e).r32 off = s.r32 off := by
  rw [State.engineOff, apply_ite (State.r32 · off)]
  simp [State.wb, State.r32_wf_other, hc, hs]

theorem engineOn_forcePend (s : State) (e e' : Nat) : ((s.engineOn e).engine e').forcePend = (s.engine e').forcePend := by
  unfold State.engineOn
  dsimp only
  split_ifs
  · rfl
  · rfl
  · by_cases he : e' = e
    · simp [State.engine, State.modEngine, he]
    · simp [State.engine, State.modEngine, he]

/-- A write of BLK_CTRL leaves every word but BLK_CTRL and BLK_STAT of the engine. -/
theorem ctrlWrite_enPage_r32_other (s : State) {e off : Nat} (he : e < 256) (v : Word)
    (hc : off / 4 ≠ blkCtrl (enPage e) / 4) (hs : off / 4 ≠ blkStat (enPage e) / 4) :
    (s.ctrlWrite (enPage e) v).r32 off = s.r32 off := by
  have hswitch (t : State) : (t.engineSwitch e v).r32 off = t.r32 off := by
    unfold State.engineSwitch
    split_ifs
    · exact engineOn_r32_other t hc hs
    · exact engineOff_r32_other t hc hs
    · exact engineOff_r32_other t hc hs
  rw [ctrlWrite_enPage s he, State.within, Footprint.apply_r32, if_pos (show unitFoot.regs = true from rfl), hswitch, ctrlMarks_r32_other s v hc]

/-- That of another engine leaves BLK_CTRL and BLK_STAT of an engine. -/
theorem ctrlWrite_enPage_other (s : State) {e e' : Nat} (he : e < 256) (v : Word) (h : e' ≠ e) :
    (s.ctrlWrite (enPage e) v).r32 (blkCtrl (enPage e')) = s.r32 (blkCtrl (enPage e'))
    ∧ (s.ctrlWrite (enPage e) v).r32 (blkStat (enPage e')) = s.r32 (blkStat (enPage e')) :=
  ⟨ctrlWrite_enPage_r32_other s he v (blkCtrl_word_ne h) (blkCtrl_word_ne_stat _ _),
    ctrlWrite_enPage_r32_other s he v (blkCtrl_word_ne_stat _ _).symm (blkStat_word_ne h)⟩

theorem ctrlWrite_enPage_out (s : State) {e : Nat} (he : e < 256) (v : Word) : (s.ctrlWrite (enPage e) v).out = s.out := by
  obtain ⟨-, -, -, hout⟩ := ctrlMarks_keeps s (enPage e) v
  rw [ctrlWrite_enPage s he, State.within, Footprint.apply_out, engineSwitch_out, hout]

/-- A write of 1 to EN leaves every forced disable of an engine as it is. -/
theorem ctrlWrite_enPage_forcePend (s : State) {e : Nat} (he : e < 256) {v : Word} (hv : v.getLsbD 0 = true) (e' : Nat) :
    ((s.ctrlWrite (enPage e) v).engine e').forcePend = (s.engine e').forcePend := by
  obtain ⟨heng, -⟩ := ctrlMarks_keeps s (enPage e) v
  have hmarks : (s.ctrlMarks (enPage e) v).engine e' = s.engine e' := by rw [State.engine, heng, State.engine]
  rw [ctrlWrite_enPage s he, State.within, Footprint.apply_engine, if_pos (show unitFoot.engines = true from rfl), State.engineSwitch, if_pos hv,
    engineOn_forcePend, hmarks]

/-- It enables an engine without a forced disable pending. -/
theorem ctrlWrite_enPage_on (s : State) {e : Nat} (he : e < 256) {v : Word} (hv : v.getLsbD 0 = true)
    (hf : (s.engine e).forcePend = false) : (s.ctrlWrite (enPage e) v).rb (blkCtrl (enPage e)) 0 = true
    ∧ (s.ctrlWrite (enPage e) v).active (enPage e) = true := by
  obtain ⟨heng, -⟩ := ctrlMarks_keeps s (enPage e) v
  have hmarks : ((s.ctrlMarks (enPage e) v).engine e).forcePend = false := by rw [State.engine, heng]; exact hf
  simpa [ctrlWrite_enPage s he, State.within, State.active, unitFoot] using engineSwitch_on (s.ctrlMarks (enPage e) v) e hv hmarks

/-- A write of 0 to EN disables an engine; an active one drains. -/
theorem ctrlWrite_enPage_off (s : State) {e : Nat} (he : e < 256) {v : Word} (hv : v.getLsbD 0 = false) :
    (s.ctrlWrite (enPage e) v).rb (blkCtrl (enPage e)) 0 = false
    ∧ (s.active (enPage e) = true → (s.ctrlWrite (enPage e) v).active (enPage e) = true
      ∧ (s.ctrlWrite (enPage e) v).draining (enPage e) = true) := by
  obtain ⟨hen, hdrain, -⟩ := engineSwitch_off (s.ctrlMarks (enPage e) v) e hv
  have hact : (s.ctrlMarks (enPage e) v).active (enPage e) = s.active (enPage e) :=
    State.rb_of_r32 (ctrlMarks_r32_other s v (blkCtrl_word_ne_blkStat (enPage e)).symm) 0
  rw [hact] at hdrain
  simpa [ctrlWrite_enPage s he, State.within, State.active, State.draining, unitFoot] using And.intro hen hdrain

theorem isBlanket_engines {k : Nat} (hk : k < 16) : isBlanket (0x300010 + 0x1000 * k) = true := by
  simp only [isBlanket, Bool.and_eq_true, decide_eq_true_eq]
  omega

theorem blanketPages_engines (s : State) {k : Nat} (hk : k < 16) :
    s.blanketPages (0x300010 + 0x1000 * k) = (s.groupEngines k).map enPage := by
  rw [State.blanketPages, if_pos (by omega), show (0x300010 + 0x1000 * k) / 0x1000 % 16 = k by omega]

/-- A write of BLK_CTRL to the blanket page of a group of engines, and its answer. -/
theorem regWrite_groupEngines_ctrl {s : State} {r : Requester} {k : Nat} (v : Word) (late : List Nat) (hkey : s.keyed r = true)
    (hk : k < 16) : s.regWrite r { off := 0x300010 + 0x1000 * k, size := 4, data := v.setWidth 64 } late
      = (s.each (s.groupEngines k) fun s e => s.ctrlWrite (enPage e) v, true) := by
  rw [regWrite_blanket_ctrl v late hkey (isBlanket_engines hk) (by omega), blanketPages_engines s hk, State.each_map]

section Engines
variable {s : State} {l : List Nat} (hl : ∀ e ∈ l, e < 256) (v : Word)
include hl

/-- Engines outside a group keep BLK_CTRL and BLK_STAT. -/
theorem each_ctrlWrite_enPage_other {e : Nat} (h : e ∉ l) :
    (s.each l fun s e => s.ctrlWrite (enPage e) v).r32 (blkCtrl (enPage e)) = s.r32 (blkCtrl (enPage e))
    ∧ (s.each l fun s e => s.ctrlWrite (enPage e) v).r32 (blkStat (enPage e)) = s.r32 (blkStat (enPage e)) := by
  have hstep (u : State) (x : Nat) (hx : x ∈ l) := ctrlWrite_enPage_other u (hl x hx) v (e' := e) fun he => h (he ▸ hx)
  exact ⟨State.each_view (·.r32 (blkCtrl (enPage e))) _ l (fun u x hx => (hstep u x hx).1) s,
    State.each_view (·.r32 (blkStat (enPage e))) _ l (fun u x hx => (hstep u x hx).2) s⟩

theorem each_ctrlWrite_enPage_out : (s.each l fun s e => s.ctrlWrite (enPage e) v).out = s.out :=
  State.each_view State.out _ l (fun u e he => ctrlWrite_enPage_out u (hl e he) v) s

variable {v}

/-- EN 1 enables every member that has no forced disable pending. -/
theorem each_ctrlWrite_enPage_on {e : Nat} (he : e ∈ l) (hv : v.getLsbD 0 = true) (hf : (s.engine e).forcePend = false) :
    (s.each l fun s e => s.ctrlWrite (enPage e) v).rb (blkCtrl (enPage e)) 0 = true
    ∧ (s.each l fun s e => s.ctrlWrite (enPage e) v).active (enPage e) = true := by
  refine State.each_reaches (P := fun u => u.rb (blkCtrl (enPage e)) 0 = true ∧ u.active (enPage e) = true)
    (Q := fun u => (u.engine e).forcePend = false) he (fun u x hx hu => ?_) (fun u hu => ?_) (fun u x hx hne hu => ?_) hf
  · rw [ctrlWrite_enPage_forcePend u (hl x hx) hv, hu]
  · exact ctrlWrite_enPage_on u (hl e he) hv hu
  · obtain ⟨hctrl, hstat⟩ := ctrlWrite_enPage_other u (hl x hx) v hne.symm
    rwa [State.active, State.rb_of_r32 hctrl, State.rb_of_r32 hstat]

/-- EN 0 disables every member, and one that is active drains. -/
theorem each_ctrlWrite_enPage_off {e : Nat} (he : e ∈ l) (hv : v.getLsbD 0 = false) :
    (s.each l fun s e => s.ctrlWrite (enPage e) v).rb (blkCtrl (enPage e)) 0 = false
    ∧ (s.active (enPage e) = true → (s.each l fun s e => s.ctrlWrite (enPage e) v).draining (enPage e) = true) := by
  refine State.each_reaches
    (P := fun u => u.rb (blkCtrl (enPage e)) 0 = false ∧ (s.active (enPage e) = true → u.draining (enPage e) = true))
    (Q := fun u => s.active (enPage e) = true → u.active (enPage e) = true) he
    (fun u x hx hu ha => ?_) (fun u hu => ?_) (fun u x hx hne hu => ?_) id
  · by_cases hne : e = x
    · subst hne
      exact ((ctrlWrite_enPage_off u (hl e hx) hv).2 (hu ha)).1
    · rw [State.active, State.rb_of_r32 (ctrlWrite_enPage_other u (hl x hx) v hne).2]
      exact hu ha
  · obtain ⟨hen, hdrain⟩ := ctrlWrite_enPage_off u (hl e he) hv
    exact ⟨hen, fun ha => (hdrain (hu ha)).2⟩
  · obtain ⟨hctrl, hstat⟩ := ctrlWrite_enPage_other u (hl x hx) v hne.symm
    rwa [State.draining, State.rb_of_r32 hctrl, State.rb_of_r32 hstat]

end Engines

/-! ## Channels -/

theorem Reg.page_chPage {ch : Nat} (h : ch < 4096) : Reg.page (chPage ch) = some (.stk, ch) := by
  unfold Reg.page chPage
  repeat rw [if_neg (by omega)]
  rw [if_pos (by omega), Nat.add_sub_cancel_left]

theorem State.groupChannels_lt {s : State} {k ch : Nat} (hk : k < 16) (h : ch ∈ s.groupChannels k) : ch < 4096 := by
  unfold State.groupChannels at h
  split_ifs at h
  · simp only [List.mem_map, List.mem_range] at h
    omega
  · exact List.mem_range.mp h
  · simp only [List.mem_flatMap, List.mem_map, List.mem_filter, List.mem_range] at h
    omega

/-- A channel that may be enabled: no forced disable of it is pending, and its traffic generator is idle. -/
def State.chanFree (s : State) (ch : Nat) : Prop := s.forced.contains (chPage ch) = false ∧ s.rb (Reg.stkStat ch) 0 = false

theorem stkStat_word_ne {ch ch' : Nat} : Reg.stkStat ch' / 4 ≠ blkCtrl (chPage ch) / 4
    ∧ Reg.stkStat ch' / 4 ≠ blkStat (chPage ch) / 4 := by
  unfold Reg.stkStat Reg.stkPage blkCtrl blkStat chPage
  omega

/-- A channel that may be enabled is, by a write of 1 to EN, where no write-back is owed. -/
theorem ctrlWrite_chPage_on {s : State} {ch : Nat} (hch : ch < 4096) {v : Word} (hv : v.getLsbD 0 = true) (hf : s.chanFree ch)
    (hw : s.mem.wbOwed = []) :
    s.ctrlWrite (chPage ch) v = (s.ctrlMarks (chPage ch) v).within unitFoot (·.enabled (chPage ch)) := by
  obtain ⟨hforced, hidle⟩ := hf
  obtain ⟨-, hmf, hmm, -⟩ := ctrlMarks_keeps s (chPage ch) v
  have hmarks : (s.ctrlMarks (chPage ch) v).rb (Reg.stkStat (chPage ch - 0x1000)) 0 = false := by
    rw [chPage, Nat.add_sub_cancel_left, ← chPage, State.rb_of_r32 (ctrlMarks_r32_other s v stkStat_word_ne.1), hidle]
  have hon : (s.ctrlMarks (chPage ch) v).memoryOn (chPage ch) = (s.ctrlMarks (chPage ch) v).enabled (chPage ch) := by
    rw [State.memoryOn, if_neg (by rw [hmf, hforced, hmarks]; simp), if_pos (by unfold chPage; omega), State.wbOwedLines]
    simp [hmm, hw, State.each, State.enabled]
  simp only [ctrlWrite_eq, State.unitOn, pageHasEn, Reg.page_chPage hch, Reg.hasEn, hv, Bool.not_true, Bool.false_eq_true, if_false,
    if_true, State.within, hon]

/-- The registers and the parts of the state that such a write leaves. -/
theorem ctrlWrite_chPage_keeps {s : State} {ch : Nat} (hch : ch < 4096) {v : Word} (hv : v.getLsbD 0 = true) (hf : s.chanFree ch)
    (hw : s.mem.wbOwed = []) :
    (∀ off, off / 4 ≠ blkCtrl (chPage ch) / 4 → off / 4 ≠ blkStat (chPage ch) / 4 → (s.ctrlWrite (chPage ch) v).r32 off = s.r32 off)
    ∧ (s.ctrlWrite (chPage ch) v).forced = s.forced ∧ (s.ctrlWrite (chPage ch) v).mem = s.mem
    ∧ (s.ctrlWrite (chPage ch) v).out = s.out := by
  obtain ⟨-, hmf, hmm, hmo⟩ := ctrlMarks_keeps s (chPage ch) v
  rw [ctrlWrite_chPage_on hch hv hf hw]
  refine ⟨fun off hc hs => ?_, hmf, hmm, hmo⟩
  rw [State.within, Footprint.apply_r32, if_pos (show unitFoot.regs = true from rfl), enabled_r32_other _ hc hs, ctrlMarks_r32_other s v hc]

theorem ctrlWrite_chPage_set {s : State} {ch : Nat} (hch : ch < 4096) {v : Word} (hv : v.getLsbD 0 = true) (hf : s.chanFree ch)
    (hw : s.mem.wbOwed = []) : (s.ctrlWrite (chPage ch) v).rb (blkCtrl (chPage ch)) 0 = true
    ∧ (s.ctrlWrite (chPage ch) v).active (chPage ch) = true := by
  simpa [ctrlWrite_chPage_on hch hv hf hw, State.within, State.active, unitFoot] using
    enabled_set (s.ctrlMarks (chPage ch) v) (chPage ch)

theorem isBlanket_channels {k : Nat} (hk : k < 16) : isBlanket (0x310010 + 0x1000 * k) = true := by
  simp only [isBlanket, Bool.and_eq_true, decide_eq_true_eq]
  omega

theorem blanketPages_channels (s : State) {k : Nat} (hk : k < 16) :
    s.blanketPages (0x310010 + 0x1000 * k) = (s.groupChannels k).map chPage := by
  rw [State.blanketPages, if_neg (by omega), show (0x310010 + 0x1000 * k) / 0x1000 % 16 = k by omega]

/-- A write of BLK_CTRL to the blanket page of a group of channels, and its answer. -/
theorem regWrite_groupChannels_ctrl {s : State} {r : Requester} {k : Nat} (v : Word) (late : List Nat) (hkey : s.keyed r = true)
    (hk : k < 16) : s.regWrite r { off := 0x310010 + 0x1000 * k, size := 4, data := v.setWidth 64 } late
      = (s.each (s.groupChannels k) fun s ch => s.ctrlWrite (chPage ch) v, true) := by
  rw [regWrite_blanket_ctrl v late hkey (isBlanket_channels hk) (by omega), blanketPages_channels s hk, State.each_map]

/-- What the enabling of a group of channels leaves: its members may still be enabled, memory and the outputs are as in s. -/
def ChansReady (s : State) (l : List Nat) (u : State) : Prop := (∀ ch ∈ l, u.chanFree ch) ∧ u.mem = s.mem ∧ u.out = s.out

section Channels
variable {s : State} {l : List Nat} (hl : ∀ ch ∈ l, ch < 4096) {v : Word} (hv : v.getLsbD 0 = true) (hw : s.mem.wbOwed = [])
include hl hv hw

theorem ctrlWrite_chansReady {u : State} {ch : Nat} (hch : ch ∈ l) (hu : ChansReady s l u) :
    ChansReady s l (u.ctrlWrite (chPage ch) v) := by
  obtain ⟨hfree, hmem, hout⟩ := hu
  obtain ⟨hr, hkf, hkm, hko⟩ := ctrlWrite_chPage_keeps (hl ch hch) hv (hfree ch hch) (by rw [hmem, hw])
  refine ⟨fun x hx => ?_, hkm.trans hmem, hko.trans hout⟩
  obtain ⟨hforced, hidle⟩ := hfree x hx
  obtain ⟨hc, hs⟩ := stkStat_word_ne (ch := ch) (ch' := x)
  exact ⟨by rw [hkf, hforced], by rw [State.rb_of_r32 (hr _ hc hs), hidle]⟩

/-- EN 1 enables every member of a group whose members may all be enabled. -/
theorem each_ctrlWrite_chPage_on {ch : Nat} (hch : ch ∈ l) (hf : ∀ ch ∈ l, s.chanFree ch) :
    (s.each l fun s ch => s.ctrlWrite (chPage ch) v).rb (blkCtrl (chPage ch)) 0 = true
    ∧ (s.each l fun s ch => s.ctrlWrite (chPage ch) v).active (chPage ch) = true := by
  refine (State.each_reaches
    (P := fun u => (u.rb (blkCtrl (chPage ch)) 0 = true ∧ u.active (chPage ch) = true) ∧ ChansReady s l u) (Q := ChansReady s l) hch
    (fun u x hx hu => ctrlWrite_chansReady hl hv hw hx hu) (fun u hu => ⟨?_, ctrlWrite_chansReady hl hv hw hch hu⟩)
    (fun u x hx hne hu => ⟨?_, ctrlWrite_chansReady hl hv hw hx hu.2⟩) ⟨hf, rfl, rfl⟩).1
  · obtain ⟨hfree, hmem, -⟩ := hu
    exact ctrlWrite_chPage_set (hl ch hch) hv (hfree ch hch) (by rw [hmem, hw])
  · obtain ⟨hset, hfree, hmem, -⟩ := hu
    have hne' : chPage ch ≠ chPage x := by unfold chPage; omega
    obtain ⟨hr, -⟩ := ctrlWrite_chPage_keeps (hl x hx) hv (hfree x hx) (by rw [hmem, hw])
    have hctrl := hr _ (blkCtrl_word_ne hne') (blkCtrl_word_ne_stat _ _)
    have hstat := hr _ (blkCtrl_word_ne_stat _ _).symm (blkStat_word_ne hne')
    rwa [State.active, State.rb_of_r32 hctrl, State.rb_of_r32 hstat]

theorem each_ctrlWrite_chansReady (hf : ∀ ch ∈ l, s.chanFree ch) :
    ChansReady s l (s.each l fun s ch => s.ctrlWrite (chPage ch) v) :=
  State.each_keeps _ l (fun _ _ hx hu => ctrlWrite_chansReady hl hv hw hx hu) s ⟨hf, rfl, rfl⟩

end Channels

/-! ## The statement -/

/-- Settles O16: a blanket write is the write of each member's page in turn (`regWrite_blanket_header`); what the step of one member
brings about, those of the others keep (`each_reaches`). -/
theorem blanketWriteReachesItsGroup : Obligations.BlanketWriteReachesItsGroup := by
  unfold Obligations.BlanketWriteReachesItsGroup
  refine ⟨?_, ?_, ?_, ?_⟩
  · intro s r off v late h hkey hb ha hx hc hl _
    refine completes_blanketWrite h hb (regWrite_blanket_plain v late hkey hb ha hx hc hl) ?_
    obtain ⟨hevq, hout⟩ := each_plainWrite_evq_out s (s.blanketPages off) (off % 0x1000) v
    exact ⟨fun pn hpn => each_plainWrite_member s v hpn, fun o ho => each_plainWrite_other s v ho,
      congrArg _ hout, hevq⟩
  · intro s r k v late h hkey hk hv hf
    have hl : ∀ e ∈ s.groupEngines k, e < 256 := fun _ => State.groupEngines_lt
    refine completes_blanketWrite h (isBlanket_engines hk) (regWrite_groupEngines_ctrl v late hkey hk) ?_
    exact ⟨fun e he => each_ctrlWrite_enPage_on hl he hv (hf e he), fun e _ he => each_ctrlWrite_enPage_other hl v he,
      congrArg _ (each_ctrlWrite_enPage_out hl v)⟩
  · intro s r k v late h hkey hk hv _
    have hl : ∀ e ∈ s.groupEngines k, e < 256 := fun _ => State.groupEngines_lt
    refine completes_blanketWrite h (isBlanket_engines hk) (regWrite_groupEngines_ctrl v late hkey hk) ?_
    exact ⟨fun e he => each_ctrlWrite_enPage_off hl he hv, fun e _ he => each_ctrlWrite_enPage_other hl v he,
      congrArg _ (each_ctrlWrite_enPage_out hl v)⟩
  · intro s r k v late h hkey hk hv hw hf
    have hl : ∀ ch ∈ s.groupChannels k, ch < 4096 := fun _ => State.groupChannels_lt hk
    obtain ⟨-, hmem, hout⟩ := each_ctrlWrite_chansReady hl hv hw hf
    refine completes_blanketWrite h (isBlanket_channels hk) (regWrite_groupChannels_ctrl v late hkey hk) ?_
    exact ⟨fun ch hch => each_ctrlWrite_chPage_on hl hv hw hch hf, hmem, congrArg _ hout⟩

end Sys2Proof.Machine
end

section
/-! SUPPORT. What commands leave alone: the security core at a boundary, and the ports in a QUANT task. -/
namespace Sys2Proof.Machine

/-! ## A boundary leaves the security core alone -/

theorem State.within_sec (s : State) {fp : Footprint} (f : State → State) (h : fp.sec = false) : (s.within fp f).sec = s.sec := by
  rw [State.within, Footprint.apply_sec, h, if_neg Bool.false_ne_true]

theorem State.performList_sec (s : State) (l rest : List Due) : (s.performList l rest).sec = s.sec := by
  have hdue := State.within_sec { s with due := [] } (fun s => s.each l State.performDue) (show dueFoot.sec = false from rfl)
  unfold State.performList
  dsimp only
  split
  · rw [State.within_sec _ _ rfl, hdue]
  · exact hdue

theorem State.settleTo_sec (s : State) (all : Bool) : (s.settleTo all).sec = s.sec := by
  unfold State.settleTo
  dsimp only
  rw [apply_ite State.sec, State.performList_sec, ite_self]

theorem State.endTick_sec (s : State) : s.endTick.sec = s.sec := by
  rw [State.endTick, State.within_sec _ _ rfl, State.settleTo_sec, State.within_sec _ _ rfl, State.settleFirm, State.settleTo_sec]

theorem State.tripSample_sec (s : State) : s.tripSample.sec = s.sec := by
  unfold State.tripSample
  split <;> rfl

theorem State.powerTick_sec (s : State) (p : Nat) : (s.powerTick p).sec = s.sec := by
  simp [State.powerTick]

/-- Every part of a boundary is within a footprint without the security core, or the power controller's own. -/
theorem State.boundary_sec (s : State) (v power : Nat) (jump : Bool) : (s.boundary v power jump).sec = s.sec := by
  have hgather (u : State) (l : List Due) :
      (if l.isEmpty then u.within { regs := true, ports := true } State.gather else { u with due := l }).sec = u.sec := by
    split
    · exact State.within_sec _ _ rfl
    · rfl
  unfold State.boundary
  dsimp only
  rw [hgather, State.within_sec _ _ rfl, State.within_sec _ _ rfl, State.within_sec _ _ rfl, State.powerTick_sec,
    State.within_sec _ _ rfl, State.within_sec _ _ rfl, State.tripSample_sec, State.within_sec _ _ rfl, State.within_sec _ _ rfl,
    State.within_sec _ _ rfl, State.endTick_sec]

theorem State.tickBoundary_sec (s : State) (power : Nat) : (s.tickBoundary power).sec = s.sec := by
  unfold State.tickBoundary
  split
  · rfl
  · exact State.boundary_sec ..

theorem State.tideJump_sec (s : State) (master : Nat) : (s.tideJump master).sec = s.sec := by
  unfold State.tideJump
  dsimp only
  split_ifs
  · rfl
  · exact State.boundary_sec ..
  · exact State.boundary_sec ..
  · rfl

/-! ## A QUANT task leaves the ports alone -/

theorem State.consume_ports (s : State) (e : Nat) (d : Desc) : (s.consume e d).ports = s.ports := by
  rw [State.consume, State.each_view State.ports _ _ fun u k _ => State.wf_ports ..,
    State.each_view State.ports _ _ fun u w _ => State.w32_ports ..]

theorem State.slotConflict_ports (s : State) (e q : Nat) (d : Desc) (mask : BitVec 32) :
    (s.slotConflict e q d mask).ports = s.ports := by
  unfold State.slotConflict
  split
  · split <;> rfl
  · rfl

theorem State.adoptTask_ports (s s0 : State) (t : Nat × Nat × Word) (d : Desc) : (s.adoptTask s0 t d).ports = s.ports := by
  unfold State.adoptTask
  split <;> rfl

theorem State.enterTask_ports (s r : State) (e q : Nat) (t : Task) : (s.enterTask r e q t).ports = r.ports := rfl

/-- A task whose unit, and the naming of whose destinations, leave the ports alone leaves them alone. -/
theorem State.startTask_ports (s : State) (e q : Nat) (o : Op) (slots : Engine → Desc → BitVec 32)
    {dests : State → Nat → Nat → Desc → State × List Dest} {perform : State → Nat → Nat → Desc → Done}
    (hdests : ∀ s e q d, (dests s e q d).1.ports = s.ports) (hperform : ∀ s e q d, (perform s e q d).s.ports = s.ports) :
    (s.startTask e q o slots dests perform).ports = s.ports := by
  have hgiven (d : Desc) (mask : BitVec 32) : ((s.consume e d).slotConflict e q d mask).ports = s.ports := by
    rw [State.slotConflict_ports, State.consume_ports]
  unfold State.startTask
  split
  · rfl
  · split
    · rfl
    · rw [State.enterTask_ports, State.adoptTask_ports]
      split_ifs
      · rw [hdests, hgiven]
      · exact hgiven ..
      · rw [hperform, hgiven]

theorem State.numFlags_ports (s : State) (e : Nat) (f : Flags) : (s.numFlags e f).ports = s.ports := by
  unfold State.numFlags State.raiseIf
  dsimp only
  split <;> rfl

theorem performQuant_ports (s : State) (e q : Nat) (d : Desc) : (performQuant s e q d).s.ports = s.ports := by
  unfold performQuant
  dsimp only
  split
  · rfl
  · exact State.numFlags_ports ..

/-- A footprint's ports are of no account to an operation that leaves them alone. -/
theorem run_without_ports (fp : Footprint) {f : State → State} (s : State) (h : ∀ s, (f s).ports = s.ports) :
    run fp f s = run { fp with ports := false } f s := by
  have happly : fp.apply s.ready_ (f s.ready_) = { fp with ports := false : Footprint }.apply s.ready_ (f s.ready_) := by
    simp only [Footprint.apply, h, ite_self, Bool.false_eq_true]
  rw [run, run, happly]

end Sys2Proof.Machine
end

section
/-! SUPPORT. The statement about the units that a command does not reach. -/
namespace Sys2Proof.Machine

/-- The units that the command c does not reach are in t as they are in s. -/
def UnitsKept (c : Instr) (s t : State) : Prop :=
  (reachesTide c = false → t.tide = s.tide ∧ t.commit = s.commit)
  ∧ (reachesEngines c = false → t.engines = s.engines)
  ∧ (reachesMem c = false → t.mem = s.mem)
  ∧ (reachesLinks c = false → t.ports = s.ports)
  ∧ (reachesXpt c = false → t.xpt = s.xpt)
  ∧ (reachesSrv c = false → t.srv = s.srv)
  ∧ (reachesPwr c = false → t.pwr = s.pwr)
  ∧ (reachesSec c = false → t.sec = s.sec)

/-- A footprint names only units that the command c reaches. -/
def Footprint.onlyReached (fp : Footprint) (c : Instr) : Bool :=
  (!(fp.tide || fp.commit) || reachesTide c) && (!fp.engines || reachesEngines c) && (!fp.mem || reachesMem c)
    && (!fp.ports || reachesLinks c) && (!fp.xpt || reachesXpt c) && (!fp.srv || reachesSrv c) && (!fp.pwr || reachesPwr c)
    && (!fp.sec || reachesSec c)

theorem unitsKept_of_keeps {fp : Footprint} {c : Instr} {s t : State} (hf : fp.onlyReached c = true) (h : Keeps fp s t) :
    UnitsKept c s t := by
  simp only [Footprint.onlyReached, Bool.and_eq_true, Bool.or_eq_true, Bool.not_eq_true', Bool.or_eq_false_iff] at hf
  obtain ⟨⟨⟨⟨⟨⟨⟨htide, heng⟩, hmem⟩, hports⟩, hxpt⟩, hsrv⟩, hpwr⟩, hsec⟩ := hf
  have out {b r : Bool} (hor : b = false ∨ r = true) (hr : r = false) : b = false := hor.resolve_right (by simp [hr])
  refine ⟨fun hr => ?_, fun hr => h.engines (out heng hr), fun hr => h.mem (out hmem hr), fun hr => h.ports (out hports hr),
    fun hr => h.xpt (out hxpt hr), fun hr => h.srv (out hsrv hr), fun hr => h.pwr (out hpwr hr), fun hr => h.sec (out hsec hr)⟩
  obtain ⟨ht, hc⟩ := htide.resolve_right (by simp [hr])
  exact ⟨h.tide ht, h.commit hc⟩

theorem unitsKept_self (c : Instr) (s : State) : UnitsKept c s s :=
  unitsKept_of_keeps (fp := {}) rfl (Keeps.refl {} s)

/-- With nothing due a command performed within a footprint keeps to it. -/
theorem keeps_of_run {fp : Footprint} {f : State → State} {s t : State} (hd : s.due = []) (h : run fp f s = .next t) :
    Keeps fp s t := by
  rw [run, State.ready_eq s hd] at h
  split at h
  · cases h; exact keeps_apply fp s (f s)
  · cases h; exact Keeps.refl fp s

theorem keeps_of_runFirm {fp : Footprint} {f : State → State} {s t : State} (hd : s.due = []) (h : runFirm fp f s = .next t) :
    Keeps fp s t := by
  rw [runFirm, State.readyFirm_eq s hd] at h
  split at h
  · cases h; exact keeps_apply fp s (f s)
  · cases h; exact Keeps.refl fp s

section
variable {c : Instr} {fp : Footprint} {f : State → State} {s t : State}

theorem unitsKept_of_run (he : run fp f s = .next t) (hf : fp.onlyReached c = true) (hd : s.due = []) : UnitsKept c s t :=
  unitsKept_of_keeps hf (keeps_of_run hd he)

theorem unitsKept_of_runFirm (he : runFirm fp f s = .next t) (hf : fp.onlyReached c = true) (hd : s.due = []) : UnitsKept c s t :=
  unitsKept_of_keeps hf (keeps_of_runFirm hd he)

/-- With nothing due there is no piece of due work to perform. -/
theorem unitsKept_of_due {d : Due} (he : runWhole (fun s => s.due_ d) s = .next t) (hd : s.due = []) : UnitsKept c s t := by
  have hdue : s.due_ d = s := by simp [State.due_, hd]
  rw [runWhole, hdue, ite_self] at he
  obtain rfl : s = t := Host.Outcome.next.inj he
  exact unitsKept_self c s

/-- A command that reaches every unit but the security core. -/
theorem unitsKept_of_sec (he : runWhole f s = .next t) (hsec : ∀ s, (f s).sec = s.sec)
    (hr : [reachesTide, reachesEngines, reachesMem, reachesLinks, reachesXpt, reachesSrv, reachesPwr].all (· c) = true) :
    UnitsKept c s t := by
  have hkept : t.sec = s.sec := by
    unfold runWhole at he
    split at he
    · cases he; exact hsec s
    · cases he; rfl
  simp only [List.all_cons, List.all_nil, Bool.and_true, Bool.and_eq_true] at hr
  obtain ⟨htide, heng, hmem, hports, hxpt, hsrv, hpwr⟩ := hr
  simp [UnitsKept, htide, heng, hmem, hports, hxpt, hsrv, hpwr, hkept]

end

/-- A command that reaches every unit leaves none to keep. -/
theorem unitsKept_of_reached {c : Instr} (s t : State) (hr : [reachesTide, reachesEngines, reachesMem, reachesLinks, reachesXpt,
    reachesSrv, reachesPwr, reachesSec].all (· c) = true) : UnitsKept c s t := by
  simp only [List.all_cons, List.all_nil, Bool.and_true, Bool.and_eq_true] at hr
  obtain ⟨htide, heng, hmem, hports, hxpt, hsrv, hpwr, hsec⟩ := hr
  simp [UnitsKept, htide, heng, hmem, hports, hxpt, hsrv, hpwr, hsec]

/-- Every command leaves the units that it does not reach, by how it is performed: a boundary reaches all but the security core, due work
there is none of, and any other keeps to its footprint, a QUANT task to that of its unit without the ports. -/
theorem unitsKept {c : Instr} {s t : State} (hd : s.due = []) (he : exec c s = .next t) : UnitsKept c s t := by
  cases c with
  | tickBoundary power =>
    rw [exec_tickBoundary] at he
    exact unitsKept_of_sec he (fun s => s.tickBoundary_sec _) rfl
  | tideJump master =>
    rw [exec_tideJump] at he
    exact unitsKept_of_sec he (fun s => s.tideJump_sec _) rfl
  | warmReset | resetAssert | resetRelease | powerRemoval | powerUp => exact unitsKept_of_reached s t rfl
  | stepTimerStart | modeCommit | unitLateCommit | mixedTimeout | forcedDisableEngine | forcedDisableChannel | forcedDisablePort
  | delayedAck | qpCancel =>
    dsimp only [exec] at he
    exact unitsKept_of_due he hd
  | submit | cancel | park | resume | draft | adapterLoad | adapterRetire | budget | query | fence | basketBuild | rowCompletion
  | weightReloadComplete | swapComplete | restoreComplete | thermosMovesComplete | pageRelease | thermosExpiry | thermosRelease
  | ttftDeadlineExpiry | contextBlocked =>
    dsimp only [exec] at he
    exact unitsKept_of_runFirm he rfl hd
  | quant e q =>
    rw [exec_quant, run_without_ports _ _ fun s => State.startTask_ports s _ _ _ _ (fun _ _ _ _ => rfl) performQuant_ports] at he
    exact unitsKept_of_run he rfl hd
  | _ =>
    dsimp only [exec] at he
    exact unitsKept_of_run he rfl hd

/-- Settles O31: what `unitsKept` says of every command. -/
theorem commandsKeepToTheirUnits : Obligations.CommandsKeepToTheirUnits := by
  unfold Obligations.CommandsKeepToTheirUnits
  exact fun c s t hd he => unitsKept hd he

end Sys2Proof.Machine
end

section
/-! SUPPORT. What an access of a unit leaves of the engines: their scratchpads and accumulators, with their marks, stay as they are;
only translation caches change. -/
namespace Sys2Proof.Machine

open Sys2Proof

/-- The scratchpad and the accumulator of an engine, with their marks. -/
def Engine.stores (g : Engine) : List Host.Cell × Sparse Bool × Sparse Word × Sparse SlotMeta :=
  (g.spad, g.spadPoison, g.acc, g.slots)

/-- Those of every engine. -/
def State.stores (s : State) (e : Nat) : List Host.Cell × Sparse Bool × Sparse Word × Sparse SlotMeta := (s.engine e).stores

theorem sameUnits_iff {r t : State} {e : Nat} : SameUnits r t e ↔ t.stores e = r.stores e := by
  simp [SameUnits, State.stores, Engine.stores]

theorem State.stores_congr {s t : State} (h : t.engines = s.engines) : t.stores = s.stores := by
  funext e
  rw [State.stores, State.stores, State.engine, State.engine, h]

/-- A change of an engine that leaves its memories leaves those of every engine. -/
theorem State.modEngine_stores (s : State) (e : Nat) {f : Engine → Engine} (h : (f (s.engine e)).stores = (s.engine e).stores) :
    (s.modEngine e f).stores = s.stores := by
  funext e'
  by_cases he : e' = e
  · subst he
    rw [State.stores, State.modEngine_self, h, State.stores]
  · have hother : (s.modEngine e f).engine e' = s.engine e' := (Sparse.get_set ..).trans (if_neg he)
    rw [State.stores, hother, State.stores]

/-- A walk whose every step leaves what a view shows of the state leaves it. -/
theorem foldl_view {α β γ : Type} (view : State → γ) (f : State × β → α → State × β)
    (h : ∀ a x, view (f a x).1 = view a.1) (l : List α) (a : State × β) : view (l.foldl f a).1 = view a.1 := by
  induction l generalizing a with
  | nil => rfl
  | cons x l ih => rw [List.foldl_cons, ih, h]

/-- What a view shows stays where both branches leave it. -/
theorem view_ite {β : Type} {view : State → β} {c : Prop} [Decidable c] {u v : State} (h : view v = view u) :
    view (if c then v else u) = view u := by
  split
  · exact h
  · rfl

@[simp] theorem Footprint.of_moveFoot_stores {α : Type} (s : State) (r : State × α) : (moveFoot.of s r).1.stores = r.1.stores :=
  State.stores_congr rfl

@[simp] theorem State.modMem_stores (s : State) (f : Mem → Mem) : (s.modMem f).stores = s.stores := rfl
@[simp] theorem State.count_stores (s : State) (off n : Nat) : (s.count off n).stores = s.stores := State.stores_congr (s.count_engines off n)
@[simp] theorem State.brineErr_stores (s : State) : s.brineErr.stores = s.stores := State.stores_congr (s.count_engines _ _)
@[simp] theorem State.markIssued_stores (s s0 : State) (f : Lower → Lower) : (s.markIssued s0 f).stores = s.stores := rfl
@[simp] theorem State.countBytes_stores (s : State) (src ctx kind n : Nat) : (s.countBytes src ctx kind n).stores = s.stores := rfl
@[simp] theorem State.walkKeep_stores (s : State) (w : WalkEntry) : (s.walkKeep w).stores = s.stores := rfl

@[simp] theorem State.lineRead_stores (s : State) (space off src hint : Nat) : (s.lineRead space off src hint).1.stores = s.stores := rfl
@[simp] theorem State.lineWrite_stores (s : State) (space off src hint : Nat) (b : List Byte) (poison : Bool) :
    (s.lineWrite space off src hint b poison).1.stores = s.stores := rfl
@[simp] theorem State.spanRead_stores (s : State) (space off n src hint : Nat) : (s.spanRead space off n src hint).1.stores = s.stores :=
  State.stores_congr ((spanRead_keeps ..).engines rfl)
theorem State.engines_of_offPath {s t : State} (h : t.offPath = s.offPath) : t.engines = s.engines := (congrArg State.engines h : _)

@[simp] theorem State.nma_stores (s : State) (p src op : Nat) (ops : List Nat) (b : Nat) (poison : Bool) :
    (s.nma p src op ops b poison).1.stores = s.stores :=
  State.stores_congr (State.engines_of_offPath (State.nma_offPath ..))

@[simp] theorem State.dmaRead_stores (s : State) (o src n a : Nat) : (s.dmaRead o src n a).stores = s.stores := by
  unfold State.dmaRead
  dsimp only
  split <;> rfl

@[simp] theorem State.hostRead_stores (s : State) (o src n : Nat) : (s.hostRead o src n).1.stores = s.stores := by
  unfold State.hostRead
  split
  · rfl
  · split
    · rfl
    · dsimp only
      split_ifs <;> exact State.dmaRead_stores ..

@[simp] theorem State.xlFault_stores (s : State) (a : Acc) (write : Bool) (reason va : Nat) :
    (s.xlFault a write reason va).stores = s.stores := by
  have h : (s.xlFault a write reason va).engines = s.engines := by
    unfold State.xlFault
    split
    · rfl
    · rw [State.w64_engines, State.w64_engines]
  exact State.stores_congr h

/-! ## Translation (R244 to R249) -/

@[simp] theorem State.xlInstall_stores (s : State) (x : Xlator) (t : XEntry) : (s.xlInstall x t).stores = s.stores := by
  cases x with
  | none => rfl
  | some e => exact State.modEngine_stores s e rfl

@[simp] theorem State.walkLevels_stores (s : State) (x : Xlator) (ctx va : Nat) (levels : List Nat) (table : Nat) :
    (s.walkLevels x ctx va levels table).1.stores = s.stores := by
  induction levels generalizing s table with
  | nil => rfl
  | cons l rest ih =>
    unfold State.walkLevels
    dsimp only
    split_ifs <;> simp [ih]

@[simp] theorem State.walk_stores (s : State) (x : Xlator) (ctx va : Nat) : (s.walk x ctx va).1.stores = s.stores := by
  unfold State.walk
  dsimp only
  generalize hu : (if walker x < 8 then s.count (Reg.coreWalkCnt (walker x)) 1 else s) = u
  have hs : u.stores = s.stores := by
    rw [← hu]
    split <;> simp
  generalize s.r32 (Reg.coreCtxRoot (if walker x = 8 then 0 else walker x) ctx) = root
  split
  · exact hs
  · repeat' split
    all_goals simp [hs]

@[simp] theorem State.brineHdr_stores (s : State) (space off : Nat) : (s.brineHdr space off).1.stores = s.stores := by
  simp [State.brineHdr]

@[simp] theorem State.translate_stores (s : State) (x : Xlator) (ctx va : Nat) : (s.translate x ctx va).1.stores = s.stores := by
  unfold State.translate
  rw [Footprint.of_moveFoot_stores]
  split
  · simp
  · dsimp only
    split_ifs
    · simp
    · simp
    · split
      · split <;> simp
      · simp
    · simp

/-! ## Brine blocks (R264 to R270) -/

@[simp] theorem State.brineDecode_stores (s : State) (space off dataOff total b : Nat) :
    (s.brineDecode space off dataOff total b).1.stores = s.stores := by
  unfold State.brineDecode
  dsimp only
  split_ifs
  · simp
  · simp
  · simp
  · simp
  · simp
  · dsimp only
    rw [foldl_view State.stores]
    · simp
    · exact fun _ _ => State.spanRead_stores ..
  · simp
  · split <;> simp

@[simp] theorem State.brineCached_stores (s : State) (space off dataOff total b : Nat) :
    (s.brineCached space off dataOff total b).1.stores = s.stores := by
  unfold State.brineCached
  dsimp only
  split
  · simp
  · split <;> simp

/-! ## Accesses through a virtual address -/

@[simp] theorem State.vRead_stores (s : State) (a : Acc) (va n hint : Nat) : (s.vRead a va n hint).1.stores = s.stores := by
  unfold State.vRead
  dsimp only
  rw [Footprint.of_moveFoot_stores]
  split_ifs <;> simp

@[simp] theorem State.vPlace_stores (s : State) (a : Acc) (va : Nat) (write : Bool) : (s.vPlace a va write).1.stores = s.stores := by
  unfold State.vPlace
  dsimp only
  split_ifs <;> simp

@[simp] theorem State.vStore_stores (s : State) (a : Acc) (va : Nat) (nma : Bool) : (s.vStore a va nma).1.stores = s.stores := by
  unfold State.vStore
  dsimp only
  split_ifs <;> simp

@[simp] theorem State.kvDesc_stores (s : State) (a : Acc) (va : Nat) : (s.kvDesc a va).1.stores = s.stores := by
  unfold State.kvDesc
  dsimp only
  split_ifs <;> simp

@[simp] theorem State.appendPlan_stores (s : State) (a : Acc) (t : TileOp) (layer head : Nat) (row : AppendRow) :
    (s.appendPlan a t layer head row).1.stores = s.stores := by
  unfold State.appendPlan
  dsimp only
  split
  · simp
  · split
    · simp
    · split
      · simp
      · split
        · simp
        · refine iteInduction (motive := fun r : State × Nat × Nat × Option AppendPlan => r.1.stores = s.stores) (fun _ => ?_) (fun _ => ?_)
          all_goals
            refine (foldl_view State.stores _ (fun acc va => ?_) _ _).trans (by simp)
            split <;> simp

/-! ## The destinations of a task that is not performed (Table 4-11) -/

@[simp] theorem State.imageDests_stores (s : State) (a : Acc) (va n : Nat) : (s.imageDests a va n).1.stores = s.stores := by
  unfold State.imageDests
  refine foldl_view State.stores _ (fun acc i => ?_) _ _
  dsimp only
  split <;> simp

@[simp] theorem State.rangePlaces_stores (s : State) (a : Acc) (va n : Nat) : (s.rangePlaces a va n).1.stores = s.stores := by
  unfold State.rangePlaces
  refine foldl_view State.stores _ (fun acc p => ?_) _ _
  dsimp only
  split <;> simp

@[simp] theorem State.rangeDests_stores (s : State) (a : Acc) (va n : Nat) : (s.rangeDests a va n).1.stores = s.stores :=
  State.rangePlaces_stores ..

theorem tileSaveDests_stores (s : State) (e q : Nat) (d : Desc) : (tileSaveDests s e q d).1.stores = s.stores :=
  State.imageDests_stores ..

theorem appendDests_stores (s : State) (e q : Nat) (d : Desc) : (appendDests s e q d).1.stores = s.stores := by
  unfold appendDests
  dsimp only
  split
  · rfl
  · refine foldl_view State.stores _ (fun acc r => ?_) _ _
    split
    · rfl
    · split <;> simp

theorem storeDests_stores (s : State) (e q : Nat) (d : Desc) : (storeDests s e q d).1.stores = s.stores := by
  unfold storeDests
  refine foldl_view State.stores _ (fun acc r => ?_) _ _
  exact State.rangeDests_stores ..

theorem copyDests_stores (s : State) (e q : Nat) (d : Desc) : (copyDests s e q d).1.stores = s.stores := by
  unfold copyDests
  dsimp only
  split <;> simp

theorem packDests_stores (s : State) (e q : Nat) (d : Desc) : (packDests s e q d).1.stores = s.stores :=
  State.rangeDests_stores ..

end Sys2Proof.Machine
end

section
/-! SUPPORT. The start of a task: what is in flight after it, with what its unit made of it. -/
namespace Sys2Proof.Machine

open Sys2Proof

/-! ## Registers of a queue -/

@[simp] theorem Reg.engQTail_word (e q : Nat) : Reg.engQTail e q / 4 = 0x400 * e + 0x43 + 8 * q := by
  unfold Reg.engQTail Reg.engPage; omega
@[simp] theorem Reg.engQHead_word (e q : Nat) : Reg.engQHead e q / 4 = 0x400 * e + 0x44 + 8 * q := by
  unfold Reg.engQHead Reg.engPage; omega
@[simp] theorem Reg.engQDone_word (e q : Nat) : Reg.engQDone e q / 4 = 0x400 * e + 0x45 + 8 * q := by
  unfold Reg.engQDone Reg.engPage; omega
@[simp] theorem Reg.engQStat_word (e q : Nat) : Reg.engQStat e q / 4 = 0x400 * e + 0x46 + 8 * q := by
  unfold Reg.engQStat Reg.engPage; omega
@[simp] theorem Reg.engQNote_word (e q : Nat) : Reg.engQNote e q / 4 = 0x400 * e + 0x47 + 8 * q := by
  unfold Reg.engQNote Reg.engPage; omega
@[simp] theorem Reg.engMvStat_word (e : Nat) : Reg.engMvStat e / 4 = 0x400 * e + 0x1FC := by
  unfold Reg.engMvStat Reg.engPage; omega

/-- The counts of a queue's tasks change ENG_QSTAT and ENG_MV_STAT only. -/
theorem State.qCounts_r32 (s : State) (e q off : Nat) (hq : off / 4 ≠ 0x400 * e + 0x46 + 8 * q) (hm : off / 4 ≠ 0x400 * e + 0x1FC) :
    (s.qCounts e q).r32 off = s.r32 off := by
  rw [State.qCounts, State.r32_wf_other _ _ _ _ _ _ (by simpa using hm), State.r32_wf_other _ _ _ _ _ _ (by simpa using hq)]

/-! ## The head enters the tasks in flight -/

theorem State.enterTask_head (s r : State) {e q : Nat} (hq : q < 4) (k : Task) :
    (s.enterTask r e q k).r32 (Reg.engQHead e q) = s.r32 (Reg.engQHead e q) + 1 := by
  rw [State.enterTask, State.qCounts_r32 _ _ _ _ (by rw [Reg.engQHead_word]; omega) (by rw [Reg.engQHead_word]; omega)]
  exact State.r32_w32_self ..

theorem State.enterTask_engine (s r : State) (e q : Nat) (k : Task) :
    ((s.enterTask r e q k).engine e).tasks = (s.engine e).tasks ++ [k] ∧ (s.enterTask r e q k).stores e = r.stores e := by
  have h (f : Engine → Engine) (n m : Nat) (u : State) : (((u.modEngine e f).wf (Reg.engQStat e q) 0 4 n).wf (Reg.engMvStat e) 0 3 m).engine e
      = f (u.engine e) := u.modEngine_self e f
  rw [State.stores, State.enterTask, State.qCounts, h]
  exact ⟨rfl, rfl⟩

@[simp] theorem State.adoptTask_stores (s s0 : State) (t : Nat × Nat × Word) (d : Desc) : (s.adoptTask s0 t d).stores = s.stores := by
  unfold State.adoptTask
  split <;> rfl

@[simp] theorem State.consume_stores (s : State) (e : Nat) (d : Desc) : (s.consume e d).stores = s.stores := by
  refine State.stores_congr ?_
  rw [State.consume, State.each_view State.engines _ _ fun u k _ => State.wf_engines ..,
    State.each_view State.engines _ _ fun u w _ => State.w32_engines ..]

@[simp] theorem State.slotConflict_stores (s : State) (e q : Nat) (d : Desc) (mask : BitVec 32) :
    (s.slotConflict e q d mask).stores = s.stores := by
  unfold State.slotConflict
  split
  · split <;> rfl
  · rfl

theorem given_stores (s : State) (e q : Nat) (d : Desc) (mask : BitVec 32) : (given s e q d mask).stores = s.stores := by
  rw [given, State.slotConflict_stores, State.consume_stores]

/-! ## The three ways in which a head starts (R66, R68, R116) -/

section
variable {s : State} {e q : Nat} {d : Desc} {o : Op} {slots : Engine → Desc → BitVec 32}
  {dests : State → Nat → Nat → Desc → State × List Dest} {perform : State → Nat → Nat → Desc → Done}

/-- In t, the head of the queue of s has entered as k, with the descriptor's own index and slots, and its unit has left the engine's memories
as they are in r. -/
theorem inFlight_enterTask {fp : Footprint} {r : State} {k : Task} (hr : fp.regs = true) (he : fp.engines = true) (hq : q < 4)
    (hqueue : k.queue = q) (hindex : k.index = s.r32 (Reg.engQHead e q)) (hdone : k.done = false) :
    InFlight s e q k.desc k.slots k (fp.apply s (s.enterTask r e q k)) ∧ SameUnits r (fp.apply s (s.enterTask r e q k)) e := by
  obtain ⟨htasks, hstores⟩ := s.enterTask_engine r e q k
  have hsame : (fp.apply s (s.enterTask r e q k)).engine e = (s.enterTask r e q k).engine e := by
    rw [State.engine, Footprint.apply_engines, he, if_pos rfl, State.engine]
  refine ⟨⟨?_, ?_, hqueue, hindex, rfl, hdone, rfl⟩, ?_⟩
  · rw [Footprint.apply_r32, hr, if_pos rfl, s.enterTask_head r hq]
  · rw [hsame, htasks]
  · rw [sameUnits_iff, State.stores, hsame]
    exact hstores

/-- What has been made of a head when it has started: nothing where a wait of it meets an error or where it waits for a slot, else what its
unit makes of it. -/
def State.madeAtStart (s : State) (e q : Nat) (d : Desc) (mask : BitVec 32) (dests : State → Nat → Nat → Desc → State × List Dest)
    (perform : State → Nat → Nat → Desc → Done) : Done :=
  if d.waits.any (s.waitErr e) then { s := (dests (given s e q d mask) e q d).1, st := stTokenErr, dests := (dests (given s e q d mask) e q d).2 }
  else if !d.waits.any (s.waitErr e) && slotsTaken s e d mask then { s := given s e q d mask, st := stOk, dests := [] }
  else perform (given s e q d mask) e q d

/-- A head that starts joins the tasks in flight with what has been made of it. -/
theorem startTask_startable (hs : Startable s e q d o) {r : Done} (hmade : s.madeAtStart e q d (slots (s.engine e) d) dests perform = r) :
    ∃ k : Task, s.startTask e q o slots dests perform = s.enterTask (r.s.adoptTask s (e, q, s.r32 (Reg.engQHead e q)) d) e q k
      ∧ k.queue = q ∧ k.index = s.r32 (Reg.engQHead e q) ∧ k.desc = d ∧ k.done = false ∧ k.slots = slots (s.engine e) d
      ∧ k.status = r.st ∧ k.dests = r.dests ∧ k.counts = r.counts ∧ k.owed = r.owed
      ∧ k.held = (!d.waits.any (s.waitErr e) && slotsTaken s e d (slots (s.engine e) d)) := by
  obtain ⟨-, hhead, hready, hop, hinv⟩ := hs
  subst hmade
  unfold State.startTask
  rw [hhead]
  dsimp only
  rw [if_neg (by simp [hready, hop, hinv])]
  refine ⟨_, rfl, ?_⟩
  exact ⟨rfl, rfl, rfl, rfl, rfl, rfl, rfl, rfl, rfl, rfl⟩

/-- The same within a footprint: the task k is in flight, and the engine's memories are as they are in r. -/
theorem inFlight_startTask {fp : Footprint} (hr : fp.regs = true) (he : fp.engines = true) (hq : q < 4) (hs : Startable s e q d o)
    {r : Done} (hmade : s.madeAtStart e q d (slots (s.engine e) d) dests perform = r) :
    (∃ k : Task, InFlight s e q d (slots (s.engine e) d) k (fp.apply s (s.startTask e q o slots dests perform))
      ∧ k.status = r.st ∧ k.dests = r.dests ∧ k.counts = r.counts ∧ k.owed = r.owed
      ∧ k.held = (!d.waits.any (s.waitErr e) && slotsTaken s e d (slots (s.engine e) d)))
    ∧ SameUnits r.s (fp.apply s (s.startTask e q o slots dests perform)) e := by
  obtain ⟨k, hk, hqueue, hindex, rfl, hdone, hslots, hrest⟩ := startTask_startable hs hmade
  obtain ⟨hin, hunits⟩ := inFlight_enterTask (k := k) (r := r.s.adoptTask s (e, q, s.r32 (Reg.engQHead e q)) k.desc) hr he hq hqueue hindex hdone
  rw [hk, ← hslots]
  refine ⟨⟨k, hin, by rwa [hslots]⟩, ?_⟩
  rwa [sameUnits_iff, State.adoptTask_stores, ← sameUnits_iff] at hunits

end

/-- A command that starts tasks of operation o within a footprint that holds registers and engines starts them as `StartsAs` says. -/
theorem startsAs_of_exec {c : Fin 256 → Fin 4 → Instr} {o : Op} {slots : Engine → Desc → BitVec 32} {fp : Footprint}
    {dests : State → Nat → Nat → Desc → State × List Dest} {perform : State → Nat → Nat → Desc → Done}
    (hr : fp.regs = true) (he : fp.engines = true)
    (hc : ∀ e q s, exec (c e q) s = run fp (fun s => s.startTask e.val q.val o slots dests perform) s) : StartsAs c o slots perform := by
  rintro s e q d mask hs herr rfl
  refine ⟨fun hfree => completes_run hs.1 (hc e q s) ?_, fun htaken => completes_run hs.1 (hc e q s) ?_⟩
  · have hmade : s.madeAtStart e q d (slots (s.engine e) d) dests perform = perform (given s e q d (slots (s.engine e) d)) e q d := by
      simp [State.madeAtStart, herr, hfree]
    obtain ⟨⟨k, hin, hst, hdests, hcounts, howed, hheld⟩, hunits⟩ := inFlight_startTask hr he q.isLt hs hmade
    exact ⟨⟨k, hin, hst, hdests, hcounts, howed, by simpa [herr, hfree] using hheld⟩, hunits⟩
  · have hmade : s.madeAtStart e q d (slots (s.engine e) d) dests perform
        = { s := given s e q d (slots (s.engine e) d), st := stOk, dests := [] } := by
      simp [State.madeAtStart, herr, htaken]
    obtain ⟨⟨k, hin, -, -, -, -, hheld⟩, hunits⟩ := inFlight_startTask hr he q.isLt hs hmade
    refine ⟨⟨k, hin, by simpa [herr, htaken] using hheld⟩, ?_⟩
    rwa [sameUnits_iff, given_stores, ← sameUnits_iff] at hunits

/-- And where a wait meets an error, and naming the destinations leaves the engine's memories alone, as `NotPerformedAs` says. -/
theorem notPerformedAs_of_exec {c : Fin 256 → Fin 4 → Instr} {o : Op} {slots : Engine → Desc → BitVec 32} {fp : Footprint}
    {dests : State → Nat → Nat → Desc → State × List Dest} {perform : State → Nat → Nat → Desc → Done}
    (hr : fp.regs = true) (he : fp.engines = true) (hdests : ∀ s e q d, (dests s e q d).1.stores = s.stores)
    (hc : ∀ e q s, exec (c e q) s = run fp (fun s => s.startTask e.val q.val o slots dests perform) s) : NotPerformedAs c o slots := by
  intro s e q d hs herr
  refine completes_run hs.1 (hc e q s) ?_
  have hmade : s.madeAtStart e q d (slots (s.engine e) d) dests perform = _ := if_pos herr
  obtain ⟨⟨k, hin, hst, -, -, -, hheld⟩, hunits⟩ := inFlight_startTask hr he q.isLt hs hmade
  refine ⟨⟨k, hin, hst, by simpa [herr] using hheld⟩, ?_⟩
  rwa [sameUnits_iff, hdests, given_stores, ← sameUnits_iff] at hunits

/-- Settles O20: every operation of the vector unit is started by `startTask`, within registers and engines. -/
theorem vectorTasksStart : Obligations.VectorTasksStart := by
  unfold Obligations.VectorTasksStart
  refine ⟨?_, ?_, ?_, ?_, ?_, ?_, ?_, ?_, ?_, ?_⟩
  · exact startsAs_of_exec rfl rfl exec_chain
  · exact startsAs_of_exec rfl rfl exec_permute
  · exact startsAs_of_exec rfl rfl exec_shuffle
  · exact startsAs_of_exec rfl rfl exec_pack
  · exact startsAs_of_exec rfl rfl exec_unpack
  · exact startsAs_of_exec rfl rfl exec_rotary
  · exact startsAs_of_exec rfl rfl exec_topk
  · exact startsAs_of_exec rfl rfl exec_sample
  · exact startsAs_of_exec rfl rfl exec_random
  · exact startsAs_of_exec rfl rfl exec_quant

end Sys2Proof.Machine
end

section
/-! SUPPORT. What completions leave of an engine's queues: the registers that say where a queue stands change only with HEAD, DONE and
the status of that queue. -/
namespace Sys2Proof.Machine

open Sys2Proof

/-- Words of the queue registers of engine e, but for ENG_QNOTE, of its BLK_CTRL, and of the core pages, which hold the engine groups. -/
def queueWord (e i : Nat) : Bool :=
  decide (0x400 * e + 0x40 ≤ i) && decide (i < 0x400 * e + 0x60) && decide (i % 8 ≠ 7) || decide (i = 0x400 * e + 4)
    || decide (0x40000 ≤ i) && decide (i < 0x42000)

theorem queueWord_iff {e i : Nat} : queueWord e i = true ↔
    (0x400 * e + 0x40 ≤ i ∧ i < 0x400 * e + 0x60 ∧ i % 8 ≠ 7) ∨ i = 0x400 * e + 4 ∨ (0x40000 ≤ i ∧ i < 0x42000) := by
  simp [queueWord, and_assoc, or_assoc]

/-- Every such word lies below the words of memory channels, caches and board interfaces. -/
theorem queueWord_lt {e i : Nat} (he : e < 256) (h : queueWord e i = true) : i < 0x42000 := by
  rw [queueWord_iff] at h
  omega

/-- What is seen of engine e's queues: the tasks in flight, the signals and gives on their way, and the queue registers. -/
def State.queueView (e : Nat) (s : State) : List Task × List Flight × List Flight × (Nat → Word) :=
  ((s.engine e).tasks, s.signals, s.gives, fun i => if queueWord e i then s.r32 (4 * i) else 0)

theorem State.queueView_eq_iff {e : Nat} {s t : State} : t.queueView e = s.queueView e ↔
    (t.engine e).tasks = (s.engine e).tasks ∧ t.signals = s.signals ∧ t.gives = s.gives
      ∧ ∀ off, queueWord e (off / 4) = true → t.r32 off = s.r32 off := by
  have hword (u : State) (off : Nat) : u.r32 (4 * (off / 4)) = u.r32 off := by
    rw [State.r32, State.r32, Nat.mul_div_cancel_left _ (by omega : 0 < 4)]
  simp only [State.queueView, Prod.mk.injEq]
  refine and_congr_right fun _ => and_congr_right fun _ => and_congr_right fun _ => ⟨fun h off hw => ?_, fun h => ?_⟩
  · have := congrFun h (off / 4)
    rwa [if_pos hw, if_pos hw, hword, hword] at this
  · funext i
    by_cases hw : queueWord e i = true
    · rw [if_pos hw, if_pos hw]
      exact h _ (by rwa [Nat.mul_div_cancel_left _ (by omega : 0 < 4)])
    · rw [if_neg hw, if_neg hw]

section
variable (e : Nat) (s : State)

theorem State.queueView_w32 {off : Nat} (v : Word) (h : queueWord e (off / 4) = false) : (s.w32 off v).queueView e = s.queueView e := by
  refine State.queueView_eq_iff.2 ⟨rfl, rfl, rfl, fun off' hw => ?_⟩
  rw [State.r32_w32, if_neg (fun heq => by rw [heq, h] at hw; cases hw)]

theorem State.queueView_wb {off : Nat} (lo : Nat) (b : Bool) (h : queueWord e (off / 4) = false) :
    (s.wb off lo b).queueView e = s.queueView e := s.queueView_w32 e _ h

theorem State.queueView_w64 {off : Nat} (v : Dword) (h : queueWord e (off / 4) = false) (h' : queueWord e ((off + 4) / 4) = false) :
    (s.w64 off v).queueView e = s.queueView e := by
  rw [State.w64, State.queueView_w32 _ _ _ h', State.queueView_w32 _ _ _ h]

@[simp] theorem State.queueView_raise (pn bit cls src : Nat) : (s.raise pn bit cls src).queueView e = s.queueView e := rfl

theorem State.queueView_count {off : Nat} (n : Nat) (h : queueWord e (off / 4) = false) (h' : queueWord e ((off + 4) / 4) = false) :
    (s.count off n).queueView e = s.queueView e := by
  rw [State.count, State.raiseIf]
  split
  · rw [State.queueView_raise, State.queueView_w64 _ _ _ h h']
  · exact State.queueView_w64 _ _ _ h h'

theorem State.queueView_sample {pn : Nat} (bit : Nat) (h : queueWord e (blkEvt pn / 4) = false) :
    (s.sample pn bit).queueView e = s.queueView e := by
  unfold State.sample
  split
  · rfl
  · exact (s.queueView_wb e bit true h :)

theorem State.queueView_modEngine {f : Engine → Engine} (h : (f (s.engine e)).tasks = (s.engine e).tasks) :
    (s.modEngine e f).queueView e = s.queueView e := by
  refine State.queueView_eq_iff.2 ⟨?_, rfl, rfl, fun _ _ => rfl⟩
  rw [State.modEngine_self, h]

end

/-! ## Poison reaches memory, not the queues -/

/-- A counter's two words are all that it changes. -/
theorem State.count_r32 (s : State) {c off : Nat} (n : Nat) (h : off / 4 ≠ c / 4) (h' : off / 4 ≠ (c + 4) / 4) :
    (s.count c n).r32 off = s.r32 off := by
  have hraise (u : State) (b : Bool) (i j k l : Nat) : (u.raiseIf b i j k l).r32 off = u.r32 off := by cases b <;> rfl
  rw [State.count, hraise, State.w64, State.r32_w32, if_neg h', State.r32_w32, if_neg h]

/-- A write of a line leaves the words below those of the memories. -/
theorem State.lineWrite_r32 (s : State) (space o src hint : Nat) (b : List Byte) (poison : Bool) {off : Nat} (h : off / 4 < 0x42000) :
    (s.lineWrite space o src hint b poison).1.r32 off = s.r32 off := by
  have hpath : pathWord (off / 4) = false := by
    rw [← Bool.not_eq_true, pathWord_eq_true_iff]
    omega
  have hcount (u : State) {c : Nat} (n : Nat) (hc : 0x42000 ≤ c / 4) : (u.count c n).r32 off = u.r32 off :=
    u.count_r32 n (by omega) (by omega)
  have hce (u : State) (o n src kind : Nat) : (u.brdCe o n src kind).r32 off = u.r32 off := by
    unfold State.brdCe
    dsimp only
    split
    · rfl
    · exact hcount _ _ (by rw [Reg.brdCeCnt, Reg.brdPage]; omega)
  have hue (u : State) (o src : Nat) : (u.brdUe o src).r32 off = u.r32 off :=
    hcount _ _ (by rw [Reg.brdUeCnt, Reg.brdPage]; omega)
  have hunwritten (u : State) (o src : Nat) : (u.boardUnwritten o src).1.r32 off = u.r32 off := by
    unfold State.boardUnwritten
    dsimp only
    split
    · rfl
    · exact hce ..
    · exact hue ..
    · rfl
  have hdecode (u : State) (o src : Nat) : (u.boardDecode o src).1.r32 off = u.r32 off := by
    unfold State.boardDecode
    dsimp only
    split
    · exact hunwritten ..
    · split
      · rfl
      · exact hce ..
      · exact hce ..
      · exact hue ..
  have hof (r : State × Nat) : (lowFoot.of s r).1.r32 off = r.1.r32 off := by
    rw [Footprint.of]
    exact Footprint.apply_r32 ..
  unfold State.lineWrite
  rw [hof]
  split
  · rw [State.stackWrite]
    exact State.r32_of_offPath ((State.stackWriteNow_offPath ..).trans (State.pastLockAt_offPath ..)) hpath
  · unfold State.boardWrite
    split_ifs
    · rfl
    · rfl
    · rfl
    · exact hdecode ..
  · unfold State.hostWrite
    split
    · rfl
    · split <;> rfl
  · rfl

theorem State.queueView_poisonDest {e : Nat} (he : e < 256) (s : State) (d : Dest) : (s.poisonDest e d).queueView e = s.queueView e := by
  cases d with
  | spad u n => exact s.queueView_modEngine e rfl
  | tile slot both rows =>
    refine s.queueView_modEngine e ?_
    cases both <;> rfl
  | line space off =>
    dsimp only [State.poisonDest]
    split
    · rfl
    · have hk := lineWrite_keeps s space (off / 128 * 128) e 1 (List.replicate 128 0) true
      refine State.queueView_eq_iff.2 ⟨?_, hk.signals rfl, hk.gives rfl, fun o hw => State.lineWrite_r32 _ _ _ _ _ _ _ (queueWord_lt he hw)⟩
      rw [State.engine, hk.engines rfl, State.engine]

end Sys2Proof.Machine
end

section
/-! SUPPORT. The completion of an engine's only task in flight: what retires, what its report sends, what stays. -/
namespace Sys2Proof.Machine

open Sys2Proof

@[simp] theorem Reg.engFlog_word (e n : Nat) : Reg.engFlog e n / 4 = 0x400 * e + 0x140 + 4 * n := by
  unfold Reg.engFlog Reg.engPage; omega
@[simp] theorem Reg.engFlogWr_word (e : Nat) : Reg.engFlogWr e / 4 = 0x400 * e + 0x180 := by
  unfold Reg.engFlogWr Reg.engPage; omega
@[simp] theorem Reg.engSwEvent_word (e : Nat) : Reg.engSwEvent e / 4 = 0x400 * e + 0x186 := by
  unfold Reg.engSwEvent Reg.engPage; omega
@[simp] theorem Reg.engVxCword_word (e : Nat) : Reg.engVxCword e / 4 = 0x400 * e + 0x1E1 := by
  unfold Reg.engVxCword Reg.engPage; omega
@[simp] theorem Reg.enEvt_word (e : Nat) : blkEvt (enPage e) / 4 = 0x400 * e + 6 := by
  unfold blkEvt enPage; omega

/-! ## Signals and gives on their way -/

/-- What a descriptor's signals become, one flight for each member of the target (R74). -/
def flightsOf (s : State) (e : Nat) (err : Bool) (x : Signal) : List Flight :=
  (match x.target with
    | 1 => [e]
    | 2 => [x.engine]
    | _ => s.groupEngines (x.engine % 16)).map fun t => ⟨t, x.tc, x.inc, err⟩

theorem sendSignals_eq (s : State) (e : Nat) (d : Desc) (err : Bool) :
    s.sendSignals e d err = { s with signals := s.signals ++ d.signals.flatMap (flightsOf s e err) } := by
  unfold State.sendSignals State.each
  generalize d.signals = l
  have h (l : List Signal) (fl : List Flight) : List.foldl (fun u x => { u with signals := u.signals ++ flightsOf u e err x })
      { s with signals := fl } l = { s with signals := fl ++ l.flatMap (flightsOf s e err) } := by
    induction l generalizing fl with
    | nil => simp
    | cons x l ih =>
      rw [List.foldl_cons, List.flatMap_cons, ← List.append_assoc]
      exact ih _
  exact h l s.signals

/-- The members of a group are those of the core registers. -/
theorem groupEngines_congr {s t : State} {k : Nat} (hk : k < 16)
    (h : ∀ off, 0x40000 ≤ off / 4 → off / 4 < 0x42000 → t.r32 off = s.r32 off) : t.groupEngines k = s.groupEngines k := by
  unfold State.groupEngines
  refine List.filter_congr fun e he => ?_
  have he := List.mem_range.1 he
  rw [h (Reg.coreBgrpEng (e / 32) (k - 9)) (by rw [Reg.coreBgrpEng_word]; omega) (by rw [Reg.coreBgrpEng_word]; omega)]

theorem sendSignals_congr_core {s t : State} (hsig : t.signals = s.signals)
    (hr : ∀ off, 0x40000 ≤ off / 4 → off / 4 < 0x42000 → t.r32 off = s.r32 off) (e : Nat) (d : Desc) (err : Bool) :
    (t.sendSignals e d err).signals = (s.sendSignals e d err).signals := by
  have hflights : flightsOf t e err = flightsOf s e err := by
    funext x
    rw [flightsOf, flightsOf, groupEngines_congr (Nat.mod_lt _ (by omega)) hr]
  rw [sendSignals_eq, sendSignals_eq, hflights, hsig]

theorem sendSignals_congr {e : Nat} {s t : State} (h : t.queueView e = s.queueView e) (e' : Nat) (d : Desc) (err : Bool) :
    (t.sendSignals e' d err).signals = (s.sendSignals e' d err).signals := by
  obtain ⟨-, hsig, -, hr⟩ := State.queueView_eq_iff.1 h
  exact sendSignals_congr_core hsig (fun off h1 h2 => hr off (queueWord_iff.2 (Or.inr (Or.inr ⟨h1, h2⟩)))) e' d err

/-! ## The report (R73, R74) -/

section
variable {e : Nat} (he : e < 256)
include he

/-- The words that a report writes are none of the queue registers. -/
theorem queueWord_eq_false {i : Nat} (h1 : 0x400 * e ≤ i) (h2 : i < 0x400 * e + 0x400) (h3 : i = 0x400 * e + 6 ∨ 0x400 * e + 0x60 ≤ i ∨ i % 8 = 7) :
    queueWord e i = false := by
  rw [← Bool.not_eq_true, queueWord_iff]
  omega

theorem flog_queueView (s : State) (q : Nat) (index : Word) (d : Desc) (st : Nat) : (s.flog e q index d st).queueView e = s.queueView e := by
  have hn : (s.r32 (Reg.engFlogWr e)).toNat % 16 < 16 := Nat.mod_lt _ (by omega)
  have hw := Reg.engFlog_word e ((s.r32 (Reg.engFlogWr e)).toNat % 16)
  have hlog {off : Nat} (h1 : 0x400 * e + 0x140 ≤ off / 4) (h2 : off / 4 < 0x400 * e + 0x181) : queueWord e (off / 4) = false :=
    queueWord_eq_false he (by omega) (by omega) (by omega)
  unfold State.flog
  dsimp only
  rw [State.queueView_w32, State.queueView_w64, State.queueView_w32, State.queueView_w32]
  · exact hlog (by omega) (by omega)
  · exact hlog (by omega) (by omega)
  · exact hlog (by omega) (by omega)
  · exact hlog (by omega) (by omega)
  · exact hlog (by rw [Reg.engFlogWr_word]; omega) (by rw [Reg.engFlogWr_word]; omega)

/-- A report leaves the tasks and the queue registers, and sends the descriptor's signals and gives. -/
theorem report_queueView (s : State) {q : Nat} (hq : q < 4) (index : Word) (d : Desc) (st : Nat) :
    (s.report e q index d st).queueView e = ((s.sendSignals e d (stErr st)).sendGives d).queueView e := by
  have hevt : queueWord e (blkEvt (enPage e) / 4) = false :=
    queueWord_eq_false he (by rw [Reg.enEvt_word]; omega) (by rw [Reg.enEvt_word]; omega) (by rw [Reg.enEvt_word]; omega)
  have hsw : queueWord e (Reg.engSwEvent e / 4) = false :=
    queueWord_eq_false he (by rw [Reg.engSwEvent_word]; omega) (by rw [Reg.engSwEvent_word]; omega) (by rw [Reg.engSwEvent_word]; omega)
  have hnote : queueWord e (Reg.engQNote e q / 4) = false :=
    queueWord_eq_false he (by rw [Reg.engQNote_word]; omega) (by rw [Reg.engQNote_word]; omega) (by rw [Reg.engQNote_word]; omega)
  have hsend {u : State} (hu : u.queueView e = s.queueView e) :
      ((u.sendSignals e d (stErr st)).sendGives d).queueView e = ((s.sendSignals e d (stErr st)).sendGives d).queueView e := by
    obtain ⟨htasks, -, hgives, hr⟩ := State.queueView_eq_iff.1 hu
    refine State.queueView_eq_iff.2 ⟨?_, sendSignals_congr hu e d _, ?_, ?_⟩
    · rw [sendSignals_eq, sendSignals_eq]; exact htasks
    · rw [sendSignals_eq, sendSignals_eq]; exact congrArg (· ++ _) hgives
    · rw [sendSignals_eq, sendSignals_eq]; exact hr
  have hif {c : Prop} [Decidable c] {u v : State} (hv : v.queueView e = u.queueView e) :
      (if c then v else u).queueView e = u.queueView e := view_ite (view := State.queueView e) hv
  unfold State.report
  refine hsend ?_
  rw [hif ((State.queueView_raise ..).trans (State.queueView_w32 _ _ _ hnote)),
    hif ((State.queueView_raise ..).trans (State.queueView_w32 _ _ _ hsw))]
  split
  · rw [State.queueView_sample _ _ _ hevt, hif (flog_queueView he ..)]
  · rw [hif (State.queueView_raise ..), hif (flog_queueView he ..)]

end

@[simp] theorem State.sendSignals_stores (s : State) (e : Nat) (d : Desc) (err : Bool) : (s.sendSignals e d err).stores = s.stores := by
  rw [sendSignals_eq]
  rfl

@[simp] theorem State.report_stores (s : State) (e q : Nat) (index : Word) (d : Desc) (st : Nat) :
    (s.report e q index d st).stores = s.stores := by
  have hflog : (s.flog e q index d st).stores = s.stores := 
    State.stores_congr (by rw [State.flog, State.w32_engines, State.w64_engines, State.w32_engines, State.w32_engines])
  have hsample (u : State) (pn bit : Nat) : (u.sample pn bit).stores = u.stores := State.stores_congr (u.sample_engines pn bit)
  have hif {c : Prop} [Decidable c] {u v : State} (hv : v.stores = u.stores) : (if c then v else u).stores = u.stores :=
    view_ite hv
  unfold State.report
  have hgives (u : State) : (u.sendGives d).stores = u.stores := rfl
  rw [hgives, State.sendSignals_stores]
  have hraise (u : State) (pn bit cls src : Nat) : (u.raise pn bit cls src).stores = u.stores := rfl
  have hset (u : State) (off : Nat) (v : Word) (pn bit cls src : Nat) : ((u.w32 off v).raise pn bit cls src).stores = u.stores := rfl
  rw [hif (hset ..), hif (hset ..)]
  split
  · rw [hsample, hif hflog]
  · rw [hif (hraise ..), hif hflog]

/-- An error of a task that was not cancelled is raised (R73). -/
theorem report_raises (s : State) (e q : Nat) (index : Word) (d : Desc) {st : Nat} (herr : stErr st = true) (hc : st ≠ stCancelled) :
    ⟨enPage e, 8, if st = stUnitErr then 2 else 5, e⟩ ∈ (s.report e q index d st).evq := by
  have hif {c : Prop} [Decidable c] {u v : State} {x : Ev} (hx : x ∈ u.evq) (hv : v.evq = u.evq ∨ ∃ y, v.evq = u.evq ++ [y]) :
      x ∈ (if c then v else u).evq := by
    split
    · obtain hv | ⟨y, hv⟩ := hv
      · rwa [hv]
      · rw [hv]; exact List.mem_append_left _ hx
    · exact hx
  unfold State.report
  have hgives (u : State) : (u.sendGives d).evq = u.evq := rfl
  rw [hgives, sendSignals_eq]
  dsimp only
  refine hif (hif ?_ (Or.inr ⟨_, rfl⟩)) (Or.inr ⟨_, rfl⟩)
  rw [if_neg hc, if_pos herr]
  exact List.mem_append_right _ (List.mem_singleton.2 rfl)

theorem State.sample_bit (s : State) (pn : Nat) {bit : Nat} (h : bit < 32) : (s.sample pn bit).rb (blkEvt pn) bit = true := by
  unfold State.sample
  split
  case isTrue hset => exact hset
  case isFalse => exact (State.rb_wb _ _ _ _ _ h).trans (if_pos rfl)

/-- A cancelled task's error is sampled where it ends (R76). -/
theorem report_samples (s : State) (e q : Nat) (index : Word) (d : Desc) :
    (s.report e q index d stCancelled).rb (blkEvt (enPage e)) 8 = true := by
  have hnote (u : State) (v : Word) : (u.w32 (Reg.engQNote e q) v).r32 (blkEvt (enPage e)) = u.r32 (blkEvt (enPage e)) := by
    rw [State.r32_w32, if_neg]
    rw [Reg.enEvt_word, Reg.engQNote_word]
    omega
  have hevent : (d.operation == some .event && stCancelled == stOk) = false := by simp [stCancelled, stOk]
  have hset (u : State) : (if d.notify then (u.w32 (Reg.engQNote e q) (BitVec.ofNat 32 d.tag)).raise (enPage e) 13 5 e else u).r32
      (blkEvt (enPage e)) = u.r32 (blkEvt (enPage e)) := by
    split
    · exact hnote ..
    · rfl
  have hgives (u : State) : (u.sendGives d).rb (blkEvt (enPage e)) 8 = u.rb (blkEvt (enPage e)) 8 := rfl
  unfold State.report
  rw [hgives, sendSignals_eq]
  refine (State.rb_of_r32 (hset _) 8).trans ?_
  rw [hevent, if_neg Bool.false_ne_true, if_pos rfl]
  exact State.sample_bit _ _ (by omega)

/-! ## Retirement (R60, R66) -/

/-- One task, done, is all that an engine holds: it retires. -/
theorem retireLoop_only (s : State) {e : Nat} {k : Task} (htasks : (s.engine e).tasks = [k]) (hdone : k.done = true) (n : Nat) :
    s.retireLoop e k.queue (n + 2) =
      (let u := (s.modEngine e fun g => { g with tasks := [] }).w32 (Reg.engQDone e k.queue) (s.r32 (Reg.engQDone e k.queue) + 1)
       if stErr k.status then u.wb (Reg.engQStat e k.queue) 8 true else u) := by
  have hhead : (s.qTasks e k.queue).head? = some k := by simp [State.qTasks, htasks]
  have hstep : s.retireLoop e k.queue (n + 2) = State.retireLoop
      (let u := (s.modEngine e fun g => { g with tasks := g.tasks.filter fun x => !(x.queue == k.queue && x.index == k.index) }).w32
          (Reg.engQDone e k.queue) (s.r32 (Reg.engQDone e k.queue) + 1)
       if stErr k.status then u.wb (Reg.engQStat e k.queue) 8 true else u) e k.queue (n + 1) := by
    rw [State.retireLoop, hhead]
    dsimp only
    rw [hdone]
    rfl
  have hgone : ({ s.engine e with tasks := (s.engine e).tasks.filter fun x => !(x.queue == k.queue && x.index == k.index) } : Engine)
      = { s.engine e with tasks := [] } := by
    simp [htasks]
  have hnone (u : State) (h : (u.engine e).tasks = []) : u.retireLoop e k.queue (n + 1) = u := by
    rw [State.retireLoop]
    simp [State.qTasks, h]
  rw [hstep, State.modEngine, hgone]
  refine hnone _ ?_
  have hset (u : State) (h : u.engines = (s.setEngine e { s.engine e with tasks := [] }).engines) : (u.engine e).tasks = [] := by
    rw [State.engine, h]
    exact congrArg Engine.tasks (Sparse.get_set_self ..)
  refine hset _ ?_
  dsimp only
  split <;> rfl

end Sys2Proof.Machine
end

section
/-! SUPPORT. The four parts of a completion: the destinations are poisoned, the unit notes what it has made, the task is marked done, and
what it reports and retires. -/
namespace Sys2Proof.Machine

open Sys2Proof

/-- The destinations of a task that ends with status st, poisoned where it is a status that poisons them (Table 4-11). -/
def State.poisoned (s : State) (e : Nat) (k : Task) (st : Nat) : State :=
  if stPoisons st then s.each k.dests fun s d => s.poisonDest e d else s

/-- What a unit notes of a task that was performed: a CHAIN its chain word, a BRINE_PACK its bytes. -/
def State.noted (s : State) (e : Nat) (k : Task) (st : Nat) : State :=
  if st = stOk ∨ st = stPoisonIn then
    (match Desc.operation k.desc with
      | some .chain => s.w32 (Reg.engVxCword e) k.cword
      | some .brinePack => (s.count Reg.brdBrineIn (4096 * (Desc.copyOp k.desc).len)).count Reg.brdBrineOut
          ((64 + 8 * (Desc.copyOp k.desc).len + 127) / 128 * 128 + 128 * k.cword.toNat)
      | _ => s) else s

/-- The tasks of an engine, where k has ended with status st. -/
def Task.endedIn (k : Task) (st : Nat) (x : Task) : Task :=
  if x.queue == k.queue && x.index == k.index then { x with status := st, done := true } else x

/-- The task is marked done, and what it waited for in memory is forgotten. -/
def State.markEnded (s : State) (e : Nat) (k : Task) (st : Nat) : State :=
  (s.modEngine e fun g => { g with
    tasks := g.tasks.map (k.endedIn st), progress := s.tick, turned := setNat g.turned k.queue (s.tick + 1), stalled := false }).modMem
  fun m => { m with
    lower := m.lower.filter fun l => l.task != some (e, k.queue, k.index)
    got := m.got.filter fun g => g.task != (e, k.queue, k.index), tape := m.tape.filter fun r => r.task != (e, k.queue, k.index) }

theorem completeTask_eq (s : State) (e : Nat) (k : Task) (st : Nat) : s.completeTask e k st =
    (((((s.poisoned e k st).noted e k st).markEnded e k st).report e k.queue k.index k.desc st).retireLoop e k.queue 9).qCounts e k.queue :=
  rfl

section
variable {s : State} {e : Nat} {k : Task} {st : Nat}

theorem poisoned_queueView (he : e < 256) : (s.poisoned e k st).queueView e = s.queueView e := by
  unfold State.poisoned
  split
  · exact State.each_view (State.queueView e) _ _ (fun u d _ => State.queueView_poisonDest he u d) s
  · rfl

theorem noted_queueView (he : e < 256) : (s.noted e k st).queueView e = s.queueView e := by
  have hword : queueWord e (Reg.engVxCword e / 4) = false :=
    queueWord_eq_false he (by rw [Reg.engVxCword_word]; omega) (by rw [Reg.engVxCword_word]; omega) (by rw [Reg.engVxCword_word]; omega)
  have hbrd {off : Nat} (h : 0x42000 ≤ off / 4) : queueWord e (off / 4) = false := by
    rw [← Bool.not_eq_true]
    exact fun hw => absurd (queueWord_lt he hw) (by omega)
  unfold State.noted
  split
  · split
    · exact State.queueView_w32 _ _ _ hword
    · rw [State.queueView_count, State.queueView_count]
      all_goals exact hbrd (by decide)
    · rfl
  · rfl

theorem noted_stores : (s.noted e k st).stores = s.stores := by
  unfold State.noted
  split
  · split
    · rfl
    · rw [State.count_stores, State.count_stores]
    · rfl
  · rfl

theorem markEnded_stores : (s.markEnded e k st).stores = s.stores := by
  rw [State.markEnded, State.modMem_stores, State.modEngine_stores]
  rfl

theorem markEnded_tasks : ((s.markEnded e k st).engine e).tasks = (s.engine e).tasks.map (k.endedIn st) :=
  congrArg Engine.tasks (s.modEngine_self e fun g => { g with
    tasks := g.tasks.map (k.endedIn st), progress := s.tick, turned := setNat g.turned k.queue (s.tick + 1), stalled := false })

/-- The retirement of the only task, done: DONE passes it, and its error stays in its queue's status. -/
theorem retire_only {q : Nat} (hq : q < 4) (htasks : (s.engine e).tasks = [k]) (hqueue : k.queue = q) (hdone : k.done = true) :
    (((s.retireLoop e q 9).qCounts e q).engine e).tasks = []
    ∧ ((s.retireLoop e q 9).qCounts e q).signals = s.signals ∧ ((s.retireLoop e q 9).qCounts e q).gives = s.gives
    ∧ ((s.retireLoop e q 9).qCounts e q).evq = s.evq ∧ ((s.retireLoop e q 9).qCounts e q).stores = s.stores
    ∧ ((s.retireLoop e q 9).qCounts e q).r32 (Reg.engQDone e q) = s.r32 (Reg.engQDone e q) + 1
    ∧ (stErr k.status = true → ((s.retireLoop e q 9).qCounts e q).rb (Reg.engQStat e q) 8 = true)
    ∧ ∀ off, off / 4 ≠ 0x400 * e + 0x45 + 8 * q → off / 4 ≠ 0x400 * e + 0x46 + 8 * q → off / 4 ≠ 0x400 * e + 0x1FC →
      ((s.retireLoop e q 9).qCounts e q).r32 off = s.r32 off := by
  subst hqueue
  rw [retireLoop_only s htasks hdone 7]
  have hgone : ((s.modEngine e fun g => { g with tasks := [] }).engine e).tasks = [] := congrArg Engine.tasks (s.modEngine_self e _)
  have hstores : (s.modEngine e fun g => { g with tasks := [] }).stores = s.stores := s.modEngine_stores e rfl
  have hmv : ¬ Reg.engQStat e k.queue / 4 = Reg.engMvStat e / 4 := by rw [Reg.engQStat_word, Reg.engMvStat_word]; omega
  by_cases herr : stErr k.status = true
  · rw [if_pos herr]
    refine ⟨hgone, rfl, rfl, rfl, hstores, ?_, fun _ => ?_, fun off hd hs hm => ?_⟩
    · rw [State.qCounts_r32 _ _ _ _ (by rw [Reg.engQDone_word]; omega) (by rw [Reg.engQDone_word]; omega), State.wb,
        State.r32_wf_other _ _ _ _ _ _ (by rw [Reg.engQDone_word, Reg.engQStat_word]; omega), State.r32_w32_self]
    · rw [State.qCounts, State.rb_wf, if_neg hmv, State.rb_wf, if_pos rfl, getLsbD_putFld _ _ _ _ _ (by omega), if_neg (by omega)]
      exact (State.rb_wb _ _ _ _ _ (by omega)).trans (if_pos rfl)
    · rw [State.qCounts_r32 _ _ _ _ hs hm, State.wb, State.r32_wf_other _ _ _ _ _ _ (by simpa using hs), State.r32_w32, Reg.engQDone_word, if_neg hd]
      rfl
  · rw [if_neg herr]
    refine ⟨hgone, rfl, rfl, rfl, hstores, ?_, fun h => absurd h herr, fun off hd hs hm => ?_⟩
    · rw [State.qCounts_r32 _ _ _ _ (by rw [Reg.engQDone_word]; omega) (by rw [Reg.engQDone_word]; omega), State.r32_w32_self]
    · rw [State.qCounts_r32 _ _ _ _ hs hm, State.r32_w32, Reg.engQDone_word, if_neg hd]
      rfl

/-- What is left of an ended task at its report: it alone is in flight, done, and nothing else of the queues has changed. -/
theorem report_ended (he : e < 256) (hq : k.queue < 4) (htasks : (s.engine e).tasks = [k]) {x : State}
    (hx : x = (((s.poisoned e k st).noted e k st).markEnded e k st).report e k.queue k.index k.desc st) :
    (x.engine e).tasks = [{ k with status := st, done := true }] ∧ x.signals = (s.sendSignals e k.desc (stErr st)).signals
    ∧ x.gives = s.gives ++ (Desc.gives k.desc).map (fun g => (⟨g.engine, g.cc, g.count, false⟩ : Flight))
    ∧ (∀ off, queueWord e (off / 4) = true → x.r32 off = s.r32 off) ∧ x.stores = (s.poisoned e k st).stores := by
  have hended : k.endedIn st k = { k with status := st, done := true } := by simp [Task.endedIn]
  have hview : ((s.poisoned e k st).noted e k st).queueView e = s.queueView e := (noted_queueView he).trans (poisoned_queueView he)
  have hstores : ((s.poisoned e k st).noted e k st).stores = (s.poisoned e k st).stores := noted_stores
  rw [← hstores]
  subst hx
  generalize (s.poisoned e k st).noted e k st = w at hview
  obtain ⟨hwt, -, hwgives, hwr⟩ := State.queueView_eq_iff.1 hview
  obtain ⟨ht, hsig, hgives, hr⟩ := State.queueView_eq_iff.1 (report_queueView he (w.markEnded e k st) hq k.index k.desc st)
  rw [sendSignals_eq] at ht hsig hgives hr
  refine ⟨ht.trans ?_, hsig.trans ?_, hgives.trans ?_, fun off hoff => (hr off hoff).trans (hwr off hoff), ?_⟩
  · exact (markEnded_tasks (s := w)).trans (by rw [hwt, htasks, List.map_singleton, hended])
  · rw [← sendSignals_congr hview, sendSignals_eq]
    rfl
  · exact congrArg (· ++ _) hwgives
  · rw [State.report_stores, markEnded_stores]

/-- The only task in flight of an engine ends with a status: it retires, and its report has been sent. -/
theorem completeTask_only (he : e < 256) (hq : k.queue < 4) (htasks : (s.engine e).tasks = [k]) :
    ((s.completeTask e k st).engine e).tasks = []
    ∧ (s.completeTask e k st).signals = (s.sendSignals e k.desc (stErr st)).signals
    ∧ (s.completeTask e k st).gives = s.gives ++ (Desc.gives k.desc).map (fun g => (⟨g.engine, g.cc, g.count, false⟩ : Flight))
    ∧ (s.completeTask e k st).r32 (Reg.engQDone e k.queue) = s.r32 (Reg.engQDone e k.queue) + 1
    ∧ (stErr st = true → (s.completeTask e k st).rb (Reg.engQStat e k.queue) 8 = true)
    ∧ (∀ off, queueWord e (off / 4) = true → off / 4 ≠ Reg.engQDone e k.queue / 4 → off / 4 ≠ Reg.engQStat e k.queue / 4 →
      (s.completeTask e k st).r32 off = s.r32 off)
    ∧ (s.completeTask e k st).stores = (s.poisoned e k st).stores := by
  obtain ⟨htasks, hsig, hgives, hr, hstores⟩ := report_ended he hq htasks (st := st) rfl
  obtain ⟨ht, hs, hg, -, hst, hdone, herr, hrest⟩ := retire_only hq htasks rfl rfl
  rw [completeTask_eq]
  have hword : queueWord e (Reg.engQDone e k.queue / 4) = true := by
    rw [queueWord_iff, Reg.engQDone_word]
    omega
  refine ⟨ht, hs.trans hsig, hg.trans hgives, hdone.trans (by rw [hr _ hword]), herr, fun off hoff h1 h2 => ?_, hst.trans hstores⟩
  refine (hrest off (by simpa using h1) (by simpa using h2) fun hm => ?_).trans (hr off hoff)
  rw [hm, queueWord_iff] at hoff
  omega

/-- Its error, but for a cancelled task's, has been raised. -/
theorem completeTask_raises (hq : k.queue < 4) (he : e < 256) (htasks : (s.engine e).tasks = [k]) (herr : stErr st = true) (hc : st ≠ stCancelled) :
    ⟨enPage e, 8, if st = stUnitErr then 2 else 5, e⟩ ∈ (s.completeTask e k st).evq := by
  obtain ⟨htasks, -, -, -, -⟩ := report_ended he hq htasks (st := st) rfl
  obtain ⟨-, -, -, hevq, -⟩ := retire_only hq htasks rfl rfl
  rw [completeTask_eq, hevq]
  exact report_raises _ _ _ _ _ herr hc

/-- A task that ends with no poison to mark leaves the engine's memories. -/
theorem poisoned_stores (h : stPoisons st = false ∨ k.dests = []) : (s.poisoned e k st).stores = s.stores := by
  unfold State.poisoned
  split
  case isTrue hp =>
    rw [h.resolve_left (by simp [hp])]
    rfl
  case isFalse => rfl

end
end Sys2Proof.Machine
end

section
/-! SUPPORT. Tasks that are not performed: a TICK that completes at once, and every other operation. -/
namespace Sys2Proof.Machine

open Sys2Proof

@[simp] theorem Reg.engCc_word (e c : Nat) : Reg.engCc e c / 4 = 0x400 * e + 0x100 + c := by
  unfold Reg.engCc Reg.engPage; omega

theorem Desc.wait_index_lt {d : Desc} {w : Wait} (h : w ∈ d.waits) : w.index < 64 := by
  obtain ⟨i, -, rfl⟩ := List.mem_map.1 (List.mem_filter.1 h).1
  exact Nat.mod_lt _ (by omega)

theorem Desc.take_cc_lt {d : Desc} {c : Credit} (h : c ∈ d.takes) : c.cc < 32 := by
  obtain ⟨i, -, rfl⟩ := List.mem_map.1 h
  exact Nat.mod_lt _ (by omega)

/-- Tokens consumed and credits taken are in the counters only. -/
theorem consume_queueView {e : Nat} (he : e < 256) (s : State) (d : Desc) : (s.consume e d).queueView e = s.queueView e := by
  have htake (u : State) (c : Credit) (hc : c ∈ d.takes) :
      (u.wf (Reg.engCc e c.cc) 0 16 (u.rf (Reg.engCc e c.cc) 0 16 - c.count)).queueView e = u.queueView e := by
    have := Desc.take_cc_lt hc
    exact State.queueView_w32 _ _ _ (queueWord_eq_false he (by rw [Reg.engCc_word]; omega) (by rw [Reg.engCc_word]; omega)
      (by rw [Reg.engCc_word]; omega))
  have hwait (u : State) (w : Wait) (hw : w ∈ d.waits.filter fun w => w.kind == 1) :
      (u.w32 (Reg.engTc e w.index) (BitVec.ofNat 32 ((u.r32 (Reg.engTc e w.index)).toNat - w.value))).queueView e = u.queueView e := by
    have := Desc.wait_index_lt (List.mem_filter.1 hw).1
    exact State.queueView_w32 _ _ _ (queueWord_eq_false he (by rw [Reg.engTc_word]; omega) (by rw [Reg.engTc_word]; omega)
      (by rw [Reg.engTc_word]; omega))
  rw [State.consume, State.each_view (State.queueView e) _ _ htake, State.each_view (State.queueView e) _ _ hwait]

/-- HEAD passes the head of a queue; the tasks in flight and the engine's memories stay. -/
theorem startHead_queue {e : Nat} (he : e < 256) (s : State) (q : Nat) (d : Desc) :
    ((s.startHead e q d).engine e).tasks = (s.engine e).tasks ∧ (s.startHead e q d).signals = s.signals
    ∧ (s.startHead e q d).gives = s.gives
    ∧ (∀ off, queueWord e (off / 4) = true → off / 4 ≠ Reg.engQHead e q / 4 → (s.startHead e q d).r32 off = s.r32 off)
    ∧ (s.startHead e q d).stores = s.stores := by
  obtain ⟨htasks, hsig, hgives, hr⟩ := State.queueView_eq_iff.1 (consume_queueView he s d)
  unfold State.startHead
  refine ⟨?_, hsig, hgives, fun off hw hne => ?_, ?_⟩
  · rw [State.modEngine_self]
    exact htasks
  · exact (State.r32_w32 ..).trans ((if_neg hne).trans (hr off hw))
  · rw [State.modEngine_stores _ _ rfl]
    exact State.consume_stores s e d

/-- A descriptor that completes at once at an engine without tasks retires. -/
theorem completeAtOnce_only {s : State} {e q : Nat} (he : e < 256) (hq : q < 4) (d : Desc) (st : Nat) (dests : List Dest)
    (htasks : (s.engine e).tasks = []) :
    ((s.completeAtOnce e q d st dests).engine e).tasks = []
    ∧ (s.completeAtOnce e q d st dests).signals = (s.sendSignals e d (stErr st)).signals
    ∧ (s.completeAtOnce e q d st dests).gives = s.gives ++ d.gives.map (fun g => (⟨g.engine, g.cc, g.count, false⟩ : Flight))
    ∧ (s.completeAtOnce e q d st dests).r32 (Reg.engQDone e q) = s.r32 (Reg.engQDone e q) + 1
    ∧ (stErr st = true → (s.completeAtOnce e q d st dests).rb (Reg.engQStat e q) 8 = true)
    ∧ (∀ off, queueWord e (off / 4) = true → off / 4 ≠ Reg.engQDone e q / 4 → off / 4 ≠ Reg.engQStat e q / 4 →
      (s.completeAtOnce e q d st dests).r32 off = s.r32 off)
    ∧ (dests = [] → (s.completeAtOnce e q d st dests).stores = s.stores) := by
  rw [State.completeAtOnce]
  generalize hk : ({ queue := q, index := s.r32 (Reg.engQHead e q) - 1, desc := d, status := st, done := false, dests := dests, slots := 0,
                     flush := s.flushOn e, cword := 0, held := false, counts := [], owed := [] } : Task) = k
  obtain ⟨rfl, rfl, rfl⟩ : k.queue = q ∧ k.desc = d ∧ k.dests = dests := by
    subst hk
    exact ⟨rfl, rfl, rfl⟩
  have hone : ((s.modEngine e fun g => { g with tasks := g.tasks ++ [k] }).engine e).tasks = [k] := by
    rw [State.modEngine_self, htasks]
    rfl
  obtain ⟨ht, hsig, hgives, hdone, hst, hr, hstores⟩ := completeTask_only (st := st) he hq hone
  refine ⟨ht, hsig.trans ?_, hgives, hdone, hst, hr, fun h => ?_⟩
  · rw [sendSignals_eq, sendSignals_eq]
    rfl
  · rw [hstores, poisoned_stores (Or.inr h), State.modEngine_stores]
    rfl

/-- A TICK that finds an error at a wait, the only task of its engine, completes TOKEN_ERR at once and retires. -/
theorem startTick_tokenErr {s : State} {e q : Nat} {d : Desc} (he : e < 256) (hq : q < 4) (hs : Startable s e q d .tick)
    (herr : d.waits.any (s.waitErr e) = true) (htasks : (s.engine e).tasks = []) :
    (s.startTick e q).r32 (Reg.engQDone e q) = s.r32 (Reg.engQDone e q) + 1 ∧ (s.startTick e q).rb (Reg.engQStat e q) 8 = true
    ∧ ((s.startTick e q).engine e).tasks = [] ∧ (s.startTick e q).stores = s.stores := by
  obtain ⟨-, hhead, hready, hop, hinv⟩ := hs
  obtain ⟨hut, -, -, hur, hus⟩ := startHead_queue he s q d
  have hatOnce : s.startTick e q = (s.startHead e q d).completeAtOnce e q d stTokenErr [] := by
    rw [State.startTick, hhead]
    dsimp only
    rw [if_pos (Or.inr herr), State.startAtOnce, hhead]
    dsimp only
    rw [if_neg (by simp [hready, hop, hinv]), if_pos herr]
  obtain ⟨ht, -, -, hdone, hst, -, hstores⟩ := completeAtOnce_only he hq d stTokenErr [] (hut.trans htasks)
  rw [hatOnce]
  refine ⟨hdone.trans ?_, hst rfl, ht, (hstores rfl).trans hus⟩
  rw [hur (Reg.engQDone e q) (by rw [queueWord_iff, Reg.engQDone_word]; omega) (by rw [Reg.engQDone_word, Reg.engQHead_word]; omega)]

/-- Settles O22: every operation's destinations can be named without touching the engine's memories, and the task is not performed; a
TICK completes at once. -/
theorem taskWithAnErrorIsNotPerformed : Obligations.TaskWithAnErrorIsNotPerformed := by
  unfold Obligations.TaskWithAnErrorIsNotPerformed
  refine ⟨?_, ?_, ?_, ?_, ?_, ?_, ?_, ?_, ?_, ?_, ?_, ?_, ?_, ?_, ?_, ?_, ?_, ?_, ?_, ?_, ?_, ?_, ?_, ?_, ?_, ?_, ?_, ?_, ?_, ?_⟩
  · intro s e q d hs herr htasks
    obtain ⟨hdone, hst, ht, hstores⟩ := startTick_tokenErr e.isLt q.isLt hs herr htasks
    refine completes_run hs.1 (exec_tick e q s) ?_
    simp only [Footprint.apply_r32, Footprint.apply_rb, if_true]
    refine ⟨hdone, hst, ht, sameUnits_iff.2 (congrFun ?_ e.val)⟩
    exact (State.stores_congr rfl).trans hstores
  · exact notPerformedAs_of_exec rfl rfl (fun _ _ _ _ => rfl) exec_event
  · exact notPerformedAs_of_exec rfl rfl (fun _ _ _ _ => rfl) exec_mmaFp8
  · exact notPerformedAs_of_exec rfl rfl (fun _ _ _ _ => rfl) exec_mmaCode
  · exact notPerformedAs_of_exec rfl rfl (fun _ _ _ _ => rfl) exec_mmaInt8
  · exact notPerformedAs_of_exec rfl rfl (fun _ _ _ _ => rfl) exec_mmaBf16
  · exact notPerformedAs_of_exec rfl rfl (fun _ _ _ _ => rfl) exec_tileZero
  · exact notPerformedAs_of_exec rfl rfl (fun _ _ _ _ => rfl) exec_tileOut
  · exact notPerformedAs_of_exec rfl rfl appendDests_stores exec_kvAppend
  · exact notPerformedAs_of_exec rfl rfl tileSaveDests_stores exec_tileSave
  · exact notPerformedAs_of_exec rfl rfl (fun _ _ _ _ => rfl) exec_tileLoad
  · exact notPerformedAs_of_exec rfl rfl (fun _ _ _ _ => rfl) exec_chain
  · exact notPerformedAs_of_exec rfl rfl (fun _ _ _ _ => rfl) exec_permute
  · exact notPerformedAs_of_exec rfl rfl (fun _ _ _ _ => rfl) exec_shuffle
  · exact notPerformedAs_of_exec rfl rfl (fun _ _ _ _ => rfl) exec_pack
  · exact notPerformedAs_of_exec rfl rfl (fun _ _ _ _ => rfl) exec_unpack
  · exact notPerformedAs_of_exec rfl rfl (fun _ _ _ _ => rfl) exec_rotary
  · exact notPerformedAs_of_exec rfl rfl (fun _ _ _ _ => rfl) exec_topk
  · exact notPerformedAs_of_exec rfl rfl (fun _ _ _ _ => rfl) exec_sample
  · exact notPerformedAs_of_exec rfl rfl (fun _ _ _ _ => rfl) exec_random
  · exact notPerformedAs_of_exec rfl rfl (fun _ _ _ _ => rfl) exec_quant
  · exact notPerformedAs_of_exec rfl rfl (fun _ _ _ _ => rfl) exec_attnFwd
  · exact notPerformedAs_of_exec rfl rfl (fun _ _ _ _ => rfl) exec_attnMerge
  · exact notPerformedAs_of_exec rfl rfl (fun _ _ _ _ => rfl) exec_attnBwd
  · exact notPerformedAs_of_exec rfl rfl (fun _ _ _ _ => rfl) exec_load
  · exact notPerformedAs_of_exec rfl rfl storeDests_stores exec_store
  · exact notPerformedAs_of_exec rfl rfl storeDests_stores exec_accum
  · exact notPerformedAs_of_exec rfl rfl copyDests_stores exec_copy
  · exact notPerformedAs_of_exec rfl rfl packDests_stores exec_brinePack
  · exact notPerformedAs_of_exec rfl rfl (fun _ _ _ _ => rfl) exec_brineUnpack

end Sys2Proof.Machine
end

section
/-! SUPPORT. A task completes: the only one in flight of its engine. -/
namespace Sys2Proof.Machine

open Sys2Proof

/-- Without tasks nothing waits at the tile arbiter. -/
theorem releaseTiles_of_none {s : State} {e : Nat} (h : (s.engine e).tasks = []) : s.releaseTiles e = s := by
  rw [State.releaseTiles, h]
  rfl

/-- The only task in flight, whose boundary has come and whose host memory has, completes with its status, or UNIT_ERR. -/
theorem taskComplete_only {s : State} {e q : Nat} (he : e < 256) (hq : q < 4) {k : Task} {bad : Bool} (htasks : (s.engine e).tasks = [k])
    (hqueue : k.queue = q) (hdone : k.done = false) (hcounts : k.counts = []) (howed : k.owed = []) (hst : k.status = stOk)
    (htick : Desc.operation k.desc = some .tick → Desc.op k.desc 0 64 ≤ s.tick) (hlower : s.mem.lowerWait e q k.index = false) :
    s.taskComplete e q k.index bad = s.completeTask e k (if bad = true ∧ Desc.unit k.desc < 4 then stUnitErr else stOk) := by
  have hfind : (s.qTasks e q).find? (fun t => t.index == k.index && !t.done) = some k := by
    simp [State.qTasks, htasks, hqueue, hdone]
  have hbehind : s.behind e k = false := by simp [State.behind, htasks]
  have hpay : s.payOwed e k = (s, false) := by simp [State.payOwed, howed]
  have hwait : ¬ (Desc.operation k.desc = some .tick ∧ k.status = stOk ∧ s.tick < Desc.op k.desc 0 64) := fun ⟨h1, _, h3⟩ =>
    absurd (htick h1) (by omega)
  have hstatus : (if bad = true ∧ (!stErr k.status) = true ∧ Desc.unit k.desc < 4 then stUnitErr else k.status)
      = if bad = true ∧ Desc.unit k.desc < 4 then stUnitErr else stOk := by
    simp [hst, stErr, stOk]
  have hgone (st : Nat) : ((s.completeTask e k st).engine e).tasks = [] := (completeTask_only he (hqueue ▸ hq) htasks).1
  unfold State.taskComplete
  rw [hfind]
  dsimp only
  rw [if_neg (by simp [hbehind, hwait, hlower]), hstatus, hpay]
  simp only [ite_self, hcounts, List.isEmpty_nil, or_true, if_true, Bool.false_eq_true, false_and, if_false]
  exact releaseTiles_of_none (hgone _)

/-- Settles O27, by what the completion of an engine's only task leaves. -/
theorem taskCompletes : Obligations.TaskCompletes := by
  unfold Obligations.TaskCompletes
  intro s e q k bad hs htasks hqueue hdone hcounts howed hst htick hlower
  refine completes_run hs (exec_taskComplete e q k.index bad s) ?_
  rw [taskComplete_only e.isLt q.isLt htasks hqueue hdone hcounts howed hst htick hlower]
  have hq : k.queue < 4 := hqueue ▸ q.isLt
  generalize hend : (if bad = true ∧ Desc.unit k.desc < 4 then stUnitErr else stOk) = st
  obtain ⟨ht, -, hgives, hqdone, hqstat, hr, hstores⟩ := completeTask_only (st := st) e.isLt hq htasks
  rw [hqueue] at hqdone hqstat hr
  simp only [Footprint.apply_r32, Footprint.apply_rb, if_true]
  refine ⟨hqdone, hr _ ?_ ?_ ?_, ht, hgives, fun hok => ?_, fun hbad hunit => ?_⟩
  · rw [queueWord_iff, Reg.engQHead_word]; omega
  · rw [Reg.engQHead_word, Reg.engQDone_word]; omega
  · rw [Reg.engQHead_word, Reg.engQStat_word]; omega
  · have hnone : st = stOk := by
      rw [← hend, if_neg]
      rintro ⟨h1, h2⟩
      rcases hok with h | h
      · rw [h] at h1; cases h1
      · omega
    refine sameUnits_iff.2 (congrFun ((State.stores_congr rfl).trans (hstores.trans (poisoned_stores (Or.inl ?_)))) e.val)
    rw [hnone]
    rfl
  · have herr : st = stUnitErr := by rw [← hend, if_pos ⟨hbad, hunit⟩]
    have hevt := completeTask_raises (st := st) hq e.isLt htasks (by rw [herr]; rfl) (by rw [herr]; decide)
    rw [if_pos herr] at hevt
    exact ⟨hqstat (by rw [herr]; rfl), hevt⟩

end Sys2Proof.Machine
end

section
/-! SUPPORT. Counters: what a signal, a give and a write leave of them (R63, R67, R396, R450). -/
namespace Sys2Proof.Machine

open Sys2Proof

@[simp] theorem Reg.engTcErr_word (e : Nat) : Reg.engTcErr e / 4 = 0x400 * e + 0xC0 := by
  unfold Reg.engTcErr Reg.engPage; omega
@[simp] theorem Reg.engTcErr_word4 (e : Nat) : (Reg.engTcErr e + 4) / 4 = 0x400 * e + 0xC1 := by
  unfold Reg.engTcErr Reg.engPage; omega
@[simp] theorem Reg.engTcStuck_word (e : Nat) : Reg.engTcStuck e / 4 = 0x400 * e + 0xC2 := by
  unfold Reg.engTcStuck Reg.engPage; omega
@[simp] theorem Reg.engTcStuck_word4 (e : Nat) : (Reg.engTcStuck e + 4) / 4 = 0x400 * e + 0xC3 := by
  unfold Reg.engTcStuck Reg.engPage; omega
@[simp] theorem Reg.engCcOvf_word (e : Nat) : Reg.engCcOvf e / 4 = 0x400 * e + 0x120 := by
  unfold Reg.engCcOvf Reg.engPage; omega

/-! ## Bits of 64-bit registers -/

theorem State.r32_setBit64 (s : State) {off off' : Nat} (b : Nat) (v : Bool) (h : off' / 4 ≠ off / 4) (h' : off' / 4 ≠ (off + 4) / 4) :
    (s.setBit64 off b v).r32 off' = s.r32 off' := by
  rw [State.setBit64, State.w64, State.r32_w32, if_neg h', State.r32_w32, if_neg h]

theorem State.r64_setBit64 (s : State) (off b : Nat) (v : Bool) {i : Nat} (hi : i < 64) :
    ((s.setBit64 off b v).r64 off).getLsbD i = if i = b then v else (s.r64 off).getLsbD i := by
  rw [State.setBit64, State.r64_w64_self, getLsbD_putFld _ _ _ _ _ hi]
  by_cases h : i = b
  · subst h; cases v <;> simp
  · rw [if_neg (by omega), if_neg h]

@[simp] theorem State.setBit64_evq (s : State) (off b : Nat) (v : Bool) : (s.setBit64 off b v).evq = s.evq := State.w64_evq ..
@[simp] theorem State.setBit64_signals (s : State) (off b : Nat) (v : Bool) : (s.setBit64 off b v).signals = s.signals := State.w64_signals ..

section
variable (s : State) {e c : Nat} (hc : c < 64)
include hc

theorem State.tcErr_w32_engTc (v : Word) (c' : Nat) : (s.w32 (Reg.engTc e c) v).tcErr e c' = s.tcErr e c' := by
  rw [State.tcErr, State.r64_w32, State.tcErr]
  · rw [Reg.engTc_word, Reg.engTcErr_word]; omega
  · rw [Reg.engTc_word, Reg.engTcErr_word4]; omega

theorem State.tcErr_setBit64_err (v : Bool) : (s.setBit64 (Reg.engTcErr e) c v).tcErr e c = v :=
  (s.r64_setBit64 _ _ _ hc).trans (if_pos rfl)

theorem State.tcStuck_setBit64_stuck (v : Bool) : (s.setBit64 (Reg.engTcStuck e) c v).tcStuck e c = v :=
  (s.r64_setBit64 _ _ _ hc).trans (if_pos rfl)

theorem State.r32_engTc_setBit64_err (b : Nat) (v : Bool) : (s.setBit64 (Reg.engTcErr e) b v).r32 (Reg.engTc e c) = s.r32 (Reg.engTc e c) :=
  s.r32_setBit64 _ _ (by rw [Reg.engTc_word, Reg.engTcErr_word]; omega) (by rw [Reg.engTc_word, Reg.engTcErr_word4]; omega)

theorem State.r32_engTc_setBit64_stuck (b : Nat) (v : Bool) :
    (s.setBit64 (Reg.engTcStuck e) b v).r32 (Reg.engTc e c) = s.r32 (Reg.engTc e c) :=
  s.r32_setBit64 _ _ (by rw [Reg.engTc_word, Reg.engTcStuck_word]; omega) (by rw [Reg.engTc_word, Reg.engTcStuck_word4]; omega)

end

theorem State.tcStuck_setBit64_err (s : State) (e b c : Nat) (v : Bool) : (s.setBit64 (Reg.engTcErr e) b v).tcStuck e c = s.tcStuck e c := by
  rw [State.tcStuck, State.r64, State.r32_setBit64, State.r32_setBit64, State.tcStuck, State.r64]
  all_goals simp

theorem State.tcErr_setBit64_stuck (s : State) (e b c : Nat) (v : Bool) : (s.setBit64 (Reg.engTcStuck e) b v).tcErr e c = s.tcErr e c := by
  rw [State.tcErr, State.r64, State.r32_setBit64, State.r32_setBit64, State.tcErr, State.r64]
  all_goals simp

theorem State.raise_tcErr (s : State) (pn bit cls src e c : Nat) : (s.raise pn bit cls src).tcErr e c = s.tcErr e c := rfl
theorem State.raise_tcStuck (s : State) (pn bit cls src e c : Nat) : (s.raise pn bit cls src).tcStuck e c = s.tcStuck e c := rfl

/-! ## A signal at a counter that lies in its register -/

/-- The error flag takes a signal's error before the addition; nothing else of the counter changes. -/
def State.errTaken (s : State) (f : Flight) : State :=
  if f.err then s.setBit64 (Reg.engTcErr f.engine) f.counter true else s

theorem State.errTaken_counter (s : State) {f : Flight} (hc : f.counter < 64) :
    (s.errTaken f).tcErr f.engine f.counter = (s.tcErr f.engine f.counter || f.err)
    ∧ (s.errTaken f).tcStuck f.engine f.counter = s.tcStuck f.engine f.counter
    ∧ (s.errTaken f).r32 (Reg.engTc f.engine f.counter) = s.r32 (Reg.engTc f.engine f.counter) ∧ (s.errTaken f).evq = s.evq
    ∧ (s.errTaken f).signals = s.signals := by
  unfold State.errTaken
  cases hf : f.err
  · simp
  · refine ⟨?_, State.tcStuck_setBit64_err .., State.r32_engTc_setBit64_err _ hc _ _, rfl, rfl⟩
    simpa using State.tcErr_setBit64_err s hc true

theorem State.tokenAdd_inReg {s : State} {f : Flight} (hc : f.counter < 64) (himg : s.tcImg f.engine f.counter = 0) :
    s.tokenAdd f =
      if s.tcStuck f.engine f.counter then s.errTaken f
      else if (s.r32 (Reg.engTc f.engine f.counter)).toNat + f.amount < 2 ^ 32 then
        ((s.errTaken f).w32 (Reg.engTc f.engine f.counter)
          (BitVec.ofNat 32 ((s.r32 (Reg.engTc f.engine f.counter)).toNat + f.amount))).jobsStored f
      else (((s.errTaken f).w32 (Reg.engTc f.engine f.counter) 0xFFFFFFFF).setBit64 (Reg.engTcStuck f.engine) f.counter true).raise
        (enPage f.engine) 9 10 f.engine := by
  obtain ⟨-, hstuck, htc, -, -⟩ := s.errTaken_counter hc
  rw [← hstuck, ← htc, State.tokenAdd, himg]
  rfl

section
variable (s : State) (f : Flight)

@[simp] theorem State.jobsStored_signals : (s.jobsStored f).signals = s.signals := by rw [State.jobsStored, State.modXpt_signals]
@[simp] theorem State.jobsStored_evq : (s.jobsStored f).evq = s.evq := by rw [State.jobsStored, State.modXpt_evq]
@[simp] theorem State.jobsStored_r32 (off : Nat) : (s.jobsStored f).r32 off = s.r32 off := by rw [State.jobsStored, State.modXpt_r32]
@[simp] theorem State.jobsStored_tcErr (e c : Nat) : (s.jobsStored f).tcErr e c = s.tcErr e c := by
  rw [State.tcErr, State.r64, State.jobsStored_r32, State.jobsStored_r32, State.tcErr, State.r64]

end

/-- What a signal leaves of its counter (R63). -/
theorem State.tokenAdd_counter {s : State} {f : Flight} (hc : f.counter < 64) (himg : s.tcImg f.engine f.counter = 0) :
    (s.tokenAdd f).signals = s.signals
    ∧ (s.tokenAdd f).tcErr f.engine f.counter = (s.tcErr f.engine f.counter || f.err)
    ∧ (s.tcStuck f.engine f.counter = true →
      (s.tokenAdd f).r32 (Reg.engTc f.engine f.counter) = s.r32 (Reg.engTc f.engine f.counter) ∧ (s.tokenAdd f).evq = s.evq)
    ∧ (s.tcStuck f.engine f.counter = false → (s.r32 (Reg.engTc f.engine f.counter)).toNat + f.amount < 2 ^ 32 →
      ((s.tokenAdd f).r32 (Reg.engTc f.engine f.counter)).toNat = (s.r32 (Reg.engTc f.engine f.counter)).toNat + f.amount
      ∧ (s.tokenAdd f).evq = s.evq)
    ∧ (s.tcStuck f.engine f.counter = false → 2 ^ 32 ≤ (s.r32 (Reg.engTc f.engine f.counter)).toNat + f.amount →
      (s.tokenAdd f).r32 (Reg.engTc f.engine f.counter) = 0xFFFFFFFF ∧ (s.tokenAdd f).tcStuck f.engine f.counter = true
      ∧ (s.tokenAdd f).evq = s.evq ++ [⟨enPage f.engine, 9, 10, f.engine⟩]) := by
  obtain ⟨herr, -, htc, hevq, hsig⟩ := s.errTaken_counter hc
  rw [State.tokenAdd_inReg hc himg]
  generalize s.errTaken f = u at herr htc hevq hsig
  cases hstuck : s.tcStuck f.engine f.counter
  case true => exact ⟨hsig, herr, fun _ => ⟨htc, hevq⟩, nofun, nofun⟩
  case false =>
    rw [if_neg Bool.false_ne_true]
    by_cases hlt : (s.r32 (Reg.engTc f.engine f.counter)).toNat + f.amount < 2 ^ 32
    · rw [if_pos hlt]
      refine ⟨?_, ?_, nofun, fun _ _ => ⟨?_, ?_⟩, fun _ h => absurd hlt (Nat.not_lt.2 h)⟩
      · rw [State.jobsStored_signals, State.w32_signals, hsig]
      · rw [State.jobsStored_tcErr, u.tcErr_w32_engTc hc, herr]
      · rw [State.jobsStored_r32, State.r32_w32_self, BitVec.toNat_ofNat, Nat.mod_eq_of_lt hlt]
      · rw [State.jobsStored_evq, State.w32_evq, hevq]
    · rw [if_neg hlt]
      refine ⟨?_, ?_, nofun, fun _ h => absurd h hlt, fun _ _ => ⟨?_, ?_, ?_⟩⟩
      · rw [State.raise_signals, State.setBit64_signals, State.w32_signals, hsig]
      · rw [State.raise_tcErr, State.tcErr_setBit64_stuck, u.tcErr_w32_engTc hc, herr]
      · rw [State.raise_r32, State.r32_engTc_setBit64_stuck _ hc, State.r32_w32_self]
      · rw [State.raise_tcStuck, State.tcStuck_setBit64_stuck _ hc]
      · rw [State.raise_evq, State.setBit64_evq, State.w32_evq, hevq]

/-- A signal to a counter that is away is added to the image that holds it, and its error to the image's error word (R396). -/
theorem State.tokenAdd_away {s : State} {f : Flight} {img : Nat} (himg : img = s.tcImg f.engine f.counter) (haway : img ≠ 0) :
    s.tokenAdd f = (let u := (s.nma (s.awayWord f.engine img (8 * f.counter)) f.engine 9 [f.amount] 0 false).1
      if f.err then (u.nma (u.awayWord f.engine img 0x200) f.engine 13 [2 ^ f.counter] 0 false).1 else u) := by
  subst himg
  rw [State.tokenAdd, if_pos haway]

/-! ## A give at its counter (R67, R396) -/

theorem State.creditAdd_away {s : State} {f : Flight} {img : Nat} (himg : img = s.ccImg f.engine f.counter) (haway : img ≠ 0) :
    s.creditAdd f = (s.nma (s.awayWord f.engine img (0x240 + 8 * f.counter)) f.engine 9 [f.amount * 2 ^ 16] 0 false).1 := by
  subst himg
  rw [State.creditAdd, if_pos haway]

theorem State.r32_orReg_self (s : State) (off : Nat) (v : Word) : (s.orReg off v).r32 off = s.r32 off ||| v := State.r32_w32_self ..

/-- The overflow flag of credit counter c is set. -/
theorem getLsbD_or_flag (w : Word) {c : Nat} (hc : c < 32) : (w ||| BitVec.ofNat 32 (2 ^ c)).getLsbD c = true := by
  rw [BitVec.getLsbD_or, BitVec.getLsbD_ofNat, Nat.testBit_two_pow_self, decide_eq_true hc, Bool.and_self, Bool.or_true]

/-- What a give leaves of its counter (R67). -/
theorem State.creditAdd_counter {s : State} {f : Flight} (hc : f.counter < 32) (himg : s.ccImg f.engine f.counter = 0) :
    (s.creditAdd f).gives = s.gives
    ∧ (s.rf (Reg.engCc f.engine f.counter) 0 16 + f.amount ≤ s.rf (Reg.engCc f.engine f.counter) 16 16 →
      (s.creditAdd f).rf (Reg.engCc f.engine f.counter) 0 16 = s.rf (Reg.engCc f.engine f.counter) 0 16 + f.amount
      ∧ (s.creditAdd f).evq = s.evq)
    ∧ (s.rf (Reg.engCc f.engine f.counter) 16 16 < s.rf (Reg.engCc f.engine f.counter) 0 16 + f.amount →
      (s.creditAdd f).rf (Reg.engCc f.engine f.counter) 0 16 = s.rf (Reg.engCc f.engine f.counter) 16 16
      ∧ ((s.creditAdd f).r32 (Reg.engCcOvf f.engine)).getLsbD f.counter = true
      ∧ (s.creditAdd f).evq = s.evq ++ [⟨enPage f.engine, 10, 10, f.engine⟩]) := by
  have hlimit : s.rf (Reg.engCc f.engine f.counter) 16 16 < 2 ^ 16 := Nat.mod_lt _ (by omega)
  have hadd : s.creditAdd f =
      if s.rf (Reg.engCc f.engine f.counter) 0 16 + f.amount ≤ s.rf (Reg.engCc f.engine f.counter) 16 16 then
        s.wf (Reg.engCc f.engine f.counter) 0 16 (s.rf (Reg.engCc f.engine f.counter) 0 16 + f.amount)
      else ((s.wf (Reg.engCc f.engine f.counter) 0 16 (s.rf (Reg.engCc f.engine f.counter) 16 16)).orReg (Reg.engCcOvf f.engine)
        (BitVec.ofNat 32 (2 ^ f.counter))).raise (enPage f.engine) 10 10 f.engine := by
    rw [State.creditAdd, himg]
    rfl
  rw [hadd]
  by_cases hle : s.rf (Reg.engCc f.engine f.counter) 0 16 + f.amount ≤ s.rf (Reg.engCc f.engine f.counter) 16 16
  · rw [if_pos hle]
    refine ⟨rfl, fun _ => ⟨?_, rfl⟩, fun h => absurd h (by omega)⟩
    rw [State.rf_wf_self _ _ _ _ _ (by omega), Nat.mod_eq_of_lt (by omega)]
  · rw [if_neg hle]
    refine ⟨rfl, fun h => absurd h hle, fun _ => ⟨?_, ?_, rfl⟩⟩
    · have hne : ¬ Reg.engCc f.engine f.counter / 4 = Reg.engCcOvf f.engine / 4 := by
        rw [Reg.engCc_word, Reg.engCcOvf_word]
        omega
      refine (State.rf_w32 ..).trans ((if_neg hne).trans ?_)
      rw [State.rf_wf_self _ _ _ _ _ (by omega), Nat.mod_eq_of_lt hlimit]
    · refine (congrArg (BitVec.getLsbD · f.counter) (State.r32_orReg_self ..)).trans ?_
      exact getLsbD_or_flag _ hc

/-! ## Arrivals -/

theorem State.giveArrive_cons {s : State} {f : Flight} {rest : List Flight} (hf : s.gives = f :: rest) :
    s.giveArrive = { s with gives := rest }.creditAdd f := by
  rw [State.giveArrive, hf]

theorem State.tokenArrive_add {s : State} (f : Flight) (h : s.duty ≠ 0) : s.tokenArrive f = s.tokenAdd f := if_neg h
theorem State.tokenArrive_hold {s : State} (f : Flight) (h : s.duty = 0) :
    s.tokenArrive f = { s with heldSignals := s.heldSignals ++ [f] } := if_pos h

/-- The oldest signal is added, or held while the duty is 0. -/
theorem State.signalArrive_cons {s : State} {f : Flight} {rest : List Flight} (hf : s.signals = f :: rest) :
    (s.duty ≠ 0 → s.signalArrive = { s with signals := rest }.tokenAdd f)
    ∧ (s.duty = 0 → s.signalArrive = { s with signals := rest, heldSignals := s.heldSignals ++ [f] }) := by
  rw [State.signalArrive, hf]
  exact ⟨State.tokenArrive_add (s := { s with signals := rest }) f, State.tokenArrive_hold (s := { s with signals := rest }) f⟩

@[simp] theorem Footprint.apply_tcErr (fp : Footprint) (s t : State) (e c : Nat) :
    (fp.apply s t).tcErr e c = if fp.regs then t.tcErr e c else s.tcErr e c := by
  rw [State.tcErr, Footprint.apply_r64]
  split <;> rfl

@[simp] theorem Footprint.apply_tcStuck (fp : Footprint) (s t : State) (e c : Nat) :
    (fp.apply s t).tcStuck e c = if fp.regs then t.tcStuck e c else s.tcStuck e c := by
  rw [State.tcStuck, Footprint.apply_r64]
  split <;> rfl

/-- Settles O28: a signal and a give arrive at their counters. -/
theorem tokensAndCreditsArrive : Obligations.TokensAndCreditsArrive := by
  unfold Obligations.TokensAndCreditsArrive
  refine ⟨?_, ?_, ?_, ?_, ?_⟩
  · intro s f rest hs hf hduty _ hc himg
    refine completes_run hs (exec_tokenSignalArrive s) ?_
    rw [(State.signalArrive_cons hf).1 hduty]
    simp only [Footprint.apply_signals, Footprint.apply_tcErr, Footprint.apply_tcStuck, Footprint.apply_r32, Footprint.apply_evq, if_true]
    exact State.tokenAdd_counter (s := { s with signals := rest }) hc himg
  · intro s f rest hs hf hduty
    refine completes_run hs (exec_tokenSignalArrive s) ?_
    rw [(State.signalArrive_cons hf).2 hduty]
    exact ⟨rfl, rfl, rfl, rfl⟩
  · intro s u f rest img hs hf hduty himg haway hu
    have harrive : s.signalArrive = if f.err then (u.nma (u.awayWord f.engine img 0x200) f.engine 13 [2 ^ f.counter] 0 false).1 else u := by
      rw [(State.signalArrive_cons hf).1 hduty, State.tokenAdd_away (s := { s with signals := rest }) himg haway, hu]
      rfl
    refine ⟨fun herr => completes_run hs (exec_tokenSignalArrive s) ?_, fun herr => completes_run hs (exec_tokenSignalArrive s) ?_⟩
    · rw [Footprint.apply_mem, if_pos rfl, harrive, herr, if_neg Bool.false_ne_true]
    · rw [Footprint.apply_mem, if_pos rfl, harrive, herr, if_pos rfl]
  · intro s f rest img hs hf himg haway
    refine completes_run hs (exec_creditGiveArrive s) ?_
    rw [Footprint.apply_mem, if_pos rfl, State.giveArrive_cons hf, State.creditAdd_away (s := { s with gives := rest }) himg haway]
    rfl
  · intro s f rest hs hf _ hc himg
    refine completes_run hs (exec_creditGiveArrive s) ?_
    rw [State.giveArrive_cons hf]
    simp only [Footprint.apply_gives, Footprint.apply_r32, Footprint.apply_rf, Footprint.apply_evq, if_true]
    exact State.creditAdd_counter (s := { s with gives := rest }) hc himg

end Sys2Proof.Machine
end

section
/-! SUPPORT. Writes of the counters (R63, R67, R78, R397), and STALL (R72). -/
namespace Sys2Proof.Machine

open Sys2Proof

/-- A signal without error to a counter that counts and does not overflow changes that counter's word only. -/
theorem State.tokenAdd_r32_other {s : State} {f : Flight} (hc : f.counter < 64) (himg : s.tcImg f.engine f.counter = 0) (herr : f.err = false)
    (hstuck : s.tcStuck f.engine f.counter = false) (hlt : (s.r32 (Reg.engTc f.engine f.counter)).toNat + f.amount < 2 ^ 32) {o : Nat}
    (ho : o / 4 ≠ Reg.engTc f.engine f.counter / 4) : (s.tokenAdd f).r32 o = s.r32 o := by
  have hsame : s.errTaken f = s := by rw [State.errTaken, herr, if_neg Bool.false_ne_true]
  rw [State.tokenAdd_inReg hc himg, hstuck, if_neg Bool.false_ne_true, if_pos hlt, State.jobsStored_r32, hsame, State.r32_w32, if_neg ho]

/-! ## ENG_TCt and ENG_CCc -/

theorem State.tcWrite_away {s : State} {e c : Nat} (v : Word) (h : s.tcImg e c ≠ 0) : s.tcWrite e c v = s.raise (enPage e) 1 10 e := if_pos h
theorem State.ccWrite_away {s : State} {e c : Nat} (v : Word) (h : s.ccImg e c ≠ 0) : s.ccWrite e c v = s.raise (enPage e) 1 10 e := if_pos h

theorem State.tcWrite_here {s : State} {e c : Nat} (v : Word) (h : s.tcImg e c = 0) :
    s.tcWrite e c v = (s.w32 (Reg.engTc e c) v).setBit64 (Reg.engTcStuck e) c false := if_neg (by simpa using h)

theorem State.ccWrite_within {s : State} {e c : Nat} {v : Word} (h : s.ccImg e c = 0) (hv : fld v 0 16 ≤ fld v 16 16) :
    s.ccWrite e c v = s.w32 (Reg.engCc e c) v := (if_neg (by simpa using h)).trans (if_pos hv)

theorem State.ccWrite_above {s : State} {e c : Nat} {v : Word} (h : s.ccImg e c = 0) (hv : fld v 16 16 < fld v 0 16) :
    s.ccWrite e c v = ((s.w32 (Reg.engCc e c) (putFld v 0 16 (fld v 16 16))).orReg (Reg.engCcOvf e) (BitVec.ofNat 32 (2 ^ c))).raise
      (enPage e) 10 10 e := (if_neg (by simpa using h)).trans (if_neg (by omega))

/-- VALUE of a credit counter is cut to LIMIT, with the overflow flag (R67). -/
theorem State.ccWrite_above_counter {s : State} {e c : Nat} {v : Word} (hc : c < 32) (h : s.ccImg e c = 0) (hv : fld v 16 16 < fld v 0 16) :
    (s.ccWrite e c v).rf (Reg.engCc e c) 0 16 = fld v 16 16 ∧ (s.ccWrite e c v).rf (Reg.engCc e c) 16 16 = fld v 16 16
    ∧ ((s.ccWrite e c v).r32 (Reg.engCcOvf e)).getLsbD c = true ∧ (s.ccWrite e c v).evq = s.evq ++ [⟨enPage e, 10, 10, e⟩] := by
  have hlimit : fld v 16 16 < 2 ^ 16 := Nat.mod_lt _ (by omega)
  have hne : ¬ Reg.engCc e c / 4 = Reg.engCcOvf e / 4 := by rw [Reg.engCc_word, Reg.engCcOvf_word]; omega
  have hword : (s.ccWrite e c v).r32 (Reg.engCc e c) = putFld v 0 16 (fld v 16 16) := by
    rw [State.ccWrite_above h hv, State.raise_r32, State.orReg, State.r32_w32, if_neg hne, State.r32_w32_self]
  refine ⟨?_, ?_, ?_, ?_⟩
  · rw [State.rf, hword, fld_putFld _ _ _ _ (by omega), Nat.mod_eq_of_lt hlimit]
  · rw [State.rf, hword, fld_putFld_apart _ _ _ _ _ _ (by omega) (by omega)]
  · rw [State.ccWrite_above h hv, State.raise_r32, State.r32_orReg_self, getLsbD_or_flag _ hc]
  · rw [State.ccWrite_above h hv, State.raise_evq, State.orReg_evq, State.w32_evq]

/-- Settles O29, by the counters' writes and by what a signal leaves of its counter. -/
theorem counterWrites : Obligations.CounterWrites := by
  have hindex (v : Word) : fld v 0 6 < 64 := Nat.mod_lt _ (by omega)
  unfold Obligations.CounterWrites
  refine ⟨?_, ?_, ?_, ?_, ?_, ?_, ?_, ?_, ?_⟩
  · intro s e v hs hduty herr himg hstuck hlt
    refine completes_run hs (exec_engTcAdd e v s) ?_
    rw [State.tcAdd, State.tokenArrive_add _ hduty]
    simp only [Footprint.apply_r32, if_true]
    obtain ⟨-, -, -, hcount, -⟩ := State.tokenAdd_counter (f := ⟨e.val, fld v 0 6, fld v 16 16, v.getLsbD 8⟩) (hindex v) himg
    have hother {o : Nat} := State.tokenAdd_r32_other (f := ⟨e.val, fld v 0 6, fld v 16 16, v.getLsbD 8⟩) (hindex v) himg herr hstuck hlt (o := o)
    exact ⟨(hcount hstuck hlt).1, fun o ho => hother ho⟩
  · rintro s e v c hs hduty rfl himg
    refine completes_run hs (exec_engTcAdd e v s) ?_
    rw [State.tcAdd, State.tokenArrive_add _ hduty]
    simp only [Footprint.apply_r32, Footprint.apply_tcErr, Footprint.apply_tcStuck, Footprint.apply_evq, if_true]
    obtain ⟨-, herr, hstuck, -, hover⟩ := State.tokenAdd_counter (f := ⟨e.val, fld v 0 6, fld v 16 16, v.getLsbD 8⟩) (hindex v) himg
    exact ⟨herr, hstuck, hover⟩
  · intro s e v img hs hduty herr himg haway
    refine completes_run hs (exec_engTcAdd e v s) ?_
    rw [Footprint.apply_mem, if_pos rfl, State.tcAdd, State.tokenArrive_add _ hduty,
      State.tokenAdd_away (f := ⟨e.val, fld v 0 6, fld v 16 16, v.getLsbD 8⟩) himg haway]
    simp only [herr, Bool.false_eq_true, if_false]
  · intro s e v hs hduty
    refine completes_run hs (exec_engTcAdd e v s) ?_
    rw [State.tcAdd, State.tokenArrive_hold _ hduty]
    exact ⟨rfl, rfl⟩
  · intro s e c v hs himg
    refine completes_run hs (exec_engTcWrite e c v s) ?_
    rw [State.tcWrite_here v himg]
    simp only [Footprint.apply_r32, Footprint.apply_tcStuck, Footprint.apply_evq, if_true]
    refine ⟨?_, State.tcStuck_setBit64_stuck _ c.isLt false, ?_, fun c' hne => ?_⟩
    · rw [State.r32_engTc_setBit64_stuck _ c.isLt, State.r32_w32_self]
    · rw [State.setBit64_evq, State.w32_evq]
    · have hother : c'.val ≠ c.val := fun h => hne (Fin.ext h)
      rw [State.r32_engTc_setBit64_stuck _ c'.isLt, State.r32_w32, if_neg (by rw [Reg.engTc_word, Reg.engTc_word]; omega)]
  · intro s e c v hs himg hv
    refine completes_run hs (exec_engCcWrite e c v s) ?_
    rw [State.ccWrite_within himg hv]
    simp only [Footprint.apply_r32, Footprint.apply_evq, if_true]
    exact ⟨State.r32_w32_self .., State.w32_evq .., fun o ho => (State.r32_w32 ..).trans (if_neg ho)⟩
  · intro s e c v hs himg hv
    refine completes_run hs (exec_engCcWrite e c v s) ?_
    simp only [Footprint.apply_r32, Footprint.apply_rf, Footprint.apply_evq, if_true]
    exact State.ccWrite_above_counter c.isLt himg hv
  · intro s e c v hs himg
    refine completes_run hs (exec_engTcWrite e c v s) ?_
    rw [State.tcWrite_away v himg]
    exact ⟨rfl, rfl⟩
  · intro s e c v hs himg
    refine completes_run hs (exec_engCcWrite e c v s) ?_
    rw [State.ccWrite_away v himg]
    exact ⟨rfl, rfl⟩

/-! ## STALL -/

/-- Settles O30: every condition of R72 is given, and STALL is raised. -/
theorem stallIsRaised : Obligations.StallIsRaised := by
  unfold Obligations.StallIsRaised
  intro s e hs hen hlimit hstalled hbusy hpast
  have hne : (s.r32 (Reg.engStallLimit e.val)).toNat ≠ 0 := fun h => hlimit (BitVec.eq_of_toNat_eq h)
  have hraise : s.stallCheck e.val = ((s.w32 (Reg.engStallSnap e.val) (BitVec.ofNat 32 (s.stallSnap e.val))).modEngine e.val
      fun g => { g with stalled := true }).raise (enPage e.val) 12 10 e.val := by
    rw [State.stallCheck]
    exact if_pos ⟨hen, hne, by simp [hstalled], hbusy, hpast⟩
  refine completes_run hs (exec_stall e s) ?_
  rw [hraise]
  have hevq (u : State) : (u.modEngine e.val fun g => { g with stalled := true }).evq = u.evq := rfl
  have hr (u : State) (o : Nat) : (u.modEngine e.val fun g => { g with stalled := true }).r32 o = u.r32 o := rfl
  simp only [taskFoot, Footprint.apply_evq, Footprint.apply_engine, Footprint.apply_r32, if_true]
  refine ⟨?_, ?_, ?_, fun o ho => ?_⟩
  · rw [State.raise_evq, hevq, State.w32_evq]
  · rw [State.raise_engine, State.modEngine_self]
  · rw [State.raise_r32, hr, State.r32_w32_self]
  · rw [State.raise_r32, hr, State.r32_w32, if_neg ho]

end Sys2Proof.Machine
end

section
/-! SUPPORT. TAIL, the fetch of descriptors, and FSTOP (R58, R495). -/
namespace Sys2Proof.Machine

open Sys2Proof

/-! ## TAIL -/

theorem State.tailWrite_taken {s : State} {e q : Nat} {v : Word}
    (hroom : wrapDist v (s.r32 (Reg.engQDone e q)) ≤ 2 ^ s.rf (Reg.engQCfg e q) 0 5)
    (hhead : wrapDist (s.r32 (Reg.engQHead e q)) (s.r32 (Reg.engQDone e q)) ≤ wrapDist v (s.r32 (Reg.engQDone e q))) :
    s.tailWrite e q v = (s.w32 (Reg.engQTail e q) v).modEngine e fun g => { g with
      fetched := Sparse.set (fun _ => []) g.fetched q ((Sparse.get (fun _ => []) g.fetched q).take
        (wrapDist v (s.r32 (Reg.engQDone e q)) - wrapDist (s.r32 (Reg.engQHead e q)) (s.r32 (Reg.engQDone e q)))) } :=
  if_pos ⟨hroom, hhead⟩

theorem State.tailWrite_refused {s : State} {e q : Nat} {v : Word}
    (h : 2 ^ s.rf (Reg.engQCfg e q) 0 5 < wrapDist v (s.r32 (Reg.engQDone e q))
      ∨ wrapDist v (s.r32 (Reg.engQDone e q)) < wrapDist (s.r32 (Reg.engQHead e q)) (s.r32 (Reg.engQDone e q))) :
    s.tailWrite e q v = s.raise (enPage e) 11 10 e :=
  if_neg fun ⟨hroom, hhead⟩ => h.elim (Nat.not_lt.2 hroom) (Nat.not_lt.2 hhead)

/-! ## Reading a descriptor -/

/-- A descriptor's read leaves the engines. -/
theorem State.readDesc_engines (s : State) (e q : Nat) (i : Word) : (s.readDesc e q i).1.engines = s.engines := by
  unfold State.readDesc
  dsimp only
  split
  · rfl
  · generalize hr : s.lineRead _ _ _ _ = r
    have hkeeps : r.1.engines = s.engines := by
      rw [← hr]
      exact (lineRead_keeps ..).engines rfl
    split_ifs <;> exact hkeeps

/-- A descriptor that cannot be read has cause 1 or 2. -/
theorem State.readDesc_cause {s : State} {e q : Nat} {i : Word} {cause : Nat} (h : (s.readDesc e q i).2 = .inr cause) : cause < 4 := by
  unfold State.readDesc at h
  dsimp only at h
  split_ifs at h <;> simp at h <;> omega

/-! ## FSTOP -/

/-- A queue stops at a descriptor: FSTOP and the cause are in its status, and the event is raised. -/
theorem State.fetchStop_status (s : State) (e q : Nat) {cause : Nat} (hc : cause < 4) :
    (s.fetchStop e q cause).rb (Reg.engQStat e q) 9 = true ∧ (s.fetchStop e q cause).rf (Reg.engQStat e q) 10 2 = cause
    ∧ (s.fetchStop e q cause).evq = s.evq ++ [⟨enPage e, 25, 2, e⟩] ∧ (s.fetchStop e q cause).engines = s.engines := by
  refine ⟨?_, ?_, rfl, rfl⟩
  · rw [State.fetchStop, State.raise_rb, State.rb_wf, if_pos rfl, getLsbD_putFld _ _ _ _ _ (by omega), if_neg (by omega)]
    exact (State.rb_wb _ _ _ _ _ (by omega)).trans (if_pos rfl)
  · rw [State.fetchStop, State.raise_rf, State.rf_wf_self _ _ _ _ _ (by omega), Nat.mod_eq_of_lt (by omega)]

/-- FSTOP and its cause cleared. -/
def State.fstopCleared (s : State) (e q : Nat) : State := (s.wb (Reg.engQStat e q) 9 false).wf (Reg.engQStat e q) 10 2 0

theorem State.fstopCleared_status (s : State) (e q : Nat) :
    (s.fstopCleared e q).rb (Reg.engQStat e q) 9 = false ∧ (s.fstopCleared e q).rf (Reg.engQStat e q) 10 2 = 0 := by
  refine ⟨?_, ?_⟩
  · rw [State.fstopCleared, State.rb_wf, if_pos rfl, getLsbD_putFld _ _ _ _ _ (by omega), if_neg (by omega)]
    exact (State.rb_wb _ _ _ _ _ (by omega)).trans (if_pos rfl)
  · rw [State.fstopCleared, State.rf_wf_self _ _ _ _ _ (by omega), Nat.zero_mod]

theorem State.fstopCleared_r32 (s : State) {e q off : Nat} (h : off / 4 ≠ Reg.engQStat e q / 4) :
    (s.fstopCleared e q).r32 off = s.r32 off := by
  rw [State.fstopCleared, State.r32_wf_other _ _ _ _ _ _ h, State.wb, State.r32_wf_other _ _ _ _ _ _ h]

theorem State.fstopClear_stopped {s : State} {e q : Nat} (h : s.rb (Reg.engQStat e q) 9 = true) :
    s.fstopClear e q = (s.fstopCleared e q).fetch e q := if_pos h

/-- Clearing FSTOP changes nothing of what there is to fetch. -/
theorem toFetch_fstopCleared (s : State) (e q : Nat) : toFetch (s.fstopCleared e q) e q = toFetch s e q := by
  have hr {off : Nat} (h : off / 4 ≠ Reg.engQStat e q / 4) := s.fstopCleared_r32 h
  have hact : (s.fstopCleared e q).active (enPage e) = s.active (enPage e) := by
    unfold State.active State.rb
    rw [hr (by rw [Reg.engQStat_word]; unfold blkStat enPage; omega)]
  have heng : (s.fstopCleared e q).engine e = s.engine e := rfl
  rw [toFetch, hact, heng, hr (by rw [Reg.engQStat_word, Reg.engQHead_word]; omega), hr (by rw [Reg.engQStat_word, Reg.engQDone_word]; omega),
    hr (by rw [Reg.engQStat_word, Reg.engQTail_word]; omega), toFetch]

/-! ## The fetch -/

/-- There is nothing to fetch, or the queue has stopped. -/
theorem State.fetch_idle {s : State} {e q : Nat} (h : toFetch s e q = false ∨ s.rb (Reg.engQStat e q) 9 = true) : s.fetch e q = s := by
  refine if_pos ?_
  rcases h with h | h
  · simp only [toFetch, Bool.and_eq_false_iff, decide_eq_false_iff_not, Nat.not_lt] at h
    rcases h with h | h
    · exact Or.inl (by simp [h])
    · exact Or.inr (Or.inr h)
  · exact Or.inr (Or.inl h)

/-- The place in its queue of the next descriptor to fetch. -/
def State.fetchAt (s : State) (e q : Nat) : Word :=
  s.r32 (Reg.engQHead e q) + BitVec.ofNat 32 (Sparse.get (fun _ => []) (s.engine e).fetched q).length

section
variable {s : State} {e q : Nat} (hto : toFetch s e q = true) (hrun : s.rb (Reg.engQStat e q) 9 = false)
include hto hrun

theorem State.fetch_runs : ¬ ((!s.active (enPage e)) = true ∨ s.rb (Reg.engQStat e q) 9 = true
    ∨ wrapDist (s.r32 (Reg.engQTail e q)) (s.r32 (Reg.engQDone e q)) ≤ wrapDist (s.fetchAt e q) (s.r32 (Reg.engQDone e q))) := by
  simp only [toFetch, Bool.and_eq_true, decide_eq_true_eq] at hto
  obtain ⟨hact, hbelow⟩ := hto
  rw [hact, hrun]
  simpa [State.fetchAt] using hbelow

/-- A descriptor that can be read joins those fetched. -/
theorem State.fetch_reads {d : Desc} (hd : (s.readDesc e q (s.fetchAt e q)).2 = .inl d) :
    s.fetch e q = ((s.readDesc e q (s.fetchAt e q)).1.fetchLower s.mem.lower.length e q (s.fetchAt e q)).modEngine e fun g => { g with
      fetched := Sparse.set (fun _ => []) g.fetched q (Sparse.get (fun _ => []) (s.engine e).fetched q ++ [d]) } := by
  unfold State.fetch
  refine (if_neg (State.fetch_runs hto hrun)).trans ?_
  unfold State.fetchAt at hd
  dsimp only
  rw [hd]
  rfl

/-- At one that cannot the queue stops. -/
theorem State.fetch_stops {cause : Nat} (hc : (s.readDesc e q (s.fetchAt e q)).2 = .inr cause) :
    s.fetch e q = (s.readDesc e q (s.fetchAt e q)).1.fetchStop e q cause := by
  unfold State.fetch
  refine (if_neg (State.fetch_runs hto hrun)).trans ?_
  unfold State.fetchAt at hc
  dsimp only
  rw [hc]
  rfl

end

/-- The next descriptor is fetched from u, whose engines and HEAD are those of s, or the queue stops at it. -/
theorem fetched_of_fetch {fp : Footprint} (hr : fp.regs = true) (hv : fp.events = true) (hg : fp.engines = true) {s u : State} {e q : Nat}
    (hto : toFetch u e q = true) (hrun : u.rb (Reg.engQStat e q) 9 = false) (heng : u.engines = s.engines)
    (hhead : u.r32 (Reg.engQHead e q) = s.r32 (Reg.engQHead e q)) : Fetched s u e q (fp.apply s (u.fetch e q)) := by
  have hengine : u.engine e = s.engine e := by rw [State.engine, heng, State.engine]
  have hat : u.fetchAt e q = s.fetchAt e q := by rw [State.fetchAt, hengine, hhead, State.fetchAt]
  refine ⟨_, s.fetchAt e q, rfl, rfl, fun d hd => ?_, fun cause hc => ?_⟩
  · rw [State.fetch_reads hto hrun (hat ▸ hd), hat, Footprint.apply_engine, hg, if_pos rfl, Footprint.apply_evq, hv, if_pos rfl,
      State.modEngine_self, hengine]
    exact ⟨Sparse.get_set_self .., rfl⟩
  · rw [State.fetch_stops hto hrun (hat ▸ hc), hat]
    obtain ⟨hstop, hcause, hevq, hsame⟩ := (u.readDesc e q (s.fetchAt e q)).1.fetchStop_status e q (State.readDesc_cause hc)
    simp only [Footprint.apply_rb, hr, Footprint.apply_rf, Footprint.apply_evq, hv, Footprint.apply_engines, hg, if_true]
    exact ⟨hstop, hcause, hevq, hsame.trans ((u.readDesc_engines e q _).trans heng)⟩

/-- Settles O25: TAIL is taken or refused, a descriptor is fetched or not, and FSTOP is cleared. -/
theorem queueTailAndFetch : Obligations.QueueTailAndFetch := by
  unfold Obligations.QueueTailAndFetch
  refine ⟨?_, ?_, ?_, ?_, ?_⟩
  · rintro s e q v _ _ hs rfl rfl
    refine ⟨fun hroom hhead => ?_, fun hno => ?_⟩
    · refine completes_run hs (exec_queueTailWrite e q v s) ?_
      rw [State.tailWrite_taken hroom hhead]
      simp only [taskFoot, Footprint.apply_evq, Footprint.apply_engine, Footprint.apply_r32, if_true, State.modEngine_self]
      refine ⟨?_, rfl, Sparse.get_set_self .., fun o ho => ?_⟩
      · exact State.r32_w32_self ..
      · exact (State.r32_w32 ..).trans (if_neg ho)
    · refine completes_run hs (exec_queueTailWrite e q v s) ?_
      rw [State.tailWrite_refused hno]
      exact ⟨rfl, rfl, rfl⟩
  · intro s e q hs hto hrun
    exact completes_run hs (exec_descriptorFetch e q s) (fetched_of_fetch rfl rfl rfl hto hrun rfl rfl)
  · intro s e q hs hidle
    refine completes_run hs (exec_descriptorFetch e q s) ?_
    rw [State.fetch_idle hidle]
    exact ⟨rfl, rfl, rfl⟩
  · intro s e q hs hstop
    obtain ⟨hrun, hcause⟩ := s.fstopCleared_status e.val q.val
    refine ⟨fun hto => completes_run hs (exec_fstopClear e q s) ?_, fun hidle => completes_run hs (exec_fstopClear e q s) ?_⟩
    · rw [State.fstopClear_stopped hstop]
      exact fetched_of_fetch rfl rfl rfl ((toFetch_fstopCleared ..).trans hto) hrun rfl
        (s.fstopCleared_r32 (by rw [Reg.engQStat_word, Reg.engQHead_word]; omega))
    · rw [State.fstopClear_stopped hstop, State.fetch_idle (Or.inl ((toFetch_fstopCleared ..).trans hidle))]
      simp only [moveFoot, Footprint.apply_rb, Footprint.apply_rf, Footprint.apply_r32, if_true]
      exact ⟨hrun, hcause, rfl, fun o ho => s.fstopCleared_r32 ho⟩
  · intro s e q hs hrun
    refine completes_run hs (exec_fstopClear e q s) ?_
    have hsame : s.fstopClear e.val q.val = s := if_neg (by simp [hrun])
    rw [hsame]
    exact ⟨rfl, rfl, rfl⟩

end Sys2Proof.Machine
end

section
/-! SUPPORT. Enabling, draining and forcing units by their pages (R75, R76, R234, R272, R287, R494). -/
namespace Sys2Proof.Machine

open Sys2Proof

theorem Reg.page_bmPage {n : Nat} (h : n < 16) : Reg.page (bmPage n) = some (.brd, n) := by
  unfold Reg.page bmPage
  repeat rw [if_neg (by omega)]
  rw [if_pos (by omega), Nat.add_sub_cancel_left]

theorem Reg.page_fpPage {p : Nat} (h : p < 8) : Reg.page (fpPage p) = some (.fab, p) := by
  unfold Reg.page fpPage
  repeat rw [if_neg (by omega)]
  rw [if_pos (by omega), Nat.add_sub_cancel_left]

/-! ## Channels and board interfaces -/

theorem enabled_notDraining (s : State) (pn : Nat) : (s.enabled pn).draining pn = false :=
  (State.rb_wb _ _ _ _ _ (by omega)).trans (if_pos rfl)

theorem memoryOn_chPage {s : State} {ch : Nat} (hforced : s.forced.contains (chPage ch) = false) (hidle : s.rb (Reg.stkStat ch) 0 = false)
    (howed : s.mem.wbOwed = []) : s.memoryOn (chPage ch) = s.enabled (chPage ch) := by
  have hstat : s.rb (Reg.stkStat (chPage ch - 0x1000)) 0 = false := by rwa [chPage, Nat.add_sub_cancel_left]
  rw [State.memoryOn, if_neg (by rw [hforced, hstat]; simp), if_pos (by unfold chPage; omega), State.wbOwedLines]
  simp [howed, State.each, State.enabled]

theorem memoryOn_bmPage {s : State} {n : Nat} (hn : n < 16) (hforced : s.forced.contains (bmPage n) = false) :
    s.memoryOn (bmPage n) = s.enabled (bmPage n) := by
  have hpage : ¬ 0x1000 ≤ bmPage n := by unfold bmPage; omega
  rw [State.memoryOn, if_neg (by rw [hforced]; simp [hpage]), if_neg hpage, State.enabled]

/-- The three lowest bits of a word, as their field. -/
theorem fld_low_three (v : Word) : fld v 0 3 = (v.getLsbD 0).toNat + 2 * (v.getLsbD 1).toNat + 4 * (v.getLsbD 2).toNat := by
  simp only [fld, BitVec.getLsbD, Nat.toNat_testBit]
  omega

/-- BLK_STAT of a unit that stands off: ACTIVE and DRAINING 0, FORCED as given. -/
theorem statOff_status (s : State) (pn : Nat) (forced : Bool) : (s.statOff pn forced).active pn = false
    ∧ (s.statOff pn forced).draining pn = false ∧ (s.statOff pn forced).rf (blkStat pn) 0 3 = 4 * forced.toNat := by
  have hbit {b : Nat} (hb : b < 32) : (s.statOff pn forced).rb (blkStat pn) b
      = if b = 2 then forced else if b = 1 then false else if b = 0 then false else s.rb (blkStat pn) b := by
    rw [State.statOff, State.rb_wb _ _ _ _ _ hb, State.rb_wb _ _ _ _ _ hb, State.rb_wb _ _ _ _ _ hb]
  have h0 : (s.statOff pn forced).rb (blkStat pn) 0 = false := hbit (by omega)
  have h1 : (s.statOff pn forced).rb (blkStat pn) 1 = false := hbit (by omega)
  have h2 : (s.statOff pn forced).rb (blkStat pn) 2 = forced := hbit (by omega)
  refine ⟨h0, h1, ?_⟩
  unfold State.rb at h0 h1 h2
  rw [State.rf, fld_low_three, h0, h1, h2]
  simp

/-! ## Placement -/

/-- Where a line lies and what is quarantined are in the core pages (R213, R214, R238). -/
theorem place_congr {s t : State} (h : ∀ off, 0x40000 ≤ off / 4 → off / 4 < 0x42000 → t.r32 off = s.r32 off) (p : Nat) :
    t.place p = s.place p := by
  by_cases hj : 96 ≤ p / 2 ^ 33
  · rw [State.place, if_pos hj, State.place, if_pos hj]
  · have hmode {c : Nat} (hc : c < 8) : t.panMode c (p / 2 ^ 33) = s.panMode c (p / 2 ^ 33) := by
      have hw : Reg.corePanMode c (p / 2 ^ 33 / 16) / 4 = 0x40100 + 0x400 * c + p / 2 ^ 33 / 16 := by
        unfold Reg.corePanMode Reg.corePage; omega
      rw [State.panMode, State.rf, h _ (by omega) (by omega), State.panMode, State.rf]
    have hcores : t.chipCores (p / 2 ^ 33) = s.chipCores (p / 2 ^ 33) :=
      List.filter_congr fun c hc => by rw [hmode (List.mem_range.1 hc)]
    have hcore : p % 2 ^ 33 / 2 ^ 30 < 8 := by omega
    simp only [State.place, hcores, hmode hcore]

theorem chanBusy_congr {s t : State} (h : ∀ off, 0x40000 ≤ off / 4 → off / 4 < 0x42000 → t.r32 off = s.r32 off) (hm : t.mem = s.mem)
    (ch : Nat) : t.chanBusy ch = s.chanBusy ch := by
  have hkey : t.waitingKey = s.waitingKey := by
    funext w
    cases w <;> simp only [State.waitingKey, place_congr h]
  rw [State.chanBusy, hm, hkey, State.chanBusy]

/-- Whether accesses of a memory page are outstanding does not hang on its own BLK_CTRL. -/
theorem pageBusy_wb_ctrl (s : State) {pn : Nat} (hpn : 0x200 ≤ pn) (lo : Nat) (b : Bool) :
    (s.wb (blkCtrl pn) lo b).pageBusy pn = s.pageBusy pn := by
  have hr (off : Nat) (_ : 0x40000 ≤ off / 4) (h : off / 4 < 0x42000) : (s.wb (blkCtrl pn) lo b).r32 off = s.r32 off :=
    State.r32_wf_other _ _ _ _ _ _ (by unfold blkCtrl; omega)
  unfold State.pageBusy
  split
  · rfl
  · exact chanBusy_congr hr (State.wb_mem ..) _
  · rfl

/-- A disabled channel or board interface that is active drains while accesses that have reached it are not finished, else it stands off. -/
theorem memoryOff_status {s : State} {pn : Nat} (hpn : 0x200 ≤ pn) (hact : s.active pn = true) :
    (s.memoryOff pn).rb (blkCtrl pn) 0 = false ∧ (s.memoryOff pn).active pn = s.pageBusy pn
    ∧ (s.pageBusy pn = true → (s.memoryOff pn).draining pn = true) ∧ (s.memoryOff pn).mem = s.mem := by
  have hne := blkCtrl_word_ne_blkStat pn
  have hact' : (s.wb (blkCtrl pn) 0 false).active pn = true := by rwa [State.active, State.rb_wb_other _ _ _ _ hne.symm]
  have hbusy : (s.wb (blkCtrl pn) 0 false).pageBusy pn = s.pageBusy pn := pageBusy_wb_ctrl s hpn 0 false
  have hctrl : (s.wb (blkCtrl pn) 0 false).rb (blkCtrl pn) 0 = false := (State.rb_wb _ _ _ _ _ (by omega)).trans (if_pos rfl)
  rw [State.memoryOff, if_neg (by simp [hact']), hbusy]
  have hmem : (s.wb (blkCtrl pn) 0 false).mem = s.mem := State.wb_mem ..
  generalize s.wb (blkCtrl pn) 0 false = u at hact' hctrl hmem
  cases s.pageBusy pn
  case true =>
    rw [if_pos rfl]
    refine ⟨(State.rb_wb_other _ _ _ _ hne).trans hctrl, (State.rb_wb _ _ _ _ _ (by omega)).trans hact', fun _ => ?_, ?_⟩
    · exact (State.rb_wb _ _ _ _ _ (by omega)).trans (if_pos rfl)
    · rw [State.wb_mem, hmem]
  case false =>
    rw [if_neg Bool.false_ne_true]
    refine ⟨?_, (statOff_status ..).1, nofun, ?_⟩
    · rw [State.statOff, State.rb_wb_other _ _ _ _ hne, State.rb_wb_other _ _ _ _ hne, State.rb_wb_other _ _ _ _ hne, hctrl]
    · rw [State.statOff, State.wb_mem, State.wb_mem, State.wb_mem, hmem]

/-! ## Ports -/

theorem State.modPort_self (s : State) (p : Nat) (f : Port → Port) : (s.modPort p f).port p = f (s.port p) := Sparse.get_set_self ..

theorem sendCodeword_r32 (s : State) (p : Nat) (c : Content) (off : Nat) : (s.sendCodeword p c).r32 off = s.r32 off := by
  unfold State.sendCodeword
  split <;> rfl

/-- A full training of a port that does not run Ethernet puts it in DETECT and leaves its BLK_CTRL and BLK_STAT. -/
theorem startTraining_saltern {s : State} {p : Nat} (hp : p < 8) (hcfg : (s.r32 (Reg.fabCfg p)).getLsbD 0 = false) :
    (s.startTraining p).portState p = 1
    ∧ ∀ off, off / 4 = blkCtrl (fpPage p) / 4 ∨ off / 4 = blkStat (fpPage p) / 4 → (s.startTraining p).r32 off = s.r32 off := by
  have hactive : blkProtoActive (portPage p) / 4 = 0x88010 + 0x400 * p := by
    rw [portPage, if_pos hp, blkProtoActive, fpPage]; omega
  have hstat : statReg p / 4 = 0x88042 + 0x400 * p := by rw [statReg, if_pos hp, Reg.fabStat, Reg.fabPage]; omega
  have heth : ((s.takeCfg p).port p).cfg.getLsbD 0 = false := by
    rw [State.takeCfg, State.modPort_self, if_pos hp]
    exact hcfg
  unfold State.startTraining State.trainFrom
  generalize hu : (((s.takeCfg p).w32 (blkProtoActive (portPage p)) 0).modPort p _) = u
  have hr (off : Nat) (h : off / 4 ≠ 0x88010 + 0x400 * p) : u.r32 off = s.r32 off := by
    rw [← hu]
    exact (State.r32_w32 ..).trans (if_neg (by rwa [hactive]))
  have hueth : u.ethernet p = false := by
    rw [← hu, State.ethernet, State.modPort_self]
    exact Bool.and_eq_false_imp.2 fun _ => heth
  dsimp only
  rw [hueth, if_neg (by simp), if_neg Bool.false_ne_true, State.setBad, if_pos hp, State.setActive, if_pos hp, State.setPortState]
  refine ⟨?_, fun off hoff => ?_⟩
  · rw [State.portState, State.rf, sendCodeword_r32]
    exact State.rf_wf_self _ _ _ _ _ (by omega)
  · have hne : off / 4 ≠ statReg p / 4 := by
      rw [hstat]
      unfold blkCtrl blkStat fpPage at hoff
      omega
    rw [sendCodeword_r32, State.r32_wf_other _ _ _ _ _ _ hne, State.r32_wf_other _ _ _ _ _ _ hne, State.r32_wf_other _ _ _ _ _ _ hne]
    refine hr off ?_
    unfold blkCtrl blkStat fpPage at hoff
    omega

/-- A port that is DOWN begins training as it is enabled (R287). -/
theorem portOn_down {s : State} {p : Nat} (hp : p < 8) (hforce : (s.port p).forcePend = false) (hen : s.portEn p = false)
    (hdown : s.portState p = 0) (hcfg : (s.r32 (Reg.fabCfg p)).getLsbD 0 = false) :
    (s.portOn p).rb (blkCtrl (fpPage p)) 0 = true ∧ (s.portOn p).active (fpPage p) = true ∧ (s.portOn p).portState p = 1 := by
  have hstat : statReg p / 4 = 0x88000 + 0x400 * p + 0x42 := by
    rw [statReg, if_pos hp, Reg.fabStat, Reg.fabPage]; omega
  have hc : blkCtrl (fpPage p) / 4 = 0x88000 + 0x400 * p + 4 := by unfold blkCtrl fpPage; omega
  have hs : blkStat (fpPage p) / 4 = 0x88000 + 0x400 * p + 5 := by unfold blkStat fpPage; omega
  have hdown' : (s.enabled (fpPage p)).portState p = 0 := by
    rw [State.portState, State.rf, enabled_r32_other s (by omega) (by omega)]
    exact hdown
  have hcfg' : ((s.enabled (fpPage p)).r32 (Reg.fabCfg p)).getLsbD 0 = false := by
    rwa [enabled_r32_other s (by rw [hc, Reg.fabCfg, Reg.fabPage]; omega) (by rw [hs, Reg.fabCfg, Reg.fabPage]; omega)]
  have hon : s.portOn p = (s.enabled (fpPage p)).startTraining p := by
    rw [State.portOn, if_neg (by simp [hforce])]
    exact if_pos ⟨hdown', by simp [hen]⟩
  obtain ⟨hstate, hr⟩ := startTraining_saltern hp hcfg'
  obtain ⟨hset, hact⟩ := enabled_set s (fpPage p)
  rw [hon]
  exact ⟨(State.rb_of_r32 (hr _ (Or.inl rfl)) 0).trans hset, (State.rb_of_r32 (hr _ (Or.inr rfl)) 0).trans hact, hstate⟩

/-! ## Forced and complete drains -/

theorem unitForceOff_chPage {s : State} {ch : Nat} (hch : ch < 4096) (hen : s.rb (blkCtrl (chPage ch)) 0 = false) :
    s.unitForceOff (chPage ch) =
      { s with forced := if s.forced.contains (chPage ch) then s.forced else s.forced ++ [chPage ch] } := by
  rw [State.unitForceOff, if_pos (by simp [pageHasEn, Reg.page_chPage hch, Reg.hasEn, hen]), State.unitForce, Reg.page_chPage hch]

theorem drainDone_complete {s : State} {e : Nat} (hdrain : s.draining (enPage e) = true) (hnone : s.noneInFlight e = true) :
    s.drainDone e = (s.statOff (enPage e) false).raise (enPage e) 14 5 e := if_pos ⟨hdrain, hnone⟩

/-- Settles O17, page by page. -/
theorem unitsEnableAndDrain : Obligations.UnitsEnableAndDrain := by
  unfold Obligations.UnitsEnableAndDrain
  refine ⟨?_, ?_, ?_, ?_, ?_, ?_, ?_, ?_, ?_, ?_, ?_⟩
  · intro s e hs hforce
    refine completes_run hs (exec_unitEnable (enPage e.val) s) ?_
    have hon : s.unitOn (enPage e.val) = s.engineOn e.val := by rw [State.unitOn, Reg.page_enPage e.isLt]
    obtain ⟨hen, hact⟩ := engineOn_enabled s e.val hforce
    have hdrain : (s.engineOn e.val).draining (enPage e.val) = false :=
      (State.rb_congr (engineOn_regs s e.val hforce) _ _).trans (enabled_notDraining ..)
    rw [hon]
    simp only [State.active, State.draining, moveFoot, Footprint.apply_rb, if_true]
    exact ⟨hen, hact, hdrain⟩
  · intro s ch hs hforced hidle howed
    refine completes_run hs (exec_unitEnable (chPage ch.val) s) ?_
    have hon : s.unitOn (chPage ch.val) = s.enabled (chPage ch.val) := by
      rw [State.unitOn, Reg.page_chPage ch.isLt]
      exact memoryOn_chPage hforced hidle howed
    obtain ⟨hen, hact⟩ := enabled_set s (chPage ch.val)
    rw [hon]
    simp only [State.active, moveFoot, Footprint.apply_rb, if_true]
    exact ⟨hen, hact, rfl⟩
  · intro s e hs hact
    refine completes_run hs (exec_gracefulDisable (enPage e.val) s) ?_
    have hoff : s.unitOff (enPage e.val) = s.engineOff e.val := by rw [State.unitOff, Reg.page_enPage e.isLt]
    obtain ⟨hact', hdrain⟩ := engineOff_draining s e.val hact
    rw [hoff]
    simp only [State.active, State.draining, Footprint.apply_rb, if_true]
    exact ⟨(engineOff_ctrl_bit s e.val (by omega)).trans (if_pos rfl), hact', hdrain, rfl⟩
  · intro s ch hs hact hidle
    refine completes_run hs (exec_gracefulDisable (chPage ch.val) s) ?_
    have hoff : s.unitOff (chPage ch.val) = s.memoryOff (chPage ch.val) := by rw [State.unitOff, Reg.page_chPage ch.isLt]
    have hbusy : s.pageBusy (chPage ch.val) = s.chanBusy ch.val := by rw [State.pageBusy, Reg.page_chPage ch.isLt]
    obtain ⟨hen, hact', -, -⟩ := memoryOff_status (by unfold chPage; omega) hact
    rw [hoff]
    simp only [State.active, Footprint.apply_rb, if_true]
    exact ⟨hen, hact'.trans (hbusy.trans hidle), rfl⟩
  · intro s ch hs hact hbusy
    refine completes_run hs (exec_gracefulDisable (chPage ch.val) s) ?_
    have hoff : s.unitOff (chPage ch.val) = s.memoryOff (chPage ch.val) := by rw [State.unitOff, Reg.page_chPage ch.isLt]
    have hpage : s.pageBusy (chPage ch.val) = true := by rw [State.pageBusy, Reg.page_chPage ch.isLt]; exact hbusy
    obtain ⟨hen, hact', hdrain, -⟩ := memoryOff_status (by unfold chPage; omega) hact
    rw [hoff]
    simp only [State.active, State.draining, Footprint.apply_rb, if_true]
    exact ⟨hen, hact'.trans hpage, hdrain hpage, rfl⟩
  · intro s n hs hforced
    refine completes_run hs (exec_unitEnable (bmPage n.val) s) ?_
    have hon : s.unitOn (bmPage n.val) = s.enabled (bmPage n.val) := by
      rw [State.unitOn, Reg.page_bmPage n.isLt]
      exact memoryOn_bmPage n.isLt hforced
    obtain ⟨hen, hact⟩ := enabled_set s (bmPage n.val)
    rw [hon]
    simp only [State.active, State.draining, moveFoot, Footprint.apply_rb, if_true]
    exact ⟨hen, hact, enabled_notDraining .., rfl⟩
  · intro s n hs hact
    refine completes_run hs (exec_gracefulDisable (bmPage n.val) s) ?_
    have hoff : s.unitOff (bmPage n.val) = s.memoryOff (bmPage n.val) := by rw [State.unitOff, Reg.page_bmPage n.isLt]
    have hbusy : s.pageBusy (bmPage n.val) = s.boardBusy n.val := by rw [State.pageBusy, Reg.page_bmPage n.isLt]
    obtain ⟨hen, hact', hdrain, -⟩ := memoryOff_status (by unfold bmPage; omega) hact
    rw [hbusy] at hact' hdrain
    rw [hoff]
    simp only [State.active, State.draining, Footprint.apply_rb, if_true]
    exact ⟨hen, hact', hdrain, rfl⟩
  · intro s p hs hforce hen hdown hcfg
    refine completes_run hs (exec_unitEnable (fpPage p.val) s) ?_
    have hon : s.unitOn (fpPage p.val) = s.portOn p.val := by rw [State.unitOn, Reg.page_fpPage p.isLt]
    rw [hon]
    simp only [State.active, State.portState, moveFoot, Footprint.apply_rb, Footprint.apply_rf, if_true]
    exact portOn_down p.isLt hforce hen hdown hcfg
  · intro s e hs hen
    refine completes_run hs (exec_forceOff (enPage e.val) s) ?_
    rw [unitForceOff_engine s e.isLt hen]
    exact ⟨congrArg Engine.forcePend (engineForce_engine s e.val), rfl⟩
  · intro s ch hs hen
    refine completes_run hs (exec_forceOff (chPage ch.val) s) ?_
    rw [unitForceOff_chPage ch.isLt hen]
    refine ⟨?_, rfl⟩
    rw [Footprint.apply_forced, if_pos rfl]
    dsimp only
    split
    case isTrue h => exact h
    case isFalse => simp
  · intro s e hs hdrain hnone
    refine completes_run hs (exec_drainComplete e s) ?_
    rw [drainDone_complete hdrain hnone]
    simp only [Footprint.apply_rf, Footprint.apply_evq, if_true]
    exact ⟨(statOff_status s (enPage e.val) false).2.2, rfl⟩

end Sys2Proof.Machine
end

section
/-! SUPPORT. The forced disable of an engine at its boundary (R76). -/
namespace Sys2Proof.Machine

open Sys2Proof

/-! ## The parts of a forced disable -/

/-- The tasks in flight of an engine end CANCELLED. -/
def State.cancelAll (s : State) (e : Nat) : State :=
  s.each ((s.engine e).tasks.filter fun t => !t.done) fun s t =>
    s.completeTask e (if t.held then { t with dests := s.opDests e t.queue t.desc } else t) stCancelled

/-- The engine stands off, FORCED, with nothing of the disable pending. -/
def State.forceEnded (s : State) (e : Nat) : State :=
  ((s.statOff (enPage e) true).modEngine e fun g => { g with forcePend := false }).sample (enPage e) 14

theorem forceEngine_eq (s : State) (e : Nat) : s.forceEngine e =
    (if (s.cancelAll e).rb (blkCtrl (enPage e)) 8 then (s.cancelAll e).upTo 4 fun s q => s.flushQueue e q 65537
      else s.cancelAll e).forceEnded e := rfl

theorem State.sample_r32 (s : State) {pn bit off : Nat} (h : off / 4 ≠ blkEvt pn / 4) : (s.sample pn bit).r32 off = s.r32 off := by
  unfold State.sample
  split
  · rfl
  · exact (State.r32_wf_other _ _ _ _ _ _ h :)

/-- A bit that is set stays set as another is sampled. -/
theorem State.sample_keeps_bit {s : State} {pn b : Nat} (bit : Nat) (hb : b < 32) (h : s.rb (blkEvt pn) b = true) :
    (s.sample pn bit).rb (blkEvt pn) b = true := by
  unfold State.sample
  split
  · exact h
  · refine (State.rb_wb _ _ _ _ _ hb).trans ?_
    rw [h, ite_self]

theorem Reg.enStat_word (e : Nat) : blkStat (enPage e) / 4 = 0x400 * e + 5 := by unfold blkStat enPage; omega
theorem Reg.enCtrl_word (e : Nat) : blkCtrl (enPage e) / 4 = 0x400 * e + 4 := by unfold blkCtrl enPage; omega

theorem statOff_r32 (s : State) {pn off : Nat} (forced : Bool) (h : off / 4 ≠ blkStat pn / 4) :
    (s.statOff pn forced).r32 off = s.r32 off := by
  rw [State.statOff, State.wb, State.r32_wf_other _ _ _ _ _ _ h, State.wb, State.r32_wf_other _ _ _ _ _ _ h, State.wb,
    State.r32_wf_other _ _ _ _ _ _ h]

/-- What the end of a forced disable makes of an engine, and what it leaves. -/
theorem forceEnded_engine (s : State) (e : Nat) :
    (s.forceEnded e).rf (blkStat (enPage e)) 0 3 = 4 ∧ (s.forceEnded e).engine e = { s.engine e with forcePend := false }
    ∧ (s.forceEnded e).rb (blkEvt (enPage e)) 14 = true
    ∧ (s.rb (blkEvt (enPage e)) 8 = true → (s.forceEnded e).rb (blkEvt (enPage e)) 8 = true)
    ∧ (s.forceEnded e).signals = s.signals ∧ (s.forceEnded e).gives = s.gives
    ∧ ∀ off, off / 4 ≠ 0x400 * e + 5 → off / 4 ≠ 0x400 * e + 6 → (s.forceEnded e).r32 off = s.r32 off := by
  have hstat : blkStat (enPage e) / 4 ≠ blkEvt (enPage e) / 4 := by rw [Reg.enStat_word, Reg.enEvt_word]; omega
  have hmod (u : State) (off : Nat) : (u.modEngine e fun g => { g with forcePend := false }).r32 off = u.r32 off := rfl
  unfold State.forceEnded
  refine ⟨?_, ?_, State.sample_bit _ _ (by omega), fun h => State.sample_keeps_bit _ (by omega) ?_, ?_, ?_, fun off hs hv => ?_⟩
  · rw [State.rf, State.sample_r32 _ hstat, hmod]
    exact (statOff_status s (enPage e) true).2.2
  · rw [State.engine, State.sample_engines]
    exact (State.modEngine_self _ _ _).trans rfl
  · rw [State.rb, hmod, statOff_r32 _ _ hstat.symm]
    exact h
  · rw [State.sample_signals]
    rfl
  · rw [State.sample_gives]
    rfl
  · rw [State.sample_r32 _ (by rwa [Reg.enEvt_word]), hmod, statOff_r32 _ _ (by rwa [Reg.enStat_word])]

/-! ## The task in flight -/

theorem cancelAll_none {s : State} {e : Nat} (h : (s.engine e).tasks = []) : s.cancelAll e = s := by
  rw [State.cancelAll, h]
  rfl

theorem cancelAll_only {s : State} {e : Nat} {k : Task} (h : (s.engine e).tasks = [k]) (hdone : k.done = false) (hheld : k.held = false) :
    s.cancelAll e = s.completeTask e k stCancelled := by
  rw [State.cancelAll, h, List.filter_cons_of_pos (by simp [hdone]), List.filter_nil, State.each, List.foldl_cons, List.foldl_nil, hheld,
    if_neg Bool.false_ne_true]

/-- Its error is sampled in BLK_EVT. -/
theorem completeTask_samples {s : State} {e : Nat} {k : Task} (he : e < 256) (hq : k.queue < 4) (h : (s.engine e).tasks = [k]) :
    (s.completeTask e k stCancelled).rb (blkEvt (enPage e)) 8 = true := by
  obtain ⟨htasks, -, -, -, -⟩ := report_ended he hq h (st := stCancelled) rfl
  obtain ⟨-, -, -, -, -, -, -, hr⟩ := retire_only hq htasks rfl rfl
  have hevt := Reg.enEvt_word e
  rw [completeTask_eq, State.rb, hr _ (by omega) (by omega) (by omega)]
  exact report_samples ..

/-! ## Poisoned destinations in the scratchpad -/

/-- Flags that are set one after another: those of the list are set, and what was set stays. -/
theorem flagAt_setFlags {l : List Nat} {m : Sparse Bool} {i : Nat} (h : i ∈ l ∨ flagAt m i = true) :
    flagAt (l.foldl (fun m u => setFlag m u true) m) i = true := by
  induction l generalizing m with
  | nil => exact h.resolve_left (List.not_mem_nil)
  | cons x l ih =>
    refine ih ?_
    by_cases hi : i ∈ l
    · exact Or.inl hi
    · refine Or.inr ?_
      have hset : flagAt (setFlag m x true) i = if i = x then true else flagAt m i := Sparse.get_set ..
      rw [hset]
      split
      · rfl
      · next hne => exact h.resolve_left fun hmem => (List.mem_cons.1 hmem).elim hne hi

theorem mem_spadUnits {u n i : Nat} (h1 : u ≤ i) (h2 : i < u + n) : i ∈ spadUnits (32 * u) (32 * n) := by
  rw [spadUnits, if_neg (by omega), List.mem_map]
  exact ⟨i - u, List.mem_range.2 (by omega), by omega⟩

/-- A task's scratchpad destinations are poisoned where it is cancelled (Table 4-11). -/
theorem poisoned_flag {s : State} {e : Nat} {k : Task} (hdests : ∀ x ∈ k.dests, ∃ u n, x = Dest.spad u n) {u n i : Nat}
    (hmem : Dest.spad u n ∈ k.dests) (h1 : u ≤ i) (h2 : i < u + n) :
    flagAt ((s.poisoned e k stCancelled).engine e).spadPoison i = true := by
  have hmark (v : State) (u n : Nat) : ((v.poisonDest e (.spad u n)).engine e).spadPoison
      = (spadUnits (32 * u) (32 * n)).foldl (fun m u => setFlag m u true) (v.engine e).spadPoison :=
    congrArg Engine.spadPoison (v.modEngine_self e fun g => spadMark g (32 * u) (32 * n))
  have hkeep (v : State) (x : Dest) (hx : x ∈ k.dests) (h : flagAt (v.engine e).spadPoison i = true) :
      flagAt ((v.poisonDest e x).engine e).spadPoison i = true := by
    obtain ⟨u, n, rfl⟩ := hdests x hx
    rw [hmark]
    exact flagAt_setFlags (Or.inr h)
  refine State.each_reaches (P := fun v => flagAt (v.engine e).spadPoison i = true) (Q := fun _ => True) hmem (fun _ _ _ _ => trivial)
    (fun v _ => ?_) (fun v x hx _ => hkeep v x hx) trivial
  rw [hmark]
  exact flagAt_setFlags (Or.inl (mem_spadUnits h1 h2))

/-- The only task in flight of an engine, at its forced disable without FLUSH_ON_FORCE. -/
theorem forceEngine_task {s : State} {e : Nat} (he : e < 256) {k : Task} (htasks : (s.engine e).tasks = [k]) (hdone : k.done = false)
    (hq : k.queue < 4) (hheld : k.held = false) (hflush : s.rb (blkCtrl (enPage e)) 8 = false) :
    s.forceEngine e = (s.completeTask e k stCancelled).forceEnded e := by
  obtain ⟨-, -, -, -, -, hr, -⟩ := completeTask_only (st := stCancelled) he hq htasks
  have hctrl : (s.completeTask e k stCancelled).rb (blkCtrl (enPage e)) 8 = false := by
    have hw := Reg.enCtrl_word e
    rw [State.rb, hr _ (queueWord_iff.2 (Or.inr (Or.inl hw))) (by rw [Reg.engQDone_word]; omega) (by rw [Reg.engQStat_word]; omega)]
    exact hflush
  rw [forceEngine_eq, cancelAll_only htasks hdone hheld, hctrl, if_neg Bool.false_ne_true]

/-- What its forced disable leaves of that task: it has retired CANCELLED (R76). -/
theorem forceEngine_task_leaves {s : State} {e : Nat} (he : e < 256) {k : Task} (htasks : (s.engine e).tasks = [k]) (hdone : k.done = false)
    (hq : k.queue < 4) (hheld : k.held = false) (hdests : ∀ x ∈ k.dests, ∃ u n, x = Dest.spad u n)
    (hflush : s.rb (blkCtrl (enPage e)) 8 = false) :
    (∀ u n i, Dest.spad u n ∈ k.dests → u ≤ i → i < u + n → flagAt ((s.forceEngine e).engine e).spadPoison i = true)
    ∧ ((s.forceEngine e).engine e).tasks = []
    ∧ (s.forceEngine e).r32 (Reg.engQDone e k.queue) = s.r32 (Reg.engQDone e k.queue) + 1
    ∧ (s.forceEngine e).r32 (Reg.engQHead e k.queue) = s.r32 (Reg.engQHead e k.queue)
    ∧ (s.forceEngine e).rb (Reg.engQStat e k.queue) 8 = true
    ∧ (s.forceEngine e).rb (blkEvt (enPage e)) 8 = true ∧ (s.forceEngine e).rb (blkEvt (enPage e)) 14 = true
    ∧ (s.forceEngine e).signals = (s.sendSignals e k.desc true).signals
    ∧ (s.forceEngine e).gives = s.gives ++ (Desc.gives k.desc).map (fun g => (⟨g.engine, g.cc, g.count, false⟩ : Flight)) := by
  obtain ⟨ht, hsig, hgives, hqdone, hqstat, hr, hstores⟩ := completeTask_only (st := stCancelled) he hq htasks
  obtain ⟨-, hengine, h14, h8, hsig', hgives', hr'⟩ := forceEnded_engine (s.completeTask e k stCancelled) e
  have hspad : ((s.completeTask e k stCancelled).engine e).spadPoison = ((s.poisoned e k stCancelled).engine e).spadPoison :=
    congrArg (fun x => x.2.1) (congrFun hstores e)
  rw [forceEngine_task he htasks hdone hq hheld hflush, hengine]
  refine ⟨fun u n i hmem h1 h2 => hspad ▸ poisoned_flag hdests hmem h1 h2, ht, ?_, ?_, ?_, h8 (completeTask_samples he hq htasks), h14,
    hsig'.trans hsig, hgives'.trans hgives⟩
  · rw [hr' _ (by rw [Reg.engQDone_word]; omega) (by rw [Reg.engQDone_word]; omega), hqdone]
  · rw [hr' _ (by rw [Reg.engQHead_word]; omega) (by rw [Reg.engQHead_word]; omega), hr _ (by rw [queueWord_iff, Reg.engQHead_word]; omega)
      (by rw [Reg.engQHead_word, Reg.engQDone_word]; omega) (by rw [Reg.engQHead_word, Reg.engQStat_word]; omega)]
  · exact (State.rb_of_r32 (hr' _ (by rw [Reg.engQStat_word]; omega) (by rw [Reg.engQStat_word]; omega)) 8).trans (hqstat rfl)

/-! ## What a forced disable flushes -/

/-- Of a list without repetition only one element has work to do. -/
theorem State.each_only {α : Type} {f : State → α → State} {x : α} {l : List α} {s : State} (hx : x ∈ l) (hnodup : l.Nodup)
    (hbefore : ∀ y ∈ l, y ≠ x → f s y = s) (hafter : ∀ y ∈ l, y ≠ x → f (f s x) y = f s x) : s.each l f = f s x := by
  induction l with
  | nil => cases hx
  | cons y l ih =>
    obtain ⟨hy, hl⟩ := List.nodup_cons.1 hnodup
    have htail {z : α} (hz : z ∈ l) : z ∈ y :: l := List.mem_cons_of_mem y hz
    rw [State.each, List.foldl_cons, ← State.each]
    by_cases hyx : y = x
    · subst hyx
      exact State.each_keeps (P := fun u => u = f s y) f l (fun u z hz hu => by
        rw [hu]; exact hafter z (htail hz) fun h => hy (h ▸ hz)) _ rfl
    · rw [hbefore y List.mem_cons_self hyx]
      exact ih ((List.mem_cons.1 hx).resolve_left (Ne.symm hyx)) hl (fun z hz => hbefore z (htail hz)) fun z hz => hafter z (htail hz)

theorem flushQueue_none {s : State} {e q : Nat} (h : s.r32 (Reg.engQHead e q) = s.r32 (Reg.engQTail e q)) (fuel : Nat) :
    s.flushQueue e q (fuel + 1) = s := by
  rw [State.flushQueue]
  exact if_pos h

theorem opDests_nop {d : Desc} (h : d.operation = some .nop) (s : State) (e q : Nat) : s.opDests e q d = [] := by
  rw [State.opDests, h]

/-- The head of a queue passed, before the flush completes it. -/
def State.headPassed (s : State) (e q : Nat) : State :=
  (s.w32 (Reg.engQHead e q) (s.r32 (Reg.engQHead e q) + 1)).modEngine e fun g => { g with
    fetched := Sparse.set (fun _ => []) g.fetched q (Sparse.get (fun _ => []) g.fetched q).tail }

section
variable {s : State} {e q : Nat} {d : Desc} (he : e < 256) (hq : q < 4) (htasks : (s.engine e).tasks = []) (hop : d.operation = some .nop)
  (hvalid : d.invalid e (s.engine e) = false) (hfetched : Sparse.get (fun _ => []) (s.engine e).fetched q = [d])
  (htail : s.r32 (Reg.engQTail e q) = s.r32 (Reg.engQHead e q) + 1)
include he hq htasks hop hvalid hfetched htail

/-- A fetched NOP, the last below TAIL, is flushed: it completes CANCELLED. -/
theorem flushQueue_nop (fuel : Nat) :
    s.flushQueue e q (fuel + 2) = (s.headPassed e q).completeAtOnce e q d stCancelled []
    ∧ ((s.headPassed e q).completeAtOnce e q d stCancelled []).r32 (Reg.engQHead e q) = s.r32 (Reg.engQTail e q)
    ∧ ((s.headPassed e q).completeAtOnce e q d stCancelled []).r32 (Reg.engQDone e q) = s.r32 (Reg.engQDone e q) + 1
    ∧ ((s.headPassed e q).completeAtOnce e q d stCancelled []).rb (Reg.engQStat e q) 8 = true
    ∧ ((s.headPassed e q).completeAtOnce e q d stCancelled []).signals = (s.sendSignals e d true).signals
    ∧ ((s.headPassed e q).completeAtOnce e q d stCancelled []).gives
      = s.gives ++ d.gives.map (fun g => (⟨g.engine, g.cc, g.count, false⟩ : Flight))
    ∧ ∀ p < 4, p ≠ q → ((s.headPassed e q).completeAtOnce e q d stCancelled []).r32 (Reg.engQHead e p) = s.r32 (Reg.engQHead e p)
      ∧ ((s.headPassed e q).completeAtOnce e q d stCancelled []).r32 (Reg.engQTail e p) = s.r32 (Reg.engQTail e p) := by
  have hpassedTasks : ((s.headPassed e q).engine e).tasks = [] :=
    (congrArg Engine.tasks (State.modEngine_self ..)).trans htasks
  have hpassed (off : Nat) : (s.headPassed e q).r32 off = if off / 4 = Reg.engQHead e q / 4 then s.r32 (Reg.engQHead e q) + 1 else s.r32 off :=
    State.r32_w32 ..
  obtain ⟨-, hsig, hgives, hdone, hst, hr, -⟩ := completeAtOnce_only he hq d stCancelled [] hpassedTasks
  generalize hu : (s.headPassed e q).completeAtOnce e q d stCancelled [] = u at hsig hgives hdone hst hr
  have hrest {off : Nat} (hw : queueWord e (off / 4) = true) (h1 : off / 4 ≠ Reg.engQDone e q / 4) (h2 : off / 4 ≠ Reg.engQStat e q / 4)
      (h3 : off / 4 ≠ Reg.engQHead e q / 4) : u.r32 off = s.r32 off := by
    rw [hr off hw h1 h2, hpassed, if_neg h3]
  have hhead : u.r32 (Reg.engQHead e q) = s.r32 (Reg.engQTail e q) := by
    rw [hr _ (by rw [queueWord_iff, Reg.engQHead_word]; omega) (by rw [Reg.engQHead_word, Reg.engQDone_word]; omega)
      (by rw [Reg.engQHead_word, Reg.engQStat_word]; omega), hpassed, if_pos rfl, htail]
  have htail' : u.r32 (Reg.engQTail e q) = s.r32 (Reg.engQTail e q) :=
    hrest (by rw [queueWord_iff, Reg.engQTail_word]; omega) (by rw [Reg.engQTail_word, Reg.engQDone_word]; omega)
      (by rw [Reg.engQTail_word, Reg.engQStat_word]; omega) (by rw [Reg.engQTail_word, Reg.engQHead_word]; omega)
  have hne : ¬ s.r32 (Reg.engQHead e q) = s.r32 (Reg.engQTail e q) := by
    rw [htail]
    simp
  have hstep : s.flushQueue e q (fuel + 2) = u.flushQueue e q (fuel + 1) := by
    rw [State.flushQueue]
    refine (if_neg hne).trans ?_
    rw [hfetched]
    dsimp only
    rw [hvalid, if_neg Bool.false_ne_true, if_neg Bool.false_ne_true, opDests_nop hop, ← hu]
    rfl
  have hsend : ((s.headPassed e q).sendSignals e d true).signals = (s.sendSignals e d true).signals :=
    sendSignals_congr_core (s := s) (t := s.headPassed e q) rfl
      (fun off h _ => (hpassed off).trans (if_neg (by rw [Reg.engQHead_word]; omega))) e d true
  refine ⟨hstep.trans (flushQueue_none (hhead.trans htail'.symm) fuel), hhead, hdone.trans ?_, hst rfl, hsig.trans hsend, hgives,
    fun p hp hpq => ⟨?_, ?_⟩⟩
  · rw [hpassed, if_neg (by rw [Reg.engQDone_word, Reg.engQHead_word]; omega)]
  · exact hrest (by rw [queueWord_iff, Reg.engQHead_word]; omega) (by rw [Reg.engQHead_word, Reg.engQDone_word]; omega)
      (by rw [Reg.engQHead_word, Reg.engQStat_word]; omega) (by rw [Reg.engQHead_word, Reg.engQHead_word]; omega)
  · exact hrest (by rw [queueWord_iff, Reg.engQTail_word]; omega) (by rw [Reg.engQTail_word, Reg.engQDone_word]; omega)
      (by rw [Reg.engQTail_word, Reg.engQStat_word]; omega) (by rw [Reg.engQTail_word, Reg.engQHead_word]; omega)

/-- At the forced disable of an engine with FLUSH_ON_FORCE, whose only work is that NOP. -/
theorem forceEngine_nop (hflush : s.rb (blkCtrl (enPage e)) 8 = true)
    (hother : ∀ p < 4, p ≠ q → s.r32 (Reg.engQTail e p) = s.r32 (Reg.engQHead e p)) :
    s.forceEngine e = ((s.headPassed e q).completeAtOnce e q d stCancelled []).forceEnded e := by
  obtain ⟨hstep, -, -, -, -, -, hrest⟩ := flushQueue_nop he hq htasks hop hvalid hfetched htail 65535
  rw [forceEngine_eq, cancelAll_none htasks, if_pos hflush, ← hstep]
  refine congrArg (State.forceEnded · e) (State.each_only (f := fun s q => s.flushQueue e q 65537) (List.mem_range.2 hq) List.nodup_range
    (fun p hp hpq => ?_) fun p hp hpq => ?_)
  · exact flushQueue_none (hother p (List.mem_range.1 hp) hpq).symm 65536
  · obtain ⟨h1, h2⟩ := hrest p (List.mem_range.1 hp) hpq
    have hidle : (s.flushQueue e q 65537).r32 (Reg.engQHead e p) = (s.flushQueue e q 65537).r32 (Reg.engQTail e p) := by
      rw [hstep, h1, h2, hother p (List.mem_range.1 hp) hpq]
    exact flushQueue_none hidle 65536

/-- What it leaves of the NOP: it has retired CANCELLED. -/
theorem forceEngine_nop_leaves (hflush : s.rb (blkCtrl (enPage e)) 8 = true)
    (hother : ∀ p < 4, p ≠ q → s.r32 (Reg.engQTail e p) = s.r32 (Reg.engQHead e p)) :
    (s.forceEngine e).r32 (Reg.engQHead e q) = s.r32 (Reg.engQTail e q)
    ∧ (s.forceEngine e).r32 (Reg.engQDone e q) = s.r32 (Reg.engQDone e q) + 1
    ∧ (s.forceEngine e).rb (Reg.engQStat e q) 8 = true ∧ (s.forceEngine e).signals = (s.sendSignals e d true).signals
    ∧ (s.forceEngine e).gives = s.gives ++ d.gives.map (fun g => (⟨g.engine, g.cc, g.count, false⟩ : Flight)) := by
  obtain ⟨-, hhead, hqdone, hqstat, hsig, hgives, -⟩ := flushQueue_nop he hq htasks hop hvalid hfetched htail 0
  obtain ⟨-, -, -, -, hsig', hgives', hr'⟩ := forceEnded_engine ((s.headPassed e q).completeAtOnce e q d stCancelled []) e
  rw [forceEngine_nop he hq htasks hop hvalid hfetched htail hflush hother]
  refine ⟨?_, ?_, ?_, hsig'.trans hsig, hgives'.trans hgives⟩
  · rw [hr' _ (by rw [Reg.engQHead_word]; omega) (by rw [Reg.engQHead_word]; omega), hhead]
  · rw [hr' _ (by rw [Reg.engQDone_word]; omega) (by rw [Reg.engQDone_word]; omega), hqdone]
  · exact (State.rb_of_r32 (hr' _ (by rw [Reg.engQStat_word]; omega) (by rw [Reg.engQStat_word]; omega)) 8).trans hqstat

end

end Sys2Proof.Machine
end

section
/-! SUPPORT. The forced disable of a channel and of a board interface at its boundary (R234, R272). -/
namespace Sys2Proof.Machine

open Sys2Proof

/-- A memory page stands off, FORCED, and its forced disable is no longer pending. -/
def State.forcedOff (s : State) (pn : Nat) : State := { s with forced := s.forced.filter fun x => x != pn }.statOff pn true

theorem forcedOff_page (s : State) (pn : Nat) : (s.forcedOff pn).rf (blkStat pn) 0 3 = 4 ∧ (s.forcedOff pn).forced.contains pn = false
    ∧ (s.forcedOff pn).mem = s.mem ∧ ∀ off, off / 4 ≠ blkStat pn / 4 → (s.forcedOff pn).r32 off = s.r32 off := by
  refine ⟨(statOff_status ..).2.2, ?_, rfl, fun off h => statOff_r32 _ true h⟩
  have hforced : (s.forcedOff pn).forced = s.forced.filter fun x => x != pn := rfl
  rw [hforced]
  simp

theorem forceMemory_chPage (s : State) {ch : Nat} (hch : ch < 4096) :
    s.forceMemory (chPage ch) = (s.forcedOff (chPage ch)).forceChannel ch := by
  rw [State.forceMemory, Reg.page_chPage hch, State.forcedOff]

/-- With no write outstanding a board interface has nothing to undo, nor anything to end. -/
theorem forceMemory_bmPage {s : State} {n : Nat} (hn : n < 16) (hlower : s.mem.lower = []) :
    s.forceMemory (bmPage n) = s.forcedOff (bmPage n) := by
  have hnone (u : State) (hu : u.mem.lower = []) : u.forceBoard n u.mem.lower.length = u := by
    rw [State.forceBoard, hu]
    rfl
  rw [State.forceMemory, Reg.page_bmPage hn]
  exact hnone (s.forcedOff (bmPage n)) hlower

theorem forceChannel_idle {s : State} (ch : Nat) (hwait : s.mem.waiting = []) : s.forceChannel ch = s := by
  rw [State.forceChannel, hwait]
  rfl

/-! ## A read that waits at a disabled channel -/

theorem quarantined_congr {s t : State} (h : ∀ off, 0x40000 ≤ off / 4 → off / 4 < 0x42000 → t.r32 off = s.r32 off) {c : Nat} (hc : c < 8)
    (p : Nat) : t.quarantined c p = s.quarantined c p := by
  have hq {i : Nat} (hi : i ∈ List.range 64) : t.r64 (Reg.coreQuar c i) = s.r64 (Reg.coreQuar c i) := by
    have hi := List.mem_range.1 hi
    have hw : Reg.coreQuar c i = 0x100480 + 0x1000 * c + 8 * i := by unfold Reg.coreQuar Reg.corePage; omega
    rw [State.r64, h _ (by omega) (by omega), h _ (by omega) (by omega), State.r64]
  unfold State.quarantined
  rw [Bool.eq_iff_iff]
  simp only [List.any_eq_true]
  exact exists_congr fun i => and_congr_right fun hi => by rw [hq hi]

/-- A read of a line that no cache holds, at a channel that is disabled, is answered poisoned (R234). -/
theorem stackReadNow_disabled {s : State} {off key : Nat} (src hint : Nat) (hplace : s.place off = some key)
    (hquar : s.quarantined (keyCore key) off = false) (hcached : s.cached key = none) (hchan : keyChan key < 4096)
    (hoff : s.chanOn (keyChan key) = false) :
    s.stackReadNow off src hint = (s.count (Reg.cchMissCnt (keyCore key)) 1).offRead key src := by
  have hcount : (s.count (Reg.cchMissCnt (keyCore key)) 1).chanOn (keyChan key) = false := by
    have hcore : keyCore key < 8 := by unfold keyCore; omega
    have hmiss : Reg.cchMissCnt (keyCore key) / 4 < 0x100000 ∧ (Reg.cchMissCnt (keyCore key) + 4) / 4 < 0x100000 := by
      unfold Reg.cchMissCnt Reg.cchPage; omega
    have hctrl : 0x400000 ≤ blkCtrl (chPage (keyChan key)) / 4 := by unfold blkCtrl chPage; omega
    rw [State.chanOn, State.rb, State.count_r32 _ _ (by omega) (by omega)]
    exact hoff
  rw [State.stackReadNow, hplace]
  dsimp only
  rw [hquar, if_neg Bool.false_ne_true, State.cacheRead, hcached]
  dsimp only
  rw [hcount, if_neg Bool.false_ne_true]

/-- The access is performed: it is answered, memory stays, and so do the words of the channels. -/
theorem performAccess_disabled {s : State} {src off key : Nat} (halign : off % 128 = 0) (hplace : s.place off = some key)
    (hquar : s.quarantined (keyCore key) off = false) (hcached : s.cached key = none) (hchan : keyChan key < 4096)
    (hoff : s.chanOn (keyChan key) = false) :
    (s.performAccess (.stack ⟨src, off, .read, 1, []⟩)).mem = s.mem
    ∧ (∃ d, .line src true true d ∈ (s.performAccess (.stack ⟨src, off, .read, 1, []⟩)).out)
    ∧ ∀ o, 0x400000 ≤ o / 4 → (s.performAccess (.stack ⟨src, off, .read, 1, []⟩)).r32 o = s.r32 o := by
  have hline : off / 128 * 128 = off := by omega
  have hread : s.performAccess (.stack ⟨src, off, .read, 1, []⟩)
      = ((s.count (Reg.cchMissCnt (keyCore key)) 1).offRead key src).1.answer src Rd.poisoned := by
    rw [State.performAccess]
    dsimp only
    rw [hline, stackReadNow_disabled src _ hplace hquar hcached hchan hoff]
    rfl
  have hmiss : Reg.cchMissCnt (keyCore key) / 4 < 0x100000 ∧ (Reg.cchMissCnt (keyCore key) + 4) / 4 < 0x100000 := by
    unfold Reg.cchMissCnt Reg.cchPage keyCore; omega
  rw [hread]
  exact ⟨State.count_mem .., ⟨Rd.poisoned.data, List.mem_cons_self⟩, fun o ho => State.count_r32 _ _ (by omega) (by omega)⟩

/-- The only access that waits is such a read: it is answered, and none waits any more. -/
theorem forceChannel_read {s : State} {ch src off key : Nat} (hch : ch < 4096) (hwait : s.mem.waiting = [.stack ⟨src, off, .read, 1, []⟩])
    (halign : off % 128 = 0) (hplace : s.place off = some key) (hkey : keyChan key = ch) (hquar : s.quarantined (keyCore key) off = false)
    (hcached : s.cached key = none) (hoff : s.chanOn ch = false) :
    (s.forceChannel ch).mem.waiting = [] ∧ (∃ d, .line src true true d ∈ (s.forceChannel ch).out)
    ∧ ∀ o, 0x400000 ≤ o / 4 → (s.forceChannel ch).r32 o = s.r32 o := by
  have hone : s.forceChannel ch = (s.modMem fun m => { m with waiting := m.waiting.erase (.stack ⟨src, off, .read, 1, []⟩) }).performAccess
      (.stack ⟨src, off, .read, 1, []⟩) := by
    have hwaits : s.waitingKey (.stack ⟨src, off, .read, 1, []⟩) = key := by
      rw [State.waitingKey, show off / 128 * 128 = off by omega, hplace]
      rfl
    rw [State.forceChannel, hwait, List.filter_cons_of_pos (by rw [hwaits, hkey, hcached]; simp), List.filter_nil]
    rfl
  have hnone : s.mem.waiting.erase (.stack ⟨src, off, .read, 1, []⟩) = [] := by rw [hwait, List.erase_cons_head]
  obtain ⟨hmem, hout, hr⟩ := performAccess_disabled (src := src)
    (s := s.modMem fun m => { m with waiting := m.waiting.erase (.stack ⟨src, off, .read, 1, []⟩) }) halign
    ((place_congr (fun _ _ _ => rfl) off).trans hplace) ((quarantined_congr (fun _ _ _ => rfl) (by unfold keyCore; omega) off).trans hquar)
    hcached (hkey ▸ hch) (hkey ▸ hoff)
  rw [hone]
  exact ⟨(congrArg Mem.waiting hmem).trans hnone, hout, hr⟩

/-- Such a read at the channel that a forced disable reaches. -/
theorem forceMemory_read {s : State} {ch src off key : Nat} (hch : ch < 4096) (hwait : s.mem.waiting = [.stack ⟨src, off, .read, 1, []⟩])
    (halign : off % 128 = 0) (hplace : s.place off = some key) (hkey : keyChan key = ch) (hquar : s.quarantined (keyCore key) off = false)
    (hcached : s.cached key = none) (hoff : s.chanOn ch = false) :
    (s.forceMemory (chPage ch)).rf (blkStat (chPage ch)) 0 3 = 4 ∧ (s.forceMemory (chPage ch)).mem.waiting = []
    ∧ ∃ d, .line src true true d ∈ (s.forceMemory (chPage ch)).out := by
  obtain ⟨hstat, -, -, hr⟩ := forcedOff_page s (chPage ch)
  have hcore (o : Nat) (_ : 0x40000 ≤ o / 4) (h : o / 4 < 0x42000) : (s.forcedOff (chPage ch)).r32 o = s.r32 o :=
    hr o (by unfold blkStat chPage; omega)
  have hctrl : (s.forcedOff (chPage ch)).chanOn ch = false := (State.rb_of_r32 (hr _ (blkCtrl_word_ne_blkStat _)) 0).trans hoff
  obtain ⟨hnone, hout, hrest⟩ := forceChannel_read (s := s.forcedOff (chPage ch)) hch hwait halign
    ((place_congr hcore off).trans hplace) hkey ((quarantined_congr hcore (by unfold keyCore; omega) off).trans hquar) hcached hctrl
  rw [forceMemory_chPage s hch]
  refine ⟨?_, hnone, hout⟩
  rw [State.rf, hrest _ (by unfold blkStat chPage; omega)]
  exact hstat

end Sys2Proof.Machine
end

section
/-! SUPPORT. The forced disable of a port at its boundary, and of the queue pair that sends on it (R339, R340). -/
namespace Sys2Proof.Machine

open Sys2Proof

/-! ## The port -/

/-- The port after a forced disable, before its queue pairs are forced. -/
def State.portForced (s : State) (p : Nat) : State :=
  ((s.linkDown p).modPort p fun x => { x with forcePend := false }).statOff (fpPage p) true

theorem forcePort_eq (s : State) (p : Nat) : s.forcePort p =
    (s.portForced p).each ((s.portForced p).liveQps.filter fun n => ((s.portForced p).qp n).port == p && ((s.portForced p).qp n).state != 6)
      State.qpForced := rfl

theorem Reg.portStat_word {p : Nat} (hp : p < 8) : statReg p / 4 = 0x88042 + 0x400 * p := by
  rw [statReg, if_pos hp, Reg.fabStat, Reg.fabPage]; omega

/-- A port that goes DOWN for a failure reads DOWN, and the transport has not heard of it yet. -/
theorem linkDown_state {s : State} {p : Nat} (hp : p < 8) : (s.linkDown p).portState p = 0 ∧ (s.linkDown p).xpt = s.xpt := by
  have hraise (u : State) (b : Bool) (i j k l : Nat) : (u.raiseIf b i j k l).portState p = u.portState p ∧ (u.raiseIf b i j k l).xpt = u.xpt := by
    cases b <;> exact ⟨rfl, rfl⟩
  have hstat := Reg.portStat_word hp
  have hactive : blkProtoActive (portPage p) / 4 = 0x88010 + 0x400 * p := by
    rw [portPage, if_pos hp, blkProtoActive, fpPage]; omega
  have hpeer : Reg.fabPeer p / 4 = 0x88043 + 0x400 * p := by rw [Reg.fabPeer, Reg.fabPage]; omega
  have hmod (u : State) (f : Port → Port) : (u.modPort p f).portState p = u.portState p := rfl
  rw [State.linkDown, (hraise ..).1, (hraise ..).2, State.portDown, hmod]
  rw [if_pos hp, State.setActive, if_pos hp, State.setPortState]
  refine ⟨?_, rfl⟩
  rw [State.portState, State.rf, State.wb, State.r32_wf_other _ _ _ _ _ _ (by omega), State.r32_w32, if_neg (by omega)]
  exact (State.rf_wf_apart _ _ _ _ _ _ _ (by omega) (by omega)).trans (State.rf_wf_self _ _ _ _ _ (by omega))

theorem portForced_port {s : State} {p : Nat} (hp : p < 8) : (s.portForced p).rf (blkStat (fpPage p)) 0 3 = 4
    ∧ (s.portForced p).portState p = 0 ∧ ((s.portForced p).port p).forcePend = false ∧ (s.portForced p).xpt = s.xpt := by
  obtain ⟨hstate, hxpt⟩ := linkDown_state (s := s) hp
  have hne : statReg p / 4 ≠ blkStat (fpPage p) / 4 := by
    rw [Reg.portStat_word hp, blkStat, fpPage]; omega
  refine ⟨(statOff_status ..).2.2, ?_, ?_, hxpt⟩
  · rw [State.portState, State.rf, State.portForced, statOff_r32 _ _ hne]
    exact hstate
  · exact congrArg Port.forcePend (State.modPort_self (s.linkDown p) p fun x => { x with forcePend := false })

/-! ## Its queue pair -/

theorem State.modQp_self (s : State) (n : Nat) (f : Qp → Qp) : (s.modQp n f).qp n = f (s.qp n) := Sparse.get_set_self ..

theorem wrapDist_self (a : Word) : wrapDist a a = 0 := by simp [wrapDist]

section
variable {s : State} {n : Nat}

theorem sendPacket_down (hport : s.portState (s.qp n).port = 0) (k : Packet) : s.sendPacket n k = s := by
  unfold State.sendPacket
  exact if_pos hport

theorem failRsigs_none (h : (s.qp n).rsigs = []) : s.failRsigs n = s.modQp n fun q => { q with rsigs := [] } := by
  have hnone : (if (s.qp n).c 0 4 1 = 1 then s.each (s.qp n).rsigs fun s r => if r.stale then s else s.sendSig r.sig.toNat true else s) = s := by
    rw [h]
    exact ite_self s
  rw [State.failRsigs, hnone]

theorem flushSend_none (h : (s.qp n).sqTail = (s.qp n).sqDone) (bad : Option (Word × Nat)) (rest : Nat) : s.flushSend n bad rest = s := by
  rw [State.flushSend, h, wrapDist_self]
  rfl

theorem flushRecv_none (h : (s.qp n).rqTail = (s.qp n).rqDone) (bad : Option (Word × Nat)) : s.flushRecv n bad = s := by
  rw [State.flushRecv, h, wrapDist_self]
  rfl

theorem xptEnd_none (h : s.xpt.cqOvf = []) : s.xptEnd = s := by
  rw [State.xptEnd, State.cqSettle, h]

end

/-- What ERROR makes of a queue pair without work of its own. -/
def Qp.errored (st : Nat) (q : Qp) : Qp :=
  { q with state := 6, errStatus := st, rnrWait := none, rsigs := [], wqes := [], recv := [], ahead := [], unacked := 0 }

/-- The record and the event of a queue pair that is forced leave the ports' words. -/
theorem xptLogNow_portState (s : State) (n st : Nat) (psn : BitVec 24) {p : Nat} (hp : p < 8) :
    ((s.sample xptPn 9).xptLogNow n st psn).portState p = s.portState p := by
  have hstat := Reg.portStat_word hp
  have hlog : Reg.xptErrLog / 4 = 0x8C0C0 ∧ (Reg.xptErrLog + 4) / 4 = 0x8C0C1 ∧ Reg.xptErrTick / 4 = 0x8C0C2
      ∧ (Reg.xptErrTick + 4) / 4 = 0x8C0C3 ∧ blkEvt xptPn / 4 = 0x8C006 := by decide
  obtain ⟨h1, h2, h3, h4, h5⟩ := hlog
  rw [State.portState, State.rf, State.xptLogNow, State.w64, State.r32_w32, if_neg (by omega), State.r32_w32, if_neg (by omega), State.w64,
    State.r32_w32, if_neg (by omega), State.r32_w32, if_neg (by omega), State.sample_r32 _ (by omega), State.portState, State.rf]

/-- A queue pair without work of its own, on a port that is DOWN, as it is forced (R339): ERROR, with nothing left to send. -/
theorem qpForced_idle {s : State} {n : Nat} (hport : s.portState (s.qp n).port = 0) (h0 : (s.qp n).state ≠ 0) (h6 : (s.qp n).state ≠ 6)
    (hovf : s.xpt.cqOvf = []) (hrsigs : (s.qp n).rsigs = []) (hsq : (s.qp n).sqTail = (s.qp n).sqDone)
    (hrq : (s.qp n).rqTail = (s.qp n).rqDone) :
    (s.qpForced n).qp n = (s.qp n).errored 2 ∧ ∀ p < 8, (s.qpForced n).portState p = s.portState p := by
  obtain ⟨u, hu⟩ : ∃ u, u = (s.modQp n fun q => { q with state := 6, errStatus := 2, rnrWait := none }).modQp n fun q => { q with rsigs := [] } :=
    ⟨_, rfl⟩
  have hq : u.qp n = { s.qp n with state := 6, errStatus := 2, rnrWait := none, rsigs := [] } := by
    rw [hu, State.modQp_self, State.modQp_self]
  have hforced : s.qpForced n = (((((u.modQp n fun q => { q with wqes := [], recv := [], ahead := [], unacked := 0 }).dropJobs n).sample
      xptPn 9).xptLogNow n 2 (s.qp n).una)).xptEnd := by
    rw [State.qpForced, State.toError, if_neg (by simp [h0, h6]), if_pos rfl,
      sendPacket_down hport, failRsigs_none (by rw [State.modQp_self]; exact hrsigs), ← hu, flushSend_none (by rw [hq]; exact hsq),
      flushRecv_none (by rw [hq]; exact hrq)]
  have hdrop (v : State) : (v.dropJobs n).qp n = v.qp n ∧ (v.dropJobs n).xpt.cqOvf = v.xpt.cqOvf
      ∧ ∀ p, (v.dropJobs n).portState p = v.portState p := ⟨rfl, rfl, fun _ => rfl⟩
  have hlog (v : State) : ((v.sample xptPn 9).xptLogNow n 2 (s.qp n).una).qp n = v.qp n
      ∧ ((v.sample xptPn 9).xptLogNow n 2 (s.qp n).una).xpt = v.xpt := by
    rw [State.xptLogNow, State.w64_qp, State.w64_qp, State.sample_qp, State.w64_xpt, State.w64_xpt, State.sample_xpt]
    exact ⟨rfl, rfl⟩
  have hovf' : u.xpt.cqOvf = [] := by rw [hu]; exact hovf
  have hstate (p : Nat) : u.portState p = s.portState p := by rw [hu]; rfl
  rw [hforced, xptEnd_none (by rw [(hlog _).2, (hdrop _).2.1]; exact hovf')]
  refine ⟨?_, fun p hp => ?_⟩
  · rw [(hlog _).1, (hdrop _).1, State.modQp_self, hq]
    rfl
  · rw [xptLogNow_portState _ _ _ _ hp, (hdrop _).2.2]
    exact hstate p

/-! ## The boundary -/

/-- No queue pair is live. -/
theorem forcePort_idle {s : State} {p : Nat} (hp : p < 8) (hlive : s.liveQps = []) : s.forcePort p = s.portForced p := by
  obtain ⟨-, -, -, hxpt⟩ := portForced_port (s := s) hp
  have hnone : (s.portForced p).liveQps = [] := by
    rw [State.liveQps, hxpt]
    exact hlive
  rw [forcePort_eq, hnone]
  rfl

/-- The only live queue pair sends on the port, and has no work of its own. -/
theorem forcePort_qp {s : State} {p n : Nat} (hp : p < 8) (hlive : s.liveQps = [n]) (hport : (s.qp n).port = p) (h0 : (s.qp n).state ≠ 0)
    (h6 : (s.qp n).state ≠ 6) (hovf : s.xpt.cqOvf = []) (hrsigs : (s.qp n).rsigs = []) (hsq : (s.qp n).sqTail = (s.qp n).sqDone)
    (hrq : (s.qp n).rqTail = (s.qp n).rqDone) :
    (s.forcePort p).qp n = (s.qp n).errored 2 ∧ (s.forcePort p).portState p = 0 := by
  obtain ⟨-, hstate, -, hxpt⟩ := portForced_port (s := s) hp
  have hqp : (s.portForced p).qp n = s.qp n := by rw [State.qp, hxpt, State.qp]
  have hforce : s.forcePort p = (s.portForced p).qpForced n := by
    have hone : (s.portForced p).liveQps = [n] := by
      rw [State.liveQps, hxpt]
      exact hlive
    rw [forcePort_eq, hone, List.filter_cons_of_pos (by rw [hqp]; simp [hport, h6]), List.filter_nil]
    rfl
  obtain ⟨hq, hports⟩ := qpForced_idle (s := s.portForced p) (n := n) (by rw [hqp, hport]; exact hstate) (by rwa [hqp])
    (by rwa [hqp]) (by rw [hxpt]; exact hovf) (by rwa [hqp]) (by rwa [hqp]) (by rwa [hqp])
  rw [hforce]
  exact ⟨hqp ▸ hq, (hports p hp).trans hstate⟩

end Sys2Proof.Machine
end

section
/-! SUPPORT. The statement about forced disables, and what is read of the state that a boundary's due work leaves. -/
namespace Sys2Proof.Machine

open Sys2Proof

theorem dueDone_engine (s : State) (d : Due) (e : Nat) : (s.dueDone d).engine e = (s.undue.performDue d).engine e := rfl
theorem dueDone_forced (s : State) (d : Due) : (s.dueDone d).forced = (s.undue.performDue d).forced := rfl
theorem dueDone_qp (s : State) (d : Due) (n : Nat) : (s.dueDone d).qp n = (s.undue.performDue d).qp n := rfl

/-- The interrupts that the event lines send leave by GP0. -/
theorem gather_port (s : State) {p : Nat} (hp : p < 8) : s.gather.port p = s.port p := by
  have hsend (u : State) (g : Nat) : (u.intrSend g).port p = u.port p := by
    unfold State.intrSend
    split
    · exact (Sparse.get_set ..).trans (if_neg (by omega))
    · rfl
  unfold State.gather
  dsimp only
  rw [State.upTo_view (·.port p) _ _ fun u g _ => hsend u g, State.w32_port]
  exact State.upTo_view (·.port p) _ _ (fun u g _ => State.w32_port u _ _ p) s

theorem dueDone_port (s : State) (d : Due) {p : Nat} (hp : p < 8) : (s.dueDone d).port p = (s.undue.performDue d).port p := by
  rw [dueDone_eq, State.within, Footprint.apply_port, if_pos rfl, gather_port _ hp]
  rfl

/-- Words outside the event summaries, by where they lie. -/
theorem not_evtWord_of_lt {i : Nat} (h : i < 0x8C880) : ¬ evtWord i := by unfold evtWord; omega
theorem not_evtWord_of_ge {i : Nat} (h : 0x8C900 ≤ i) : ¬ evtWord i := by unfold evtWord; omega

/-- Settles O18, by what each forced disable leaves. -/
theorem forcedDisables : Obligations.ForcedDisables := by
  have hundue (s : State) (e : Nat) (d : Desc) : (s.undue.sendSignals e d true).signals = (s.sendSignals e d true).signals :=
    sendSignals_congr_core (s := s) (t := s.undue) rfl (fun _ _ _ => rfl) e d true
  unfold Obligations.ForcedDisables
  refine ⟨?_, ?_, ?_, ?_, ?_, ?_, ?_, ?_⟩
  · intro s e hs
    refine completes_due hs (by simp [Due.isLast]) (exec_forcedDisableEngine e s) ⟨dueDone_due .., ?_, ?_⟩
    · rw [dueDone_rf _ _ _ _ (not_evtWord_of_lt (by rw [Reg.enStat_word]; omega)), State.performDue, forceEngine_eq]
      exact (forceEnded_engine _ _).1
    · rw [dueDone_engine, State.performDue, forceEngine_eq, (forceEnded_engine _ _).2.1]
  · intro s e k hs htasks hdone hq hheld hdests hflush
    obtain ⟨hspad, ht, hqdone, hhead, hqstat, h8, h14, hsig, hgives⟩ :=
      forceEngine_task_leaves (s := s.undue) e.isLt htasks hdone hq hheld hdests hflush
    refine completes_due hs (by simp [Due.isLast]) (exec_forcedDisableEngine e s)
      ⟨hspad, ht, ?_, ?_, ?_, ?_, ?_, hsig.trans (hundue ..), hgives⟩
    · rw [dueDone_r32 _ _ (not_evtWord_of_lt (by rw [Reg.engQDone_word]; omega))]
      exact hqdone
    · rw [dueDone_r32 _ _ (not_evtWord_of_lt (by rw [Reg.engQHead_word]; omega))]
      exact hhead
    · rw [dueDone_rb _ _ _ (not_evtWord_of_lt (by rw [Reg.engQStat_word]; omega))]
      exact hqstat
    · rw [dueDone_rb _ _ _ (not_evtWord_of_lt (by rw [Reg.enEvt_word]; omega))]
      exact h8
    · rw [dueDone_rb _ _ _ (not_evtWord_of_lt (by rw [Reg.enEvt_word]; omega))]
      exact h14
  · intro s e q d hs htasks hflush hop hvalid hfetched htail hother
    obtain ⟨hhead, hqdone, hqstat, hsig, hgives⟩ := forceEngine_nop_leaves (s := s.undue) e.isLt q.isLt htasks hop hvalid hfetched htail hflush
      fun p hp hpq => hother ⟨p, hp⟩ fun h => hpq (congrArg Fin.val h)
    refine completes_due hs (by simp [Due.isLast]) (exec_forcedDisableEngine e s) ⟨?_, ?_, ?_, hsig.trans (hundue ..), hgives⟩
    · rw [dueDone_r32 _ _ (not_evtWord_of_lt (by rw [Reg.engQHead_word]; omega))]
      exact hhead
    · rw [dueDone_r32 _ _ (not_evtWord_of_lt (by rw [Reg.engQDone_word]; omega))]
      exact hqdone
    · rw [dueDone_rb _ _ _ (not_evtWord_of_lt (by rw [Reg.engQStat_word]; omega))]
      exact hqstat
  · intro s ch hs hwait
    obtain ⟨hstat, hforced, hmem, -⟩ := forcedOff_page s.undue (chPage ch.val)
    have hforce : s.undue.performDue (.forceChannel (chPage ch.val)) = s.undue.forcedOff (chPage ch.val) :=
      (forceMemory_chPage _ ch.isLt).trans (forceChannel_idle ch.val hwait)
    refine completes_due hs (by simp [Due.isLast]) (exec_forcedDisableChannel (chPage ch.val) s) ⟨dueDone_due .., ?_, ?_, ?_⟩
    · rw [dueDone_rf _ _ _ _ (not_evtWord_of_ge (by unfold blkStat chPage; omega)), hforce, hstat]
    · rw [dueDone_forced, hforce, hforced]
    · exact (congrArg State.mem hforce).trans hmem
  · intro s ch src off key hs hwait halign hplace hkey hquar hcached hoff
    obtain ⟨hstat, hnone, d, hd⟩ := forceMemory_read (s := s.undue) ch.isLt hwait halign ((place_congr (fun _ _ _ => rfl) off).trans hplace) hkey
      ((quarantined_congr (fun _ _ _ => rfl) (by unfold keyCore; omega) off).trans hquar) hcached hoff
    refine completes_due hs (by simp [Due.isLast]) (exec_forcedDisableChannel (chPage ch.val) s)
      ⟨dueDone_due .., ?_, hnone, d, dueDone_out _ _ hd⟩
    rw [dueDone_rf _ _ _ _ (not_evtWord_of_ge (by unfold blkStat chPage; omega))]
    exact hstat
  · intro s n hs hlower
    obtain ⟨hstat, hforced, hmem, -⟩ := forcedOff_page s.undue (bmPage n.val)
    have hforce : s.undue.performDue (.forceChannel (bmPage n.val)) = s.undue.forcedOff (bmPage n.val) :=
      forceMemory_bmPage (s := s.undue) n.isLt hlower
    refine completes_due hs (by simp [Due.isLast]) (exec_forcedDisableChannel (bmPage n.val) s) ⟨dueDone_due .., ?_, ?_, ?_⟩
    · rw [dueDone_rf _ _ _ _ (not_evtWord_of_lt (by unfold blkStat bmPage; omega)), hforce, hstat]
    · rw [dueDone_forced, hforce, hforced]
    · exact (congrArg State.mem hforce).trans hmem
  · intro s p hs hlive
    obtain ⟨hstat, hstate, hpend, -⟩ := portForced_port (s := s.undue) p.isLt
    have hforce : s.undue.performDue (.forcePort p.val) = s.undue.portForced p.val := forcePort_idle (s := s.undue) p.isLt hlive
    refine completes_due hs (by simp [Due.isLast]) (exec_forcedDisablePort p s) ⟨dueDone_due .., ?_, ?_, ?_⟩
    · rw [dueDone_rf _ _ _ _ (not_evtWord_of_lt (by unfold blkStat fpPage; omega)), hforce, hstat]
    · rw [State.portState, dueDone_rf _ _ _ _ (not_evtWord_of_lt (by rw [Reg.portStat_word p.isLt]; omega)), hforce]
      exact hstate
    · rw [dueDone_port _ _ p.isLt, hforce, hpend]
  · intro s p n hs hlive hport h0 h6 hovf hrsigs hsq hrq
    obtain ⟨hqp, hstate⟩ := forcePort_qp (s := s.undue) p.isLt hlive hport h0 h6 hovf hrsigs hsq hrq
    have hq : (s.dueDone (.forcePort p.val)).qp n = (s.qp n).errored 2 := (dueDone_qp ..).trans hqp
    refine completes_due hs (by simp [Due.isLast]) (exec_forcedDisablePort p s) ⟨dueDone_due .., ?_, ?_, ?_, ?_⟩
    · rw [hq, Qp.errored]
    · rw [hq, Qp.errored]
    · rw [hq, Qp.errored]
    · rw [State.portState, dueDone_rf _ _ _ _ (not_evtWord_of_lt (by rw [Reg.portStat_word p.isLt]; omega))]
      exact hstate

end Sys2Proof.Machine
end

section
/-! SUPPORT. A tile written from fresh, and the statement about TILE_ZERO (R110). -/
namespace Sys2Proof.Sparse

/-- A key that a filter of keys passes over reads as the default. -/
theorem get_filter_of_not {α : Type} (p : Nat → Bool) (d : Nat → α) (m : Sparse α) {k : Nat} (h : p k = false) :
    get d (m.filter fun e => p e.1) k = d k := by
  induction m with
  | nil => rfl
  | cons e t ih =>
    obtain ⟨j, w⟩ := e
    cases hj : p j with
    | false => rw [List.filter_cons_of_neg (by simp [hj]), ih]
    | true =>
      have hne : j ≠ k := fun heq => by simp [heq, h] at hj
      rw [List.filter_cons_of_pos (by simp [hj]), get, if_neg hne, ih]

end Sys2Proof.Sparse

namespace Sys2Proof.Machine

open Sys2Proof

/-! ## Metadata of a tile's slots -/

@[simp] theorem Engine.setSlot_slot (g : Engine) (t : Nat) (m : SlotMeta) (n : Nat) :
    (g.setSlot t m).slot n = if n = t then m else g.slot n := Sparse.get_set ..

/-- The same metadata recorded in each slot of a list. -/
theorem Engine.setSlots_slot (g : Engine) (l : List Nat) (m : SlotMeta) (n : Nat) :
    (l.foldl (fun g t => g.setSlot t m) g).slot n = if n ∈ l then m else g.slot n := by
  induction l generalizing g with
  | nil => simp
  | cons t l ih =>
    rw [List.foldl_cons, ih, Engine.setSlot_slot]
    by_cases hl : n ∈ l <;> simp [hl]

/-- A change of metadata leaves the accumulator memory. -/
@[simp] theorem Engine.modTile_acc (g : Engine) (tile shape : Nat) (f : SlotMeta → SlotMeta) :
    (g.modTile tile shape f).acc = g.acc :=
  List.foldlRecOn (motive := fun h : Engine => h.acc = g.acc) _ _ rfl fun _ h _ _ => h

/-! ## A fresh tile -/

theorem Engine.freshTile_slot (g : Engine) (tile shape : Nat) (f : ElemFmt) (n : Nat) :
    (g.freshTile tile shape f).slot n = if n ∈ tileSlots tile shape
      then { shape := some (BitVec.ofNat 2 shape), fmt := f, flags := 0, poison := 0 } else g.slot n := Engine.setSlots_slot ..

theorem Engine.freshTile_accWord (g : Engine) (tile shape : Nat) (f : ElemFmt) (n : Nat) {w : Nat} (hw : w < 2048) :
    (g.freshTile tile shape f).accWord n w = if n ∈ tileSlots tile shape then 0 else g.accWord n w := by
  have hslot : (2048 * n + w) / 2048 = n := by omega
  rw [Engine.accWord, Engine.freshTile, Engine.modTile_acc]
  split_ifs with hn
  · exact Sparse.get_filter_of_not (fun k => !(tileSlots tile shape).contains (k / 2048)) _ _ (by simp [hslot, hn])
  · exact Sparse.get_filter (fun k => !(tileSlots tile shape).contains (k / 2048)) _ _ (by simp [hslot, hn])

/-! ## TILE_ZERO -/

/-- The element format that TILE_ZERO records. -/
def zeroFmt (shape : Nat) : ElemFmt := if shape = 2 then .bf16 else .open_

theorem Engine.slot_congr {g h : Engine} (heq : h.slots = g.slots) (n : Nat) : h.slot n = g.slot n := by
  rw [Engine.slot, heq, Engine.slot]

theorem Engine.accWord_congr {g h : Engine} (heq : h.acc = g.acc) (n w : Nat) : h.accWord n w = g.accWord n w := by
  rw [Engine.accWord, heq, Engine.accWord]

/-- TILE_ZERO leaves a fresh tile's metadata in its slots, -/
theorem performTileZero_slot (s : State) (e q : Nat) (d : Desc) (n : Nat) :
    ((performTileZero s e q d).s.engine e).slot n = if n ∈ tileSlots d.tileOp.tile d.tileOp.shape
      then { shape := some (BitVec.ofNat 2 d.tileOp.shape), fmt := zeroFmt d.tileOp.shape, flags := 0, poison := 0 }
      else (s.engine e).slot n := by
  rw [performTileZero, State.modEngine_self, Engine.freshTile_slot, zeroFmt]

/-- and zero in their words. -/
theorem performTileZero_accWord (s : State) (e q : Nat) (d : Desc) (n : Nat) {w : Nat} (hw : w < 2048) :
    ((performTileZero s e q d).s.engine e).accWord n w
      = if n ∈ tileSlots d.tileOp.tile d.tileOp.shape then 0 else (s.engine e).accWord n w := by
  rw [performTileZero, State.modEngine_self, Engine.freshTile_accWord _ _ _ _ _ hw]

/-- Settles O23: the task starts as every task of its unit does (`startsAs_of_exec`), with the accumulator that it finds
(`given_stores`), and its unit leaves a fresh tile there. -/
theorem tileZeroClears : Obligations.TileZeroClears := by
  unfold Obligations.TileZeroClears
  intro s e q d hs herr hfree
  obtain ⟨t, ht, -, -, -, hacc, hslots⟩ := (startsAs_of_exec rfl rfl exec_tileZero s e q d _ hs herr rfl).1 hfree
  obtain ⟨-, -, hacc0, hslots0⟩ := sameUnits_iff.2 (congrFun (given_stores s e.val q.val d (tileOutSlots (s.engine e.val) d)) e.val)
  refine ⟨t, ht, fun n hn w hw => ?_, fun n hn => ?_, fun n hn => ⟨?_, fun w hw => ?_⟩⟩
  · rw [Engine.accWord_congr hacc, performTileZero_accWord _ _ _ _ _ hw, if_pos hn]
  · rw [Engine.slot_congr hslots, performTileZero_slot, if_pos hn]
    exact ⟨rfl, rfl, rfl⟩
  · rw [Engine.slot_congr hslots, performTileZero_slot, if_neg hn, Engine.slot_congr hslots0]
  · rw [Engine.accWord_congr hacc, performTileZero_accWord _ _ _ _ _ hw, if_neg hn, Engine.accWord_congr hacc0]

end Sys2Proof.Machine
end

section
/-! SUPPORT. Whole lines at their channel: what is read of a line that stands there undamaged, and what a write of a line leaves
(R212, R217, R219). -/
namespace Sys2Proof.Machine

open Sys2Proof

/-! ## Bytes -/

@[simp] theorem bytesLE_length (n x : Nat) : (bytesLE n x).length = n := by
  induction n generalizing x with
  | zero => rfl
  | succ n ih => rw [bytesLE, List.length_cons, ih]

/-- Bytes laid within a list leave its length. -/
theorem overlay_length {l b : List Byte} {i : Nat} (h : i + b.length ≤ l.length) : (overlay l i b).length = l.length := by
  simp only [overlay, List.length_append, List.length_take, List.length_drop]
  omega

theorem cellsFrom_bytes (a : Nat) (b : List Byte) : (cellsFrom a b).map (·.2) = b := by
  induction b generalizing a with
  | nil => rfl
  | cons x t ih => rw [cellsFrom, List.map_cons, ih]

theorem cellRead_length {m : List Host.Cell} {a n : Nat} {d : List Byte} (h : cellRead m a n = some d) : d.length = n := by
  unfold cellRead at h
  dsimp only at h
  split at h
  case isTrue hn => rw [← Option.some.inj h, List.length_map, hn]
  case isFalse => cases h

/-- Bytes that are written read as written. -/
theorem cellRead_write_self (m : List Host.Cell) (a : Nat) (b : List Byte) : cellRead (cellWrite m a b) a b.length = some b := by
  have hbelow : ((m.filter fun x => decide (x.1 < a)).filter fun x => decide (a ≤ x.1) && decide (x.1 < a + b.length)) = [] := by
    rw [List.filter_filter, List.filter_eq_nil_iff]
    intro x _
    simp only [Bool.and_eq_true, decide_eq_true_eq]
    omega
  have habove : ((m.filter fun x => decide (a + b.length ≤ x.1)).filter fun x => decide (a ≤ x.1) && decide (x.1 < a + b.length)) = [] := by
    rw [List.filter_filter, List.filter_eq_nil_iff]
    intro x _
    simp only [Bool.and_eq_true, decide_eq_true_eq]
    omega
  have hcells : ((cellsFrom a b).filter fun x => decide (a ≤ x.1) && decide (x.1 < a + b.length)) = cellsFrom a b :=
    List.filter_eq_self.2 fun x hx => by simp [cellsFrom_le x hx, cellsFrom_lt x hx]
  have hlength : (cellsFrom a b).length = b.length := by rw [← List.length_map (f := (·.2)), cellsFrom_bytes]
  rw [cellRead, cellWrite, List.filter_append, List.filter_append, hbelow, habove, hcells, List.nil_append, List.append_nil]
  rw [if_pos hlength, cellsFrom_bytes]

theorem sameBytesOutside_write (m : List Host.Cell) (a : Nat) (b : List Byte) : SameBytesOutside m (cellWrite m a b) a b.length :=
  fun x hx => cellByte_write_other m a b x hx

/-! ## The line -/

@[simp] theorem Mem.touch_dram (m : Mem) (space id : Nat) : (m.touch space id).dram = m.dram := by unfold Mem.touch; split <;> rfl
@[simp] theorem Mem.touch_waiting (m : Mem) (space id : Nat) : (m.touch space id).waiting = m.waiting := by
  unfold Mem.touch; split <;> rfl

@[simp] theorem State.upset_nil (s : State) (key : Nat) : s.upset key [] = s := rfl

@[simp] theorem State.upsetAt_nil (s : State) (off : Nat) : s.upsetAt off [] = s := by
  unfold State.upsetAt; split <;> rfl

/-- The line with a key holds d, neither poisoned nor with symbol errors. -/
def State.holdsClean (s : State) (key : Nat) (d : List Byte) : Prop :=
  cellRead s.mem.dram (128 * key) 128 = some d ∧ flagAt s.mem.dramPoison key = false ∧ Sparse.get (fun _ => []) s.mem.dramErr key = []

theorem decodeLine_clean (mode1 : Bool) : decodeLine mode1 false [] = .clean := rfl

theorem State.chanRead_clean {s : State} {key : Nat} {d : List Byte} (h : s.holdsClean key d) (src : Nat) :
    s.chanRead key src = (s, ⟨d, false, 0⟩) := by
  obtain ⟨hd, hflag, herr⟩ := h
  rw [State.chanRead, hd]
  dsimp only
  rw [hflag, herr, decodeLine_clean]
  rfl

@[simp] theorem State.chanWrite_dram (s : State) (key : Nat) (data : List Byte) (poison : Bool) :
    (s.chanWrite key data poison).mem.dram = cellWrite s.mem.dram (128 * key) data := rfl
@[simp] theorem State.chanWrite_poison (s : State) (key : Nat) (data : List Byte) (poison : Bool) :
    flagAt (s.chanWrite key data poison).mem.dramPoison key = poison := Sparse.get_set_self ..
@[simp] theorem State.chanWrite_err (s : State) (key : Nat) (data : List Byte) (poison : Bool) :
    Sparse.get (fun _ => []) (s.chanWrite key data poison).mem.dramErr key = [] := by
  simp [State.chanWrite]
@[simp] theorem State.chanWrite_waiting (s : State) (key : Nat) (data : List Byte) (poison : Bool) :
    (s.chanWrite key data poison).mem.waiting = s.mem.waiting := rfl
@[simp] theorem State.chanWrite_out (s : State) (key : Nat) (data : List Byte) (poison : Bool) :
    (s.chanWrite key data poison).out = s.out := rfl

/-- A line of 128 bytes that is written stands there, and no other byte changes. -/
theorem cellWrite_line (m : List Host.Cell) (key : Nat) {b : List Byte} (h : b.length = 128) :
    cellRead (cellWrite m (128 * key) b) (128 * key) 128 = some b
    ∧ SameBytesOutside m (cellWrite m (128 * key) b) (128 * key) 128 := by
  have hread := cellRead_write_self m (128 * key) b
  have hsame := sameBytesOutside_write m (128 * key) b
  rw [h] at hread hsame
  exact ⟨hread, hsame⟩

/-- A miss of the core cache is counted in words that no channel has. -/
theorem State.countMiss_r32_channel (s : State) (c n : Nat) {off : Nat} (h : off % 0x1000 < 0x118 ∨ 0x120 ≤ off % 0x1000) :
    (s.count (Reg.cchMissCnt c) n).r32 off = s.r32 off :=
  State.count_r32 s n (by unfold Reg.cchMissCnt Reg.cchPage; omega) (by unfold Reg.cchMissCnt Reg.cchPage; omega)

theorem State.countMiss_chanOn (s : State) (c n ch : Nat) : (s.count (Reg.cchMissCnt c) n).chanOn ch = s.chanOn ch :=
  State.rb_of_r32 (s.countMiss_r32_channel c n (by unfold blkCtrl; omega)) 0

/-! ## Accesses that nothing waits for -/

/-- With no access waiting there is none to serve. -/
theorem State.serve_idle {s : State} (h : s.mem.waiting = []) : s.serve = s := by
  rw [State.serve, h]
  rfl

/-- A near-memory operation that no lock holds off is performed at once. -/
theorem State.nmaAccess_free {s : State} {a : NmaAcc} {key : Nat} (hupset : a.upset = []) (hplace : s.place a.off = some key)
    (hlock : s.lockHolds key a.src = false) : s.nmaAccess a = (s.performAccess (.nma a)).serve := by
  have ha : { a with upset := [] } = a := by rw [← hupset]
  have hkey : s.waitingKey (.nma a) = key := by rw [State.waitingKey, hplace]; rfl
  rw [State.nmaAccess, hupset, State.upsetAt_nil, ha, State.arrive, hkey]
  simp [Waiting.ok, Waiting.unlocks, Waiting.src, hlock]

end Sys2Proof.Machine
end

section
/-! SUPPORT. Near-memory operations on a line of a channel, and the statement about them (R229 to R231). -/
namespace Sys2Proof.Machine

open Sys2Proof

/-! ## The bytes of the line -/

/-- An operation whose elements lie within the line leaves its length. -/
theorem nmaBytes_length {op pos : Nat} {line : List Byte} {ops : List Nat} (b : Nat)
    (h : pos + nmaWidth op * ops.length ≤ line.length) : (nmaBytes op pos line ops b).1.length = line.length := by
  unfold nmaBytes
  dsimp only
  refine List.foldlRecOn ops.zipIdx (motive := fun acc : List Byte × Flags => acc.1.length = line.length) _ rfl fun acc hacc x hx => ?_
  have hi : x.2 < ops.length := by simpa using List.snd_lt_of_mem_zipIdx hx
  have hin : nmaWidth op * (x.2 + 1) ≤ nmaWidth op * ops.length := Nat.mul_le_mul_left _ hi
  rw [Nat.mul_add, Nat.mul_one] at hin
  rw [overlay_length, hacc]
  rw [bytesLE_length, hacc]
  omega

/-- The elements of a well-formed operation lie within its line. -/
theorem nmaOk_within {a : NmaAcc} (h : nmaOk a = true) :
    a.off % 128 + nmaWidth a.op.toNat * (nmaOperands a).length ≤ 128 := by
  simp only [nmaOk, Bool.and_eq_true, decide_eq_true_eq, beq_iff_eq] at h
  obtain ⟨⟨⟨⟨hw, -⟩, -⟩, -⟩, hin⟩ := h
  unfold nmaOperands
  split
  case isTrue hscalar => simpa [hscalar] using hin
  case isFalse hscalar =>
    rw [if_neg hscalar] at hin
    have hn := Nat.mul_div_le a.bytes.length (nmaWidth a.op.toNat)
    rw [elems, List.length_map, List.length_range, Nat.max_eq_left hw]
    omega

/-! ## The operation at the channel -/

/-- The line read, operated on and written back; a poisoned operand of a scalar form writes it back poisoned (R231). -/
theorem State.nmaNow_atChannel {s : State} {p key : Nat} {d : List Byte} (src op : Nat) (ops : List Nat) (b : Nat) (poison : Bool)
    (hplace : s.place p = some key) (hquar : s.quarantined (keyCore key) p = false) (hcached : s.cached key = none)
    (hon : s.chanOn (keyChan key) = true) (hd : s.holdsClean key d) :
    s.nmaNow p src op ops b poison =
      if nmaScalar op ∧ poison then
        ((s.count (Reg.cchMissCnt (keyCore key)) 1).chanWrite key d true, ⟨slice d (p % 128) (nmaWidth op), true, 0⟩)
      else
        ((((s.count (Reg.cchMissCnt (keyCore key)) 1).chanWrite key (nmaBytes op (p % 128) d ops b).1 poison).modMem
            fun m => m.touch 0 key).nmaFlags (keyChan key) (nmaBytes op (p % 128) d ops b).2,
          ⟨slice d (p % 128) (nmaWidth op), poison, 0⟩) := by
  have hd' : (s.count (Reg.cchMissCnt (keyCore key)) 1).holdsClean key d := by rwa [State.holdsClean, State.count_mem]
  unfold State.nmaNow
  rw [hplace]
  dsimp only
  rw [hquar, if_neg Bool.false_ne_true, hcached]
  dsimp only
  rw [State.countMiss_chanOn, hon, State.chanRead_clean hd']
  simp

theorem State.nmaFlags_mem (s : State) (ch : Nat) (f : Flags) : (s.nmaFlags ch f).mem = s.mem := State.raiseIf_mem ..
theorem State.nmaFlags_out (s : State) (ch : Nat) (f : Flags) : (s.nmaFlags ch f).out = s.out := State.raiseIf_out ..

theorem State.nmaFlags_flags (s : State) (ch : Nat) (f : Flags) :
    (s.nmaFlags ch f).r32 (Reg.stkNmaFlags ch) = s.r32 (Reg.stkNmaFlags ch) ||| f.setWidth 32 := by
  rw [State.nmaFlags, State.raiseIf_r32, State.r32_w32_self]

/-! ## The access -/

/-- A well-formed operation is answered with the old element and its poison by a scalar form, with neither by a vector form. -/
theorem State.performAccess_nma {s u : State} {a : NmaAcc} {old : List Byte} {poison : Bool} (hok : nmaOk a = true)
    (hnow : s.nmaNow a.off a.src a.op.toNat (nmaOperands a) a.b.toNat a.poison = (u, ⟨old, poison, 0⟩)) :
    s.performAccess (.nma a)
      = u.emit (.line a.src true (nmaScalar a.op.toNat && poison) (if nmaScalar a.op.toNat then old else [])) := by
  rw [State.performAccess]
  dsimp only
  rw [hok, hnow]
  cases nmaScalar a.op.toNat <;> rfl

theorem State.performAccess_nma_refused {s : State} {a : NmaAcc} (h : nmaOk a = false) :
    s.performAccess (.nma a) = s.emit (.line a.src false false []) := by
  rw [State.performAccess]
  dsimp only
  rw [h]
  rfl

/-- An operation that no lock holds off, and behind which nothing waits, completes with what performing it leaves. -/
theorem completes_nma {s u : State} {a : NmaAcc} {key : Nat} {P : State → Prop} (hs : Ready s) (hupset : a.upset = [])
    (hplace : s.place a.off = some key) (hlock : s.lockHolds key a.src = false) (hu : s.performAccess (.nma a) = u)
    (hwait : u.mem.waiting = []) (hp : P (memFoot.apply s u)) : Completes (.nmaOperation a) s P := by
  refine completes_run hs (exec_nmaOperation a s) ?_
  rwa [State.nmaAccess_free hupset hplace hlock, hu, State.serve_idle hwait]

/-- Settles O33, by what the operation makes of its line at the channel (`State.nmaNow_atChannel`). -/
theorem nearMemoryOperations : Obligations.NearMemoryOperations := by
  unfold Obligations.NearMemoryOperations
  refine ⟨?_, ?_, ?_⟩
  · rintro s a key d hs hok hpoison hupset ⟨⟨-, -, -, hcached, hon⟩, hlock, hwait⟩ hplace hquar hd hflag herr
    have hnow := State.nmaNow_atChannel a.src a.op.toNat (nmaOperands a) a.b.toNat a.poison hplace hquar hcached hon ⟨hd, hflag, herr⟩
    rw [if_neg (by simp [hpoison])] at hnow
    have hlength : (nmaBytes a.op.toNat (a.off % 128) d (nmaOperands a) a.b.toNat).1.length = 128 := by
      rw [nmaBytes_length _ (by rw [cellRead_length hd]; exact nmaOk_within hok), cellRead_length hd]
    obtain ⟨hline, hother⟩ := cellWrite_line s.mem.dram key hlength
    refine completes_nma hs hupset hplace hlock (State.performAccess_nma hok hnow) ?_ ?_
    · simpa [State.nmaFlags_mem] using hwait
    · simp only [memFoot, Footprint.apply_mem, Footprint.apply_out, Footprint.apply_r32, if_true, State.emit_mem, State.emit_out,
        State.emit_r32, State.nmaFlags_mem, State.nmaFlags_out, State.nmaFlags_flags, State.modMem_mem, State.modMem_out, State.modMem_r32,
        Mem.touch_dram, State.chanWrite_dram, State.chanWrite_out, State.count_mem, State.count_out, hpoison, Bool.and_false]
      refine ⟨hline, hother, trivial, congrArg (· ||| _) ?_⟩
      exact State.countMiss_r32_channel _ _ _ (by unfold Reg.stkNmaFlags Reg.stkPage; omega)
  · rintro s a key d hs hok hpoison hupset hscalar ⟨⟨-, -, -, hcached, hon⟩, hlock, hwait⟩ hplace hquar hd hflag herr
    have hnow := State.nmaNow_atChannel a.src a.op.toNat (nmaOperands a) a.b.toNat a.poison hplace hquar hcached hon ⟨hd, hflag, herr⟩
    rw [if_pos ⟨hscalar, hpoison⟩] at hnow
    refine completes_nma hs hupset hplace hlock (State.performAccess_nma hok hnow) ?_ ?_
    · simpa using hwait
    · simp only [memFoot, Footprint.apply_mem, Footprint.apply_out, if_true, State.emit_mem, State.emit_out, State.chanWrite_poison,
        State.chanWrite_dram, State.chanWrite_out, State.count_mem, State.count_out, hscalar, Bool.true_and]
      exact ⟨trivial, (cellWrite_line s.mem.dram key (cellRead_length hd)).1, trivial⟩
  · intro s a key hs hok hupset hplace hlock hwait
    exact completes_nma hs hupset hplace hlock (State.performAccess_nma_refused hok) hwait ⟨rfl, rfl, rfl, rfl⟩

end Sys2Proof.Machine
end

section
/-! SUPPORT. What a channel and a die do of themselves, and the statement about them (R220, R222, R223, R229, R234). -/
namespace Sys2Proof.Machine

open Sys2Proof

/-! ## Locks (R229, R234) -/

theorem State.drained_evq (s : State) (ch : Nat) : (s.drained ch).evq = s.evq := by unfold State.drained; split <;> rfl
theorem State.drained_mem (s : State) (ch : Nat) : (s.drained ch).mem = s.mem := by unfold State.drained; split <;> rfl

/-- With nothing waiting, an expired lock is released and LOCK_TO raised, and its channel is looked at for the end of its drain. -/
theorem State.lockTimeout_found {s : State} {ch : Nat} {l : Lock} (hl : s.mem.locks.find? (fun l => keyChan l.key == ch) = some l)
    (hwait : s.mem.waiting = []) : s.lockTimeout ch =
      (((s.modMem fun m => { m with locks := m.locks.erase l }).stkLog l.key 6 0 l.src).raise (chPage ch) 11 10 (1024 + ch)).drained ch := by
  have hch : keyChan l.key = ch := by simpa using List.find?_some hl
  rw [State.lockTimeout, hl]
  dsimp only
  rw [State.lockExpire, hch, State.serve_idle]
  rw [State.drained_mem]
  exact hwait

theorem State.drained_of_not_draining {s : State} {ch : Nat} (h : s.draining (chPage ch) = false) : s.drained ch = s :=
  if_neg (by simp [h])

/-- A channel that drains and has no access left stands off. -/
theorem State.drained_of_idle {s : State} {ch : Nat} (h : s.draining (chPage ch) = true) (hidle : s.chanBusy ch = false) :
    (s.drained ch).rf (blkStat (chPage ch)) 0 3 = 0 := by
  rw [State.drained, if_pos ⟨h, by simp [hidle]⟩]
  exact (statOff_status s (chPage ch) false).2.2

/-! ## Scrubbing (R220) -/

@[simp] theorem State.stkLog_mem (s : State) (key kind symbols src : Nat) : (s.stkLog key kind symbols src).mem = s.mem := rfl
@[simp] theorem State.stkCe_mem (s : State) (key symbols src kind : Nat) : (s.stkCe key symbols src kind).mem = s.mem := by
  unfold State.stkCe
  split <;> simp
@[simp] theorem State.stkUe_mem (s : State) (key src : Nat) : (s.stkUe key src).mem = s.mem := by simp [State.stkUe]
@[simp] theorem State.readUnwritten_mem (s : State) (key src : Nat) : (s.readUnwritten key src).1.mem = s.mem := by
  unfold State.readUnwritten
  dsimp only
  split <;> simp

/-- A line that is read stays as it is. -/
@[simp] theorem State.chanRead_mem (s : State) (key src : Nat) : (s.chanRead key src).1.mem = s.mem := by
  unfold State.chanRead
  split
  · exact State.readUnwritten_mem ..
  · dsimp only
    split <;> simp

@[simp] theorem State.upset_scrub (s : State) (key : Nat) (up : Upset) : (s.upset key up).mem.scrub = s.mem.scrub := by
  unfold State.upset; split <;> rfl
@[simp] theorem State.chanWrite_scrub (s : State) (key : Nat) (data : List Byte) (poison : Bool) :
    (s.chanWrite key data poison).mem.scrub = s.mem.scrub := rfl

/-- The state in which a channel reads the line that it scrubs, its place already on the next. -/
def State.scrubAt (s : State) (ch : Nat) (up : Upset) : State :=
  (s.upset (lineKey ch (natAt s.mem.scrub ch)) up).modMem fun m =>
    { m with scrub := setNat m.scrub ch ((natAt s.mem.scrub ch + 1) % chanLines) }

/-- A channel that scrubs a line without a lock reads it and may write it back. -/
theorem State.scrubNext_cases {s : State} {ch : Nat} (hen : s.rb (Reg.stkCtrl ch) 1 = true) (hlocks : s.mem.locks = []) (up : Upset) :
    s.scrubNext ch up = ((s.scrubAt ch up).chanRead (lineKey ch (natAt s.mem.scrub ch)) 0xFFFF).1
    ∨ ∃ b, s.scrubNext ch up
      = ((s.scrubAt ch up).chanRead (lineKey ch (natAt s.mem.scrub ch)) 0xFFFF).1.chanWrite (lineKey ch (natAt s.mem.scrub ch)) b false := by
  unfold State.scrubNext
  dsimp only
  rw [if_neg (by simp [hen, hlocks])]
  split
  · split
    · exact .inl rfl
    · exact .inr ⟨_, rfl⟩
  · exact .inr ⟨_, rfl⟩
  · exact .inl rfl

theorem State.scrubNext_scrub {s : State} {ch : Nat} (hen : s.rb (Reg.stkCtrl ch) 1 = true) (hlocks : s.mem.locks = []) (up : Upset) :
    natAt (s.scrubNext ch up).mem.scrub ch = (natAt s.mem.scrub ch + 1) % chanLines := by
  have hat : natAt (s.scrubAt ch up).mem.scrub ch = (natAt s.mem.scrub ch + 1) % chanLines := Sparse.get_set_self ..
  obtain hread | ⟨b, hwrite⟩ := State.scrubNext_cases hen hlocks up
  · rwa [hread, State.chanRead_mem]
  · rwa [hwrite, State.chanWrite_scrub, State.chanRead_mem]

/-- A correctable line that the cache does not hold is written back as it was corrected. -/
theorem State.scrubNext_corrected {s : State} {ch key : Nat} {d : List Byte} {fix : List SymErr} (hen : s.rb (Reg.stkCtrl ch) 1 = true)
    (hlocks : s.mem.locks = []) (hkey : key = lineKey ch (natAt s.mem.scrub ch)) (hcached : s.cached key = none)
    (hd : cellRead s.mem.dram (128 * key) 128 = some d)
    (hdecode : decodeLine (s.rb (Reg.stkCtrl ch) 2) (flagAt s.mem.dramPoison key) (Sparse.get (fun _ => []) s.mem.dramErr key) =
      .corrected fix) :
    ∃ u b, s.scrubNext ch [] = State.chanWrite u key b false := by
  subst hkey
  unfold State.scrubNext
  dsimp only
  rw [if_neg (by simp [hen, hlocks])]
  rw [State.upset_nil]
  generalize hu : s.modMem _ = u
  have hcached' : u.cached (lineKey ch (natAt s.mem.scrub ch)) = none := by rw [← hu]; exact hcached
  have hd' : cellRead u.mem.dram (128 * lineKey ch (natAt s.mem.scrub ch)) 128 = some d := by rw [← hu]; exact hd
  have hdecode' : decodeLine (u.rb (Reg.stkCtrl ch) 2) (flagAt u.mem.dramPoison (lineKey ch (natAt s.mem.scrub ch)))
      (Sparse.get (fun _ => []) u.mem.dramErr (lineKey ch (natAt s.mem.scrub ch))) = .corrected fix := by rw [← hu]; exact hdecode
  rw [hcached', hd', hdecode']
  exact ⟨_, _, rfl⟩

/-! ## Readings (R222, R223, R452, R453) -/

theorem State.thermWarn_r32 (s : State) (hot : Bool) {off : Nat} (h : off / 4 < 0x88000) : (s.thermWarn hot).r32 off = s.r32 off := by
  have hw (b : Bool) : (s.wb Reg.pwrStat 8 b).r32 off = s.r32 off :=
    State.r32_wf_other _ _ _ _ _ _ (by unfold Reg.pwrStat Reg.pwrPage; omega)
  unfold State.thermWarn
  dsimp only
  split_ifs
  · exact hw true
  · exact hw false
  · rfl

/-- Training of GP0 writes pages above the cores' alone. -/
theorem State.gp0Train_r32 (s : State) {off : Nat} (h : off / 4 < 0x88000) : s.gp0Train.r32 off = s.r32 off := by
  have hstat : off / 4 ≠ statReg 8 / 4 := by rw [statReg, if_neg (by omega)]; unfold Reg.gtxStat Reg.gtxPage; omega
  have hproto : off / 4 ≠ blkProtoActive (portPage 8) / 4 := by
    rw [portPage, if_neg (by omega)]; unfold blkProtoActive gtxPn; omega
  have hport (u : State) (x : Port → Port) : (u.modPort 8 x).r32 off = u.r32 off := rfl
  have hcfg (u : State) : (u.takeCfg 8).r32 off = u.r32 off := rfl
  have hset (u : State) (lo len x : Nat) : (u.wf (statReg 8) lo len x).r32 off = u.r32 off := State.r32_wf_other _ _ _ _ _ _ hstat
  have hlanes (u : State) : ((u.setBad 8 0).setActive 8 0).r32 off = u.r32 off := by
    rw [State.setActive, if_neg (by omega), hset, State.setBad, if_neg (by omega), hset]
  have hstate (u : State) (x : Nat) : (u.setPortState 8 x).r32 off = u.r32 off := hset ..
  unfold State.gp0Train State.startTraining State.trainFrom
  split
  case isFalse => rfl
  case isTrue =>
    generalize hu : State.modPort _ 8 _ = u
    have hr : u.r32 off = s.r32 off := by rw [← hu, hport, State.r32_w32, if_neg hproto, hcfg]
    dsimp only
    split_ifs
    · rw [hstate, hr]
    · rw [hstate, hlanes, hr]
    · rw [sendCodeword_r32, hstate, hlanes, hr]

theorem State.bootHalt_r32 (s : State) {off : Nat} (h : off / 4 < 0x88000) : s.bootHalt.r32 off = s.r32 off := by
  have hboot : off / 4 ≠ Reg.secBootStat / 4 := by unfold Reg.secBootStat Reg.secPage; omega
  have htick : off / 4 ≠ Reg.secBootTick / 4 ∧ off / 4 ≠ (Reg.secBootTick + 4) / 4 := by unfold Reg.secBootTick Reg.secPage; omega
  unfold State.bootHalt
  dsimp only
  split
  · rfl
  · rw [State.gp0Train_r32 _ h, State.w64, State.r32_w32, if_neg htick.2, State.r32_w32, if_neg htick.1,
      State.r32_wf_other _ _ _ _ _ _ hboot]

theorem State.tripCross_r32 (s : State) (cause rail : Nat) {off : Nat} (h : off / 4 < 0x88000) :
    (s.tripCross cause rail).r32 off = s.r32 off := by
  rw [State.tripCross, State.raise_r32, State.bootHalt_r32 _ h, State.modPwr_r32]

theorem State.tripTest_r32 (s : State) (q : Int) (lim cause : Nat) {off : Nat} (h : off / 4 < 0x88000) :
    (s.tripTest q lim cause).r32 off = s.r32 off := by
  unfold State.tripTest
  split_ifs
  · exact State.tripCross_r32 _ _ _ h
  · exact State.tripCross_r32 _ _ _ h
  · rfl

/-- A walk whose every step leaves a word leaves it. -/
theorem State.upTo_r32 (s : State) (n : Nat) {f : State → Nat → State} {off : Nat} (h : ∀ u k, (f u k).r32 off = u.r32 off) :
    (s.upTo n f).r32 off = s.r32 off := State.upTo_view (·.r32 off) f n (fun u k _ => h u k) s

/-- The reading stands in the die's register; the bands of its channels stand in theirs. -/
theorem State.dieReading_temp (s : State) (c : Nat) {d : Nat} (hd : d < 16) (t : BitVec 10) :
    (s.dieReading c d t).r32 (Reg.coreStkTemp c d) = BitVec.ofNat 32 (t.toNat + 2 ^ 15) := by
  have hband (u : State) (ch x : Nat) : (u.wf (Reg.stkStat ch) 1 2 x).r32 (Reg.coreStkTemp c d) = u.r32 (Reg.coreStkTemp c d) :=
    State.r32_wf_other _ _ _ _ _ _ (by unfold Reg.stkStat Reg.stkPage Reg.coreStkTemp Reg.corePage; omega)
  unfold State.dieReading
  dsimp only
  generalize hu : State.upTo _ _ _ = u
  have hr : u.r32 (Reg.coreStkTemp c d) = BitVec.ofNat 32 (t.toNat + 2 ^ 15) := by
    rw [← hu, State.upTo_r32 _ _ fun u g => hband u _ _, State.r32_w32_self]
  split_ifs
  · rw [State.raise_r32, State.modMem_r32, hr]
  · rw [State.modMem_r32, hr]
  · exact hr

theorem State.dieSensor_temp (s : State) {c d : Nat} (hc : c < 8) (hd : d < 16) (t : BitVec 10) :
    (s.dieSensor c d t).r32 (Reg.coreStkTemp c d) = BitVec.ofNat 32 (t.toNat + 2 ^ 15) := by
  have hword : Reg.coreStkTemp c d / 4 < 0x88000 := by unfold Reg.coreStkTemp Reg.corePage; omega
  rw [State.dieSensor, State.tripTest_r32 _ _ _ _ hword, State.thermWarn_r32 _ _ hword, State.dieReading_temp s c hd]

/-- Settles O34, by what each of the five operations leaves. -/
theorem channelsAndDies : Obligations.ChannelsAndDies := by
  unfold Obligations.ChannelsAndDies
  refine ⟨?_, ?_, ?_, ?_, ?_⟩
  · intro s ch l hs hl hwait
    refine completes_run hs (exec_lockTimeout ch s) ?_
    rw [State.lockTimeout_found hl hwait]
    generalize hu : State.raise _ _ _ _ _ = u
    have hlocks : u.mem.locks = s.mem.locks.erase l := by rw [← hu]; rfl
    have hnone : u.mem.waiting = [] := by rw [← hu]; exact hwait
    have hregs : u.regs = s.regs := by rw [← hu]; rfl
    have hevq : u.evq = s.evq ++ [⟨chPage ch.val, 11, 10, 1024 + ch.val⟩] := by rw [← hu]; rfl
    have hdraining : u.draining (chPage ch.val) = s.draining (chPage ch.val) := State.rb_congr hregs _ _
    simp only [memFoot, Footprint.apply_mem, Footprint.apply_evq, Footprint.apply_regs, Footprint.apply_rf, if_true]
    refine ⟨(congrArg Mem.locks (State.drained_mem ..)).trans hlocks, (State.drained_evq ..).trans hevq, fun hdrain => ?_,
      fun hdrain hlast => ?_⟩
    · rw [State.drained_of_not_draining (hdraining.trans hdrain), hregs]
    · exact State.drained_of_idle (hdraining.trans hdrain) (by simpa [State.chanBusy, hlocks, hnone] using hlast)
  · intro s ch up hs hen hlocks
    exact completes_run hs (exec_scrubRead ch up s) (State.scrubNext_scrub hen hlocks up)
  · intro s ch key d fix hs hen hlocks hkey hcached hd hdecode _
    refine completes_run hs (exec_scrubRead ch [] s) ?_
    obtain ⟨u, b, hwrite⟩ := State.scrubNext_corrected hen hlocks hkey hcached hd hdecode
    rw [hwrite]
    exact ⟨State.chanWrite_err .., State.chanWrite_poison ..⟩
  · intro s ch hs
    have hup : s.pwr.powered = true ∧ s.pwr.resetN = true := by simpa [State.up] using hs.1
    refine completes_run hs (exec_refresh ch s) ?_
    rw [State.refreshNext, if_pos hup]
    exact ⟨Sparse.get_set_self .., rfl⟩
  · intro s c d temp hs
    exact completes_run hs (exec_dieTempReading c d temp s) (State.dieSensor_temp s c.isLt d.isLt temp)

end Sys2Proof.Machine
end

section
/-! SUPPORT. The traffic generator and checker of a channel, and the statement about them (R235, R236). -/
namespace Sys2Proof.Machine

open Sys2Proof

/-! ## The line of a pattern -/

theorem packBeats_length (fuel : Nat) (l : List Nat) : (packBeats fuel l).length = fuel := by
  induction fuel generalizing l with
  | zero => rfl
  | succ fuel ih => rw [packBeats, List.length_cons, ih]

theorem tgBeats_length (pattern line : Nat) (seed user : Dword) : (tgBeats pattern line seed user).length = 64 := by
  unfold tgBeats
  dsimp only
  split
  case h_6 => exact packBeats_length ..
  case h_7 => exact packBeats_length ..
  all_goals rw [List.length_map, List.length_range]

theorem tgLine_length (beats : List Nat) (inv : Bool) : (tgLine beats inv).length = 2 * beats.length := by
  simp [tgLine, List.length_flatMap, Nat.mul_comm]

/-! ## The position -/

/-- The position is kept with a channel's memory. -/
theorem State.setTg_tg (s : State) (ch : Nat) (g : Option Tg) : optAt (s.setTg ch g).mem.tg ch = g := Sparse.get_set_self ..

/-- The next position hangs on the range and the number of passes. -/
theorem State.tgAdvance_congr {s t : State} (h : ∀ off, off % 0x1000 < 0x160 → t.r32 off = s.r32 off) (ch op : Nat) (g : Tg) :
    t.tgAdvance ch op g = s.tgAdvance ch op g := by
  have hstart : t.r32 (Reg.stkTgStart ch) = s.r32 (Reg.stkTgStart ch) := h _ (by unfold Reg.stkTgStart Reg.stkPage; omega)
  have hend : t.r32 (Reg.stkTgEnd ch) = s.r32 (Reg.stkTgEnd ch) := h _ (by unfold Reg.stkTgEnd Reg.stkPage; omega)
  have hpasses : t.r32 (Reg.stkTgPasses ch) = s.r32 (Reg.stkTgPasses ch) := h _ (by unfold Reg.stkTgPasses Reg.stkPage; omega)
  unfold State.tgAdvance State.rf
  rw [hstart, hend, hpasses]

/-! ## Counts -/

theorem State.countTgRd_r32 (s : State) (ch n : Nat) {off : Nat} (h : off % 0x1000 < 0x160) :
    (s.count (Reg.stkTgRdCnt ch) n).r32 off = s.r32 off :=
  State.count_r32 s n (by unfold Reg.stkTgRdCnt Reg.stkPage; omega) (by unfold Reg.stkTgRdCnt Reg.stkPage; omega)

theorem State.tgMiss_mem (s : State) (ch line : Nat) (x : Option (Nat × Nat)) : (s.tgMiss ch line x).mem = s.mem := by
  have hcount : (s.count (Reg.stkTgMismatch ch) 1).mem = s.mem := State.count_mem ..
  unfold State.tgMiss
  dsimp only
  rw [State.raise_mem]
  split
  · exact hcount
  · rw [State.w64_mem, hcount]

theorem State.tgMiss_evq (s : State) (ch line : Nat) (x : Option (Nat × Nat)) :
    ⟨chPage ch, 13, 10, 1024 + ch⟩ ∈ (s.tgMiss ch line x).evq := by
  unfold State.tgMiss
  rw [State.raise_evq]
  exact List.mem_append_right _ List.mem_cons_self

theorem State.tgMiss_r32 (s : State) (ch line : Nat) (x : Option (Nat × Nat)) {off : Nat} (h : off % 0x1000 < 0x160) :
    (s.tgMiss ch line x).r32 off = s.r32 off := by
  have hcount : (s.count (Reg.stkTgMismatch ch) 1).r32 off = s.r32 off :=
    State.count_r32 s 1 (by unfold Reg.stkTgMismatch Reg.stkPage; omega) (by unfold Reg.stkTgMismatch Reg.stkPage; omega)
  have hlow : off / 4 ≠ Reg.stkTgFail ch / 4 := by unfold Reg.stkTgFail Reg.stkPage; omega
  have hhigh : off / 4 ≠ (Reg.stkTgFail ch + 4) / 4 := by unfold Reg.stkTgFail Reg.stkPage; omega
  unfold State.tgMiss
  dsimp only
  rw [State.raise_r32]
  split
  · exact hcount
  · rw [State.w64, State.r32_w32, if_neg hhigh, State.r32_w32, if_neg hlow, hcount]

/-! ## The start -/

theorem State.tgStart_enabled {s : State} {ch : Nat} (h : s.rb (blkCtrl (chPage ch)) 0 = true) : s.tgStart ch = s.tgStop ch := if_pos h

theorem State.tgStop_off (s : State) (ch : Nat) : (s.tgStop ch).rb (Reg.stkCtrl ch) 0 = false ∧ (s.tgStop ch).mem = s.mem :=
  ⟨(State.rb_wb _ _ _ _ _ (by omega)).trans (if_pos rfl), State.wb_mem ..⟩

theorem State.tgStart_idle {s : State} {ch : Nat} (hoff : s.rb (blkCtrl (chPage ch)) 0 = false) (hidle : s.rb (Reg.stkStat ch) 0 = false) :
    (s.tgStart ch).rb (Reg.stkCtrl ch) 0 = true ∧ (s.tgStart ch).rb (Reg.stkStat ch) 0 = true
    ∧ optAt (s.tgStart ch).mem.tg ch = some ⟨s.rf (Reg.stkTgStart ch) 0 21, 0, false, false⟩ := by
  have hne : Reg.stkCtrl ch / 4 ≠ Reg.stkStat ch / 4 := by unfold Reg.stkCtrl Reg.stkStat Reg.stkPage; omega
  have hfail (u : State) (x : Option Tg) {off : Nat} (h : off % 0x1000 < 0x160) :
      ((u.w64 (Reg.stkTgFail ch) 0).setTg ch x).r32 off = u.r32 off := by
    rw [State.setTg, State.modMem_r32, State.w64, State.r32_w32, if_neg (by unfold Reg.stkTgFail Reg.stkPage; omega), State.r32_w32,
      if_neg (by unfold Reg.stkTgFail Reg.stkPage; omega)]
  rw [State.tgStart, if_neg (by simp [hoff]), if_neg (by simp [hidle])]
  refine ⟨?_, ?_, State.setTg_tg ..⟩
  · rw [State.rb_of_r32 (hfail _ _ (by unfold Reg.stkCtrl Reg.stkPage; omega)), State.rb_wb_other _ _ _ _ hne,
      State.rb_wb _ _ _ _ _ (by omega), if_pos rfl]
  · rw [State.rb_of_r32 (hfail _ _ (by unfold Reg.stkStat Reg.stkPage; omega)), State.rb_wb _ _ _ _ _ (by omega), if_pos rfl]

/-! ## A line -/

/-- The line that a generator expects next, uninverted. -/
def State.tgWant (s : State) (ch : Nat) (g : Tg) : List Byte :=
  tgLine (tgBeats (s.rf (Reg.stkTgCfg ch) 0 3) g.line (s.r64 (Reg.stkTgSeed ch)) (s.r64 (Reg.stkTgUser ch))) false

theorem State.tgWant_length (s : State) (ch : Nat) (g : Tg) : (s.tgWant ch g).length = 128 := by
  rw [State.tgWant, tgLine_length, tgBeats_length]

/-- OP 0 writes the pattern's line. -/
theorem State.tgLineOp_write {s : State} {ch : Nat} {g : Tg} (hg : optAt s.mem.tg ch = some g) (hgo : s.tgOver ch g = false)
    (hop : s.rf (Reg.stkTgCfg ch) 3 2 = 0) :
    s.tgLineOp ch [] = (((s.chanWrite (lineKey ch g.line) (s.tgWant ch g) false).modMem fun m => m.touch 0 (lineKey ch g.line)).count
      (Reg.stkTgWrCnt ch) 1).setTg ch (some (s.tgAdvance ch 0 g)) := by
  have hop' : fld (s.r32 (Reg.stkTgCfg ch)) 3 2 = 0 := hop
  unfold State.tgLineOp
  rw [hg]
  dsimp only
  rw [if_neg (by simp [hgo]), hop']
  rfl

/-- A check of a line that can be read compares its data, and changes nothing. -/
theorem State.tgCheck_clean {s : State} {key : Nat} {d : List Byte} (h : s.holdsClean key d) (want : List Byte) :
    s.tgCheck key want false
      = (s, (firstDiff (dataSymbols want) (dataSymbols d)).isSome, firstDiff (dataSymbols want) (dataSymbols d)) := by
  obtain ⟨hd, hflag, herr⟩ := h
  unfold State.tgCheck
  dsimp only
  rw [hd]
  dsimp only
  rw [if_neg Bool.false_ne_true, hflag, herr, decodeLine_clean]
  rfl

/-- OP 1 checks the line; a line that differs is reported, and ends the run under STOP_ON_FAIL. -/
theorem State.tgLineOp_check {s : State} {ch : Nat} {g : Tg} {d : List Byte} (hg : optAt s.mem.tg ch = some g)
    (hgo : s.tgOver ch g = false) (hop : s.rf (Reg.stkTgCfg ch) 3 2 = 1) (hraw : s.rb (Reg.stkTgCfg ch) 5 = false)
    (hd : s.holdsClean (lineKey ch g.line) d) :
    s.tgLineOp ch [] =
      match firstDiff (dataSymbols (s.tgWant ch g)) (dataSymbols d) with
      | none => (s.count (Reg.stkTgRdCnt ch) 1).setTg ch (some (s.tgAdvance ch 1 g))
      | some x => ((s.count (Reg.stkTgRdCnt ch) 1).tgMiss ch g.line (some x)).setTg ch
          (some (if s.rb (Reg.stkTgCfg ch) 6 then { g with stop := true } else s.tgAdvance ch 1 g)) := by
  have hop' : fld (s.r32 (Reg.stkTgCfg ch)) 3 2 = 1 := hop
  have hraw' : (s.r32 (Reg.stkTgCfg ch)).getLsbD 5 = false := hraw
  have hread : (s.count (Reg.stkTgRdCnt ch) 1).tgAdvance ch 1 g = s.tgAdvance ch 1 g :=
    State.tgAdvance_congr (fun _ h => State.countTgRd_r32 _ _ _ h) ch 1 g
  have hmiss (x : Option (Nat × Nat)) : ((s.count (Reg.stkTgRdCnt ch) 1).tgMiss ch g.line x).tgAdvance ch 1 g = s.tgAdvance ch 1 g :=
    (State.tgAdvance_congr (fun _ h => State.tgMiss_r32 _ _ _ _ h) ch 1 g).trans hread
  unfold State.tgLineOp
  rw [hg]
  dsimp only
  rw [if_neg (by simp [hgo]), hop', hraw', State.upset_nil, if_neg (by simp)]
  have hwant : tgLine (tgBeats (fld (s.r32 (Reg.stkTgCfg ch)) 0 3) g.line (s.r64 (Reg.stkTgSeed ch)) (s.r64 (Reg.stkTgUser ch)))
      ((1 : Nat) == 3 && g.pass % 2 == 1) = s.tgWant ch g := rfl
  rw [hwant, State.tgCheck_clean hd]
  cases firstDiff (dataSymbols (s.tgWant ch g)) (dataSymbols d) with
  | none => simp [hread]
  | some x => cases hstop : s.rb (Reg.stkTgCfg ch) 6 <;> simp_all [State.rb]

/-! ## The end -/

theorem State.tgDone_over {s : State} {ch : Nat} {g : Tg} (hg : optAt s.mem.tg ch = some g) (hover : s.tgOver ch g = true) :
    s.tgDone ch = ((s.setTg ch none).wb (Reg.stkStat ch) 0 false).raise (chPage ch) 12 5 (1024 + ch) := by
  rw [State.tgDone, hg]
  exact if_pos hover

/-- Settles O36, by what the start, a line and the end of a run leave. -/
theorem trafficGenerator : Obligations.TrafficGenerator := by
  unfold Obligations.TrafficGenerator
  refine ⟨?_, ?_, ?_, ?_, ?_, ?_⟩
  · intro s ch hs hoff hidle
    refine completes_run hs (exec_tgStart ch s) ?_
    simpa only [Footprint.apply_rb, Footprint.apply_mem, if_true] using State.tgStart_idle hoff hidle
  · intro s ch hs hon
    refine completes_run hs (exec_tgStart ch s) ?_
    rw [State.tgStart_enabled hon]
    simpa only [Footprint.apply_rb, Footprint.apply_mem, if_true] using State.tgStop_off s ch.val
  · intro s ch hs
    refine completes_run hs (exec_tgStop ch s) ?_
    rw [Footprint.apply_rb]
    exact ⟨(State.tgStop_off s ch.val).1, rfl⟩
  · intro s ch g hs hg hgo hop
    refine completes_run hs (exec_tgLineOperation ch [] s) ?_
    rw [State.tgLineOp_write hg hgo hop]
    obtain ⟨hline, hother⟩ := cellWrite_line s.mem.dram (lineKey ch.val g.line) (s.tgWant_length ch.val g)
    simp only [memFoot, Footprint.apply_mem, if_true, State.setTg_tg]
    simp only [State.setTg, State.modMem_mem, State.count_mem, Mem.touch_dram, State.chanWrite_dram]
    exact ⟨hline, hother, trivial⟩
  · intro s ch g want d hs hg hgo hop hraw hwant hd hflag herr
    have hcheck := State.tgLineOp_check hg hgo hop hraw ⟨hd, hflag, herr⟩
    have hwant' : s.tgWant ch.val g = want := hwant.symm
    rw [hwant'] at hcheck
    refine ⟨fun hsame => ?_, fun hdiff => ?_⟩
    · refine completes_run hs (exec_tgLineOperation ch [] s) ?_
      rw [hcheck, hsame]
      simp only [memFoot, Footprint.apply_mem, if_true, State.setTg_tg]
      simp only [State.setTg, State.modMem_mem, State.count_mem, and_self]
    · obtain ⟨x, hx⟩ := Option.ne_none_iff_exists'.1 hdiff
      refine completes_run hs (exec_tgLineOperation ch [] s) ?_
      rw [hcheck, hx]
      simp only [memFoot, Footprint.apply_mem, Footprint.apply_evq, if_true, State.setTg_tg]
      simp only [State.setTg, State.modMem_mem, State.modMem_evq, State.tgMiss_mem, State.count_mem, State.tgMiss_evq, and_self]
  · intro s ch g hs hg hover
    refine completes_run hs (exec_tgDone ch s) ?_
    rw [State.tgDone_over hg hover]
    simp only [memFoot, Footprint.apply_mem, Footprint.apply_evq, Footprint.apply_rb, if_true, State.raise_mem, State.raise_rb,
      State.raise_evq, State.wb_mem, State.wb_evq, State.setTg_tg]
    exact ⟨trivial, (State.rb_wb _ _ _ _ _ (by omega)).trans (if_pos rfl), rfl⟩

end Sys2Proof.Machine
end

section
/-! SUPPORT. The statement about flushes of the core cache, refuted (R227): no hypothesis keeps another line of the cache to 128 bytes,
and the write-back of a longer one is laid over the line behind it. -/
namespace Sys2Proof.Machine

open Sys2Proof

/-- A dirty line of core 0 at channel 5, with n bytes of a value. -/
def dirtyBytes (line n : Nat) (b : Byte) : CLine := ⟨0, lineKey 5 line, List.replicate n b, false, true, false⟩

/-- Channel 5 enabled, and two dirty lines of it in the cache of core 0: line 1 with its 128 bytes, and line 0 with 256. -/
def overlongCache : State :=
  (State.reset.wb (blkCtrl (chPage 5)) 0 true).modMem fun m => { m with cache := [dirtyBytes 1 128 7, dirtyBytes 0 256 0] }

theorem overlongCache_ready : Ready overlongCache := by decide +kernel

/-- WB_ALL stores line 1 and then line 0, whose upper half lies where line 1 stands. -/
theorem overlongCache_wbAll : cellRead (overlongCache.wbAll 0).mem.dram (128 * lineKey 5 1) 128 = some (List.replicate 128 0) := by
  decide +kernel

/-- Refutes O35: its clause about the lines that WB_ALL stores asks 128 bytes of the line that it speaks of, and not of the other lines
of the cache; a dirty line of 256 bytes (which no command makes) overwrites, as it is written back, the line behind it. -/
theorem not_cacheFlushes : ¬ Obligations.CacheFlushes := by
  unfold Obligations.CacheFlushes
  rintro ⟨-, -, -, hstores, -⟩
  obtain ⟨t, ht, hon, -⟩ := hstores overlongCache 0 (lineKey 5 1) (dirtyBytes 1 128 7) overlongCache_ready (by decide +kernel)
    (by decide +kernel) rfl rfl List.length_replicate
  obtain ⟨hread, -⟩ := hon (by decide +kernel)
  rw [exec_wbAll, run_ready _ _ _ overlongCache_ready, Host.Outcome.next.injEq] at ht
  rw [← ht] at hread
  simp only [memFoot, Footprint.apply_mem, if_true] at hread
  exact absurd (overlongCache_wbAll.symm.trans hread) (by decide)

end Sys2Proof.Machine
end

section
/-! SUPPORT. Walks and the translation caches (R244 to R253): a walk leaves every engine's cache alone, and what it finds is kept or not. -/
namespace Sys2Proof.Machine

open Sys2Proof

/-! ## A walk leaves the engines alone -/

@[simp] theorem State.markIssued_engines (s s0 : State) (f : Lower → Lower) : (s.markIssued s0 f).engines = s.engines := rfl
@[simp] theorem State.countBytes_engines (s : State) (src ctx kind n : Nat) : (s.countBytes src ctx kind n).engines = s.engines := rfl
@[simp] theorem State.walkKeep_engines (s : State) (w : WalkEntry) : (s.walkKeep w).engines = s.engines := rfl
@[simp] theorem State.spanRead_engines (s : State) (space off n src hint : Nat) :
    (s.spanRead space off n src hint).1.engines = s.engines := (spanRead_keeps ..).engines rfl

theorem State.walkLevels_engines (s : State) (x : Xlator) (ctx va : Nat) (levels : List Nat) (table : Nat) :
    (s.walkLevels x ctx va levels table).1.engines = s.engines := by
  induction levels generalizing s table with
  | nil => rfl
  | cons l rest ih =>
    unfold State.walkLevels
    dsimp only
    split_ifs <;> simp [ih]

theorem State.walk_engines (s : State) (x : Xlator) (ctx va : Nat) : (s.walk x ctx va).1.engines = s.engines := by
  unfold State.walk
  dsimp only
  generalize hu : (if walker x < 8 then s.count (Reg.coreWalkCnt (walker x)) 1 else s) = u
  have hs : u.engines = s.engines := by
    rw [← hu]
    split
    · exact s.count_engines ..
    · rfl
  generalize s.r32 (Reg.coreCtxRoot (if walker x = 8 then 0 else walker x) ctx) = root
  split
  · exact hs
  · repeat' split
    all_goals exact (State.walkLevels_engines ..).trans hs

theorem State.brineHdr_engines (s : State) (space off : Nat) : (s.brineHdr space off).1.engines = s.engines :=
  State.spanRead_engines ..

theorem State.xlCache_congr {s t : State} (h : t.engines = s.engines) (e : Nat) : t.xlCache (some e) = s.xlCache (some e) := by
  simp only [State.xlCache, State.engine, h]

/-! ## What is kept of a walk -/

/-- The translation cache of x holds no translation of va in a context. -/
def State.xlMisses (s : State) (x : Xlator) (ctx va : Nat) : Prop :=
  (s.xlCache x).any (fun t => t.ctx == ctx && t.va == va / 2 ^ t.log2 * 2 ^ t.log2) = false

@[simp] theorem Footprint.apply_moveFoot_xlCache (s t : State) (x : Xlator) : (moveFoot.apply s t).xlCache x = t.xlCache x := by
  cases x <;> rfl

/-- What is installed stands first in its cache. -/
theorem State.xlInstall_head (s : State) (x : Xlator) (t : XEntry) : ((s.xlInstall x t).xlCache x).head? = some t := by
  cases x with
  | none => rfl
  | some e =>
    rw [State.xlCache, State.xlInstall, State.setXlCache, State.modEngine_self]
    rfl

section Walk

variable {s : State} {x : Xlator} {ctx va : Nat} (hmiss : s.xlMisses x ctx va)
include hmiss

theorem State.find_of_xlMisses :
    ((s.xlCache x).find? fun t => t.ctx == ctx && t.va == va / 2 ^ t.log2 * 2 ^ t.log2) = none := by
  rw [List.find?_eq_none]
  exact List.any_eq_false.1 hmiss

theorem State.translate_fault (hwhy : (s.walk x ctx va).2.1 ≠ 0) : s.translate x ctx va = moveFoot.of s (s.walk x ctx va) := by
  rw [State.translate, State.find_of_xlMisses hmiss]
  dsimp only
  rw [if_pos hwhy]

theorem State.translate_leaf (hok : (s.walk x ctx va).2.1 = 0) (hplain : (s.walk x ctx va).2.2.brine = false) :
    s.translate x ctx va
      = moveFoot.of s ((s.walk x ctx va).1.xlInstall x (s.walk x ctx va).2.2, 0, (s.walk x ctx va).2.2) := by
  rw [State.translate, State.find_of_xlMisses hmiss]
  dsimp only
  rw [if_neg (by simp [hok]), if_neg (by simp [hplain])]

section Brine

variable {w : State} {y : XEntry} (hwalk : s.walk x ctx va = (w, 0, y)) (hbrine : y.brine = true) (hdev : saDev y.frame = s.dev)
  (hspace : saSpace y.frame = 1 ∨ saSpace y.frame = 2)
include hwalk hbrine hdev hspace

/-- The leaf of a brine object of the device is kept with what a header of the page's size says (R270). -/
theorem State.translate_brine_kept {h : BrineHdr} (hh : (w.brineHdr (saSpace y.frame) (saOff y.frame)).2 = .inl h)
    (hraw : h.raw = 2 ^ y.log2) :
    (s.translate x ctx va).1 = moveFoot.apply s
      ((w.brineHdr (saSpace y.frame) (saOff y.frame)).1.xlInstall x { y with dataOff := h.dataOff, total := h.total }) := by
  rw [State.translate, State.find_of_xlMisses hmiss, hwalk]
  dsimp only
  rw [if_neg (by simp), if_pos hbrine, if_neg (by omega), hh]
  dsimp only
  rw [if_pos hraw, Footprint.of]

/-- With no header of the page's size it is not kept. -/
theorem State.translate_brine_bare (hno : ∀ h, (w.brineHdr (saSpace y.frame) (saOff y.frame)).2 = .inl h → h.raw ≠ 2 ^ y.log2) :
    (s.translate x ctx va).1 = moveFoot.apply s (w.brineHdr (saSpace y.frame) (saOff y.frame)).1 := by
  rw [State.translate, State.find_of_xlMisses hmiss, hwalk]
  dsimp only
  rw [if_neg (by simp), if_pos hbrine, if_neg (by omega)]
  cases hh : (w.brineHdr (saSpace y.frame) (saOff y.frame)).2 with
  | inl h =>
    dsimp only
    rw [if_neg (hno h hh), Footprint.of]
  | inr why => rw [Footprint.of]

end Brine

end Walk

/-- A walk for an address that the cache does not hold completes with the state of its translation. -/
theorem completes_pageWalk {s : State} {x : Option (Fin 256)} {ctx : Fin 64} {va : Nat} {P : State → Prop} (hs : Ready s)
    (hva : va < 2 ^ 48) (hmiss : s.xlMisses (x.map (·.val)) ctx.val va)
    (hp : P (moveFoot.apply s (s.translate (x.map (·.val)) ctx.val va).1)) : Completes (.pageWalk x ctx va) s P := by
  refine completes_run hs (exec_pageWalk x ctx va s) ?_
  rwa [State.pageWalk, if_neg (by rw [hmiss]; simpa using hva)]

/-- What a walk that finds a leaf leaves in the cache, and one that faults. -/
theorem completes_pageWalk_plain {s : State} {x : Option (Fin 256)} {ctx : Fin 64} {va : Nat} (hs : Ready s) (hva : va < 2 ^ 48)
    (hmiss : s.xlMisses (x.map (·.val)) ctx.val va) : Completes (.pageWalk x ctx va) s fun t =>
      let r := s.walk (x.map (·.val)) ctx.val va
      (r.2.1 ≠ 0 → t.xlCache (x.map (·.val)) = r.1.xlCache (x.map (·.val)))
      ∧ (r.2.1 = 0 → r.2.2.brine = false → (t.xlCache (x.map (·.val))).head? = some r.2.2) := by
  refine completes_pageWalk hs hva hmiss ⟨fun hwhy => ?_, fun hok hplain => ?_⟩
  · rw [State.translate_fault hmiss hwhy, Footprint.of, Footprint.apply_moveFoot_xlCache, Footprint.apply_moveFoot_xlCache]
  · rw [State.translate_leaf hmiss hok hplain, Footprint.of, Footprint.apply_moveFoot_xlCache, Footprint.apply_moveFoot_xlCache,
      State.xlInstall_head]

/-! ## Invalidation (R250, R252) -/

theorem State.coreInv_walk_named {s : State} {c : Nat} {v : Dword} {w : WalkEntry} (hw : w ∈ (s.coreInv c v).mem.walk) (hc : w.core = c) :
    invKeeps v w.ctx (w.pfx * 2 ^ levelLow w.level) (levelLow w.level) = true := by
  have hfilter : (s.coreInv c v).mem.walk = s.mem.walk.filter fun w =>
      (w.core != c && !(c == 0 && w.core == 8)) || invKeeps v w.ctx (w.pfx * 2 ^ levelLow w.level) (levelLow w.level) := by
    unfold State.coreInv
    dsimp only [State.modMem_mem]
    split <;> rfl
  rw [hfilter, List.mem_filter] at hw
  simpa [hc] using hw.2

theorem State.coreInv_dram (s : State) (c : Nat) (v : Dword) : (s.coreInv c v).mem.dram = s.mem.dram := by
  unfold State.coreInv
  dsimp only [State.modMem_mem]
  split <;> rfl

/-- Settles O37: a walk's translation by the rules of `State.translate` in a cache that misses, an invalidation by its filter. -/
theorem translationsAreKeptAndDropped : Obligations.TranslationsAreKeptAndDropped := by
  unfold Obligations.TranslationsAreKeptAndDropped
  refine ⟨?_, ?_, ?_, ?_, ?_⟩
  · intro s e ctx va hs hva hmiss
    obtain ⟨t, ht, hfault, hleaf⟩ := completes_pageWalk_plain (x := some e) (ctx := ctx) hs hva hmiss
    exact ⟨t, ht, fun hwhy => (hfault hwhy).trans (State.xlCache_congr (State.walk_engines ..) e.val), hleaf⟩
  · intro s ctx va hs hva hmiss
    exact completes_pageWalk_plain (x := none) hs hva hmiss
  · intro s w e ctx va x hs hva hmiss hwalk hbrine hdev hspace
    have hw : w.engines = s.engines := by simpa only [hwalk] using State.walk_engines s (some e.val) ctx.val va
    have hsame := State.xlCache_congr ((State.brineHdr_engines w (saSpace x.frame) (saOff x.frame)).trans hw) e.val
    have hbare (hno : ∀ h, (w.brineHdr (saSpace x.frame) (saOff x.frame)).2 = .inl h → h.raw ≠ 2 ^ x.log2) :
        (s.translate (some e.val) ctx.val va).1.xlCache (some e.val) = s.xlCache (some e.val) := by
      rw [State.translate_brine_bare (x := some e.val) hmiss hwalk hbrine hdev hspace hno, Footprint.apply_moveFoot_xlCache, hsame]
    have hkept (h : BrineHdr) (hh : (w.brineHdr (saSpace x.frame) (saOff x.frame)).2 = .inl h) (hraw : h.raw = 2 ^ x.log2) :
        ((s.translate (some e.val) ctx.val va).1.xlCache (some e.val)).head?
          = some { x with dataOff := h.dataOff, total := h.total } := by
      rw [State.translate_brine_kept (x := some e.val) hmiss hwalk hbrine hdev hspace hh hraw, Footprint.apply_moveFoot_xlCache,
        State.xlInstall_head]
    refine completes_pageWalk (x := some e) hs hva hmiss ⟨hkept, fun h hh hraw => hbare ?_, fun why hh => hbare ?_⟩
    · intro h' hh'
      rw [hh, Sum.inl.injEq] at hh'
      rwa [← hh']
    · intro h' hh'
      rw [hh] at hh'
      cases hh'
  · intro s e v hs
    refine completes_run hs (exec_engXlInv e v s) ⟨?_, rfl⟩
    rw [Footprint.apply_engine, if_pos rfl, State.engInv, State.modEngine_self]
  · intro s c v hs
    exact completes_run hs (exec_coreXlInv c v s) ⟨fun _ hw hc => State.coreInv_walk_named hw hc, rfl, State.coreInv_dram ..⟩

end Sys2Proof.Machine
end

section
/-! SUPPORT. Board memory, the host window, and the accesses outstanding at them (R259 to R263, R271). -/
namespace Sys2Proof.Machine

open Sys2Proof

/-! ## The board (R259 to R262) -/

/-- The board line of an offset holds d, neither poisoned nor with symbol errors. -/
def State.boardHoldsClean (s : State) (o : Nat) (d : List Byte) : Prop :=
  cellRead s.mem.board o 128 = some d ∧ flagAt s.mem.boardPoison (o / 128) = false
    ∧ Sparse.get (fun _ => []) s.mem.boardErr (o / 128) = []

section Board

variable {s : State} {off src : Nat}

theorem State.boardRead_beyond (h : s.tierSize ≤ off) : s.boardRead off src = (s, Rd.error 11) := if_pos h

theorem State.boardRead_off (h : off < s.tierSize) (hoff : s.boardOn off = false) :
    s.boardRead off src
      = ((s.brdLog off 4 0 src).raise (bmPage (boardIface off)) 9 2 (265 + boardIface off), Rd.poisoned) := by
  rw [State.boardRead, if_neg (by omega), if_neg (by simp [hoff])]

theorem State.boardRead_clean {d : List Byte} (hline : off % 128 = 0) (h : off < s.tierSize) (hon : s.boardOn off = true)
    (hd : s.boardHoldsClean off d) : s.boardRead off src = (s.issue (s.lowerOf 1 off 128 src false), ⟨d, false, 0⟩) := by
  obtain ⟨hread, hflag, herr⟩ := hd
  rw [State.boardRead, if_neg (by omega), if_pos hon, State.boardDecode]
  dsimp only [State.issue, State.modMem_mem]
  rw [show 128 * (off / 128) = off by omega, hread]
  dsimp only
  rw [hflag, herr, decodeLine_clean]
  rfl

theorem State.boardWrite_beyond (h : s.tierSize ≤ off) (b : List Byte) (poison : Bool) :
    s.boardWrite off src b poison = (s, 11) := if_pos h

theorem State.boardWrite_off (h : off < s.tierSize) (hoff : s.boardOn off = false) (b : List Byte) (poison : Bool) :
    s.boardWrite off src b poison = (s.brdLog off 4 0 src, 14) := by
  rw [State.boardWrite, if_neg (by omega), if_pos (by simp [hoff])]

theorem State.boardWrite_whole (h : off < s.tierSize) (hon : s.boardOn off = true) {b : List Byte} (hb : b.length = 128) (poison : Bool) :
    s.boardWrite off src b poison
      = ((s.issue { s.lowerOf 1 off 128 src true with undo := some (s.boardHeld off) }).boardStore off b poison, 0) := by
  rw [State.boardWrite, if_neg (by omega), if_neg (by simp [hon]), if_pos hb]

/-- A read of a line of the board is answered with what its interface reads. -/
theorem completes_boardRead {P : State → Prop} {r : State × Rd} (hs : Ready s) (hline : off % 128 = 0) (hr : s.boardRead off src = r)
    (hp : P (memFoot.apply s (r.1.answer src r.2))) : Completes (.boardAccess ⟨src, off, .read, []⟩) s P := by
  refine completes_run hs (exec_boardAccess _ s) ?_
  have hread : s.boardAccess ⟨src, off, .read, []⟩ = r.1.answer src r.2 := by
    simp only [State.boardAccess, List.isEmpty_nil, if_true, show off / 128 * 128 = off by omega, hr]
  rwa [hread]

/-- A write of a whole line of the board is answered with what its interface makes of it. -/
theorem completes_boardWrite {P : State → Prop} {b : List Byte} {w : State × Nat} (hs : Ready s) (hline : off % 128 = 0)
    (hb : b.length = 128) (hw : s.boardWrite off src b false = w) (hp : P (memFoot.apply s (w.1.answerWrite src w.2))) :
    Completes (.boardAccess ⟨src, off, .write 0 b false, []⟩) s P := by
  refine completes_run hs (exec_boardAccess _ s) ?_
  have hwrite : s.boardAccess ⟨src, off, .write 0 b false, []⟩ = w.1.answerWrite src w.2 := by
    have hin : inLine 0 b.length = true := by rw [hb]; rfl
    simp only [State.boardAccess, List.isEmpty_nil, if_true, hin, Bool.not_true, Bool.false_eq_true, if_false, Nat.add_zero,
      show off / 128 * 128 = off by omega, hw]
  rwa [hwrite]

end Board

/-- A line that is stored stands there, and no other byte of the board changes. -/
theorem State.boardStore_line (s : State) {o : Nat} {b : List Byte} (hline : o % 128 = 0) (hb : b.length = 128) (poison : Bool) :
    cellRead (s.boardStore o b poison).mem.board o 128 = some b
    ∧ SameBytesOutside s.mem.board (s.boardStore o b poison).mem.board o 128 := by
  have hboard : (s.boardStore o b poison).mem.board = cellWrite s.mem.board (128 * (o / 128)) b := rfl
  have h := cellWrite_line s.mem.board (o / 128) hb
  rw [hboard]
  rwa [show 128 * (o / 128) = o by omega] at h ⊢

theorem State.boardStore_dram (s : State) (o : Nat) (b : List Byte) (poison : Bool) :
    (s.boardStore o b poison).mem.dram = s.mem.dram := Mem.touch_dram ..

/-! ## The training of a board interface (R259) -/

theorem State.boardTrained_enabled {s : State} {n : Nat} (hn : n < 16) (hen : s.rb (blkCtrl (bmPage n)) 0 = true) 
    (hrate : s.rf (Reg.brdCfg n) 4 2 ≠ 3) :
    (s.boardTrained n).rb (Reg.brdStat n) 0 = true
    ∧ natAt (s.boardTrained n).mem.trained n = s.rf (Reg.brdCfg n) 0 2 + 1 := by
  have hcfg : Reg.brdCfg n / 4 ≠ Reg.brdStat n / 4 := by unfold Reg.brdCfg Reg.brdStat Reg.brdPage; omega
  have hsize : Reg.brdStat n / 4 ≠ Reg.brdTierSize / 4 ∧ Reg.brdStat n / 4 ≠ (Reg.brdTierSize + 4) / 4 := by
    unfold Reg.brdStat Reg.brdPage Reg.brdTierSize Reg.brdTierPage; omega
  rw [State.boardTrained, if_pos ⟨hen, hrate⟩]
  refine ⟨?_, ?_⟩
  · dsimp only
    rw [State.w64, State.rb_w32, if_neg hsize.2, State.rb_w32, if_neg hsize.1, State.modMem_rb, State.rb_wb _ _ _ _ _ (by omega), if_pos rfl]
  · have hrf : (s.wb (Reg.brdStat n) 0 true).rf (Reg.brdCfg n) 0 2 = s.rf (Reg.brdCfg n) 0 2 := by
      rw [State.wb, State.rf_wf, if_neg hcfg]
    exact (Sparse.get_set_self ..).trans (congrArg (· + 1) hrf)

/-! ## The host window (R263, R301) -/

section Host

variable {s : State} {off src : Nat}

theorem State.hostWrite_unmapped (h : s.hostAddr off true = none) (b : List Byte) (poison : Bool) :
    s.hostWrite off src b poison = (s, 11) := by rw [State.hostWrite, h]

/-- Poisoned data are not written: the access stays outstanding as a failed one (R271, R418). -/
theorem State.hostWrite_poisoned {a : Nat} (h : s.hostAddr off true = some a) (b : List Byte) :
    s.hostWrite off src b true = (s.issue { s.lowerOf 2 off b.length src true with failed := true }, 15) := by
  rw [State.hostWrite, h]
  rfl

theorem State.hostWrite_sent {a : Nat} (h : s.hostAddr off true = some a) (hup : s.gp0Up = true) (hver : s.gtxVersion < 0x102)
    (b : List Byte) :
    s.hostWrite off src b false
      = (((s.issue (s.lowerOf 2 off b.length src true)).modMem fun m =>
          { m.touch 2 (off / 128) with host := cellWrite m.host off b }).gutexSend (.dmaWr (BitVec.ofNat 64 a) false b) 0 6 b, 0) := by
  have hok : s.hostFails false = false := by simp [State.hostFails, hup]
  have hstrict : (s.rb (Reg.gtxHwinCtrl (off / 2 ^ 40)) 2 && decide (0x102 ≤ s.gtxVersion)) = false := by
    rw [decide_eq_false (by omega), Bool.and_false]
  rw [State.hostWrite, h]
  dsimp only
  rw [if_neg (by simp [hok]), hstrict]

theorem State.dmaRead_up (hup : s.gp0Up = true) (hnone : s.mem.reading = none) (n a : Nat) :
    s.dmaRead off src n a
      = ((s.issue { s.lowerOf 2 off n src false with tag := s.mem.nextTag }).modMem fun m =>
          { m with nextTag := m.nextTag + 1 }).gutexSend (.dmaRd s.mem.nextTag (BitVec.ofNat 64 a) n) 0 5 [] := by
  have hreading (l : Lower) : (s.issue l).mem.reading = none := hnone
  simp [State.dmaRead, State.modMem, hreading, hup, State.lowerOf]

theorem State.hostRead_sent {a : Nat} (h : s.hostAddr off false = some a) (hup : s.gp0Up = true) (hnone : s.mem.reading = none)
    (n : Nat) :
    s.hostRead off src n
      = (((s.dmaRead off src n a).hostSeen off n).1, ⟨((s.dmaRead off src n a).hostSeen off n).2, false, 0⟩) := by
  have hgot : s.gotAt off n = none := by rw [State.gotAt, hnone]; rfl
  rw [State.hostRead, h]
  dsimp only
  rw [hgot]
  dsimp only
  rw [if_neg (by simp [hnone]), if_neg (by simp [hup])]

/-- A write within a line of the host window is answered with what the window makes of it. -/
theorem completes_hostWrite {P : State → Prop} {b : List Byte} {poison : Bool} {w : State × Nat} (hs : Ready s)
    (hin : inLine (off % 128) b.length = true) (hw : s.hostWrite off src b poison = w)
    (hp : P (Footprint.apply { regs := true, events := true, mem := true, ports := true } s (w.1.answerWrite src w.2))) :
    Completes (.hostWindowAccess ⟨src, off, b.length, some (b, poison)⟩) s P := by
  refine completes_run hs (exec_hostWindowAccess _ s) ?_
  have hwrite : s.hostAccess ⟨src, off, b.length, some (b, poison)⟩ = w.1.answerWrite src w.2 := by
    simp [State.hostAccess, hin, hw]
  rwa [hwrite]

/-- A read of the host window with the link up leaves as a DMA read, which is answered when its data arrive. -/
theorem State.hostAccess_read {a n : Nat} (h : s.hostAddr off false = some a) (hup : s.gp0Up = true) (hnone : s.mem.reading = none)
    (hin : inLine (off % 128) n = true) :
    s.hostAccess ⟨src, off, n, none⟩ = ((s.dmaRead off src n a).drawnN n).modMem fun m => { m with
      lower := m.lower.map fun l => if l.space = 2 ∧ l.tag = s.mem.nextTag ∧ !l.write then { l with kind := .row } else l } := by
  simp [State.hostAccess, hin, State.hostRead_sent h hup hnone, State.hostSeen]

end Host

/-! ## Outstanding accesses (R263, R271) -/

section Outstanding

variable {s : State} {i : Nat} {l : Lower}

/-- An access that no task waits for is outstanding until it has been sampled. -/
theorem State.lowerOpen_noTask (htask : l.task = none) (hlen : l.len ≠ 0) : s.lowerOpen l = true := by
  simp [State.lowerOpen, htask, hlen]

theorem State.lowerLate_failed (hl : s.mem.lower[i]? = some l) (hopen : s.lowerOpen l = true) :
    s.lowerLate i true = s.modMem fun m => { m with lower := m.lower.set i { l with failed := true } } := by
  simp [State.lowerLate, hl, hopen]

theorem State.lowerLate_early (hl : s.mem.lower[i]? = some l) (hopen : s.lowerOpen l = true) (htick : s.tick < s.lateAt l) :
    s.lowerLate i false = s.modMem fun m => { m with lower := m.lower.set i { l with late := true } } := by
  simp [State.lowerLate, hl, hopen, htick]

theorem State.lowerLate_due (hl : s.mem.lower[i]? = some l) (hopen : s.lowerOpen l = true) (htick : s.lateAt l ≤ s.tick) :
    s.lowerLate i false = (s.lowerFail l.space l.off l.src l.write false).lowerEnd i l true := by
  simp [State.lowerLate, State.lowerSample, hl, hopen, htick]

/-- An access that no task waits for leaves the list at its end; only its requester may be answered. -/
theorem State.lowerEnd_noTask (htask : l.task = none) (late : Bool) :
    (s.lowerEnd i l late).mem.lower = s.mem.lower.eraseIdx i ∧ (s.lowerEnd i l late).evq = s.evq := by
  rw [State.lowerEnd, htask]
  dsimp only
  split <;> exact ⟨rfl, rfl⟩

theorem State.lowerFail_mem (s : State) (space off src : Nat) (write failed : Bool) :
    (s.lowerFail space off src write failed).mem = s.mem := by
  rw [State.lowerFail, State.raise_mem, State.count_mem]

theorem State.lowerFail_raises (s : State) (space off src : Nat) (write failed : Bool) :
    ⟨0x210, 10, 2, if space = 1 then 265 + boardIface off else 264⟩ ∈ (s.lowerFail space off src write failed).evq := by
  rw [State.lowerFail, State.raise_evq]
  exact List.mem_append_right _ (List.mem_singleton_self _)

theorem slice_whole (b : List Byte) : slice b 0 b.length = b := by simp [slice]

/-- The data of the oldest outstanding access, a DMA read that no task waits for, arrive. -/
theorem State.hostArrive_oldest {rest : List Lower} {bytes : List Byte} (hl : s.mem.lower = l :: rest) (hspace : l.space = 2)
    (hwrite : l.write = false) (hbytes : l.len = bytes.length) (hlen : 0 < l.len) (htask : l.task = none) :
    (s.hostArrive l.tag true bytes).mem.lower = rest
    ∧ (s.hostArrive l.tag true bytes).mem.host = cellWrite s.mem.host l.off bytes
    ∧ (l.kind = .row → (s.hostArrive l.tag true bytes).out = .line l.src true false bytes :: s.out) := by
  have hfind : (s.mem.lower.findIdx? fun x => x.space == 2 && !x.write && x.len != 0 && x.tag == l.tag) = some 0 := by
    rw [hl, List.findIdx?_cons, if_pos (by simp [hspace, hwrite, Nat.ne_of_gt hlen])]
  have hfirst : s.mem.lower[0]? = some l := by rw [hl, List.getElem?_cons_zero]
  have hslice : slice bytes 0 l.len = bytes := by rw [hbytes, slice_whole]
  rw [State.hostArrive, hfind]
  dsimp only
  rw [if_neg (by simp), hfirst]
  dsimp only
  rw [hslice, htask]
  have hrest : s.mem.lower.eraseIdx 0 = rest := by rw [hl, List.eraseIdx_cons_zero]
  dsimp only
  split
  · exact ⟨hrest, rfl, fun _ => rfl⟩
  · next hkind => exact ⟨hrest, rfl, fun h => absurd h hkind⟩

end Outstanding

/-! ## The statement -/

/-- Settles O38, clause by clause: what the board and the host window make of an access, what arrives for one that is outstanding,
and what becomes of one that is late or failed. -/
theorem lowerTierAccesses : Obligations.LowerTierAccesses := by
  unfold Obligations.LowerTierAccesses
  refine ⟨?_, ?_, ?_, ?_, ?_, ?_, ?_, ?_, ?_, ?_⟩
  · intro s off src b hs hline hoff hon hb
    refine completes_boardWrite hs hline hb (State.boardWrite_whole hoff hon hb false) ?_
    obtain ⟨hread, hother⟩ := State.boardStore_line
      (s.issue { s.lowerOf 1 off 128 src true with undo := some (s.boardHeld off) }) hline hb false
    exact ⟨hread, hother, rfl, State.boardStore_dram ..⟩
  · intro s off src d hs hline hoff hon hd hflag herr
    exact completes_boardRead hs hline (State.boardRead_clean hline hoff hon ⟨hd, hflag, herr⟩) ⟨rfl, rfl⟩
  · intro s off src hs hline
    refine ⟨fun hoff hno => ⟨?_, fun b hb => ?_⟩, fun hoff => ⟨?_, fun b hb => ?_⟩, ?_⟩
    · refine completes_boardRead hs hline (State.boardRead_off hoff hno) ⟨rfl, ⟨_, rfl⟩, ?_⟩
      exact List.mem_append_right _ (List.mem_singleton_self _)
    · exact completes_boardWrite hs hline hb (State.boardWrite_off hoff hno b false) ⟨rfl, rfl⟩
    · exact completes_boardRead hs hline (State.boardRead_beyond hoff) ⟨rfl, _, rfl⟩
    · exact completes_boardWrite hs hline hb (State.boardWrite_beyond hoff b false) ⟨rfl, rfl⟩
    · exact completes_run hs (exec_boardAccess _ s) ⟨rfl, _, rfl⟩
  · intro s off src b hs hpos hfit
    have hin : inLine (off % 128) b.length = true := by simp [inLine, hpos, hfit]
    refine ⟨fun hnone => ?_, fun a ha => ?_, fun a ha hup hnone => ?_⟩
    · exact completes_hostWrite hs hin (State.hostWrite_unmapped hnone b false) ⟨rfl, rfl⟩
    · exact completes_hostWrite hs hin (State.hostWrite_poisoned ha b) ⟨rfl, rfl⟩
    · refine completes_run hs (exec_hostWindowAccess _ s) ?_
      rw [State.hostAccess_read ha hup hnone hin, State.dmaRead_up hup hnone]
      exact ⟨rfl, rfl, rfl⟩
  · intro s off src a b hs ha hup hpos hfit hver
    have hin : inLine (off % 128) b.length = true := by simp [inLine, hpos, hfit]
    exact completes_hostWrite hs hin (State.hostWrite_sent ha hup hver b)
      ⟨cellRead_write_self .., sameBytesOutside_write _ _ _, rfl⟩
  · intro s l rest bytes hs hl hspace hwrite hbytes hlen htask
    obtain ⟨hlower, hhost, hout⟩ := State.hostArrive_oldest hl hspace hwrite hbytes hlen htask
    have hmem : (moveFoot.apply s (s.hostArrive l.tag ((0 : BitVec 8) == 0) bytes)).mem.host = cellWrite s.mem.host l.off bytes := hhost
    refine completes_run hs (exec_dmaCpl l.tag 0 bytes s) ⟨hlower, ?_, ?_, hout⟩
    · rw [hmem, hbytes, cellRead_write_self]
    · rw [hmem, hbytes]
      exact sameBytesOutside_write _ _ _
  · intro s i l hs hl htask hlen htick
    refine completes_run hs (exec_lowerTierLate i s) ?_
    rw [State.lowerLate_due hl (State.lowerOpen_noTask htask hlen) htick]
    obtain ⟨hlower, hevq⟩ := State.lowerEnd_noTask (s := s.lowerFail l.space l.off l.src l.write false) (i := i) htask true
    simp only [moveFoot, Footprint.apply_mem, Footprint.apply_evq, if_true, hlower, hevq, State.lowerFail_mem, true_and]
    exact State.lowerFail_raises ..
  · intro s i l hs hl htask hlen htick
    refine completes_run hs (exec_lowerTierLate i s) ?_
    rw [State.lowerLate_early hl (State.lowerOpen_noTask htask hlen) htick]
    exact ⟨rfl, rfl⟩
  · intro s i l hs hl htask hlen
    refine completes_run hs (exec_lowerTierFailed i s) ?_
    rw [State.lowerLate_failed hl (State.lowerOpen_noTask htask hlen)]
    exact ⟨rfl, rfl, rfl⟩
  · intro s n hs hen hrate
    refine completes_run hs (exec_boardTrained n s) ?_
    rw [Footprint.apply_rb]
    exact State.boardTrained_enabled n.isLt hen hrate

end Sys2Proof.Machine
end

section
/-! SUPPORT. The registers of a port, and what the operations that the states of a link share leave of a port: a codeword sent, the port
DOWN, in training, and UP (R279, R287 to R291). -/
namespace Sys2Proof.Machine

open Sys2Proof

/-! ## Words of a port's page -/

theorem statReg_word (p : Nat) : statReg p / 4 = if p < 8 then 0x88042 + 0x400 * p else 0x8C440 := by
  unfold statReg Reg.fabStat Reg.fabPage Reg.gtxStat Reg.gtxPage
  split <;> omega

theorem protoActive_word (p : Nat) : blkProtoActive (portPage p) / 4 = if p < 8 then 0x88010 + 0x400 * p else 0x8C410 := by
  unfold blkProtoActive portPage fpPage gtxPn
  split <;> omega

theorem fabPeer_word (p : Nat) : Reg.fabPeer p / 4 = 0x88043 + 0x400 * p := by unfold Reg.fabPeer Reg.fabPage; omega

theorem protoActive_word_ne_statReg (p : Nat) : blkProtoActive (portPage p) / 4 ≠ statReg p / 4 := by
  rw [protoActive_word, statReg_word]
  split <;> omega

theorem State.modPort_regs (s : State) (p : Nat) (f : Port → Port) : (s.modPort p f).regs = s.regs := rfl
theorem State.modPort_out (s : State) (p : Nat) (f : Port → Port) : (s.modPort p f).out = s.out := rfl
theorem State.modPort_r32 (s : State) (p : Nat) (f : Port → Port) (off : Nat) : (s.modPort p f).r32 off = s.r32 off := rfl

/-! ## Fields of the status word (Tables 12-11 and 12-13) -/

section
variable (s : State) (p : Nat)

theorem State.setActive_eq (v : Nat) : s.setActive p v = s.wf (statReg p) 8 (if p < 8 then 8 else 4) v := by
  unfold State.setActive; split <;> rfl
theorem State.setBad_eq (v : Nat) : s.setBad p v = s.wf (statReg p) (if p < 8 then 16 else 12) (if p < 8 then 8 else 4) v := by
  unfold State.setBad; split <;> rfl
theorem State.setWidth_eq (w : Nat) : s.setWidth p w = s.wf (statReg p) 3 (if p < 8 then 2 else 1) (widthCode w) := by
  unfold State.setWidth; split <;> rfl
theorem State.badLanes_eq : s.badLanes p = s.rf (statReg p) (if p < 8 then 16 else 12) (if p < 8 then 8 else 4) := by
  unfold State.badLanes; split <;> rfl
theorem State.widthNow_eq : s.widthNow p = 2 ^ (s.rf (statReg p) 3 (if p < 8 then 2 else 1) + 1) := by
  unfold State.widthNow; split <;> rfl

theorem State.portState_wf {lo : Nat} (len x : Nat) (h : 3 ≤ lo) : (s.wf (statReg p) lo len x).portState p = s.portState p :=
  State.rf_wf_apart _ _ _ _ _ _ _ (by omega) (by omega)

@[simp] theorem State.portState_raise (pn bit cls src : Nat) : (s.raise pn bit cls src).portState p = s.portState p := rfl
@[simp] theorem State.portState_raiseIf (c : Bool) (pn bit cls src : Nat) : (s.raiseIf c pn bit cls src).portState p = s.portState p :=
  State.raiseIf_rf ..
@[simp] theorem State.portState_modPort (q : Nat) (f : Port → Port) : (s.modPort q f).portState p = s.portState p := rfl
@[simp] theorem State.portState_setPortState {v : Nat} (h : v < 8) : (s.setPortState p v).portState p = v :=
  (State.rf_wf_self s (statReg p) 0 3 v (by omega)).trans (Nat.mod_eq_of_lt h)
@[simp] theorem State.portState_setActive (v : Nat) : (s.setActive p v).portState p = s.portState p := by
  rw [State.setActive_eq, State.portState_wf _ _ _ _ (by omega)]
@[simp] theorem State.portState_setBad (v : Nat) : (s.setBad p v).portState p = s.portState p := by
  rw [State.setBad_eq, State.portState_wf _ _ _ _ (by split <;> omega)]
@[simp] theorem State.portState_setWidth (w : Nat) : (s.setWidth p w).portState p = s.portState p := by
  rw [State.setWidth_eq, State.portState_wf _ _ _ _ (by omega)]
@[simp] theorem State.portState_setNegFail (b : Bool) : (s.setNegFail p b).portState p = s.portState p :=
  State.portState_wf s p _ _ (by split <;> omega)

@[simp] theorem State.badLanes_setPortState (v : Nat) : (s.setPortState p v).badLanes p = s.badLanes p := by
  rw [State.badLanes_eq, State.badLanes_eq, State.setPortState, State.rf_wf_apart] <;> split <;> omega
@[simp] theorem State.badLanes_setActive (v : Nat) : (s.setActive p v).badLanes p = s.badLanes p := by
  rw [State.badLanes_eq, State.badLanes_eq, State.setActive_eq, State.rf_wf_apart] <;> split <;> omega
@[simp] theorem State.badLanes_setBad (v : Nat) : (s.setBad p v).badLanes p = v % 2 ^ lanesOf p := by
  rw [State.badLanes_eq, State.setBad_eq, State.rf_wf_self _ _ _ _ _ (by split <;> omega), lanesOf]

@[simp] theorem State.widthNow_setPortState (v : Nat) : (s.setPortState p v).widthNow p = s.widthNow p := by
  rw [State.widthNow_eq, State.widthNow_eq, State.setPortState, State.rf_wf_apart] <;> split <;> omega
@[simp] theorem State.widthNow_setActive (v : Nat) : (s.setActive p v).widthNow p = s.widthNow p := by
  rw [State.widthNow_eq, State.widthNow_eq, State.setActive_eq, State.rf_wf_apart] <;> split <;> omega

end

@[simp] theorem Footprint.apply_portState (fp : Footprint) (s t : State) (p : Nat) :
    (fp.apply s t).portState p = if fp.regs then t.portState p else s.portState p := Footprint.apply_rf ..
@[simp] theorem Footprint.apply_badLanes (fp : Footprint) (s t : State) (p : Nat) :
    (fp.apply s t).badLanes p = if fp.regs then t.badLanes p else s.badLanes p := by
  simp only [State.badLanes_eq, Footprint.apply_rf]
@[simp] theorem Footprint.apply_widthNow (fp : Footprint) (s t : State) (p : Nat) :
    (fp.apply s t).widthNow p = if fp.regs then t.widthNow p else s.widthNow p := by
  simp only [State.widthNow_eq, Footprint.apply_rf]
  split <;> rfl

theorem linkFoot_port (s t : State) (p : Nat) : (linkFoot.apply s t).port p = t.port p := (Footprint.apply_port ..).trans (if_pos rfl)

/-! ## A codeword sent (R279, R280) -/

/-- A port but for its count of the codewords sent and its scrambler. -/
def Port.unsent (x : Port) : Port := { x with txNum := 0, txScr := 0 }

section
variable (s : State) (p : Nat) (c : Content)

theorem State.codewordOut_unsent : ((s.codewordOut p c).port p).unsent = (s.port p).unsent := by
  rw [State.codewordOut, State.modPort_self]
  rfl

@[simp] theorem State.sendCodeword_unsent : ((s.sendCodeword p c).port p).unsent = (s.port p).unsent := by
  unfold State.sendCodeword
  split
  · rw [State.codewordOut_unsent, State.codewordOut_unsent]
  · exact s.codewordOut_unsent p c

@[simp] theorem State.sendCodeword_regs : (s.sendCodeword p c).regs = s.regs := by unfold State.sendCodeword; split <;> rfl
@[simp] theorem State.sendCodeword_tide : (s.sendCodeword p c).tide = s.tide := by unfold State.sendCodeword; split <;> rfl
@[simp] theorem State.sendCodeword_evq : (s.sendCodeword p c).evq = s.evq := by unfold State.sendCodeword; split <;> rfl

/-- It leaves as the newest output, behind an alignment codeword where its number calls for one. -/
theorem State.sendCodeword_out : ∃ lanes rest, (s.sendCodeword p c).out = .codeword p c lanes :: rest
    ∧ ((s.port p).txNum % 8192 ≠ 0 → rest = s.out) := by
  unfold State.sendCodeword
  split
  case isTrue h => exact ⟨_, _, rfl, fun hn => absurd h hn⟩
  case isFalse => exact ⟨_, _, rfl, fun _ => rfl⟩

end

/-! ## Mode and settings -/

theorem State.ethernet_congr {s t : State} {p : Nat} (h : (t.port p).cfg = (s.port p).cfg) : t.ethernet p = s.ethernet p := by
  rw [State.ethernet, State.ethernet, h]

theorem State.portState_congr {s t : State} {p : Nat} (h : t.r32 (statReg p) = s.r32 (statReg p)) : t.portState p = s.portState p :=
  congrArg (fld · 0 3) h

/-! ## A port that goes DOWN (R287, R291) -/

section
variable (s : State) (p : Nat)

theorem State.portDown_r32 {off : Nat} (hstat : off / 4 ≠ statReg p / 4) (hproto : off / 4 ≠ blkProtoActive (portPage p) / 4)
    (hpeer : off / 4 ≠ Reg.fabPeer p / 4) : (s.portDown p).r32 off = s.r32 off := by
  have hbase : (((s.setPortState p 0).setActive p 0).w32 (blkProtoActive (portPage p)) 0).r32 off = s.r32 off := by
    rw [State.r32_w32, if_neg hproto, State.setActive_eq, State.r32_wf_other _ _ _ _ _ _ hstat, State.setPortState,
      State.r32_wf_other _ _ _ _ _ _ hstat]
  unfold State.portDown
  dsimp only
  split
  · exact (State.r32_wf_other _ _ _ _ _ _ hpeer).trans hbase
  · exact hbase

@[simp] theorem State.portDown_portState : (s.portDown p).portState p = 0 := by
  have hbase : (((s.setPortState p 0).setActive p 0).w32 (blkProtoActive (portPage p)) 0).portState p = 0 := by
    rw [State.portState, State.rf_w32, if_neg (protoActive_word_ne_statReg p).symm]
    exact (State.portState_setActive ..).trans (State.portState_setPortState _ _ (by omega))
  unfold State.portDown
  dsimp only
  split
  case isTrue hp =>
    have hne : statReg p / 4 ≠ Reg.fabPeer p / 4 := by rw [statReg_word, fabPeer_word, if_pos hp]; omega
    rw [State.portState_modPort, State.portState, State.rf, State.wb, State.r32_wf_other _ _ _ _ _ _ hne]
    exact hbase
  case isFalse => exact hbase

@[simp] theorem State.portDown_evq : (s.portDown p).evq = s.evq := by
  unfold State.portDown
  rw [State.setActive_eq]
  dsimp only
  split <;> rfl

@[simp] theorem State.portDown_tide : (s.portDown p).tide = s.tide := by
  unfold State.portDown
  rw [State.setActive_eq]
  dsimp only
  split <;> rfl

@[simp] theorem State.portDown_retrain : ((s.portDown p).port p).retrain = false := congrArg Port.retrain (State.modPort_self ..)

/-- A port that fails goes DOWN as any does. -/
@[simp] theorem State.linkDown_port : (s.linkDown p).port p = (s.portDown p).port p := State.raiseIf_port ..
@[simp] theorem State.linkDown_portState : (s.linkDown p).portState p = 0 :=
  (State.portState_raiseIf ..).trans (s.portDown_portState p)
@[simp] theorem State.linkDown_tick : (s.linkDown p).tick = s.tick := by
  rw [State.linkDown, State.raiseIf_tick, State.tick, State.portDown_tide, State.tick]
theorem State.linkDown_r32 {off : Nat} (hstat : off / 4 ≠ statReg p / 4) (hproto : off / 4 ≠ blkProtoActive (portPage p) / 4)
    (hpeer : off / 4 ≠ Reg.fabPeer p / 4) : (s.linkDown p).r32 off = s.r32 off :=
  (State.raiseIf_r32 ..).trans (s.portDown_r32 p hstat hproto hpeer)

variable {s p}

/-- LINK_DOWN where it leaves UP or RETRAIN. -/
theorem State.linkDown_evq_up (h : s.portState p = 5 ∨ (s.port p).retrain = true) :
    (s.linkDown p).evq = s.evq ++ [⟨portPage p, 9, 3, 256 + p⟩] := by
  have hup : (s.portState p == 5 || s.portState p == 6 || (s.port p).retrain) = true := by
    rcases h with h | h <;> simp [h]
  rw [State.linkDown, hup, State.raiseIf, if_pos rfl, State.raise_evq, State.portDown_evq, portSrc]

theorem State.linkDown_evq_notUp (h : s.portState p < 5) (hr : (s.port p).retrain = false) : (s.linkDown p).evq = s.evq := by
  have hup : (s.portState p == 5 || s.portState p == 6 || (s.port p).retrain) = false := by
    simp [hr]; omega
  rw [State.linkDown, hup, State.raiseIf, if_neg Bool.false_ne_true, State.portDown_evq]

end

/-! ## A full training begins (R55, R287) -/

/-- What a full training makes of a port before the status word says DETECT. -/
def Port.begun (fallback : Bool) (x : Port) : Port :=
  { x with
    retrain := false, graceful := false, fallback := fallback, txNum := 0, rxNum := 0, txScr := 0, rxScr := 0
    replay := [], tx := [], rxAny := false, txSeq := 0, rxSeq := 0xFFF, nakSent := false, replays := 0, rx := [], freed := [], credit := [] }

/-- The state of a training before the port stands in DETECT, or stays DOWN for want of a MAC address. -/
def State.trainBegun (s : State) (p : Nat) (fallback : Bool) : State :=
  ((s.takeCfg p).w32 (blkProtoActive (portPage p)) 0).modPort p (Port.begun fallback)

theorem State.trainFrom_eq (s : State) (p : Nat) (fallback : Bool) : s.trainFrom p fallback =
    if (s.trainBegun p fallback).ethernet p ∧ fld ((s.trainBegun p fallback).r64 (Reg.fabMac p)) 0 48 = 0 then
      (s.trainBegun p fallback).setPortState p 0
    else if (s.trainBegun p fallback).ethernet p then
      (((s.trainBegun p fallback).setBad p 0).setActive p 0).setPortState p 1
    else ((((s.trainBegun p fallback).setBad p 0).setActive p 0).setPortState p 1).sendCodeword p .training := rfl

section
variable {s : State} {p : Nat} (fallback : Bool)

theorem State.trainBegun_port : (s.trainBegun p fallback).port p = (((s.takeCfg p).port p).begun fallback) := State.modPort_self ..

theorem State.takeCfg_port : (s.takeCfg p).port p = { s.port p with
    cfg := if p < 8 then s.r32 (Reg.fabCfg p) else 0, limit := s.rf (blkProtoLimit (portPage p)) 0 16, enteredAt := s.tick } :=
  State.modPort_self ..

theorem State.trainBegun_ethernet : (s.trainBegun p fallback).ethernet p = (decide (p < 8) && (s.r32 (Reg.fabCfg p)).getLsbD 0) := by
  rw [State.ethernet, State.trainBegun_port, State.takeCfg_port, Port.begun]
  by_cases hp : p < 8 <;> simp [hp]

theorem State.trainBegun_mac (hp : p < 8) : (s.trainBegun p fallback).r64 (Reg.fabMac p) = s.r64 (Reg.fabMac p) := by
  refine State.r64_w32 _ _ _ _ ?_ ?_ <;> rw [protoActive_word, if_pos hp] <;> unfold Reg.fabMac Reg.fabPage <;> omega

/-- A port that does not run Ethernet stands in DETECT, with no lane bad, and its training codewords leave. -/
theorem State.trainFrom_saltern (hcfg : p < 8 → (s.r32 (Reg.fabCfg p)).getLsbD 0 = false) :
    (s.trainFrom p fallback).portState p = 1 ∧ (s.trainFrom p fallback).badLanes p = 0
    ∧ ((s.trainFrom p fallback).port p).enteredAt = s.tick
    ∧ ∃ lanes rest, (s.trainFrom p fallback).out = .codeword p .training lanes :: rest := by
  have heth : (s.trainBegun p fallback).ethernet p = false := by
    rw [State.trainBegun_ethernet]
    exact Bool.and_eq_false_imp.2 fun h => hcfg (of_decide_eq_true h)
  rw [State.trainFrom_eq, heth, if_neg (by simp), if_neg Bool.false_ne_true]
  generalize hu : (((s.trainBegun p fallback).setBad p 0).setActive p 0).setPortState p 1 = u
  have hstate : u.portState p = 1 := by rw [← hu]; simp
  have hbad : u.badLanes p = 0 := by rw [← hu]; simp
  have hat : (u.port p).enteredAt = s.tick := by
    rw [← hu, State.setActive_eq, State.setBad_eq]
    exact (congrArg Port.enteredAt (State.trainBegun_port fallback)).trans (congrArg Port.enteredAt State.takeCfg_port)
  obtain ⟨lanes, rest, hout, -⟩ := u.sendCodeword_out p .training
  refine ⟨?_, ?_, ?_, lanes, rest, hout⟩
  · exact (State.portState_congr (sendCodeword_r32 ..)).trans hstate
  · rw [State.badLanes_eq, State.rf, sendCodeword_r32, ← hbad, State.badLanes_eq, State.rf]
  · exact (congrArg Port.enteredAt (u.sendCodeword_unsent p .training) : _).trans hat

/-- An Ethernet port stands in DETECT, or stays DOWN where it has no MAC address. -/
theorem State.trainFrom_ethernet (hp : p < 8) (hcfg : (s.r32 (Reg.fabCfg p)).getLsbD 0 = true) :
    (s.trainFrom p fallback).portState p = (if fld (s.r64 (Reg.fabMac p)) 0 48 = 0 then 0 else 1)
    ∧ ((s.trainFrom p fallback).port p).fallback = fallback ∧ (s.trainFrom p fallback).evq = s.evq := by
  have heth : (s.trainBegun p fallback).ethernet p = true := by
    rw [State.trainBegun_ethernet, hcfg]; simp [hp]
  have hfall : ((s.trainBegun p fallback).port p).fallback = fallback := congrArg Port.fallback (State.trainBegun_port fallback)
  rw [State.trainFrom_eq, heth, State.trainBegun_mac fallback hp, if_pos rfl]
  by_cases hmac : fld (s.r64 (Reg.fabMac p)) 0 48 = 0
  · rw [if_pos ⟨rfl, hmac⟩, if_pos hmac]
    exact ⟨State.portState_setPortState _ _ (by omega), hfall, rfl⟩
  · rw [if_neg (fun h => hmac h.2), if_neg hmac]
    refine ⟨State.portState_setPortState _ _ (by omega), ?_, ?_⟩ <;> rw [State.setActive_eq, State.setBad_eq]
    · exact hfall
    · rfl

end

end Sys2Proof.Machine
end

section
/-! SUPPORT. A port that comes UP, the choice of its width, and the statement about the states of a training (R55, R287 to R293). -/
namespace Sys2Proof.Machine

open Sys2Proof

/-! ## A port comes UP (R290, R291) -/

/-- The counter of the flits that a port sends again. -/
def llrCnt (p : Nat) : Nat := if p < 8 then Reg.fabLlrCnt p else Reg.gtxLlrCnt

theorem llrCnt_words (p : Nat) : llrCnt p / 4 = (if p < 8 then 0x88056 + 0x400 * p else 0x8C58C)
    ∧ (llrCnt p + 4) / 4 = (if p < 8 then 0x88057 + 0x400 * p else 0x8C58D) := by
  unfold llrCnt Reg.fabLlrCnt Reg.fabPage Reg.gtxLlrCnt Reg.gtxPage
  split <;> omega

theorem statReg_ne_llrCnt (p : Nat) : statReg p / 4 ≠ llrCnt p / 4 ∧ statReg p / 4 ≠ (llrCnt p + 4) / 4 := by
  rw [(llrCnt_words p).1, (llrCnt_words p).2, statReg_word]
  split <;> omega

theorem protoActive_ne_llrCnt (p : Nat) :
    blkProtoActive (portPage p) / 4 ≠ llrCnt p / 4 ∧ blkProtoActive (portPage p) / 4 ≠ (llrCnt p + 4) / 4 := by
  rw [(llrCnt_words p).1, (llrCnt_words p).2, protoActive_word]
  split <;> omega

section
variable {s : State} {p : Nat}

theorem State.mem_evq_raiseIf {e : Ev} (h : e ∈ s.evq) (c : Bool) (pn bit cls src : Nat) : e ∈ (s.raiseIf c pn bit cls src).evq := by
  cases c
  · exact h
  · exact List.mem_append_left _ h

theorem State.resend_unsent : ((s.resend p).port p).unsent = (s.port p).unsent :=
  (congrArg Port.unsent (State.count_port ..)).trans
    (State.each_view (fun u => (u.port p).unsent) _ _ (fun u _ _ => u.sendCodeword_unsent p _) s)

theorem State.resend_r32 {off : Nat} (h : off / 4 ≠ llrCnt p / 4) (h' : off / 4 ≠ (llrCnt p + 4) / 4) :
    (s.resend p).r32 off = s.r32 off :=
  (State.count_r32 _ _ h h').trans (State.each_view (·.r32 off) _ _ (fun u _ _ => sendCodeword_r32 u p _ off) s)

theorem State.mem_evq_resend {e : Ev} (h : e ∈ s.evq) : e ∈ (s.resend p).evq := by
  refine State.mem_evq_raiseIf ?_ _ _ _ _ _
  have hsent := State.each_view State.evq (fun u x => u.sendCodeword p (.flit (u.makeFlit p x))) (s.port p).replay
    (fun u _ _ => u.sendCodeword_evq p _) s
  rwa [State.w64_evq, hsent]

/-- A port that comes UP writes its status word and the count of the flits that it sends again. -/
theorem State.portUp_r32 {off : Nat} (hstat : off / 4 ≠ statReg p / 4) (h : off / 4 ≠ llrCnt p / 4)
    (h' : off / 4 ≠ (llrCnt p + 4) / 4) : (s.portUp p).r32 off = s.r32 off := by
  rw [State.portUp, State.resend_r32 h h']
  refine (State.raiseIf_r32 ..).trans ?_
  rw [State.raise_r32, State.setNegFail, State.wb, State.r32_wf_other _ _ _ _ _ _ hstat, State.setPortState,
    State.r32_wf_other _ _ _ _ _ _ hstat]

@[simp] theorem State.portUp_portState : (s.portUp p).portState p = 5 := by
  unfold State.portUp
  rw [State.portState_congr (State.resend_r32 (statReg_ne_llrCnt p).1 (statReg_ne_llrCnt p).2)]
  simp

theorem State.portUp_evq : ⟨portPage p, 8, 5, 256 + p⟩ ∈ (s.portUp p).evq := by
  refine State.mem_evq_resend (State.mem_evq_raiseIf ?_ _ _ _ _ _)
  exact List.mem_append_right _ (List.mem_singleton_self _)

end

/-! ## The width of a port (R289, R296) -/

/-- A width that is chosen is one of those that a port may have, and its lanes are its lowest group of good ones. -/
theorem chooseWidth_found {lanes g : Nat} (h : (chooseWidth lanes g).1 ≠ 0) :
    (chooseWidth lanes g).1 ∈ [8, 4, 2] ∧ (lanesFor lanes g (chooseWidth lanes g).1).isSome = true := by
  unfold chooseWidth at h ⊢
  simp only [List.findSome?_cons, List.findSome?_nil] at h ⊢
  cases h8 : lanesFor lanes g 8 with
  | some m => simp [h8]
  | none => cases h4 : lanesFor lanes g 4 with
    | some m => simp [h4]
    | none => cases h2 : lanesFor lanes g 2 with
      | some m => simp [h2]
      | none => simp [h8, h4, h2] at h

theorem lanesFor_le {lanes g w : Nat} (h : (lanesFor lanes g w).isSome = true) : w ≤ lanes := by
  unfold lanesFor at h
  rw [Option.isSome_map, List.find?_isSome] at h
  obtain ⟨i, -, hi⟩ := h
  have := of_decide_eq_true (Bool.and_eq_true_iff.1 hi).1
  omega

section
variable (s : State) (p : Nat)

theorem State.minWidth_pos : 2 ≤ s.minWidth p := by
  unfold State.minWidth
  split
  · rw [Nat.pow_succ]; have := Nat.two_pow_pos (fld (s.port p).cfg 1 2); omega
  · exact Nat.le_refl 2

theorem State.widthNow_setWidth {w : Nat} (h : w ∈ [8, 4, 2]) (hl : w ≤ lanesOf p) : (s.setWidth p w).widthNow p = w := by
  rw [State.widthNow_eq, State.setWidth_eq, State.rf_wf_self _ _ _ _ _ (by split <;> omega)]
  unfold lanesOf at hl
  simp only [List.mem_cons, List.not_mem_nil, or_false] at h
  by_cases hp : p < 8
  · rw [if_pos hp]
    rcases h with rfl | rfl | rfl <;> rfl
  · rw [if_neg hp] at hl ⊢
    rcases h with rfl | rfl | rfl
    · omega
    · rfl
    · rfl

/-! ## QUALIFY and NEGOTIATE (R288, R289, R293) -/

theorem State.offer_regs (own : Nat) : (s.offer p own).regs = s.regs := by unfold State.offer; dsimp only; split_ifs <;> rfl
theorem State.offer_evq (own : Nat) : (s.offer p own).evq = s.evq := by unfold State.offer; dsimp only; split_ifs <;> rfl
theorem State.offer_port (own : Nat) : (s.offer p own).port p = { s.port p with own := BitVec.ofNat 10 s.dev } := by
  unfold State.offer
  dsimp only
  split_ifs
  · exact State.modPort_self ..
  · exact (State.emit_port ..).trans (State.modPort_self ..)
  · exact (State.emit_port ..).trans (State.modPort_self ..)

end

/-- The lanes of a port as its training has found them (R277). -/
def State.lanesFound (s : State) (p : Nat) (r : QualifyResult) : State :=
  s.modPort p fun x => { x with reversed := r.reversed, inverted := r.inverted }

/-- QUALIFY's end in a full training that has found width and lanes w, before an optical port comes UP. -/
def State.qualified (s : State) (p own g : Nat) (w : Nat × Nat) : State :=
  let s := if p < 8 then s.wb (statReg p) 5 (s.port p).reversed else s
  ((((s.setWidth p w.1).setActive p w.2).modPort p fun x => { x with good := BitVec.ofNat 8 g }).setPortState p 4).offer p own

section
variable {s : State} {p : Nat}

/-- QUALIFY in a full training: too few lanes, or the width found. -/
theorem State.qualifyDone_full (h : s.portState p = 3) (hr : (s.port p).retrain = false) {r : QualifyResult} {own g : Nat} {w : Nat × Nat}
    (hown : own = (s.lanesFound p r).ownGood p r.errs) (hg : g = Nat.land own r.peerGood.toNat) (hw : w = chooseWidth (lanesOf p) g) :
    s.qualifyDone p r = if w.1 < s.minWidth p then (s.lanesFound p r).linkDown p
      else if ((s.lanesFound p r).qualified p own g w).ethernet p ∧ ((s.lanesFound p r).qualified p own g w).optical p then
        ((s.lanesFound p r).qualified p own g w).ethUp p 7
      else (s.lanesFound p r).qualified p own g w := by
  have hport : (s.lanesFound p r).port p = { s.port p with reversed := r.reversed, inverted := r.inverted } := State.modPort_self ..
  have hmin : (s.lanesFound p r).minWidth p = s.minWidth p := by rw [State.minWidth, State.minWidth, hport]
  have hretrain : ((s.lanesFound p r).port p).retrain = false := by rw [hport]; exact hr
  have hin : ¬ (s.portState p ≠ 3 ∧ s.portState p ≠ 6) := fun hn => hn.1 h
  rw [State.qualifyDone, if_neg hin]
  extract_lets u own' g' w' all t t1 t2
  have hu : u = s.lanesFound p r := if_neg (by simp [hr])
  have hown' : own' = own := by rw [hown, ← hu]
  have hg' : g' = g := by rw [hg, ← hown']
  have hw' : w' = w := by rw [hw, ← hg']
  have ht : t = u := if_neg (by rw [hu, hretrain]; exact Bool.false_ne_true)
  have ht2 : t2 = (s.lanesFound p r).qualified p own g w := by
    rw [← hu, ← hown', ← hg', ← hw', State.qualified, ← ht]
  rw [ht2, hu, hw', hmin]

theorem State.qualified_port (own g : Nat) (w : Nat × Nat) : ((s.qualified p own g w).port p).good = BitVec.ofNat 8 g
    ∧ ((s.qualified p own g w).port p).cfg = (s.port p).cfg ∧ ((s.qualified p own g w).port p).fallback = (s.port p).fallback := by
  unfold State.qualified
  rw [State.offer_port, State.setPortState, State.wf_port, State.modPort_self, State.setActive_eq, State.wf_port, State.setWidth_eq,
    State.wf_port]
  dsimp only
  split <;> exact ⟨rfl, rfl, rfl⟩

theorem State.qualified_evq (own g : Nat) (w : Nat × Nat) : (s.qualified p own g w).evq = s.evq := by
  unfold State.qualified
  rw [State.offer_evq, State.setActive_eq, State.setWidth_eq]
  split <;> rfl

/-- The port stands in NEGOTIATE with the width found. -/
theorem State.qualified_status {own g : Nat} {w : Nat × Nat} (h : w.1 ∈ [8, 4, 2]) (hl : w.1 ≤ lanesOf p) :
    (s.qualified p own g w).portState p = 4 ∧ (s.qualified p own g w).widthNow p = w.1 := by
  unfold State.qualified
  generalize (if p < 8 then s.wb (statReg p) 5 (s.port p).reversed else s) = u
  rw [State.portState_congr (State.r32_congr (State.offer_regs ..) _), State.widthNow_eq, State.rf, State.r32_congr (State.offer_regs ..) _,
    ← State.rf, ← State.widthNow_eq, State.widthNow_setPortState]
  refine ⟨State.portState_setPortState _ _ (by omega), ?_⟩
  exact (State.widthNow_setActive ..).trans (State.widthNow_setWidth u p h hl)

/-- A width that a port offers gives it a rate where its peer supports every rate. -/
theorem State.ethRate_offered {w : Nat} (h : w ∈ s.offered p) : (s.ethRate p 7).isSome = true := by
  have hall (w : Nat) : (7 : BitVec 3).getLsbD (if w = 8 then 0 else if w = 4 then 1 else 2) = true := by split_ifs <;> rfl
  obtain ⟨v, hv⟩ := Option.isSome_iff_exists.1
    (List.find?_isSome (p := fun w => (7 : BitVec 3).getLsbD (if w = 8 then 0 else if w = 4 then 1 else 2)).2 ⟨w, h, hall w⟩)
  have hlanes : (lanesFor 8 (s.port p).good.toNat v).isSome = true := by
    have hoffer := (List.mem_filter.1 (List.mem_of_find?_eq_some hv)).2
    simp only [Bool.and_eq_true] at hoffer
    exact hoffer.1.2
  rw [State.ethRate, hv, Option.bind_some, Option.isSome_map, hlanes]

/-- An Ethernet port comes UP at a rate, or goes DOWN. -/
theorem State.ethUp_portState (rates : BitVec 3) : (s.ethUp p rates).portState p = if (s.ethRate p rates).isSome then 5 else 0 := by
  unfold State.ethUp
  cases s.ethRate p rates with
  | none => exact s.linkDown_portState p
  | some w => exact State.portUp_portState

theorem State.ethUp_evq {rates : BitVec 3} (h : (s.ethRate p rates).isSome = true) :
    ⟨portPage p, 8, 5, 256 + p⟩ ∈ (s.ethUp p rates).evq := by
  obtain ⟨w, hw⟩ := Option.isSome_iff_exists.1 h
  rw [State.ethUp, hw]
  exact State.portUp_evq

end

/-! ## How QUALIFY ends -/

section
variable {s : State} {p : Nat} {r : QualifyResult} {g : Nat} {w : Nat × Nat}

theorem State.qualify_width (hw : w = chooseWidth (lanesOf p) g) (hmin : s.minWidth p ≤ w.1) : w.1 ∈ [8, 4, 2] ∧ (lanesFor (lanesOf p) g w.1).isSome = true := by
  have hpos := s.minWidth_pos p
  subst hw
  exact chooseWidth_found (by omega)

/-- Nothing that QUALIFY finds changes the mode and the settings that the training runs with. -/
theorem State.qualified_mode (own : Nat) : ((s.lanesFound p r).qualified p own g w).ethernet p = s.ethernet p
    ∧ ((s.lanesFound p r).qualified p own g w).optical p = s.optical p
    ∧ ((s.lanesFound p r).qualified p own g w).minWidth p = s.minWidth p
    ∧ (((s.lanesFound p r).qualified p own g w).port p).fallback = (s.port p).fallback := by
  obtain ⟨-, hcfg, hfall⟩ := (s.lanesFound p r).qualified_port (p := p) own g w
  rw [State.lanesFound, State.modPort_self] at hcfg hfall
  refine ⟨State.ethernet_congr hcfg, ?_, ?_, hfall⟩
  · rw [State.optical, State.lanesFound, hcfg, State.optical]
  · rw [State.minWidth, State.lanesFound, hcfg, State.minWidth]

variable (h : s.portState p = 3) (hr : (s.port p).retrain = false)
  (hg : g = Nat.land ((s.lanesFound p r).ownGood p r.errs) r.peerGood.toNat) (hw : w = chooseWidth (lanesOf p) g)
include h hr hg hw

/-- Too few lanes: the port is DOWN, and no event says so. -/
theorem State.qualifyDone_few (hfew : w.1 < s.minWidth p) :
    (s.qualifyDone p r).portState p = 0 ∧ (s.qualifyDone p r).evq = s.evq := by
  rw [State.qualifyDone_full h hr rfl hg hw, if_pos hfew]
  have hretrain : ((s.lanesFound p r).port p).retrain = false := (congrArg Port.retrain (State.modPort_self ..)).trans hr
  have hstate : (s.lanesFound p r).portState p < 5 := by
    rw [State.lanesFound, State.portState_modPort, h]
    omega
  exact ⟨State.linkDown_portState .., State.linkDown_evq_notUp hstate hretrain⟩

/-- The width found, on a port that then negotiates. -/
theorem State.qualifyDone_negotiates (hmin : s.minWidth p ≤ w.1) (hmode : s.ethernet p = false ∨ s.optical p = false) :
    (s.qualifyDone p r).portState p = 4 ∧ (s.qualifyDone p r).widthNow p = w.1 ∧ (s.qualifyDone p r).evq = s.evq
    ∧ ((s.qualifyDone p r).port p).good = BitVec.ofNat 8 g := by
  obtain ⟨hmem, hlanes⟩ := State.qualify_width hw hmin
  obtain ⟨heth, hopt, -, -⟩ := State.qualified_mode (r := r) (g := g) (w := w) ((s.lanesFound p r).ownGood p r.errs)
  rw [State.qualifyDone_full h hr rfl hg hw, if_neg (by omega), heth, hopt, if_neg (by rcases hmode with hm | hm <;> simp [hm])]
  obtain ⟨hstate, hwidth⟩ := State.qualified_status (s := s.lanesFound p r) (own := (s.lanesFound p r).ownGood p r.errs) (g := g) hmem
    (lanesFor_le hlanes)
  exact ⟨hstate, hwidth, State.qualified_evq .., (State.qualified_port ..).1⟩

/-- The width found, on an Ethernet port with an optical module: it is UP (log 166). -/
theorem State.qualifyDone_optical (hp : p < 8) (hmin : s.minWidth p ≤ w.1) (heth : s.ethernet p = true) (hopt : s.optical p = true)
    (hfall : (s.port p).fallback = false) :
    (s.qualifyDone p r).portState p = 5 ∧ ⟨portPage p, 8, 5, 256 + p⟩ ∈ (s.qualifyDone p r).evq := by
  obtain ⟨hmem, hlanes⟩ := State.qualify_width hw hmin
  obtain ⟨heth', hopt', hmin', hfall'⟩ := State.qualified_mode (r := r) (g := g) (w := w) ((s.lanesFound p r).ownGood p r.errs)
  have hgood := ((s.lanesFound p r).qualified_port (p := p) ((s.lanesFound p r).ownGood p r.errs) g w).1
  have hg8 : g < 256 := by
    rw [hg]
    exact Nat.lt_of_le_of_lt Nat.and_le_right r.peerGood.isLt
  have hrate : (((s.lanesFound p r).qualified p ((s.lanesFound p r).ownGood p r.errs) g w).ethRate p 7).isSome = true := by
    refine State.ethRate_offered (List.mem_filter.2 ⟨hmem, ?_⟩)
    rw [lanesOf, if_pos hp] at hlanes
    rw [hmin', hgood, hfall', hfall, BitVec.toNat_ofNat, Nat.mod_eq_of_lt hg8, hlanes]
    simp [hmin]
  rw [State.qualifyDone_full h hr rfl hg hw, if_neg (by omega), heth', hopt', if_pos ⟨heth, hopt⟩, State.ethUp_portState, hrate]
  exact ⟨rfl, State.ethUp_evq hrate⟩

end

/-! ## The peer's record (R288, R471) -/

section
variable {s : State} {p : Nat} {r : NegRecord}

/-- A fabric port that does not agree with its peer goes DOWN. -/
theorem State.negotiate_none (hp : p < 8) (h : s.portState p = 4) (heth : s.ethernet p = false) (hno : s.agreedWith p r = none) :
    (s.negotiate p r).portState p = 0 ∧ ⟨portPage p, 12, 10, 256 + p⟩ ∈ (s.negotiate p r).evq := by
  rw [State.negotiate, if_neg (by simp [h]), if_neg (by simp [heth]), hno]
  dsimp only
  rw [if_pos hp]
  exact ⟨(State.portState_raise ..).trans ((State.portState_setNegFail ..).trans (s.linkDown_portState p)),
    List.mem_append_right _ (List.mem_singleton_self _)⟩

/-- One that does comes UP from a state that holds the version agreed. -/
theorem State.negotiate_agreed (hp : p < 8) (h : s.portState p = 4) (heth : s.ethernet p = false) {v : Nat}
    (hv : s.agreedWith p r = some v) :
    ∃ u : State, s.negotiate p r = u.portUp p ∧ u.r32 (blkProtoActive (portPage p)) = BitVec.ofNat 32 (v + 2 ^ 16) := by
  rw [State.negotiate, if_neg (by simp [h]), if_neg (by simp [heth]), hv]
  refine ⟨_, if_pos hp, ?_⟩
  have hpeer : blkProtoActive (portPage p) / 4 ≠ Reg.fabPeer p / 4 := by rw [protoActive_word, fabPeer_word, if_pos hp]; omega
  have hword (x : Word) :
      ((s.w32 (blkProtoActive (portPage p)) (BitVec.ofNat 32 (v + 2 ^ 16))).w32 (Reg.fabPeer p) x).r32 (blkProtoActive (portPage p))
        = BitVec.ofNat 32 (v + 2 ^ 16) := by
    rw [State.r32_w32, if_neg hpeer, State.r32_w32_self]
  rw [if_pos hp]
  split
  · exact hword _
  · exact (State.modPort_r32 ..).trans (hword _)

theorem State.negotiate_some (hp : p < 8) (h : s.portState p = 4) (heth : s.ethernet p = false) {v : Nat}
    (hv : s.agreedWith p r = some v) :
    (s.negotiate p r).portState p = 5 ∧ (s.negotiate p r).rf (blkProtoActive (portPage p)) 0 16 = v % 2 ^ 16
    ∧ ⟨portPage p, 8, 5, 256 + p⟩ ∈ (s.negotiate p r).evq := by
  obtain ⟨u, hu, hword⟩ := State.negotiate_agreed hp h heth hv
  rw [hu]
  refine ⟨State.portUp_portState, ?_, State.portUp_evq⟩
  rw [State.rf, State.portUp_r32 (protoActive_word_ne_statReg p) (protoActive_ne_llrCnt p).1 (protoActive_ne_llrCnt p).2, hword, fld,
    BitVec.toNat_ofNat]
  omega

/-- An Ethernet port without an optical module comes UP at a rate that its peer supports. -/
theorem State.negotiate_ethernet (h : s.portState p = 4) (heth : s.ethernet p = true) (hopt : s.optical p = false) :
    s.negotiate p r = s.ethUp p r.rates := by
  rw [State.negotiate, if_neg (by simp [h]), if_pos heth, if_neg (by simp [hopt])]

end

/-! ## The statement -/

theorem State.fullTraining_enabled {s : State} {p : Nat} (h : s.portEn p = true) : s.fullTraining p = s.trainFrom p false := if_pos h

theorem State.retryExpiry_due {s : State} {p : Nat} (hen : s.portEn p = true) (hdown : s.portState p = 0)
    (hon : s.r32 (Reg.fabRetry p) ≠ 0) (hdue : (s.port p).downAt + (s.r32 (Reg.fabRetry p)).toNat ≤ s.tick) :
    s.retryExpiry p = s.trainFrom p false :=
  if_pos ⟨hen, hdown, fun h => hon (BitVec.eq_of_toNat_eq h), hdue⟩

/-- Settles O39, clause by clause: where a training starts (`trainFrom_saltern`, `trainFrom_ethernet`), what QUALIFY finds
(`qualifyDone_full`), and what the peer's record agrees (`negotiate_some`, `negotiate_none`). -/
theorem trainingStates : Obligations.TrainingStates := by
  unfold Obligations.TrainingStates
  refine ⟨?_, ?_, ?_, ?_, ?_, ?_, ?_, ?_, ?_, ?_⟩
  · intro s p hs hen
    constructor <;> intro hcfg <;> refine completes_run hs (exec_fabRetrain p s) ?_ <;> rw [State.fullTraining_enabled hen]
    · obtain ⟨hstate, hbad, hat, hout⟩ := State.trainFrom_saltern (s := s) (p := p.val) false fun _ => hcfg
      simp only [Footprint.apply_portState, Footprint.apply_badLanes, Footprint.apply_port, if_true]
      exact ⟨hstate, hbad, hat, hout⟩
    · rw [Footprint.apply_portState, if_pos rfl]
      exact (State.trainFrom_ethernet false p.isLt hcfg).1
  · intro s hs hen
    refine completes_run hs (exec_gtxRetrain s) ?_
    obtain ⟨hstate, hbad, -, -⟩ := State.trainFrom_saltern (s := s) (p := 8) false fun h => absurd h (by omega)
    rw [State.fullTraining_enabled hen, Footprint.apply_portState, Footprint.apply_badLanes]
    exact ⟨hstate, hbad⟩
  · intro s p hs hen
    refine completes_run hs (exec_fabRetrain p s) ?_
    rw [State.fullTraining, if_neg (by simp [hen])]
    exact ⟨rfl, rfl⟩
  · intro s p hs hen hdown hon hdue hcfg
    refine completes_run hs (exec_portRetryExpiry p s) ?_
    rw [State.retryExpiry_due hen hdown hon hdue, Footprint.apply_portState, if_pos rfl]
    exact (State.trainFrom_saltern false fun _ => hcfg).1
  · intro s p hs hst
    constructor <;> intro htick <;> refine completes_run hs (exec_detectTimeout p s) ?_
    · rw [State.detectTimeout, if_pos ⟨hst, htick⟩, Footprint.apply_portState, if_pos rfl]
      exact ⟨s.portDown_portState p.val, rfl⟩
    · rw [State.detectTimeout, if_neg (by omega)]
      exact ⟨rfl, rfl⟩
  · intro s p eth hs hst
    constructor <;> intro heth <;> refine completes_run hs (exec_peerDetected p eth s) ?_
    · rw [State.peerDetected, if_pos ⟨hst, heth⟩, Footprint.apply_portState, if_pos rfl]
      exact ⟨State.portState_setPortState s p.val (by omega), rfl⟩
    · rw [State.peerDetected, if_neg fun h => heth h.2]
      exact ⟨rfl, rfl⟩
  · intro s p hs hst
    refine completes_run hs (exec_equaliseDone p s) ?_
    rw [State.equaliseDone, if_pos hst, Footprint.apply_portState, if_pos rfl]
    exact ⟨State.portState_setPortState s p.val (by omega), rfl⟩
  · intro s p r g w hs hst hr hg hw
    refine ⟨fun hmin hmode => ?_, fun hmin heth hopt hfall => ?_, fun hfew => ?_⟩ <;>
      refine completes_run hs (exec_qualifyDone p r s) ?_ <;>
      simp only [linkFoot, Footprint.apply_portState, Footprint.apply_widthNow, Footprint.apply_evq, Footprint.apply_port, if_true]
    · exact State.qualifyDone_negotiates hst hr hg hw hmin hmode
    · have hp : p.val < 8 := of_decide_eq_true (Bool.and_eq_true_iff.1 heth).1
      exact State.qualifyDone_optical hst hr hg hw hp hmin heth hopt hfall
    · exact State.qualifyDone_few hst hr hg hw hfew
  · intro s p r hs hst heth
    have hnone (h : s.agreedWith p.val r = none) : Completes (.negotiationRecord p.castSucc r) s fun t =>
        t.portState p.val = 0 ∧ ⟨portPage p.val, 12, 10, 256 + p.val⟩ ∈ t.evq := by
      refine completes_run hs (exec_negotiationRecord p.castSucc r s) ?_
      rw [Footprint.apply_portState, Footprint.apply_evq]
      exact State.negotiate_none p.isLt hst heth h
    refine ⟨fun v hv => ?_, hnone, fun hown => hnone (if_pos ⟨p.isLt, hown⟩)⟩
    refine completes_run hs (exec_negotiationRecord p.castSucc r s) ?_
    rw [Footprint.apply_portState, Footprint.apply_evq, Footprint.apply_rf]
    exact State.negotiate_some p.isLt hst heth hv
  · intro s p r hs hst heth hopt
    refine completes_run hs (exec_negotiationRecord p.castSucc r s) ?_
    rw [Footprint.apply_portState, if_pos rfl, ← State.ethUp_portState]
    exact congrArg (State.portState · p.val) (State.negotiate_ethernet hst heth hopt)

end Sys2Proof.Machine
end

section
/-! SUPPORT. Flits that leave a port, and the statement about links that fail and ports that drain (R281, R282, R287 to R291, R340). -/
namespace Sys2Proof.Machine

open Sys2Proof

/-! ## Flits that leave (R281, R282) -/

/-- What a port still has to send, apart from its flits: the slots that wait, its packets and its credit. -/
def Port.toSend (x : Port) : List Byte × List TxPkt × Sparse Nat := (x.tx, x.txq, x.credit)

section
variable (s : State) (p : Nat)

@[simp] theorem State.sendCodeword_toSend (c : Content) : ((s.sendCodeword p c).port p).toSend = (s.port p).toSend :=
  (congrArg Port.toSend (s.sendCodeword_unsent p c) : _)

theorem State.sendCodeword_replay (c : Content) : ((s.sendCodeword p c).port p).replay = (s.port p).replay :=
  (congrArg Port.replay (s.sendCodeword_unsent p c) : _)

theorem State.pushFlit_regs (b : List Byte) : (s.pushFlit p b).regs = s.regs := by
  rw [State.pushFlit, State.modPort_regs, State.sendCodeword_regs]

theorem State.pushFlit_toSend (b : List Byte) : ((s.pushFlit p b).port p).toSend = (s.port p).toSend := by
  rw [State.pushFlit, State.modPort_self]
  exact s.sendCodeword_toSend p _

theorem State.pushFlit_replay (b : List Byte) : ((s.pushFlit p b).port p).replay.length = (s.port p).replay.length + 1 := by
  rw [State.pushFlit, State.modPort_self]
  dsimp only
  rw [State.sendCodeword_replay, List.length_append, List.length_singleton]

theorem State.pushFlits_replay (l : List Nat) (slots : Nat → List Byte) :
    ((s.each l fun s i => s.pushFlit p (slots i)).port p).replay.length = (s.port p).replay.length + l.length := by
  induction l generalizing s with
  | nil => rfl
  | cons i l ih =>
    have hstep := ih (s.pushFlit p (slots i))
    rw [State.pushFlit_replay] at hstep
    rw [List.length_cons, ← Nat.add_assoc, Nat.add_right_comm]
    exact hstep

/-- Where no packet may follow, all slots that wait leave, each flit of them into the replay buffer. -/
theorem State.flushSlots_all {last : Bool} (h : (!last && (List.range 8).any ((s.port p).canStart true)) = false) :
    (s.flushSlots p last).regs = s.regs ∧ ((s.flushSlots p last).port p).toSend = ([], (s.port p).txq, (s.port p).credit)
    ∧ ((s.flushSlots p last).port p).replay.length = (s.port p).replay.length + streamFlits (s.port p).tx := by
  unfold State.flushSlots
  extract_lets x more n b u
  have hmore : more = false := h
  have hn : n = streamFlits (s.port p).tx := if_neg (by rw [hmore]; exact Bool.false_ne_true)
  have hu : u.port p = { s.port p with tx := [] } := by
    have hself : u.port p = { s.port p with tx := if more then (s.port p).tx.drop (608 * n) else [] } := State.modPort_self ..
    rw [hself, hmore]
    rfl
  refine ⟨?_, ?_, ?_⟩
  · exact State.each_view State.regs _ _ (fun v i _ => v.pushFlit_regs p _) u
  · refine (State.each_view (fun v => (v.port p).toSend) _ _ (fun v i _ => v.pushFlit_toSend p _) u).trans ?_
    rw [hu]
    rfl
  · rw [State.pushFlits_replay, hu, List.length_range, hn]

end

/-! ## A lane that fails (R290, R293) -/

section
variable {s : State} {p : Nat}

/-- A RETRAIN that keeps to the mode of the port. -/
theorem State.enterRetrain_saltern (heth : s.ethernet p = false) (hcfg : p < 8 → (s.r32 (Reg.fabCfg p)).getLsbD 0 = false) :
    (s.enterRetrain p).portState p = 6 ∧ ((s.enterRetrain p).port p).retrain = true ∧ (s.enterRetrain p).badLanes p = s.badLanes p := by
  unfold State.enterRetrain
  extract_lets u t
  have hport : t.port p = { (u.takeCfg p).port p with retrain := true } := State.modPort_self ..
  have hu : u.ethernet p = false := (State.ethernet_congr (congrArg Port.cfg (State.raiseIf_port ..))).trans heth
  have hmode : t.ethernet p = u.ethernet p := by
    rw [hu, State.ethernet, hport, State.takeCfg_port]
    refine Bool.and_eq_false_imp.2 fun hp => ?_
    have hp := of_decide_eq_true hp
    dsimp only
    rw [if_pos hp, State.raiseIf_r32]
    exact hcfg hp
  have hbad : t.badLanes p = s.badLanes p := by
    rw [State.badLanes_eq, State.badLanes_eq]
    exact State.raiseIf_rf ..
  rw [if_pos hmode]
  refine ⟨State.portState_setPortState _ _ (by omega), ?_, (State.badLanes_setPortState ..).trans hbad⟩
  rw [State.setPortState, State.wf_port, hport]

theorem State.markBad_lane {lane : Nat} (h : lane < lanesOf p) :
    (BitVec.ofNat 8 ((s.markBad p lane).badLanes p)).getLsbD lane = true := by
  have h8 : lanesOf p ≤ 8 := by unfold lanesOf; split <;> omega
  rw [State.markBad, State.badLanes_setBad, BitVec.getLsbD_ofNat, Nat.testBit_mod_two_pow]
  change (decide (lane < 8) && (decide (lane < lanesOf p) && (s.badLanes p ||| 2 ^ lane).testBit lane)) = true
  rw [Nat.testBit_or, Nat.testBit_two_pow_self]
  simp [h, Nat.lt_of_lt_of_le h h8]

/-- A lane of a port in UP fails: it is marked bad, and the port enters RETRAIN. -/
theorem State.laneFail_saltern {lane : Nat} (hlane : lane < lanesOf p) (hup : s.portState p = 5) (heth : s.ethernet p = false)
    (hcfg : p < 8 → (s.r32 (Reg.fabCfg p)).getLsbD 0 = false) :
    (s.laneFail p lane).portState p = 6 ∧ ((s.laneFail p lane).port p).retrain = true
    ∧ (BitVec.ofNat 8 ((s.laneFail p lane).badLanes p)).getLsbD lane = true := by
  have hmark : (s.markBad p lane).ethernet p = false := by
    refine (State.ethernet_congr ?_).trans heth
    rw [State.markBad, State.setBad_eq, State.wf_port]
  have hmarkCfg (hp : p < 8) : ((s.markBad p lane).r32 (Reg.fabCfg p)).getLsbD 0 = false := by
    rw [State.markBad, State.setBad_eq, State.r32_wf_other]
    · exact hcfg hp
    · rw [statReg_word, if_pos hp]
      unfold Reg.fabCfg Reg.fabPage
      omega
  obtain ⟨hstate, hretrain, hbad⟩ := State.enterRetrain_saltern hmark hmarkCfg
  rw [State.laneFail, if_neg (by omega), if_pos hup, heth, if_neg Bool.false_ne_true]
  exact ⟨hstate, hretrain, by rw [hbad]; exact State.markBad_lane hlane⟩

/-- A lane of an Ethernet port in UP fails: it goes DOWN, and trains again for the lower rates. -/
theorem State.laneFail_ethernet {lane : Nat} (hp : p < 8) (hlane : lane < 8) (hup : s.portState p = 5) (heth : s.ethernet p = true)
    (hen : s.portEn p = true) (hcfg : (s.r32 (Reg.fabCfg p)).getLsbD 0 = true) (hmac : fld (s.r64 (Reg.fabMac p)) 0 48 ≠ 0) :
    (s.laneFail p lane).portState p = 1 ∧ ((s.laneFail p lane).port p).fallback = true
    ∧ ⟨portPage p, 9, 3, 256 + p⟩ ∈ (s.laneFail p lane).evq := by
  have hword (off : Nat) (h : off / 4 < 0x88010 + 0x400 * p ∨ 0x88043 + 0x400 * p < off / 4
      ∨ (0x88010 + 0x400 * p < off / 4 ∧ off / 4 < 0x88042 + 0x400 * p)) : (s.linkDown p).r32 off = s.r32 off := by
    refine s.linkDown_r32 p ?_ ?_ ?_
    · rw [statReg_word, if_pos hp]; omega
    · rw [protoActive_word, if_pos hp]; omega
    · rw [fabPeer_word]; omega
  have hcfg' : ((s.linkDown p).r32 (Reg.fabCfg p)).getLsbD 0 = true := by
    rw [hword _ (by unfold Reg.fabCfg Reg.fabPage; omega), hcfg]
  have hmac' : (s.linkDown p).r64 (Reg.fabMac p) = s.r64 (Reg.fabMac p) := by
    rw [State.r64, State.r64, hword _ (by unfold Reg.fabMac Reg.fabPage; omega), hword _ (by unfold Reg.fabMac Reg.fabPage; omega)]
  have hen' : (s.linkDown p).portEn p = true := by
    rw [State.portEn, if_pos hp] at hen ⊢
    rw [State.rb_of_r32 (hword _ (by unfold blkCtrl fpPage; omega)), hen]
  obtain ⟨hstate, hfall, hevq⟩ := State.trainFrom_ethernet (s := s.linkDown p) true hp hcfg'
  rw [State.laneFail, if_neg (by rw [lanesOf, if_pos hp]; omega), if_pos hup, if_pos heth]
  dsimp only
  rw [if_pos hen', hstate, hmac', if_neg hmac, hevq, State.linkDown_evq_up (Or.inl hup)]
  exact ⟨rfl, hfall, List.mem_append_right _ (List.mem_singleton_self _)⟩

/-! ## A port that drains (R340) -/

/-- A port disabled gracefully keeps its state and sends what has begun to leave. -/
theorem State.portOff_up (hp : p < 8) (hact : s.active (fpPage p) = true) (hup : s.portState p = 5) (heth : s.ethernet p = false) :
    (s.portOff p).rb (blkCtrl (fpPage p)) 0 = false ∧ (s.portOff p).draining (fpPage p) = true ∧ (s.portOff p).portState p = 5
    ∧ ((s.portOff p).port p).tx = []
    ∧ ((s.portOff p).port p).replay.length = (s.port p).replay.length + streamFlits (s.port p).tx := by
  have hctrl : statReg p / 4 ≠ blkCtrl (fpPage p) / 4 := by rw [statReg_word, if_pos hp]; unfold blkCtrl fpPage; omega
  have hstat : statReg p / 4 ≠ blkStat (fpPage p) / 4 := by rw [statReg_word, if_pos hp]; unfold blkStat fpPage; omega
  have hne : blkCtrl (fpPage p) / 4 ≠ blkStat (fpPage p) / 4 := by unfold blkCtrl blkStat; omega
  obtain ⟨u, hu⟩ : ∃ u, u = (s.wb (blkCtrl (fpPage p)) 0 false).wb (blkStat (fpPage p)) 1 true := ⟨_, rfl⟩
  have hact' : (s.wb (blkCtrl (fpPage p)) 0 false).active (fpPage p) = true :=
    (State.rb_wb_other _ _ _ _ hne.symm).trans hact
  have hstate : u.portState p = s.portState p := by
    rw [State.portState_congr]
    rw [hu, State.wb, State.r32_wf_other _ _ _ _ _ _ hstat, State.wb, State.r32_wf_other _ _ _ _ _ _ hctrl]
  have hport : u.port p = s.port p := by rw [hu, State.wb_port, State.wb_port]
  have hoff : s.portOff p = u.flushSlots p true := by
    have hcond : u.portState p = 5 ∧ (!u.ethernet p) = true := ⟨hstate.trans hup, by rw [State.ethernet_congr (congrArg Port.cfg hport), heth]; rfl⟩
    unfold State.portOff
    dsimp only
    rw [if_pos hact', ← hu, if_pos hcond]
  obtain ⟨hregs, hsend, hreplay⟩ := u.flushSlots_all p (last := true) rfl
  rw [hoff, State.draining, State.rb_congr hregs, State.rb_congr hregs, State.portState_congr (State.r32_congr hregs _), hstate, hreplay, hport]
  refine ⟨?_, ?_, hup, congrArg Prod.fst hsend, rfl⟩
  · rw [hu, State.rb_wb_other _ _ _ _ hne, State.rb_wb _ _ _ _ _ (by omega), if_pos rfl]
  · rw [hu, State.rb_wb _ _ _ _ _ (by omega), if_pos rfl]

/-- Drained, it is DOWN, and its unit disabled. -/
theorem State.portDrained_done (hp : p < 8) (hdrain : s.draining (fpPage p) = true) (hreplay : (s.port p).replay = [])
    (htx : (s.port p).tx = []) :
    (s.portDrained p).portState p = 0 ∧ (s.portDrained p).rf (blkStat (fpPage p)) 0 3 = 0 ∧ ((s.portDrained p).port p).graceful = true
    ∧ (s.portDrained p).evq = s.evq ++ [⟨fpPage p, 14, 5, 256 + p⟩] := by
  have hstat : statReg p / 4 ≠ blkStat (fpPage p) / 4 := by rw [statReg_word, if_pos hp]; unfold blkStat fpPage; omega
  obtain ⟨u, hu⟩ : ∃ u, u = (s.portDown p).modPort p fun x => { x with graceful := true } := ⟨_, rfl⟩
  have hdone : s.portDrained p = (u.statOff (fpPage p) false).raise (fpPage p) 14 5 (portSrc p) := by
    rw [State.portDrained, if_pos ⟨hdrain, by rw [hreplay]; rfl, by rw [htx]; rfl⟩, hu]
    rfl
  rw [hdone]
  refine ⟨?_, (statOff_status u (fpPage p) false).2.2, ?_, ?_⟩
  · rw [State.portState_raise, State.portState_congr (statOff_r32 _ _ hstat), hu, State.portState_modPort, State.portDown_portState]
  · have hgraceful : (u.port p).graceful = true := by rw [hu, State.modPort_self]
    exact hgraceful
  · have hevq : u.evq = s.evq := by rw [hu]; exact s.portDown_evq p
    rw [State.raise_evq, ← hevq]
    rfl

end

/-! ## The statement -/

theorem State.laneCe_over {s : State} {p lane count : Nat} (hup : s.portState p = 5)
    (h : s.portSet p Reg.fabLaneCeLim 0 32 2048 < count) : s.laneCe p lane count = s.laneFail p lane := if_pos ⟨hup, h⟩

/-- A RETRAIN that has lasted too long. -/
theorem State.retrainTimeout_due {s : State} {p : Nat} (hr : (s.port p).retrain = true)
    (h : (s.port p).enteredAt + s.portSet p Reg.fabRetrainLimit 0 16 1024 ≤ s.tick) : s.retrainTimeout p = s.linkDown p := if_pos ⟨hr, h⟩

/-- Settles O40, clause by clause: lanes that fail (`laneFail_saltern`, `laneFail_ethernet`), a RETRAIN that lasts too long, and a port
that drains (`portOff_up`, `portDrained_done`). -/
theorem linkFailures : Obligations.LinkFailures := by
  unfold Obligations.LinkFailures
  refine ⟨?_, ?_, ?_, ?_, ?_, ?_⟩
  · intro s p lane hs hlane hup heth hcfg
    refine completes_run hs (exec_laneLossOfLock p lane s) ?_
    rw [Footprint.apply_portState, Footprint.apply_port, Footprint.apply_badLanes]
    exact State.laneFail_saltern hlane hup heth hcfg
  · intro s p lane hs hup heth hen hcfg hmac
    refine completes_run hs (exec_laneLossOfLock p.castSucc lane s) ?_
    rw [Footprint.apply_portState, Footprint.apply_port, Footprint.apply_evq]
    exact State.laneFail_ethernet p.isLt lane.isLt hup heth hen hcfg hmac
  · intro s p lane count hs hlane hup heth hcfg
    constructor <;> intro hcount <;> refine completes_run hs (exec_laneCeLimit p lane count s) ?_
    · obtain ⟨hstate, hretrain, -⟩ := State.laneFail_saltern hlane hup heth hcfg
      rw [State.laneCe_over hup hcount, Footprint.apply_portState, Footprint.apply_port]
      exact ⟨hstate, hretrain⟩
    · rw [State.laneCe, if_neg (by omega)]
      exact ⟨rfl, rfl⟩
  · intro s p hs hr hlong
    refine completes_run hs (exec_retrainTimeout p s) ?_
    rw [State.retrainTimeout_due hr hlong, Footprint.apply_portState, Footprint.apply_port, Footprint.apply_evq]
    exact ⟨State.linkDown_portState .., (congrArg Port.retrain (State.linkDown_port ..)).trans (State.portDown_retrain ..),
      State.linkDown_evq_up (Or.inr hr)⟩
  · intro s p hs hdrain hreplay htx
    refine completes_run hs (exec_portDrained p s) ?_
    rw [Footprint.apply_portState, Footprint.apply_rf, Footprint.apply_port, Footprint.apply_evq]
    exact State.portDrained_done p.isLt hdrain hreplay htx
  · intro s p hs hact hup heth
    refine completes_run hs (exec_gracefulDisable (fpPage p.val) s) ?_
    have hoff : s.unitOff (fpPage p.val) = s.portOff p.val := by rw [State.unitOff, Reg.page_fpPage p.isLt]
    rw [hoff, State.draining, Footprint.apply_rb, Footprint.apply_rb, Footprint.apply_portState, Footprint.apply_port]
    exact State.portOff_up p.isLt hact hup heth

end Sys2Proof.Machine
end

section
/-! SUPPORT. Codewords, flits and packets at a port, and the statement about them (R279 to R285). -/
namespace Sys2Proof.Machine

open Sys2Proof

/-! ## Counters that do not wrap (R430) -/

theorem fld_countWord {v : Dword} {n : Nat} (h : v.toNat % 2 ^ 48 + n < 2 ^ 48) : fld (countWord v n).1 0 48 = fld v 0 48 + n := by
  have hv := v.isLt
  rw [countWord, if_pos h, fld, fld, BitVec.toNat_ofNat]
  omega

theorem State.count_fld {s : State} {off n : Nat} (h : (s.r64 off).toNat % 2 ^ 48 + n < 2 ^ 48) :
    fld ((s.count off n).r64 off) 0 48 = fld (s.r64 off) 0 48 + n := by
  rw [State.count, State.raiseIf_r64, State.r64_w64_self, fld_countWord h]

/-! ## Codewords (R280) -/

section
variable {s : State} {p : Nat} {c : Codeword} {l : List Nat}

/-- The order in which lanes are read is that of the last training. -/
theorem State.lanesIn_rxNum (n : Nat) (lanes : List (List Nat)) :
    (s.modPort p fun x => { x with rxNum := n }).lanesIn p lanes = s.lanesIn p lanes := by
  have hport : (s.modPort p fun x => { x with rxNum := n }).port p = { s.port p with rxNum := n } := State.modPort_self ..
  unfold State.lanesIn State.byOwnLane State.wireLanes State.laneNumber
  rw [hport]
  rfl

variable (hst : s.portState p ≠ 0) (heth : s.ethernet p = false) (hl : l = fixSymbols (gatherSymbols (s.lanesIn p c.lanes)) c.fix)
include hst heth hl

/-- A codeword that cannot be corrected is counted; what it carries goes no further. -/
theorem State.codeword_refused (hp : p < 8) (hbad : 15 < c.fix.length ∨ isWord l = false) :
    s.codeword p c = ((s.modPort p fun x => { x with rxNum := x.rxNum + 1 }).count (Reg.fabFecUeCnt p) 1).modPort p fun x =>
      { x with rxScr := (decodeWord (gatherSymbols (s.lanesIn p c.lanes)) (s.port p).rxScr).2.2 } := by
  have hbad' : 15 < c.fix.length ∨ (!isWord l) = true := by simpa using hbad
  rw [State.codeword, if_neg (by simp [hst, heth])]
  extract_lets num l' u w w' u'
  have hl' : l' = l := hl.symm
  have hw : w = decodeWord (gatherSymbols (s.lanesIn p c.lanes)) (s.port p).rxScr := by
    unfold w u
    rw [State.lanesIn_rxNum, State.modPort_self]
  rw [hl', if_pos hbad', if_pos hp, hw]
  rfl

/-- One that decodes is taken: its corrections are counted, and all but those of alignment go on. -/
theorem State.codeword_taken (hp : p < 8) (hfix : c.fix.length ≤ 15) (hword : isWord l = true) :
    s.codeword p c = if (s.port p).rxNum % 8192 = 0 then wordTaken s p c (decodeWord l (s.port p).rxScr).2.2
      else (wordTaken s p c (decodeWord l (s.port p).rxScr).2.2).contentIn p (decodeWord l (s.port p).rxScr).1
        (decodeWord l (s.port p).rxScr).2.1 c.rx c.tx := by
  rw [State.codeword, if_neg (by simp [hst, heth])]
  extract_lets num l' u w w' u'
  have hport : u.port p = { s.port p with rxNum := num + 1 } := State.modPort_self ..
  have hl' : l' = l := hl.symm
  have hw : w' = decodeWord l (s.port p).rxScr := by
    unfold w'
    rw [hport, hl']
  have hu : u' = wordTaken s p c (decodeWord l (s.port p).rxScr).2.2 := by
    unfold u'
    rw [if_pos hp, hw]
    rfl
  rw [hl', if_neg (by simp [hword]; omega), hu, hw]

end

/-! ## NULL flits (R281, R283, R284) -/

section
variable (s : State) (p : Nat) (nak : Bool)

/-- A NULL flit acknowledges what the port has accepted. -/
theorem State.nullFlit_out : ∃ g lanes rest, (s.nullFlit p nak).out = .codeword p (.flit g) lanes :: rest ∧ g.null = true
    ∧ g.nak = nak ∧ g.ackValid = ((s.port p).rxAny || nak) ∧ g.ack = (s.port p).rxSeq := by
  unfold State.nullFlit
  extract_lets f
  obtain ⟨lanes, rest, hout, -⟩ := s.sendCodeword_out p (.flit (s.makeFlit p f))
  exact ⟨s.makeFlit p f, lanes, rest, hout, rfl, rfl, rfl, rfl⟩

theorem State.nullFlit_port : ((s.nullFlit p nak).port p).rxSeq = (s.port p).rxSeq
    ∧ ((s.nullFlit p nak).port p).nakSent = (s.port p).nakSent := by
  rw [State.nullFlit, State.modPort_self]
  exact ⟨(congrArg Port.rxSeq (s.sendCodeword_unsent p _) : _), (congrArg Port.nakSent (s.sendCodeword_unsent p _) : _)⟩

end

/-! ## A flit in sequence (R283, R284) -/

/-- An arrival that leaves y of port x has accepted nothing and given no packet: the packets that wait have no less credit and no less
room in the replay buffer. -/
structure Port.Eased (x y : Port) : Prop where
  rxSeq : y.rxSeq = x.rxSeq
  txq : y.txq = x.txq
  tx : y.tx = x.tx
  replay : y.replay.length ≤ x.replay.length
  credit : ∀ v, natAt x.credit v ≤ natAt y.credit v

theorem Port.Eased.refl (x : Port) : x.Eased x := ⟨rfl, rfl, rfl, Nat.le_refl _, fun _ => Nat.le_refl _⟩

theorem Port.Eased.trans {x y z : Port} (h : x.Eased y) (g : y.Eased z) : x.Eased z :=
  ⟨g.rxSeq.trans h.rxSeq, g.txq.trans h.txq, g.tx.trans h.tx, g.replay.trans h.replay, fun v => (h.credit v).trans (g.credit v)⟩

/-- What could start can start still. -/
theorem Port.Eased.canStart {x y : Port} (h : x.Eased y) {v : Nat} (hx : x.canStart true v = true) : y.canStart true v = true := by
  unfold Port.canStart Port.first at hx ⊢
  rw [h.txq, h.tx]
  cases hfirst : x.txq.find? fun k => k.vl == v with
  | none => rw [hfirst] at hx; exact hx
  | some k =>
    have hcredit := h.credit v
    have hreplay := h.replay
    rw [hfirst] at hx
    simp only [Bool.not_true, Bool.false_or, Bool.and_eq_true, decide_eq_true_eq] at hx ⊢
    omega

section
variable (s : State) (p : Nat) (f : Flit)

theorem State.flitAck_eased : (s.port p).Eased ((s.flitAck p f).port p) := by
  unfold State.flitAck
  split
  · exact Port.Eased.refl _
  · dsimp only
    split
    · exact Port.Eased.refl _
    · rw [State.modPort_self]
      exact ⟨rfl, rfl, rfl, by simp, fun _ => Nat.le_refl _⟩

theorem State.flitAck_out : (s.flitAck p f).out = s.out := by
  unfold State.flitAck
  split
  · rfl
  · dsimp only
    split <;> rfl

theorem State.flitCredit_eased : (s.port p).Eased ((s.flitCredit p f).port p) := by
  refine State.each_keeps (P := fun u => (s.port p).Eased (u.port p)) _ _ (fun u v _ hu => hu.trans ?_) s (Port.Eased.refl _)
  rw [State.modPort_self]
  refine ⟨rfl, rfl, rfl, Nat.le_refl _, fun i => ?_⟩
  rw [natAt, natAt, setNat, Sparse.get_set]
  split
  case isTrue hi => rw [hi]; exact Nat.le_add_right _ _
  case isFalse => exact Nat.le_refl _

theorem State.flitCredit_out : (s.flitCredit p f).out = s.out := by
  rw [State.flitCredit, State.upTo_view State.out _ _ fun u v _ => u.modPort_out p _]

/-- What a flit in sequence makes of a port, where t is what its slots have completed. -/
def Port.taken (f : Flit) (t : List Byte × Sparse Nat) (x : Port) : Port :=
  { x with rxSeq := f.seq, rxAny := true, nakSent := false, rx := t.1, freed := t.2 }

/-- A flit in sequence, accepted: what it acknowledges, the credit that it returns, and its slots. -/
def State.flitTaken : State :=
  ((s.flitAck p f).flitCredit p f).modPort p fun x => x.taken f (takePackets 4096 (x.rx ++ slice f.slots 0 608) x.freed)

theorem State.flitTaken_out : (s.flitTaken p f).out = s.out := by
  rw [State.flitTaken, State.modPort_out, State.flitCredit_out, State.flitAck_out]

theorem State.flitTaken_port : ((s.flitTaken p f).port p).rxSeq = f.seq ∧ ((s.flitTaken p f).port p).nakSent = false
    ∧ ((s.flitTaken p f).port p).rxAny = true ∧ ((s.flitTaken p f).port p).txq = (s.port p).txq
    ∧ ∀ v, (s.port p).canStart true v = true → ((s.flitTaken p f).port p).canStart true v = true := by
  have heased := (s.flitAck_eased p f).trans ((s.flitAck p f).flitCredit_eased p f)
  rw [State.flitTaken, State.modPort_self]
  generalize ((s.flitAck p f).flitCredit p f).port p = x at heased
  generalize takePackets _ _ _ = t
  exact ⟨rfl, rfl, rfl, heased.txq, fun v hv => (heased.canStart hv : _)⟩

variable {s p f}

/-- A flit in sequence is accepted, and acknowledged by a NULL flit where no packet can start. -/
theorem State.flitReceive_accepted (hup : s.portState p = 5) (heth : s.ethernet p = false) (hcrc : crc64 (flitBytes f) = f.crc.toNat)
    (hnak : f.nak = false) (hnull : f.null = false) (hseq : f.seq = (s.port p).rxSeq + 1) :
    s.flitReceive p f = if (List.range 8).any (((s.flitTaken p f).port p).canStart true) then s.flitTaken p f
      else (s.flitTaken p f).nullFlit p false := by
  have hack : f.seq = ((s.flitAck p f).port p).rxSeq + 1 := by rw [(s.flitAck_eased p f).rxSeq, hseq]
  rw [State.flitReceive, if_neg (by simp [hup, heth])]
  dsimp only
  rw [if_neg (fun h => h hcrc), hnak, if_neg Bool.false_ne_true, hnull, if_neg Bool.false_ne_true, if_pos hack]
  rfl

/-- One whose CRC fails is refused, once until a flit is accepted. -/
theorem State.flitReceive_damaged (hup : s.portState p = 5) (heth : s.ethernet p = false) (hcrc : crc64 (flitBytes f) ≠ f.crc.toNat) :
    s.flitReceive p f = if (s.port p).nakSent then s else (s.modPort p fun x => { x with nakSent := true }).nullFlit p true := by
  rw [State.flitReceive, if_neg (by simp [hup, heth])]
  exact if_pos hcrc

end

/-! ## Replay (R283) -/

section
variable {s : State} {p : Nat} {x : Flit}

/-- A flit that is sent again keeps its sequence number and its slots. -/
theorem State.resend_out (h : (s.port p).replay = [x]) :
    ∃ g lanes rest, (s.resend p).out = .codeword p (.flit g) lanes :: rest ∧ g.seq = x.seq ∧ g.slots = x.slots := by
  obtain ⟨lanes, rest, hout, -⟩ := s.sendCodeword_out p (.flit (s.makeFlit p x))
  refine ⟨s.makeFlit p x, lanes, rest, ?_, rfl, rfl⟩
  rw [State.resend, h, State.count_out]
  exact hout

/-- The flits that wait for acknowledgement are sent again after the timeout. -/
theorem State.llrTimeout_due (hup : s.portState p = 5) (hreplay : (s.port p).replay ≠ []) (hfew : (s.port p).replays < 8)
    (hdue : (s.port p).ackAt + s.portSet p Reg.fabLlrTimeout 0 8 4 ≤ s.tick) :
    s.llrTimeout p = (s.modPort p fun x => { x with replays := x.replays + 1, ackAt := s.tick }).resend p := by
  rw [State.llrTimeout, if_pos ⟨hup, hdue⟩, State.replay, if_neg (by simpa using hreplay), if_neg (by omega)]

end

/-! ## Packets (R284, R285, R292) -/

section
variable {s : State} {p : Nat} {k : TxPkt}

/-- The only lane that may start is served, in its turn or in the weight that it has left. -/
theorem State.nextLane_only {ready : Nat → Bool} {v : Nat} (hv : v < 8) (hready : ∀ i, ready i = true ↔ i = v) :
    ∃ left, s.nextLane p ready = some (v, left) := by
  unfold State.nextLane
  extract_lets w
  split
  case isTrue h => exact ⟨w.2 - 1, by rw [(hready w.1).1 h.2]⟩
  case isFalse =>
    have hmem : v ∈ (List.range 8).map fun i => (w.1 + 1 + i) % 8 :=
      List.mem_map.2 ⟨(v + 8 - (w.1 + 1) % 8) % 8, List.mem_range.2 (by omega), by omega⟩
    obtain ⟨i, hi⟩ := Option.isSome_iff_exists.1 (List.find?_isSome.2 ⟨v, hmem, (hready v).2 rfl⟩)
    have hiv : i = v := (hready i).1 (List.find?_some hi)
    rw [hi, hiv]
    exact ⟨_, rfl⟩

theorem Port.first_only {x : Port} (h : x.txq = [k]) (v : Nat) : x.first v = if k.vl = v then some k else none := by
  rw [Port.first, h, List.find?_singleton]
  by_cases hv : k.vl = v <;> simp [hv]

theorem Port.canStart_only {x : Port} (h : x.txq = [k]) (hcredit : k.slots ≤ natAt x.credit k.vl)
    (hroom : x.replay.length + streamFlits (x.tx ++ packetSlots k) ≤ 1024) (v : Nat) : x.canStart true v = true ↔ v = k.vl := by
  rw [Port.canStart, Port.first_only h]
  by_cases hv : k.vl = v
  · subst hv
    simp [hcredit, hroom]
  · simp [hv, Ne.symm hv]

theorem State.startPacket_port : (s.startPacket p k).port p = s.port p := by unfold State.startPacket; split <;> rfl

/-- The only packet that waits, with credit and room, leaves in flits that stay in the replay buffer. -/
theorem State.packetSend_flits (hup : s.portState p = 5) (hen : s.portEn p = true) (heth : s.ethernet p = false)
    (hq : (s.port p).txq = [k]) (hvl : k.vl < 8) (hcredit : k.slots ≤ natAt (s.port p).credit k.vl)
    (hroom : (s.port p).replay.length + streamFlits ((s.port p).tx ++ packetSlots k) ≤ 1024) :
    ((s.packetSend p).port p).toSend
      = ([], [], setNat (s.port p).credit k.vl (natAt (s.port p).credit k.vl - k.slots))
    ∧ ((s.packetSend p).port p).replay.length
      = (s.port p).replay.length + streamFlits ((s.port p).tx ++ packetSlots k) := by
  obtain ⟨left, hlane⟩ := s.nextLane_only (p := p) hvl (Port.canStart_only hq hcredit hroom)
  have hfirst : (s.port p).first k.vl = some k := (Port.first_only hq k.vl).trans (if_pos rfl)
  obtain ⟨u, hu⟩ : ∃ u, u = (s.startPacket p k).modPort p fun x => { x with
      txq := x.txq.erase k, credit := setNat x.credit k.vl (natAt x.credit k.vl - k.slots), tx := x.tx ++ packetSlots k
      wrr := (k.vl, left) } := ⟨_, rfl⟩
  have hsend : s.packetSend p = u.flushSlots p false := by
    rw [State.packetSend, if_neg (by simp [hup]), if_neg (by simp [hen]), if_neg (by simp [heth])]
    rw [hlane]
    simp only [hfirst, hu]
  have hport : u.port p = { s.port p with
      txq := [], credit := setNat (s.port p).credit k.vl (natAt (s.port p).credit k.vl - k.slots), tx := (s.port p).tx ++ packetSlots k
      wrr := (k.vl, left) } := by
    rw [hu, State.modPort_self, State.startPacket_port, hq]
    simp
  have hnone : (!false && (List.range 8).any ((u.port p).canStart true)) = false := by
    rw [hport]
    simp [Port.canStart, Port.first]
  obtain ⟨-, hto, hreplay⟩ := u.flushSlots_all p hnone
  rw [hport] at hto hreplay
  rw [hsend]
  exact ⟨hto, hreplay⟩

/-- In Ethernet mode it leaves as a frame. -/
theorem State.packetSend_frame (hup : s.portState p = 5) (hen : s.portEn p = true) (heth : s.ethernet p = true)
    (hq : (s.port p).txq = [k]) (hpause : optAt (s.port p).paused k.vl = none) :
    ((s.packetSend p).port p).txq = [] ∧ ∃ rest, (s.packetSend p).out = .frame p k.bytes :: rest := by
  have hframe : s.packetSend p
      = (State.startPacket (s.modPort p fun x => { x with txq := x.txq.eraseIdx 0 }) p k).emit (.frame p k.bytes) := by
    rw [State.packetSend, if_neg (by simp [hup]), if_neg (by simp [hen]), if_pos heth, State.frameSend]
    simp [hq, hpause, List.findIdx?_cons]
  rw [hframe]
  refine ⟨?_, _, rfl⟩
  rw [State.emit_port, State.startPacket_port, State.modPort_self, hq]
  rfl

end

/-! ## The statement -/

/-- Settles O41, clause by clause: codewords (`codeword_refused`, `codeword_taken`), flits (`flitReceive_accepted`,
`flitReceive_damaged`), replay (`llrTimeout_due`) and packets (`packetSend_flits`, `packetSend_frame`). -/
theorem flitsAndPackets : Obligations.FlitsAndPackets := by
  unfold Obligations.FlitsAndPackets
  refine ⟨?_, ?_, ?_, ?_, ?_, ?_⟩
  · intro s p c l hs hst heth hl
    refine ⟨fun hbad hroom => ?_, fun hfix hword halign hroom => ?_, fun hfix hword hplain hkind => ?_⟩ <;>
      refine completes_run hs (exec_codewordReceive p.castSucc c s) ?_ <;> rw [Fin.val_castSucc]
    · rw [State.codeword_refused (p := p.val) hst heth hl p.isLt hbad, Footprint.apply_r64, Footprint.apply_port]
      refine ⟨State.count_fld hroom, ?_⟩
      exact (State.modPort_self ..).trans (by rw [State.count_port, State.modPort_self])
    · rw [State.codeword_taken (p := p.val) hst heth hl p.isLt hfix hword, if_pos halign, Footprint.apply_r64]
      exact ⟨State.count_fld hroom, State.count_out ..⟩
    · rw [State.codeword_taken (p := p.val) hst heth hl p.isLt hfix hword, if_neg hplain, State.contentIn, if_pos hkind,
        Footprint.apply_ports]
      rfl
  · intro s p f hs hup heth hcrc hnak hnull hseq
    refine completes_run hs (exec_flitReceive p f s) ?_
    obtain ⟨hrx, hsent, hany, hq, hmay⟩ := s.flitTaken_port p.val f
    obtain ⟨g, lanes, rest, hout, hgnull, -, hgvalid, hgack⟩ := (s.flitTaken p.val f).nullFlit_out p.val false
    obtain ⟨hnrx, hnsent⟩ := (s.flitTaken p.val f).nullFlit_port p.val false
    rw [State.flitReceive_accepted hup heth hcrc hnak hnull hseq, linkFoot_port, Footprint.apply_out]
    by_cases hstart : (List.range 8).any (((s.flitTaken p.val f).port p.val).canStart true) = true
    · rw [if_pos hstart]
      refine ⟨hrx, hsent, fun _ => s.flitTaken_out p.val f, fun hnone => ?_⟩
      simp [Port.canStart, Port.first, hq, hnone] at hstart
    · rw [if_neg hstart]
      refine ⟨hnrx.trans hrx, hnsent.trans hsent, fun hbefore => ?_, fun _ => ⟨g, lanes, rest, hout, hgnull, ?_, hgack.trans hrx⟩⟩
      · obtain ⟨v, hv, hcan⟩ := List.any_eq_true.1 hbefore
        exact absurd (List.any_eq_true.2 ⟨v, hv, hmay v hcan⟩) hstart
      · rw [hgvalid, hany, Bool.true_or]
  · intro s p f hs hup heth hcrc
    constructor <;> intro hsent <;> refine completes_run hs (exec_flitReceive p f s) ?_ <;>
      rw [State.flitReceive_damaged hup heth hcrc, hsent]
    · obtain ⟨u, hu⟩ : ∃ u, u = s.modPort p.val fun x => { x with nakSent := true } := ⟨_, rfl⟩
      have hport : u.port p.val = { s.port p.val with nakSent := true } := by rw [hu, State.modPort_self]
      obtain ⟨hrx, hnak⟩ := u.nullFlit_port p.val true
      obtain ⟨g, lanes, rest, hout, -, hgnak, -, hgack⟩ := u.nullFlit_out p.val true
      rw [hport] at hrx hnak hgack
      rw [if_neg Bool.false_ne_true, ← hu, linkFoot_port, Footprint.apply_out]
      exact ⟨hrx, hnak, g, lanes, rest, hout, hgnak, hgack⟩
    · exact ⟨rfl, rfl⟩
  · intro s p x hs hup hreplay hfew hdue
    refine completes_run hs (exec_llrTimeout p s) ?_
    obtain ⟨u, hu⟩ : ∃ u, u = s.modPort p.val fun x => { x with replays := x.replays + 1, ackAt := s.tick } := ⟨_, rfl⟩
    have hport : u.port p.val = { s.port p.val with replays := (s.port p.val).replays + 1, ackAt := s.tick } := by
      rw [hu, State.modPort_self]
    have hleft := State.resend_unsent (s := u) (p := p.val)
    rw [hport] at hleft
    have hflit : (u.port p.val).replay = [x] := by rw [hport]; exact hreplay
    rw [State.llrTimeout_due hup (by rw [hreplay]; exact List.cons_ne_nil x []) hfew hdue, ← hu, linkFoot_port, Footprint.apply_out]
    exact ⟨(congrArg Port.replay hleft).trans hreplay, congrArg Port.replays hleft, State.resend_out hflit⟩
  · intro s p k n hs hup hen heth hq hvl hcredit hn hroom
    refine completes_run hs (exec_packetSend p s) ?_
    subst hn
    obtain ⟨hto, hreplay⟩ := State.packetSend_flits hup hen heth hq hvl hcredit hroom
    obtain ⟨htx, htxq, hcr⟩ : _ ∧ _ ∧ _ := by simpa only [Port.toSend, Prod.mk.injEq] using hto
    rw [Footprint.apply_port, if_pos rfl]
    refine ⟨htxq, htx, hreplay, ?_⟩
    rw [hcr]
    exact Sparse.get_set_self ..
  · intro s p k hs hup hen heth hq hpause
    refine completes_run hs (exec_packetSend p s) ?_
    rw [Footprint.apply_port]
    exact State.packetSend_frame hup hen heth hq hpause

end Sys2Proof.Machine
end

section
/-! SUPPORT. Time messages of the ports, and the statement about them (R286). -/
namespace Sys2Proof.Machine

open Sys2Proof

/-! ## What the tide unit leaves as it learns an offer or takes an exchange -/

/-- What neither an offer nor an exchange changes: the outputs, the ports, and the REQs that are outstanding. -/
def State.asked (s : State) : List Out × Sparse Port × Sparse (Option (Nat × BitVec 16)) := (s.out, s.ports, s.tide.reqs)

section
variable (s : State)

theorem State.enterHoldover_asked : s.enterHoldover.asked = s.asked := rfl
theorem State.enterLost_asked : s.enterLost.asked = s.asked := rfl

theorem State.learnEpoch_asked (p : Nat) (m : TimeMsg) : (s.learnEpoch p m).asked = s.asked := by
  unfold State.learnEpoch
  extract_lets o u follows u'
  have hu : u.asked = s.asked := rfl
  clear_value o u
  split
  · split
    · exact (State.enterHoldover_asked _).trans hu
    · exact hu
  · exact hu

theorem State.chooseUpstream_asked : s.chooseUpstream.asked = s.asked := by
  unfold State.chooseUpstream
  split
  · rfl
  · split
    · split <;> rfl
    · rfl

theorem State.learnOffer_asked (p : Nat) (m : TimeMsg) : (s.learnOffer p m).asked = s.asked := by
  unfold State.learnOffer
  dsimp only
  split
  · exact (State.chooseUpstream_asked _).trans (s.learnEpoch_asked p m)
  · exact (State.chooseUpstream_asked _).trans (s.learnEpoch_asked p m)

theorem State.steer_asked (o : Int) : (s.steer o).asked = s.asked := by
  unfold State.steer
  split
  · exact s.enterLost_asked
  · rfl

theorem State.exchange_asked (p : Nat) (offset16 : Int) : (s.exchange p offset16).asked = s.asked := by
  rw [State.exchange_eq]
  dsimp only
  split
  · split_ifs <;> rfl
  · exact State.steer_asked ..
  · split
    · exact State.enterLost_asked _
    · exact State.steer_asked ..
  · rfl

end

/-! ## REQ and RESP -/

section
variable {s : State} {p : Nat}

theorem State.timeReqSend_due {t1 : Nat} (hst : s.tideState ≠ 0) (hp : s.timePort p = true) (hdue : s.reqDue p = true) :
    s.timeReqSend p t1 = (s.modTide fun t => { t with
      reqs := setOpt t.reqs p (some (t1, s.tide.xseq)), xseq := s.tide.xseq + 1, reqAt := setNat t.reqAt p (s.tick + 1) }).sendCodeword p
        (.time false (s.timeMsg s.tide.xseq 0 0)) := by
  rw [State.timeReqSend, if_neg (by simp [hst, hp, hdue])]

theorem State.timeReqReceive_answered {m : TimeMsg} {t2 t3 : Nat} (hp : s.timePort p = true) :
    s.timeReqReceive p m t2 t3
      = (s.learnOffer p m).sendCodeword p (.time true ((s.learnOffer p m).timeMsg m.xseq t2 t3)) := by
  rw [State.timeReqReceive, if_neg (by simp [hp])]

/-- A RESP that answers the REQ outstanding on its port ends it, whether or not its exchange counts. -/
theorem State.timeRespReceive_reqs {m : TimeMsg} {t1 t4 : Nat} (hst : s.tideState ≠ 0) (hp : s.timePort p = true)
    (hreq : optAt s.tide.reqs p = some (t1, m.xseq)) : (s.timeRespReceive p m t4).tide.reqs = setOpt s.tide.reqs p none := by
  have hlearn : (s.learnOffer p m).tide.reqs = s.tide.reqs := (congrArg (·.2.2) (s.learnOffer_asked p m) : _)
  have hreq' : optAt (s.learnOffer p m).tide.reqs p = some (t1, m.xseq) := by rw [hlearn, hreq]
  obtain ⟨u, hu⟩ : ∃ u, u = (s.learnOffer p m).modTide fun t => { t with reqs := setOpt t.reqs p none } := ⟨_, rfl⟩
  have hreqs : u.tide.reqs = setOpt s.tide.reqs p none := by rw [hu, State.modTide_tide, hlearn]
  rw [State.timeRespReceive, if_neg (by simp [hst, hp])]
  dsimp only
  rw [hreq']
  dsimp only
  rw [if_neg (by simp), ← hu]
  split
  · exact hreqs
  · exact (congrArg (·.2.2) (u.exchange_asked p _) : _).trans hreqs

end

/-- Settles O9: a REQ and a RESP leave in the next codeword (`sendCodeword_out`), and neither an offer nor an exchange reaches the REQs
that are outstanding (`learnOffer_asked`, `exchange_asked`). -/
theorem timeMessages : Obligations.TimeMessages := by
  unfold Obligations.TimeMessages
  refine ⟨?_, ?_, ?_⟩
  · intro s p t1 hs hst hp hdue
    refine completes_run hs (exec_timeReqSend p t1 s) ?_
    rw [State.timeReqSend_due hst hp hdue, Footprint.apply_tide, if_pos rfl, State.sendCodeword_tide, State.modTide_tide,
      Footprint.apply_out]
    dsimp only
    exact ⟨optAt_setOpt_self .., rfl, State.sendCodeword_out ..⟩
  · intro s p m t2 t3 hs hp
    refine completes_run hs (exec_timeReqReceive p m t2 t3 s) ?_
    obtain ⟨hout, hports, -⟩ : _ ∧ _ ∧ _ := by simpa only [State.asked, Prod.mk.injEq] using s.learnOffer_asked p.val m
    have hport : (s.learnOffer p.val m).port p.val = s.port p.val := by rw [State.port, hports, State.port]
    obtain ⟨lanes, rest, hsent, hrest⟩ :=
      (s.learnOffer p.val m).sendCodeword_out p.val (.time true ((s.learnOffer p.val m).timeMsg m.xseq t2 t3))
    rw [hport, hout] at hrest
    rw [State.timeReqReceive_answered hp, Footprint.apply_out]
    exact ⟨_, lanes, rest, hsent, rfl, rfl, rfl, hrest⟩
  · intro s p m t1 t4 hs hst hp hreq
    refine completes_run hs (exec_timeRespReceive p m t4 s) ?_
    rw [Footprint.apply_tide, if_pos rfl, State.timeRespReceive_reqs hst hp hreq]
    exact optAt_setOpt_self ..

end Sys2Proof.Machine
end

section
/-! SUPPORT. Frames and priority flow control of an Ethernet port, and the statement about them (R292, R294, R295). -/
namespace Sys2Proof.Machine

open Sys2Proof

section
variable {s : State} {p : Nat}

/-- XOFF and XON leave the levels of the priorities. -/
theorem State.pfcLevel_level (s : State) (p prio : Nat) : ((s.pfcLevel p prio).port p).level = (s.port p).level := by
  have hxoff (b : Bool) (o : Out) :
      (((s.modPort p fun x => { x with xoff := setFlag x.xoff prio b }).emit o).port p).level = (s.port p).level := by
    rw [State.emit_port, State.modPort_self]
  unfold State.pfcLevel
  dsimp only
  split_ifs
  · rfl
  · exact hxoff true _
  · exact hxoff false _
  · rfl

/-- A frame that is accepted is held by its priority. -/
theorem State.ethFrame_held {f : EthFrame} (hup : s.portState p = 5) (heth : s.ethernet p = true) (hfcs : f.fcsOk = true)
    (hpause : f.pause = false) (hmin : 64 ≤ f.bytes) (hmax : f.bytes ≤ 9216)
    (hroom : ((List.range 8).map fun i => natAt (s.port p).level i).sum + f.bytes ≤ ethBuffer) :
    ((s.ethFrame p f).port p).level = setNat (s.port p).level f.prio.val (natAt (s.port p).level f.prio.val + f.bytes) := by
  have hin : ¬ (s.portState p ≠ 5 ∨ (!s.ethernet p) = true ∨ (!f.fcsOk) = true ∨ f.pause = true ∨ f.bytes < 64 ∨ 9216 < f.bytes
      ∨ ethBuffer < ((List.range 8).map fun i => natAt (s.port p).level i).sum + f.bytes) := by
    simp only [hup, heth, hfcs, hpause]
    simp
    omega
  rw [State.ethFrame, if_neg hin, State.pfcLevel_level, State.modPort_self]

theorem State.ethFrame_discarded {f : EthFrame} (h : f.pause = true ∨ f.fcsOk = false ∨ f.bytes < 64 ∨ 9216 < f.bytes) :
    s.ethFrame p f = s := by
  rw [State.ethFrame]
  refine if_pos ?_
  rcases h with h | h | h | h <;> simp [h]

/-- A PFC frame ends a pause by a pause of 0, and begins one by any other that finds none. -/
theorem State.pfcReceive_paused {prio : Nat} (quanta : BitVec 16) (hup : s.portState p = 5) (heth : s.ethernet p = true)
    (hen : s.pfcEn p prio = true) : optAt ((s.pfcReceive p prio quanta).port p).paused prio
      = if quanta = 0 then none else (optAt (s.port p).paused prio).or (some (s.tick, 0)) := by
  rw [State.pfcReceive, if_neg (by simp [hup, heth, hen]), State.modPort_self]
  split
  · dsimp only
    exact optAt_setOpt_self ..
  · dsimp only
    exact optAt_setOpt_self ..

/-- A pause that has lasted as long as a storm raises PFC_STORM, and its frames are discarded where DROP asks for it. -/
theorem State.pfcStorm_due {prio at_ : Nat} (hpause : optAt (s.port p).paused prio = some (at_, 0))
    (hon : s.r32 (Reg.fabPfcStorm p) ≠ 0) (hdue : at_ + (s.r32 (Reg.fabPfcStorm p)).toNat ≤ s.tick) :
    s.pfcStorm p prio = (s.modPort p fun x => { x with
      paused := setOpt x.paused prio (some (at_, 1)), dropping := setFlag x.dropping prio (s.rb (Reg.fabPfcCfg p) 8) }).raise
        (fpPage p) 13 10 (portSrc p) := by
  rw [State.pfcStorm, hpause]
  exact if_pos ⟨fun h => hon (BitVec.eq_of_toNat_eq h), hdue⟩

end

/-- Settles O42, clause by clause. -/
theorem ethernetFlowControl : Obligations.EthernetFlowControl := by
  unfold Obligations.EthernetFlowControl
  refine ⟨?_, ?_, ?_, ?_, ?_, ?_⟩
  · intro s p f hs hup heth hfcs hpause hmin hmax hroom
    refine completes_run hs (exec_ethFrameReceive p f s) ?_
    rw [Footprint.apply_port, if_pos rfl, State.ethFrame_held hup heth hfcs hpause hmin hmax hroom]
    exact Sparse.get_set_self ..
  · intro s p f hs hbad
    refine completes_run hs (exec_ethFrameReceive p f s) ?_
    rw [State.ethFrame_discarded hbad]
    exact ⟨rfl, rfl, rfl⟩
  · intro s p prio quanta hs hup heth hen
    refine completes_run hs (exec_pfcFrameReceive p prio quanta s) ?_
    rw [Footprint.apply_port, if_pos rfl, State.pfcReceive_paused quanta hup heth hen]
    refine ⟨fun h => if_pos h, fun h => ?_⟩
    rw [if_neg h]
    cases optAt (s.port p.val).paused prio.val <;> rfl
  · intro s p prio hs heth hen hoff
    refine completes_run hs (exec_pfcRefresh p prio s) ?_
    rw [State.pfcRefresh, if_pos ⟨heth, hen, hoff⟩]
    exact ⟨rfl, rfl⟩
  · intro s p prio at_ hs hpause hon hdue
    refine completes_run hs (exec_pfcStorm p prio s) ?_
    rw [State.pfcStorm_due hpause hon hdue, Footprint.apply_port, if_pos rfl, State.raise_port, State.modPort_self]
    exact ⟨rfl, Sparse.get_set_self ..⟩
  · intro s p prio hs
    refine completes_run hs (exec_pfcPauseExpiry p prio s) ?_
    rw [Footprint.apply_port, if_pos rfl, State.pfcExpiry, State.modPort_self]
    dsimp only
    exact optAt_setOpt_self ..

end Sys2Proof.Machine
end

section
/-! SUPPORT. The token stream of GP0, and the statement about it (R304). -/
namespace Sys2Proof.Machine

open Sys2Proof

/-! ## What a read of board memory leaves -/

/-- t comes of s by reads of board memory: the outputs, the ports, the marks of the token stream and the words behind those of the
board interfaces are as they were. -/
structure State.BoardReads (s t : State) : Prop where
  out : t.out = s.out
  ports : t.ports = s.ports
  marks : t.tsMarks = s.tsMarks
  word : ∀ off, 0x84000 ≤ off / 4 → t.r32 off = s.r32 off

section
variable {s t u : State}

theorem State.BoardReads.refl (s : State) : s.BoardReads s := ⟨rfl, rfl, rfl, fun _ _ => rfl⟩

theorem State.BoardReads.trans (h : s.BoardReads t) (h' : t.BoardReads u) : s.BoardReads u :=
  ⟨h'.out.trans h.out, h'.ports.trans h.ports, h'.marks.trans h.marks, fun off ho => (h'.word off ho).trans (h.word off ho)⟩

theorem boardIface_lt (o : Nat) : boardIface o < 16 := Nat.xor_lt_two_pow (n := 4) (by omega) (by omega)

theorem State.BoardReads.count (s : State) {off : Nat} (n : Nat) (h : off / 4 + 1 < 0x84000) : s.BoardReads (s.count off n) :=
  ⟨State.count_out .., State.count_ports .., State.count_tsMarks .., fun _ _ => State.count_r32 _ _ (by omega) (by omega)⟩

theorem State.BoardReads.brdCe (s : State) (o symbols src kind : Nat) : s.BoardReads (s.brdCe o symbols src kind) := by
  have hlog : s.BoardReads (s.brdLog o kind symbols src) := ⟨rfl, rfl, rfl, fun _ _ => rfl⟩
  have hi := boardIface_lt o
  unfold State.brdCe
  dsimp only
  split
  · exact hlog
  · refine hlog.trans ?_
    obtain ⟨hout, hports, hmarks, hword⟩ :=
      State.BoardReads.count (s.brdLog o kind symbols src) (off := Reg.brdCeCnt (boardIface o)) symbols
        (by unfold Reg.brdCeCnt Reg.brdPage; omega)
    exact ⟨hout, hports, hmarks, hword⟩

theorem State.BoardReads.brdUe (s : State) (o src : Nat) : s.BoardReads (s.brdUe o src) := by
  have hi := boardIface_lt o
  obtain ⟨hout, hports, hmarks, hword⟩ :=
    State.BoardReads.count (s.brdLog o 2 0 src) (off := Reg.brdUeCnt (boardIface o)) 1 (by unfold Reg.brdUeCnt Reg.brdPage; omega)
  exact ⟨hout, hports, hmarks, hword⟩

theorem State.BoardReads.boardUnwritten (s : State) (o src : Nat) : s.BoardReads (s.boardUnwritten o src).1 := by
  have hdrawn : s.BoardReads (s.drawn.drawnN 128) := ⟨rfl, rfl, rfl, fun _ _ => rfl⟩
  unfold State.boardUnwritten
  dsimp only
  split
  · exact hdrawn
  · exact hdrawn.trans (.brdCe ..)
  · exact hdrawn.trans (.brdUe ..)
  · exact hdrawn.trans ⟨rfl, rfl, rfl, fun _ _ => rfl⟩

theorem State.BoardReads.boardDecode (s : State) (o src : Nat) : s.BoardReads (s.boardDecode o src).1 := by
  unfold State.boardDecode
  dsimp only
  split
  · exact .boardUnwritten ..
  · split
    · exact .refl s
    · exact .brdCe ..
    · exact .brdCe ..
    · exact .brdUe ..

theorem State.BoardReads.boardRead (s : State) (o src : Nat) : s.BoardReads (s.boardRead o src).1 := by
  have hissue (l : Lower) : s.BoardReads (s.issue l) := ⟨rfl, rfl, rfl, fun _ _ => rfl⟩
  unfold State.boardRead
  split_ifs
  · exact .refl s
  · exact (hissue _).trans (.boardDecode ..)
  · exact ⟨rfl, rfl, rfl, fun _ _ => rfl⟩

/-- The records of a packet are read of board memory, and nothing else is done. -/
theorem State.BoardReads.tsRecords (s : State) (i n : Nat) : s.BoardReads (s.tsRecords i n).1 := by
  have hstep (l : List Nat) (o : Nat → Nat) (acc : State × List Byte) (h : s.BoardReads acc.1) :
      s.BoardReads (l.foldl (fun (acc : State × List Byte) k =>
        let r := acc.1.boardRead (o k / 128 * 128) 264
        (r.1, acc.2 ++ slice r.2.data (o k % 128) 16)) acc).1 := by
    induction l generalizing acc with
    | nil => exact h
    | cons k l ih => exact ih _ (h.trans (.boardRead ..))
  exact hstep _ (fun k => (s.r64 Reg.gtxTsDevBase).toNat / 16 * 16 + 16 * ((i + k) % 2 ^ s.rf Reg.gtxTsDevCfg 0 5)) (s, [])
    (.refl s)

theorem State.BoardReads.r64 (h : s.BoardReads t) {off : Nat} (ho : 0x84000 ≤ off / 4) : t.r64 off = s.r64 off := by
  rw [State.r64, h.word off ho, h.word (off + 4) (by omega), State.r64]

theorem State.BoardReads.gtxVersion (h : s.BoardReads t) : t.gtxVersion = s.gtxVersion := by
  rw [State.gtxVersion, State.rf, h.word _ (by decide), State.gtxVersion, State.rf]

end

theorem State.w32_gtxVersion (s : State) {off : Nat} (v : Word) (h : blkProtoActive gtxPn / 4 ≠ off / 4) :
    (s.w32 off v).gtxVersion = s.gtxVersion := by
  rw [State.gtxVersion, State.rf_w32, if_neg h, State.gtxVersion]

/-! ## A packet -/

section
variable {s : State}

theorem State.gutexSend_out (s : State) (o : Out) (vl type : Nat) (data : List Byte) : (s.gutexSend o vl type data).out = o :: s.out := rfl
theorem State.gutexSend_r32 (s : State) (o : Out) (vl type : Nat) (data : List Byte) (off : Nat) :
    (s.gutexSend o vl type data).r32 off = s.r32 off := rfl
theorem State.tsNote_out (s : State) : s.tsNote.out = s.out := rfl
theorem State.tsNote_ports (s : State) : s.tsNote.ports = s.ports := rfl
theorem State.tsNote_r32 (s : State) (off : Nat) : s.tsNote.r32 off = s.r32 off := rfl

/-- Where no record waits, no write of GTX_TS_DEV_PROD is kept. -/
theorem State.tsNote_tsFirst (h : s.tsWaiting = 0) : s.tsNote.tsFirst = none := by
  have hnone : s.tsNote.tsMarks = [] := by
    refine List.filter_eq_nil_iff.2 fun m _ => ?_
    rw [h]
    simp
    omega
  rw [State.tsFirst, hnone]
  rfl

/-- What is sent of the records r: a TOKEN packet with the index from Gutex 1.1 on, else DMA writes of records and index. -/
def State.tsSent (s : State) (at_ hp : Nat) (r : List Byte) (prod : Word) : State :=
  if 0x101 ≤ s.gtxVersion then s.gutexSend (.token (BitVec.ofNat 64 at_) r prod (BitVec.ofNat 64 hp)) 2 9 r
  else (s.gutexSend (.dmaWr (BitVec.ofNat 64 at_) false r) 0 6 r).gutexSend
    (.dmaWr (BitVec.ofNat 64 hp) false (bytesLE 4 prod.toNat)) 0 6 (bytesLE 4 prod.toNat)

theorem State.tsSent_r32 (s : State) (at_ hp : Nat) (r : List Byte) (prod : Word) (off : Nat) :
    (s.tsSent at_ hp r prod).r32 off = s.r32 off := by
  unfold State.tsSent
  split <;> rfl

/-- The number of records of the next packet. -/
def State.tsCount (s : State) : Nat := min (min 32 s.tsWaiting) (min s.tsRoom (s.tsSize - s.tsProd % s.tsSize))

/-- Where a record goes that is sent now, and where the index goes behind it. -/
def State.tsAddr (s : State) : Nat := ((s.r64 Reg.gtxTsHostBase).toNat / 16 * 16 + 16 * (s.tsProd % s.tsSize)) % 2 ^ 64
def State.tsIndexAddr (s : State) : Nat := (s.r64 Reg.gtxTsHostProd).toNat / 4 * 4

/-- A packet: its records are read, the producer index passes them, and both are sent. -/
theorem State.tsPacket_eq (hn : s.tsCount ≠ 0) (hup : s.gp0Up = true) :
    s.tsPacket = (((s.tsRecords s.tsProd s.tsCount).1.w32 Reg.gtxTsProd (BitVec.ofNat 32 (s.tsProd + s.tsCount))).tsSent
      s.tsAddr s.tsIndexAddr (s.tsRecords s.tsProd s.tsCount).2 (BitVec.ofNat 32 (s.tsProd + s.tsCount))).tsNote := by
  have hreads := State.BoardReads.tsRecords s s.tsProd s.tsCount
  have hbase := hreads.r64 (off := Reg.gtxTsHostBase) (by decide)
  have hidx : ((s.tsRecords s.tsProd s.tsCount).1.w32 Reg.gtxTsProd (BitVec.ofNat 32 (s.tsProd + s.tsCount))).r64 Reg.gtxTsHostProd
      = s.r64 Reg.gtxTsHostProd := by
    rw [State.r64, State.r32_w32, if_neg (by decide), State.r32_w32, if_neg (by decide)]
    exact hreads.r64 (by decide)
  have hin : ¬ (s.tsCount = 0 ∨ (!s.gp0Up) = true) := by simp [hn, hup]
  rw [State.tsPacket]
  exact (if_neg hin).trans (by rw [State.tsSent, State.tsAddr, State.tsIndexAddr, ← hbase, ← hidx]; rfl)

theorem State.tsPacket_none (h : s.tsCount = 0 ∨ s.gp0Up = false) : s.tsPacket = s := by
  rw [State.tsPacket]
  refine if_pos (h.imp id fun h => ?_)
  rw [h]
  rfl

/-- A packet writes no word of the registers behind the board's but the producer index. -/
theorem State.tsPacket_r32 (s : State) {off : Nat} (hboard : 0x84000 ≤ off / 4) (hprod : off / 4 ≠ Reg.gtxTsProd / 4) :
    s.tsPacket.r32 off = s.r32 off := by
  by_cases hsend : s.tsCount ≠ 0 ∧ s.gp0Up = true
  · obtain ⟨hn, hup⟩ := hsend
    rw [State.tsPacket_eq hn hup, State.tsNote_r32, State.tsSent_r32, State.r32_w32, if_neg hprod]
    exact (State.BoardReads.tsRecords ..).word off hboard
  · rw [State.tsPacket_none (by rw [← Bool.not_eq_true]; tauto)]

theorem State.tsPump_r32 (s : State) (all : Bool) (fuel : Nat) {off : Nat} (hboard : 0x84000 ≤ off / 4)
    (hprod : off / 4 ≠ Reg.gtxTsProd / 4) : (s.tsPump all fuel).r32 off = s.r32 off := by
  induction fuel generalizing s with
  | zero => rfl
  | succ fuel ih =>
    rw [State.tsPump]
    split
    · rfl
    · exact (ih _).trans (s.tsPacket_r32 hboard hprod)

/-- Nothing is sent while GP0 is down, before the device is released, or where no record waits. -/
theorem State.tsPump_idle (all : Bool) (fuel : Nat) (h : s.gp0Up = false ∨ s.released = false ∨ s.tsWaiting = 0) :
    s.tsPump all fuel = s := by
  cases fuel with
  | zero => rfl
  | succ fuel =>
    rw [State.tsPump]
    refine if_pos ?_
    rcases h with h | h | h <;> simp [h]

end

/-! ## The only record that waits is sent -/

section
variable {s : State} (hup : s.gp0Up = true) (hroom : s.tsRoom ≠ 0) (hone : s.tsWaiting = 1)
include hup hroom hone

/-- The record that is sent. -/
def State.tsRecord (s : State) : List Byte := (s.tsRecords s.tsProd 1).2

omit hup in
theorem State.tsCount_one : s.tsCount = 1 := by
  have hsize : 0 < s.tsSize := Nat.two_pow_pos _
  have hlt := Nat.mod_lt s.tsProd hsize
  rw [State.tsCount, hone]
  omega

theorem State.tsPacket_one :
    s.tsPacket = (((s.tsRecords s.tsProd 1).1.w32 Reg.gtxTsProd (BitVec.ofNat 32 (s.tsProd + 1))).tsSent
      s.tsAddr s.tsIndexAddr s.tsRecord (BitVec.ofNat 32 (s.tsProd + 1))).tsNote := by
  have hn := State.tsCount_one hroom hone
  have h := State.tsPacket_eq (s := s) (by rw [hn]; exact one_ne_zero) hup
  rwa [hn] at h

theorem State.tsPacket_prod : s.tsPacket.r32 Reg.gtxTsProd = s.r32 Reg.gtxTsProd + 1 := by
  rw [State.tsPacket_one hup hroom hone, State.tsNote_r32, State.tsSent_r32, State.r32_w32_self, State.tsProd]
  exact BitVec.eq_of_toNat_eq (by simp)

/-- No record waits behind it. -/
theorem State.tsPacket_tsWaiting : s.tsPacket.tsWaiting = 0 := by
  have hdev : s.tsPacket.r32 Reg.gtxTsDevProd = s.r32 Reg.gtxTsDevProd := s.tsPacket_r32 (by decide) (by decide)
  have h : s.r32 Reg.gtxTsDevProd - s.r32 Reg.gtxTsProd = 1 := BitVec.eq_of_toNat_eq hone
  rw [State.tsWaiting, hdev, State.tsPacket_prod hup hroom hone, ← BitVec.sub_sub, h]
  rfl

theorem State.tsPacket_tsFirst : s.tsPacket.tsFirst = none := by
  have hwait := State.tsPacket_tsWaiting hup hroom hone
  rw [State.tsPacket_one hup hroom hone] at hwait ⊢
  exact State.tsNote_tsFirst hwait

theorem State.tsPacket_token (hver : 0x101 ≤ s.gtxVersion) : s.tsPacket.out
    = .token (BitVec.ofNat 64 s.tsAddr) s.tsRecord (BitVec.ofNat 32 (s.tsProd + 1)) (BitVec.ofNat 64 s.tsIndexAddr) :: s.out := by
  have hreads := State.BoardReads.tsRecords s s.tsProd 1
  rw [State.tsPacket_one hup hroom hone, State.tsNote_out, State.tsSent, State.w32_gtxVersion _ _ (by decide), hreads.gtxVersion,
    if_pos hver, State.gutexSend_out, State.w32_out, hreads.out]

theorem State.tsPacket_dma (hver : s.gtxVersion < 0x101) : s.tsPacket.out
    = .dmaWr (BitVec.ofNat 64 s.tsIndexAddr) false (bytesLE 4 (BitVec.ofNat 32 (s.tsProd + 1)).toNat)
      :: .dmaWr (BitVec.ofNat 64 s.tsAddr) false s.tsRecord :: s.out := by
  have hreads := State.BoardReads.tsRecords s s.tsProd 1
  rw [State.tsPacket_one hup hroom hone, State.tsNote_out, State.tsSent, State.w32_gtxVersion _ _ (by decide), hreads.gtxVersion,
    if_neg (Nat.not_le.2 hver), State.gutexSend_out, State.gutexSend_out, State.w32_out, hreads.out]

/-- A flush sends the one packet, and stops. -/
theorem State.tsFlush_one (hrel : s.released = true) : s.tsFlush = s.tsPacket := by
  rw [State.tsFlush, hone, State.tsPump, if_neg (by simp [hup, hrel, hroom, hone])]
  exact State.tsPump_idle _ _ (.inr (.inr (State.tsPacket_tsWaiting hup hroom hone)))

end

theorem State.tsFlushExpiry_due {s : State} {first : Nat} (hfirst : s.tsFirst = some first)
    (hdue : first + (s.r32 Reg.gtxTsFlush).toNat ≤ s.tick) : s.tsFlushExpiry = s.tsFlush := by
  rw [State.tsFlushExpiry, hfirst]
  exact if_pos hdue

/-- What the token stream may change. -/
def tokenFoot : Footprint := { mem := true, regs := true, events := true, ports := true, tokens := true }

theorem tokenFoot_r32 (s t : State) (off : Nat) : (tokenFoot.apply s t).r32 off = t.r32 off :=
  (Footprint.apply_r32 ..).trans (if_pos rfl)
theorem tokenFoot_tsFirst (s t : State) : (tokenFoot.apply s t).tsFirst = t.tsFirst := rfl

/-- A command of the token stream that sends the only record that waits. -/
theorem completes_tsPacket {c : Instr} {s : State} {f : State → State} (hs : Ready s) (hc : exec c s = run tokenFoot f s)
    (hf : f s = s.tsPacket) (hup : s.gp0Up = true) (hroom : s.tsRoom ≠ 0) (hone : s.tsWaiting = 1) {out : List Out}
    (hout : s.tsPacket.out = out) :
    Completes c s fun t => t.r32 Reg.gtxTsProd = s.r32 Reg.gtxTsProd + 1 ∧ t.tsFirst = none ∧ t.out = out := by
  refine completes_run hs hc ?_
  rw [hf, tokenFoot_r32, tokenFoot_tsFirst, Footprint.apply_out]
  exact ⟨State.tsPacket_prod hup hroom hone, State.tsPacket_tsFirst hup hroom hone, hout⟩

/-! ## A ring that stays full -/

theorem State.tsStall_due {s : State} {full : Nat} (hfull : s.tsFull = some (full, false)) (hon : s.r32 Reg.gtxTsStall ≠ 0)
    (hdue : full + (s.r32 Reg.gtxTsStall).toNat ≤ s.tick) :
    s.tsStall = { s with tsFull := some (full, true) }.raise gtxPn 11 10 264 := by
  rw [State.tsStall, hfull]
  exact if_pos ⟨fun h => hon (BitVec.eq_of_toNat_eq h), hdue⟩

theorem State.tsStall_reported {s : State} {full : Nat} (hfull : s.tsFull = some (full, true)) : s.tsStall = s := by
  rw [State.tsStall, hfull]

/-! ## The indices -/

theorem State.tsDevProd_prod (s : State) (v : Word) : (s.tsDevProd v).r32 Reg.gtxTsDevProd = v := by
  rw [State.tsDevProd, State.tsPump_r32 _ _ _ (by decide) (by decide), State.tsNote_r32]
  exact State.r32_w32_self ..

theorem State.tsCons_cons (s : State) (v : Word) : (s.tsCons v).r32 Reg.gtxTsCons = v := by
  rw [State.tsCons, State.tsPump_r32 _ _ _ (by decide) (by decide), State.tsNote_r32]
  exact State.r32_w32_self ..

theorem State.gp0Up_w32 (s : State) {off : Nat} (v : Word) (h : Reg.gtxStat / 4 ≠ off / 4) : (s.w32 off v).gp0Up = s.gp0Up := by
  rw [State.gp0Up, State.rf_w32, if_neg h, State.gp0Up]

theorem State.released_w32 (s : State) {off : Nat} (v : Word) (h : Reg.secBootStat / 4 ≠ off / 4) :
    (s.w32 off v).released = s.released := by
  rw [State.released, State.bootState, State.rf_w32, if_neg h, State.released, State.bootState]

/-- While GP0 is down, or before the device is released, a write of the producer index only notes the records. -/
theorem State.tsDevProd_held {s : State} (v : Word) (h : s.gp0Up = false ∨ s.released = false) :
    s.tsDevProd v = { s.w32 Reg.gtxTsDevProd v with tsMarks := s.tsMarks ++ [(v, s.tick)] }.tsNote := by
  refine State.tsPump_idle _ _ ?_
  rcases h with h | h
  · exact .inl ((s.gp0Up_w32 v (by decide) : _).trans h)
  · exact .inr (.inl ((s.released_w32 v (by decide) : _).trans h))

theorem State.tsCons_held {s : State} (v : Word) (h : s.gp0Up = false) : s.tsCons v = (s.w32 Reg.gtxTsCons v).tsNote :=
  State.tsPump_idle _ _ (.inl ((s.gp0Up_w32 v (by decide) : _).trans h))

/-- Settles O44: the only record that waits is the whole of the packet that a flush sends (`tsPacket_one`), and reading it of board
memory touches nothing of the stream (`BoardReads.tsRecords`). -/
theorem tokenStream : Obligations.TokenStream := by
  unfold Obligations.TokenStream
  refine ⟨?_, ?_, ?_, ?_, ?_, ?_⟩
  · intro s v hs
    refine completes_run hs (exec_gtxTsDevProdWrite v s) ?_
    rw [Footprint.apply_r32, if_pos rfl, State.tsDevProd_prod]
    refine ⟨rfl, fun h => ?_⟩
    rw [State.tsDevProd_held v h, Footprint.apply_out, Footprint.apply_r32, if_pos rfl, Footprint.apply_ports, if_pos rfl,
      State.tsNote_r32]
    exact ⟨rfl, (s.r32_w32 ..).trans (if_neg (by decide)), rfl⟩
  · intro s v hs
    refine completes_run hs (exec_gtxTsConsWrite v s) ?_
    rw [Footprint.apply_r32, if_pos rfl, State.tsCons_cons]
    refine ⟨rfl, fun h => ?_⟩
    rw [State.tsCons_held v h, Footprint.apply_out, Footprint.apply_ports, if_pos rfl]
    exact ⟨rfl, rfl⟩
  · rintro s _ _ _ hs hup hrel hroom hone rfl rfl rfl
    have hflush := State.tsFlush_one hup hroom hone hrel
    exact ⟨fun hver => completes_tsPacket hs (exec_tsFlush s) hflush hup hroom hone (State.tsPacket_token hup hroom hone hver),
      fun hver => completes_tsPacket hs (exec_tsFlush s) hflush hup hroom hone (State.tsPacket_dma hup hroom hone hver)⟩
  · rintro s first _ _ _ hs hup hrel hroom hone hfirst hdue hver rfl rfl rfl
    have hexpiry := (State.tsFlushExpiry_due hfirst hdue).trans (State.tsFlush_one hup hroom hone hrel)
    exact completes_tsPacket hs (exec_tsFlushExpiry s) hexpiry hup hroom hone (State.tsPacket_token hup hroom hone hver)
  · intro s full hs hfull hon hdue
    refine completes_run hs (exec_tsStall s) ?_
    rw [State.tsStall_due hfull hon hdue, Footprint.apply_tsFull, Footprint.apply_evq]
    exact ⟨rfl, rfl⟩
  · intro s full hs hfull
    refine completes_run hs (exec_tsStall s) ?_
    rw [State.tsStall_reported hfull, Footprint.apply_tsFull, Footprint.apply_evq]
    exact ⟨rfl, rfl⟩

end Sys2Proof.Machine
end

section
/-! SUPPORT. What sending leaves of the state: a packet sent changes the egress queue of its port and the count of bytes moved, and
nothing else (R313, R403). Packets that pass the checks of their connection (R312, R314), and the next request of a responder (R328). -/
namespace Sys2Proof.Machine

open Sys2Proof

/-! ## What the transport's commands may change -/

theorem packetFoot_qp (s t : State) (n : Nat) : (packetFoot.apply s t).qp n = t.qp n := rfl
theorem packetFoot_xpt (s t : State) : (packetFoot.apply s t).xpt = t.xpt := rfl
theorem packetFoot_mem (s t : State) : (packetFoot.apply s t).mem = t.mem := rfl
theorem packetFoot_evq (s t : State) : (packetFoot.apply s t).evq = t.evq := rfl
theorem regFoot_qp (s t : State) (n : Nat) : (regFoot.apply s t).qp n = t.qp n := rfl
theorem regFoot_mem (s t : State) : (regFoot.apply s t).mem = t.mem := rfl
theorem regFoot_ports (s t : State) : (regFoot.apply s t).ports = t.ports := rfl

/-- The queue pairs are those of the transport. -/
theorem State.qp_congr {s t : State} (h : t.xpt = s.xpt) (n : Nat) : t.qp n = s.qp n := by rw [State.qp, h, State.qp]

/-! ## Sending -/

/-- t is s with packets sent: what waits at the ports and the bytes counted may differ. -/
def SendsOnly (s t : State) : Prop := ∃ moved ports, t = { s with mem := { s.mem with moved := moved }, ports := ports }

theorem SendsOnly.refl (s : State) : SendsOnly s s := ⟨_, _, rfl⟩

theorem SendsOnly.trans {s t u : State} (h : SendsOnly s t) (g : SendsOnly t u) : SendsOnly s u := by
  obtain ⟨_, _, rfl⟩ := h
  obtain ⟨_, _, rfl⟩ := g
  exact ⟨_, _, rfl⟩

section
variable {s t : State} (h : SendsOnly s t)
include h

theorem SendsOnly.xpt : t.xpt = s.xpt := by obtain ⟨_, _, rfl⟩ := h; rfl
theorem SendsOnly.srv : t.srv = s.srv := by obtain ⟨_, _, rfl⟩ := h; rfl
theorem SendsOnly.regs : t.regs = s.regs := by obtain ⟨_, _, rfl⟩ := h; rfl
theorem SendsOnly.evq : t.evq = s.evq := by obtain ⟨_, _, rfl⟩ := h; rfl
theorem SendsOnly.qp (n : Nat) : t.qp n = s.qp n := by obtain ⟨_, _, rfl⟩ := h; rfl
theorem SendsOnly.r64 (off : Nat) : t.r64 off = s.r64 off := by obtain ⟨_, _, rfl⟩ := h; rfl
theorem SendsOnly.mem : SameStores t.mem s.mem := by obtain ⟨_, _, rfl⟩ := h; rfl

end

theorem sendPacket_sendsOnly (s : State) (n : Nat) (k : Packet) : SendsOnly s (s.sendPacket n k) := by
  unfold State.sendPacket
  dsimp only
  split
  · exact .refl s
  · exact ⟨_, _, rfl⟩

/-- A walk whose every step only sends only sends. -/
theorem State.each_sendsOnly {α : Type} {f : State → α → State} (h : ∀ s x, SendsOnly s (f s x)) (l : List α) (s : State) :
    SendsOnly s (s.each l f) :=
  State.each_keeps (P := SendsOnly s) f l (fun t x _ ht => ht.trans (h t x)) s (.refl s)

theorem sendAeth_sendsOnly (s : State) (n code : Nat) (psn : BitVec 24) (marks : BitVec 128) : SendsOnly s (s.sendAeth n code psn marks) := by
  unfold State.sendAeth
  dsimp only
  split
  · exact .refl s
  · exact sendPacket_sendsOnly ..

theorem sendParts_sendsOnly (s : State) (n : Nat) (psn : BitVec 24) (parts : List (List Byte × Bool)) : SendsOnly s (s.sendParts n psn parts) := by
  unfold State.sendParts
  dsimp only
  split
  · exact .refl s
  · exact State.each_sendsOnly (fun _ _ => sendPacket_sendsOnly ..) _ s

theorem sendAtomic_sendsOnly (s : State) (n : Nat) (psn : BitVec 24) (old : Dword) (poison : Bool) :
    SendsOnly s (s.sendAtomic n psn old poison) := by
  unfold State.sendAtomic
  dsimp only
  split
  · exact .refl s
  · exact sendPacket_sendsOnly ..

/-! ## Acknowledging (R330) -/

@[simp] theorem State.modQp_jobs (s : State) (n : Nat) (f : Qp → Qp) : (s.modQp n f).xpt.jobs = s.xpt.jobs := rfl
@[simp] theorem State.modQp_ovf (s : State) (n : Nat) (f : Qp → Qp) : (s.modQp n f).xpt.cqOvf = s.xpt.cqOvf := rfl

/-- t is s but for what is sent, and for what queue pair n counts as not acknowledged. -/
structure Acked (n : Nat) (s t : State) : Prop where
  qp : ∃ a e, t.qp n = { s.qp n with unacked := a, ece := e }
  jobs : t.xpt.jobs = s.xpt.jobs
  ovf : t.xpt.cqOvf = s.xpt.cqOvf
  mem : SameStores t.mem s.mem

theorem Acked.refl (n : Nat) (s : State) : Acked n s s := ⟨⟨_, _, rfl⟩, rfl, rfl, rfl⟩

theorem ackNow_acked (s : State) (n : Nat) (always : Bool) : Acked n s (s.ackNow n always) := by
  unfold State.ackNow
  dsimp only
  split
  · exact .refl n s
  · have hsent := sendAeth_sendsOnly s n
    exact ⟨⟨0, false, by rw [State.modQp_self, (hsent ..).qp]⟩, by rw [State.modQp_jobs, (hsent ..).xpt],
      by rw [State.modQp_ovf, (hsent ..).xpt], (hsent ..).mem⟩

theorem ackPolicy_acked (s : State) (n : Nat) (k : Packet) : Acked n s (s.ackPolicy n k) := by
  unfold State.ackPolicy
  split
  · exact ackNow_acked ..
  · exact .refl n s

/-! ## The next request (R328) -/

/-- At queue pair n, PSN psn is the next, nothing lies above it, and no message accepted waits for its completion. -/
structure NextAt (s : State) (n : Nat) (psn : BitVec 24) : Prop where
  epsn : (s.qp n).epsn = psn
  ahead : (s.qp n).ahead = []
  recv : ∀ m ∈ (s.qp n).recv, m.last = none
  rsigs : (s.qp n).rsigs = []

/-- The queue pair once k PSNs from the next on are received. -/
def Qp.past (q : Qp) (psn : BitVec 24) (k : Nat) (ce : Bool) : Qp :=
  { q with epsn := psn + BitVec.ofNat 24 k, ahead := [], nakSeq := false, unacked := q.unacked + 1, ece := q.ece || ce }

theorem passed_none {s : State} {n : Nat} (hrecv : ∀ m ∈ (s.qp n).recv, m.last = none) (hrsigs : (s.qp n).rsigs = []) (fuel : Nat) :
    s.passed n fuel = s := by
  cases fuel with
  | zero => rfl
  | succ fuel =>
    have hm : ((s.qp n).recv.find? fun m => m.index == (s.qp n).rqDone).bind (fun m =>
        m.last.bind fun l => if seqLt l (s.qp n).epsn then some (m, l) else none) = none := by
      cases hf : (s.qp n).recv.find? fun m => m.index == (s.qp n).rqDone with
      | none => rfl
      | some m => simp [hrecv m (List.mem_of_find?_eq_some hf)]
    unfold State.passed
    dsimp only
    rw [hm, hrsigs]
    rfl

theorem received_next {s : State} {n : Nat} {psn : BitVec 24} (h : NextAt s n psn) (k : Nat) (ce : Bool) :
    s.received n psn k ce = s.modQp n fun q => q.past psn k ce := by
  have hmod : (s.modQp n fun q =>
      if q.epsn = psn then
        let e := advancePsn 128 (psn + BitVec.ofNat 24 k) q.ahead
        { q with epsn := e, ahead := q.ahead.filter fun p => seqLt e p, nakSeq := false, unacked := q.unacked + 1, ece := q.ece || ce }
      else { q with ahead := q.ahead ++ [psn], unacked := q.unacked + 1, ece := q.ece || ce }) = s.modQp n fun q => q.past psn k ce := by
    unfold State.modQp
    dsimp only
    rw [if_pos h.epsn, h.ahead]
    rfl
  rw [State.received, hmod, passed_none]
  · rw [State.modQp_self]; exact h.recv
  · rw [State.modQp_self]; exact h.rsigs

/-- The next request is consumed: ePSN passes it, and nothing is completed. -/
theorem consumed_next {s : State} {n : Nat} {psn : BitVec 24} (h : NextAt s n psn) (c : Nat) (ce : Bool) (k : Packet) :
    Acked n (s.modQp n fun q => q.past psn c ce) ((s.received n psn c ce).ackPolicy n k) := by
  rw [received_next h]
  exact ackPolicy_acked ..

theorem takePacket_passes {s : State} {p op : Nat} {k : Packet} (h : Passes s p op k) (hcm : op ≠ 0xA) (hop : opReserved op = false)
    (f : State → Nat → State) : s.takePacket p op k f = f (takenIn s k) k.dstQpn.toNat := by
  obtain ⟨-, hopcode, -, -, hport, hdev, hcrc, hip, hver, h0, h1, h6, hsrc, hqpn, hkey, -⟩ := h
  have hne : (k.opcode == 0xA) = false := by
    rw [beq_eq_false_iff_ne]
    rintro he
    exact hcm (hopcode.symm.trans (by rw [he]; rfl))
  have haddr : ¬ (s.ethernet p = true ∧ (!s.addressed p k) = true) := fun ⟨he, ha⟩ => by simp [hip he] at ha
  unfold State.takePacket
  dsimp only
  rw [hne, if_neg (by simp [hopcode, hport]), if_neg (by simp_all [Qp.peerDev]), if_neg (by simp [hkey]), hopcode, hop]
  rfl

/-- An answer that passes is given to its operation. -/
theorem takeAnswer_passes {s : State} {p op : Nat} {k : Packet} (h : Passes s p op k) (hcm : op ≠ 0xA) (hop : opReserved op = false)
    (f : State → Nat → State) : s.takeAnswer p op k f = (f (takenIn s k) k.dstQpn.toNat).xptEnd := by
  have hrsv : k.rsv = 0 := h.2.2.1
  rw [State.takeAnswer, takePacket_passes h hcm hop, if_neg (by simp [hrsv])]

/-- The next request is given to its operation as new. -/
theorem request_next {s : State} {p op : Nat} {k : Packet} (h : NextRequest s p op k) (hcm : op ≠ 0xA) (hop : opReserved op = false)
    (placeable : Bool) (new dup : State → Nat → State) :
    s.request p op k placeable new dup = (new (takenIn s k) k.dstQpn.toNat).xptEnd := by
  obtain ⟨hpass, hshut, hver, hpsn, -⟩ := h
  have hrsv : k.rsv = 0 := hpass.2.2.1
  have hq : (takenIn s k).qp k.dstQpn.toNat = s.qp k.dstQpn.toNat := rfl
  have hnew : (s.qp k.dstQpn.toNat).classify k.psn placeable = .new := by simp [Qp.classify, hpsn]
  rw [State.request, takePacket_passes hpass hcm hop]
  dsimp only
  rw [hq, hshut, if_neg (by simp), if_neg (by simp [hrsv]; omega), hnew]

end Sys2Proof.Machine
end

section
/-! SUPPORT. The requester: sequence numbers, the window, send WQEs that wait or complete, and acknowledgements (R323 to R332). -/
namespace Sys2Proof.Machine

open Sys2Proof

/-! ## Sequence numbers -/

theorem seqLe_self (a : BitVec 24) : seqLe a a = true := by simp [seqLe]

theorem seqLt_self (a : BitVec 24) : seqLt a a = false := by simp [seqLt]

theorem sub_add_ofNat (a : BitVec 24) {c : Nat} (h : c < 2 ^ 24) : (a + BitVec.ofNat 24 c - a).toNat = c := by
  bv_omega

theorem seqLt_add (a : BitVec 24) {c : Nat} (h : 0 < c) (h' : c < 2 ^ 23) : seqLt a (a + BitVec.ofNat 24 c) = true := by
  simp only [seqLt, sub_add_ofNat a (c := c) (by omega), h, h']
  rfl

/-- What lies further on, by less than half of the sequence, does not lie before. -/
theorem seqLe_add_of_lt (a : BitVec 24) {c d : Nat} (h : d < c) (h' : c < 2 ^ 23) :
    seqLe (a + BitVec.ofNat 24 c) (a + BitVec.ofNat 24 d) = false := by
  have hdist : (a + BitVec.ofNat 24 d - (a + BitVec.ofNat 24 c)).toNat = 2 ^ 24 - (c - d) := by bv_omega
  have hne : a + BitVec.ofNat 24 c ≠ a + BitVec.ofNat 24 d := by bv_omega
  simp only [seqLe, seqLt, hdist, beq_eq_false_iff_ne.mpr hne, Bool.false_or, Bool.and_eq_false_iff, decide_eq_false_iff_not]
  omega

/-! ## The window and the WQEs that have started (R323, R327) -/

theorem Qp.endPsn_nil {q : Qp} (h : q.wqes = []) : q.endPsn = q.npsn := by simp [Qp.endPsn, h]

theorem Qp.endPsn_single {q : Qp} {w : Wqe} (h : q.wqes = [w]) : q.endPsn = w.psn + BitVec.ofNat 24 w.count := by simp [Qp.endPsn, h]

section
variable {s : State} {n : Nat}

/-- The first WQE is not answered yet, and none behind it completes. -/
theorem completeLoop_waits {w : Wqe} {ws : List Wqe} (hw : (s.qp n).wqes = w :: ws) (hfail : w.fail = 0)
    (hopen : seqLe (w.psn + BitVec.ofNat 24 w.count) (s.qp n).una = false) (fuel : Nat) : s.completeLoop n fuel = s := by
  cases fuel with
  | zero => rfl
  | succ fuel => simp [State.completeLoop, hw, hfail, hopen]

theorem completeLoop_idle (hw : (s.qp n).wqes = []) (h4 : (s.qp n).state ≠ 4) (fuel : Nat) : s.completeLoop n fuel = s := by
  cases fuel with
  | zero => rfl
  | succ fuel => simp [State.completeLoop, hw, h4]

/-- Everything that has started has been sent. -/
theorem pump_done (h : (s.qp n).npsn = (s.qp n).endPsn) (fuel : Nat) : s.pump n fuel = s := by
  cases fuel with
  | zero => rfl
  | succ fuel => simp [State.pump, h]

theorem progress_eq (s : State) (n : Nat) : s.progress n =
    ((s.completeLoop n ((s.qp n).wqes.length + 1)).pump n 4097).completeLoop n
      ((((s.completeLoop n ((s.qp n).wqes.length + 1)).pump n 4097).qp n).wqes.length + 1) := rfl

theorem progress_waits {w : Wqe} {ws : List Wqe} (hw : (s.qp n).wqes = w :: ws) (hfail : w.fail = 0)
    (hopen : seqLe (w.psn + BitVec.ofNat 24 w.count) (s.qp n).una = false) (hend : (s.qp n).npsn = (s.qp n).endPsn) :
    s.progress n = s := by
  have hloop := completeLoop_waits hw hfail hopen
  rw [progress_eq, hloop, pump_done hend, hloop]

theorem progress_idle (hw : (s.qp n).wqes = []) (h4 : (s.qp n).state ≠ 4) : s.progress n = s := by
  have hloop := completeLoop_idle hw h4
  rw [progress_eq, hloop, pump_done (Qp.endPsn_nil hw).symm, hloop]

end

/-! ## Completion without CQE and signals (R325) -/

/-- Send WQE i has completed. -/
def Qp.doneAt (q : Qp) (i : Word) : Qp :=
  { q with sqDone := i + 1, wqes := q.wqes.filter fun x => x.index != i, sqHead := if wrapDist q.sqHead q.sqDone = 0 then i + 1 else q.sqHead }

theorem sendSig_zero (s : State) (err : Bool) : s.sendSig 0 err = s := by
  simp [State.sendSig]

/-- A WQE that asks for no CQE and names no signal completes. -/
theorem finishSend_silent (s : State) (n : Nat) (i : Word) {words : List Dword} (w : Option Wqe) {st : Nat} (hst : st = 0 ∨ st = 1)
    (hcqe : fld (nth 0 words 0) 8 1 = 0) (hsig : nth 0 words 4 = 0) : s.finishSend n i words w st = s.modQp n fun q => q.doneAt i := by
  have hgood : (st == 0 || st == 1) = true := by simp [hst]
  have hzero (lo : Nat) : fld (0 : Dword) lo 32 = 0 := by simp [fld]
  rw [State.finishSend, hgood, if_pos rfl, if_neg (by omega), hsig, hzero, hzero, sendSig_zero, sendSig_zero]
  rfl

/-- The only WQE completes once everything of it is acknowledged. -/
theorem progress_completes {s : State} {n : Nat} {w : Wqe} (hw : (s.qp n).wqes = [w]) (hfail : w.fail = 0) (hstale : w.stale = false)
    (hdone : seqLe (w.psn + BitVec.ofNat 24 w.count) (s.qp n).una = true) (hcqe : fld (nth 0 w.words 0) 8 1 = 0)
    (hsig : nth 0 w.words 4 = 0) (h4 : (s.qp n).state ≠ 4) : s.progress n = s.modQp n fun q => q.doneAt w.index := by
  have hst : (if w.stale then 9 else if w.poison then 1 else 0) = 0 ∨ (if w.stale then 9 else if w.poison then 1 else 0) = 1 := by
    cases hp : w.poison <;> simp [hstale]
  have hq := State.modQp_self s n fun q => q.doneAt w.index
  have hnone : ((s.modQp n fun q => q.doneAt w.index).qp n).wqes = [] := by rw [hq, Qp.doneAt, hw]; simp
  have hidle := completeLoop_idle hnone (by rw [hq]; exact h4)
  have hloop : s.completeLoop n ((s.qp n).wqes.length + 1) = s.modQp n fun q => q.doneAt w.index := by
    rw [State.completeLoop, hw]
    dsimp only
    rw [if_neg (by omega), if_pos hdone, finishSend_silent _ _ _ _ hst hcqe hsig]
    exact hidle _
  rw [progress_eq, hloop, pump_done (Qp.endPsn_nil hnone).symm, hidle]

/-! ## Acknowledgements (R330, R332) -/

/-- The queue pair once UNA has advanced to a PSN, with a window of its own. -/
def Qp.ackedTo (q : Qp) (psn : BitVec 24) (cwnd ssthresh : Nat) (recover : BitVec 24) (tick : Nat) : Qp :=
  { q with una := psn, cwnd := cwnd, ssthresh := ssthresh, recover := recover, retries := 0, rnrs := 0, timerMul := 1, timerAt := tick }

/-- Only the window grows. -/
theorem Qp.grow_window (q : Qp) (cfg : Word) (k : Nat) (ece : Bool) :
    ∃ c t r, q.grow cfg k ece = { q with cwnd := c, ssthresh := t, recover := r } := by
  unfold Qp.grow
  dsimp only
  split
  · exact ⟨_, _, _, rfl⟩
  · split
    · exact ⟨_, _, _, rfl⟩
    · exact ⟨_, _, _, rfl⟩

/-- UNA advances by d to a PSN where nothing is awaited before it. -/
theorem ackTo_advances {s : State} {n d : Nat} {psn : BitVec 24} (hpsn : psn = (s.qp n).una + BitVec.ofNat 24 d) (hd : 0 < d) (hlt : d < 2 ^ 23)
    (hsent : d ≤ ((s.qp n).npsn - (s.qp n).una).toNat)
    (hawaited : ∀ c ∈ ((s.qp n).wqes.filterMap fun w => w.unanswered (s.qp n)).head?, c = psn) (ece : Bool) :
    ∃ c t r tick, s.ackTo n psn ece = s.modQp n fun q => q.ackedTo psn c t r tick := by
  have hdist : (psn - (s.qp n).una).toNat = d := by rw [hpsn, sub_add_ofNat _ (by omega)]
  have hfirst : ((s.qp n).wqes.filterMap fun w => w.unanswered (s.qp n)) = []
      ∨ ∃ cs, ((s.qp n).wqes.filterMap fun w => w.unanswered (s.qp n)) = psn :: cs := by
    cases hl : (s.qp n).wqes.filterMap fun w => w.unanswered (s.qp n) with
    | nil => exact .inl rfl
    | cons c cs => exact .inr ⟨cs, by rw [hawaited c (by rw [hl]; rfl)]⟩
  obtain ⟨c, t, r, hgrow⟩ := Qp.grow_window { s.qp n with una := psn } (s.r32 Reg.xptCcCfg) d ece
  refine ⟨c, t, r, s.tick, ?_⟩
  rw [State.ackTo]
  dsimp only
  have hset := congrArg (fun q : Qp => s.setQp n { q with retries := 0, rnrs := 0, timerMul := 1, timerAt := s.tick }) hgrow
  rw [if_neg (by omega)]
  rcases hfirst with hl | ⟨cs, hl⟩
  · rw [hl]
    dsimp only
    rw [hdist, if_neg (by omega)]
    exact hset
  · rw [hl]
    dsimp only
    simp only [ite_self, hdist]
    rw [if_neg (by omega)]
    exact hset

/-! ## Replies of several parts (R335, R352) -/

theorem modWqe_single {s : State} {n : Nat} {w : Wqe} (hw : (s.qp n).wqes = [w]) (f : Wqe → Wqe) :
    s.modWqe n w.index f = s.modQp n fun q => { q with wqes := [f w] } := by
  rw [State.modWqe, State.modQp, State.modQp, hw]
  simp

section
variable {w : Wqe} {q : Qp} (hgot : w.got = [0])
include hgot

theorem Wqe.answered_first {c : Nat} (hparts : w.parts q = (c, 0)) : w.answered q = w.psn + 1 := by
  simp [Wqe.answered, hparts, hgot]

/-- With its first part received, a WQE awaits the second. -/
theorem Wqe.unanswered_second (hparts : w.parts q = (w.count, 0)) (hstale : w.stale = false) (hcount : 2 ≤ w.count) :
    w.unanswered q = some (w.psn + 1) := by
  have hfind : (List.range w.count).find? (fun i => !([0] : List Nat).contains i) = some 1 := by
    rw [List.find?_range_eq_some]
    refine ⟨rfl, List.mem_range.mpr hcount, fun j hj => ?_⟩
    rw [show j = 0 by omega]
    rfl
  rw [Wqe.unanswered, if_neg (by simp [hstale]), hparts, hgot, hfind]
  rfl

end

/-- The first of several parts of a reply is acknowledged; its WQE, the only one, awaits the others. -/
theorem firstPart_acked {s : State} {n : Nat} {w : Wqe} (hw : (s.qp n).wqes = [w]) (hgot : w.got = [0]) (hfail : w.fail = 0)
    (hstale : w.stale = false) (hparts : w.parts (s.qp n) = (w.count, 0)) (hcount : 2 ≤ w.count) (hlt : w.count < 2 ^ 22)
    (huna : (s.qp n).una = w.psn) (hnpsn : (s.qp n).npsn = w.psn + BitVec.ofNat 24 w.count) :
    ∃ c t r tick, (s.ackTo n (w.psn + 1) false).progress n = s.modQp n fun q => q.ackedTo (w.psn + 1) c t r tick := by
  have hsecond := Wqe.unanswered_second hgot hparts hstale hcount
  obtain ⟨c, t, r, tick, hack⟩ := ackTo_advances (s := s) (n := n) (d := 1) (psn := w.psn + 1) (by rw [huna]; rfl) (by omega) (by omega)
    (by rw [hnpsn, huna, sub_add_ofNat _ (by omega)]; omega) (by rw [hw]; simp [hsecond]) false
  have hq := State.modQp_self s n fun q => q.ackedTo (w.psn + 1) c t r tick
  refine ⟨c, t, r, tick, ?_⟩
  rw [hack]
  refine progress_waits (w := w) (ws := []) (by rw [hq]; exact hw) hfail ?_ ?_
  · rw [hq]
    exact seqLe_add_of_lt w.psn (c := w.count) (d := 1) (by omega) (by omega)
  · rw [hq]
    exact hnpsn.trans (Qp.endPsn_single (q := (s.qp n).ackedTo (w.psn + 1) c t r tick) hw).symm

end Sys2Proof.Machine
end

section
/-! SUPPORT. Send WQEs that start, and the statement about them (R323, R327). -/
namespace Sys2Proof.Machine

open Sys2Proof

/-- However a WQE starts, its words are those read and its PSNs follow those of the WQEs before it. -/
theorem makeWqe_start (s : State) (n : Nat) (v : List Dword) : (s.makeWqe n v).2.words = v ∧ (s.makeWqe n v).2.psn = (s.qp n).endPsn := by
  unfold State.makeWqe
  dsimp only
  split
  · exact ⟨rfl, rfl⟩
  · split
    · split <;> exact ⟨rfl, rfl⟩
    · exact ⟨rfl, rfl⟩

theorem readSq_xpt (s : State) (n : Nat) (i : Word) : (s.readSq n i).1.xpt = s.xpt := by
  unfold State.readSq
  dsimp only
  split
  · exact (vSpanRead_keeps ..).xpt rfl
  · exact (vSpanRead_keeps ..).xpt rfl

/-! ## The packet of a WQE that starts (R327) -/

/-- Nothing has been sent from a WQE's first PSN on, so that none of its operation is outstanding. -/
theorem Qp.outstanding_unsent {q : Qp} {w : Wqe} (hw : q.wqes = [w]) (hpsn : w.psn = q.npsn) (op : Nat) : q.outstanding op = 0 := by
  simp [Qp.outstanding, hw, hpsn, seqLt_self]

/-- Queue pair n stands in RTS with its window open, and w, of one request packet, is the only WQE; nothing of it is sent. -/
structure Unsent (s : State) (n : Nat) (w : Wqe) : Prop where
  wqes : (s.qp n).wqes = [w]
  state : (s.qp n).state = 3
  rnrWait : (s.qp n).rnrWait = none
  una : (s.qp n).una = (s.qp n).npsn
  cwnd : 256 ≤ (s.qp n).cwnd
  wndMax : 1 ≤ (s.qp n).wndMax
  fail : w.fail = 0
  psn : w.psn = (s.qp n).npsn
  requests : w.requests (s.qp n) = 1
  pos : 0 < w.count
  lt : w.count < 2 ^ 23

/-- A packet of count PSNs has been sent, at a tick. -/
def Qp.sentTo (q : Qp) (count tick : Nat) : Qp := { q with npsn := q.npsn + BitVec.ofNat 24 count, timerAt := tick }

section
variable {s s2 : State} {n : Nat} {w : Wqe} {k : Packet} (h : Unsent s n w)
include h

theorem Unsent.find : (s.qp n).wqes.find? (fun w => w.holds (s.qp n).npsn) = some w := by
  rw [h.wqes, List.find?_cons_of_pos]
  simp [Wqe.holds, h.psn, h.pos]

/-- The window lets its packet go. -/
theorem Unsent.open : ¬ ((!(s.qp n).requests) = true ∨ (s.qp n).rnrWait.isSome = true ∨ (s.qp n).npsn = (s.qp n).endPsn
    ∨ min ((s.qp n).cwnd / 256) (s.qp n).wndMax ≤ ((s.qp n).npsn - (s.qp n).una).toNat
    ∨ ((s.qp n).wqes.any fun w => w.fail != 0) = true) := by
  have hend : (s.qp n).npsn ≠ (s.qp n).endPsn := by
    rw [Qp.endPsn_single h.wqes, h.psn]
    have hpos := h.pos
    have hlt := h.lt
    bv_omega
  have hcwnd : 1 ≤ (s.qp n).cwnd / 256 := by have := h.cwnd; omega
  have hmax := h.wndMax
  simp [Qp.requests, h.state, h.rnrWait, hend, h.una, h.wqes, h.fail]
  omega

/-- Its WQE is not answered. -/
theorem Unsent.unanswered : seqLe (w.psn + BitVec.ofNat 24 w.count) (s.qp n).una = false := by
  have hopen := seqLe_add_of_lt w.psn (d := 0) h.pos h.lt
  rwa [show w.psn + BitVec.ofNat 24 0 = (s.qp n).una by rw [h.una, h.psn]; exact BitVec.add_zero _] at hopen

/-- Its packet is sent, and then everything that has started is. -/
theorem Unsent.progress (hpacket : s.wqePacket n w 0 = (s2, some k)) (hxpt : s2.xpt = s.xpt) :
    ∃ tick, s.progress n = (s2.sendPacket n k).modQp n fun q => q.sentTo w.count tick := by
  have hqp : (s2.sendPacket n k).qp n = s.qp n := ((sendPacket_sendsOnly ..).qp n).trans (State.qp_congr hxpt n)
  have hzero : ((s.qp n).npsn - w.psn).toNat = 0 := by simp [h.psn]
  have hsent : s.sendPart n w 0 = s2.sendPacket n k := by rw [State.sendPart, hpacket]
  refine ⟨(s2.sendPacket n k).tick, ?_⟩
  obtain ⟨t, ht⟩ : ∃ t, t = (s2.sendPacket n k).modQp n fun q => q.sentTo w.count (s2.sendPacket n k).tick := ⟨_, rfl⟩
  have htq : t.qp n = (s.qp n).sentTo w.count (s2.sendPacket n k).tick := by rw [ht, State.modQp_self, hqp]
  have htw : (t.qp n).wqes = [w] := by rw [htq]; exact h.wqes
  have hend : (t.qp n).npsn = (t.qp n).endPsn := by
    rw [Qp.endPsn_single htw, htq, h.psn]
    rfl
  have hpump : s.pump n 4097 = t := by
    rw [show (4097 : Nat) = 4096 + 1 from rfl, State.pump]
    dsimp only
    rw [if_neg h.open, h.find]
    dsimp only
    rw [if_neg (by simp [Qp.outstanding_unsent h.wqes h.psn]), hzero, hsent, hqp, if_neg (by simp [h.wqes, h.fail]),
      if_pos h.requests.symm]
    refine Eq.trans (congrArg (fun u => State.pump u n 4096) ?_) (pump_done hend 4096)
    rw [ht, State.modQp, State.modQp, hqp, if_pos h.una]
    rfl
  rw [progress_eq, completeLoop_waits h.wqes h.fail h.unanswered, hpump,
    completeLoop_waits htw h.fail (by rw [htq]; exact h.unanswered), ht]

end

/-! ## The start -/

/-- The queue pair with its next WQE started: SQ_HEAD has passed it, and a SEND has taken a message number. -/
theorem withWqe_qp (s : State) (n : Nat) (w : Wqe) :
    ∃ msn, (withWqe s n w).qp n = { s.qp n with wqes := (s.qp n).wqes ++ [w], sqHead := (s.qp n).sqHead + 1, msn := msn } := by
  rw [withWqe]
  split
  · exact ⟨(s.qp n).msn + 1, by rw [State.modQp_self, State.modQp_self]⟩
  · exact ⟨(s.qp n).msn, by rw [State.modQp_self]⟩

theorem withWqe_ovf (s : State) (n : Nat) (w : Wqe) : (withWqe s n w).xpt.cqOvf = s.xpt.cqOvf := by
  rw [withWqe]
  split <;> rfl

section
variable {s : State} {n op : Nat} {v : List Dword} {w : Wqe} {s1 s2 : State} {k : Packet} (h : Posted s n op v w s1 s2 k)
include h

theorem unsent_withWqe : Unsent (withWqe s1 n w) n w := by
  obtain ⟨-, -, hstate, -, hnone, -, huna, hrnr, hcwnd, hmax, -, -, -, -, hmake, hxpt, hfail, hreq, hpos, hlt, -, -⟩ := h
  have hread : (s.readSq n (s.qp n).sqHead).1.qp n = s.qp n := State.qp_congr (readSq_xpt ..) n
  have hpsn : w.psn = (s.qp n).npsn := by
    have hstart := (makeWqe_start (s.readSq n (s.qp n).sqHead).1 n v).2
    rwa [hmake, hread, Qp.endPsn_nil hnone] at hstart
  obtain ⟨msn, hq⟩ := withWqe_qp s1 n w
  rw [State.qp_congr hxpt n, hnone] at hq
  constructor
  case fail => exact hfail
  case pos => exact hpos
  case lt => exact hlt
  all_goals rw [hq]
  case wqes => rfl
  case state => exact hstate
  case rnrWait => exact hrnr
  case una => exact huna
  case cwnd => exact hcwnd
  case wndMax => exact hmax
  case psn => exact hpsn
  case requests => exact hreq

/-- The command of its operation starts the WQE. -/
theorem startWqe_posted (hop : op ∈ [opSend, opWrite, opRead, opAtomic, opAdd, opRake]) :
    s.startWqe n op = ((withWqe s1 n w).progress n).xptEnd := by
  obtain ⟨-, hn, hstate, htrip, hnone, hhead, -, -, -, -, -, hread, hwop, hkind, hmake, -, -⟩ := h
  have hwords : w.words = v := by
    have hstart := (makeWqe_start (s.readSq n (s.qp n).sqHead).1 n v).1
    rwa [hmake] at hstart
  have hcommand : ¬ (if [opWrite, opRead, opAtomic, opAdd, opRake].contains op then op ≠ op else op ≠ opSend) := by
    fin_cases hop <;> decide
  rw [State.startWqe]
  dsimp only
  rw [if_neg (by simp [hstate, htrip, hhead, hnone]), hread]
  dsimp only
  rw [hwop, if_neg (by simp only [hcommand, hkind, hnone]; simp), hmake]
  dsimp only
  rw [if_neg (by simp [hn]), withWqe, hwords, hwop]

theorem posted_sent {c : Instr} (hc : exec c s = run packetFoot (fun s => s.startWqe n op) s)
    (hop : op ∈ [opSend, opWrite, opRead, opAtomic, opAdd, opRake]) : Completes c s (Sent s n w s2 k) := by
  have hunsent := unsent_withWqe h
  have hstart := startWqe_posted h hop
  obtain ⟨hready, -, -, -, hnone, -, -, -, -, -, hovf, -, -, -, -, hxpt, -, -, -, -, hpacket, hxpt2⟩ := h
  obtain ⟨tick, hprog⟩ := hunsent.progress hpacket hxpt2
  obtain ⟨msn, hq⟩ := withWqe_qp s1 n w
  rw [State.qp_congr hxpt n, hnone] at hq
  obtain ⟨u, hu⟩ : ∃ u, u = (s2.sendPacket n k).modQp n fun q => q.sentTo w.count tick := ⟨_, rfl⟩
  have huq : u.qp n = ((withWqe s1 n w).qp n).sentTo w.count tick := by
    rw [hu, State.modQp_self, (sendPacket_sendsOnly ..).qp, State.qp_congr hxpt2]
  have huovf : u.xpt.cqOvf = [] := by
    rw [hu, State.modQp_ovf, (sendPacket_sendsOnly ..).xpt, hxpt2, withWqe_ovf, hxpt, hovf]
  refine completes_run hready hc ?_
  rw [hstart, hprog, ← hu, xptEnd_none huovf]
  refine ⟨?_, ?_, ?_, ?_⟩
  · rw [packetFoot_qp, huq, hq]; rfl
  · rw [packetFoot_qp, huq, hq]; rfl
  · rw [packetFoot_qp, huq, hq]; rfl
  · rw [hu]; rfl

end

/-- Settles O46: the start of a WQE leaves it with its only packet unsent, and the window lets that packet go. -/
theorem workRequestsStart : Obligations.WorkRequestsStart := by
  unfold Obligations.WorkRequestsStart
  intro s n v w s1 s2 k
  exact ⟨fun h => posted_sent h (exec_sendWqe n s) (by decide), fun h => posted_sent h (exec_writeWqe n s) (by decide),
    fun h => posted_sent h (exec_readWqe n s) (by decide), fun h => posted_sent h (exec_atomicWqe n s) (by decide),
    fun h => posted_sent h (exec_addWriteWqe n s) (by decide), fun h => posted_sent h (exec_rakeWqe n s) (by decide)⟩

end Sys2Proof.Machine
end

section
/-! SUPPORT. Replies and acknowledgements at the requester, and the statement about them (R327, R330, R335, R336, R352). -/
namespace Sys2Proof.Machine

open Sys2Proof

/-- w, of operation op, is the only WQE of a queue pair; all of it has been sent, and nothing of it is acknowledged. -/
structure OnlyWqe (q : Qp) (op : Nat) (w : Wqe) : Prop where
  wqes : q.wqes = [w]
  opcode : wqOp w.words = op
  fail : w.fail = 0
  stale : w.stale = false
  una : q.una = w.psn
  npsn : q.npsn = w.psn + BitVec.ofNat 24 w.count
  pos : 0 < w.count
  lt : w.count < 2 ^ 22

theorem OnlyWqe.find {q : Qp} {op : Nat} {w : Wqe} (h : OnlyWqe q op w) :
    q.wqes.find? (fun x => wqOp x.words == op && x.holds w.psn && seqLt x.psn q.npsn) = some w := by
  have hlt := h.lt
  rw [h.wqes, List.find?_cons_of_pos]
  simp [Wqe.holds, h.opcode, h.pos, h.npsn, seqLt_add w.psn h.pos (by omega)]

/-- PSNs that have been sent, from UNA on. -/
theorem OnlyWqe.sent {q : Qp} {op : Nat} {w : Wqe} (h : OnlyWqe q op w) : (q.npsn - q.una).toNat = w.count := by
  have hlt := h.lt
  rw [h.npsn, h.una, sub_add_ofNat _ (by omega)]

/-! ## The first part of a reply of several (R335, R352) -/

/-- The WQE with the first part of its reply received, in its gather slot where it has one. -/
def Wqe.withFirst (w : Wqe) (slot : Option Nat) (poison : Bool) : Wqe := { w with slot := slot, got := [0], poison := w.poison || poison }

/-- The queue pair, in u, with the first part of the reply of its only WQE received and acknowledged. -/
def FirstReceived (u : State) (n : Nat) (w : Wqe) (slot : Option Nat) (poison : Bool) (t : State) : Prop :=
  ∃ c th r tick, t = (u.modQp n fun q => { q with wqes := [w.withFirst slot poison] }).modQp n fun q => q.ackedTo (w.psn + 1) c th r tick

theorem FirstReceived.leaves {u t : State} {n : Nat} {w : Wqe} {slot : Option Nat} {poison : Bool} (h : FirstReceived u n w slot poison t) :
    (t.qp n).wqes = [w.withFirst slot poison] ∧ (t.qp n).una = w.psn + 1 ∧ t.mem = u.mem ∧ t.xpt.cqOvf = u.xpt.cqOvf := by
  obtain ⟨c, th, r, tick, rfl⟩ := h
  rw [State.modQp_self, State.modQp_self]
  exact ⟨rfl, rfl, rfl, rfl⟩

/-- A part marked as received in u is acknowledged, and nothing completes. -/
theorem firstReceived {u : State} {n op : Nat} {w : Wqe} {slot : Option Nat} {poison : Bool} (h : OnlyWqe (u.qp n) op w)
    (hparts : w.parts (u.qp n) = (w.count, 0)) (hcount : 2 ≤ w.count) {f : Wqe → Wqe} (hf : f w = w.withFirst slot poison)
    {psn : BitVec 24} (hpsn : psn = w.psn + 1) :
    FirstReceived u n w slot poison (((u.modWqe n w.index f).ackTo n psn false).progress n) := by
  have hq : ((u.modWqe n w.index f).qp n) = { u.qp n with wqes := [w.withFirst slot poison] } := by
    rw [modWqe_single h.wqes, State.modQp_self, hf]
  obtain ⟨c, th, r, tick, hprog⟩ := firstPart_acked (s := u.modWqe n w.index f) (n := n) (w := w.withFirst slot poison) (by rw [hq]) rfl
    h.fail h.stale (by rw [hq]; exact hparts) hcount h.lt (by rw [hq]; exact h.una) (by rw [hq]; exact h.npsn)
  refine ⟨c, th, r, tick, ?_⟩
  rw [hpsn, ← hf, ← modWqe_single h.wqes]
  exact hprog

/-- A part of a READ of several packets is placed. -/
theorem readResp_first {s u : State} {n : Nat} {k : Packet} {w : Wqe} (h : OnlyWqe (s.qp n) opRead w) (hgot : w.got = [])
    (hpsn : k.psn = w.psn) (hcount : 2 ≤ w.count) (hlen : k.payload.length = min (s.qp n).pmtu (wqLen w.words))
    (hwrite : s.vSpanWrite (s.qp n).local_ (wqLocal w.words) 0 k.payload k.poison = (u, 0)) (hxpt : u.xpt = s.xpt) :
    FirstReceived u n w w.slot k.poison (s.readResp n k) := by
  have huq := State.qp_congr hxpt n
  have hparts (q : Qp) : w.parts q = (w.count, 0) := by simp [Wqe.parts, h.opcode]
  rw [State.readResp]
  dsimp only
  rw [hpsn, h.find]
  dsimp only
  rw [BitVec.sub_self]
  simp only [BitVec.toNat_ofNat, Nat.zero_mod, Nat.zero_mul, Nat.add_zero, Nat.sub_zero, hwrite]
  rw [if_neg (by simp [h.stale, hgot, hlen])]
  exact firstReceived (by rw [huq]; exact h) (hparts _) hcount (by simp [Wqe.withFirst, hgot])
    (Wqe.answered_first (w := { w with got := w.got ++ [0] }) (by simp [hgot]) (hparts _))

/-- The first part of the record of a rake claims its slot and is placed there. -/
theorem rakeResp_first {s u v : State} {n slot : Nat} {k : Packet} {w : Wqe} (h : OnlyWqe (s.qp n) opRake w) (hgot : w.got = [])
    (hpsn : k.psn = w.psn) (hcount : 2 ≤ w.count) (hone : packetsFor (s.qp n).pmtu (wqLen w.words) = 1)
    (hattempt : fld (nth 0 k.ext 0) 16 4 = w.attempt.toNat) (hstatus : fld (nth 0 k.ext 0) 0 2 = 0)
    (hlen : k.payload.length = min (s.qp n).pmtu w.size) (hslot : w.slot = none)
    (hclaim : s.claimSlot n w.words = (u, some slot))
    (hwrite : u.vSpanWrite (s.qp n).local_ (wqGather w.words + 64 + slot * wqStride w.words) 0 k.payload k.poison = (v, 0))
    (hvxpt : v.xpt = s.xpt) : FirstReceived v n w (some slot) k.poison (s.rakeResp n k) := by
  have hvq := State.qp_congr hvxpt n
  have hparts : w.parts (s.qp n) = (w.count, 0) := by simp [Wqe.parts, h.opcode, opRake, opRead, opAtomic, hone]
  rw [State.rakeResp]
  dsimp only
  rw [hpsn, h.find]
  dsimp only
  rw [BitVec.sub_self, hparts, hslot, hclaim]
  simp only [BitVec.toNat_ofNat, Nat.zero_mod, Nat.zero_mul, Nat.add_zero, Nat.sub_zero, hwrite]
  rw [if_neg (not_not_intro hattempt), if_neg (by rw [hstatus, hlen]; simp), if_neg (by simp [h.stale, hgot]), hstatus]
  exact firstReceived (by rw [hvq]; exact h) (by rw [hvq]; exact hparts) hcount (by simp [Wqe.withFirst, hgot])
    (Wqe.answered_first (w := { w with got := w.got ++ [0] }) (by simp [hgot]) hparts)

/-! ## Replies and acknowledgements that complete their WQE (R330, R336) -/

/-- The queue pair, in u, with its only WQE w acknowledged up to a PSN and completed. -/
def Completed (u : State) (n : Nat) (w : Wqe) (psn : BitVec 24) (t : State) : Prop :=
  (t.qp n).wqes = [] ∧ (t.qp n).sqDone = w.index + 1 ∧ (t.qp n).una = psn ∧ (t.qp n).retries = 0 ∧ t.mem = u.mem
    ∧ t.xpt.cqOvf = u.xpt.cqOvf

/-- The only WQE, which awaits nothing more, is acknowledged whole: it completes without CQE and signals. -/
theorem acked_completes {u : State} {n d : Nat} {w : Wqe} {psn : BitVec 24} (hw : (u.qp n).wqes = [w]) (hfail : w.fail = 0)
    (hstale : w.stale = false) (hanswered : w.unanswered (u.qp n) = none) (hpsn : psn = (u.qp n).una + BitVec.ofNat 24 d) (hd : 0 < d)
    (hlt : d < 2 ^ 23) (hsent : d ≤ ((u.qp n).npsn - (u.qp n).una).toNat) (hend : w.psn + BitVec.ofNat 24 w.count = psn)
    (hcqe : fld (nth 0 w.words 0) 8 1 = 0) (hsig : nth 0 w.words 4 = 0) (h4 : (u.qp n).state ≠ 4) (ece : Bool) :
    Completed u n w psn ((u.ackTo n psn ece).progress n) := by
  obtain ⟨c, t, r, tick, hack⟩ := ackTo_advances hpsn hd hlt hsent (by rw [hw]; simp [hanswered]) ece
  have hq := State.modQp_self u n fun q => q.ackedTo psn c t r tick
  have hdone : seqLe (w.psn + BitVec.ofNat 24 w.count) ((u.qp n).ackedTo psn c t r tick).una = true := by
    rw [hend]
    exact seqLe_self psn
  rw [hack, progress_completes (w := w) (by rw [hq]; exact hw) hfail hstale (by rw [hq]; exact hdone) hcqe hsig (by rw [hq]; exact h4)]
  refine ⟨?_, ?_, ?_, ?_, rfl, rfl⟩
  all_goals rw [State.modQp_self, hq, Qp.doneAt, Qp.ackedTo]
  simp [hw]

/-- The reply of an ATOMIC is placed and completes it. -/
theorem atomicResp_completes {s u : State} {n : Nat} {k : Packet} {w : Wqe} (h : OnlyWqe (s.qp n) opAtomic w) (hgot : w.got = [])
    (hpsn : k.psn = w.psn) (hone : w.count = 1) (hlen : k.payload.length = 8) (hcqe : fld (nth 0 w.words 0) 8 1 = 0)
    (hsig : nth 0 w.words 4 = 0) (h4 : (s.qp n).state ≠ 4)
    (hwrite : s.vSpanWrite (s.qp n).local_ (wqLocal w.words) 0 (k.payload.take (wqLen w.words)) k.poison = (u, 0)) (hxpt : u.xpt = s.xpt) :
    Completed u n w (w.psn + 1) (s.atomicResp n k) := by
  have huq := State.qp_congr hxpt n
  rw [← huq] at h
  obtain ⟨v, hv⟩ : ∃ v, v = u.modWqe n w.index fun w =>
      { w with got := [0], poison := w.poison || k.poison, fail := if (0 : Nat) ≠ 0 then 10 else w.fail } := ⟨_, rfl⟩
  have hvq : v.qp n = { u.qp n with wqes := [w.withFirst w.slot k.poison] } := by rw [hv, modWqe_single h.wqes, State.modQp_self]; rfl
  have hanswered (q : Qp) : (w.withFirst w.slot k.poison).unanswered q = none := by
    simp [Wqe.unanswered, Wqe.parts, Wqe.withFirst, h.opcode, h.stale, opRead, opAtomic, List.range_succ]
  have hdone := acked_completes (u := v) (n := n) (d := 1) (w := w.withFirst w.slot k.poison) (psn := w.psn + 1) (by rw [hvq]) h.fail
    h.stale (hanswered _) (by rw [hvq, h.una]; rfl) (by omega) (by omega) (by rw [hvq]; exact (h.sent.trans hone).ge)
    (congrArg (fun c => w.psn + BitVec.ofNat 24 c) hone) hcqe hsig (by rw [hvq, huq]; exact h4)
    ((nth 0 k.ext 0).getLsbD 32)
  rw [State.atomicResp]
  dsimp only
  rw [hpsn, ← huq, h.find]
  dsimp only
  rw [if_neg (by simp [h.stale, hgot, hlen]), huq, hwrite]
  dsimp only
  rw [← hv]
  obtain ⟨hwqes, hdone, huna, hretries, hmem, hovf⟩ := hdone
  exact ⟨hwqes, hdone, huna, hretries, hmem.trans (by rw [hv]; rfl), hovf.trans (by rw [hv]; rfl)⟩

/-- The acknowledgement of all of a WRITE completes it. -/
theorem aeth_completes {s : State} {n : Nat} {a b c : Dword} {w : Wqe} (h : OnlyWqe (s.qp n) opWrite w) (hcode : fld a 24 8 = 0)
    (hpsn : fld a 0 24 = (s.qp n).npsn.toNat) (hcqe : fld (nth 0 w.words 0) 8 1 = 0) (hsig : nth 0 w.words 4 = 0)
    (h4 : (s.qp n).state ≠ 4) : Completed s n w (s.qp n).npsn ((s.aeth n a b c).progress n) := by
  have hlt := h.lt
  have hall : BitVec.ofNat 24 (fld a 0 24) = (s.qp n).npsn := by rw [hpsn]; simp
  have hanswered : w.unanswered (s.qp n) = none := by simp [Wqe.unanswered, Wqe.parts, h.opcode, opRead, opAtomic, opRake, opWrite]
  have haeth : s.aeth n a b c = s.ackTo n (s.qp n).npsn (a.getLsbD 32) := by
    rw [State.aeth]
    dsimp only
    rw [hall, if_neg (by simp), hcode]
    rfl
  rw [haeth]
  exact acked_completes h.wqes h.fail h.stale hanswered (d := w.count) (by rw [h.una, h.npsn]) h.pos (by omega) h.sent.ge h.npsn.symm
    hcqe hsig h4 _

/-! ## ABORT (R338) -/

/-- RSIGs are signalled outside the transport, and then forgotten. -/
theorem failRsigs_forgets (s : State) (n : Nat) : ∃ u : State, u.xpt = s.xpt ∧ s.failRsigs n = u.modQp n fun q => { q with rsigs := [] } := by
  refine ⟨_, ?_, rfl⟩
  split
  · refine State.each_view State.xpt _ _ (fun u r _ => ?_) s
    split <;> rfl
  · rfl

theorem failRsigs_qp (s : State) (n : Nat) : (s.failRsigs n).qp n = { s.qp n with rsigs := [] } ∧ (s.failRsigs n).xpt.cqOvf = s.xpt.cqOvf := by
  obtain ⟨u, hu, h⟩ := failRsigs_forgets s n
  rw [h, State.modQp_self, State.modQp_ovf, State.qp_congr hu, hu]
  exact ⟨rfl, rfl⟩

/-- A queue pair without WQEs posted enters ERROR with a status. -/
theorem toError_idle {s : State} {n : Nat} (h0 : (s.qp n).state ≠ 0) (h6 : (s.qp n).state ≠ 6) (hsq : (s.qp n).sqTail = (s.qp n).sqDone)
    (hrq : (s.qp n).rqTail = (s.qp n).rqDone) (st : Nat) (psn : BitVec 24) :
    ((s.toError n none st none psn false).qp n).state = 6 ∧ ((s.toError n none st none psn false).qp n).errStatus = st
      ∧ ⟨xptPn, 8, 3, (s.qp n).src⟩ ∈ (s.toError n none st none psn false).evq
      ∧ (s.toError n none st none psn false).xpt.cqOvf = s.xpt.cqOvf := by
  obtain ⟨u, hu⟩ : ∃ u, u = ((s.sendPacket n ((s.qp n).packet 9 1 (s.qp n).npsn.toNat [] [])).modQp n fun q =>
      { q with state := 6, errStatus := st, rnrWait := none }).failRsigs n := ⟨_, rfl⟩
  have hsent := sendPacket_sendsOnly s n ((s.qp n).packet 9 1 (s.qp n).npsn.toNat [] [])
  have hq : u.qp n = { s.qp n with state := 6, errStatus := st, rnrWait := none, rsigs := [] } := by
    rw [hu, (failRsigs_qp ..).1, State.modQp_self, hsent.qp]
  have hovf : u.xpt.cqOvf = s.xpt.cqOvf := by
    rw [hu, (failRsigs_qp ..).2, State.modQp_ovf, hsent.xpt]
  have herr : s.toError n none st none psn false = (((u.modQp n fun q => { q with wqes := [], recv := [], ahead := [], unacked := 0 }).dropJobs
      n).raise xptPn 8 3 (s.qp n).src).xptLog n st psn false := by
    rw [State.toError, if_neg (by simp [h0, h6])]
    dsimp only
    rw [← hu, flushSend_none (by rw [hq]; exact hsq), flushRecv_none (by rw [hq]; exact hrq), if_neg (by simp)]
  have hqp (v : State) (i j : Nat) : (((v.dropJobs n).raise xptPn 8 3 j).xptLog n i psn false).qp n = v.qp n := rfl
  rw [herr]
  refine ⟨?_, ?_, ?_, hovf⟩
  · rw [hqp, State.modQp_self, hq]
  · rw [hqp, State.modQp_self, hq]
  · exact List.mem_append_right _ (List.mem_singleton.mpr rfl)

/-! ## The statement -/

/-- An answer that passes is performed within the footprint of the transport. -/
theorem completes_answer {c : Instr} {s t : State} {p op : Nat} {k : Packet} {f : State → Nat → State} {P : State → Prop} (h : Passes s p op k)
    (hc : exec c s = run packetFoot (fun s => s.takeAnswer p op k f) s) (hcm : op ≠ 0xA) (hop : opReserved op = false)
    (hf : f (takenIn s k) k.dstQpn.toNat = t) (hovf : t.xpt.cqOvf = s.xpt.cqOvf) (hp : P (packetFoot.apply s t)) : Completes c s P := by
  refine completes_run h.1 hc ?_
  have hs : s.xpt.cqOvf = [] := h.2.2.2.2.2.2.2.2.2.2.2.2.2.2.2
  rw [takeAnswer_passes h hcm hop, hf, xptEnd_none (hovf.trans hs)]
  exact hp

/-- Settles O47, by what the queue pair's only WQE awaits. -/
theorem repliesArrive : Obligations.RepliesArrive := by
  unfold Obligations.RepliesArrive
  refine ⟨?_, ?_, ?_, ?_, ?_⟩
  · intro s u p k n w hpass hn hw hop hfail hstale hgot hpsn huna hcount hlt hnpsn hstate hlen hwrite hxpt
    subst hn
    obtain ⟨hwqes, huna', hmem, hovf⟩ := (readResp_first (s := takenIn s k) (k := k) ⟨hw, hop, hfail, hstale, huna.symm, hnpsn, by omega, hlt⟩
      hgot hpsn hcount hlen hwrite hxpt).leaves
    have hfwd := hpass.2.2.2.1
    refine completes_answer hpass (exec_readResp p k s) (by decide) (by decide) (by rw [hfwd]; rfl) (hovf.trans (congrArg Xpt.cqOvf hxpt)) ⟨?_, ?_, ?_⟩
    · rw [packetFoot_qp, hwqes]; rfl
    · rw [packetFoot_qp, huna']
    · rw [packetFoot_mem, hmem]
  · intro s u p k n w hpass hn hw hop hfail hstale hgot hpsn huna hone hnpsn hstate hlen hsig hcqe hwrite hxpt
    subst hn
    obtain ⟨hwqes, hdone, huna', -, hmem, hovf⟩ := atomicResp_completes (s := takenIn s k) (k := k)
      ⟨hw, hop, hfail, hstale, huna.symm, by rw [hone]; exact hnpsn, by omega, by omega⟩
      hgot hpsn hone hlen hcqe hsig (by rw [show (takenIn s k).qp k.dstQpn.toNat = s.qp k.dstQpn.toNat from rfl, hstate]; decide) hwrite hxpt
    refine completes_answer hpass (exec_atomicResp p k s) (by decide) (by decide) rfl (hovf.trans (congrArg Xpt.cqOvf hxpt)) ⟨?_, ?_, ?_, ?_⟩
    · rw [packetFoot_qp, hwqes]
    · rw [packetFoot_qp, hdone]
    · rw [packetFoot_qp, huna']
    · rw [packetFoot_mem, hmem]
  · intro s p k n w a b c hpass hn hext hcode hw hop hfail hstale _ huna hpos hlt hnpsn hpsn hstate hsig hcqe
    subst hn
    obtain ⟨hwqes, hdone, huna', hretries, -, hovf⟩ := aeth_completes (s := takenIn s k) (n := k.dstQpn.toNat) (b := b) (c := c)
      ⟨hw, hop, hfail, hstale, huna.symm, hnpsn, hpos, hlt⟩ hcode hpsn hcqe hsig
      (by rw [show (takenIn s k).qp k.dstQpn.toNat = s.qp k.dstQpn.toNat from rfl, hstate]; decide)
    have hfwd := hpass.2.2.2.1
    refine completes_answer hpass (exec_ack p k s) (by decide) (by decide) (by rw [hfwd, hext]; rfl) hovf ⟨?_, ?_, ?_, ?_⟩
    · rw [packetFoot_qp, hwqes]
    · rw [packetFoot_qp, hdone]
    · rw [packetFoot_qp, huna']; rfl
    · rw [packetFoot_qp, hretries]
  · intro s p k n hpass hn hsq hrq
    subst hn
    obtain ⟨-, -, -, -, -, -, -, -, -, h0, -, h6, -⟩ := id hpass
    obtain ⟨hstate, herr, hev, hovf⟩ := toError_idle (s := takenIn s k) h0 h6 hsq hrq 13 (s.qp k.dstQpn.toNat).una
    refine completes_answer hpass (exec_abort p k s) (by decide) (by decide) rfl hovf ⟨?_, ?_, ?_⟩
    · rw [packetFoot_qp]; exact hstate
    · rw [packetFoot_qp]; exact herr
    · rw [packetFoot_evq]; exact hev
  · intro s u v p k n w slot hpass hn hmajor hext hw hop hfail hstale hgot _ hpsn huna hcount hlt hnpsn hstate hstatus hone hattempt hlen hslot
      hclaim _ hwrite hvxpt
    subst hn
    obtain ⟨hwqes, -, hmem, hovf⟩ := (rakeResp_first (s := takenIn s k) (k := k) ⟨hw, hop, hfail, hstale, huna.symm, hnpsn, by omega, hlt⟩
      hgot hpsn hcount hone hattempt hstatus hlen hslot hclaim hwrite hvxpt).leaves
    refine completes_answer hpass (exec_rakeResp p k s) (by decide) (by decide) ?_ (hovf.trans (congrArg Xpt.cqOvf hvxpt)) ⟨?_, ?_⟩
    · rw [if_neg (by show ¬ (s.qp k.dstQpn.toNat).major < 2; omega), if_neg (by omega)]
    · rw [packetFoot_qp, hwqes]; rfl
    · rw [packetFoot_mem, hmem]

end Sys2Proof.Machine
end

section
/-! SUPPORT. Requests that a responder performs, and the statement about them (R317, R328, R334 to R336). -/
namespace Sys2Proof.Machine

open Sys2Proof

/-! ## The next request at its queue pair -/

/-- Memory accesses leave a responder's queue pair at its next request. -/
theorem nextAt_of_request {s t : State} {p op : Nat} {k : Packet} (h : NextRequest s p op k) (hxpt : t.xpt = s.xpt) :
    NextAt t k.dstQpn.toNat k.psn := by
  obtain ⟨-, -, -, hpsn, hahead, hrecv, hrsigs⟩ := h
  have hq := State.qp_congr hxpt k.dstQpn.toNat
  exact ⟨by rw [hq]; exact hpsn.symm, by rw [hq]; exact hahead, by rw [hq, hrecv]; simp, by rw [hq]; exact hrsigs⟩

/-- A request that is the next is performed within a footprint that holds transport, memory and ports. -/
theorem completes_request {c : Instr} {s t : State} {p op : Nat} {k : Packet} {placeable : Bool} {new dup : State → Nat → State}
    {fp : Footprint} {P : State → Prop} (h : NextRequest s p op k)
    (hc : exec c s = run fp (fun s => s.request p op k placeable new dup) s) (hcm : op ≠ 0xA) (hop : opReserved op = false)
    (hnew : new (takenIn s k) k.dstQpn.toNat = t) (hovf : t.xpt.cqOvf = s.xpt.cqOvf) (hp : P (fp.apply s t)) : Completes c s P := by
  refine completes_run h.1.1 hc ?_
  have hs : s.xpt.cqOvf = [] := h.1.2.2.2.2.2.2.2.2.2.2.2.2.2.2.2
  rw [request_next h hcm hop, hnew, xptEnd_none (hovf.trans hs)]
  exact hp

/-- What the memory path has left as c is consumed: ePSN passes it, and memory stays as it is in c. -/
theorem consumed_leaves {s t : State} {n : Nat} {psn : BitVec 24} {c : Nat} {ce : Bool}
    (ht : Acked n (s.modQp n fun q => q.past psn c ce) t) :
    (t.qp n).epsn = psn + BitVec.ofNat 24 c ∧ (t.qp n).recv = (s.qp n).recv ∧ (t.qp n).atomics = (s.qp n).atomics
      ∧ t.xpt.jobs = s.xpt.jobs ∧ t.xpt.cqOvf = s.xpt.cqOvf ∧ SameStores t.mem s.mem := by
  obtain ⟨⟨a, e, hq⟩, hjobs, hovf, hmem⟩ := ht
  rw [hq, State.modQp_self]
  exact ⟨rfl, rfl, rfl, hjobs, hovf, hmem⟩

/-! ## WRITE and ADD_WRITE (R334) -/

/-- The key of a request, read and checked, lets it reach g, in a. -/
abbrev KeyOf (s a : State) (n : Nat) (k : Packet) (add : Bool) (g : Region) : Prop :=
  s.keyCheck (rethOf k).key (rethOf k).off k.payload.length k.pkey.toNat (s.qp n).src (if add then .atom else .wr) = (a, 0, g)

/-- The accesses of a WRITE, or of an ADD_WRITE, through its region. -/
abbrev rethAcc (s : State) (n : Nat) (add : Bool) (g : Region) : Acc := { (s.qp n).acc g.ctx with spaces := if add then [0] else [0, 1, 2] }

/-- A well-formed packet of a message without RSIG, whose key and pages allow it, is placed, and then consumed. -/
theorem writeNew_placed {s a b c : State} {p n : Nat} {k : Packet} {add : Bool} {reg : RegPort} {g : Region} (hbad : (rethOf k).bad = false)
    (hpayload : k.payload ≠ []) (hlen : k.payload.length ≤ (s.qp n).pmtu) (hrsig : (rethOf k).rsig = 0)
    (hop : if add then (rethOf k).op ≤ 6 ∧ k.payload.length % nmaWidth (rethOf k).op = 0 ∧ (g.va + (rethOf k).off) % nmaWidth (rethOf k).op = 0
      else (rethOf k).op = 0)
    (hkey : (rethOf k).key ≠ 0xFFFFFFFF) (hcheck : KeyOf s a n k add g)
    (hhost : k.poison = true → a.leadsToHost (rethAcc s n add g) (g.va + (rethOf k).off) k.payload.length = false)
    (hreach : a.canReach (rethAcc s n add g) (g.va + (rethOf k).off) k.payload.length true = (b, 0))
    (hwrite : (if add then b.vAdd (rethAcc s n add g) (g.va + (rethOf k).off) (rethOf k).op k.payload k.poison
      else b.vSpanWrite (rethAcc s n add g) (g.va + (rethOf k).off) 0 k.payload k.poison) = (c, 0)) :
    s.writeNew p n k add reg = (c.received n k.psn 1 (marked k)).ackPolicy n k := by
  have hform : ¬ (if add then 6 < (rethOf k).op ∨ k.payload.length % max 1 (nmaWidth (rethOf k).op) ≠ 0 else (rethOf k).op ≠ 0) := by
    cases add with
    | false => simpa using hop
    | true =>
      obtain ⟨h6, hwhole, -⟩ := hop
      have hwidth : 1 ≤ nmaWidth (rethOf k).op := by interval_cases (rethOf k).op <;> decide
      simp [h6, max_eq_right hwidth, hwhole]
  have halign : ¬ (add = true ∧ (g.va + (rethOf k).off) % max 1 (nmaWidth (rethOf k).op) ≠ 0) := by
    rintro ⟨rfl, hne⟩
    obtain ⟨h6, -, hwhole⟩ := hop
    have hwidth : 1 ≤ nmaWidth (rethOf k).op := by interval_cases (rethOf k).op <;> decide
    exact hne (by rw [max_eq_right hwidth]; exact hwhole)
  rw [State.writeNew]
  dsimp only
  rw [if_neg, if_neg hkey, hcheck]
  · dsimp only
    rw [if_neg (by decide), if_neg (by simp), hreach]
    dsimp only
    rw [if_neg (by rintro ⟨hp, hh⟩; rw [hhost hp] at hh; cases hh), if_neg (by simp), if_neg halign, hwrite]
    dsimp only
    rw [if_neg (by simp), State.keepRsig, if_pos hrsig]
  · simp only [hbad, hrsig, hform, not_or]
    simp [hpayload, badSig, hlen]

/-! ## READ (R335) -/

/-- A READ whose key allows it and whose parts can be read sends them; what its PSNs are is consumed. -/
theorem readAny_sends {s a b : State} {p n : Nat} {k : Packet} {reg : RegPort} {g : Region} {parts : List (List Byte × Bool)}
    (hbad : (rethOf k).bad = false) (hpayload : k.payload = []) (hop : (rethOf k).op = 0) (hrsig : (rethOf k).rsig = 0)
    (hkey : (rethOf k).key ≠ 0xFFFFFFFF)
    (hcheck : s.keyCheck (rethOf k).key (rethOf k).off (rethOf k).len k.pkey.toNat (s.qp n).src .rd = (a, 0, g))
    (hread : a.readParts ((s.qp n).acc g.ctx) (g.va + (rethOf k).off) (rethOf k).len (s.qp n).pmtu = (b, parts, 0)) :
    s.readAny p n k false reg = ((b.sendParts n k.psn parts).received n k.psn (packetsFor (s.qp n).pmtu (rethOf k).len) (marked k)).modQp n
      fun q => { q with unacked := if q.epsn = k.psn + BitVec.ofNat 24 (packetsFor (s.qp n).pmtu (rethOf k).len) then 0 else 1 } := by
  rw [State.readAny]
  dsimp only
  rw [if_neg (by simp [hbad, hpayload, hop, hrsig]), if_neg hkey, hcheck]
  dsimp only
  rw [if_neg (by decide), if_neg (by simp), hread]
  dsimp only
  rw [if_neg (by simp), if_neg (by simp)]

/-! ## ATOMIC (R336) -/

/-- The near-memory operation of an ATOMIC: a compare-and-swap takes both of its words. -/
def State.atomicAt (s : State) (a : Acc) (va op : Nat) (w2 w3 : Dword) (poison : Bool) : State × Rd :=
  if op = 11 ∨ op = 12 then s.vNma a va op [w3.toNat] w2.toNat poison else s.vNma a va op [w2.toNat] 0 poison

/-- The old value of an ATOMIC of operation op. -/
def oldValue (op : Nat) (r : Rd) : Dword := BitVec.ofNat 64 (natLE (r.data.take (nmaWidth op)))

/-- A well-formed ATOMIC is performed and consumed, its old value kept and sent. -/
theorem atomicNew_performed {s a b : State} {n op : Nat} {k : Packet} {w0 w1 w2 w3 : Dword} {g : Region} {r : Rd}
    (hext : k.ext = [w0, w1, w2, w3]) (hpayload : k.payload = []) (htc : k.tc.toNat ≤ 3) (hrsv0 : fld w0 52 12 = 0) (hrsv1 : fld w1 35 29 = 0)
    (hop : op = fld w0 48 4) (h8 : 8 ≤ op) (h12 : op ≤ 12) (hlen : fld w1 32 3 = nmaWidth op % 8) (hkey : fld w1 0 32 ≠ 0xFFFFFFFF)
    (hcheck : s.keyCheck (fld w1 0 32) (fld w0 0 48) (nmaWidth op) k.pkey.toNat (s.qp n).src .atom = (a, 0, g))
    (halign : (g.va + fld w0 0 48) % nmaWidth op = 0)
    (hnma : a.atomicAt { (s.qp n).acc g.ctx with spaces := [0] } (g.va + fld w0 0 48) op w2 w3 k.poison = (b, r)) (hok : r.err = 0) :
    s.atomicNew n k = ((((b.received n k.psn 1 (marked k)).modQp n fun q =>
      { q with atomics := ((k.psn, oldValue op r, r.poison) :: q.atomics).take 4 }).sendAtomic n k.psn (oldValue op r) r.poison).modQp n
        fun q => { q with unacked := if q.epsn = k.psn + 1 then 0 else 1, ece := false }) := by
  have hw0 : nth (0 : Dword) k.ext 0 = w0 := by rw [hext]; rfl
  have hw1 : nth (0 : Dword) k.ext 1 = w1 := by rw [hext]; rfl
  have hw2 : nth (0 : Dword) k.ext 2 = w2 := by rw [hext]; rfl
  have hw3 : nth (0 : Dword) k.ext 3 = w3 := by rw [hext]; rfl
  have hcas : (if (op == 11 || op == 12) = true then a.vNma { (s.qp n).acc g.ctx with spaces := [0] } (g.va + fld w0 0 48) op [w3.toNat] w2.toNat
      k.poison else a.vNma { (s.qp n).acc g.ctx with spaces := [0] } (g.va + fld w0 0 48) op [w2.toNat] 0 k.poison) = (b, r) := by
    rw [← hnma, State.atomicAt]
    simp
  rw [State.atomicNew]
  simp only [hw0, hw1, hw2, hw3, ← hop]
  rw [if_neg, if_neg hkey, hcheck]
  · dsimp only
    rw [if_neg (by decide), if_neg (by simp), if_neg (by simp [halign]), hcas]
    dsimp only
    rw [if_neg (by simp [hok])]
    rfl
  · simp [hext, hpayload, hrsv0, hrsv1, hlen]
    omega

/-! ## The statement -/

/-- A request of one PSN that the memory path has performed, in c, and that is consumed there completes. -/
theorem completes_consumed {c : Instr} {s u : State} {p op n : Nat} {k : Packet} {new dup : State → Nat → State} {fp : Footprint}
    (h : NextRequest s p op k) (hn : n = k.dstQpn.toNat) (hfp : fp.xpt = true ∧ fp.mem = true)
    (hc : exec c s = run fp (fun s => s.request p op k true new dup) s) (hcm : op ≠ 0xA) (hop : opReserved op = false)
    (hnew : new (takenIn s k) n = (u.received n k.psn 1 (marked k)).ackPolicy n k) (hxpt : u.xpt = s.xpt) :
    Completes c s fun t => (t.qp n).epsn = (s.qp n).epsn + 1 ∧ SameStores t.mem u.mem := by
  subst hn
  have hnext := nextAt_of_request h hxpt
  obtain ⟨hepsn, -, -, -, hovf, hmem⟩ := consumed_leaves (consumed_next hnext 1 (marked k) k)
  refine completes_request h hc hcm hop hnew (hovf.trans (congrArg Xpt.cqOvf hxpt)) ⟨?_, ?_⟩
  · rw [Footprint.apply_qp, if_pos hfp.1, hepsn, (nextAt_of_request (t := s) h rfl).epsn]; rfl
  · rw [Footprint.apply_mem, if_pos hfp.2]; exact hmem

/-- Settles O48, by what each operation makes of a request whose key and pages allow it. -/
theorem requestsArePerformed : Obligations.RequestsArePerformed := by
  unfold Obligations.RequestsArePerformed
  refine ⟨?_, ?_, ?_, ?_⟩
  · intro s a b c p k n h g hnext hn hh hbad hpayload hlen hrsig hop hkey hcheck hhost hreach hwrite hxpt
    subst hh
    exact completes_consumed hnext hn ⟨rfl, rfl⟩ (exec_write p k s) (by decide) (by decide)
      (writeNew_placed (s := takenIn s k) (add := false) hbad hpayload (by subst hn; exact hlen) hrsig hop hkey (by subst hn; exact hcheck)
        (by subst hn; exact hhost) (by subst hn; exact hreach) (by subst hn; exact hwrite)) hxpt
  · intro s a b c p k n h g hnext hn hh hbad hpayload hlen hrsig hop hwhole hkey hcheck halign hhost hreach hwrite hxpt
    subst hh
    exact completes_consumed hnext hn ⟨rfl, rfl⟩ (exec_addWrite p k s) (by decide) (by decide)
      (writeNew_placed (s := takenIn s k) (add := true) hbad hpayload (by subst hn; exact hlen) hrsig ⟨hop, hwhole, halign⟩ hkey
        (by subst hn; exact hcheck) (by subst hn; exact hhost) (by subst hn; exact hreach) (by subst hn; exact hwrite)) hxpt
  · intro s a b p k n h g parts hnext hn hh hbad hpayload hop hrsig hkey hcheck hread hxpt
    subst hh hn
    have hsent := sendParts_sendsOnly b k.dstQpn.toNat k.psn parts
    have hat := nextAt_of_request hnext (hsent.xpt.trans hxpt)
    have hperf := readAny_sends (s := takenIn s k) (p := p.val) (reg := State.regAccess) hbad hpayload hop hrsig hkey hcheck hread
    rw [received_next hat] at hperf
    refine completes_request hnext (exec_readReq p k s) (by decide) (by decide) hperf
      (by rw [State.modQp_ovf, State.modQp_ovf, hsent.xpt, hxpt]) ⟨?_, ?_, ?_⟩
    · rw [regFoot_qp, State.modQp_self, State.modQp_self, (nextAt_of_request (t := s) hnext rfl).epsn]; rfl
    · rw [regFoot_ports]; rfl
    · rw [regFoot_mem]; exact hsent.mem
  · intro s a b p k n op w0 w1 w2 w3 g r hnext hn hext hpayload htc hrsv0 hrsv1 hop h8 h12 hlen hkey hcheck halign hnma hok hxpt
    subst hn
    have hat := nextAt_of_request hnext hxpt
    have hperf := atomicNew_performed (s := takenIn s k) hext hpayload htc hrsv0 hrsv1 hop h8 h12 hlen hkey hcheck halign hnma hok
    obtain ⟨u, hu⟩ : ∃ u, u = (b.modQp k.dstQpn.toNat fun q => q.past k.psn 1 (marked k)).modQp k.dstQpn.toNat fun q =>
      { q with atomics := ((k.psn, oldValue op r, r.poison) :: q.atomics).take 4 } := ⟨_, rfl⟩
    have hmem : u.mem = b.mem := by rw [hu]; rfl
    have hsent := sendAtomic_sendsOnly u k.dstQpn.toNat k.psn (oldValue op r) r.poison
    rw [received_next hat, ← hu] at hperf
    refine completes_request hnext (exec_atomic p k s) (by decide) (by decide) hperf
      (by rw [State.modQp_ovf, hsent.xpt, hu, State.modQp_ovf, State.modQp_ovf, hxpt]) ⟨?_, ?_, ?_⟩
    · rw [packetFoot_qp, State.modQp_self, hsent.qp, hu, State.modQp_self, State.modQp_self, (nextAt_of_request (t := s) hnext rfl).epsn]
      rfl
    · rw [packetFoot_mem, ← hmem]; exact hsent.mem
    · rw [packetFoot_qp, State.modQp_self, hsent.qp, hu, State.modQp_self]
      dsimp only
      rw [List.take_succ_cons, List.head?_cons, oldValue]

end Sys2Proof.Machine
end

section
/-! SUPPORT. Messages, CM packets and rakes at their holder, and the statement about them (R313, R326, R333, R346 to R350). -/
namespace Sys2Proof.Machine

open Sys2Proof

/-! ## SEND (R333) -/

/-- A receive WQE with the first packet of its message placed. -/
def recvOpened (i : Word) (tag : Nat) (lsig : Word) (poison : Bool) : RecvMsg :=
  { index := i, tag := tag, lsig := lsig, len := 0, last := none, poison := poison }

theorem withRecv_qp (s : State) (n tag : Nat) (lsig : Word) :
    ∃ head, (withRecv s n tag lsig).qp n = { s.qp n with rqHead := head, recv := [recvOpened (s.qp n).rqDone tag lsig false] } :=
  ⟨_, State.modQp_self ..⟩

/-- The first of several packets of a SEND is placed in the next receive WQE, and then consumed. -/
theorem sendNew_first {s a b : State} {n va len tag : Nat} {k : Packet} {lsig : Word} {w : Dword} (hext : k.ext = [w]) (hrsv : fld w 56 8 = 0)
    (hoff : fld w 24 32 = 0) (hmsn : fld w 0 24 = (s.qp n).rqDone.toNat % 2 ^ 24) (hpayload : k.payload ≠ [])
    (hmtu : k.payload.length ≤ (s.qp n).pmtu) (hfits : k.payload.length ≤ len) (htc : k.tc.toNat ≤ 3) (hlast : k.last = false)
    (hposted : (s.qp n).rqTail ≠ (s.qp n).rqDone) (hnone : (s.qp n).recv = [])
    (hread : s.readRq n (s.qp n).rqDone = (a, some (va, len, tag, lsig))) (hlsig : badSig lsig.toNat = false) (haxpt : a.xpt = s.xpt)
    (hwrite : (withRecv a n tag lsig).vSpanWrite (s.qp n).local_ va 0 k.payload k.poison = (b, 0))
    (hbxpt : b.xpt = (withRecv a n tag lsig).xpt) :
    s.sendNew n k = (((b.modQp n fun q => { q with recv := [recvOpened (s.qp n).rqDone tag lsig k.poison] }).received n k.psn 1
      (marked k)).ackPolicy n k) := by
  have haq := State.qp_congr haxpt n
  obtain ⟨head, hwq⟩ := withRecv_qp a n tag lsig
  have hbq : (b.qp n).recv = [recvOpened (s.qp n).rqDone tag lsig false] := by rw [State.qp_congr hbxpt n, hwq, haq]
  have hahead : (BitVec.ofNat 24 (fld w 0 24) - BitVec.ofNat 24 (s.qp n).rqDone.toNat).toNat = 0 := by
    rw [hmsn, show BitVec.ofNat 24 ((s.qp n).rqDone.toNat % 2 ^ 24) = BitVec.ofNat 24 (s.qp n).rqDone.toNat by
      apply BitVec.eq_of_toNat_eq; simp, BitVec.sub_self]
    rfl
  have hdist : wrapDist (s.qp n).rqTail (s.qp n).rqDone ≠ 0 := fun h => hposted (by
    have := BitVec.eq_of_toNat_eq (x := (s.qp n).rqTail - (s.qp n).rqDone) (y := 0) h
    exact BitVec.sub_eq_iff_eq_add.mp this |>.trans (BitVec.zero_add _))
  have hopen : (a.modQp n fun q => { q with
      rqHead := if wrapDist q.rqHead q.rqDone ≤ 0 then (s.qp n).rqDone + 1 else q.rqHead
      recv := if q.recv.any fun m => m.index == (s.qp n).rqDone then q.recv
        else q.recv ++ [{ index := (s.qp n).rqDone, tag := tag, lsig := lsig, len := 0, last := none, poison := false }] })
      = withRecv a n tag lsig := by
    rw [withRecv, State.modQp, State.modQp, haq, hnone]
    simp
  have hnth : nth (0 : Dword) k.ext 0 = w := by rw [hext]; rfl
  have hempty : k.payload.isEmpty = false := by simpa using hpayload
  rw [State.sendNew]
  dsimp only
  rw [hnth, hahead, hoff, show (s.qp n).rqDone + BitVec.ofNat 32 0 = (s.qp n).rqDone from BitVec.add_zero _, if_neg, if_neg (by omega), hread]
  · dsimp only
    rw [hopen, if_neg (by simp [hlsig]), if_neg (by omega), hempty, if_neg Bool.false_ne_true, Nat.add_zero, hwrite, if_neg (by simp), State.modQp, State.modQp, hbq]
    simp [recvOpened, hlast]
  · simp [hext, hrsv, hpayload]
    omega

/-! ## CM (R326) -/

theorem cmVersion_xpt (s : State) (n v : Nat) : (s.cmVersion n v).xpt = s.xpt := (tableWrite_keeps ..).xpt rfl

/-- What the firmware makes of a message leaves the queue pairs alone. -/
theorem cmHandle_xpt (s : State) (dev : Nat) (m : CmMsg) : (s.cmHandle dev m).xpt = s.xpt := by
  have hsend (u : State) (d : Nat) (x : CmMsg) : (u.cmSend d x).xpt = u.xpt := (sendPacket_sendsOnly ..).xpt
  unfold State.cmHandle
  dsimp only
  split
  · split
    · exact hsend ..
    · rw [hsend, State.drawn_xpt, State.modSrv_xpt, cmVersion_xpt]
  · split
    · rfl
    · split
      · exact hsend ..
      · rw [hsend, (tableRead_keeps ..).xpt rfl, State.modSrv_xpt, cmVersion_xpt]
  · rfl
  · rfl

theorem finishRecv_rqDone (s : State) (n : Nat) (i : Word) (tag : Nat) (lsig : Word) (st bytes pkey srcDev : Nat) :
    ((s.finishRecv n i tag lsig st bytes pkey srcDev).qp n).rqDone = i + 1 := by
  rw [State.finishRecv, State.modQp_self]

/-- A CM packet that passes fills the next receive WQE of queue pair 0, and the firmware takes its message. -/
theorem rxCm_taken {s a b c : State} {p : Nat} {k : Packet} {va len tag : Nat} {lsig : Word} (hop : k.opcode.toNat = 0xA) (hrsv : k.rsv = 0)
    (hport : s.portState p = 5) (hdev : k.dstDev.toNat = s.dev) (hqpn : k.dstQpn = 0) (hcrc : k.pcrc = pcrcOf k)
    (hip : s.ethernet p = true → s.addressed p k = true) (hver : k.ver.toNat = (s.qp 0).major) (h0 : (s.qp 0).state ≠ 0)
    (h1 : (s.qp 0).state ≠ 1) (h6 : (s.qp 0).state ≠ 6)
    (hkey : s.pkeyKnown k.pkey.toNat = true ∨ (k.pkey ≠ 0 ∧ k.pkey.toNat = s.rf Reg.xptMgmtPkey 0 16)) (hpayload : k.payload.length = 64)
    (hext : k.ext = []) (hposted : (s.qp 0).rqDone ≠ (s.qp 0).rqTail)
    (hread : (takenIn s k).readRq 0 (s.qp 0).rqDone = (a, some (va, len, tag, lsig))) (hlsig : badSig lsig.toNat = false) (hlen : 64 ≤ len)
    (hwrite : a.vSpanWrite (s.qp 0).local_ va 0 k.payload k.poison = (b, 0))
    (hfinish : b.finishRecv 0 (s.qp 0).rqDone tag lsig k.poison.toNat 64 k.pkey.toNat k.srcDev.toNat = c) :
    s.rxCm p k = (if c.running = true ∧ (!k.poison) = true then c.cmHandle k.srcDev.toNat (cmOf k.payload) else c).xptEnd := by
  have hq : k.dstQpn.toNat = 0 := by rw [hqpn]; rfl
  have hcm : (k.opcode == 0xA) = true := by rw [beq_iff_eq]; exact BitVec.eq_of_toNat_eq hop
  have hbadKey : ¬ ((!s.pkeyKnown k.pkey.toNat && (k.pkey.toNat == 0 || k.pkey.toNat != s.rf Reg.xptMgmtPkey 0 16)) = true) := by
    rcases hkey with h | ⟨h, h'⟩
    · simp [h]
    · have hne : k.pkey.toNat ≠ 0 := fun hz => h (BitVec.eq_of_toNat_eq hz)
      simp [← h', hne]
  have hcount : s.countBytes 0 ((s.qp 0).c 0 8 6) 4 k.payload.length = takenIn s k := by rw [takenIn, hq]
  have htaken : (takenIn s k).qp 0 = s.qp 0 := rfl
  rw [State.rxCm, State.takePacket]
  dsimp only
  rw [hq, hcm, if_neg (by simp [hop, hport]), if_neg (by simp [hdev, hcrc, hver, h0, h1, h6]; exact hip), if_pos rfl, if_neg hbadKey, hop,
    if_neg (by decide), hcount, htaken, if_neg (by simp [hpayload, hext, hrsv]), if_neg hposted, hread]
  dsimp only
  rw [if_neg (by simp [hlsig]), if_neg (by omega), hwrite]
  dsimp only
  rw [if_neg (by simp), hfinish]

/-! ## RAKE_REQ (R347, R349) -/

/-- The first of several packets of a rake opens a job and is placed in its landing slot, and then consumed. -/
theorem rakeNew_first {s o u : State} {n crew e attempt len : Nat} {k : Packet} {j : RakeJob} (hhead : rakeHead k = (crew, attempt, 0, len, true))
    (hfirst : k.first = true) (hlast : k.last = false) (hvalid : (s.crewCtrl crew).getLsbD 0 = true) (hkey : k.pkey.toNat = s.crewPkey crew)
    (hbad : (blockOf k.payload).bad = false) (hlen : len = (blockOf k.payload).len) (hmax : len ≤ 8320)
    (hpart : partOk (s.qp n).pmtu len 0 0 (packetsFor (s.qp n).pmtu len) k = true)
    (hmember : s.chooseMember crew (blockOf k.payload).hint = some e)
    (hopen : s.openJob n crew e attempt len (blockOf k.payload) k false = (o, j))
    (hwrite : o.vSpanWrite (o.crewAcc j) (o.landing j) 0 (o.landed j 0 k.payload) k.poison = (u, 0)) :
    s.rakeNew n k = ((u.modXpt fun x => { x with jobs := x.jobs.map fun x => if x == j then { j with got := j.got + 1, replyPsn := k.psn }
      else x }).received n k.psn 1 (marked k)).ackPolicy n k := by
  rw [State.rakeNew]
  dsimp only
  rw [hhead]
  dsimp only
  rw [if_pos hfirst, hvalid, if_neg (by simp), if_neg (by simp [hkey]), if_neg (by simp [hbad, ← hlen, hpart]; omega), hmember]
  dsimp only
  rw [hopen]
  dsimp only
  rw [State.placeRake, Nat.add_zero, hwrite]
  dsimp only
  rw [if_neg (by simp), hlast]
  simp

/-- The job of a FIRST packet is put behind the others; it names its member and its queue pair, and nothing of it is dispatched. -/
theorem openJob_job {s o : State} {n crew e attempt len : Nat} {b : RakeBlock} {k : Packet} {j : RakeJob}
    (h : s.openJob n crew e attempt len b k false = (o, j)) :
    o.xpt = { s.xpt with jobs := s.xpt.jobs ++ [j] } ∧ j.engine = e ∧ j.qp = n ∧ j.packets = packetsFor (s.qp n).pmtu len ∧ j.due = none
      ∧ j.got = 0 ∧ j.replyPsn = k.psn := by
  cases h
  exact ⟨rfl, rfl, rfl, rfl, rfl, rfl, rfl⟩

/-- A job that was not there before is the only one that is changed. -/
theorem map_newJob {l : List RakeJob} {j j' : RakeJob} (h : j ∉ l) : ((l ++ [j]).map fun x => if x == j then j' else x) = l ++ [j'] := by
  have hmap : (l.map fun x => if x == j then j' else x) = l := by
    refine (List.map_congr_left fun x hx => ?_).trans (List.map_id' l)
    rw [if_neg]
    simp only [beq_iff_eq]
    rintro rfl
    exact h hx
  rw [List.map_append, hmap]
  simp

/-! ## RAKE_REPLY (R350) -/

theorem count_evq_mem (s : State) (off n : Nat) {x : Ev} (h : x ∈ s.evq) : x ∈ (s.count off n).evq := by
  unfold State.count State.raiseIf
  dsimp only
  split
  · exact List.mem_append_left _ h
  · exact h

/-- A reply writes no error flag of a token counter. -/
theorem count_tcErr (s : State) {off e t : Nat} (n : Nat) (he : e < 256) (hoff : 0x80000 ≤ off / 4) : (s.count off n).tcErr e t = s.tcErr e t := by
  have h0 := Reg.engTcErr_word e
  have h1 := Reg.engTcErr_word4 e
  rw [State.tcErr, State.r64, State.count_r32 _ _ (by omega) (by omega), State.count_r32 _ _ (by omega) (by omega), State.tcErr, State.r64]

section
variable {s : State} {n e at_ : Nat} {j : RakeJob} {err : Bool} (hstored : s.storedJob n e = some (j, at_, err))
include hstored

/-- A job whose connection has ended is freed. -/
theorem rakeReply_gone (hlive : j.live = false) :
    s.rakeReply n e = (s.setBit64 (Reg.engTcErr e) (crewTc (s.crewCtrl n)) false).modXpt fun x => { x with jobs := x.jobs.erase j } := by
  rw [State.rakeReply, hstored]
  dsimp only
  rw [if_pos (by simp [hlive])]

theorem rakeReply_deaf (hlive : j.live = true) (hresp : (s.qp j.qp).responds = false) : s.rakeReply n e = s := by
  rw [State.rakeReply, hstored]
  dsimp only
  rw [if_neg (by simp [hlive]), if_pos (by simp [hresp])]

/-- The record of a job, or nothing where its signal carried the error, as the reply finds it. -/
def State.rakeRead (s : State) (n e : Nat) (j : RakeJob) (err : Bool) : State × List (List Byte × Bool) × Nat :=
  let s' := s.setBit64 (Reg.engTcErr e) (crewTc (s.crewCtrl n)) false
  if err then (s', [], 1) else s'.readParts (s.crewAcc j) (s.landing j + 0x2080) (jobSize j) (s.qp j.qp).pmtu

/-- The reply of a job is sent, a failure counted and raised, and the job freed. -/
theorem rakeReply_sends (hlive : j.live = true) (hresp : (s.qp j.qp).responds = true) : ∃ u, SendsOnly (s.rakeRead n e j err).1 u ∧
    s.rakeReply n e = (((if (s.rakeRead n e j err).2.2 != 0 then (u.count Reg.xptRakeFailCnt 1).raise xptPn 15 10 (s.qp j.qp).src else u).modXpt
      fun x => { x with jobs := x.jobs.erase j }).count Reg.xptRakeServedCnt 1) := by
  rw [State.rakeReply, hstored]
  dsimp only
  rw [if_neg (by simp [hlive]), if_neg (by simp [hresp])]
  exact ⟨_, State.each_sendsOnly (fun _ _ => sendPacket_sendsOnly ..) _ _, rfl⟩

end

/-! ## The statement -/

/-- Settles O49, by the tail that every request shares and by the jobs that are opened and freed. -/
theorem messagesAndRakes : Obligations.MessagesAndRakes := by
  unfold Obligations.MessagesAndRakes
  refine ⟨?_, ?_, ?_, ?_, ?_⟩
  · intro s a b p k n va len tag lsig w hnext hn hext hrsv hoff hmsn hpayload hmtu hfits htc _ hlast hposted hread hlsig haxpt hwrite hbxpt
    subst hn
    obtain ⟨-, -, -, hpsn, hahead, hrecv, hrsigs⟩ := id hnext
    obtain ⟨u, hu⟩ : ∃ u, u = b.modQp k.dstQpn.toNat fun q =>
      { q with recv := [recvOpened (s.qp k.dstQpn.toNat).rqDone tag lsig k.poison] } := ⟨_, rfl⟩
    obtain ⟨head, hwq⟩ := withRecv_qp a k.dstQpn.toNat tag lsig
    rw [← State.qp_congr hbxpt, State.qp_congr haxpt] at hwq
    have huq : u.qp k.dstQpn.toNat = { s.qp k.dstQpn.toNat with
        rqHead := head, recv := [recvOpened (s.qp k.dstQpn.toNat).rqDone tag lsig k.poison] } := by rw [hu, State.modQp_self, hwq]
    have hovf : u.xpt.cqOvf = s.xpt.cqOvf := by
      rw [hu, State.modQp_ovf, hbxpt, withRecv, State.modQp_ovf, haxpt]
    have humem : u.mem = b.mem := by rw [hu]; rfl
    have hat : NextAt u k.dstQpn.toNat k.psn :=
      ⟨by rw [huq]; exact hpsn.symm, by rw [huq]; exact hahead, by rw [huq]; simp [recvOpened], by rw [huq]; exact hrsigs⟩
    have hperf := sendNew_first (s := takenIn s k) hext hrsv hoff hmsn hpayload hmtu hfits htc hlast hposted hrecv hread hlsig haxpt hwrite hbxpt
    obtain ⟨hepsn, hrecv', -, -, hovf', hmem⟩ := consumed_leaves (consumed_next hat 1 (marked k) k)
    refine completes_request hnext (exec_send p k s) (by decide) (by decide) (hperf.trans (by rw [hu]; rfl)) (hovf'.trans hovf) ⟨?_, ?_, ?_⟩
    · rw [packetFoot_qp, hepsn, hpsn]; rfl
    · rw [packetFoot_mem, ← humem]; exact hmem
    · rw [packetFoot_qp, hrecv', huq]; rfl
  · intro s a b c p k va len tag lsig hready hop hrsv hport hdev hqpn hcrc hip hver h0 h1 h6 hkey hpayload hext hposted hread hlsig hlen hwrite
      hfinish hovf
    have hdone : (c.qp 0).rqDone = (s.qp 0).rqDone + 1 := by rw [← hfinish, finishRecv_rqDone]
    have hrx := rxCm_taken hop hrsv hport hdev hqpn hcrc hip hver h0 h1 h6 hkey hpayload hext hposted hread hlsig hlen hwrite hfinish
    refine completes_run hready (exec_cm p k s) ?_
    rw [hrx]
    by_cases hfirm : c.running = true ∧ (!k.poison) = true
    · rw [if_pos hfirm, xptEnd_none (by rw [cmHandle_xpt]; exact hovf)]
      refine ⟨?_, ?_, fun _ _ => ⟨rfl, rfl⟩⟩
      · exact (congrArg Qp.rqDone (State.qp_congr (cmHandle_xpt ..) 0)).trans hdone
      · rintro (h | h)
        · rw [h] at hfirm; cases hfirm.1
        · rw [h] at hfirm; cases hfirm.2
    · rw [if_neg hfirm, xptEnd_none hovf]
      refine ⟨?_, fun _ => ⟨rfl, rfl⟩, fun hr hp => absurd ⟨hr, by rw [hp]; rfl⟩ hfirm⟩
      exact hdone
  · intro s o u p k n crew e attempt len j hnext hn hhead hfirst hlast hvalid hkey hbad hlen hmax hpart hmember hopen hfresh hwrite hxpt
    subst hn
    have hperf := rakeNew_first (s := takenIn s k) hhead hfirst hlast hvalid hkey hbad hlen hmax hpart hmember hopen hwrite
    obtain ⟨hoxpt, hengine, hqp, hpackets, hdue, hgot, hpsn⟩ := openJob_job hopen
    obtain ⟨v, hv⟩ : ∃ v, v = u.modXpt fun x => { x with
      jobs := x.jobs.map fun x => if x == j then { j with got := j.got + 1, replyPsn := k.psn } else x } := ⟨_, rfl⟩
    have hvq : v.qp k.dstQpn.toNat = s.qp k.dstQpn.toNat := by
      rw [hv, State.modXpt, State.qp, hxpt, hoxpt]; rfl
    have hjobs : v.xpt.jobs = s.xpt.jobs ++ [{ j with got := 1 }] := by
      have hj : { j with got := j.got + 1, replyPsn := k.psn } = { j with got := 1 } := by rw [hgot, ← hpsn]
      rw [hv, State.modXpt_xpt, hxpt, hoxpt]
      exact (map_newJob hfresh).trans (by rw [hj])
    have hovf : v.xpt.cqOvf = s.xpt.cqOvf := by rw [hv, State.modXpt_xpt, hxpt, hoxpt]; rfl
    have hvmem : v.mem = u.mem := by rw [hv]; rfl
    have hs := nextAt_of_request (t := s) hnext rfl
    have hat : NextAt v k.dstQpn.toNat k.psn := ⟨by rw [hvq]; exact hs.epsn, by rw [hvq]; exact hs.ahead, by rw [hvq]; exact hs.recv,
      by rw [hvq]; exact hs.rsigs⟩
    obtain ⟨hepsn, -, -, hjobs', hovf', hmem⟩ := consumed_leaves (consumed_next hat 1 (marked k) k)
    refine completes_request hnext (exec_rakeReq p k s) (by decide) (by decide) (hperf.trans (by rw [hv])) (hovf'.trans hovf)
      ⟨?_, ?_, ?_, hengine, hqp, hpackets, hdue⟩
    · rw [packetFoot_qp, hepsn, hs.epsn]; rfl
    · rw [packetFoot_mem, ← hvmem]; exact hmem
    · rw [packetFoot_xpt, hjobs', hjobs]
  · intro s n e j at_ err hready hstored
    have htc : crewTc (s.crewCtrl n.val) < 64 := by unfold crewTc fld; omega
    refine ⟨fun hlive => ?_, fun hlive hresp => ?_, fun hlive hresp herr => ?_⟩
    · refine completes_run hready (exec_rakeReply n e s) ?_
      rw [rakeReply_gone hstored hlive]
      refine ⟨rfl, ?_, rfl⟩
      rw [Footprint.apply_tcErr, if_pos rfl]
      exact State.tcErr_setBit64_err s htc false
    · refine completes_run hready (exec_rakeReply n e s) ?_
      rw [rakeReply_deaf hstored hlive hresp]
      exact ⟨rfl, rfl⟩
    · subst herr
      obtain ⟨u, hsent, hreply⟩ := rakeReply_sends hstored hlive hresp
      refine completes_run hready (exec_rakeReply n e s) ?_
      rw [hreply, if_pos (by rfl)]
      refine ⟨?_, ?_, ?_⟩
      · rw [Footprint.apply_xpt, if_pos rfl, State.count_xpt, State.modXpt_xpt, State.raise_xpt, State.count_xpt, hsent.xpt]; rfl
      · rw [Footprint.apply_tcErr, if_pos rfl, count_tcErr _ _ e.isLt (by decide)]
        refine (count_tcErr u 1 e.isLt (by decide)).trans ?_
        rw [State.tcErr, hsent.r64]
        exact State.tcErr_setBit64_err s htc false
      · rw [Footprint.apply_evq, if_pos rfl]
        refine count_evq_mem _ _ _ (List.mem_append_right _ (List.mem_singleton.mpr rfl))
  · intro s b n e j at_ parts hready hstored hlive hresp hread hxpt
    obtain ⟨u, hsent, hreply⟩ := rakeReply_sends hstored hlive hresp
    have hr : s.rakeRead n.val e.val j false = (b, parts, 0) := hread
    rw [hr] at hsent hreply
    refine completes_run hready (exec_rakeReply n e s) ?_
    rw [hreply, if_neg (by simp)]
    refine ⟨?_, ?_⟩
    · rw [Footprint.apply_xpt, if_pos rfl, State.count_xpt, State.modXpt_xpt, hsent.xpt, hxpt]
    · rw [Footprint.apply_mem, if_pos rfl, State.count_mem]; exact hsent.mem

end Sys2Proof.Machine
end

section
/-! SUPPORT. What a flush leaves of the queue pairs' states, the queue-pair commands, and the statement about them (R319, R320, R324, R338,
R339, R341). -/
namespace Sys2Proof.Machine

open Sys2Proof

/-! ## State, status and FORCE of a queue pair -/

/-- What a queue pair has come to: its state, the status of its error, and whether a FORCE awaits its boundary. -/
def Qp.fate (q : Qp) : Nat × Nat × Bool := (q.state, q.errStatus, q.forcePend)

theorem State.modQp_other (s : State) {m n : Nat} (f : Qp → Qp) (h : n ≠ m) : (s.modQp m f).qp n = s.qp n :=
  (Sparse.get_set ..).trans (if_neg h)

/-- A change that leaves the fate of the queue pair changed leaves every fate. -/
theorem State.modQp_fate (s : State) (m n : Nat) {f : Qp → Qp} (hf : ∀ q, (f q).fate = q.fate) :
    ((s.modQp m f).qp n).fate = (s.qp n).fate := by
  by_cases h : n = m
  · rw [h, State.modQp_self, hf]
  · rw [State.modQp_other s f h]

theorem setQp_self (s : State) (n : Nat) (q : Qp) : (s.setQp n q).qp n = q := Sparse.get_set_self ..
theorem cqOvf_qp (s : State) (f : Xpt → List Nat) (n : Nat) : (s.modXpt fun x => { x with cqOvf := f x }).qp n = s.qp n := rfl
theorem modSrv_qp (s : State) (f : Srv → Srv) (n : Nat) : (s.modSrv f).qp n = s.qp n := rfl
theorem dropJobs_qp (s : State) (m n : Nat) : (s.dropJobs m).qp n = s.qp n := rfl

theorem tableRead_qp (s : State) (reg off len src n : Nat) : (s.tableRead reg off len src).1.qp n = s.qp n :=
  State.qp_congr ((tableRead_keeps ..).xpt rfl) n

theorem tableWrite_qp (s : State) (reg off src : Nat) (b : List Byte) (n : Nat) : (s.tableWrite reg off src b).qp n = s.qp n :=
  State.qp_congr ((tableWrite_keeps ..).xpt rfl) n

/-- A CQE may overflow its queue, but changes no queue pair. -/
theorem cqe_qp (s : State) (c m tag status : Nat) (recv : Bool) (index : Word) (bytes pkey srcDev n : Nat) :
    (s.cqe c m tag status recv index bytes pkey srcDev).qp n = s.qp n := by
  unfold State.cqe
  dsimp only
  split
  · exact tableRead_qp ..
  · split
    · rw [cqOvf_qp, State.raise_qp, tableWrite_qp, tableRead_qp]
    · rw [tableWrite_qp, State.qp_congr ((vSpanWrite_keeps ..).xpt rfl), tableRead_qp]

/-! ## Destinations and buffers that are poisoned (Table 13-13) -/

theorem claimSlot_xpt (s : State) (n : Nat) (words : List Dword) : (s.claimSlot n words).1.xpt = s.xpt := by
  unfold State.claimSlot
  dsimp only
  split
  · exact (vNma_keeps ..).xpt rfl
  · exact (vNma_keeps ..).xpt rfl

theorem rakeRecord_xpt (s : State) (n : Nat) (words : List Dword) : (s.rakeRecord n words).1.xpt = s.xpt := (vSpanRead_keeps ..).xpt rfl

theorem readRq_xpt (s : State) (n : Nat) (i : Word) : (s.readRq n i).1.xpt = s.xpt := by
  unfold State.readRq
  dsimp only
  split
  · exact (vSpanRead_keeps ..).xpt rfl
  · exact (vSpanRead_keeps ..).xpt rfl

theorem poisonLocal_xpt (s : State) (n : Nat) (words : List Dword) (w : Option Wqe) : (s.poisonLocal n words w).xpt = s.xpt := by
  have hsize : (match w with | some w => (s, w.size) | none => s.rakeRecord n words).1.xpt = s.xpt := by
    cases w with
    | none => exact rakeRecord_xpt ..
    | some w => rfl
  unfold State.poisonLocal
  dsimp only
  split
  · exact (vSpanWrite_keeps ..).xpt rfl
  · split
    · split
      · rw [(vSpanWrite_keeps ..).xpt rfl]
        split
        · exact hsize
        · rw [claimSlot_xpt]; exact hsize
      · split
        · exact hsize
        · rw [claimSlot_xpt]; exact hsize
    · rfl

theorem poisonRecv_xpt (s : State) (n : Nat) (i : Word) (st : Nat) : (s.poisonRecv n i st).xpt = s.xpt := by
  unfold State.poisonRecv
  dsimp only
  split
  · rfl
  · split
    · rw [(vSpanWrite_keeps ..).xpt rfl, readRq_xpt]
    · exact readRq_xpt ..

/-! ## Completions and flushes leave every fate -/

theorem finishSend_fate (s : State) (m : Nat) (i : Word) (words : List Dword) (w : Option Wqe) (st n : Nat) :
    ((s.finishSend m i words w st).qp n).fate = (s.qp n).fate := by
  have hpoison (b : Bool) : ((if b then s else s.poisonLocal m words w).qp n) = s.qp n := by
    cases b with
    | true => rfl
    | false => exact State.qp_congr (poisonLocal_xpt ..) n
  have hsig (u : State) (x : Nat) (e : Bool) : (u.sendSig x e).qp n = u.qp n := rfl
  unfold State.finishSend
  dsimp only
  rw [State.modQp_fate, hsig, hsig]
  · split
    · rw [cqe_qp, hpoison]
    · rw [hpoison]
  · exact fun _ => rfl

theorem finishRecv_fate (s : State) (m : Nat) (i : Word) (tag : Nat) (lsig : Word) (st bytes pkey srcDev n : Nat) :
    ((s.finishRecv m i tag lsig st bytes pkey srcDev).qp n).fate = (s.qp n).fate := by
  have hsig (u : State) (x : Nat) (e : Bool) : (u.sendSig x e).qp n = u.qp n := rfl
  unfold State.finishRecv
  dsimp only
  rw [State.modQp_fate, hsig, cqe_qp]
  exact fun _ => rfl

theorem flushSend_fate (s : State) (m : Nat) (bad : Option (Word × Nat)) (rest n : Nat) :
    ((s.flushSend m bad rest).qp n).fate = (s.qp n).fate := by
  unfold State.flushSend
  dsimp only
  refine State.upTo_view (fun u => (u.qp n).fate) _ _ (fun u j _ => ?_) s
  split
  · exact finishSend_fate ..
  · rw [finishSend_fate, State.qp_congr (readSq_xpt ..)]

theorem flushRecv_fate (s : State) (m : Nat) (bad : Option (Word × Nat)) (n : Nat) :
    ((s.flushRecv m bad).qp n).fate = (s.qp n).fate := by
  unfold State.flushRecv
  dsimp only
  refine State.upTo_view (fun u => (u.qp n).fate) _ _ (fun u j _ => ?_) s
  split
  · rw [finishRecv_fate, State.qp_congr (poisonRecv_xpt ..)]
  · split
    · rw [finishRecv_fate, State.qp_congr (readRq_xpt ..), State.qp_congr (poisonRecv_xpt ..)]
    · rw [finishRecv_fate, State.qp_congr (readRq_xpt ..), State.qp_congr (poisonRecv_xpt ..)]

theorem failRsigs_fate (s : State) (m n : Nat) : ((s.failRsigs m).qp n).fate = (s.qp n).fate := by
  obtain ⟨u, hu, h⟩ := failRsigs_forgets s m
  rw [h, State.modQp_fate, State.qp_congr hu]
  exact fun _ => rfl

/-! ## ERROR (R338, R339) -/

/-- What ERROR makes of a queue pair's fate: a queue pair in RESET or in ERROR stays as it is. -/
theorem toError_fate (s : State) (m : Nat) (bad : Option (Word × Nat)) (rest : Nat) (badRecv : Option (Word × Nat)) (psn : BitVec 24)
    (cancel : Bool) (n : Nat) (h : n ≠ m ∨ (s.qp m).state = 6) :
    ((s.toError m bad rest badRecv psn cancel).qp n).fate = (s.qp n).fate := by
  unfold State.toError
  dsimp only
  split
  · rfl
  · next hlive =>
    have hne : n ≠ m := h.resolve_right fun h6 => hlive (.inr h6)
    have hend (u : State) (st : Nat) : (if cancel = true then (u.sample xptPn 9).xptLogNow m st psn
        else (u.raise xptPn 8 3 (s.qp m).src).xptLog m st psn false).qp n = u.qp n := by
      cases cancel with
      | false => rfl
      | true => rw [if_pos rfl, State.xptLogNow, State.w64_qp, State.w64_qp, State.sample_qp]
    rw [hend, dropJobs_qp, State.modQp_fate, flushRecv_fate, flushSend_fate, failRsigs_fate, State.modQp_other _ _ hne,
      (sendPacket_sendsOnly ..).qp]
    exact fun _ => rfl

/-- A queue pair that is live enters ERROR with a status. -/
theorem toError_fate_self (s : State) (n st : Nat) (psn : BitVec 24) (h0 : (s.qp n).state ≠ 0) (h6 : (s.qp n).state ≠ 6) :
    ((s.toError n none st none psn true).qp n).fate = (6, st, (s.qp n).forcePend) := by
  rw [State.toError, if_neg (by simp [h0, h6])]
  dsimp only
  rw [if_pos rfl, State.xptLogNow, State.w64_qp, State.w64_qp, State.sample_qp, dropJobs_qp, State.modQp_fate, flushRecv_fate,
    flushSend_fate, failRsigs_fate, State.modQp_self, (sendPacket_sendsOnly ..).qp]
  · rfl
  · exact fun _ => rfl

/-- Completion queues that overflow bring other queue pairs to ERROR; one that is there stays as it is. -/
theorem cqSettle_fate (fuel : Nat) (s : State) {n : Nat} (h : (s.qp n).state = 6) : ((s.cqSettle fuel).qp n).fate = (s.qp n).fate := by
  induction fuel generalizing s with
  | zero => rfl
  | succ fuel ih =>
    unfold State.cqSettle
    split
    · rfl
    · next c rest _ =>
      have heach := State.each_keeps (P := fun u : State => (u.qp n).fate = (s.qp n).fate)
        (fun u m => u.toError m none 3 none (u.qp m).una false) ((s.modXpt fun x => { x with cqOvf := rest }).boundQps c)
        (fun u m _ hu => by
          refine (toError_fate u m none 3 none _ false n ?_).trans hu
          by_cases hm : n = m
          · exact .inr (hm ▸ (congrArg Prod.fst hu).trans h)
          · exact .inl hm)
        (s.modXpt fun x => { x with cqOvf := rest }) rfl
      exact (ih _ ((congrArg Prod.fst heach).trans h)).trans heach

theorem qpForced_fate {s : State} {n : Nat} (h0 : (s.qp n).state ≠ 0) (h6 : (s.qp n).state ≠ 6) :
    ((s.qpForced n).qp n).fate = (6, 2, (s.qp n).forcePend) := by
  have herr := toError_fate_self s n 2 (s.qp n).una h0 h6
  rw [State.qpForced, State.xptEnd, cqSettle_fate _ _ (congrArg Prod.fst herr), herr]

/-! ## XPT_QP_CMD_STAT (Table 13-9) -/

theorem qpStat_word (s : State) (n : Nat) (err : Bool) {st : Nat} (h : (s.qp n).state = st) :
    (s.qpStat n err).r32 Reg.xptQpCmdStat = BitVec.ofNat 32 (err.toNat * 2 + st * 2 ^ 8) := by
  rw [State.qpStat, State.r32_w32_self, h]

theorem qpStat_err (s : State) (n : Nat) (err : Bool) : (s.qpStat n err).rb Reg.xptQpCmdStat 1 = err := by
  rw [State.rb, qpStat_word s n err rfl, BitVec.getLsbD_ofNat, Nat.testBit_eq_decide_div_mod_eq]
  cases err <;> simp <;> omega

theorem qpStat_evq (s : State) (n : Nat) (err : Bool) : (s.qpStat n err).evq = s.evq := rfl
theorem packetFoot_r32 (s t : State) (a : Nat) : (packetFoot.apply s t).r32 a = t.r32 a := rfl
theorem packetFoot_rb (s t : State) (a b : Nat) : (packetFoot.apply s t).rb a b = t.rb a b := rfl
theorem qpStat_qp (s : State) (n : Nat) (err : Bool) (m : Nat) : (s.qpStat n err).qp m = s.qp m := rfl

theorem qpCmd_taken {s : State} {n : Nat} {l : List Nat} (h : (s.qp n).state ∈ l) (f : State → State) :
    s.qpCmd n l f = (f s).qpStat n false := if_pos (List.contains_iff_mem.mpr h)

theorem qpCmd_refused {s : State} {n : Nat} {l : List Nat} (h : (s.qp n).state ∉ l) (f : State → State) :
    s.qpCmd n l f = s.qpStat n true := if_neg fun hc => h (List.contains_iff_mem.mp hc)

/-- A command that is not allowed leaves the transport as it is and sets ERR. -/
theorem completes_refused {c : Instr} {s : State} {n : Nat} {fp : Footprint} {f : State → State} (h : Ready s) (hc : exec c s = run fp f s)
    (hregs : fp.regs = true) (hf : f s = s.qpStat n true) :
    Completes c s fun t => t.xpt = s.xpt ∧ t.rb Reg.xptQpCmdStat 1 = true := by
  refine completes_run h hc ?_
  rw [hf]
  refine ⟨?_, ?_⟩
  · rw [Footprint.apply_xpt]
    split <;> rfl
  · rw [Footprint.apply_rb, if_pos hregs, qpStat_err]

/-! ## INIT (R319) -/

/-- The context of queue pair n as it is read. -/
def contextOf (r : Rd) : Qp := { Qp.reset with ctx := (List.range 8).map fun i => BitVec.ofNat 64 (natLE (slice r.data (8 * i) 8)) }

/-- The queue pair as INIT leaves it, with a window of cwnd. -/
def Qp.initialised (q : Qp) (cwnd : Nat) : Qp :=
  { q with state := 1, port := q.c 0 1 3, npsn := q.spsn, una := q.spsn, epsn := q.rpsn, recover := q.spsn - 1, cwnd := cwnd,
           ssthresh := 256 * q.wndMax }

section
variable {s a : State} {n : Nat} {r : Rd} (h0 : (s.qp n).state = 0) (hread : s.tableRead Reg.xptQpcBase (256 * n) 64 (s.qp n).src = (a, r))
include h0 hread

theorem qpInit_taken (herr : r.err = 0) (hpoison : r.poison = false) (hbad : (contextOf r).badContext = false)
    (hkey : a.pkeyKnown (contextOf r).pkey = true) :
    s.qpInit n = (a.setQp n ((contextOf r).initialised (256 * a.rf Reg.xptCcCfg 0 13))).qpStat n false := by
  rw [State.qpInit, if_neg (not_not_intro h0), hread]
  dsimp only
  exact if_neg (by
    rintro (h | h | h | h)
    · exact h herr
    · rw [hpoison] at h; cases h
    · exact Bool.false_ne_true (hbad.symm.trans h)
    · exact Bool.false_ne_true ((congrArg not hkey).symm.trans h))

theorem qpInit_failed (h : r.err ≠ 0 ∨ r.poison = true ∨ (contextOf r).badContext = true ∨ a.pkeyKnown (contextOf r).pkey = false) :
    s.qpInit n = a.qpStat n true := by
  rw [State.qpInit, if_neg (not_not_intro h0), hread]
  dsimp only
  exact if_pos (h.imp_right fun h => h.imp_right fun h => h.imp_right fun h => congrArg not h)

end

/-! ## MIGRATE (R320) -/

/-- The queue pair on another port. -/
abbrev State.ported (s : State) (n p : Nat) : State := s.modQp n fun q => { q with port := p }

/-- What has nothing started has nothing to send again. -/
theorem resendFrom_idle {s : State} {n : Nat} (hw : (s.qp n).wqes = []) (psn : BitVec 24) : s.resendFrom n psn = s := by
  rw [State.resendFrom, State.resendRange, hw]
  rfl

theorem migrate_idle {s : State} {n : Nat} (p : Nat) (hovf : s.xpt.cqOvf = [])
    (h : (s.qp n).state = 5 ∨ ((s.qp n).state = 3 ∧ (s.qp n).wqes = [])) : s.migrate n p = (s.ported n p).qpStat n false := by
  have hq : (s.ported n p).qp n = { s.qp n with port := p } := State.modQp_self ..
  rw [State.migrate, qpCmd_taken (by rcases h with h | ⟨h, -⟩ <;> simp [h])]
  dsimp only
  rcases h with h5 | ⟨h3, hw⟩
  · rw [if_neg (by rw [hq]; simp [Qp.requests, h5])]
  · have hwqes : ((s.ported n p).qp n).wqes = [] := by rw [hq]; exact hw
    rw [if_pos (by rw [hq]; simp [Qp.requests, h3]), resendFrom_idle hwqes, progress_idle hwqes (by rw [hq]; simp [h3]),
      xptEnd_none (by rw [State.modQp_ovf, hovf])]

/-- What is not acknowledged is sent again on the new port, and no WQE completes. -/
theorem migrate_resends {s u : State} {n p : Nat} {w : Wqe} (hstate : (s.qp n).state = 3 ∨ (s.qp n).state = 4) (hovf : s.xpt.cqOvf = [])
    (hw : (s.qp n).wqes = [w]) (hfail : w.fail = 0) (hend : (s.qp n).npsn = (s.qp n).endPsn)
    (hopen : seqLe (w.psn + BitVec.ofNat 24 w.count) (s.qp n).una = false) (hu : u = (s.ported n p).resendFrom n (s.qp n).una)
    (hxpt : u.xpt = (s.ported n p).xpt) : s.migrate n p = u.qpStat n false ∧ u.qp n = { s.qp n with port := p } := by
  have hq : (s.ported n p).qp n = { s.qp n with port := p } := State.modQp_self ..
  have huq : u.qp n = { s.qp n with port := p } := (State.qp_congr hxpt n).trans hq
  have huovf : u.xpt.cqOvf = [] := by rw [hxpt, State.modQp_ovf, hovf]
  have hwait : u.progress n = u := by
    refine progress_waits (w := w) (ws := []) (by rw [huq]; exact hw) hfail (by rw [huq]; exact hopen) ?_
    rw [huq]
    exact hend
  refine ⟨?_, huq⟩
  rw [State.migrate, qpCmd_taken (by rcases hstate with h | h <;> simp [h])]
  dsimp only
  have hresend : (s.ported n p).resendFrom n ((s.ported n p).qp n).una = u := by rw [hq, hu]
  rw [if_pos (by rw [hq]; rcases hstate with h | h <;> simp [Qp.requests, h]), hresend, hwait, xptEnd_none huovf]

/-! ## The other commands -/

theorem completeLoop_drained {s : State} {n : Nat} (hw : (s.qp n).wqes = []) (h4 : (s.qp n).state = 4) (fuel : Nat) :
    s.completeLoop n (fuel + 1) = (s.modQp n fun q => { q with state := 5 }).raise xptPn 10 5 (s.qp n).src := by
  simp [State.completeLoop, hw, h4]

theorem qpDrain_idle {s : State} {n : Nat} (h3 : (s.qp n).state = 3) (hw : (s.qp n).wqes = []) :
    s.qpDrain n = ((((s.modQp n fun q => { q with state := 4 }).modQp n fun q => { q with state := 5 }).raise xptPn 10 5 (s.qp n).src).qpStat
      n false) := by
  have hq := State.modQp_self s n fun q => { q with state := 4 }
  have hwqes : ((s.modQp n fun q => { q with state := 4 }).qp n).wqes = [] := by rw [hq]; exact hw
  rw [State.qpDrain, qpCmd_taken (by simp [h3]), completeLoop_drained hwqes (by rw [hq]), hq]
  rfl

theorem qpDrain_waits {s : State} {n : Nat} {w : Wqe} {ws : List Wqe} (h3 : (s.qp n).state = 3) (hw : (s.qp n).wqes = w :: ws)
    (hfail : w.fail = 0) (hopen : seqLe (w.psn + BitVec.ofNat 24 w.count) (s.qp n).una = false) :
    s.qpDrain n = (s.modQp n fun q => { q with state := 4 }).qpStat n false := by
  have hq := State.modQp_self s n fun q => { q with state := 4 }
  rw [State.qpDrain, qpCmd_taken (by simp [h3]),
    completeLoop_waits (w := w) (ws := ws) (by rw [hq]; exact hw) hfail (by rw [hq]; exact hopen)]

/-- The boundary of a FORCE brings a live queue pair to ERROR. -/
theorem qpCancel_forced {s : State} {n : Nat} (h0 : (s.qp n).state ≠ 0) (h6 : (s.qp n).state ≠ 6) :
    ((s.qpCancel n).qp n).fate = (6, 2, false) ∧ (s.qpCancel n).r32 Reg.xptQpCmdStat = 0x600 := by
  have hq := State.modQp_self s n fun q => { q with forcePend := false }
  have hfate := qpForced_fate (s := s.modQp n fun q => { q with forcePend := false }) (n := n) (by rw [hq]; exact h0) (by rw [hq]; exact h6)
  rw [hq] at hfate
  rw [State.qpCancel, if_neg (by rw [hq]; exact h6), qpStat_word (st := 6) _ _ _ (congrArg Prod.fst hfate), qpStat_qp]
  exact ⟨hfate, rfl⟩

/-- A queue pair in ERROR is left so, and the FORCE is answered as refused. -/
theorem qpCancel_refused {s : State} {n : Nat} (h6 : (s.qp n).state = 6) :
    s.qpCancel n = (s.modQp n fun q => { q with forcePend := false }).qpStat n true := by
  rw [State.qpCancel, if_pos (by rw [State.modQp_self]; exact h6)]

/-! ## The statement -/

theorem not_evtWord_qpCmdStat : ¬ evtWord (Reg.xptQpCmdStat / 4) := by unfold evtWord; decide

/-- Settles O50, by what each command makes of the states that allow it. -/
theorem queuePairCommands : Obligations.QueuePairCommands := by
  unfold Obligations.QueuePairCommands
  refine ⟨?_, ?_, ?_, ?_, ?_, ?_, ?_, ?_, ?_, ?_, ?_⟩
  · intro s a n r q hready h0 hread hq
    subst hq
    refine ⟨fun herr hpoison hbad hkey => ?_, fun hfail => ?_⟩
    · refine completes_run hready (exec_qpInit n s) ?_
      rw [qpInit_taken h0 hread herr hpoison hbad hkey]
      simp only [Footprint.apply_qp, if_true, qpStat_qp, setQp_self]
      refine ⟨rfl, rfl, rfl, rfl, rfl, rfl, ?_⟩
      rw [Footprint.apply_r32, if_pos rfl, qpStat_word (st := 1) _ _ _ (by rw [setQp_self]; rfl)]; rfl
    · refine completes_run hready (exec_qpInit n s) ?_
      rw [qpInit_failed h0 hread hfail]
      exact ⟨rfl, by rw [Footprint.apply_rb, if_pos rfl, qpStat_err]⟩
  · intro s n hready h1
    refine completes_run hready (exec_qpRtr n s) ?_
    rw [State.qpRtr, qpCmd_taken (by simp [h1])]
    refine ⟨?_, ?_⟩
    · rw [Footprint.apply_qp, if_pos rfl, qpStat_qp, State.modQp_self]
    · rw [Footprint.apply_r32, if_pos rfl, qpStat_word (st := 2) _ _ _ (by rw [State.modQp_self])]; rfl
  · intro s n hready h
    refine completes_run hready (exec_qpRts n s) ?_
    rw [State.qpRts, qpCmd_taken (by rcases h with h | h <;> simp [h])]
    refine ⟨?_, ?_⟩
    · rw [Footprint.apply_qp, if_pos rfl, qpStat_qp, State.modQp_self]
    · rw [Footprint.apply_r32, if_pos rfl, qpStat_word (st := 3) _ _ _ (by rw [State.modQp_self])]; rfl
  · intro s n hready h3
    refine ⟨fun hw => ?_, fun w ws hw hfail hopen => ?_⟩
    · refine completes_run hready (exec_qpDrain n s) ?_
      rw [qpDrain_idle h3 hw]
      refine ⟨?_, ?_, ?_⟩
      · rw [packetFoot_qp, qpStat_qp, State.raise_qp, State.modQp_self, State.modQp_self]
      · rw [packetFoot_evq, qpStat_evq, State.raise_evq]; rfl
      · rw [packetFoot_r32, qpStat_word (st := 5) _ _ _ (by rw [State.raise_qp, State.modQp_self])]; rfl
    · refine completes_run hready (exec_qpDrain n s) ?_
      rw [qpDrain_waits h3 hw hfail hopen]
      refine ⟨?_, ?_, ?_⟩
      · rw [packetFoot_qp, qpStat_qp, State.modQp_self]
      · rw [packetFoot_evq, qpStat_evq]; rfl
      · rw [packetFoot_r32, qpStat_word (st := 4) _ _ _ (by rw [State.modQp_self])]; rfl
  · intro s n hready h
    refine completes_run hready (exec_qpForce n s) ?_
    rw [State.qpForce, qpCmd_taken (by simpa using h)]
    refine ⟨?_, ?_⟩
    · rw [Footprint.apply_qp, if_pos rfl, qpStat_qp, State.modQp_self]
    · rw [Footprint.apply_rb, if_pos rfl, qpStat_err]
  · intro s n hdue h0 h6
    obtain ⟨hfate, hstat⟩ := qpCancel_forced (s := s.undue) (n := n.val) h0 h6
    refine completes_due hdue (by simp [Due.isLast]) (exec_qpCancel n s) ⟨dueDone_due .., ?_, ?_, ?_, ?_⟩
    · rw [dueDone_qp]; exact congrArg Prod.fst hfate
    · rw [dueDone_qp]; exact congrArg (·.2.1) hfate
    · rw [dueDone_qp]; exact congrArg (·.2.2) hfate
    · rw [dueDone_r32 _ _ not_evtWord_qpCmdStat]; exact hstat
  · intro s n hdue h6
    have hcancel : s.undue.performDue (.qpCancel n.val) = (s.undue.modQp n.val fun q => { q with forcePend := false }).qpStat n.val true :=
      qpCancel_refused (s := s.undue) h6
    refine completes_due hdue (by simp [Due.isLast]) (exec_qpCancel n s) ⟨dueDone_due .., ?_, ?_⟩
    · rw [dueDone_qp, hcancel, qpStat_qp, State.modQp_self]; rfl
    · rw [dueDone_r32 _ _ not_evtWord_qpCmdStat, hcancel, qpStat_word _ _ _ (st := 6) (by rw [State.modQp_self]; exact h6)]; rfl
  · intro s n hready h
    have hreset (u : State) : (((u.setQp n.val Qp.reset).dropJobs n.val).modSrv fun v =>
        { v with conns := v.conns.filter fun c => c.qpn != n.val }).qp n.val = Qp.reset := by
      rw [modSrv_qp, dropJobs_qp, setQp_self]
    refine completes_run hready (exec_qpReset n s) ?_
    rw [State.qpReset, qpCmd_taken (by simpa using h)]
    refine ⟨?_, ?_, fun c hc => ?_⟩
    · rw [Footprint.apply_qp, if_pos rfl, qpStat_qp, hreset]
    · rw [Footprint.apply_r32, if_pos rfl, qpStat_word _ _ _ (congrArg Qp.state (hreset s))]; rfl
    · simpa using (List.mem_filter.mp hc).2
  · intro s n p hready hovf h
    refine completes_run hready (exec_migrate n p s) ?_
    rw [migrate_idle p.val hovf h]
    refine ⟨?_, ?_⟩
    · rw [packetFoot_qp, qpStat_qp, State.modQp_self]
    · rw [packetFoot_rb, qpStat_err]
  · intro s m u n p w hready hstate hovf hw hfail hend hopen hm hu hxpt
    subst hm
    obtain ⟨hmigrate, huq⟩ := migrate_resends hstate hovf hw hfail hend hopen hu hxpt
    refine completes_run hready (exec_migrate n p s) ?_
    rw [hmigrate]
    refine ⟨?_, ?_, rfl⟩
    · rw [packetFoot_qp, qpStat_qp, huq]
    · rw [packetFoot_qp, qpStat_qp, huq]
  · intro s n p hready c hc hno
    simp only [List.mem_cons, List.not_mem_nil, or_false] at hc
    rcases hc with rfl | rfl | rfl | rfl | rfl | rfl | rfl
    · exact completes_refused hready (exec_qpInit n s) rfl (if_pos fun h => hno (by rw [h]; simp))
    · exact completes_refused hready (exec_qpRtr n s) rfl (qpCmd_refused hno _)
    · exact completes_refused hready (exec_qpRts n s) rfl (qpCmd_refused hno _)
    · exact completes_refused hready (exec_qpDrain n s) rfl (qpCmd_refused hno _)
    · exact completes_refused hready (exec_qpForce n s) rfl (qpCmd_refused hno _)
    · exact completes_refused hready (exec_qpReset n s) rfl (qpCmd_refused hno _)
    · exact completes_refused hready (exec_migrate n p s) rfl (qpCmd_refused hno _)

end Sys2Proof.Machine
end

section
/-! SUPPORT. What an access to a memory, of the firmware or of what it drives, leaves alone: the firmware's books, tide, and every
register word behind those of the memories. -/
namespace Sys2Proof.Machine

open Sys2Proof

/-! ## The desk of the firmware -/

/-- Words that no access to a memory writes: those behind the board's pages and the lower tiers', but for the words of the memory path. -/
def quietWord (off : Nat) : Bool := !pathWord (off / 4) && decide (0x84400 ≤ off / 4)

theorem quietWord_iff {off : Nat} : quietWord off = true ↔ pathWord (off / 4) = false ∧ 0x84400 ≤ off / 4 := by
  simp [quietWord]

/-- What the firmware works from: its books, tide, and the register words that no access to a memory writes. -/
structure Desk where
  srv : Srv
  tide : Tide
  word : Nat → Word

def State.desk (s : State) : Desk := ⟨s.srv, s.tide, fun off => if quietWord off then s.r32 off else 0⟩

theorem State.desk_of_words {s t : State} (hsrv : t.srv = s.srv) (htide : t.tide = s.tide)
    (hword : ∀ off, quietWord off = true → t.r32 off = s.r32 off) : t.desk = s.desk := by
  have hw : t.desk.word = s.desk.word := by
    funext off
    simp only [State.desk]
    split
    · exact hword off ‹_›
    · rfl
  rw [State.desk, State.desk, hsrv, htide]
  exact congrArg _ hw

section
variable {s t : State}

theorem State.srv_of_desk (h : t.desk = s.desk) : t.srv = s.srv := (congrArg Desk.srv h : _)
theorem State.tide_of_desk (h : t.desk = s.desk) : t.tide = s.tide := (congrArg Desk.tide h : _)
theorem State.r32_of_desk (h : t.desk = s.desk) {off : Nat} (hq : quietWord off = true) : t.r32 off = s.r32 off := by
  have hw := congrFun (congrArg Desk.word h) off
  simpa only [State.desk, hq, if_true] using hw

/-- What keeps to a footprint without the firmware or tide leaves the desk where it leaves the words. -/
theorem Keeps.desk {fp : Footprint} (h : Keeps fp s t) (hsrv : fp.srv = false) (htide : fp.tide = false)
    (hword : ∀ off, quietWord off = true → t.r32 off = s.r32 off) : t.desk = s.desk :=
  State.desk_of_words (h.srv hsrv) (h.tide htide) hword

/-- A footprint with registers shows what an operation in it leaves of the desk. -/
theorem Footprint.of_desk {α : Type} {fp : Footprint} {r : State × α} (hregs : fp.regs = true) (h : r.1.desk = s.desk) :
    (fp.of s r).1.desk = s.desk := by
  refine State.desk_of_words ?_ ?_ fun off hq => ?_
  · simp [Footprint.of, State.srv_of_desk h]
  · simp [Footprint.of, State.tide_of_desk h]
  · rw [Footprint.of, Footprint.apply_r32, if_pos hregs, State.r32_of_desk h hq]

end

@[simp] theorem State.modMem_desk (s : State) (f : Mem → Mem) : (s.modMem f).desk = s.desk := rfl
@[simp] theorem State.raise_desk (s : State) (pn bit cls src : Nat) : (s.raise pn bit cls src).desk = s.desk := rfl
@[simp] theorem State.raiseIf_desk (s : State) (c : Bool) (pn bit cls src : Nat) : (s.raiseIf c pn bit cls src).desk = s.desk := by
  cases c <;> rfl
@[simp] theorem State.drawnN_desk (s : State) (n : Nat) : (s.drawnN n).desk = s.desk := rfl
@[simp] theorem State.markIssued_desk (s s0 : State) (f : Lower → Lower) : (s.markIssued s0 f).desk = s.desk := rfl
@[simp] theorem State.countBytes_desk (s : State) (src ctx kind n : Nat) : (s.countBytes src ctx kind n).desk = s.desk := rfl
@[simp] theorem State.walkKeep_desk (s : State) (w : WalkEntry) : (s.walkKeep w).desk = s.desk := rfl

/-- Counters in front of the words of the desk. -/
theorem State.count_desk (s : State) {off : Nat} (n : Nat) (h : off / 4 + 1 < 0x84400) : (s.count off n).desk = s.desk := by
  refine State.desk_of_words (State.count_srv ..) (State.count_tide ..) fun o hq => ?_
  have ho := (quietWord_iff.1 hq).2
  exact State.count_r32 _ _ (by omega) (by omega)

@[simp] theorem State.brineErr_desk (s : State) : s.brineErr.desk = s.desk := by
  rw [State.brineErr, State.raise_desk, State.count_desk _ _ (by decide)]

/-! ## Board and host -/

theorem State.BoardReads.quiet {s t : State} (h : s.BoardReads t) {off : Nat} (hq : quietWord off = true) : t.r32 off = s.r32 off :=
  h.word off ((by decide : 0x84000 ≤ 0x84400).trans (quietWord_iff.1 hq).2)

theorem State.boardWrite_r32 (s : State) (o src : Nat) (b : List Byte) (poison : Bool) {off : Nat} (hq : quietWord off = true) :
    (s.boardWrite o src b poison).1.r32 off = s.r32 off := by
  unfold State.boardWrite
  split_ifs
  · rfl
  · rfl
  · rfl
  · exact (State.BoardReads.boardDecode ..).quiet hq

@[simp] theorem State.hostSeen_desk (s : State) (o n : Nat) : (s.hostSeen o n).1.desk = s.desk := rfl

@[simp] theorem State.dmaRead_desk (s : State) (o src n a : Nat) : (s.dmaRead o src n a).desk = s.desk := by
  unfold State.dmaRead
  dsimp only
  split <;> rfl

@[simp] theorem State.hostRead_desk (s : State) (o src n : Nat) : (s.hostRead o src n).1.desk = s.desk := by
  unfold State.hostRead
  split
  · rfl
  · split
    · rfl
    · dsimp only
      split_ifs <;> simp

@[simp] theorem State.hostWrite_desk (s : State) (o src : Nat) (b : List Byte) (poison : Bool) :
    (s.hostWrite o src b poison).1.desk = s.desk := by
  unfold State.hostWrite
  split
  · rfl
  · split <;> rfl

/-! ## Lines and spans -/

@[simp] theorem State.lineRead_desk (s : State) (space off src hint : Nat) : (s.lineRead space off src hint).1.desk = s.desk := by
  refine (lineRead_keeps ..).desk rfl rfl fun o hq => ?_
  unfold State.lineRead Footprint.of
  rw [Footprint.apply_r32, if_pos (show lowFoot.regs = true from rfl)]
  split
  · exact State.r32_of_offPath ((State.stackReadNow_offPath ..).trans (State.pastLockAt_offPath ..)) (quietWord_iff.1 hq).1
  · exact (State.BoardReads.boardRead ..).quiet hq
  · exact State.r32_of_desk (State.hostRead_desk ..) hq
  · rfl

@[simp] theorem State.lineWrite_desk (s : State) (space off src hint : Nat) (b : List Byte) (poison : Bool) :
    (s.lineWrite space off src hint b poison).1.desk = s.desk := by
  refine (lineWrite_keeps ..).desk rfl rfl fun o hq => ?_
  unfold State.lineWrite Footprint.of
  rw [Footprint.apply_r32, if_pos (show lowFoot.regs = true from rfl)]
  split
  · exact State.r32_of_offPath ((State.stackWriteNow_offPath ..).trans (State.pastLockAt_offPath ..)) (quietWord_iff.1 hq).1
  · exact State.boardWrite_r32 _ _ _ _ _ hq
  · exact State.r32_of_desk (State.hostWrite_desk ..) hq
  · rfl

@[simp] theorem State.spanRead_desk (s : State) (space off n src hint : Nat) : (s.spanRead space off n src hint).1.desk = s.desk := by
  unfold State.spanRead
  refine foldl_view State.desk _ (fun a p => ?_) _ (s, _)
  dsimp only
  exact State.lineRead_desk ..

@[simp] theorem State.spanWrite_desk (s : State) (space off src hint : Nat) (b : List Byte) (poison : Bool) :
    (s.spanWrite space off src hint b poison).1.desk = s.desk := by
  unfold State.spanWrite
  refine foldl_view State.desk _ (fun a p => ?_) _ (s, (0, 0))
  dsimp only
  exact State.lineWrite_desk ..

/-! ## Virtual addresses, which the firmware translates at the hub -/

@[simp] theorem State.walkLevels_desk (s : State) (x : Xlator) (ctx va : Nat) (levels : List Nat) (table : Nat) :
    (s.walkLevels x ctx va levels table).1.desk = s.desk := by
  induction levels generalizing s table with
  | nil => rfl
  | cons l rest ih =>
    unfold State.walkLevels
    dsimp only
    split_ifs <;> simp [ih]

@[simp] theorem State.walk_desk (s : State) (ctx va : Nat) : (s.walk none ctx va).1.desk = s.desk := by
  have hhub : walker none = 8 := rfl
  unfold State.walk
  simp only [hhub, Nat.lt_irrefl, if_false, if_true]
  generalize s.r32 (Reg.coreCtxRoot 0 ctx) = root
  repeat' split
  all_goals simp

@[simp] theorem State.xlInstall_desk (s : State) (t : XEntry) : (s.xlInstall none t).desk = s.desk := rfl

@[simp] theorem State.brineHdr_desk (s : State) (space off : Nat) : (s.brineHdr space off).1.desk = s.desk := by
  simp [State.brineHdr]

@[simp] theorem State.brineDecode_desk (s : State) (space off dataOff total b : Nat) :
    (s.brineDecode space off dataOff total b).1.desk = s.desk := by
  unfold State.brineDecode
  dsimp only
  split_ifs
  · simp
  · simp
  · simp
  · simp
  · simp
  · dsimp only
    rw [foldl_view State.desk]
    · simp
    · exact fun _ _ => State.spanRead_desk ..
  · simp
  · split <;> simp

@[simp] theorem State.brineCached_desk (s : State) (space off dataOff total b : Nat) :
    (s.brineCached space off dataOff total b).1.desk = s.desk := by
  unfold State.brineCached
  dsimp only
  split
  · simp
  · split <;> simp

@[simp] theorem State.translate_desk (s : State) (ctx va : Nat) : (s.translate none ctx va).1.desk = s.desk := by
  unfold State.translate
  refine Footprint.of_desk rfl ?_
  split
  · simp
  · dsimp only
    split_ifs
    · simp
    · simp
    · split
      · split <;> simp
      · simp
    · simp

section
variable (s : State) (ctx va n hint : Nat) (b : List Byte) (poison : Bool)

@[simp] theorem State.xlFault_desk (u : State) (write : Bool) (reason : Nat) : (u.xlFault (srvAcc ctx) write reason va).desk = u.desk := rfl

@[simp] theorem State.vRead_desk : (s.vRead (srvAcc ctx) va n hint).1.desk = s.desk := by
  have hx : (s.translate (srvAcc ctx).who (srvAcc ctx).ctx va).1.desk = s.desk := State.translate_desk ..
  unfold State.vRead
  refine Footprint.of_desk rfl ?_
  dsimp only
  split_ifs <;> simp [hx]

@[simp] theorem State.vWrite_desk : (s.vWrite (srvAcc ctx) va hint b poison).1.desk = s.desk := by
  have hx : (s.translate (srvAcc ctx).who (srvAcc ctx).ctx va).1.desk = s.desk := State.translate_desk ..
  unfold State.vWrite
  refine Footprint.of_desk rfl ?_
  dsimp only
  split_ifs <;> simp [hx]

@[simp] theorem State.vSpanRead_desk : (s.vSpanRead (srvAcc ctx) va n hint).1.desk = s.desk :=
  foldl_view State.desk _ (fun a p => by dsimp only; split <;> simp) _ (s, _)

@[simp] theorem State.vSpanWrite_desk : (s.vSpanWrite (srvAcc ctx) va hint b poison).1.desk = s.desk :=
  foldl_view State.desk _ (fun a p => by dsimp only; split <;> simp) _ (s, (0, 0))

@[simp] theorem State.kvDesc_desk : (s.kvDesc (srvAcc ctx) va).1.desk = s.desk := by
  unfold State.kvDesc
  dsimp only
  split_ifs <;> simp

end

end Sys2Proof.Machine
end

section
/-! SUPPORT. What the firmware's own bookkeeping leaves of its requests and of the step: its writes to memory, its budgets, prefixes,
pages and completions. -/
namespace Sys2Proof.Machine

open Sys2Proof

/-! ## The files of the firmware -/

/-- A request but for what the rings and the index of prefixes keep in it: whether its END record is owed, and its prompt's hashes. -/
def Hamper.card (h : Hamper) : Hamper := { h with endOwed := false, hashes := [] }

/-- What a card shows of a request. -/
theorem Hamper.read_card {α : Type} (f : Hamper → α) (hf : ∀ h : Hamper, f h.card = f h) {h g : Hamper} (e : h.card = g.card) :
    f h = f g := by
  rw [← hf h, e, hf g]

/-- The books but for requests and for what changes beside them: budgets, adapters, prefixes, pages, fences and the records that are owed. -/
def Srv.ledger (v : Srv) : Srv :=
  { v with hampers := [], budgets := [], adapters := [], prefixes := [], pool := [], retained := [], fences := [], owed := [] }

/-- Registers that software has set, or the host has written, and that no bookkeeping changes. -/
def setting (off : Nat) : Bool := [Reg.srvCmdTail, Reg.srvCplCons, Reg.srvStepCfg, Reg.srvRtStat, Reg.srvStPosMax].contains off

theorem quietWord_of_setting {off : Nat} (h : setting off = true) : quietWord off = true := by
  have hall : ∀ o ∈ [Reg.srvCmdTail, Reg.srvCplCons, Reg.srvStepCfg, Reg.srvRtStat, Reg.srvStPosMax], quietWord o = true := by
    decide +kernel
  exact hall off (List.contains_iff_mem.1 h)

/-- What is filed of a state: the ledger, tide and the settings, and the request at each index. -/
structure Files where
  ledger : Srv
  tide : Tide
  word : Nat → Word
  card : Nat → Hamper

def State.files (s : State) : Files :=
  ⟨s.srv.ledger, s.tide, fun off => if setting off then s.r32 off else 0, fun i => (s.hamper i).card⟩

/-- The files with another request at an index. -/
def Files.put (x : Files) (i : Nat) (h : Hamper) : Files := { x with card := fun j => if j = i then h else x.card j }

section
variable {s t : State}

theorem State.files_of (hledger : t.srv.ledger = s.srv.ledger) (htide : t.tide = s.tide)
    (hword : ∀ off, setting off = true → t.r32 off = s.r32 off) (hcard : ∀ i, (t.hamper i).card = (s.hamper i).card) :
    t.files = s.files := by
  have hw : t.files.word = s.files.word := by
    funext off
    simp only [State.files]
    split
    · exact hword off ‹_›
    · rfl
  have hc : t.files.card = s.files.card := funext hcard
  rw [State.files, State.files, hledger, htide]
  exact congr (congrArg _ hw) hc

theorem State.files_of_desk (h : t.desk = s.desk) : t.files = s.files := by
  have hsrv := State.srv_of_desk h
  exact State.files_of (by rw [hsrv]) (State.tide_of_desk h) (fun off hs => State.r32_of_desk h (quietWord_of_setting hs))
    fun i => by rw [State.hamper, State.hamper, hsrv]

theorem State.r32_of_files (h : t.files = s.files) {off : Nat} (hs : setting off = true) : t.r32 off = s.r32 off := by
  have hw := congrFun (congrArg Files.word h) off
  simpa only [State.files, hs, if_true] using hw
theorem State.card_of_files (h : t.files = s.files) (i : Nat) : (t.hamper i).card = (s.hamper i).card :=
  (congrFun (congrArg Files.card h) i : _)
theorem State.ledger_of_files (h : t.files = s.files) : t.srv.ledger = s.srv.ledger := (congrArg Files.ledger h : _)

end

/-- A walk whose every step leaves what a view shows leaves it. -/
theorem foldl_shows {α γ δ : Type} (view : γ → δ) (f : γ → α → γ) (h : ∀ a x, view (f a x) = view a) (l : List α) (a : γ) :
    view (l.foldl f a) = view a :=
  List.foldlRecOn l f (motive := fun b => view b = view a) rfl fun b hb x _ => (h b x).trans hb

/-! ## The plain operations -/

section
variable (s : State)

@[simp] theorem State.raise_files (pn bit cls src : Nat) : (s.raise pn bit cls src).files = s.files := rfl
@[simp] theorem State.raiseIf_files (c : Bool) (pn bit cls src : Nat) : (s.raiseIf c pn bit cls src).files = s.files :=
  State.files_of_desk (State.raiseIf_desk ..)
@[simp] theorem State.gutexSend_files (o : Out) (vl type : Nat) (data : List Byte) : (s.gutexSend o vl type data).files = s.files := rfl
@[simp] theorem State.hostWrite_files (o src : Nat) (b : List Byte) (poison : Bool) : (s.hostWrite o src b poison).1.files = s.files :=
  State.files_of_desk (State.hostWrite_desk ..)
@[simp] theorem State.spanWrite_files (space off src hint : Nat) (b : List Byte) (poison : Bool) :
    (s.spanWrite space off src hint b poison).1.files = s.files := State.files_of_desk (State.spanWrite_desk ..)

@[simp] theorem State.srvPut_desk (off : Nat) (b : List Byte) : (s.srvPut off b).desk = s.desk := State.spanWrite_desk ..
@[simp] theorem State.srvPut_files (off : Nat) (b : List Byte) : (s.srvPut off b).files = s.files := State.spanWrite_files ..
@[simp] theorem State.srvPut_srv (off : Nat) (b : List Byte) : (s.srvPut off b).srv = s.srv := State.srv_of_desk (State.srvPut_desk ..)

theorem State.w32_files {off : Nat} (v : Word) (h : ∀ o, setting o = true → o / 4 ≠ off / 4) : (s.w32 off v).files = s.files :=
  State.files_of rfl rfl (fun o hs => by rw [State.r32_w32, if_neg (h o hs)]) fun _ => rfl

/-- A register is none of the settings, by its word. -/
theorem setting_word {off : Nat}
    (h : ∀ o ∈ [Reg.srvCmdTail, Reg.srvCplCons, Reg.srvStepCfg, Reg.srvRtStat, Reg.srvStPosMax], o / 4 ≠ off / 4) :
    ∀ o, setting o = true → o / 4 ≠ off / 4 := fun o hs => h o (List.contains_iff_mem.1 hs)

theorem State.count_files {off : Nat} (n : Nat) (h : ∀ o, setting o = true → o / 4 ≠ off / 4)
    (h' : ∀ o, setting o = true → o / 4 ≠ (off + 4) / 4) : (s.count off n).files = s.files := by
  rw [State.count, State.raiseIf_files, State.w64, State.w32_files _ _ h', State.w32_files _ _ h]

@[simp] theorem State.wbStat_files (lo : Nat) (b : Bool) : (s.wb Reg.srvStat lo b).files = s.files :=
  State.w32_files _ _ (setting_word (by decide))
@[simp] theorem State.countEnd_files (n : Nat) : (s.count Reg.srvEndCnt n).files = s.files :=
  State.count_files _ _ (setting_word (by decide)) (setting_word (by decide))
@[simp] theorem State.countProposed_files (n : Nat) : (s.count Reg.srvSpecProposed n).files = s.files :=
  State.count_files _ _ (setting_word (by decide)) (setting_word (by decide))
@[simp] theorem State.countAccepted_files (n : Nat) : (s.count Reg.srvSpecAccepted n).files = s.files :=
  State.count_files _ _ (setting_word (by decide)) (setting_word (by decide))
@[simp] theorem State.countPreempt_files (n : Nat) : (s.count Reg.srvPreemptCnt n).files = s.files :=
  State.count_files _ _ (setting_word (by decide)) (setting_word (by decide))
@[simp] theorem State.countDefer_files (n : Nat) : (s.count Reg.srvDeferCnt n).files = s.files :=
  State.count_files _ _ (setting_word (by decide)) (setting_word (by decide))
@[simp] theorem State.countFallback_files (n : Nat) : (s.count Reg.srvFbRowsCnt n).files = s.files :=
  State.count_files _ _ (setting_word (by decide)) (setting_word (by decide))
@[simp] theorem State.countReload_files (n : Nat) : (s.count Reg.srvWerrCnt n).files = s.files :=
  State.count_files _ _ (setting_word (by decide)) (setting_word (by decide))

/-- A change of the books that the ledger does not show, and that leaves the requests. -/
theorem State.modSrv_files {f : Srv → Srv} (hledger : (f s.srv).ledger = s.srv.ledger) (hhampers : (f s.srv).hampers = s.srv.hampers) :
    (s.modSrv f).files = s.files :=
  State.files_of hledger rfl (fun _ _ => rfl) fun i => by rw [State.hamper, State.modSrv_srv, hhampers, State.hamper]

end

/-! ## Requests -/

theorem State.setHamper_hamper (s : State) (i : Nat) (x : Hamper) (j : Nat) :
    (s.setHamper i x).hamper j = if j = i then x else s.hamper j := Sparse.get_set ..
theorem State.modHamper_hamper (s : State) (i : Nat) (f : Hamper → Hamper) (j : Nat) :
    (s.modHamper i f).hamper j = if j = i then f (s.hamper i) else s.hamper j := State.setHamper_hamper ..
@[simp] theorem State.modHamper_same (s : State) (i : Nat) (f : Hamper → Hamper) : (s.modHamper i f).hamper i = f (s.hamper i) := by
  rw [State.modHamper_hamper, if_pos rfl]

theorem State.modHamper_files (s : State) (i : Nat) (f : Hamper → Hamper) :
    (s.modHamper i f).files = s.files.put i (f (s.hamper i)).card := by
  have hc : (fun j => ((s.modHamper i f).hamper j).card) = fun j => if j = i then (f (s.hamper i)).card else (s.hamper j).card := by
    funext j
    rw [State.modHamper_hamper, apply_ite Hamper.card]
  rw [State.files, hc]
  rfl

/-- A change of what no card shows. -/
theorem State.modHamper_files_self (s : State) (i : Nat) {f : Hamper → Hamper} (hf : ∀ h, (f h).card = h.card) :
    (s.modHamper i f).files = s.files := by
  refine State.files_of rfl rfl (fun _ _ => rfl) fun j => ?_
  rw [State.modHamper_hamper]
  split
  · rw [hf, ‹j = i›]
  · rfl

@[simp] theorem State.updHamper_srv (s : State) (i : Nat) (f : Hamper → Hamper) : (s.updHamper i f).srv = (s.modHamper i f).srv :=
  State.srvPut_srv ..
@[simp] theorem State.updHamper_files (s : State) (i : Nat) (f : Hamper → Hamper) :
    (s.updHamper i f).files = s.files.put i (f (s.hamper i)).card := (State.srvPut_files ..).trans (State.modHamper_files ..)
theorem State.hamper_congr {s t : State} (h : t.srv = s.srv) (i : Nat) : t.hamper i = s.hamper i := by
  rw [State.hamper, State.hamper, h]
theorem State.updHamper_hamper (s : State) (i : Nat) (f : Hamper → Hamper) (j : Nat) :
    (s.updHamper i f).hamper j = if j = i then f (s.hamper i) else s.hamper j :=
  (State.hamper_congr (State.updHamper_srv ..) j).trans (State.modHamper_hamper ..)
@[simp] theorem State.updHamper_same (s : State) (i : Nat) (f : Hamper → Hamper) : (s.updHamper i f).hamper i = f (s.hamper i) := by
  rw [State.updHamper_hamper, if_pos rfl]

/-! ## Completions (R370, R371) -/

@[simp] theorem State.cplLevel_files (s : State) : s.cplLevel.files = s.files := by
  unfold State.cplLevel
  split
  · rfl
  · simp

@[simp] theorem State.cplWrite_files (s : State) (fuel : Nat) : (s.cplWrite fuel).files = s.files := by
  have hprod (u : State) (v : Word) : (u.w32 Reg.srvCplProd v).files = u.files := State.w32_files _ _ (setting_word (by decide))
  have howed (u : State) (l : List CplRec) : (u.modSrv fun v => { v with owed := l }).files = u.files := State.modSrv_files _ rfl rfl
  have hend (u : State) (i : Nat) (k : Nat) :
      (u.modHamper i fun h => { h with endOwed := h.endOwed && h.handle i != k }).files = u.files :=
    State.modHamper_files_self _ _ fun _ => rfl
  induction fuel generalizing s with
  | zero => rfl
  | succ fuel ih =>
    unfold State.cplWrite
    split
    · rfl
    · dsimp only
      split_ifs <;> simp [ih, hprod, howed, hend]

@[simp] theorem State.cplFlush_files (s : State) : s.cplFlush.files = s.files := by simp [State.cplFlush]

@[simp] theorem State.complete_files (s : State) (op status : Nat) (handle : Word) (tag : Dword) (d0 d1 end_ : Nat) :
    (s.complete op status handle tag d0 d1 end_).files = s.files := by
  rw [State.complete, State.cplFlush_files]
  exact State.modSrv_files _ rfl rfl

/-! ## Budgets, prefixes and pages -/

section
variable (s : State)

@[simp] theorem State.updBudget_files (c : Nat) (f : Budget → Budget) : (s.updBudget c f).files = s.files :=
  (State.srvPut_files ..).trans (State.modSrv_files _ rfl rfl)
@[simp] theorem State.updBucket_files (b : Nat) (f : Bucket → Bucket) : (s.updBucket b f).files = s.files :=
  (State.srvPut_files ..).trans (State.modSrv_files _ rfl rfl)
@[simp] theorem State.updAdapter_files (n : Nat) (f : Adapter → Adapter) : (s.updAdapter n f).files = s.files :=
  (State.srvPut_files ..).trans (State.modSrv_files _ rfl rfl)
@[simp] theorem State.setPool_files (c n : Nat) : (s.setPool c n).files = s.files := State.modSrv_files _ rfl rfl
@[simp] theorem State.poolGive_files (c n : Nat) : (s.poolGive c n).files = s.files := State.setPool_files ..

@[simp] theorem State.budgetRefresh_files (c f : Nat) : (s.budgetRefresh c f).files = s.files := by
  unfold State.budgetRefresh
  split <;> simp
@[simp] theorem State.charge_files (c cost : Nat) : (s.charge c cost).files = s.files := by
  unfold State.charge
  split <;> simp
@[simp] theorem State.refund_files (c cost : Nat) : (s.refund c cost).files = s.files := by
  unfold State.refund
  split <;> simp

@[simp] theorem State.prefixUnshare_files (b : Nat) : (s.prefixUnshare b).files = s.files := State.updBucket_files ..

@[simp] theorem State.holderLeaves_files (i : Nat) : (s.holderLeaves i).1.files = s.files := by
  unfold State.holderLeaves
  dsimp only
  split
  · exact (State.modSrv_files _ rfl rfl).trans (State.each_view State.files _ _ (fun u b _ => State.updBucket_files ..) _)
  · exact State.each_view State.files _ _ (fun u b _ => State.updBucket_files ..) _

@[simp] theorem State.freeRetained_files (ctx need : Nat) : (s.freeRetained ctx need).files = s.files := by
  refine State.each_view State.files _ _ (fun u r _ => ?_) s
  split
  · rfl
  · rw [State.poolGive_files]
    exact (State.modSrv_files _ rfl rfl).trans (State.each_view State.files _ _ (fun u b _ => State.updBucket_files ..) _)

@[simp] theorem State.adapterDrain_files (n v : Nat) : (s.adapterDrain n v).files = s.files := by
  unfold State.adapterDrain
  dsimp only
  split <;> simp

@[simp] theorem State.adapterRefs_files (n ver : Nat) (f : Nat → Nat) : (s.adapterRefs n ver f).files = s.files := by
  unfold State.adapterRefs
  split <;> simp

@[simp] theorem State.blockTokens_files (i n : Nat) : (s.blockTokens i n).1.files = s.files := rfl

@[simp] theorem State.prefixInsert_files (i n : Nat) : (s.prefixInsert i n).files = s.files := by
  have hhash (u : State) (x : List Byte) : (u.modHamper i fun h => { h with hashes := h.hashes ++ [x] }).files = u.files :=
    State.modHamper_files_self _ _ fun _ => rfl
  unfold State.prefixInsert
  dsimp only
  split
  · rfl
  · split
    · simp [hhash]
    · split <;> simp [hhash]

@[simp] theorem State.prefixStep_files (i n0 n1 : Nat) : (s.prefixStep i n0 n1).files = s.files := by
  unfold State.prefixStep
  split
  · rfl
  · exact State.each_view State.files _ _ (fun u n _ => State.prefixInsert_files ..) _

/-- A search of the index of prefixes reads the prompt's tokens, and nothing else. -/
@[simp] theorem State.prefixMatch_files (i : Nat) : (s.prefixMatch i).1.files = s.files := by
  unfold State.prefixMatch
  dsimp only
  split
  · rfl
  · refine foldl_shows (fun u : (State × List (List Byte) × Option Nat) × Bool => u.1.1.files) _ (fun acc n => ?_) _
      ((s, [], none), false)
    split
    · rfl
    · split <;> exact State.blockTokens_files ..

end

end Sys2Proof.Machine
end

section
/-! SUPPORT. The end of a request, and the events that the firmware resolves by themselves: the rings, the tracker, moves, expiries and
releases (R366, R367, R371, R379, R389, R390, R392). -/
namespace Sys2Proof.Machine

open Sys2Proof

/-! ## The end of a request -/

theorem Files.put_self (x : Files) (i : Nat) (h : Hamper) : (x.put i h).card i = h := if_pos rfl
theorem Files.put_other (x : Files) {i j : Nat} (h : Hamper) (hj : j ≠ i) : (x.put i h).card j = x.card j := if_neg hj
theorem Files.put_put (x : Files) (i : Nat) (h g : Hamper) : (x.put i h).put i g = x.put i g := by
  have hc : ((x.put i h).put i g).card = (x.put i g).card := by
    funext j
    simp only [Files.put]
    split <;> rfl
  exact congrArg (Files.mk x.ledger x.tide x.word) hc
theorem State.files_put_card (s : State) (i : Nat) : s.files.put i (s.hamper i).card = s.files := by
  have hc : (s.files.put i (s.hamper i).card).card = s.files.card := by
    funext j
    simp only [Files.put]
    split
    · rw [‹j = i›]; rfl
    · rfl
  exact congrArg (Files.mk s.files.ledger s.files.tide s.files.word) hc

/-- The card of the request that is put in. -/
theorem State.card_of_put {s t : State} {i : Nat} {h : Hamper} (ht : t.files = s.files.put i h) : (t.hamper i).card = h :=
  (congrFun (congrArg Files.card ht) i).trans (Files.put_self ..)

@[simp] theorem State.fenceCheck_files (s : State) : s.fenceCheck.files = s.files := by
  unfold State.fenceCheck
  split
  · rfl
  · refine State.each_view State.files _ _ (fun u f _ => ?_) s
    split
    · rw [State.complete_files]
      exact State.modSrv_files _ rfl rfl
    · rfl

theorem State.parkDone_files (s : State) (i status : Nat) :
    (s.parkDone i status).files = s.files.put i { s.hamper i with park := none }.card := by
  unfold State.parkDone
  split
  · next hpark =>
    have hsame : ({ s.hamper i with park := none } : Hamper) = s.hamper i := by rw [← hpark]
    rw [hsame, State.files_put_card]
  · have hfences (u : State) (l : List (Dword × List Nat)) : (u.modSrv fun v => { v with fences := l }).files = u.files :=
      State.modSrv_files _ rfl rfl
    rw [State.fenceCheck_files]
    exact (hfences _ _).trans ((State.complete_files ..).trans (State.updHamper_files ..))

/-- A request that has ended, where moves of it are still in flight and where none are. -/
def Hamper.ended (h : Hamper) (reason : Nat) (flight : Bool) : Hamper :=
  { h with
    state := 10, endReason := reason, hold := 0, deadlineTick := 0, moving := flight
    copy := if flight then h.copy else none, park := if flight then h.park else none }

theorem State.endRequest_over {s : State} {i : Nat} (reason : Nat) (h : (s.hamper i).state = 0 ∨ (s.hamper i).state = 10) :
    s.endRequest i reason = s := if_pos h

theorem State.endRequest_files {s : State} {i : Nat} (reason : Nat) (h0 : (s.hamper i).state ≠ 0) (h10 : (s.hamper i).state ≠ 10) :
    ∃ flight, (s.endRequest i reason).files = s.files.put i ((s.hamper i).ended reason flight).card := by
  unfold State.endRequest
  dsimp only
  rw [if_neg (not_or.2 ⟨h0, h10⟩)]
  split
  · next hflight =>
    refine ⟨true, ?_⟩
    rw [State.complete_files, State.updHamper_files, hflight]
    rfl
  · next hflight =>
    refine ⟨false, ?_⟩
    rw [State.parkDone_files, State.complete_files, State.updHamper_files]
    have hcard (u : State) (x : Hamper) (hu : u.files = s.files.put i x) :
        ({ u.hamper i with park := none } : Hamper).card = { x with park := none }.card := by
      have hx := State.card_of_put hu
      have hc : (u.hamper i).card.card = x.card := congrArg Hamper.card hx
      have hp : ({ (u.hamper i).card with park := none } : Hamper).card = { x with park := none }.card := by rw [hx]
      exact hp
    rw [hcard _ _ ((State.complete_files ..).trans (State.updHamper_files ..)), Files.put_put]
    rw [Bool.not_eq_true] at hflight
    simp only [hflight]
    rfl

/-- What a request that has ended shows. -/
theorem State.endRequest_ends {s : State} {i : Nat} (reason : Nat) (h0 : (s.hamper i).state ≠ 0) (h10 : (s.hamper i).state ≠ 10) :
    ((s.endRequest i reason).hamper i).state = 10 ∧ ((s.endRequest i reason).hamper i).endReason = reason := by
  obtain ⟨flight, hf⟩ := State.endRequest_files reason h0 h10
  have hc := State.card_of_put hf
  exact ⟨Hamper.read_card Hamper.state (fun _ => rfl) hc, Hamper.read_card Hamper.endReason (fun _ => rfl) hc⟩

/-! ## An event that the firmware resolves -/

theorem State.pool_congr {s t : State} (h : t.srv = s.srv) (ctx : Nat) : t.pool ctx = s.pool ctx := by rw [State.pool, State.pool, h]

@[simp] theorem State.resolved_hamper (s : State) (key i : Nat) : (s.resolved key).hamper i = s.hamper i := rfl
@[simp] theorem State.resolved_pool (s : State) (key ctx : Nat) : (s.resolved key).pool ctx = s.pool ctx := rfl
@[simp] theorem State.modHamper_pool (s : State) (i : Nat) (f : Hamper → Hamper) (ctx : Nat) : (s.modHamper i f).pool ctx = s.pool ctx := rfl
@[simp] theorem State.srvRefresh_srv (s : State) : s.srvRefresh.srv = s.srv := rfl

/-- An event of the firmware's whose turn it is takes place. -/
theorem State.firmwareAt_due {s : State} {key : Nat} {ok : Bool} (f : State → State) (hrun : s.running = true) (hord : s.inOrder key = true)
    (hok : ok = true) : s.firmwareAt key ok f = (f (s.resolved key)).srvRefresh := if_pos ⟨hrun, hok, hord⟩

/-- A command of the firmware in a ready state completes, with what it makes of the state. -/
theorem completes_runFirm {c : Instr} {s : State} {fp : Footprint} {f : State → State} {P : State → Prop} (hs : Ready s)
    (hc : exec c s = runFirm fp f s) (hp : P (fp.apply s (f s))) : Completes c s P := ⟨_, hc.trans (runFirm_ready fp f s hs), hp⟩

/-- An event that the firmware resolves completes, with what it makes of the firmware's books. -/
theorem completes_event {c : Instr} {s u : State} {fp : Footprint} {g : State → State} {P : State → Prop}
    (hs : Ready s) (hc : exec c s = runFirm fp g s) (hfp : fp.srv = true) (hg : g s = u.srvRefresh) (hp : ∀ t, t.srv = u.srv → P t) :
    Completes c s P := completes_runFirm hs hc (hp _ (by rw [Footprint.apply_srv, if_pos hfp, hg, State.srvRefresh_srv]))

/-- A command outside their order completes, with what it makes of the firmware's books. -/
theorem completes_books {c : Instr} {s : State} {fp : Footprint} {f : State → State} {P : State → Prop}
    (hs : Ready s) (hc : exec c s = run fp f s) (hfp : fp.srv = true) (hp : ∀ t, t.srv = (f s).srv → P t) : Completes c s P :=
  completes_run hs hc (hp _ (by rw [Footprint.apply_srv, if_pos hfp]))

/-! ## The rings (R367, R371) -/

section
variable (s : State)

theorem State.cplLevel_r32 {off : Nat} (h : off / 4 ≠ Reg.srvStat / 4) : s.cplLevel.r32 off = s.r32 off := by
  unfold State.cplLevel
  split
  · rfl
  · rw [State.raiseIf_r32]
    exact State.r32_wf_other _ _ _ _ _ _ h

theorem State.takeCommand_r32 {off : Nat} (hq : quietWord off = true) (h : off / 4 ≠ Reg.srvCmdHead / 4) :
    s.takeCommand.r32 off = s.r32 off := by
  unfold State.takeCommand
  dsimp only
  rw [State.modSrv_r32, State.r32_w32, if_neg h]
  split_ifs
  · exact State.r32_of_desk ((State.spanRead_desk ..).trans (State.spanRead_desk ..)) hq
  · exact State.r32_of_desk ((State.spanRead_desk ..).trans (State.spanRead_desk ..)) hq
  · exact State.r32_of_desk (State.spanRead_desk ..) hq

theorem State.intake_r32 {off : Nat} (hq : quietWord off = true) (h : off / 4 ≠ Reg.srvCmdHead / 4) (h' : off / 4 ≠ Reg.srvStat / 4) :
    s.intake.r32 off = s.r32 off := by
  unfold State.intake
  dsimp only
  split
  · exact s.cplLevel_r32 h'
  · exact (State.upTo_view (·.r32 off) _ _ (fun u _ _ => u.takeCommand_r32 hq h) _).trans (s.cplLevel_r32 h')

theorem State.cplLevel_running : s.cplLevel.running = s.running := by
  unfold State.cplLevel
  split
  · rfl
  · rw [State.running, State.raiseIf_rb, State.rb_wb _ _ _ _ _ (by decide)]
    rfl

theorem State.intake_running : s.intake.running = s.running := by
  have htake (u : State) : u.takeCommand.running = u.running :=
    State.rb_of_r32 (u.takeCommand_r32 (by decide +kernel) (by decide)) 0
  unfold State.intake
  dsimp only
  split
  · exact s.cplLevel_running
  · exact (State.upTo_view State.running _ _ (fun u _ _ => htake u) _).trans s.cplLevel_running

theorem State.takeCommand_owed : s.takeCommand.srv.owed = s.srv.owed := by
  have hread (u : State) (space off n src hint : Nat) : (u.spanRead space off n src hint).1.srv.owed = u.srv.owed := by
    rw [State.srv_of_desk (State.spanRead_desk ..)]
  unfold State.takeCommand
  dsimp only
  rw [State.modSrv_srv, State.w32_srv]
  split_ifs <;> simp only [hread]

theorem State.cplLevel_srv : s.cplLevel.srv = s.srv := by
  unfold State.cplLevel
  split
  · rfl
  · rw [State.raiseIf_srv]
    rfl

theorem State.intake_owed : s.intake.srv.owed = s.srv.owed := by
  unfold State.intake
  dsimp only
  split
  · rw [State.cplLevel_srv]
  · refine (State.upTo_view (·.srv.owed) _ _ (fun u _ _ => u.takeCommand_owed) _).trans ?_
    rw [State.cplLevel_srv]

end

/-- A write of SRV_CMD_TAIL that the ring has room for stands there. -/
theorem State.srvTail_tail {s : State} {v : Word} (h : (v - s.r32 Reg.srvCmdHead).toNat ≤ 2 ^ s.rf Reg.srvCmdCfg 0 5) :
    (s.srvTail v).r32 Reg.srvCmdTail = v := by
  rw [State.srvTail, if_pos h, State.intake_r32 _ (by decide +kernel) (by decide) (by decide)]
  exact State.r32_w32_self ..

theorem State.srvTail_ignored {s : State} {v : Word} (h : 2 ^ s.rf Reg.srvCmdCfg 0 5 < (v - s.r32 Reg.srvCmdHead).toNat) :
    s.srvTail v = s := if_neg (Nat.not_le.2 h)

theorem State.srvCons_cons (s : State) (v : Word) : (s.srvCons v).r32 Reg.srvCplCons = v := by
  rw [State.srvCons, State.intake_r32 _ (by decide +kernel) (by decide) (by decide), State.r32_of_files (State.cplFlush_files _) (by decide)]
  exact State.r32_w32_self ..

theorem State.srvCons_owed (s : State) (v : Word) (h : s.srv.owed = []) : (s.srvCons v).srv.owed = [] := by
  have hflush : (s.w32 Reg.srvCplCons v).cplFlush = (s.w32 Reg.srvCplCons v).cplLevel := by
    rw [State.cplFlush, State.w32_srv, h]
    rfl
  rw [State.srvCons, State.intake_owed, hflush, State.cplLevel_srv, State.w32_srv, h]

/-! ## The tracker and the cores (R392, R471) -/

theorem State.coreBeat_due {s : State} {n : Nat} (hrel : s.released = true) (h : natAt s.srv.beats n + 1024 ≤ s.tick) :
    s.coreBeat n = (s.w32 (Reg.srvCoreBeat n) (s.r32 (Reg.srvCoreBeat n) + 1)).modSrv fun v =>
      { v with beats := setNat v.beats n s.tick } := by
  rw [State.coreBeat]
  refine if_neg (not_or.2 ⟨?_, Nat.not_lt.2 h⟩)
  rw [hrel]
  exact Bool.false_ne_true

theorem State.trackerStart_running {s : State} (hrun : s.running = false) (hrel : s.released = true)
    (hlock : s.tideState = 2 ∨ s.isMaster = true) : s.trackerStart.running = true := by
  unfold State.trackerStart
  dsimp only
  rw [if_neg (by rcases hlock with h | h <;> simp [hrun, hrel, h]), State.intake_running, State.running, State.rb_wb _ _ _ _ _ (by decide)]
  rfl

end Sys2Proof.Machine
end

section
/-! SUPPORT. Moves, expiries and releases of requests: the caches that they carry and what the requests come to (R374, R378, R379, R389,
R390). -/
namespace Sys2Proof.Machine

open Sys2Proof

/-! ## Caches that move -/

@[simp] theorem State.cacheParts_desk (s : State) (i : Nat) : (s.cacheParts i).1.desk = s.desk := by
  unfold State.cacheParts
  dsimp only
  split
  · exact State.kvDesc_desk ..
  · refine (foldl_view State.desk _ (fun a x => ?_) _ ((s.kvDesc (srvAcc (s.hamper i).ctx) ((s.hamper i).cdesc / 128 * 128)).1, _)).trans
      (State.kvDesc_desk ..)
    exact State.vSpanRead_desk ..

theorem State.updBucket_srv (s : State) (b : Nat) (f : Bucket → Bucket) : (s.updBucket b f).srv =
    { s.srv with prefixes := Sparse.set (fun _ => Bucket.reset) s.srv.prefixes b (f (s.bucket b)) } := State.srvPut_srv ..

/-- A cache goes to a tier from a state in which the request and the pools are as they were: its pages return and the copy stands for it. -/
theorem State.cacheOut_eq (s : State) (i tier : Nat) (pack : Bool) : ∃ u : State, u.hamper i = s.hamper i
    ∧ (∀ ctx, u.pool ctx = s.pool ctx) ∧ s.cacheOut i tier pack = (u.givePages i).modHamper i fun h =>
      { h with copy := some ⟨tier, pack, (s.cacheParts i).2⟩, shared := none } := by
  have hsrv := State.srv_of_desk (State.cacheParts_desk s i)
  unfold State.cacheOut
  cases (s.hamper i).shared with
  | none => exact ⟨_, State.hamper_congr hsrv i, State.pool_congr hsrv, rfl⟩
  | some b =>
    refine ⟨(s.cacheParts i).1.prefixUnshare b, ?_, fun ctx => ?_, rfl⟩
    · rw [State.hamper, State.prefixUnshare, State.updBucket_srv, hsrv, State.hamper]
    · rw [State.pool, State.prefixUnshare, State.updBucket_srv, hsrv, State.pool]

theorem State.givePages_hamper (s : State) (i : Nat) : (s.givePages i).hamper i = { s.hamper i with pages := 0 } := State.modHamper_same ..

theorem State.poolGive_pool (s : State) (ctx n : Nat) : (s.poolGive ctx n).pool ctx = s.pool ctx + n := by
  rw [State.pool, State.poolGive, State.setPool, State.modSrv_srv, optAt_setOpt_self]
  rfl

theorem State.cacheOut_hamper (s : State) (i tier : Nat) (pack : Bool) : (s.cacheOut i tier pack).hamper i =
    { s.hamper i with pages := 0, copy := some ⟨tier, pack, (s.cacheParts i).2⟩, shared := none } := by
  obtain ⟨u, hu, -, hout⟩ := s.cacheOut_eq i tier pack
  rw [hout, State.modHamper_same, State.givePages_hamper, hu]

theorem State.cacheOut_pool (s : State) (i tier : Nat) (pack : Bool) : (s.cacheOut i tier pack).pool (s.hamper i).ctx =
    s.pool (s.hamper i).ctx + (s.hamper i).pages := by
  obtain ⟨u, hu, hpool, hout⟩ := s.cacheOut_eq i tier pack
  rw [hout, ← hpool, ← hu]
  exact State.poolGive_pool ..

@[simp] theorem State.setLen_desk (s : State) (i n : Nat) : (s.setLen i n).desk = (s.modHamper i fun h => { h with len := n }).desk :=
  State.vWrite_desk ..
theorem State.setLen_srv (s : State) (i n : Nat) : (s.setLen i n).srv = (s.modHamper i fun h => { h with len := n }).srv :=
  State.srv_of_desk (State.setLen_desk ..)
@[simp] theorem State.setLen_same (s : State) (i n : Nat) : (s.setLen i n).hamper i = { s.hamper i with len := n } :=
  (State.hamper_congr (State.setLen_srv ..) i).trans (State.modHamper_same ..)

/-- A request's cache is back from its tier, and the copy is given up. -/
theorem State.cacheIn_hamper (s : State) (i : Nat) : (s.cacheIn i).hamper i = { s.hamper i with copy := none } := by
  unfold State.cacheIn
  split
  · next hcopy => rw [← hcopy]
  · next c hcopy =>
    have hparts : (s.each c.parts fun u x => (u.vSpanWrite (srvAcc (s.hamper i).ctx) x.1 0 x.2.1 x.2.2).1).hamper i = s.hamper i :=
      State.hamper_congr (State.srv_of_desk (State.each_view State.desk _ _ (fun u x _ => State.vSpanWrite_desk ..) s)) i
    dsimp only
    rw [State.setLen_same, State.modHamper_same, hparts]

/-! ## Moves that complete -/

section
variable {s : State} {i : Nat} {e : Fin 256}

/-- Retried moves that fail again: the request is on the stack again, and ends. -/
theorem State.failed_ends (s : State) (i reason : Nat) :
    (((s.updHamper i fun h => { h with state := 3 }).endRequest i reason).hamper i).state = 10
    ∧ (((s.updHamper i fun h => { h with state := 3 }).endRequest i reason).hamper i).endReason = reason :=
  State.endRequest_ends reason (by rw [State.updHamper_same]; exact Nat.succ_ne_zero 2)
    (by rw [State.updHamper_same]; exact (by decide : (3 : Nat) ≠ 10))

/-- What the moves of a victim come to (R379). -/
theorem State.swapComplete_due (hs : ServesOn s e.val) (hst : (s.hamper i).state = 5) (ok : Bool) :
    s.swapComplete i e.val ok = (if ok then
        ((s.resolved (taskKey e.val)).cacheOut i 1 false).updHamper i fun h => { h with state := 6, retried := false }
      else if !(s.hamper i).retried then (s.resolved (taskKey e.val)).updHamper i fun h => { h with retried := true }
      else (((s.resolved (taskKey e.val)).updHamper i fun h => { h with state := 3 }).endRequest i 11).raise srvPn 11 10 srvSrc).srvRefresh := by
  obtain ⟨-, hrun, hord⟩ := hs
  unfold State.swapComplete State.moved
  dsimp only
  rw [State.firmwareAt_due _ hrun hord (by simp [hst]), if_neg (by omega)]

theorem completes_swap_ok (hs : ServesOn s e.val) (hst : (s.hamper i).state = 5) :
    Completes (.swapComplete i e true) s fun t =>
      (t.hamper i).state = 6 ∧ (t.hamper i).pages = 0
      ∧ (t.hamper i).copy = some ⟨1, false, ((s.resolved (taskKey e.val)).cacheParts i).2⟩
      ∧ t.pool (s.hamper i).ctx = s.pool (s.hamper i).ctx + (s.hamper i).pages := by
  refine completes_event hs.1 (exec_swapComplete i e true s) rfl (State.swapComplete_due hs hst true) fun t ht => ?_
  rw [if_pos rfl] at ht
  have hpool := State.cacheOut_pool (s.resolved (taskKey e.val)) i 1 false
  rw [State.resolved_hamper, State.resolved_pool] at hpool
  rw [State.hamper_congr ht, State.updHamper_same, State.cacheOut_hamper]
  refine ⟨rfl, rfl, rfl, ?_⟩
  rw [State.pool_congr ht, State.pool_congr (State.updHamper_srv ..), State.modHamper_pool, hpool]

theorem completes_swap_retry (hs : ServesOn s e.val) (hst : (s.hamper i).state = 5) (hr : (s.hamper i).retried = false) :
    Completes (.swapComplete i e false) s fun t => (t.hamper i).state = 5 ∧ (t.hamper i).retried = true := by
  refine completes_event hs.1 (exec_swapComplete i e false s) rfl (State.swapComplete_due hs hst false) fun t ht => ?_
  rw [State.hamper_congr ht, if_neg Bool.false_ne_true, if_pos (by simp [hr]), State.updHamper_same]
  exact ⟨hst, rfl⟩

theorem completes_swap_fault (hs : ServesOn s e.val) (hst : (s.hamper i).state = 5) (hr : (s.hamper i).retried = true) :
    Completes (.swapComplete i e false) s fun t => (t.hamper i).state = 10 ∧ (t.hamper i).endReason = 11 := by
  refine completes_event hs.1 (exec_swapComplete i e false s) rfl (State.swapComplete_due hs hst false) fun t ht => ?_
  rw [State.hamper_congr ht, if_neg Bool.false_ne_true, if_neg (by simp [hr]), State.raise_hamper]
  exact State.failed_ends ..

/-- What the moves of a swap-in come to (R375). -/
theorem State.restoreComplete_due (hs : ServesOn s e.val) (hst : (s.hamper i).state = 9) (ok : Bool) :
    s.restoreComplete i e.val ok = (if ok then
        ((s.resolved (taskKey e.val)).cacheIn i).updHamper i fun h => { h with state := if h.heldFrom = 2 then 2 else 3, retried := false }
      else if !(s.hamper i).retried then (s.resolved (taskKey e.val)).updHamper i fun h => { h with retried := true }
      else ((s.resolved (taskKey e.val)).updHamper i fun h => { h with state := 3 }).endRequest i 8).srvRefresh := by
  obtain ⟨-, hrun, hord⟩ := hs
  unfold State.restoreComplete State.moved
  dsimp only
  rw [State.firmwareAt_due _ hrun hord (by simp [hst]), if_neg (by omega)]

theorem completes_restore_ok (hs : ServesOn s e.val) (hst : (s.hamper i).state = 9) :
    Completes (.restoreComplete i e true) s fun t =>
      (t.hamper i).state = (if (s.hamper i).heldFrom = 2 then 2 else 3) ∧ (t.hamper i).copy = none ∧ (t.hamper i).len = (s.hamper i).len := by
  refine completes_event hs.1 (exec_restoreComplete i e true s) rfl (State.restoreComplete_due hs hst true) fun t ht => ?_
  rw [State.hamper_congr ht, if_pos rfl, State.updHamper_same, State.cacheIn_hamper]
  exact ⟨rfl, rfl, rfl⟩

theorem completes_restore_retry (hs : ServesOn s e.val) (hst : (s.hamper i).state = 9) (hr : (s.hamper i).retried = false) :
    Completes (.restoreComplete i e false) s fun t => (t.hamper i).state = 9 ∧ (t.hamper i).retried = true := by
  refine completes_event hs.1 (exec_restoreComplete i e false s) rfl (State.restoreComplete_due hs hst false) fun t ht => ?_
  rw [State.hamper_congr ht, if_neg Bool.false_ne_true, if_pos (by simp [hr]), State.updHamper_same]
  exact ⟨hst, rfl⟩

theorem completes_restore_fault (hs : ServesOn s e.val) (hst : (s.hamper i).state = 9) (hr : (s.hamper i).retried = true) :
    Completes (.restoreComplete i e false) s fun t => (t.hamper i).state = 10 ∧ (t.hamper i).endReason = 8 := by
  refine completes_event hs.1 (exec_restoreComplete i e false s) rfl (State.restoreComplete_due hs hst false) fun t ht => ?_
  rw [State.hamper_congr ht, if_neg Bool.false_ne_true, if_neg (by simp [hr])]
  exact State.failed_ends ..

end

/-! ## A thermos (R389) -/

section
variable {s : State} {i : Nat} {e : Fin 256} {p : Parking} (hs : ServesOn s e.val) (hst : (s.hamper i).state = 7)
  (hin : s.inBasket i = false) (hp : (s.hamper i).park = some p)
include hs hst hin hp

/-- What the moves of a thermos come to on a request that is parked. -/
theorem State.thermosComplete_due (ok : Bool) :
    s.thermosComplete i e.val ok = (if ok then
        (((s.resolved (taskKey e.val)).cacheOut i p.tier p.pack).updHamper i fun h => { h with
          state := 8, deadlineTick := s.tick + p.ttl, retried := false, expired := none }).parkDone i 0
      else if !(s.hamper i).retried then (s.resolved (taskKey e.val)).updHamper i fun h => { h with retried := true }
      else ((s.resolved (taskKey e.val)).updHamper i fun h => { h with
          state := if s.holdNow i = 0 then 3 else 4, heldFrom := 3, hold := s.holdNow i, retried := false }).parkDone i 9).srvRefresh := by
  obtain ⟨-, hrun, hord⟩ := hs
  unfold State.thermosComplete State.moved
  dsimp only
  rw [State.firmwareAt_due _ hrun hord (by simp [hst, hin, hp])]
  simp only [hp]
  rw [if_neg (by omega)]
  rfl

omit hs hst hin hp in
theorem State.parkDone_card (u : State) (status : Nat) :
    ((u.parkDone i status).hamper i).card = { u.hamper i with park := none }.card := State.card_of_put (u.parkDone_files i status)

theorem completes_thermos_ok :
    Completes (.thermosMovesComplete i e true) s fun t =>
      (t.hamper i).state = 8 ∧ (t.hamper i).copy = some ⟨p.tier, p.pack, ((s.resolved (taskKey e.val)).cacheParts i).2⟩
      ∧ (t.hamper i).pages = 0 ∧ (t.hamper i).deadlineTick = s.tick + p.ttl ∧ (t.hamper i).park = none := by
  refine completes_event hs.1 (exec_thermosMovesComplete i e true s) rfl (State.thermosComplete_due hs hst hin hp true) fun t ht => ?_
  rw [State.hamper_congr ht, if_pos rfl]
  have hc := State.parkDone_card (i := i) (((s.resolved (taskKey e.val)).cacheOut i p.tier p.pack).updHamper i fun h => { h with
    state := 8, deadlineTick := s.tick + p.ttl, retried := false, expired := none }) 0
  rw [State.updHamper_same, State.cacheOut_hamper] at hc
  exact ⟨Hamper.read_card Hamper.state (fun _ => rfl) hc, Hamper.read_card Hamper.copy (fun _ => rfl) hc,
    Hamper.read_card Hamper.pages (fun _ => rfl) hc, Hamper.read_card Hamper.deadlineTick (fun _ => rfl) hc,
    Hamper.read_card Hamper.park (fun _ => rfl) hc⟩

theorem completes_thermos_retry (hr : (s.hamper i).retried = false) :
    Completes (.thermosMovesComplete i e false) s fun t => (t.hamper i).state = 7 ∧ (t.hamper i).retried = true := by
  refine completes_event hs.1 (exec_thermosMovesComplete i e false s) rfl (State.thermosComplete_due hs hst hin hp false) fun t ht => ?_
  rw [State.hamper_congr ht, if_neg Bool.false_ne_true, if_pos (by simp [hr]), State.updHamper_same]
  exact ⟨hst, rfl⟩

theorem completes_thermos_back (hr : (s.hamper i).retried = true) :
    Completes (.thermosMovesComplete i e false) s fun t =>
      (t.hamper i).state = (if s.holdNow i = 0 then 3 else 4) ∧ (t.hamper i).hold = s.holdNow i ∧ (t.hamper i).park = none := by
  refine completes_event hs.1 (exec_thermosMovesComplete i e false s) rfl (State.thermosComplete_due hs hst hin hp false) fun t ht => ?_
  rw [State.hamper_congr ht, if_neg Bool.false_ne_true, if_neg (by simp [hr])]
  have hc := State.parkDone_card (i := i) ((s.resolved (taskKey e.val)).updHamper i fun h => { h with
    state := if s.holdNow i = 0 then 3 else 4, heldFrom := 3, hold := s.holdNow i, retried := false }) 9
  rw [State.updHamper_same] at hc
  exact ⟨Hamper.read_card Hamper.state (fun _ => rfl) hc, Hamper.read_card Hamper.hold (fun _ => rfl) hc,
    Hamper.read_card Hamper.park (fun _ => rfl) hc⟩

end

/-! ## Releases and expiries -/

section
variable {s : State} {i : Nat}

/-- The state in which an ended request's hamper becomes FREE: its pages are back, and its adapter and draft given up. -/
def State.freeing (s : State) (i : Nat) : State :=
  let h := s.hamper i
  let u := match h.shared with | some b => s.prefixUnshare b | none => s
  let r := u.holderLeaves i
  let u := r.1.poolGive h.ctx (h.pages - r.2 + h.reservedPages)
  let u := if h.adapterEn then u.adapterRefs h.adapterSlot h.adapterVer.toNat (· - 1) else u
  u.modSrv fun v => { v with drafts := setOpt v.drafts i none }

theorem State.freeing_gen (s : State) (i : Nat) : ((s.freeing i).hamper i).gen = (s.hamper i).gen := by
  have hdrafts (u : State) : ((u.modSrv fun v => { v with drafts := setOpt v.drafts i none }).hamper i).gen = (u.hamper i).gen := rfl
  have hgen (u : State) (h : u.files = s.files) : (u.hamper i).gen = (s.hamper i).gen :=
    Hamper.read_card Hamper.gen (fun _ => rfl) (State.card_of_files h i)
  unfold State.freeing
  dsimp only
  rw [hdrafts]
  refine hgen _ ?_
  cases (s.hamper i).shared <;> cases (s.hamper i).adapterEn <;> simp

theorem completes_pageRelease (hs : Serves s 8) (hst : (s.hamper i).state = 10) (howed : (s.hamper i).endOwed = false)
    (hmoving : (s.hamper i).moving = false) (hin : s.inBasket i = false) :
    Completes (.pageRelease i) s fun t =>
      (t.hamper i).state = 0 ∧ (t.hamper i).gen = (s.hamper i).gen + 1 ∧ (t.hamper i).pages = 0 := by
  obtain ⟨hready, hrun, hord⟩ := hs
  have hdue : s.pageRelease i = (((s.resolved (ownKey 8)).freeing i).updHamper i fun h =>
      { Hamper.reset with gen := h.gen + 1 }).srvRefresh := by
    unfold State.pageRelease State.firmware
    dsimp only
    rw [State.firmwareAt_due _ hrun hord (by simp [hst, howed, hmoving, hin])]
    rfl
  refine completes_event hready (exec_pageRelease i s) rfl hdue fun t ht => ?_
  rw [State.hamper_congr ht, State.updHamper_same]
  exact ⟨rfl, congrArg (· + 1) (State.freeing_gen ..), rfl⟩

theorem completes_thermosExpiry (hs : Serves s 10) (hst : (s.hamper i).state = 8) (hnone : (s.hamper i).expired = none)
    (hdead : (s.hamper i).deadlineTick ≤ s.tick) :
    Completes (.thermosExpiry i) s fun t => (t.hamper i).expired = some s.tick ∧ (t.hamper i).state = 8 := by
  obtain ⟨hready, hrun, hord⟩ := hs
  have hdue : s.thermosExpiry i = ((s.resolved (ownKey 10)).modHamper i fun h => { h with expired := some s.tick }).srvRefresh := by
    unfold State.thermosExpiry State.firmware
    dsimp only
    rw [State.firmwareAt_due _ hrun hord (by simp [hst, hnone, hdead])]
    rfl
  refine completes_event hready (exec_thermosExpiry i s) rfl hdue fun t ht => ?_
  rw [State.hamper_congr ht, State.modHamper_same]
  exact ⟨rfl, hst⟩

theorem completes_thermosRelease {at_ : Nat} (hs : Serves s 8) (hst : (s.hamper i).state = 8) (hat : (s.hamper i).expired = some at_)
    (hlt : at_ < s.tick) :
    Completes (.thermosRelease i) s fun t => (t.hamper i).state = 10 ∧ (t.hamper i).endReason = 6 := by
  obtain ⟨hready, hrun, hord⟩ := hs
  have hdue : s.thermosRelease i = (((s.resolved (ownKey 8)).endRequest i 6).modHamper i fun h =>
      { h with expired := some s.tick }).srvRefresh := by
    unfold State.thermosRelease State.firmware
    dsimp only
    rw [State.firmwareAt_due _ hrun hord (by simp [hst, hat, hlt])]
    rfl
  refine completes_event hready (exec_thermosRelease i s) rfl hdue fun t ht => ?_
  rw [State.hamper_congr ht, State.modHamper_same]
  exact State.endRequest_ends (s := s.resolved (ownKey 8)) 6 (by rw [State.resolved_hamper]; omega) (by rw [State.resolved_hamper]; omega)

theorem completes_ttftExpiry (hs : Serves s 10) (h0 : (s.hamper i).state ≠ 0) (h8 : (s.hamper i).state ≠ 8)
    (h10 : (s.hamper i).state ≠ 10) (hfirst : (s.hamper i).firstTick = 0) (hdead : (s.hamper i).deadlineTick ≠ 0)
    (hmiss : (s.hamper i).ttftMiss = false) (hlate : (s.hamper i).deadlineTick ≤ s.tick) :
    Completes (.ttftDeadlineExpiry i) s fun t => (t.hamper i).ttftMiss = true ∧ (t.hamper i).state = (s.hamper i).state := by
  obtain ⟨hready, hrun, hord⟩ := hs
  have hdue : s.ttftExpiry i = ((s.resolved (ownKey 10)).updHamper i fun h => { h with ttftMiss := true }).srvRefresh := by
    unfold State.ttftExpiry State.firmware
    dsimp only
    rw [State.firmwareAt_due _ hrun hord (by simp [h0, h8, h10, hfirst, hdead, hmiss, hlate])]
  refine completes_event hready (exec_ttftDeadlineExpiry i s) rfl hdue fun t ht => ?_
  rw [State.hamper_congr ht, State.updHamper_same]
  exact ⟨rfl, rfl⟩

end

end Sys2Proof.Machine
end

section
/-! SUPPORT. The tokens of a row: what their delivery leaves of the firmware's files, and what it makes of the request (R372, R381, R383,
R384, R410). -/
namespace Sys2Proof.Machine

open Sys2Proof

/-! ## The token stream -/

section
variable (s : State)

theorem State.brdCe_desk (o symbols src kind : Nat) : (s.brdCe o symbols src kind).desk = s.desk := by
  have hi := boardIface_lt o
  unfold State.brdCe
  dsimp only
  split
  · rfl
  · exact State.count_desk _ _ (by rw [Reg.brdCeCnt, Reg.brdPage]; omega)

theorem State.brdUe_desk (o src : Nat) : (s.brdUe o src).desk = s.desk := by
  have hi := boardIface_lt o
  exact State.count_desk _ _ (by rw [Reg.brdUeCnt, Reg.brdPage]; omega)

@[simp] theorem State.boardDecode_desk (o src : Nat) : (s.boardDecode o src).1.desk = s.desk := by
  have hunwritten : (s.boardUnwritten o src).1.desk = s.desk := by
    unfold State.boardUnwritten
    dsimp only
    split
    · rfl
    · exact State.brdCe_desk ..
    · exact State.brdUe_desk ..
    · rfl
  unfold State.boardDecode
  dsimp only
  split
  · exact hunwritten
  · split
    · rfl
    · exact State.brdCe_desk ..
    · exact State.brdCe_desk ..
    · exact State.brdUe_desk ..

@[simp] theorem State.boardRead_desk (o src : Nat) : (s.boardRead o src).1.desk = s.desk := by
  unfold State.boardRead
  split_ifs
  · rfl
  · exact State.boardDecode_desk ..
  · rfl

@[simp] theorem State.tsRecords_desk (i n : Nat) : (s.tsRecords i n).1.desk = s.desk := by
  unfold State.tsRecords
  refine foldl_view State.desk _ (fun a k => ?_) _ (s, ([] : List Byte))
  dsimp only
  exact State.boardRead_desk ..

@[simp] theorem State.tsPacket_files : s.tsPacket.files = s.files := by
  have hprod (u : State) (v : Word) : (u.w32 Reg.gtxTsProd v).files = u.files := State.w32_files _ _ (setting_word (by decide))
  have hnote (u : State) : u.tsNote.files = u.files := rfl
  unfold State.tsPacket
  dsimp only
  split_ifs <;> simp [hprod, hnote, State.files_of_desk (State.tsRecords_desk ..)]

@[simp] theorem State.tsPump_files (all : Bool) (fuel : Nat) : (s.tsPump all fuel).files = s.files := by
  induction fuel generalizing s with
  | zero => rfl
  | succ fuel ih =>
    unfold State.tsPump
    split
    · rfl
    · rw [ih, State.tsPacket_files]

@[simp] theorem State.tsDevProd_files (v : Word) : (s.tsDevProd v).files = s.files := by
  have hprod : (s.w32 Reg.gtxTsDevProd v).files = s.files := State.w32_files _ _ (setting_word (by decide))
  exact (State.tsPump_files ..).trans hprod

theorem State.tsDevProd_srv (v : Word) : (s.tsDevProd v).srv = s.srv := by
  have hpacket (u : State) : u.tsPacket.srv = u.srv := by
    have hnote (u : State) : u.tsNote.srv = u.srv := rfl
    have hsend (u : State) (o : Out) (vl type : Nat) (data : List Byte) : (u.gutexSend o vl type data).srv = u.srv := rfl
    unfold State.tsPacket
    dsimp only
    split_ifs <;> simp only [hnote, hsend, State.w32_srv, State.srv_of_desk (State.tsRecords_desk ..)]
  have hpump (u : State) (fuel : Nat) : (u.tsPump false fuel).srv = u.srv := by
    induction fuel generalizing u with
    | zero => rfl
    | succ fuel ih =>
      unfold State.tsPump
      split
      · rfl
      · rw [ih, hpacket]
  exact hpump ..

theorem State.tokenRecord_srv (i index : Nat) (tok : Word) (final fallback : Bool) (reason : Nat) (logp : Word) :
    (s.tokenRecord i index tok final fallback reason logp).srv = s.srv := (State.tsDevProd_srv ..).trans (State.srvPut_srv ..)

@[simp] theorem State.tokenRecord_files (i index : Nat) (tok : Word) (final fallback : Bool) (reason : Nat) (logp : Word) :
    (s.tokenRecord i index tok final fallback reason logp).files = s.files := by simp [State.tokenRecord]

end

/-! ## What a row makes of its request -/

/-- What a row that completes tells of its request. -/
structure Tally where
  state : Nat
  endReason : Nat
  genCount : Nat
  lastToken : Word
  promptDone : Nat
  len : Nat

def Hamper.tally (h : Hamper) : Tally := ⟨h.state, h.endReason, h.genCount, h.lastToken, h.promptDone, h.len⟩

/-- The ledger, and what rows tell of request i. -/
def State.tally (s : State) (i : Nat) : Srv × Tally := (s.srv.ledger, (s.hamper i).tally)

section
variable {s t : State} {i : Nat}

theorem State.tally_of_files (h : t.files = s.files) (i : Nat) : t.tally i = s.tally i := by
  have hc : (t.hamper i).tally = (s.hamper i).tally :=
    (congrArg Hamper.tally (State.card_of_files h i) : (t.hamper i).card.tally = (s.hamper i).card.tally)
  rw [State.tally, State.tally, State.ledger_of_files h, hc]

theorem State.tally_of_put {h : Hamper} (ht : t.files = s.files.put i h) : t.tally i = (s.srv.ledger, h.tally) := by
  have hc : (t.hamper i).tally = h.tally := (congrArg Hamper.tally (State.card_of_put ht) : (t.hamper i).card.tally = h.tally)
  have hl : t.srv.ledger = s.srv.ledger := (congrArg Files.ledger ht : _)
  rw [State.tally, hc, hl]

theorem State.setLen_files (s : State) (i n : Nat) : (s.setLen i n).files = s.files.put i { s.hamper i with len := n }.card :=
  (State.files_of_desk (State.setLen_desk ..)).trans (State.modHamper_files ..)

theorem State.setLen_tally (s : State) (i n : Nat) : (s.setLen i n).tally i = ((s.tally i).1, { (s.tally i).2 with len := n }) :=
  State.tally_of_put (State.setLen_files ..)

theorem State.endRequest_tally (reason : Nat) (h0 : (s.hamper i).state ≠ 0) (h10 : (s.hamper i).state ≠ 10) :
    (s.endRequest i reason).tally i = ((s.tally i).1, { (s.tally i).2 with state := 10, endReason := reason }) := by
  obtain ⟨flight, hf⟩ := State.endRequest_files reason h0 h10
  exact State.tally_of_put hf

/-- A change that tells nothing of a row. -/
theorem State.updHamper_tally (s : State) (i : Nat) {f : Hamper → Hamper} (hf : ∀ h, (f h).tally = h.tally) :
    (s.updHamper i f).tally i = s.tally i := by
  rw [State.tally_of_put (State.updHamper_files ..)]
  exact congrArg (Prod.mk s.srv.ledger) (hf (s.hamper i))

theorem State.tokenTimes_tally (s : State) (i : Nat) (first : Bool) : (s.tokenTimes i first).tally i = s.tally i :=
  State.updHamper_tally _ _ fun _ => rfl

theorem State.shadowStep_tally (s : State) (i len : Nat) : (s.shadowStep i len).tally i = s.tally i := by
  unfold State.shadowStep
  dsimp only
  split
  · have hput := State.tally_of_put (s.modHamper_files i fun h => { h with shadow := len })
    exact hput
  · rfl

end

@[simp] theorem State.copyRow_desk (s : State) (ctx : Nat) (k : KvDesc) (old new : Nat) : (s.copyRow ctx k old new).desk = s.desk := by
  refine State.each_view State.desk _ _ (fun u x _ => State.each_view State.desk _ _ (fun w a _ => ?_) u) s
  exact (State.vSpanWrite_desk ..).trans (State.vSpanRead_desk ..)

@[simp] theorem State.copyPath_files (s : State) (i p : Nat) (path : List Nat) : (s.copyPath i p path).files = s.files := by
  refine State.files_of_desk ?_
  unfold State.copyPath
  dsimp only
  split
  · rfl
  · split
    · exact State.kvDesc_desk ..
    · exact (State.each_view State.desk _ _ (fun u x _ => State.copyRow_desk ..) _).trans (State.kvDesc_desk ..)

/-! ## Tokens -/

/-- Whether a token ends its request depends on the settings alone. -/
theorem State.tokenStop_congr {s t : State} (hw : t.files.word = s.files.word) (h : Hamper) (tok : Word) (pos : Nat) :
    t.tokenStop h tok pos = s.tokenStop h tok pos := by
  have hword {off : Nat} (hs : setting off = true) : t.r32 off = s.r32 off := by
    simpa only [State.files, hs, if_true] using congrFun hw off
  rw [State.tokenStop, State.rtMode, State.rf, State.rf, hword (by decide), hword (by decide)]
  rfl

/-- A request whose token has been emitted. -/
def Hamper.told (h : Hamper) (tok : Word) (fb : Bool) : Hamper :=
  { h with
    genCount := h.genCount + 1, lastToken := tok, gens := h.gens ++ [tok], m0 := (h.matches tok).1, m1 := (h.matches tok).2
    fallbackSeen := h.fallbackSeen || fb }

/-- A token that is emitted is told, with the reason with which it ends its request. -/
theorem State.emitToken_files (s : State) (i : Nat) (x : Word × Word) (pos : Nat) (fb : Bool) :
    (s.emitToken i x pos fb).1.files = s.files.put i ((s.hamper i).told x.1 fb).card := by
  have hrecord (why : Nat) := State.hamper_congr (s.tokenRecord_srv i (s.hamper i).genCount x.1 (why != 0) fb why x.2) i
  unfold State.emitToken
  dsimp only
  rw [State.updHamper_files, State.tokenRecord_files, hrecord]
  rfl

theorem State.emitToken_hamper (s : State) (i : Nat) (x : Word × Word) (pos : Nat) (fb : Bool) :
    (s.emitToken i x pos fb).1.hamper i = (s.hamper i).told x.1 fb := by
  have hrecord (why : Nat) := State.hamper_congr (s.tokenRecord_srv i (s.hamper i).genCount x.1 (why != 0) fb why x.2) i
  unfold State.emitToken
  dsimp only
  rw [State.updHamper_same, hrecord]
  rfl

theorem State.emitToken_why (s : State) (i : Nat) (x : Word × Word) (pos : Nat) (fb : Bool) :
    (s.emitToken i x pos fb).2 = s.tokenStop (s.hamper i) x.1 pos := rfl

/-- One step of the delivery of a row's tokens. -/
def tokenStep (i pos : Nat) (fb : Bool) (acc : State × Option (Nat × Nat)) (x : (Word × Word) × Nat) : State × Option (Nat × Nat) :=
  if acc.2.isSome then acc
  else
    let r := acc.1.emitToken i x.1 (pos + x.2) fb
    (r.1, if r.2 = 0 then none else some (x.2, r.2))

theorem State.emitTokens_eq (s : State) (i : Nat) (l : List (Word × Word)) (pos : Nat) (fb : Bool) :
    s.emitTokens i l pos fb = l.zipIdx.foldl (tokenStep i pos fb) (s, none) := rfl

/-- Behind a token that ends the request no other is delivered. -/
theorem foldl_tokenStep_ended (i pos : Nat) (fb : Bool) (u : State) (w : Nat × Nat) (l : List ((Word × Word) × Nat)) :
    l.foldl (tokenStep i pos fb) (u, some w) = (u, some w) := by
  induction l with
  | nil => rfl
  | cons x l ih => exact ih

theorem State.emitTokens_stop {s : State} {i : Nat} {x : Word × Word} {pos : Nat} (l : List (Word × Word)) (fb : Bool)
    (h : s.tokenStop (s.hamper i) x.1 pos ≠ 0) :
    s.emitTokens i (x :: l) pos fb = ((s.emitToken i x pos fb).1, some (0, s.tokenStop (s.hamper i) x.1 pos)) := by
  have hstep : tokenStep i pos fb (s, none) (x, 0)
      = ((s.emitToken i x pos fb).1, some (0, s.tokenStop (s.hamper i) x.1 pos)) := by
    rw [← State.emitToken_why s i x pos fb] at h ⊢
    simp only [tokenStep, Option.isSome_none, Bool.false_eq_true, if_false, Nat.add_zero, if_neg h]
  rw [State.emitTokens_eq, List.zipIdx_cons, List.foldl_cons, hstep, foldl_tokenStep_ended]

/-- A request without stop conditions of its own is not ended by a token short of its limits. -/
theorem State.tokenStop_none {s : State} {h : Hamper} (tok : Word) {pos : Nat} (hstop : h.nstop = 0) (hseq : h.nseq = 0)
    (hgen : h.genCount + 1 < h.genMax) (hctx : pos < h.ctxMax) (hmode : s.rtMode ≠ 1) (hpos : pos < 2 ^ 24) :
    s.tokenStop h tok pos = 0 := by
  rw [State.tokenStop, if_neg hmode, stopReason, hstop, hseq]
  simp only [List.take_zero, List.contains_nil, Bool.false_eq_true, if_false]
  rw [if_neg (by omega), if_neg (by omega), if_neg (by omega)]

/-- All the tokens of a row are delivered where none of them can end the request. -/
theorem foldl_tokenStep_all {i pos : Nat} {fb : Bool} (l : List (Word × Word)) (n : Nat) {s : State} {h : Hamper} (hh : h = s.hamper i)
    (hstop : h.nstop = 0) (hseq : h.nseq = 0) (hgen : h.genCount + l.length < h.genMax) (hctx : pos + n + l.length ≤ h.ctxMax)
    (hmode : s.rtMode ≠ 1) (hpos : pos + n + l.length ≤ 2 ^ 24) :
    ∃ u : State, (l.zipIdx n).foldl (tokenStep i pos fb) (s, none) = (u, none) ∧ u.srv.ledger = s.srv.ledger
      ∧ (u.hamper i).state = h.state ∧ (u.hamper i).genCount = h.genCount + l.length := by
  induction l generalizing s n h with
  | nil => exact ⟨s, rfl, rfl, by rw [hh], by rw [hh]; rfl⟩
  | cons x l ih =>
    rw [List.length_cons] at hgen hctx hpos
    have hwhy : s.tokenStop h x.1 (pos + n) = 0 :=
      State.tokenStop_none x.1 hstop hseq (by omega) (by omega) hmode (by omega)
    have hstep : tokenStep i pos fb (s, none) (x, n) = ((s.emitToken i x (pos + n) fb).1, none) := by
      have hw := (State.emitToken_why s i x (pos + n) fb).trans (by rw [← hh, hwhy])
      simp only [tokenStep, Option.isSome_none, Bool.false_eq_true, if_false, hw, if_true]
    have hfiles := State.emitToken_files s i x (pos + n) fb
    have hnext := State.emitToken_hamper s i x (pos + n) fb
    rw [← hh] at hnext
    have hmode' : (s.emitToken i x (pos + n) fb).1.rtMode ≠ 1 := by
      have hw := congrFun (congrArg Files.word hfiles) Reg.srvRtStat
      rw [State.rtMode, State.rf]
      simp only [State.files, Files.put, show setting Reg.srvRtStat = true by decide, if_true] at hw
      rw [hw]
      exact hmode
    obtain ⟨u, hu, hledger, hstate, hcount⟩ := ih (n + 1) (h := h.told x.1 fb) hnext.symm hstop hseq (by
        simp only [Hamper.told]; omega) (by simp only [Hamper.told]; omega) hmode' (by omega)
    refine ⟨u, ?_, hledger.trans (congrArg Files.ledger hfiles : _), hstate, ?_⟩
    · rw [List.zipIdx_cons, List.foldl_cons, hstep, hu]
    · rw [hcount, List.length_cons]
      simp only [Hamper.told]
      omega

/-! ## The rows (R374, R383) -/

/-- A DECODE row behind its tokens: its request's drafts are verified, and its cache goes on behind them. -/
def State.decoded (s : State) (r : Row) (h : Hamper) (path : List Nat) (len : Nat) (first : Bool) : State :=
  let u := ((((s.tokenTimes r.hamper first).copyPath r.hamper (r.lenBefore + 1) path).setLen r.hamper len).prefixStep r.hamper r.lenBefore len)
  if h.shadow = r.lenBefore then u.shadowStep r.hamper len else u

theorem State.decoded_tally (s : State) (r : Row) (h : Hamper) (path : List Nat) (len : Nat) (first : Bool) :
    (s.decoded r h path len first).tally r.hamper = ((s.tally r.hamper).1, { (s.tally r.hamper).2 with len := len }) := by
  unfold State.decoded
  dsimp only
  rw [apply_ite (State.tally · r.hamper), State.shadowStep_tally, ite_self, State.tally_of_files (State.prefixStep_files ..),
    State.setLen_tally, State.tally_of_files (State.copyPath_files ..), State.tokenTimes_tally]

/-- The state in which the tokens of a DECODE row are delivered: its drafts counted, and those that fail refunded. -/
def State.verified (s : State) (r : Row) (a : Nat) : State :=
  let n := r.drafts.tokens.length
  let u := (s.count Reg.srvSpecProposed n).count Reg.srvSpecAccepted a
  if r.cost = 0 then u else u.refund (s.hamper r.hamper).customer ((n - a) * 65536)

theorem State.verified_files (s : State) (r : Row) (a : Nat) : (s.verified r a).files = s.files := by
  unfold State.verified
  dsimp only
  split <;> simp

theorem State.verified_hamper (s : State) (r : Row) (a i : Nat) : (s.verified r a).hamper i = s.hamper i := by
  have hrefund (u : State) (c n : Nat) : (u.refund c n).hamper i = u.hamper i := by
    unfold State.refund
    split
    · rfl
    · exact State.hamper_congr (State.srvPut_srv ..) i
  unfold State.verified
  dsimp only
  split
  · rw [State.count_hamper, State.count_hamper]
  · rw [hrefund, State.count_hamper, State.count_hamper]

/-- The drafts of a row that its samples accept, and the tokens that it emits with them. -/
def Row.path (r : Row) (samples : List (Word × Word)) : List Nat := acceptPath r.drafts samples r.drafts.tokens.length 255
def Row.tokens (r : Row) (samples : List (Word × Word)) : List (Word × Word) :=
  nth (0, 0) samples 0 :: (r.path samples).map fun j => nth (0, 0) samples (j + 1)

theorem Row.tokens_length (r : Row) (samples : List (Word × Word)) : (r.tokens samples).length = (r.path samples).length + 1 := by
  rw [Row.tokens, List.length_cons, List.length_map]

/-- A DECODE row by what comes of the delivery of its tokens. -/
theorem State.acceptDecode_some {s u : State} {r : Row} {samples : List (Word × Word)} {n why : Nat}
    (he : (s.verified r (r.path samples).length).emitTokens r.hamper (r.tokens samples) (r.lenBefore + 1) r.fallback = (u, some (n, why))) :
    s.acceptDecode r samples = (u.decoded r (s.hamper r.hamper) (r.path samples) (r.lenBefore + n + 1)
      ((s.hamper r.hamper).genCount == 0)).endRequest r.hamper why := by
  unfold State.verified Row.tokens Row.path at he
  dsimp only at he
  unfold State.acceptDecode
  dsimp only
  rw [he]
  rfl

theorem State.acceptDecode_none {s u : State} {r : Row} {samples : List (Word × Word)}
    (he : (s.verified r (r.path samples).length).emitTokens r.hamper (r.tokens samples) (r.lenBefore + 1) r.fallback = (u, none)) :
    s.acceptDecode r samples = u.decoded r (s.hamper r.hamper) (r.path samples) (r.lenBefore + (r.path samples).length + 1)
      ((s.hamper r.hamper).genCount == 0) := by
  unfold State.verified Row.tokens Row.path at he
  dsimp only at he
  unfold State.acceptDecode
  dsimp only
  rw [he]
  rfl

theorem State.verified_stop (s : State) (r : Row) (a : Nat) (tok : Word) (pos : Nat) :
    (s.verified r a).tokenStop ((s.verified r a).hamper r.hamper) tok pos = s.tokenStop (s.hamper r.hamper) tok pos := by
  rw [State.verified_hamper, State.tokenStop_congr (congrArg Files.word (State.verified_files s r a))]

/-- What a token that is emitted tells of its request. -/
theorem State.emitToken_tally (s : State) (i : Nat) (x : Word × Word) (pos : Nat) (fb : Bool) :
    (s.emitToken i x pos fb).1.tally i
      = (s.srv.ledger, { (s.hamper i).tally with genCount := (s.hamper i).genCount + 1, lastToken := x.1 }) :=
  State.tally_of_put (State.emitToken_files ..)

/-- A DECODE row whose first token ends its request. -/
theorem State.acceptDecode_stop {s : State} {r : Row} {samples : List (Word × Word)} {tok : Word}
    (htok : (nth (0, 0) samples 0).1 = tok) (h0 : (s.hamper r.hamper).state ≠ 0) (h10 : (s.hamper r.hamper).state ≠ 10)
    (hstop : s.tokenStop (s.hamper r.hamper) tok (r.lenBefore + 1) ≠ 0) :
    (s.acceptDecode r samples).tally r.hamper = (s.srv.ledger, { (s.hamper r.hamper).tally with
      state := 10, endReason := s.tokenStop (s.hamper r.hamper) tok (r.lenBefore + 1), genCount := (s.hamper r.hamper).genCount + 1
      lastToken := tok, len := r.lenBefore + 1 }) := by
  subst htok
  have hfiles := State.verified_files s r (r.path samples).length
  have hwhy := State.verified_stop s r (r.path samples).length (nth (0, 0) samples 0).1 (r.lenBefore + 1)
  have he := State.emitTokens_stop ((r.path samples).map fun j => nth (0, 0) samples (j + 1)) r.fallback (hwhy.trans_ne hstop)
  have htold := State.emitToken_tally (s.verified r (r.path samples).length) r.hamper (nth (0, 0) samples 0) (r.lenBefore + 1) r.fallback
  rw [State.verified_hamper, State.ledger_of_files hfiles] at htold
  rw [hwhy] at he
  rw [State.acceptDecode_some he]
  have hdec := State.decoded_tally ((s.verified r (r.path samples).length).emitToken r.hamper (nth (0, 0) samples 0)
    (r.lenBefore + 1) r.fallback).1 r (s.hamper r.hamper) (r.path samples) (r.lenBefore + 0 + 1) ((s.hamper r.hamper).genCount == 0)
  rw [htold] at hdec
  have hstate := congrArg (·.2.state) hdec
  rw [State.endRequest_tally _ (hstate.trans_ne h0) (hstate.trans_ne h10), hdec]

/-- A DECODE row of which every token is delivered. -/
theorem State.acceptDecode_all {s : State} {r : Row} {samples : List (Word × Word)} {h : Hamper} {a : Nat} (hh : h = s.hamper r.hamper)
    (ha : a = (r.path samples).length) (hstop : h.nstop = 0) (hseq : h.nseq = 0) (hgen : h.genCount + a + 1 < h.genMax)
    (hctx : r.lenBefore + 1 + a < h.ctxMax) (hmode : s.rtMode ≠ 1) (hpos : r.lenBefore + 1 + a < 2 ^ 24) :
    ∃ g : Tally, (s.acceptDecode r samples).tally r.hamper = (s.srv.ledger, g) ∧ g.state = h.state ∧ g.genCount = h.genCount + a + 1
      ∧ g.len = r.lenBefore + a + 1 := by
  have hfiles := State.verified_files s r (r.path samples).length
  have hver : h = (s.verified r (r.path samples).length).hamper r.hamper := hh.trans (State.verified_hamper ..).symm
  have hlen := Row.tokens_length r samples
  have hmode' : (s.verified r (r.path samples).length).rtMode ≠ 1 := by
    rw [State.rtMode, State.rf, State.r32_of_files hfiles (by decide)]
    exact hmode
  obtain ⟨u, hu, hledger, hstate, hcount⟩ := foldl_tokenStep_all (pos := r.lenBefore + 1) (fb := r.fallback) (r.tokens samples) 0 hver hstop
    hseq (by omega) (by omega) hmode' (by omega)
  rw [State.acceptDecode_none ((State.emitTokens_eq ..).trans hu), State.decoded_tally]
  exact ⟨_, Prod.ext (hledger.trans (State.ledger_of_files hfiles)) rfl, hstate, hcount.trans (by omega), by dsimp only; omega⟩

end Sys2Proof.Machine
end

section
/-! SUPPORT. Rows that complete: what becomes of their requests and of the step (R374, R383, R391, R422). -/
namespace Sys2Proof.Machine

open Sys2Proof

/-! ## A prompt chunk -/

/-- A request whose chunk is committed, its blocks in the index of prefixes. -/
def State.committed (s : State) (r : Row) : State :=
  (s.updHamper r.hamper fun h => { h with promptDone := (s.hamper r.hamper).promptDone + r.chunk }).prefixStep r.hamper r.lenBefore
    ((s.hamper r.hamper).promptDone + r.chunk)

section
variable {s : State} {r : Row}

theorem State.committed_files : (s.committed r).files = s.files.put r.hamper
    { s.hamper r.hamper with promptDone := (s.hamper r.hamper).promptDone + r.chunk }.card :=
  (State.prefixStep_files ..).trans (State.updHamper_files ..)

theorem State.committed_tally : (s.committed r).tally r.hamper = (s.srv.ledger,
    { (s.hamper r.hamper).tally with promptDone := (s.hamper r.hamper).promptDone + r.chunk }) :=
  State.tally_of_put State.committed_files

theorem State.committed_stop (tok : Word) (pos : Nat) :
    (s.committed r).tokenStop ((s.committed r).hamper r.hamper) tok pos = s.tokenStop (s.hamper r.hamper) tok pos := by
  have hw : (s.committed r).files.word = s.files.word := (congrArg Files.word State.committed_files : _)
  have hc := State.card_of_put (State.committed_files (s := s) (r := r))
  rw [State.tokenStop_congr hw]
  exact (Hamper.read_card (fun h => s.tokenStop h tok pos) (fun _ => rfl) hc).trans rfl

theorem State.acceptChunk_short (samples : List (Word × Word))
    (h : (s.hamper r.hamper).promptDone + r.chunk < (s.hamper r.hamper).promptLen) : s.acceptChunk r samples = s.committed r :=
  if_pos h

/-- A token that does not end its request is delivered. -/
theorem State.emitTokens_pass {s : State} {i : Nat} {x : Word × Word} {pos : Nat} (fb : Bool)
    (h : s.tokenStop (s.hamper i) x.1 pos = 0) : s.emitTokens i [x] pos fb = ((s.emitToken i x pos fb).1, none) := by
  rw [← State.emitToken_why s i x pos fb] at h
  rw [State.emitTokens_eq, List.zipIdx_singleton, List.foldl_cons, List.foldl_nil]
  simp only [tokenStep, Option.isSome_none, Bool.false_eq_true, if_false, Nat.add_zero, if_pos h]

/-- A final chunk by what comes of the delivery of its token; u is the state behind that, with its times. -/
theorem State.acceptChunk_none {u v : State} (samples : List (Word × Word))
    (h : (s.hamper r.hamper).promptLen ≤ (s.hamper r.hamper).promptDone + r.chunk)
    (he : (s.committed r).emitTokens r.hamper (samples.take 1) (s.hamper r.hamper).promptLen r.fallback = (u, none))
    (hv : (u.tokenTimes r.hamper ((s.hamper r.hamper).genCount == 0)).shadowStep r.hamper (s.hamper r.hamper).promptLen = v)
    (h2 : (v.hamper r.hamper).state = 2) :
    s.acceptChunk r samples = v.updHamper r.hamper fun h => { h with state := 3 } := by
  unfold State.committed at he
  unfold State.acceptChunk
  dsimp only
  rw [if_neg (Nat.not_lt.2 h), he]
  dsimp only
  rw [hv, if_pos h2]

/-- The final chunk of a prompt, whose token starts the request's DECODE. -/
theorem State.acceptChunk_final {x : Word × Word} (samples : List (Word × Word))
    (h : (s.hamper r.hamper).promptLen ≤ (s.hamper r.hamper).promptDone + r.chunk) (h2 : (s.hamper r.hamper).state = 2)
    (hstop : s.tokenStop (s.hamper r.hamper) x.1 (s.hamper r.hamper).promptLen = 0) :
    (s.acceptChunk r (x :: samples)).tally r.hamper = (s.srv.ledger, { (s.hamper r.hamper).tally with
      state := 3, genCount := (s.hamper r.hamper).genCount + 1, lastToken := x.1
      promptDone := (s.hamper r.hamper).promptDone + r.chunk }) := by
  have hpass := State.emitTokens_pass r.fallback ((State.committed_stop (r := r) x.1 (s.hamper r.hamper).promptLen).trans hstop)
  obtain ⟨v, hv⟩ : ∃ v, (((s.committed r).emitToken r.hamper x (s.hamper r.hamper).promptLen r.fallback).1.tokenTimes r.hamper
    ((s.hamper r.hamper).genCount == 0)).shadowStep r.hamper (s.hamper r.hamper).promptLen = v := ⟨_, rfl⟩
  have hcom := State.committed_tally (s := s) (r := r)
  have hcount : ((s.committed r).hamper r.hamper).genCount = (s.hamper r.hamper).genCount := congrArg (·.2.genCount) hcom
  have htally : v.tally r.hamper = (s.srv.ledger, { (s.hamper r.hamper).tally with
      genCount := (s.hamper r.hamper).genCount + 1, lastToken := x.1
      promptDone := (s.hamper r.hamper).promptDone + r.chunk }) := by
    rw [← hv, State.shadowStep_tally, State.tokenTimes_tally, State.emitToken_tally, hcount]
    have hl : (s.committed r).srv.ledger = s.srv.ledger := congrArg Prod.fst hcom
    have ht : ((s.committed r).hamper r.hamper).tally = _ := congrArg Prod.snd hcom
    rw [hl, ht]
  have hstate : (v.hamper r.hamper).state = 2 := (congrArg (·.2.state) htally : _).trans h2
  have hdone : (v.updHamper r.hamper fun h => { h with state := 3 }).tally r.hamper
      = ((v.tally r.hamper).1, { (v.tally r.hamper).2 with state := 3 }) := State.tally_of_put (State.updHamper_files ..)
  rw [State.acceptChunk_none (x :: samples) h hpass hv hstate, hdone, htally]

end

/-! ## A row that is discarded -/

theorem State.discardRow_files (s : State) (r : Row) :
    (s.discardRow r).files = s.files.put r.hamper { s.hamper r.hamper with len := r.lenBefore }.card :=
  (State.refund_files ..).trans (State.setLen_files ..)

theorem State.discardRow_tally (s : State) (r : Row) :
    (s.discardRow r).tally r.hamper = (s.srv.ledger, { (s.hamper r.hamper).tally with len := r.lenBefore }) :=
  State.tally_of_put (State.discardRow_files ..)

/-! ## The completion of a row -/

/-- Row k, r, is done, in its place in the order. -/
def State.rowTaken (s : State) (k : Nat) (r : Row) (key : Nat) : State :=
  ((s.resolved key).setRow k { r with done := true }).modSrv fun v => { v with rowOrder := key }

/-- Behind its last row the step completes. -/
def State.stepEnd (s : State) : State := if s.basketRows.all (·.done) then s.stepComplete else s

/-- What becomes of the request of a row by its mark. -/
def State.rowOutcome (s : State) (k : Nat) (r : Row) (x : RowResult) (m : RowMark) : State :=
  match m with
  | .fault => (s.discardRow r).endRequest r.hamper 8
  | .poisoned => match x.weights with
    | some w => if s.weightHit w then s.weightRow k r w else (s.discardRow r).endRequest r.hamper 7
    | none => (s.discardRow r).endRequest r.hamper 7
  | .clean => if r.chunk = 0 then s.acceptDecode r x.samples else s.acceptChunk r x.samples

/-- What becomes of the request of a row that is done. -/
def State.rowBody (s : State) (k : Nat) (r : Row) (x : RowResult) : State :=
  if (s.hamper r.hamper).gen ≠ r.gen ∨ (s.hamper r.hamper).state = 0 ∨ (s.hamper r.hamper).state = 10 then
    s.refund (s.hamper r.hamper).customer r.cost
  else s.rowOutcome k r x (s.rowMark ((s.hamper r.hamper).handle r.hamper) x)

/-- What the end of a step leaves of the books: requests, rows, and weights. -/
def State.rowBooks (s : State) : Sparse Hamper × List Row × Sparse (Option WeightPage) := (s.srv.hampers, s.srv.basket.rows, s.srv.weights)

section
variable (s : State)

theorem State.rowBooks_of_srv {s t : State} (h : t.srv = s.srv) : t.rowBooks = s.rowBooks := by rw [State.rowBooks, State.rowBooks, h]

theorem State.stepComplete_rowBooks : s.stepComplete.rowBooks = s.rowBooks := by
  have hctx (u : State) (k : Nat) (f : Ctx → Ctx) : (u.modCtx k f).rowBooks = u.rowBooks := rfl
  have hlate (u : State) (l : Srv → List Bool) : (u.modSrv fun v => { v with overruns := l v }).rowBooks = u.rowBooks := rfl
  have hcount (u : State) : ((u.count Reg.srvStOverrunCnt 1).raise srvPn 13 10 srvSrc).rowBooks = u.rowBooks :=
    State.rowBooks_of_srv (State.count_srv ..)
  have hfree (u : State) :
      ((((u.wf Reg.srvRtStat 0 2 0).wb Reg.srvRtStat 3 true).modSrv fun v => { v with overruns := [] }).raise srvPn 14 10 srvSrc).rowBooks
        = u.rowBooks := rfl
  have hdone (u : State) (n : Nat) (l : List Nat) : ((u.modBasket fun b => { b with live := false }).modSrv fun v => { v with
      lastDone := n, spans := l }).rowBooks = u.rowBooks := rfl
  unfold State.stepComplete
  dsimp only
  split
  · exact (hdone ..).trans (State.each_view State.rowBooks _ _ (fun u k _ => hctx u k _) s)
  · rw [apply_ite State.rowBooks, hfree, ite_self, apply_ite State.rowBooks, hcount, ite_self, hlate]
    exact (hdone ..).trans (State.each_view State.rowBooks _ _ (fun u k _ => hctx u k _) s)

theorem State.stepEnd_rowBooks : s.stepEnd.rowBooks = s.rowBooks := by
  unfold State.stepEnd
  split
  · exact s.stepComplete_rowBooks
  · rfl

end

section
variable {s : State} {k : Nat} {r : Row} {x : RowResult}

/-- A row whose completion is due takes its place, and then its request's books are written. -/
theorem State.rowCompletion_due (hd : RowDue s k r x) : s.rowCompletion k x =
    ((s.rowTaken k r (s.rowKey x.engine.val)).rowBody k r x).stepEnd.srvRefresh := by
  obtain ⟨-, hrun, hord, hrow, hlive, hstart, hdone, hall, hsamples⟩ := hd
  unfold State.rowCompletion
  rw [hrow]
  dsimp only
  rw [State.firmwareAt_due _ hrun hord]
  · rfl
  · simp only [hlive, hstart, hdone, hall, Bool.not_false, Bool.and_true, Bool.true_and, Bool.or_eq_true, Bool.not_eq_true',
      Bool.or_eq_false_iff, beq_eq_false_iff_ne, decide_eq_true_eq, decide_eq_false_iff_not, Nat.not_le]
    exact hsamples

/-- A row that completes, with what it makes of the books. -/
theorem completes_row {P : State → Prop} (hd : RowDue s k r x)
    (hp : ∀ t, t.rowBooks = ((s.rowTaken k r (s.rowKey x.engine.val)).rowBody k r x).rowBooks → P t) :
    Completes (.rowCompletion k x) s P :=
  completes_event hd.1 (exec_rowCompletion k x s) rfl (State.rowCompletion_due hd) fun t ht =>
    hp t ((State.rowBooks_of_srv ht).trans (State.stepEnd_rowBooks _))

/-- It has what a state shows that the firmware's ledger and the request tell. -/
theorem RowDone.of_tally {t : State} {u : State} {i : Nat} {g : Tally} (hbooks : t.rowBooks = u.rowBooks)
    (hu : u.tally i = ((s.rowTaken k r (s.rowKey x.engine.val)).srv.ledger, g)) : RowDone s k t ∧ (t.hamper i).tally = g := by
  have hrows : t.srv.basket.rows = u.srv.basket.rows := congrArg (·.2.1) hbooks
  have hham : t.srv.hampers = u.srv.hampers := congrArg (·.1) hbooks
  have hledger : u.srv.basket.rows = (s.rowTaken k r (s.rowKey x.engine.val)).srv.basket.rows := congrArg (·.1.basket.rows) hu
  refine ⟨⟨{ r with done := true }, hrows.trans hledger, rfl⟩, ?_⟩
  rw [State.hamper, hham]
  exact congrArg Prod.snd hu

end

end Sys2Proof.Machine
end

section
/-! SUPPORT. Rows of a step by what the firmware finds of them: stale, clean, failed, or poisoned (R374, R383, R391, R422). -/
namespace Sys2Proof.Machine

open Sys2Proof

/-! ## What a row that is done leaves -/

section
variable (s : State) (k : Nat) (r : Row) (key : Nat)

theorem State.rowTaken_regs : (s.rowTaken k r key).regs = s.regs := rfl
theorem State.rowTaken_mem : (s.rowTaken k r key).mem = s.mem := rfl
theorem State.rowTaken_engines : (s.rowTaken k r key).engines = s.engines := rfl
theorem State.rowTaken_start : (s.rowTaken k r key).srv.basket.start = s.srv.basket.start := rfl
theorem State.rowTaken_tick : (s.rowTaken k r key).tick = s.tick := rfl
theorem State.rowTaken_hamper (i : Nat) : (s.rowTaken k r key).hamper i = s.hamper i := rfl
theorem State.rowTaken_rows :
    (s.rowTaken k r key).srv.basket.rows = s.srv.basket.rows.set k { r with done := true } := rfl
theorem State.rowTaken_r32 (off : Nat) : (s.rowTaken k r key).r32 off = s.r32 off := State.r32_congr (State.rowTaken_regs ..) off
theorem State.rowTaken_inStep (tide : Dword) : (s.rowTaken k r key).inStep tide = s.inStep tide := by
  rw [State.inStep, State.rowTaken_start, State.rowTaken_tick, State.inStep]
theorem State.rowTaken_weightHit (w : WeightAt) : (s.rowTaken k r key).weightHit w = s.weightHit w := by
  simp only [State.weightHit, State.lineNamed, State.rf, State.r64, State.rb, State.rowTaken_r32, State.rowTaken_inStep,
    State.rowTaken_mem, State.cached]
  rfl
theorem State.rowTaken_rowMark (handle : Nat) (x : RowResult) : (s.rowTaken k r key).rowMark handle x = s.rowMark handle x := by
  simp only [State.rowMark, State.logMark, State.lateMark, State.rf, State.r64, State.rb, State.rowTaken_r32, State.rowTaken_inStep,
    State.engine, State.rowTaken_engines]
  rfl
theorem State.rowTaken_rtMode : (s.rowTaken k r key).rtMode = s.rtMode := by
  rw [State.rtMode, State.rf, State.rowTaken_r32, State.rtMode, State.rf]
theorem State.rowTaken_tokenStop (h : Hamper) (tok : Word) (pos : Nat) :
    (s.rowTaken k r key).tokenStop h tok pos = s.tokenStop h tok pos := by
  simp only [State.tokenStop, State.rowTaken_rtMode, State.rf, State.rowTaken_r32]

end

/-- What becomes of the request of a row that lives, by its mark. -/
theorem State.rowBody_live {s : State} {k : Nat} {r : Row} {x : RowResult} (hgen : (s.hamper r.hamper).gen = r.gen)
    (h0 : (s.hamper r.hamper).state ≠ 0) (h10 : (s.hamper r.hamper).state ≠ 10) :
    s.rowBody k r x = s.rowOutcome k r x (s.rowMark ((s.hamper r.hamper).handle r.hamper) x) :=
  if_neg (not_or.2 ⟨not_not.2 hgen, not_or.2 ⟨h0, h10⟩⟩)

section
variable (s : State) (k : Nat) {r : Row} {x : RowResult}

/-- What becomes of a poisoned row that names no weight page which an error of the step lies in. -/
theorem State.rowOutcome_poisoned (hw : ∀ w, x.weights = some w → s.weightHit w = false) :
    s.rowOutcome k r x .poisoned = (s.discardRow r).endRequest r.hamper 7 := by
  unfold State.rowOutcome
  dsimp only
  split
  · next w hx => rw [if_neg (by rw [hw w hx]; decide)]
  · rfl

theorem State.rowOutcome_weights {w : WeightAt} (hx : x.weights = some w) (hit : s.weightHit w = true) :
    s.rowOutcome k r x .poisoned = s.weightRow k r w := by
  unfold State.rowOutcome
  dsimp only
  rw [hx]
  exact if_pos hit

theorem State.rowOutcome_decode (hchunk : r.chunk = 0) : s.rowOutcome k r x .clean = s.acceptDecode r x.samples := if_pos hchunk

theorem State.rowOutcome_chunk (hchunk : r.chunk ≠ 0) : s.rowOutcome k r x .clean = s.acceptChunk r x.samples := if_neg hchunk

end

theorem State.endRequest_discardRow (s : State) (r : Row) (reason : Nat) (h0 : (s.hamper r.hamper).state ≠ 0)
    (h10 : (s.hamper r.hamper).state ≠ 10) : ((s.discardRow r).endRequest r.hamper reason).tally r.hamper =
      (s.srv.ledger, { (s.hamper r.hamper).tally with state := 10, endReason := reason, len := r.lenBefore }) := by
  have hd := State.discardRow_tally s r
  have hstate := congrArg (·.2.state) hd
  rw [State.endRequest_tally _ (hstate.trans_ne h0) (hstate.trans_ne h10), hd]

section
variable {s : State} {k : Nat} {r : Row} {x : RowResult}

/-- The row r of s has taken its place in u, and everything that decides what becomes of its request is as it was. -/
structure RowTakes (s u : State) (r : Row) (x : RowResult) : Prop where
  hamper : u.hamper r.hamper = s.hamper r.hamper
  mark : u.rowMark ((u.hamper r.hamper).handle r.hamper) x = s.rowMark ((s.hamper r.hamper).handle r.hamper) x
  hit : ∀ w, u.weightHit w = s.weightHit w
  stop : ∀ tok pos, u.tokenStop (u.hamper r.hamper) tok pos = s.tokenStop (s.hamper r.hamper) tok pos
  mode : u.rtMode = s.rtMode

theorem State.rowTaken_takes (s : State) (k : Nat) (r : Row) (key : Nat) (x : RowResult) : RowTakes s (s.rowTaken k r key) r x where
  hamper := State.rowTaken_hamper ..
  mark := by rw [State.rowTaken_rowMark, State.rowTaken_hamper]
  hit := State.rowTaken_weightHit s k r key
  stop := fun tok pos => by rw [State.rowTaken_tokenStop, State.rowTaken_hamper]
  mode := State.rowTaken_rtMode ..

/-- A row that completes, with what its request's books tell. -/
theorem completes_row_tally {P : Tally → Prop} (hd : RowDue s k r x)
    (hp : ∀ u, RowTakes s u r x → ∃ g, (u.rowBody k r x).tally r.hamper = (u.srv.ledger, g) ∧ P g) :
    Completes (.rowCompletion k x) s fun t => RowDone s k t ∧ P (t.hamper r.hamper).tally := by
  obtain ⟨g, hg, hpg⟩ := hp _ (s.rowTaken_takes k r (s.rowKey x.engine.val) x)
  refine completes_row hd fun t ht => ?_
  obtain ⟨hdone, htally⟩ := RowDone.of_tally ht hg
  exact ⟨hdone, htally ▸ hpg⟩

/-- A row that is read comes to what its mark says, and its request lives. -/
theorem RowTakes.read {m : RowMark} {u : State} (hu : RowTakes s u r x) (hr : RowRead s k r x m) :
    u.rowBody k r x = u.rowOutcome k r x m ∧ (u.hamper r.hamper).state ≠ 0 ∧ (u.hamper r.hamper).state ≠ 10 := by
  obtain ⟨-, hgen, h0, h10, hmark⟩ := hr
  rw [← hu.hamper] at hgen h0 h10
  rw [← hu.mark] at hmark
  exact ⟨hmark ▸ State.rowBody_live hgen h0 h10, h0, h10⟩

/-- A row of a request that is gone is refunded, and nothing else. -/
theorem completes_row_stale (hd : RowDue s k r x)
    (hstale : (s.hamper r.hamper).gen ≠ r.gen ∨ (s.hamper r.hamper).state = 0 ∨ (s.hamper r.hamper).state = 10) :
    Completes (.rowCompletion k x) s fun t =>
      RowDone s k t ∧ (t.hamper r.hamper).state = (s.hamper r.hamper).state ∧ (t.hamper r.hamper).genCount = (s.hamper r.hamper).genCount := by
  refine completes_row_tally (P := fun g => g.state = (s.hamper r.hamper).state ∧ g.genCount = (s.hamper r.hamper).genCount) hd
    fun u hu => ?_
  rw [← hu.hamper] at hstale ⊢
  have hbody : u.rowBody k r x = u.refund (u.hamper r.hamper).customer r.cost := if_pos hstale
  exact ⟨_, hbody ▸ State.tally_of_files (State.refund_files ..) r.hamper, rfl, rfl⟩

theorem completes_row_fault (hr : RowRead s k r x .fault) :
    Completes (.rowCompletion k x) s fun t =>
      RowDone s k t ∧ (t.hamper r.hamper).state = 10 ∧ (t.hamper r.hamper).endReason = 8 ∧ (t.hamper r.hamper).len = r.lenBefore := by
  refine completes_row_tally (P := fun g => g.state = 10 ∧ g.endReason = 8 ∧ g.len = r.lenBefore) hr.1 fun u hu => ?_
  obtain ⟨hbody, h0, h10⟩ := hu.read hr
  rw [hbody, State.rowOutcome, State.endRequest_discardRow _ _ _ h0 h10]
  exact ⟨_, rfl, rfl, rfl, rfl⟩

theorem completes_row_poisoned (hr : RowRead s k r x .poisoned) (hw : ∀ w, x.weights = some w → s.weightHit w = false) :
    Completes (.rowCompletion k x) s fun t =>
      RowDone s k t ∧ (t.hamper r.hamper).state = 10 ∧ (t.hamper r.hamper).endReason = 7 ∧ (t.hamper r.hamper).len = r.lenBefore := by
  refine completes_row_tally (P := fun g => g.state = 10 ∧ g.endReason = 7 ∧ g.len = r.lenBefore) hr.1 fun u hu => ?_
  obtain ⟨hbody, h0, h10⟩ := hu.read hr
  rw [hbody, State.rowOutcome_poisoned _ _ fun w hx => (hu.hit w).trans (hw w hx), State.endRequest_discardRow _ _ _ h0 h10]
  exact ⟨_, rfl, rfl, rfl, rfl⟩

/-! ## A clean row -/

section
variable {h : Hamper} {tok : Word} {a : Nat} (hr : RowRead s k r x .clean) (hh : h = s.hamper r.hamper)
include hr hh

theorem completes_row_stop (htok : tok = (nth (0, 0) x.samples 0).1) (hchunk : r.chunk = 0)
    (hstop : s.tokenStop h tok (r.lenBefore + 1) ≠ 0) :
    Completes (.rowCompletion k x) s fun t =>
      RowDone s k t ∧ (t.hamper r.hamper).state = 10 ∧ (t.hamper r.hamper).endReason = s.tokenStop h tok (r.lenBefore + 1)
      ∧ (t.hamper r.hamper).genCount = h.genCount + 1 ∧ (t.hamper r.hamper).lastToken = tok
      ∧ (t.hamper r.hamper).len = r.lenBefore + 1 := by
  refine completes_row_tally (P := fun g => g.state = 10 ∧ g.endReason = s.tokenStop h tok (r.lenBefore + 1)
    ∧ g.genCount = h.genCount + 1 ∧ g.lastToken = tok ∧ g.len = r.lenBefore + 1) hr.1 fun u hu => ?_
  obtain ⟨hbody, h0, h10⟩ := hu.read hr
  subst hh
  rw [← hu.stop] at hstop ⊢
  rw [hbody, State.rowOutcome_decode _ _ hchunk, State.acceptDecode_stop htok.symm h0 h10 hstop, ← hu.hamper]
  exact ⟨_, rfl, rfl, rfl, rfl, rfl, rfl⟩

theorem completes_row_decode (ha : a = (acceptPath r.drafts x.samples r.drafts.tokens.length 255).length) (hchunk : r.chunk = 0)
    (hstop : h.nstop = 0) (hseq : h.nseq = 0) (hgen : h.genCount + a + 1 < h.genMax) (hctx : r.lenBefore + 1 + a < h.ctxMax)
    (hmode : s.rtMode ≠ 1) (hpos : r.lenBefore + 1 + a < 2 ^ 24) :
    Completes (.rowCompletion k x) s fun t =>
      RowDone s k t ∧ (t.hamper r.hamper).state = h.state ∧ (t.hamper r.hamper).genCount = h.genCount + a + 1
      ∧ (t.hamper r.hamper).len = r.lenBefore + a + 1 := by
  refine completes_row_tally (P := fun g => g.state = h.state ∧ g.genCount = h.genCount + a + 1 ∧ g.len = r.lenBefore + a + 1) hr.1
    fun u hu => ?_
  rw [(hu.read hr).1, State.rowOutcome_decode _ _ hchunk]
  exact State.acceptDecode_all (hh.trans hu.hamper.symm) ha hstop hseq hgen hctx (by rwa [hu.mode]) hpos

theorem completes_row_chunk (hchunk : r.chunk ≠ 0) (hshort : h.promptDone + r.chunk < h.promptLen) :
    Completes (.rowCompletion k x) s fun t =>
      RowDone s k t ∧ (t.hamper r.hamper).state = h.state ∧ (t.hamper r.hamper).promptDone = h.promptDone + r.chunk
      ∧ (t.hamper r.hamper).genCount = h.genCount := by
  refine completes_row_tally (P := fun g => g.state = h.state ∧ g.promptDone = h.promptDone + r.chunk ∧ g.genCount = h.genCount) hr.1
    fun u hu => ?_
  rw [← hu.hamper] at hh
  subst hh
  rw [(hu.read hr).1, State.rowOutcome_chunk _ _ hchunk, State.acceptChunk_short _ hshort, State.committed_tally]
  exact ⟨_, rfl, rfl, rfl, rfl⟩

theorem completes_row_final (htok : tok = (nth (0, 0) x.samples 0).1) (hchunk : r.chunk ≠ 0)
    (hfinal : h.promptLen ≤ h.promptDone + r.chunk) (h2 : h.state = 2) (hstop : s.tokenStop h tok h.promptLen = 0) :
    Completes (.rowCompletion k x) s fun t =>
      RowDone s k t ∧ (t.hamper r.hamper).state = 3 ∧ (t.hamper r.hamper).promptDone = h.promptDone + r.chunk
      ∧ (t.hamper r.hamper).genCount = h.genCount + 1 ∧ (t.hamper r.hamper).lastToken = tok := by
  obtain ⟨-, -, -, -, -, -, -, -, hsamples⟩ := hr.1
  have hlen : 1 ≤ x.samples.length := by
    rcases hsamples with hlt | hle
    · exact absurd hlt.2 (Nat.not_lt.2 (hh ▸ hfinal))
    · rwa [if_neg hchunk] at hle
  obtain ⟨y, rest, hy⟩ := List.exists_cons_of_length_pos hlen
  obtain rfl : tok = y.1 := by rw [htok, hy]; rfl
  refine completes_row_tally (P := fun g => g.state = 3 ∧ g.promptDone = h.promptDone + r.chunk
    ∧ g.genCount = h.genCount + 1 ∧ g.lastToken = y.1) hr.1 fun u hu => ?_
  subst hh
  rw [← hu.stop] at hstop
  rw [← hu.hamper] at hfinal h2 hstop ⊢
  rw [(hu.read hr).1, State.rowOutcome_chunk _ _ hchunk, hy, State.acceptChunk_final rest hfinal h2 hstop]
  exact ⟨_, rfl, rfl, rfl, rfl, rfl⟩

end

/-! ## A row that read a poisoned weight page -/

theorem State.quarantine_srv (s : State) (page sh : Nat) (on : Bool) : (s.quarantine page sh on).srv = s.srv := by
  refine State.upTo_view State.srv _ _ (fun u c _ => ?_) s
  dsimp only
  split <;> rfl

/-- The rows, the request and the weight page of a row that read poison in it. -/
theorem State.weightRow_books (s : State) (k : Nat) (r : Row) (w : WeightAt) :
    (s.weightRow k r w).srv.basket.rows = s.srv.basket.rows.set k { r with done := true, weight := some w.page }
    ∧ ((s.weightRow k r w).hamper r.hamper).tally = { (s.hamper r.hamper).tally with len := r.lenBefore }
    ∧ optAt (s.weightRow k r w).srv.weights w.page = some ⟨(s.hamper r.hamper).ctx, w.sh, w.va, w.page, false⟩ := by
  obtain ⟨u, hu, hrow⟩ : ∃ u : State, u.srv = s.srv ∧ s.weightRow k r w =
      ((u.discardRow r).setRow k { r with done := true, weight := some w.page }).modSrv fun v => { v with
        weights := setOpt v.weights w.page (some ⟨((u.discardRow r).hamper r.hamper).ctx, w.sh, w.va, w.page, false⟩) } := by
    refine ⟨if s.basketRows.any fun y => y.weight == some w.page then s else s.quarantine w.page w.sh true, ?_, rfl⟩
    split
    · rfl
    · exact State.quarantine_srv ..
  have hd := State.discardRow_tally u r
  have hham := State.hamper_congr hu r.hamper
  have hctx : ((u.discardRow r).hamper r.hamper).ctx = (s.hamper r.hamper).ctx := by
    rw [← hham]
    exact (Hamper.read_card Hamper.ctx (fun _ => rfl) (State.card_of_put (State.discardRow_files u r)) : _)
  have hrows : (u.discardRow r).srv.basket.rows = u.srv.basket.rows := congrArg (·.1.basket.rows) hd
  have hlen : ((u.discardRow r).hamper r.hamper).tally = _ := congrArg Prod.snd hd
  rw [hrow, hctx]
  refine ⟨?_, ?_, ?_⟩
  · exact congrArg (List.set · k _) (hrows.trans (congrArg (·.basket.rows) hu))
  · exact hlen.trans (by rw [hham])
  · rw [State.modSrv_srv]
    dsimp only
    rw [optAt_setOpt_self]

theorem completes_row_weights {w : WeightAt} (hr : RowRead s k r x .poisoned) (hx : x.weights = some w) (hit : s.weightHit w = true) :
    Completes (.rowCompletion k x) s fun t =>
      t.srv.basket.rows = s.srv.basket.rows.set k { r with done := true, weight := some w.page }
      ∧ (t.hamper r.hamper).state = (s.hamper r.hamper).state ∧ (t.hamper r.hamper).len = r.lenBefore
      ∧ optAt t.srv.weights w.page = some ⟨(s.hamper r.hamper).ctx, w.sh, w.va, w.page, false⟩ := by
  have hu := s.rowTaken_takes k r (s.rowKey x.engine.val) x
  have hset := State.rowTaken_rows s k r (s.rowKey x.engine.val)
  refine completes_row hr.1 ?_
  generalize s.rowTaken k r (s.rowKey x.engine.val) = u at hu hset
  intro t ht
  rw [(hu.read hr).1, State.rowOutcome_weights _ _ hx ((hu.hit w).trans hit)] at ht
  obtain ⟨hrows, htally, hweights⟩ := State.weightRow_books u k r w
  have hhampers : t.srv.hampers = (u.weightRow k r w).srv.hampers := congrArg (·.1) ht
  have hham : t.hamper r.hamper = (u.weightRow k r w).hamper r.hamper := by rw [State.hamper, State.hamper, hhampers]
  rw [hset, List.set_set] at hrows
  rw [hu.hamper] at htally hweights
  rw [hham]
  refine ⟨(congrArg (·.2.1) ht : _).trans hrows, congrArg Tally.state htally, congrArg Tally.len htally, ?_⟩
  rw [show t.srv.weights = _ from congrArg (·.2.2) ht]
  exact hweights

end

end Sys2Proof.Machine
end

section
/-! SUPPORT. The rings and the tracker as commands, poison that a serving core reads, and the reload of a poisoned weight page (R367, R371,
R392, R419, R421 to R425, R471). -/
namespace Sys2Proof.Machine

open Sys2Proof

/-! ## The rings, the cores and the tracker -/

section
variable {s : State}

theorem completes_srvTail_taken {v : Word} (wrote : List HostSpan) (hs : Ready s)
    (h : (v - s.r32 Reg.srvCmdHead).toNat ≤ 2 ^ s.rf Reg.srvCmdCfg 0 5) :
    Completes (.srvCmdTailWrite v wrote) s fun t => t.r32 Reg.srvCmdTail = v := by
  refine completes_run hs (exec_srvCmdTailWrite v wrote s) ?_
  rw [Footprint.apply_r32, if_pos (show firmFoot.regs = true from rfl)]
  exact State.srvTail_tail (s := s.hostWrote wrote) h

theorem completes_srvTail_ignored {v : Word} (wrote : List HostSpan) (hs : Ready s)
    (h : 2 ^ s.rf Reg.srvCmdCfg 0 5 < (v - s.r32 Reg.srvCmdHead).toNat) :
    Completes (.srvCmdTailWrite v wrote) s fun t => t.regs = s.regs ∧ t.srv = s.srv := by
  refine completes_run hs (exec_srvCmdTailWrite v wrote s) ?_
  rw [State.srvTail_ignored (s := s.hostWrote wrote) h]
  exact ⟨rfl, rfl⟩

theorem completes_srvCons (v : Word) (hs : Ready s) :
    Completes (.srvCplConsWrite v) s fun t => t.r32 Reg.srvCplCons = v ∧ (s.srv.owed = [] → t.srv.owed = []) := by
  refine completes_run hs (exec_srvCplConsWrite v s) ⟨?_, fun howed => ?_⟩
  · rw [Footprint.apply_r32, if_pos (show firmFoot.regs = true from rfl)]
    exact s.srvCons_cons v
  · rw [Footprint.apply_srv, if_pos (show firmFoot.srv = true from rfl)]
    exact s.srvCons_owed v howed

theorem completes_coreBeat (n : Fin 4) (hs : Ready s) (hrel : s.released = true) (h : natAt s.srv.beats n.val + 1024 ≤ s.tick) :
    Completes (.srvCoreBeat n) s fun t => t.r32 (Reg.srvCoreBeat n.val) = s.r32 (Reg.srvCoreBeat n.val) + 1
      ∧ natAt t.srv.beats n.val = s.tick := by
  refine completes_run hs (exec_srvCoreBeat n s) ?_
  rw [State.coreBeat_due hrel h]
  refine ⟨?_, Sparse.get_set_self ..⟩
  rw [Footprint.apply_r32, if_pos rfl, State.modSrv_r32, State.r32_w32_self]

theorem completes_trackerStart (hs : Ready s) (hrun : s.running = false) (hrel : s.released = true)
    (hlock : s.tideState = 2 ∨ s.isMaster = true) : Completes .hamperTrackerStart s fun t => t.running = true := by
  refine completes_run hs (exec_hamperTrackerStart s) ?_
  rw [State.running, Footprint.apply_rb, if_pos (show firmFoot.regs = true from rfl)]
  exact State.trackerStart_running hrun hrel hlock

end

/-! ## Poison that a serving core reads, and a re-run -/

section
variable {s : State} {i : Nat}

theorem State.stepSignal_srv (s : State) : s.stepSignal.srv = s.srv :=
  State.each_view State.srv _ _ (fun _ _ _ => State.tokenArrive_srv ..) s

theorem completes_rerunRelease {at_ : Nat} (hs : Serves s 0) (hat : s.srv.rerunAt = some at_) (hle : at_ ≤ s.tick)
    (hload : s.reloading = false) :
    Completes .rerunRelease s fun t =>
      t.srv.rerunAt = none ∧ t.srv.basket.live = true ∧ t.srv.basket.start = some s.tick := by
  obtain ⟨hready, hrun, hord⟩ := hs
  refine completes_books hready (exec_rerunRelease s) rfl fun t ht => ?_
  unfold State.rerunRelease State.firmware at ht
  dsimp only at ht
  rw [State.firmwareAt_due _ hrun hord (by simp [hat, hle, hload]), State.srvRefresh_srv, State.stepSignal_srv] at ht
  rw [ht]
  exact ⟨rfl, rfl, rfl⟩

/-- The request of a record that reads as poison ends. -/
theorem completes_dataPoison {n : Fin 4} {w : PoisonRecord} (hs : Ready s) (h0 : (s.hamper i).state ≠ 0) (h10 : (s.hamper i).state ≠ 10)
    (hw : s.dataPoison w = (s.endRequest i 7).srvRefresh) :
    Completes (.dataPoisonException n w) s fun t => (t.hamper i).state = 10 ∧ (t.hamper i).endReason = 7 := by
  refine completes_books hs (exec_dataPoisonException n w s) rfl fun t ht => ?_
  rw [hw, State.srvRefresh_srv] at ht
  rw [State.hamper_congr ht]
  exact State.endRequest_ends 7 h0 h10

theorem State.dataPoison_hamper (hrun : s.running = true) : s.dataPoison (.hamper i) = (s.endRequest i 7).srvRefresh := by
  unfold State.dataPoison
  rw [hrun]
  rfl

theorem State.dataPoison_row (hrun : s.running = true) {k : Nat} {r : Row} (hrow : s.basketRows[k]? = some r) (hi : r.hamper = i)
    (hgen : r.gen = (s.hamper i).gen) {w : PoisonRecord} (hw : w ∈ [PoisonRecord.stepTable k, .sampled k]) :
    s.dataPoison w = (s.endRequest i 7).srvRefresh := by
  subst hi
  unfold State.dataPoison
  rw [hrun]
  simp only [List.mem_cons, List.not_mem_nil, or_false] at hw
  rcases hw with rfl | rfl <;> simp [hrow, hgen]

theorem completes_dataPoison_other (n : Fin 4) (hs : Ready s) :
    Completes (.dataPoisonException n .other) s fun t => t.srv = s.srv ∧ t.evq = s.evq := by
  refine completes_run hs (exec_dataPoisonException n .other s) ?_
  unfold State.dataPoison
  dsimp only
  split <;> exact ⟨rfl, rfl⟩

end

end Sys2Proof.Machine
end

section
/-! SUPPORT. The reload of a poisoned weight page (R421 to R425). -/
namespace Sys2Proof.Machine

open Sys2Proof

/-! ## The copy into a new frame -/

section
variable (s : State)

theorem State.goldenRead_srv (sh a : Nat) : (s.goldenRead sh a).1.srv = s.srv := by
  unfold State.goldenRead
  dsimp only
  split
  · exact State.srv_of_desk (State.spanRead_desk ..)
  · rfl

theorem State.goldenFirst_srv (sh : Nat) (l : List Nat) : (s.goldenFirst sh l).1.srv = s.srv := by
  induction l generalizing s with
  | nil => rfl
  | cons a rest ih =>
    unfold State.goldenFirst
    dsimp only
    split
    · exact State.goldenRead_srv ..
    · exact (ih _).trans (State.goldenRead_srv ..)

theorem State.leafOf_srv (va : Nat) (levels : List Nat) (table : Nat) : (s.leafOf va levels table).1.srv = s.srv := by
  induction levels generalizing s table with
  | nil => rfl
  | cons l rest ih =>
    unfold State.leafOf
    dsimp only
    split_ifs
    · exact State.srv_of_desk (State.spanRead_desk ..)
    · exact State.srv_of_desk (State.spanRead_desk ..)
    · exact (ih _ _).trans (State.srv_of_desk (State.spanRead_desk ..))

theorem State.ite_srv {s u : State} {c : Prop} [Decidable c] (h : u.srv = s.srv) : (if c then s else u).srv = s.srv := by
  split
  · rfl
  · exact h

theorem State.each_srv {α : Type} (l : List α) {f : State → α → State} (hf : ∀ u a, (f u a).srv = u.srv) : (s.each l f).srv = s.srv :=
  State.each_view State.srv f l (fun u a _ => hf u a) s

theorem State.remap_srv (ctx va sh frame : Nat) : (s.remap ctx va sh frame).srv = s.srv := by
  refine State.ite_srv ?_
  have hr := State.leafOf_srv s va [0, 1, 2, 3]
    (s.dev * 2 ^ 54 + fld (s.r32 (Reg.coreCtxRoot 0 ctx)) 1 1 * 2 ^ 51 + fld (s.r32 (Reg.coreCtxRoot 0 ctx)) 2 30 * 4096)
  generalize s.leafOf va [0, 1, 2, 3] _ = r at hr ⊢
  rcases r with ⟨t, _ | ⟨at_, l⟩⟩
  · exact hr
  · refine (State.each_srv _ _ fun u e => (rfl : (u.engInv e _).srv = u.srv)).trans (Eq.trans ?_ hr)
    refine State.upTo_view State.srv _ _ (fun u k _ => ?_) _
    exact State.srv_of_desk ((State.spanWrite_desk ..).trans (State.spanRead_desk ..))

/-- A page's golden copy, if one can be read, lies in a new frame, where the page is mapped. -/
def State.reloadCopied (w : WeightPage) (l : List Nat) (frame : Nat) : State :=
  let g := s.goldenFirst w.sh l
  match g.2 with
  | some b => ((g.1.spanWrite 0 frame srvSrc 0 b false).1).remap w.ctx w.va w.sh frame
  | none => g.1

theorem State.reloadCopied_srv (w : WeightPage) (l : List Nat) (frame : Nat) : (s.reloadCopied w l frame).srv = s.srv := by
  unfold State.reloadCopied
  dsimp only
  split
  · exact (State.remap_srv ..).trans ((State.srv_of_desk (State.spanWrite_desk ..)).trans (State.goldenFirst_srv ..))
  · exact State.goldenFirst_srv ..

/-! ## The rows of a reload -/

/-- The rows that run again, and those whose requests end. -/
def State.reloadAgain (rows : List Row) (read : Bool) : List Row :=
  let p := s.tick + s.rf Reg.srvStepCfg 28 4 + s.stepTime + (s.r32 Reg.srvDlMargin).toNat
  if read then rows.filter fun r => s.reruns r p else []
def State.reloadGone (rows again : List Row) : List Row :=
  rows.filter fun r => ((s.hamper r.hamper).gen == r.gen && (s.hamper r.hamper).state != 0 && (s.hamper r.hamper).state != 10)
    && !again.contains r

/-- The requests of rows that cannot run again have ended. -/
def State.reloadEnds (gone : List Row) : State := s.each gone fun s r => s.endRequest r.hamper 10

/-- What a reload leaves of the step, of the quarantine and of the page behind the ends. -/
def State.reloadBooks (page : Nat) (w : WeightPage) (read : Bool) (again : List Row) : State :=
  let s := s.each again fun s r => s.setLen r.hamper (r.lenBefore + (if r.chunk = 0 then r.positions else r.chunk))
  let s := s.modBasket fun b => { b with
    rows := (b.rows.filter fun r => r.weight.isSome && r.weight != some page) ++ (b.rows.filter fun r => !r.done)
      ++ again.map fun r => { r with weight := none, done := false, cost := 0 }
    start := none, rerun := true }
  let s := if read then s.quarantine page w.sh false else s
  s.modSrv fun v => { v with
    weights := setOpt v.weights page (if read then none else some { w with lost := true })
    rerunAt := if again.isEmpty then v.rerunAt else some (s.tick + s.rf Reg.srvStepCfg 28 4) }

/-- The notices of the tenants, and what is counted and raised. -/
def State.reloadTold (page : Nat) (w : WeightPage) (read : Bool) (rows again gone : List Row) : State :=
  let key (r : Row) : Nat := (s.hamper r.hamper).pkey.toNat
  let s := s.each (if rows.isEmpty then [] else s.tenants w.ctx) fun s t =>
    let n := (again.filter fun r => key r == t).length
    let m := (gone.filter fun r => key r == t).length
    s.complete 0x82 (if !read then 2 else if m = 0 then 0 else 1) (BitVec.ofNat 32 t) (BitVec.ofNat 64 page) n m 0
  if rows.isEmpty then s
  else ((s.count Reg.srvWerrCnt 1).raise srvPn 17 2 srvSrc).raiseIf (!read) srvPn 18 2 srvSrc

/-- The state in which a reload finds the requests. -/
def State.reloadFrom (page : Nat) (w : WeightPage) (l : List Nat) (frame : Nat) : State :=
  ((s.resolved (ownKey 5)).modSrv fun v => { v with golden := Sparse.set (fun _ => []) v.golden page l }).reloadCopied w l frame

theorem State.reloadFrom_hamper (page : Nat) (w : WeightPage) (l : List Nat) (frame i : Nat) :
    (s.reloadFrom page w l frame).hamper i = s.hamper i := State.hamper_congr (State.reloadCopied_srv ..) i

end

/-- A reload of a page that is due. -/
theorem State.weightReload_due {s : State} {page frame : Nat} {wrote : List Nat} {w : WeightPage} (hs : Serves s 5)
    (hw : optAt s.srv.weights page = some w) (hlive : s.srv.basket.live = false)
    (hdue : s.weightRows page ≠ [] ∨ w.lost = true ∧ (s.goldenFirst w.sh (s.goldenList page wrote)).2.isSome = true) :
    ∃ u again gone, u = s.reloadFrom page w (s.goldenList page wrote) frame
      ∧ again = u.reloadAgain (s.weightRows page) (s.goldenFirst w.sh (s.goldenList page wrote)).2.isSome
      ∧ gone = u.reloadGone (s.weightRows page) again
      ∧ s.weightReload page wrote frame =
        (((u.reloadEnds gone).reloadBooks page w (s.goldenFirst w.sh (s.goldenList page wrote)).2.isSome again).reloadTold page w
          (s.goldenFirst w.sh (s.goldenList page wrote)).2.isSome (s.weightRows page) again gone).srvRefresh := by
  obtain ⟨-, hrun, hord⟩ := hs
  refine ⟨_, _, _, rfl, rfl, rfl, ?_⟩
  unfold State.weightReload State.firmware
  rw [hw]
  dsimp only
  rw [State.firmwareAt_due _ hrun hord]
  · rfl
  · rcases hdue with h | h
    · simp [hlive, h]
    · simp [hlive, h.1, h.2]

/-! ## What a reload comes to -/

section
variable {s : State} {i : Nat}

/-- A request that lives, or has ended with a reason, in the loop that ends requests with this reason. -/
def Hamper.ending (h : Hamper) (reason : Nat) : Prop := (h.state ≠ 0 ∧ h.state ≠ 10) ∨ (h.state = 10 ∧ h.endReason = reason)

theorem State.endRequest_other (s : State) {j : Nat} (reason : Nat) (hj : j ≠ i) :
    ((s.endRequest i reason).hamper j).card = (s.hamper j).card := by
  by_cases h : (s.hamper i).state = 0 ∨ (s.hamper i).state = 10
  · rw [State.endRequest_over _ h]
  · obtain ⟨h0, h10⟩ := not_or.1 h
    obtain ⟨flight, hf⟩ := State.endRequest_files reason h0 h10
    exact (congrFun (congrArg Files.card hf) j).trans (Files.put_other _ _ hj)

theorem Hamper.ending_congr {h g : Hamper} (hc : h.card = g.card) (reason : Nat) : h.ending reason ↔ g.ending reason := by
  rw [Hamper.ending, Hamper.ending, Hamper.read_card Hamper.state (fun _ => rfl) hc,
    Hamper.read_card Hamper.endReason (fun _ => rfl) hc]

theorem State.endRequest_ending (s : State) (j : Nat) {reason : Nat} (h : (s.hamper i).ending reason) :
    ((s.endRequest j reason).hamper i).ending reason
    ∧ (i = j ∨ ((s.hamper i).state = 10 ∧ (s.hamper i).endReason = reason) →
      ((s.endRequest j reason).hamper i).state = 10 ∧ ((s.endRequest j reason).hamper i).endReason = reason) := by
  by_cases hij : i = j
  · subst hij
    have hend : ((s.endRequest i reason).hamper i).state = 10 ∧ ((s.endRequest i reason).hamper i).endReason = reason := by
      rcases h with h | h
      · exact State.endRequest_ends reason h.1 h.2
      · rwa [State.endRequest_over _ (Or.inr h.1)]
    exact ⟨Or.inr hend, fun _ => hend⟩
  · have hc := State.endRequest_other s (i := j) (j := i) reason hij
    refine ⟨(Hamper.ending_congr hc reason).2 h, fun hor => ?_⟩
    rw [Hamper.read_card Hamper.state (fun _ => rfl) hc, Hamper.read_card Hamper.endReason (fun _ => rfl) hc]
    exact hor.resolve_left hij

/-- Every request that lives and has one of the rows has ended. -/
theorem State.reloadEnds_ends (s : State) (gone : List Row) (h : (s.hamper i).ending 10)
    (hg : (∃ r ∈ gone, r.hamper = i) ∨ ((s.hamper i).state = 10 ∧ (s.hamper i).endReason = 10)) :
    ((s.reloadEnds gone).hamper i).state = 10 ∧ ((s.reloadEnds gone).hamper i).endReason = 10 := by
  induction gone generalizing s with
  | nil =>
    rcases hg with ⟨r, hr, -⟩ | hg
    · exact absurd hr List.not_mem_nil
    · exact hg
  | cons r rest ih =>
    obtain ⟨hnext, hends⟩ := State.endRequest_ending s r.hamper h
    refine ih _ hnext ?_
    rcases hg with ⟨y, hy, hi⟩ | hg
    · rcases List.mem_cons.1 hy with rfl | hy
      · exact Or.inr (hends (Or.inl hi.symm))
      · exact Or.inl ⟨y, hy, hi⟩
    · exact Or.inr (hends (Or.inr hg))

theorem State.reloadBooks_weights (s : State) (page : Nat) (w : WeightPage) (read : Bool) (again : List Row) :
    optAt (s.reloadBooks page w read again).srv.weights page = if read then none else some { w with lost := true } := by
  unfold State.reloadBooks
  dsimp only
  rw [State.modSrv_srv]
  dsimp only
  rw [optAt_setOpt_self]

/-- Where no row runs again, what a reload leaves of the step leaves the requests. -/
theorem State.reloadBooks_hamper (s : State) (page : Nat) (w : WeightPage) (i : Nat) :
    (s.reloadBooks page w false []).hamper i = s.hamper i := rfl

theorem State.reloadTold_files (s : State) (page : Nat) (w : WeightPage) (read : Bool) (rows again gone : List Row) :
    (s.reloadTold page w read rows again gone).files = s.files := by
  have heach (l : List Nat) (f : State → Nat → State) (hf : ∀ u t, (f u t).files = u.files) : (s.each l f).files = s.files :=
    State.each_view State.files f l (fun u t _ => hf u t) s
  unfold State.reloadTold
  dsimp only
  split
  · exact heach _ _ fun _ _ => State.complete_files ..
  · rw [State.raiseIf_files, State.raise_files, State.countReload_files]
    exact heach _ _ fun _ _ => State.complete_files ..

theorem State.reloadTold_evq (s : State) (page : Nat) (w : WeightPage) {rows : List Row} (again gone : List Row) (hrows : rows ≠ []) :
    ⟨srvPn, 18, 2, srvSrc⟩ ∈ (s.reloadTold page w false rows again gone).evq := by
  unfold State.reloadTold
  dsimp only
  rw [if_neg (by simpa using hrows)]
  exact List.mem_append_right _ (List.mem_singleton.2 rfl)

section
variable {page frame : Nat} {wrote : List Nat} {w : WeightPage}

/-- A reload for which no copy can be read: the page is lost, and the requests of its rows end. -/
theorem completes_reload_lost (hs : Serves s 5) (hw : optAt s.srv.weights page = some w) (hlive : s.srv.basket.live = false)
    (hrows : s.weightRows page ≠ []) (hread : (s.goldenFirst w.sh (s.goldenList page wrote)).2 = none) :
    Completes (.weightReloadComplete page wrote frame) s fun t =>
      optAt t.srv.weights page = some { w with lost := true } ∧ ⟨srvPn, 18, 2, srvSrc⟩ ∈ t.evq
      ∧ ∀ r ∈ s.weightRows page, (s.hamper r.hamper).gen = r.gen → (s.hamper r.hamper).state ≠ 0 → (s.hamper r.hamper).state ≠ 10 →
        (t.hamper r.hamper).state = 10 ∧ (t.hamper r.hamper).endReason = 10 := by
  obtain ⟨u, again, gone, hu, hagain, hgone, hdue⟩ := State.weightReload_due (frame := frame) hs hw hlive (Or.inl hrows)
  rw [hread, Option.isSome_none] at hagain hdue
  obtain rfl : again = [] := hagain
  refine completes_runFirm hs.1 (exec_weightReloadComplete page wrote frame s) ?_
  have hfiles := State.reloadTold_files ((u.reloadEnds gone).reloadBooks page w false []) page w false (s.weightRows page) [] gone
  have hevq := State.reloadTold_evq ((u.reloadEnds gone).reloadBooks page w false []) page w [] gone hrows
  rw [hdue]
  generalize ((u.reloadEnds gone).reloadBooks page w false []).reloadTold page w false (s.weightRows page) [] gone = x at hfiles hevq ⊢
  have hweights : x.srv.weights = _ := (congrArg Srv.weights (State.ledger_of_files hfiles) : x.srv.ledger.weights = _)
  refine ⟨?_, hevq, fun r hr hgen h0 h10 => ?_⟩
  · exact (congrArg (optAt · page) hweights).trans ((State.reloadBooks_weights ..).trans (if_neg Bool.false_ne_true))
  · have hham : u.hamper r.hamper = s.hamper r.hamper := hu ▸ State.reloadFrom_hamper ..
    have hmem : r ∈ gone := by
      rw [hgone, State.reloadGone, List.mem_filter, hham]
      exact ⟨hr, by simp [hgen, h0, h10]⟩
    have hends := State.reloadEnds_ends (i := r.hamper) u gone (Or.inl (hham ▸ ⟨h0, h10⟩)) (Or.inl ⟨r, hmem, rfl⟩)
    have hc := State.card_of_files hfiles r.hamper
    rw [State.reloadBooks_hamper] at hc
    exact ⟨(Hamper.read_card Hamper.state (fun _ => rfl) hc).trans hends.1,
      (Hamper.read_card Hamper.endReason (fun _ => rfl) hc).trans hends.2⟩

/-- A reload for which a copy can be read: the page is a weight page as before. -/
theorem completes_reload_read (hs : Serves s 5) (hw : optAt s.srv.weights page = some w) (hlive : s.srv.basket.live = false)
    (hrows : s.weightRows page ≠ [] ∨ w.lost = true) (hread : (s.goldenFirst w.sh (s.goldenList page wrote)).2.isSome = true) :
    Completes (.weightReloadComplete page wrote frame) s fun t => optAt t.srv.weights page = none := by
  obtain ⟨u, again, gone, -, -, -, hdue⟩ := State.weightReload_due (frame := frame) hs hw hlive (hrows.imp_right fun h => ⟨h, hread⟩)
  refine completes_event hs.1 (exec_weightReloadComplete page wrote frame s) rfl hdue fun t ht => ?_
  have hledger := State.ledger_of_files (State.reloadTold_files
    ((u.reloadEnds gone).reloadBooks page w (s.goldenFirst w.sh (s.goldenList page wrote)).2.isSome again) page w
    (s.goldenFirst w.sh (s.goldenList page wrote)).2.isSome (s.weightRows page) again gone)
  rw [← ht] at hledger
  have hweights : t.srv.weights = _ := (congrArg Srv.weights hledger : t.srv.ledger.weights = _)
  rw [hweights]
  exact (State.reloadBooks_weights ..).trans (if_pos hread)

end

end

end Sys2Proof.Machine
end

section
/-! SUPPORT. The rows that a build places: what the placing of requests leaves of the step, and what a row adds to it (R374, R375, R380). -/
namespace Sys2Proof.Machine

open Sys2Proof

/-! ## Caches that requests share or receive -/

section
variable (s : State)

@[simp] theorem State.setReq_desk (i : Nat) : (s.setReq i).desk = s.desk := State.vWrite_desk ..

@[simp] theorem State.markBlock_desk (ctx : Nat) (k : KvDesc) (x : Nat × Nat) (n bits : Nat) : (s.markBlock ctx k x n bits).desk = s.desk := by
  unfold State.markBlock
  dsimp only
  split_ifs <;> simp

@[simp] theorem State.copyBlock_desk (ctx : Nat) (a b : KvDesc) (x : Nat × Nat) (n : Nat) : (s.copyBlock ctx a b x n).desk = s.desk :=
  (State.vSpanWrite_desk ..).trans (State.vSpanRead_desk ..)

@[simp] theorem State.shareBlocks_desk (ctx : Nat) (a b : KvDesc) (whole n : Nat) : (s.shareBlocks ctx a b whole n).desk = s.desk :=
  State.each_view State.desk _ _ (fun u _ _ =>
    (State.each_view State.desk _ _ (fun v _ _ => v.markBlock_desk ..) _).trans
      (State.each_view State.desk _ _ (fun v _ _ => v.copyBlock_desk ..) u)) s

@[simp] theorem State.shareCache_desk (i : Nat) (near : Option Nat) (n : Nat) : (s.shareCache i near n).desk = s.desk := by
  unfold State.shareCache
  dsimp only
  split
  · rfl
  · split
    · exact (State.shareBlocks_desk ..).trans ((State.kvDesc_desk ..).trans (State.kvDesc_desk ..))
    · refine State.each_view State.desk _ _ (fun u _ _ => State.each_view State.desk _ _ (fun v _ _ => ?_) u) _
      rw [State.markBlock_desk, State.drawnN_desk, State.vSpanWrite_desk]

@[simp] theorem State.sharer_desk (i : Nat) (m : Option Nat) : (s.sharer i m).1.desk = s.desk := by
  unfold State.sharer
  split
  · rfl
  · dsimp only
    split
    · rfl
    · exact (State.kvDesc_desk ..).trans (State.kvDesc_desk ..)

@[simp] theorem State.imageBytes_desk (base : Nat) : (s.imageBytes base).1.desk = s.desk := by
  unfold State.imageBytes
  dsimp only
  rw [State.hostSeen_desk, State.hostSeen_desk]

@[simp] theorem State.placeBlock_desk (ctx : Nat) (k : KvDesc) (pos : Nat) (c : Chunk) (i : Nat) :
    (s.placeBlock ctx k pos c i).desk = s.desk := by
  unfold State.placeBlock
  dsimp only
  split
  · rfl
  · simp

@[simp] theorem State.placeImage_desk (h : Hamper) (k : KvDesc) (t : Transfer) : (s.placeImage h k t).desk = s.desk := by
  unfold State.placeImage
  dsimp only
  refine (State.each_view State.desk _ _ (fun u c _ => State.each_view State.desk _ _ (fun v i _ => v.placeBlock_desk ..) u) _).trans ?_
  split <;> simp

@[simp] theorem State.takeImages_desk (h : Hamper) (fuel base : Nat) (seen : List (Nat × Nat)) (scales : List KvScale) :
    (s.takeImages h fuel base seen scales).1.desk = s.desk := by
  induction fuel generalizing s base seen scales with
  | zero => rfl
  | succ fuel ih =>
    unfold State.takeImages
    dsimp only
    split
    · simp
    · split_ifs <;> simp [ih]

end

/-! ## The slate of a build -/

/-- What a build fixes: the step, its tables, and the configuration of steps. -/
def State.slate (s : State) : Basket × List StepRow × Word := (s.srv.basket, s.srv.tables, s.r32 Reg.srvStepCfg)

section
variable {s t : State} {i : Nat}

theorem State.slate_of_put {h : Hamper} (ht : t.files = s.files.put i h) : t.slate = s.slate := by
  have hl : t.srv.ledger = s.srv.ledger := (congrArg Files.ledger ht : _)
  have hw : t.files.word = s.files.word := (congrArg Files.word ht : _)
  have hcfg : t.r32 Reg.srvStepCfg = s.r32 Reg.srvStepCfg := by
    have hset : setting Reg.srvStepCfg = true := by decide
    simpa only [State.files, hset, if_true] using congrFun hw Reg.srvStepCfg
  have hb : t.srv.basket = s.srv.basket := (congrArg Srv.basket hl : t.srv.ledger.basket = s.srv.ledger.basket)
  have hts : t.srv.tables = s.srv.tables := (congrArg Srv.tables hl : t.srv.ledger.tables = s.srv.ledger.tables)
  rw [State.slate, State.slate, hb, hts, hcfg]

theorem State.slate_of_files (ht : t.files = s.files) : t.slate = s.slate :=
  State.slate_of_put (i := 0) (ht.trans (s.files_put_card 0).symm)

theorem State.slate_of_desk (ht : t.desk = s.desk) : t.slate = s.slate := State.slate_of_files (State.files_of_desk ht)

end

section
variable (s : State) (i : Nat)

@[simp] theorem State.modHamper_slate (f : Hamper → Hamper) : (s.modHamper i f).slate = s.slate := rfl
@[simp] theorem State.updHamper_slate (f : Hamper → Hamper) : (s.updHamper i f).slate = s.slate :=
  State.slate_of_put (State.updHamper_files ..)
@[simp] theorem State.setLen_slate (n : Nat) : (s.setLen i n).slate = s.slate := State.slate_of_put (State.setLen_files ..)
@[simp] theorem State.poolTake_slate (ctx n : Nat) : (s.poolTake ctx n).slate = s.slate := rfl
@[simp] theorem State.drawn_slate : s.drawn.slate = s.slate := rfl
@[simp] theorem State.updBudget_slate (c : Nat) (f : Budget → Budget) : (s.updBudget c f).slate = s.slate :=
  State.slate_of_files (State.updBudget_files ..)
@[simp] theorem State.updBucket_slate (b : Nat) (f : Bucket → Bucket) : (s.updBucket b f).slate = s.slate :=
  State.slate_of_files (State.updBucket_files ..)
@[simp] theorem State.budgetRefresh_slate (c f : Nat) : (s.budgetRefresh c f).slate = s.slate :=
  State.slate_of_files (State.budgetRefresh_files ..)
@[simp] theorem State.charge_slate (c cost : Nat) : (s.charge c cost).slate = s.slate := State.slate_of_files (State.charge_files ..)
@[simp] theorem State.countFallback_slate (n : Nat) : (s.count Reg.srvFbRowsCnt n).slate = s.slate :=
  State.slate_of_files (State.countFallback_files ..)
@[simp] theorem State.countDefer_slate (n : Nat) : (s.count Reg.srvDeferCnt n).slate = s.slate :=
  State.slate_of_files (State.countDefer_files ..)
@[simp] theorem State.countPreempt_slate (n : Nat) : (s.count Reg.srvPreemptCnt n).slate = s.slate :=
  State.slate_of_files (State.countPreempt_files ..)
@[simp] theorem State.raise_slate (pn bit cls src : Nat) : (s.raise pn bit cls src).slate = s.slate := rfl
@[simp] theorem State.freeRetained_slate (ctx need : Nat) : (s.freeRetained ctx need).slate = s.slate :=
  State.slate_of_files (State.freeRetained_files ..)
@[simp] theorem State.wbStat_slate (lo : Nat) (b : Bool) : (s.wb Reg.srvStat lo b).slate = s.slate :=
  State.slate_of_files (State.wbStat_files ..)
@[simp] theorem State.modDrafts_slate (f : Srv → Sparse (Option DraftBlock)) :
    (s.modSrv fun v => { v with drafts := f v }).slate = s.slate := rfl
@[simp] theorem State.prefixMatch_slate : (s.prefixMatch i).1.slate = s.slate := State.slate_of_files (State.prefixMatch_files ..)
@[simp] theorem State.sharer_slate (m : Option Nat) : (s.sharer i m).1.slate = s.slate := State.slate_of_desk (State.sharer_desk ..)
@[simp] theorem State.shareCache_slate (near : Option Nat) (n : Nat) : (s.shareCache i near n).slate = s.slate :=
  State.slate_of_desk (State.shareCache_desk ..)
@[simp] theorem State.setReq_slate : (s.setReq i).slate = s.slate := State.slate_of_desk (State.setReq_desk ..)

@[simp] theorem State.takePages_slate (n : Nat) : (s.takePages i n).slate = s.slate := State.updHamper_slate ..

@[simp] theorem State.endRequest_slate (reason : Nat) : (s.endRequest i reason).slate = s.slate := by
  by_cases h : (s.hamper i).state = 0 ∨ (s.hamper i).state = 10
  · rw [State.endRequest_over _ h]
  · obtain ⟨h0, h10⟩ := not_or.1 h
    obtain ⟨flight, hf⟩ := State.endRequest_files reason h0 h10
    exact State.slate_of_put hf

@[simp] theorem State.preempt_slate (ctx : Nat) : (s.preempt ctx).1.slate = s.slate := by
  unfold State.preempt
  dsimp only
  split
  · rfl
  · simp

@[simp] theorem State.placeSwapped_slate : (s.placeSwapped i).slate = s.slate := by
  unfold State.placeSwapped
  dsimp only
  split <;> simp

@[simp] theorem State.importCache_slate : (s.importCache i).slate = s.slate := by
  have htake (h : Hamper) (n base : Nat) : (s.takeImages h n base [] []).1.slate = s.slate := State.slate_of_desk (State.takeImages_desk ..)
  unfold State.importCache
  dsimp only
  split
  · rfl
  · split <;> simp [htake]

@[simp] theorem State.admitRow_slate : (s.admitRow i).slate = s.slate := by
  unfold State.admitRow
  dsimp only
  cases ((s.prefixMatch i).1.sharer i (s.prefixMatch i).2.2).2 <;> dsimp only <;> split_ifs <;> simp

end

end Sys2Proof.Machine
end

section
/-! SUPPORT. The build of a basket, stage by stage, and what it fixes of the step (R374, R375, R382). -/
namespace Sys2Proof.Machine

open Sys2Proof

/-! ## Placing -/

/-- Between s and t at most one row has been placed, and only where there was room for it. -/
def State.Places (s t : State) : Prop :=
  t.slate = s.slate ∨ ∃ u i chunk d cost len start first, u.slate = s.slate
    ∧ s.srv.basket.rows.length < s.rf Reg.srvStepCfg 0 13 ∧ t.slate = (State.placeRow u i chunk d cost len start first).slate

theorem State.rowRoom_rows {s u : State} (hu : u.slate = s.slate) (h : u.rowRoom = true) :
    s.srv.basket.rows.length < s.rf Reg.srvStepCfg 0 13 := by
  have hb : u.srv.basket = s.srv.basket := congrArg (·.1) hu
  have hc : u.r32 Reg.srvStepCfg = s.r32 Reg.srvStepCfg := congrArg (·.2.2) hu
  rw [State.rowRoom, Bool.and_eq_true, decide_eq_true_eq, State.basketRows, State.rf, hb, hc] at h
  exact h.1

/-- What a row that is placed adds to the slate. -/
theorem State.placeRow_slate (s : State) (i chunk : Nat) (d : DraftBlock) (cost len start : Nat) (first : Bool) :
    ∃ r x, r.done = false ∧ r.weight = none ∧ (s.placeRow i chunk d cost len start first).slate =
      ({ s.srv.basket with rows := s.srv.basket.rows ++ [r] }, s.srv.tables ++ [x], s.r32 Reg.srvStepCfg) := by
  obtain ⟨u, hu, r, x, hdone, hweight, hrow⟩ : ∃ u : State, u.slate = s.slate ∧ ∃ r x, r.done = false ∧ r.weight = none
      ∧ s.placeRow i chunk d cost len start first
        = ((u.modSrv fun v => { v with tables := v.tables ++ [x] }).modBasket fun b => { b with rows := b.rows ++ [r] }).setLen i len := by
    refine ⟨_, ?_, _, _, ?_, ?_, rfl⟩
    · split <;> simp
    · rfl
    · rfl
  refine ⟨r, x, hdone, hweight, ?_⟩
  rw [hrow, State.setLen_slate]
  have hb : u.srv.basket = s.srv.basket := congrArg (·.1) hu
  have ht : u.srv.tables = s.srv.tables := congrArg (·.2.1) hu
  have hc : u.r32 Reg.srvStepCfg = s.r32 Reg.srvStepCfg := congrArg (·.2.2) hu
  rw [← hb, ← ht, ← hc]
  rfl

theorem State.Places.of_slate {s u t : State} (hu : u.slate = s.slate) (h : u.Places t) : s.Places t := by
  have hb : u.srv.basket = s.srv.basket := congrArg (·.1) hu
  have hc : u.r32 Reg.srvStepCfg = s.r32 Reg.srvStepCfg := congrArg (·.2.2) hu
  rcases h with h | ⟨v, i, chunk, d, cost, len, start, first, hv, hroom, ht⟩
  · exact Or.inl (h.trans hu)
  · rw [State.rf, hb, hc] at hroom
    exact Or.inr ⟨v, i, chunk, d, cost, len, start, first, hv.trans hu, hroom, ht⟩

/-! ## A DECODE request (R375) -/

section
variable (s : State) (start i : Nat)

/-- A request is to be placed: no draft is kept for it, and its customer's balance is of this boundary. -/
def State.refreshed : State := (s.modSrv fun v => { v with drafts := setOpt v.drafts i none }).budgetRefresh (s.hamper i).customer s.tick

/-- A request that is held from DECODE. -/
def State.held (why : Nat) : State := s.updHamper i fun h => { h with state := 4, heldFrom := 3, hold := why }

/-- Retained pages are freed where a context has too few. -/
def State.freed (ctx need : Nat) : State := if need ≤ s.pool ctx then s else s.freeRetained ctx need

/-- A DECODE request that is to have its row: its pages are taken, and it decodes. -/
def State.decoding (len : Nat) : State := (s.takePages i len).updHamper i fun h => { h with state := 3, hold := 0 }

/-- The row of a DECODE request that has its pages. -/
def State.decodeRow (d : DraftBlock) (len : Nat) : State :=
  (s.decoding i len).placeRow i 0 d ((1 + d.tokens.length) * 65536) len start true

/-- A DECODE request for which a victim must be found. -/
def State.decodeShort (ctx : Nat) : State :=
  let v := (s.wb Reg.srvStat 2 true).preempt ctx
  if v.2 = some i then v.1 else v.1.held i 3

/-- A DECODE request by the first thing that it lacks, if any. -/
theorem State.placeDecode_eq : s.placeDecode start i =
    let h := s.hamper i
    let d := s.draftOf i
    let w := s.refreshed i
    let len := h.len + 1 + d.tokens.length
    let u := w.freed h.ctx (w.lacks i len)
    if !w.rowRoom then w.held i 0
    else if !w.affords h.customer ((1 + d.tokens.length) * 65536) then
      (w.updBudget h.customer fun b => { b with heldSteps := min (2 ^ 32 - 1) (b.heldSteps + 1) }).held i 1
    else if !w.tokensFit (1 + d.tokens.length) then w.held i 2
    else if w.lacks i len ≤ u.pool h.ctx then u.decodeRow start i d len else u.decodeShort i h.ctx := rfl

@[simp] theorem State.refreshed_slate : (s.refreshed i).slate = s.slate := (State.budgetRefresh_slate ..).trans rfl
@[simp] theorem State.held_slate (why : Nat) : (s.held i why).slate = s.slate := State.updHamper_slate ..
@[simp] theorem State.freed_slate (ctx need : Nat) : (s.freed ctx need).slate = s.slate := by
  unfold State.freed
  split <;> simp
@[simp] theorem State.decodeShort_slate (ctx : Nat) : (s.decodeShort i ctx).slate = s.slate := by
  unfold State.decodeShort
  dsimp only
  split <;> simp

theorem State.decodeRow_places (d : DraftBlock) (len : Nat) (h : s.srv.basket.rows.length < s.rf Reg.srvStepCfg 0 13) :
    s.Places (s.decodeRow start i d len) :=
  Or.inr ⟨_, i, 0, d, _, len, start, true, (State.updHamper_slate ..).trans (State.takePages_slate ..), h, rfl⟩

theorem State.placeDecode_places : s.Places (s.placeDecode start i) := by
  refine State.Places.of_slate (s.refreshed_slate i) ?_
  rw [State.placeDecode_eq]
  generalize s.refreshed i = w
  dsimp only
  by_cases hroom : w.rowRoom = true
  · rw [if_neg (by simp [hroom])]
    split_ifs
    · exact Or.inl (by simp)
    · exact Or.inl (by simp)
    · exact State.Places.of_slate (by simp) (State.decodeRow_places _ _ _ _ _ (State.rowRoom_rows (by simp) hroom))
    · exact Or.inl (by simp)
  · rw [if_pos (by simpa using hroom)]
    exact Or.inl (by simp)

/-! ## A prompt chunk (R375) -/

/-- The row of a prompt chunk that has its pages. -/
def State.chunkRow (c cost len : Nat) (first : Bool) : State :=
  (s.takePages i len).placeRow i c DraftBlock.none_ cost len start first

/-- A prompt chunk by whether it lacks anything. -/
theorem State.placePrefill_eq : s.placePrefill start i =
    let h := s.hamper i
    let c := s.chunkLen h
    let w := s.budgetRefresh h.customer s.tick
    let cost := (c * (w.budget h.customer).promptW + 15) / 16 * 65536
    let len := h.promptDone + c
    let u := w.freed h.ctx (w.lacks i len)
    if c = 0 ∨ !w.rowRoom ∨ !w.affords h.customer cost ∨ !w.tokensFit 1 then w
    else if u.pool h.ctx < w.lacks i len then u
    else u.chunkRow start i c cost len (len == h.promptLen) := rfl

theorem State.placePrefill_places : s.Places (s.placePrefill start i) := by
  refine State.Places.of_slate (s.budgetRefresh_slate (s.hamper i).customer s.tick) ?_
  rw [State.placePrefill_eq]
  dsimp only
  generalize s.budgetRefresh (s.hamper i).customer s.tick = w
  split_ifs with hno hfew
  · exact Or.inl rfl
  · exact Or.inl (by simp)
  · have hroom : w.rowRoom = true := by
      simp only [not_or, Bool.not_eq_true', Bool.not_eq_false] at hno
      exact hno.2.1
    exact Or.inr ⟨_, i, _, _, _, _, start, _, (State.takePages_slate ..).trans (State.freed_slate ..),
      State.rowRoom_rows rfl hroom, rfl⟩

end

/-- A step whose rows are being placed under a configuration. -/
structure Placing (cfg : Word) (s : State) : Prop where
  word : s.r32 Reg.srvStepCfg = cfg
  start : s.srv.basket.start = none
  rerun : s.srv.basket.rerun = false
  room : s.srv.basket.rows.length ≤ fld cfg 0 13
  tables : s.srv.tables.length = s.srv.basket.rows.length
  fresh : ∀ r ∈ s.srv.basket.rows, r.done = false ∧ r.weight = none

section
variable {cfg : Word} {s t : State}

theorem Placing.of_slate (h : Placing cfg s) (ht : t.slate = s.slate) : Placing cfg t := by
  have hb : t.srv.basket = s.srv.basket := congrArg (·.1) ht
  have hts : t.srv.tables = s.srv.tables := congrArg (·.2.1) ht
  have hc : t.r32 Reg.srvStepCfg = s.r32 Reg.srvStepCfg := congrArg (·.2.2) ht
  obtain ⟨hword, hstart, hrerun, hroom, htables, hfresh⟩ := h
  constructor <;> simpa only [hb, hts, hc]

theorem Placing.places (h : Placing cfg s) (ht : s.Places t) : Placing cfg t := by
  rcases ht with ht | ⟨u, i, chunk, d, cost, len, start, first, hu, hroom, ht⟩
  · exact h.of_slate ht
  · have hplaced := h.of_slate hu
    rw [State.rf, h.word, ← show u.srv.basket = s.srv.basket from congrArg (·.1) hu] at hroom
    obtain ⟨r, x, hdone, hweight, hrow⟩ := u.placeRow_slate i chunk d cost len start first
    rw [hrow] at ht
    have hb : t.srv.basket = { u.srv.basket with rows := u.srv.basket.rows ++ [r] } := congrArg (·.1) ht
    have hts : t.srv.tables = u.srv.tables ++ [x] := congrArg (·.2.1) ht
    have hc : t.r32 Reg.srvStepCfg = u.r32 Reg.srvStepCfg := congrArg (·.2.2) ht
    refine ⟨hc.trans hplaced.word, by rw [hb]; exact hplaced.start, by rw [hb]; exact hplaced.rerun, ?_, ?_, ?_⟩
    · rw [hb, List.length_append, List.length_singleton]
      exact hroom
    · rw [hb, hts, List.length_append, List.length_append, hplaced.tables]
      rfl
    · rw [hb]
      intro y hy
      rcases List.mem_append.1 hy with hy | hy
      · exact hplaced.fresh y hy
      · rw [List.mem_singleton.1 hy]
        exact ⟨hdone, hweight⟩

theorem Placing.each {α : Type} (h : Placing cfg s) (l : List α) {f : State → α → State}
    (hf : ∀ u a, Placing cfg u → Placing cfg (f u a)) : Placing cfg (s.each l f) :=
  List.foldlRecOn l f (motive := Placing cfg) h fun u hu a _ => hf u a hu

end

end Sys2Proof.Machine
end

section
/-! SUPPORT. The build of a basket as a whole (R374, R375, R382). -/
namespace Sys2Proof.Machine

open Sys2Proof

/-! ## The stages of a build -/

section
variable (s : State) (runs : Hamper → Bool) (start : Nat)

/-- Step 1: requests that decode, or are held from decoding. -/
def State.stageDecode : State :=
  s.each (s.ranked fun h => (h.state == 3 || (h.state == 4 && h.heldFrom == 3)) && runs h) fun s i =>
    if (s.hamper i).state = 3 ∨ (s.hamper i).state = 4 then s.placeDecode start i else s

/-- Step 2: requests that have been swapped. -/
def State.stageSwapped : State := s.each (s.ranked fun h => h.state == 6 && runs h) State.placeSwapped

/-- Step 3: requests whose prompts are not done. -/
def State.stagePrefill : State := s.each (s.ranked fun h => h.state == 2 && runs h) fun s i => s.placePrefill start i

/-- Step 4: requests that are queued, and the rows of those that are admitted. -/
def State.stageAdmit : State :=
  let queued := s.ranked fun h => h.state == 1 && runs h
  let s4 := s.each queued State.admitRow
  let s5 := s4.each (queued.filter fun i => (s4.hamper i).state == 2) fun s i => s.placePrefill start i
  s5.each (queued.filter fun i => (s5.hamper i).state == 3) fun s i => s.placeDecode start i

/-- The four steps of a build. -/
def State.placed : State := (((s.stageDecode runs start).stageSwapped runs).stagePrefill runs start).stageAdmit runs start

/-- What precedes the placing: queries are answered, and the step before is gone. -/
def State.cleared : State :=
  ((s.queryWrite.wb Reg.srvStat 2 false).modBasket fun _ => { rows := [], start := none, live := false, rerun := false }).modSrv fun v =>
    { v with tables := [] }

/-- What follows it: the step goes live with its rows, and no draft stays. -/
def State.buildEnd : State :=
  let rows := s.basketRows
  let s7 := (s.modBasket fun b => { b with live := !rows.isEmpty }).wf Reg.srvLoad 0 13 rows.length
  (s7.modSrv fun v => { v with drafts := [] }).raiseIf (rows.any (·.fallback)) srvPn 15 10 srvSrc

theorem State.buildEnd_srv : s.buildEnd.srv = { s.srv with
    basket := { s.srv.basket with live := !s.srv.basket.rows.isEmpty }, drafts := [] } := State.raiseIf_srv ..

theorem State.buildEnd_load (h : s.srv.basket.rows.length < 2 ^ 13) :
    s.buildEnd.srvRefresh.rf Reg.srvLoad 0 13 = s.srv.basket.rows.length := by
  have hrefresh (u : State) : u.srvRefresh.rf Reg.srvLoad 0 13 = u.rf Reg.srvLoad 0 13 := by
    unfold State.srvRefresh
    dsimp only
    rw [State.rf_wf_apart _ _ _ _ _ _ _ (by decide) (by decide)]
    exact congrArg (fld · 0 13) (State.r32_wf_other _ _ _ _ _ _ (by decide))
  have hdrafts (u : State) : (u.modSrv fun v => { v with drafts := [] }).rf Reg.srvLoad 0 13 = u.rf Reg.srvLoad 0 13 := rfl
  rw [hrefresh, State.buildEnd, State.raiseIf_rf, hdrafts, State.rf_wf_self _ _ _ _ _ (by decide)]
  exact Nat.mod_eq_of_lt h

end

/-- The state from which a build places, and the tick at which its step starts. -/
def State.built (s : State) : State :=
  (s.resolved (ownKey 11)).cleared.placed (fun h => (s.resolved (ownKey 11)).cleared.ctxRuns h.ctx) (s.tick + s.rf Reg.srvStepCfg 28 4)

theorem State.basketBuild_due {s : State} (hs : Builds s) : s.basketBuild = s.built.buildEnd.srvRefresh := by
  obtain ⟨⟨-, hrun, hord⟩, hlive, hrerun, hload, hstart, hlast, htrip⟩ := hs
  unfold State.basketBuild State.firmware
  dsimp only
  rw [State.firmwareAt_due _ hrun hord (by simp [hlive, hrerun, hload, hstart, hlast, htrip])]
  rfl

/-- A build completes, with what the placing makes of the firmware's books. -/
theorem completes_build {s : State} {P : State → Prop} (hs : Builds s) (hp : ∀ t, t.srv = s.built.buildEnd.srv → P t) :
    Completes .basketBuild s P :=
  completes_event hs.1.1 (exec_basketBuild s) rfl (State.basketBuild_due hs) hp

section
variable {cfg : Word} {s : State}

theorem Placing.placed (h : Placing cfg s) (runs : Hamper → Bool) (start : Nat) : Placing cfg (s.placed runs start) := by
  have hdecode (u : State) (i : Nat) (hu : Placing cfg u) : Placing cfg (u.placeDecode start i) := hu.places (u.placeDecode_places start i)
  have hprefill (u : State) (i : Nat) (hu : Placing cfg u) : Placing cfg (u.placePrefill start i) := hu.places (u.placePrefill_places start i)
  have h1 : Placing cfg (s.stageDecode runs start) := h.each _ fun u i hu => by
    split
    · exact hdecode u i hu
    · exact hu
  have h2 := h1.each ((s.stageDecode runs start).ranked fun h => h.state == 6 && runs h) fun u i hu => hu.of_slate (u.placeSwapped_slate i)
  have h3 : Placing cfg (((s.stageDecode runs start).stageSwapped runs).stagePrefill runs start) := h2.each _ fun u i hu => hprefill u i hu
  have h4 := h3.each ((((s.stageDecode runs start).stageSwapped runs).stagePrefill runs start).ranked fun h => h.state == 1 && runs h)
    fun u i hu => hu.of_slate (u.admitRow_slate i)
  exact (h4.each _ fun u i hu => hprefill u i hu).each _ fun u i hu => hdecode u i hu

theorem State.queryWrite_word (s : State) : s.queryWrite.r32 Reg.srvStepCfg = s.r32 Reg.srvStepCfg := by
  have hset : setting Reg.srvStepCfg = true := by decide
  have howed (u : State) (f : Srv → List CplRec) : (u.modSrv fun v => { v with owed := f v }).r32 Reg.srvStepCfg = u.r32 Reg.srvStepCfg := rfl
  unfold State.queryWrite
  dsimp only
  split
  · rfl
  · rw [State.r32_of_files (State.fenceCheck_files _) hset, State.modSrv_r32]
    refine State.each_view (·.r32 Reg.srvStepCfg) _ _ (fun u q _ => ?_) s
    rw [State.r32_of_files (State.cplFlush_files _) hset, howed, State.r32_of_files (State.spanWrite_files ..) hset]

theorem State.cleared_placing (s : State) : Placing (s.r32 Reg.srvStepCfg) s.cleared where
  word := by
    rw [State.cleared, State.modSrv_r32, State.modBasket, State.modSrv_r32, State.wb, State.r32_wf_other _ _ _ _ _ _ (by decide)]
    exact s.queryWrite_word
  start := rfl
  rerun := rfl
  room := Nat.zero_le _
  tables := rfl
  fresh := fun r hr => absurd hr List.not_mem_nil

end

/-- What every build fixes. -/
theorem completes_build_step {s : State} (hs : Builds s) :
    Completes .basketBuild s fun t =>
      t.srv.basket.start = none ∧ t.srv.basket.rerun = false ∧ t.srv.basket.live = !t.srv.basket.rows.isEmpty
      ∧ t.srv.basket.rows.length ≤ s.rf Reg.srvStepCfg 0 13 ∧ t.rf Reg.srvLoad 0 13 = t.srv.basket.rows.length
      ∧ t.srv.tables.length = t.srv.basket.rows.length ∧ t.srv.drafts = [] ∧ ∀ r ∈ t.srv.basket.rows, r.done = false ∧ r.weight = none := by
  have hp : Placing (s.r32 Reg.srvStepCfg) s.built := (s.resolved (ownKey 11)).cleared_placing.placed _ _
  refine completes_runFirm hs.1.1 (exec_basketBuild s) ?_
  rw [State.basketBuild_due hs, Footprint.apply_srv, Footprint.apply_rf, if_pos rfl, if_pos rfl, State.srvRefresh_srv]
  generalize s.built = u at hp ⊢
  have hlt : u.srv.basket.rows.length < 2 ^ 13 := hp.room.trans_lt (Nat.mod_lt _ (by decide))
  rw [State.buildEnd_srv, State.buildEnd_load _ hlt]
  exact ⟨hp.start, hp.rerun, rfl, hp.room, rfl, hp.tables, rfl, hp.fresh⟩

end Sys2Proof.Machine
end

section
/-! SUPPORT. What a build reads of requests, budgets and pages, and a request's row in the books (R374 to R376, R380). -/
namespace Sys2Proof.Machine

open Sys2Proof

/-! ## Requests in the list -/

/-- An entry of a map behind a write is the one written, or one of another key. -/
theorem mem_sparse_set {α : Type} [DecidableEq α] {d : Nat → α} {m : Sparse α} {k : Nat} {v : α} {e : Nat × α}
    (he : e ∈ Sparse.set d m k v) : e = (k, v) ∨ (e ∈ m ∧ e.1 ≠ k) := by
  have hdrop {e : Nat × α} (h : e ∈ Sparse.drop m k) : e ∈ m ∧ e.1 ≠ k := by
    rw [Sparse.drop, List.mem_filter, bne_iff_ne] at h
    exact h
  unfold Sparse.set at he
  split at he
  · exact Or.inr (hdrop he)
  · exact (Sparse.mem_ins he).imp_right hdrop

theorem State.mem_modHamper {s : State} {i : Nat} {f : Hamper → Hamper} {e : Nat × Hamper} (he : e ∈ (s.modHamper i f).srv.hampers) :
    e = (i, f (s.hamper i)) ∨ (e ∈ s.srv.hampers ∧ e.1 ≠ i) := mem_sparse_set (d := fun _ => Hamper.reset) he

/-- Every request in the list is in one of the states. -/
def State.Among (s : State) (l : List Nat) : Prop := ∀ e ∈ s.srv.hampers, e.2.state ∈ l

/-- The list holds request i at most. -/
def State.Lone (s : State) (i : Nat) : Prop := ∀ e ∈ s.srv.hampers, e = (i, s.hamper i)

section
variable {s t : State} {i : Nat} {l : List Nat}

theorem State.Among.of_srv (h : s.Among l) (ht : t.srv.hampers = s.srv.hampers) : t.Among l := by
  rw [State.Among, ht]
  exact h

theorem State.hamper_of_hampers (ht : t.srv.hampers = s.srv.hampers) (i : Nat) : t.hamper i = s.hamper i := by
  rw [State.hamper, State.hamper, ht]

theorem State.Lone.of_srv (h : s.Lone i) (ht : t.srv.hampers = s.srv.hampers) : t.Lone i := by
  rw [State.Lone, ht, State.hamper_of_hampers ht]
  exact h

theorem State.Among.modHamper (h : s.Among l) (i : Nat) {f : Hamper → Hamper} (hf : (f (s.hamper i)).state ∈ l) :
    (s.modHamper i f).Among l := by
  intro e he
  rcases State.mem_modHamper he with rfl | he
  · exact hf
  · exact h e he.1

theorem State.Lone.modHamper (h : s.Lone i) (f : Hamper → Hamper) : (s.modHamper i f).Lone i := by
  intro e he
  rcases State.mem_modHamper he with rfl | ⟨hm, hne⟩
  · rw [State.modHamper_same]
  · exact absurd (congrArg Prod.fst (h e hm)) hne

theorem State.ranked_nil {p : Hamper → Bool} (h : ∀ e ∈ s.srv.hampers, p e.2 = false) : s.ranked p = [] := by
  have hfilter : (s.srv.hampers.filter fun e => p e.2) = [] := List.filter_eq_nil_iff.2 fun e he => by simp [h e he]
  rw [State.ranked, hfilter]
  rfl

theorem State.Among.ranked (h : s.Among l) {p : Hamper → Bool} (hp : ∀ g, g.state ∈ l → p g = false) : s.ranked p = [] :=
  State.ranked_nil fun e he => hp _ (h e he)

theorem State.Lone.ranked (h : s.Lone i) {p : Hamper → Bool} (hp : p (s.hamper i) = false) : s.ranked p = [] :=
  State.ranked_nil fun e he => by rw [h e he]; exact hp

/-- The only request, where it is one of those that are ranked. -/
theorem State.ranked_one {h : Hamper} (hs : s.srv.hampers = [(i, h)]) {p : Hamper → Bool} (hp : p h = true) : s.ranked p = [i] := by
  rw [State.ranked, hs, List.filter_cons_of_pos (by exact hp)]
  rfl

theorem State.lone_of_one {h : Hamper} (hs : s.srv.hampers = [(i, h)]) : s.hamper i = h ∧ s.Lone i := by
  have hham : s.hamper i = h := by rw [State.hamper, hs]; exact if_pos rfl
  refine ⟨hham, fun e he => ?_⟩
  rw [hs, List.mem_singleton] at he
  rw [he, hham]

end

/-! ## The stages that a build passes over -/

section
variable {s : State} (runs : Hamper → Bool) (start : Nat)

theorem State.stageDecode_none (h : (s.ranked fun h => (h.state == 3 || (h.state == 4 && h.heldFrom == 3)) && runs h) = []) :
    s.stageDecode runs start = s := by
  rw [State.stageDecode, h]
  rfl
theorem State.stageSwapped_none (h : (s.ranked fun h => h.state == 6 && runs h) = []) : s.stageSwapped runs = s := by
  rw [State.stageSwapped, h]
  rfl
theorem State.stagePrefill_none (h : (s.ranked fun h => h.state == 2 && runs h) = []) : s.stagePrefill runs start = s := by
  rw [State.stagePrefill, h]
  rfl
theorem State.stageAdmit_none (h : (s.ranked fun h => h.state == 1 && runs h) = []) : s.stageAdmit runs start = s := by
  rw [State.stageAdmit, h]
  rfl

end

/-! ## Budgets -/

section
variable {s t : State} (c n : Nat)

theorem State.budget_congr (h : t.srv.budgets = s.srv.budgets) : t.budget c = s.budget c := by rw [State.budget, State.budget, h]

theorem State.updBudget_srv (s : State) (c : Nat) (f : Budget → Budget) :
    (s.updBudget c f).srv = { s.srv with budgets := Sparse.set (fun _ => Budget.reset) s.srv.budgets c (f (s.budget c)) } :=
  State.srvPut_srv ..

theorem State.updBudget_same (s : State) (c : Nat) (f : Budget → Budget) : (s.updBudget c f).budget c = f (s.budget c) := by
  rw [State.budget, State.updBudget_srv]
  exact Sparse.get_set_self ..

theorem State.budgetRefresh_congr (h : t.srv.budgets = s.srv.budgets) (f : Nat) :
    (t.budgetRefresh c f).srv.budgets = (s.budgetRefresh c f).srv.budgets := by
  unfold State.budgetRefresh
  rw [State.budget_congr c h]
  split
  · exact h
  · rw [State.updBudget_srv, State.updBudget_srv, State.budget_congr c h, h]

theorem State.charge_congr (h : t.srv.budgets = s.srv.budgets) : (t.charge c n).srv.budgets = (s.charge c n).srv.budgets := by
  unfold State.charge
  rw [State.budget_congr c h]
  split
  · exact h
  · rw [State.updBudget_srv, State.updBudget_srv, State.budget_congr c h, h]

theorem State.affords_congr (h : t.srv.budgets = s.srv.budgets) : t.affords c n = s.affords c n := by
  rw [State.affords, State.affords, State.budget_congr c h]

/-- A balance that is brought up to date is of the same customer. -/
theorem State.budgetRefresh_budget (s : State) (f : Nat) :
    ((s.budgetRefresh c f).budget c).unlimited = (s.budget c).unlimited ∧ ((s.budgetRefresh c f).budget c).promptW = (s.budget c).promptW := by
  unfold State.budgetRefresh
  split
  · exact ⟨rfl, rfl⟩
  · rw [State.updBudget_same]
    exact ⟨rfl, rfl⟩

theorem State.charge_balance (h : (s.budget c).unlimited = false) : ((s.charge c n).budget c).balance = (s.budget c).balance - n := by
  rw [State.charge, h, if_neg Bool.false_ne_true, State.updBudget_same]

/-- What a balance that is brought up to date leaves of the books. -/
theorem State.budgetRefresh_srv (s : State) (f : Nat) :
    (s.budgetRefresh c f).srv = { s.srv with budgets := (s.budgetRefresh c f).srv.budgets } := by
  unfold State.budgetRefresh
  split
  · rfl
  · rw [State.updBudget_srv]

theorem State.charge_srv (s : State) : (s.charge c n).srv = { s.srv with budgets := (s.charge c n).srv.budgets } := by
  unfold State.charge
  split
  · rfl
  · rw [State.updBudget_srv]

/-- Nor of a register word that no access to memory writes. -/
theorem State.budgetRefresh_r32 (s : State) (f : Nat) {off : Nat} (hq : quietWord off = true) : (s.budgetRefresh c f).r32 off = s.r32 off := by
  unfold State.budgetRefresh
  split
  · rfl
  · exact State.r32_of_desk (State.srvPut_desk ..) hq

end

/-! ## What a request lacks -/

theorem State.lacks_congr {s t : State} (hh : t.srv.hampers = s.srv.hampers) (hp : t.srv.prefixes = s.srv.prefixes) (i n : Nat) :
    t.lacks i n = s.lacks i n := by
  have hb (b : Nat) : t.bucket b = s.bucket b := by rw [State.bucket, State.bucket, hp]
  simp only [State.lacks, State.sharedPages, State.hamper_of_hampers hh, hb]

/-! ## A row in the books -/

section
variable (s : State) (i chunk : Nat) (d : DraftBlock) (cost len start : Nat) (first : Bool)

/-- The row that is placed. -/
def State.rowOf : Row :=
  { hamper := i, gen := (s.hamper i).gen, chunk := chunk, drafts := d
    cost := if ((s.charge (s.hamper i).customer cost).budget (s.hamper i).customer).unlimited then 0 else cost
    fallback := s.fallsBack i start first (chunk == 0), done := false, lenBefore := (s.hamper i).len, weight := none }

/-- What a row that is placed makes of the books. -/
theorem State.placeRow_srv : (s.placeRow i chunk d cost len start first).srv =
    { s.srv with
      budgets := (s.charge (s.hamper i).customer cost).srv.budgets
      tables := s.srv.tables ++ [stepRow (s.hamper i) i (s.hamper i).len (if chunk = 0 then 1 + d.tokens.length else chunk) (chunk == 0) d]
      basket := { s.srv.basket with rows := s.srv.basket.rows ++ [s.rowOf i chunk d cost start first] }
      hampers := Sparse.set (fun _ => Hamper.reset) s.srv.hampers i { s.hamper i with len := len } } := by
  have hrow : ∃ u : State, u.srv = (s.charge (s.hamper i).customer cost).srv ∧ s.placeRow i chunk d cost len start first =
      ((u.modSrv fun v => { v with tables := v.tables ++
          [stepRow (s.hamper i) i (s.hamper i).len (if chunk = 0 then 1 + d.tokens.length else chunk) (chunk == 0) d] }).modBasket fun b =>
        { b with rows := b.rows ++ [s.rowOf i chunk d cost start first] }).setLen i len := by
    refine ⟨_, ?_, rfl⟩
    split
    · exact State.count_srv ..
    · rfl
  obtain ⟨u, hu, hrow⟩ := hrow
  have hbooks := hu.trans (State.charge_srv (s.hamper i).customer cost s)
  rw [hrow, State.setLen_srv]
  simp only [State.modHamper, State.setHamper, State.modBasket, State.modSrv_srv, State.hamper, hbooks]

end

end Sys2Proof.Machine
end

section
/-! SUPPORT. The rows of single requests in the books, and what a build finds before it places (R374 to R376). -/
namespace Sys2Proof.Machine

open Sys2Proof

/-! ## Changes of one request -/

section
variable {s : State} {l : List Nat}

theorem State.Among.updHamper (h : s.Among l) (i : Nat) {f : Hamper → Hamper} (hf : (f (s.hamper i)).state ∈ l) :
    (s.updHamper i f).Among l := (h.modHamper i hf).of_srv (congrArg Srv.hampers (State.updHamper_srv s i f))

theorem State.Lone.updHamper {i : Nat} (h : s.Lone i) (f : Hamper → Hamper) : (s.updHamper i f).Lone i :=
  (h.modHamper f).of_srv (congrArg Srv.hampers (State.updHamper_srv s i f))

theorem State.updHamper_budgets (s : State) (i : Nat) (f : Hamper → Hamper) : (s.updHamper i f).srv.budgets = s.srv.budgets :=
  (congrArg Srv.budgets (State.updHamper_srv s i f) : _)

theorem State.updHamper_pool (s : State) (i : Nat) (f : Hamper → Hamper) (ctx : Nat) : (s.updHamper i f).pool ctx = s.pool ctx :=
  State.pool_congr (State.updHamper_srv s i f) ctx

end

/-! ## The pages of a row -/

section
variable (s : State) (i n : Nat)

theorem State.takePages_hamper (j : Nat) : ∃ p q, (s.takePages i n).hamper j =
    if j = i then { s.hamper i with pages := p, reservedPages := q } else s.hamper j :=
  ⟨_, _, State.updHamper_hamper ..⟩

theorem State.takePages_budgets : (s.takePages i n).srv.budgets = s.srv.budgets := by
  rw [State.takePages]
  exact State.updHamper_budgets ..

theorem State.Among.takePages {s : State} {l : List Nat} (h : s.Among l) (hi : (s.hamper i).state ∈ l) : (s.takePages i n).Among l :=
  State.Among.updHamper (s := s.poolTake _ _) h i hi

theorem State.Lone.takePages {s : State} {i : Nat} (h : s.Lone i) (n : Nat) : (s.takePages i n).Lone i :=
  State.Lone.updHamper (s := s.poolTake _ _) h _

theorem State.basket_of_slate {s t : State} (h : t.slate = s.slate) : t.srv.basket = s.srv.basket := congrArg (·.1) h
theorem State.tables_of_slate {s t : State} (h : t.slate = s.slate) : t.srv.tables = s.srv.tables := congrArg (·.2.1) h

end

/-! ## The row of a DECODE request in the books -/

section
variable (s : State) (start i chunk cost len : Nat) (d : DraftBlock) (first : Bool)

theorem State.placeRow_hampers : (s.placeRow i chunk d cost len start first).srv.hampers =
    (s.modHamper i fun h => { h with len := len }).srv.hampers := (congrArg Srv.hampers (State.placeRow_srv ..) : _)
theorem State.placeRow_budgets : (s.placeRow i chunk d cost len start first).srv.budgets =
    (s.charge (s.hamper i).customer cost).srv.budgets := (congrArg Srv.budgets (State.placeRow_srv ..) : _)
theorem State.placeRow_tables : (s.placeRow i chunk d cost len start first).srv.tables =
    s.srv.tables ++ [stepRow (s.hamper i) i (s.hamper i).len (if chunk = 0 then 1 + d.tokens.length else chunk) (chunk == 0) d] :=
  (congrArg Srv.tables (State.placeRow_srv ..) : _)
theorem State.placeRow_rows : (s.placeRow i chunk d cost len start first).srv.basket.rows =
    s.srv.basket.rows ++ [s.rowOf i chunk d cost start first] := (congrArg (·.basket.rows) (State.placeRow_srv ..) : _)

theorem State.decoding_hamper : ∃ p q, (s.decoding i len).hamper i =
    { s.hamper i with pages := p, reservedPages := q, state := 3, hold := 0 } := by
  obtain ⟨p, q, hp⟩ := s.takePages_hamper i len i
  rw [if_pos rfl] at hp
  exact ⟨p, q, by rw [State.decoding, State.updHamper_same, hp]⟩

theorem State.decoding_slate : (s.decoding i len).slate = s.slate := by simp [State.decoding]

theorem State.decoding_budgets : (s.decoding i len).srv.budgets = s.srv.budgets := by
  rw [State.decoding, State.updHamper_budgets, State.takePages_budgets]

theorem State.decodeRow_rows : ∃ r : Row, (s.decodeRow start i d len).srv.basket.rows = s.srv.basket.rows ++ [r]
    ∧ r.hamper = i ∧ r.gen = (s.hamper i).gen ∧ r.chunk = 0 ∧ r.drafts = d ∧ r.lenBefore = (s.hamper i).len := by
  obtain ⟨p, q, hp⟩ := s.decoding_hamper i len
  rw [State.decodeRow, State.placeRow_rows, State.basket_of_slate (s.decoding_slate i len)]
  refine ⟨_, rfl, rfl, ?_, rfl, rfl, ?_⟩ <;> rw [State.rowOf, hp]

theorem State.decodeRow_tables : (s.decodeRow start i d len).srv.tables =
    s.srv.tables ++ [stepRow (s.hamper i) i (s.hamper i).len (1 + d.tokens.length) true d] := by
  obtain ⟨p, q, hp⟩ := s.decoding_hamper i len
  rw [State.decodeRow, State.placeRow_tables, State.tables_of_slate (s.decoding_slate i len), hp]
  rfl

theorem State.decodeRow_budgets : (s.decodeRow start i d len).srv.budgets =
    (s.charge (s.hamper i).customer ((1 + d.tokens.length) * 65536)).srv.budgets := by
  obtain ⟨p, q, hp⟩ := s.decoding_hamper i len
  rw [State.decodeRow, State.placeRow_budgets, hp]
  exact State.charge_congr _ _ (s.decoding_budgets i len)

theorem State.decodeRow_hamper (j : Nat) : ∃ p q, (s.decodeRow start i d len).hamper j =
    if j = i then { s.hamper i with pages := p, reservedPages := q, state := 3, hold := 0, len := len } else s.hamper j := by
  obtain ⟨p, q, hp⟩ := s.decoding_hamper i len
  obtain ⟨p', q', hp'⟩ := s.takePages_hamper i len j
  refine ⟨p, q, ?_⟩
  rw [State.decodeRow, State.hamper_of_hampers (State.placeRow_hampers ..), State.modHamper_hamper, hp]
  split
  · rfl
  · next hj => rw [State.decoding, State.updHamper_hamper, if_neg hj, hp', if_neg hj]

theorem State.Among.decodeRow {s : State} {l : List Nat} (h : s.Among l) (hi : (s.hamper i).state ∈ l) (h3 : 3 ∈ l) :
    (s.decodeRow start i d len).Among l := by
  have hu : (s.decoding i len).Among l := (h.takePages i len hi).updHamper i h3
  obtain ⟨p, q, hp⟩ := s.decoding_hamper i len
  rw [State.decodeRow]
  exact (hu.modHamper i (by rw [hp]; exact h3)).of_srv (State.placeRow_hampers ..)

end

end Sys2Proof.Machine
end

section
/-! SUPPORT. What a build finds, and the decoding requests of a build (R374 to R376, R382). -/
namespace Sys2Proof.Machine

open Sys2Proof

/-! ## What a build finds -/

/-- In w, which places, the requests, pages and settings are those of s, and no row has been placed. -/
structure Finds (s w : State) : Prop where
  hampers : w.srv.hampers = s.srv.hampers
  prefixes : w.srv.prefixes = s.srv.prefixes
  pool : w.srv.pool = s.srv.pool
  retained : w.srv.retained = s.srv.retained
  rows : w.srv.basket.rows = []
  tables : w.srv.tables = []
  word : ∀ off, quietWord off = true → off / 4 ≠ Reg.srvStat / 4 → w.r32 off = s.r32 off

section
variable {s w t : State}

theorem Finds.of_srv (h : Finds s w) {b : Sparse Budget} {f : Sparse (Option DraftBlock)}
    (ht : t.srv = { w.srv with budgets := b, drafts := f }) (hword : ∀ off, quietWord off = true → t.r32 off = w.r32 off) : Finds s t where
  hampers := by rw [ht]; exact h.hampers
  prefixes := by rw [ht]; exact h.prefixes
  pool := by rw [ht]; exact h.pool
  retained := by rw [ht]; exact h.retained
  rows := by rw [ht]; exact h.rows
  tables := by rw [ht]; exact h.tables
  word := fun off hq hne => (hword off hq).trans (h.word off hq hne)

theorem Finds.refresh (h : Finds s w) (c f : Nat) : Finds s (w.budgetRefresh c f) :=
  h.of_srv (State.budgetRefresh_srv c w f) fun _ hq => State.budgetRefresh_r32 c w f hq

theorem Finds.refreshed (h : Finds s w) (i : Nat) : Finds s (w.refreshed i) :=
  (h.of_srv (t := w.modSrv fun v => { v with drafts := setOpt v.drafts i none }) (b := w.srv.budgets) rfl fun _ _ => rfl).refresh _ _

theorem Finds.hamper (h : Finds s w) (i : Nat) : w.hamper i = s.hamper i := State.hamper_of_hampers h.hampers i
theorem Finds.pool_eq (h : Finds s w) (ctx : Nat) : w.pool ctx = s.pool ctx := by rw [State.pool, State.pool, h.pool]
theorem Finds.lacks (h : Finds s w) (i n : Nat) : w.lacks i n = s.lacks i n := State.lacks_congr h.hampers h.prefixes i n
theorem Finds.rf (h : Finds s w) {off : Nat} (lo len : Nat) (hq : quietWord off = true) (hne : off / 4 ≠ Reg.srvStat / 4) :
    w.rf off lo len = s.rf off lo len := congrArg (fld · lo len) (h.word off hq hne)

theorem Finds.tokenRoom (h : Finds s w) : w.tokenRoom = s.tokenRoom := by
  rw [State.tokenRoom, h.rf _ _ (by decide +kernel) (by decide), h.word _ (by decide +kernel) (by decide),
    h.word _ (by decide +kernel) (by decide)]
  rfl

theorem Finds.chunkLen (h : Finds s w) (g : Hamper) : w.chunkLen g = s.chunkLen g := by
  simp only [State.chunkLen, h.rf (off := Reg.srvStepCfg) _ _ (by decide +kernel) (by decide)]

theorem Finds.reserve (h : Finds s w) : w.rf Reg.srvReserve 0 24 = s.rf Reg.srvReserve 0 24 :=
  h.rf _ _ (by decide +kernel) (by decide)

/-- The first row finds room. -/
theorem Finds.rowRoom (h : Finds s w) (hrows : 0 < s.rf Reg.srvStepCfg 0 13) (htokens : 0 < (s.r32 Reg.srvStepTokens).toNat) :
    w.rowRoom = true := by
  rw [State.rowRoom, State.basketRows, h.rows, h.rf _ _ (by decide +kernel) (by decide), h.word _ (by decide +kernel) (by decide),
    Bool.and_eq_true, decide_eq_true_eq, decide_eq_true_eq]
  exact ⟨hrows, htokens⟩

theorem Finds.tokensFit (h : Finds s w) {n : Nat} (hn : n ≤ s.tokenRoom) : w.tokensFit n = true := by
  rw [State.tokensFit, State.basketRows, h.rows, h.tokenRoom, decide_eq_true_eq]
  exact (Nat.zero_add n).trans_le hn

end

/-! ## What a build begins with -/

section
variable (s : State)

/-- The state in which the placing of a build begins. -/
def State.opened : State := (s.resolved (ownKey 11)).cleared

/-- The tick at which the step of a build starts. -/
def State.stepAt : Nat := s.tick + s.rf Reg.srvStepCfg 28 4

theorem State.built_eq : s.built = s.opened.placed (fun h => s.opened.ctxRuns h.ctx) s.stepAt := rfl

theorem State.refreshed_budgets (i : Nat) : (s.refreshed i).srv.budgets = (s.budgetRefresh (s.hamper i).customer s.tick).srv.budgets := by
  have hb : (s.modSrv fun v => { v with drafts := setOpt v.drafts i none }).srv.budgets = s.srv.budgets := by rw [State.modSrv_srv]
  rw [State.refreshed]
  exact State.budgetRefresh_congr _ hb _

variable {s} (hq : s.srv.queries = [])
include hq

theorem State.opened_eq : s.opened = (((s.resolved (ownKey 11)).wb Reg.srvStat 2 false).modBasket fun _ =>
    { rows := [], start := none, live := false, rerun := false }).modSrv fun v => { v with tables := [] } := by
  have hw : (s.resolved (ownKey 11)).queryWrite = s.resolved (ownKey 11) :=
    if_pos (by rw [show (s.resolved (ownKey 11)).srv.queries = s.srv.queries from rfl, hq]; rfl)
  rw [State.opened, State.cleared, hw]

theorem State.opened_r32 (off : Nat) : s.opened.r32 off = (s.wb Reg.srvStat 2 false).r32 off := by
  rw [State.opened_eq hq, State.modSrv_r32, State.modBasket, State.modSrv_r32]
  rfl

theorem State.opened_finds : Finds s s.opened := by
  have hword (off : Nat) (hne : off / 4 ≠ Reg.srvStat / 4) : s.opened.r32 off = s.r32 off :=
    (State.opened_r32 hq off).trans (State.r32_wf_other _ _ _ _ _ _ hne)
  constructor
  case word => exact fun off _ hne => hword off hne
  all_goals
    rw [State.opened_eq hq]
    rfl

theorem State.opened_budgets : s.opened.srv.budgets = s.srv.budgets := by rw [State.opened_eq hq]; rfl
theorem State.opened_drafts : s.opened.srv.drafts = s.srv.drafts := by rw [State.opened_eq hq]; rfl
theorem State.opened_tick : s.opened.tick = s.tick := by rw [State.opened_eq hq]; rfl

theorem State.opened_draftOf (i : Nat) : s.opened.draftOf i = s.draftOf i := by
  rw [State.draftOf, State.opened_drafts hq, (State.opened_finds hq).hamper i]
  rfl

theorem State.opened_ctxRuns (k : Nat) : s.opened.ctxRuns k = s.ctxRuns k := by
  have hres (j : Nat) : s.opened.resident j = s.resident j := by
    have hword : s.opened.resident j = (s.wb Reg.srvStat 2 false).rb (Reg.coreCtxRoot 0 j) 0 :=
      congrArg (BitVec.getLsbD · 0) (State.opened_r32 hq _)
    rw [hword]
    by_cases hj : Reg.coreCtxRoot 0 j / 4 = Reg.srvStat / 4
    · have hsame (u : State) : u.rb (Reg.coreCtxRoot 0 j) 0 = u.rb Reg.srvStat 0 := by rw [State.rb, State.rb, State.r32, State.r32, hj]
      rw [State.resident, hsame, hsame, State.rb_wb _ _ _ _ _ (by decide), if_neg (by decide)]
    · exact State.rb_wb_other s 2 false 0 hj
  have hctx (j : Nat) : s.opened.ctx j = s.ctx j := by rw [State.opened_eq hq]; rfl
  have hstate (j : Nat) : s.opened.ctxState j = s.ctxState j := by rw [State.ctxState, hres, hctx]; rfl
  have hweights : s.opened.srv.weights = s.srv.weights := by rw [State.opened_eq hq]; rfl
  simp only [State.ctxRuns, State.ctxYields, hstate, hctx, hweights]

end

end Sys2Proof.Machine
end

section
/-! SUPPORT. Builds that place single requests (R374 to R376, R379, R380, R382). -/
namespace Sys2Proof.Machine

open Sys2Proof

/-- Of a build, t shows what its placing has made in z. -/
structure Shows (z t : State) : Prop where
  rows : t.srv.basket.rows = z.srv.basket.rows
  live : t.srv.basket.live = !z.srv.basket.rows.isEmpty
  tables : t.srv.tables = z.srv.tables
  hamper : ∀ j, t.hamper j = z.hamper j
  budget : ∀ c, t.budget c = z.budget c
  pool : ∀ c, t.pool c = z.pool c

/-- A build whose placing comes to z. -/
theorem completes_placed {s z : State} {P : State → Prop} (hs : Builds s) (hz : s.built = z) (hp : ∀ t, Shows z t → P t) :
    Completes .basketBuild s P := by
  refine completes_build hs fun t ht => hp t ?_
  rw [hz, State.buildEnd_srv] at ht
  constructor
  case hamper => exact fun j => State.hamper_of_hampers (by rw [ht]) j
  case budget => exact fun c => State.budget_congr c (by rw [ht])
  case pool => exact fun c => by rw [State.pool, State.pool, ht]
  all_goals rw [ht]

section
variable {s : State} {i : Nat} {h : Hamper}

/-! ## The stage of a request that is alone -/

/-- Where step 1 leaves every request in DECODE or held, nothing is left to be placed. -/
theorem State.placed_decode {u z : State} {runs : Hamper → Bool} {start : Nat} (hstage : u.stageDecode runs start = z) (hz : z.Among [3, 4]) :
    u.placed runs start = z := by
  have hnone (n : Nat) (hn : n ∉ [3, 4]) : (z.ranked fun h => h.state == n && runs h) = [] :=
    hz.ranked fun g hg => by simp [show g.state ≠ n from fun hgn => hn (hgn ▸ hg)]
  rw [State.placed, hstage, State.stageSwapped_none _ (hnone 6 (by decide)), State.stagePrefill_none _ _ (hnone 2 (by decide)),
    State.stageAdmit_none _ _ (hnone 1 (by decide))]

section
variable {u : State} (hu : u.Lone i) (runs : Hamper → Bool) (start : Nat)
include hu

/-- A request that is alone passes over the steps that are not for its state. -/
theorem State.Lone.stageDecode (h3 : (u.hamper i).state ≠ 3) (h4 : (u.hamper i).state ≠ 4) : u.stageDecode runs start = u :=
  State.stageDecode_none _ _ (hu.ranked (by simp [h3, h4]))
theorem State.Lone.stageSwapped (h6 : (u.hamper i).state ≠ 6) : u.stageSwapped runs = u :=
  State.stageSwapped_none _ (hu.ranked (by simp [h6]))
theorem State.Lone.stagePrefill (h2 : (u.hamper i).state ≠ 2) : u.stagePrefill runs start = u :=
  State.stagePrefill_none _ _ (hu.ranked (by simp [h2]))
theorem State.Lone.stageAdmit (h1 : (u.hamper i).state ≠ 1) : u.stageAdmit runs start = u :=
  State.stageAdmit_none _ _ (hu.ranked (by simp [h1]))

end

section
variable (ha : Alone s i h)
include ha

theorem alone_opened : s.opened.srv.hampers = [(i, h)] ∧ s.opened.ctxRuns h.ctx = true ∧ s.opened.hamper i = h ∧ s.hamper i = h
    ∧ s.opened.Lone i := by
  obtain ⟨hone, hruns, hq, -, -⟩ := ha
  have hhampers : s.opened.srv.hampers = [(i, h)] := (State.opened_finds hq).hampers.trans hone
  obtain ⟨hham, hlone⟩ := State.lone_of_one hhampers
  exact ⟨hhampers, (State.opened_ctxRuns hq h.ctx).trans hruns, hham, (State.lone_of_one hone).1, hlone⟩

/-- A request that decodes, or is held from it, is placed by step 1 alone. -/
theorem built_decode (hst : h.state = 3 ∨ (h.state = 4 ∧ h.heldFrom = 3))
    (hz : (s.opened.placeDecode s.stepAt i).Among [3, 4]) : s.built = s.opened.placeDecode s.stepAt i := by
  obtain ⟨hone, hruns, hham, -, -⟩ := alone_opened ha
  rw [State.built_eq]
  refine State.placed_decode ?_ hz
  rw [State.stageDecode, State.ranked_one hone (by rcases hst with h | h <;> simp [h, hruns])]
  exact if_pos (by rw [hham]; omega)

omit ha in
/-- What a build finds as it comes to place its first request. -/
theorem State.opened_refreshed (hq : s.srv.queries = []) (hham : s.hamper i = h) : Finds s (s.opened.refreshed i)
    ∧ (s.opened.refreshed i).srv.budgets = (s.budgetRefresh h.customer s.tick).srv.budgets
    ∧ s.opened.draftOf i = s.draftOf i ∧ (s.opened.refreshed i).hamper i = h := by
  have hfinds := (State.opened_finds hq).refreshed i
  refine ⟨hfinds, ?_, State.opened_draftOf hq i, (hfinds.hamper i).trans hham⟩
  rw [State.refreshed_budgets, (State.opened_finds hq).hamper, hham, State.opened_tick hq]
  exact State.budgetRefresh_congr _ (State.opened_budgets hq) _

theorem alone_refreshed : Finds s (s.opened.refreshed i)
    ∧ (s.opened.refreshed i).srv.budgets = (s.budgetRefresh h.customer s.tick).srv.budgets
    ∧ s.opened.draftOf i = s.draftOf i ∧ (s.opened.refreshed i).hamper i = h := by
  obtain ⟨-, -, -, hham, -⟩ := alone_opened ha
  exact State.opened_refreshed ha.2.2.1 hham

/-! ## DECODE -/

omit ha in
theorem State.held_hamper (u : State) (j why : Nat) : (u.held i why).hamper j =
    if j = i then { u.hamper i with state := 4, heldFrom := 3, hold := why } else u.hamper j := State.updHamper_hamper ..

omit ha in
theorem State.Among.held {u : State} {l : List Nat} (hu : u.Among l) (h4 : 4 ∈ l) (why : Nat) : (u.held i why).Among l := hu.updHamper i h4

/-- A request that decodes, or is held from it, is all there is. -/
theorem alone_among (hst : h.state = 3 ∨ (h.state = 4 ∧ h.heldFrom = 3)) : (s.opened.refreshed i).Among [3, 4] := by
  intro e he
  rw [(alone_refreshed ha).1.hampers, ha.1, List.mem_singleton] at he
  rw [he]
  rcases hst with h | h <;> simp [h]

omit ha in
/-- The first request of a build has its row if it finds budget, ring and pages. -/
theorem State.opened_placeDecode (hq : s.srv.queries = []) (hham : s.hamper i = h) (hrows : 0 < s.rf Reg.srvStepCfg 0 13)
    (htokens : 0 < (s.r32 Reg.srvStepTokens).toNat) (hd : Decodes s i h (s.draftOf i).tokens.length) :
    s.opened.placeDecode s.stepAt i =
      (s.opened.refreshed i).decodeRow s.stepAt i (s.draftOf i) (h.len + 1 + (s.draftOf i).tokens.length) := by
  obtain ⟨hfinds, hbudgets, hdraft, -⟩ := State.opened_refreshed hq hham
  obtain ⟨-, hafford, hfit, hpages⟩ := hd
  rw [← hfinds.lacks, ← hfinds.pool_eq] at hpages
  rw [State.placeDecode_eq]
  dsimp only
  rw [(State.opened_finds hq).hamper, hham, hdraft, hfinds.rowRoom hrows htokens, State.affords_congr _ _ hbudgets, hafford,
    hfinds.tokensFit hfit, State.freed, if_pos hpages, if_pos hpages]
  rfl

theorem completes_build_row (hs : Builds s) (hd : Decodes s i h (s.draftOf i).tokens.length) :
    Completes .basketBuild s fun t =>
      (∃ r : Row, t.srv.basket.rows = [r] ∧ r.hamper = i ∧ r.gen = h.gen ∧ r.chunk = 0 ∧ r.drafts = s.draftOf i ∧ r.lenBefore = h.len)
      ∧ t.srv.basket.live = true ∧ (t.hamper i).state = 3 ∧ (t.hamper i).len = h.len + 1 + (s.draftOf i).tokens.length
      ∧ t.srv.tables = [stepRow h i h.len (1 + (s.draftOf i).tokens.length) true (s.draftOf i)]
      ∧ ((s.budget h.customer).unlimited = false → (t.budget h.customer).balance
        = ((s.budgetRefresh h.customer s.tick).budget h.customer).balance - (1 + (s.draftOf i).tokens.length) * 65536) := by
  obtain ⟨hfinds, hbudgets, -, hham⟩ := alone_refreshed ha
  have hrow := State.opened_placeDecode ha.2.2.1 (alone_opened ha).2.2.2.1 ha.2.2.2.1 ha.2.2.2.2 hd
  obtain ⟨r, hrows, hi, hgen, hchunk, hdrafts, hlen⟩ := (s.opened.refreshed i).decodeRow_rows s.stepAt i
    (h.len + 1 + (s.draftOf i).tokens.length) (s.draftOf i)
  have htables := (s.opened.refreshed i).decodeRow_tables s.stepAt i (h.len + 1 + (s.draftOf i).tokens.length) (s.draftOf i)
  have hcharged := (s.opened.refreshed i).decodeRow_budgets s.stepAt i (h.len + 1 + (s.draftOf i).tokens.length) (s.draftOf i)
  obtain ⟨p, q, hnow⟩ := (s.opened.refreshed i).decodeRow_hamper s.stepAt i (h.len + 1 + (s.draftOf i).tokens.length) (s.draftOf i) i
  have hamong := alone_among ha hd.1
  have hz : (s.opened.placeDecode s.stepAt i).Among [3, 4] := by
    rw [hrow]
    exact hamong.decodeRow _ _ _ _ (by rw [hham]; rcases hd.1 with h | h <;> simp [h]) (by decide)
  refine completes_placed hs ((built_decode ha hd.1 hz).trans hrow) fun t ht => ?_
  rw [hfinds.rows, List.nil_append] at hrows
  rw [hfinds.tables, List.nil_append, hham] at htables
  rw [if_pos rfl] at hnow
  rw [hham] at hgen hlen hcharged
  refine ⟨⟨r, ht.rows.trans hrows, hi, hgen, hchunk, hdrafts, hlen⟩, ?_, ?_, ?_, ht.tables.trans htables, fun hlim => ?_⟩
  · rw [ht.live, hrows]
    rfl
  · rw [ht.hamper, hnow]
  · rw [ht.hamper, hnow]
  · have hsame := State.budget_congr h.customer hbudgets
    rw [ht.budget, State.budget_congr _ hcharged, State.charge_balance _ _ (by rw [hsame, (s.budgetRefresh_budget _ _).1, hlim]), hsame]

/-- A request whose customer lacks the balance is held for it. -/
theorem completes_build_poor (hs : Builds s) (hst : h.state = 3 ∨ (h.state = 4 ∧ h.heldFrom = 3))
    (hpoor : (s.budgetRefresh h.customer s.tick).affords h.customer ((1 + (s.draftOf i).tokens.length) * 65536) = false) :
    Completes .basketBuild s fun t =>
      t.srv.basket.rows = [] ∧ (t.hamper i).state = 4 ∧ (t.hamper i).heldFrom = 3 ∧ (t.hamper i).hold = 1 ∧ (t.hamper i).len = h.len := by
  obtain ⟨-, -, hham, -, -⟩ := alone_opened ha
  obtain ⟨hfinds, hbudgets, hdraft, hnow⟩ := alone_refreshed ha
  have hrow : s.opened.placeDecode s.stepAt i = ((s.opened.refreshed i).updBudget h.customer fun b =>
      { b with heldSteps := min (2 ^ 32 - 1) (b.heldSteps + 1) }).held i 1 := by
    obtain ⟨-, -, -, hrows, htokens⟩ := ha
    rw [State.placeDecode_eq]
    dsimp only
    rw [hham, hdraft, hfinds.rowRoom hrows htokens, State.affords_congr _ _ hbudgets, hpoor]
    rfl
  have hbudget (f : Budget → Budget) : ((s.opened.refreshed i).updBudget h.customer f).srv.hampers = (s.opened.refreshed i).srv.hampers :=
    (congrArg Srv.hampers (State.updBudget_srv (s.opened.refreshed i) h.customer f) : _)
  have hz : (s.opened.placeDecode s.stepAt i).Among [3, 4] := by
    rw [hrow]
    exact ((alone_among ha hst).of_srv (hbudget _)).held (by decide) 1
  refine completes_placed hs ((built_decode ha hst hz).trans hrow) fun t ht => ?_
  have hrows := State.basket_of_slate ((State.held_slate _ i 1).trans (State.updBudget_slate (s.opened.refreshed i) h.customer fun b =>
    { b with heldSteps := min (2 ^ 32 - 1) (b.heldSteps + 1) }))
  rw [ht.rows, ht.hamper, State.held_hamper, if_pos rfl, State.hamper_of_hampers (hbudget _), hnow, hrows]
  exact ⟨hfinds.rows, rfl, rfl, rfl, rfl⟩

/-! ## SWAPPED -/

/-- A swapped request whose pages are free begins to be restored. -/
theorem completes_build_swapped (hs : Builds s) (hst : h.state = 6)
    (hpages : pagesFor h.ctx (h.len + s.rf Reg.srvReserve 0 24) ≤ s.pool h.ctx) :
    Completes .basketBuild s fun t =>
      t.srv.basket.rows = [] ∧ (t.hamper i).state = 9 ∧ (t.hamper i).pages = pagesFor h.ctx h.len
      ∧ t.pool h.ctx = s.pool h.ctx - pagesFor h.ctx h.len := by
  obtain ⟨hone, hruns, hham, -, hlone⟩ := alone_opened ha
  have hfinds := State.opened_finds ha.2.2.1
  have hrow : s.opened.placeSwapped i = (s.opened.poolTake h.ctx (pagesFor h.ctx h.len)).updHamper i fun g =>
      { g with state := 9, pages := pagesFor h.ctx h.len, retried := false } := by
    rw [State.placeSwapped, hham]
    exact if_pos (by rwa [hfinds.reserve, hfinds.pool_eq])
  have hlone' : (s.opened.placeSwapped i).Lone i := by
    rw [hrow]
    exact State.Lone.updHamper (s := s.opened.poolTake _ _) hlone _
  have hnow : (s.opened.placeSwapped i).hamper i = { h with state := 9, pages := pagesFor h.ctx h.len, retried := false } := by
    rw [hrow, State.updHamper_same, show (s.opened.poolTake h.ctx (pagesFor h.ctx h.len)).hamper i = s.opened.hamper i from rfl, hham]
  have hbuilt : s.built = s.opened.placeSwapped i := by
    have hstage : s.opened.stageSwapped (fun h => s.opened.ctxRuns h.ctx) = s.opened.placeSwapped i := by
      rw [State.stageSwapped, State.ranked_one hone (by simp [hst, hruns])]
      rfl
    rw [State.built_eq, State.placed, hlone.stageDecode _ _ (by rw [hham]; omega) (by rw [hham]; omega), hstage,
      hlone'.stagePrefill _ _ (by rw [hnow]; simp), hlone'.stageAdmit _ _ (by rw [hnow]; simp)]
  refine completes_placed hs hbuilt fun t ht => ?_
  rw [ht.rows, ht.hamper, ht.pool, hnow, State.basket_of_slate (State.placeSwapped_slate ..), hrow, State.updHamper_pool]
  refine ⟨hfinds.rows, rfl, rfl, ?_⟩
  rw [State.pool, State.poolTake, State.setPool, State.modSrv_srv, optAt_setOpt_self, hfinds.pool_eq]
  rfl

end

end

end Sys2Proof.Machine
end

section
/-! SUPPORT. Builds that place a prompt chunk, or admit a queued request (R375, R380, R387). -/
namespace Sys2Proof.Machine

open Sys2Proof

theorem State.budgetRefresh_hamper (s : State) (c f i : Nat) : (s.budgetRefresh c f).hamper i = s.hamper i :=
  State.hamper_of_hampers (congrArg Srv.hampers (State.budgetRefresh_srv c s f) : _) i

section
variable {s : State} {i : Nat} {h : Hamper}

/-! ## A prompt chunk -/

section
variable (u : State) (start c cost len : Nat) (first : Bool)

theorem State.chunkRow_hamper : ∃ p q, (u.chunkRow start i c cost len first).hamper i =
    { u.hamper i with pages := p, reservedPages := q, len := len } := by
  obtain ⟨p, q, hp⟩ := u.takePages_hamper i len i
  rw [if_pos rfl] at hp
  refine ⟨p, q, ?_⟩
  rw [State.chunkRow, State.hamper_of_hampers (State.placeRow_hampers ..), State.modHamper_same, hp]

theorem State.chunkRow_rows : ∃ r : Row, (u.chunkRow start i c cost len first).srv.basket.rows = u.srv.basket.rows ++ [r]
    ∧ r.hamper = i ∧ r.gen = (u.hamper i).gen ∧ r.chunk = c ∧ r.lenBefore = (u.hamper i).len := by
  obtain ⟨p, q, hp⟩ := u.takePages_hamper i len i
  rw [if_pos rfl] at hp
  rw [State.chunkRow, State.placeRow_rows, State.basket_of_slate (State.takePages_slate ..)]
  refine ⟨_, rfl, rfl, ?_, rfl, ?_⟩ <;> rw [State.rowOf, hp]

theorem State.chunkRow_tables (hc : c ≠ 0) : (u.chunkRow start i c cost len first).srv.tables =
    u.srv.tables ++ [stepRow (u.hamper i) i (u.hamper i).len c false DraftBlock.none_] := by
  obtain ⟨p, q, hp⟩ := u.takePages_hamper i len i
  rw [if_pos rfl] at hp
  rw [State.chunkRow, State.placeRow_tables, State.tables_of_slate (State.takePages_slate ..), hp, if_neg hc, beq_false_of_ne hc]
  rfl

theorem State.Lone.chunkRow {u : State} (hu : u.Lone i) : (u.chunkRow start i c cost len first).Lone i := by
  rw [State.chunkRow]
  exact ((hu.takePages len).modHamper _).of_srv (State.placeRow_hampers ..)

end

theorem completes_build_chunk (ha : Alone s i h) (hs : Builds s) (hst : h.state = 2) (hc : s.chunkLen h ≠ 0)
    (hafford : (s.budgetRefresh h.customer s.tick).affords h.customer
      ((s.chunkLen h * (s.budget h.customer).promptW + 15) / 16 * 65536) = true) (hroom : 1 ≤ s.tokenRoom)
    (hpages : s.lacks i (h.promptDone + s.chunkLen h) ≤ s.pool h.ctx) :
    Completes .basketBuild s fun t =>
      (∃ r : Row, t.srv.basket.rows = [r] ∧ r.hamper = i ∧ r.gen = h.gen ∧ r.chunk = s.chunkLen h ∧ r.lenBefore = h.len)
      ∧ (t.hamper i).state = 2 ∧ (t.hamper i).promptDone = h.promptDone ∧ (t.hamper i).len = h.promptDone + s.chunkLen h
      ∧ t.srv.tables = [stepRow h i h.len (s.chunkLen h) false DraftBlock.none_] := by
  obtain ⟨hone, hruns, hham, hham', hlone⟩ := alone_opened ha
  obtain ⟨-, -, hq, hrows, htokens⟩ := ha
  have hopened := State.opened_finds hq
  have hfinds := hopened.refresh h.customer s.tick
  have hbudgets := State.budgetRefresh_congr h.customer (State.opened_budgets hq) s.tick
  have hweight : ((s.opened.budgetRefresh h.customer s.tick).budget h.customer).promptW = (s.budget h.customer).promptW := by
    rw [State.budget_congr _ hbudgets, (s.budgetRefresh_budget _ _).2]
  rw [← hfinds.lacks, ← hfinds.pool_eq] at hpages
  obtain ⟨cost, first, hrow⟩ : ∃ cost first, s.opened.placePrefill s.stepAt i =
      (s.opened.budgetRefresh h.customer s.tick).chunkRow s.stepAt i (s.chunkLen h) cost (h.promptDone + s.chunkLen h) first := by
    refine ⟨(s.chunkLen h * (s.budget h.customer).promptW + 15) / 16 * 65536, h.promptDone + s.chunkLen h == h.promptLen, ?_⟩
    rw [State.placePrefill_eq]
    dsimp only
    rw [hham, State.opened_tick hq, hopened.chunkLen, hweight, State.affords_congr _ _ hbudgets, hafford, hfinds.rowRoom hrows htokens,
      hfinds.tokensFit hroom, State.freed, if_pos hpages, if_neg (Nat.not_lt.2 hpages)]
    exact if_neg (by simp [hc])
  have hnow : (s.opened.budgetRefresh h.customer s.tick).hamper i = h := (hfinds.hamper i).trans hham'
  have hlone' : (s.opened.budgetRefresh h.customer s.tick).Lone i :=
    hlone.of_srv (congrArg Srv.hampers (State.budgetRefresh_srv h.customer s.opened s.tick) : _)
  generalize s.opened.budgetRefresh h.customer s.tick = w at hfinds hrow hnow hlone'
  obtain ⟨p, q, hnext⟩ := w.chunkRow_hamper (i := i) s.stepAt (s.chunkLen h) cost (h.promptDone + s.chunkLen h) first
  obtain ⟨r, hr, hi, hgen, hchunk, hlen⟩ := w.chunkRow_rows (i := i) s.stepAt (s.chunkLen h) cost (h.promptDone + s.chunkLen h) first
  have htables := w.chunkRow_tables (i := i) s.stepAt (s.chunkLen h) cost (h.promptDone + s.chunkLen h) first hc
  rw [hnow] at hnext hgen hlen htables
  rw [hfinds.rows, List.nil_append] at hr
  rw [hfinds.tables, List.nil_append] at htables
  have hbuilt : s.built = s.opened.placePrefill s.stepAt i := by
    have hstage : s.opened.stagePrefill (fun h => s.opened.ctxRuns h.ctx) s.stepAt = s.opened.placePrefill s.stepAt i := by
      rw [State.stagePrefill, State.ranked_one hone (by simp [hst, hruns])]
      rfl
    rw [State.built_eq, State.placed, hlone.stageDecode _ _ (by rw [hham]; omega) (by rw [hham]; omega),
      hlone.stageSwapped _ (by rw [hham]; omega), hstage, hrow,
      (hlone'.chunkRow _ _ _ _ _).stageAdmit _ _ (by rw [hnext]; simp [hst])]
  refine completes_placed hs (hbuilt.trans hrow) fun t ht => ?_
  rw [ht.hamper, hnext]
  exact ⟨⟨r, ht.rows.trans hr, hi, hgen, hchunk, hlen⟩, hst, rfl, rfl, ht.tables.trans htables⟩

/-! ## A queued request -/

/-- A prompt of at most one block has no block to match. -/
theorem State.prefixMatch_short {u : State} (hlen : (u.hamper i).promptLen ≤ 64) : u.prefixMatch i = (u, [], none) := by
  unfold State.prefixMatch
  dsimp only
  split
  · rfl
  · obtain h0 | h1 : (u.hamper i).promptLen / 64 = 0 ∨ (u.hamper i).promptLen / 64 = 1 := by omega
    · rw [h0]
      rfl
    · rw [h1, List.range_one, List.foldl_cons, List.foldl_nil, if_pos (Or.inr hlen)]

/-- A request that is admitted with nothing to share, its pages reserved. -/
def State.admits (u : State) (i ctx need : Nat) : State :=
  (((u.poolTake ctx need).updHamper i fun h => { h with
    state := 2, reservedPages := need, promptDone := 0, hashes := [] }).setReq i).setLen i 0

theorem State.admits_hamper (u : State) (i ctx need : Nat) : (u.admits i ctx need).hamper i =
    { u.hamper i with state := 2, reservedPages := need, promptDone := 0, hashes := [], len := 0 } := by
  rw [State.admits, State.setLen_same, State.hamper_congr (State.srv_of_desk (State.setReq_desk ..)), State.updHamper_same]
  rfl

theorem State.freed_card (u : State) (ctx need : Nat) : ((u.freed ctx need).hamper i).card = (u.hamper i).card := by
  unfold State.freed
  split
  · rfl
  · exact State.card_of_files (State.freeRetained_files ..) i

/-- A request that brings no cache receives none. -/
theorem State.admits_eq {u : State} (himport : (u.hamper i).import_ = false) (ctx need : Nat) :
    (((((u.poolTake ctx need).updHamper i fun h => { h with
      state := 2, reservedPages := need, promptDone := 0, hashes := [] }).setReq i).shareCache i none 0).setLen i 0).importCache i
      = u.admits i ctx need := by
  have hshare (v : State) : v.shareCache i none 0 = v := by
    unfold State.shareCache
    exact if_pos (Or.inl rfl)
  rw [hshare, ← State.admits, State.importCache]
  exact if_pos (by rw [State.admits_hamper]; simp [himport])

/-- What becomes of a queued request that shares nothing and brings no cache. -/
theorem State.admitRow_short {u : State} (hlen : (u.hamper i).promptLen ≤ 64) (himport : (u.hamper i).import_ = false) :
    u.admitRow i =
      let ctx := (u.hamper i).ctx
      let need := pagesFor ctx ((u.hamper i).promptLen + u.rf Reg.srvReserve 0 24)
      let v := (u.modHamper i fun h => { h with shared := none }).freed ctx need
      if v.pool ctx < need then (v.modHamper i fun h => { h with shared := none }).count Reg.srvDeferCnt 1 else v.admits i ctx need := by
  have hshared : (u.modHamper i fun h => { h with shared := none }).sharedPages i = 0 := by
    rw [State.sharedPages, State.modHamper_same]
  have hadmit (need need' : Nat) :
      _ = ((u.modHamper i fun h => { h with shared := none }).freed (u.hamper i).ctx need).admits i (u.hamper i).ctx need' :=
    State.admits_eq (by
      refine (Hamper.read_card Hamper.import_ (fun _ => rfl) (State.freed_card ..)).trans ?_
      rw [State.modHamper_same]
      exact himport) _ _
  unfold State.admitRow
  rw [State.prefixMatch_short hlen]
  dsimp only [State.sharer, State.matched]
  rw [hshared, Nat.sub_zero, ← hadmit]
  rfl

/-- Step 4 with one request that is queued: behind its admission its rows, if it is in PREFILL. -/
theorem State.stageAdmit_one {u z : State} {runs : Hamper → Bool} {start : Nat} (hone : (u.ranked fun h => h.state == 1 && runs h) = [i])
    (hz : u.admitRow i = z) (hadm : (z.hamper i).state = 1 ∨ (z.hamper i).state = 2)
    (hpre : ((z.placePrefill start i).hamper i).state = (z.hamper i).state) :
    u.stageAdmit runs start = if (z.hamper i).state = 2 then z.placePrefill start i else z := by
  have hadmit : u.each [i] State.admitRow = z := hz
  have hempty (w : State) (f : State → Nat → State) : w.each [] f = w := rfl
  have hfill : z.each [i] (fun w j => w.placePrefill start j) = z.placePrefill start i := rfl
  rw [State.stageAdmit, hone, hadmit]
  rcases hadm with h1 | h2
  · rw [h1, if_neg (by decide), List.filter_cons_of_neg (by simp [h1]), List.filter_nil, hempty, List.filter_cons_of_neg (by simp [h1]),
      List.filter_nil, hempty]
  · rw [h2] at hpre
    rw [h2, if_pos rfl, List.filter_cons_of_pos (by simp [h2]), List.filter_nil, hfill, List.filter_cons_of_neg (by simp [hpre]),
      List.filter_nil, hempty]

section
variable (ha : Alone s i h) (hst : h.state = 1)
include ha hst

/-- A queued request that is alone comes to step 4, and from there to its rows if it is in PREFILL. -/
theorem built_queued {z : State} (hz : s.opened.admitRow i = z) (hadm : (z.hamper i).state = 1 ∨ (z.hamper i).state = 2)
    (hpre : ((z.placePrefill s.stepAt i).hamper i).state = (z.hamper i).state) :
    s.built = if (z.hamper i).state = 2 then z.placePrefill s.stepAt i else z := by
  obtain ⟨hone, hruns, hham, -, hlone⟩ := alone_opened ha
  have hranked : (s.opened.ranked fun g => g.state == 1 && s.opened.ctxRuns g.ctx) = [i] := State.ranked_one hone (by simp [hst, hruns])
  rw [State.built_eq, State.placed, hlone.stageDecode _ _ (by rw [hham]; omega) (by rw [hham]; omega),
    hlone.stageSwapped _ (by rw [hham]; omega), hlone.stagePrefill _ _ (by rw [hham]; omega)]
  exact State.stageAdmit_one hranked hz hadm hpre

end

/-- What a prompt chunk leaves of its request: its state, the positions that are done, and what it shares. -/
def Hamper.stand (g : Hamper) : Nat × Nat × Option Nat := (g.state, g.promptDone, g.shared)

theorem State.chunkRow_stand (u : State) (start c cost len : Nat) (first : Bool) :
    ((u.chunkRow start i c cost len first).hamper i).stand = (u.hamper i).stand := by
  obtain ⟨p, q, hp⟩ := u.chunkRow_hamper (i := i) start c cost len first
  rw [hp]
  rfl

theorem State.placePrefill_stand (u : State) (start : Nat) : ((u.placePrefill start i).hamper i).stand = (u.hamper i).stand := by
  have hfresh := u.budgetRefresh_hamper (u.hamper i).customer u.tick i
  rw [State.placePrefill_eq]
  dsimp only
  generalize u.budgetRefresh (u.hamper i).customer u.tick = w at hfresh ⊢
  have hfreed (ctx need : Nat) : ((w.freed ctx need).hamper i).stand = (u.hamper i).stand := by
    rw [← hfresh]
    exact Hamper.read_card Hamper.stand (fun _ => rfl) (State.freed_card ..)
  split_ifs
  · rw [hfresh]
  · exact hfreed _ _
  · exact (State.chunkRow_stand ..).trans (hfreed _ _)

section
variable (ha : Alone s i h) (hs : Builds s) (hst : h.state = 1) (hlen : h.promptLen ≤ 64) (himport : h.import_ = false)
include ha hs hst hlen himport

theorem completes_build_admit (hpages : pagesFor h.ctx (h.promptLen + s.rf Reg.srvReserve 0 24) ≤ s.pool h.ctx) :
    Completes .basketBuild s fun t => (t.hamper i).state = 2 ∧ (t.hamper i).promptDone = 0 ∧ (t.hamper i).shared = none := by
  obtain ⟨hone, hruns, hham, -, hlone⟩ := alone_opened ha
  have hfinds := State.opened_finds ha.2.2.1
  rw [← hfinds.reserve, ← hfinds.pool_eq] at hpages
  obtain ⟨z, hz⟩ : ∃ z, s.opened.admitRow i = z := ⟨_, rfl⟩
  have hstand : (z.hamper i).stand = (2, 0, none) := by
    rw [← hz, State.admitRow_short (by rwa [hham]) (by rwa [hham])]
    dsimp only
    rw [hham, State.freed, State.modHamper_pool, if_pos hpages, State.modHamper_pool, if_neg (Nat.not_lt.2 hpages), State.admits_hamper,
      State.modHamper_same]
    rfl
  have hplaced := (State.placePrefill_stand z s.stepAt).trans hstand
  have h2 : (z.hamper i).state = 2 := congrArg (·.1) hstand
  have hbuilt := built_queued ha hst hz (Or.inr h2) ((congrArg (·.1) hplaced).trans h2.symm)
  rw [if_pos h2] at hbuilt
  refine completes_placed hs hbuilt fun t ht => ?_
  rw [← ht.hamper] at hplaced
  exact ⟨congrArg (·.1) hplaced, congrArg (·.2.1) hplaced, congrArg (·.2.2) hplaced⟩

theorem completes_build_defer (hretained : s.srv.retained = [])
    (hpages : s.pool h.ctx < pagesFor h.ctx (h.promptLen + s.rf Reg.srvReserve 0 24)) :
    Completes .basketBuild s fun t => t.srv.basket.rows = [] ∧ (t.hamper i).state = 1 := by
  obtain ⟨hone, hruns, hham, -, hlone⟩ := alone_opened ha
  have hfinds := State.opened_finds ha.2.2.1
  rw [← hfinds.reserve, ← hfinds.pool_eq] at hpages
  have hfree (u : State) (hu : u.srv.retained = []) (ctx need : Nat) : u.freed ctx need = u := by
    rw [State.freed, State.freeRetained, hu]
    exact ite_self _
  obtain ⟨z, hz⟩ : ∃ z, s.opened.admitRow i = z := ⟨_, rfl⟩
  have hnow : (z.hamper i).state = 1 := by
    rw [← hz, State.admitRow_short (by rwa [hham]) (by rwa [hham])]
    dsimp only
    rw [hfree (s.opened.modHamper i _) (hfinds.retained.trans hretained), hham, State.modHamper_pool, if_pos hpages, State.count_hamper,
      State.modHamper_same, State.modHamper_same, hham]
    exact hst
  have hbuilt := built_queued ha hst hz (Or.inl hnow) (congrArg (·.1) (State.placePrefill_stand z s.stepAt))
  rw [if_neg (by rw [hnow]; decide)] at hbuilt
  refine completes_placed hs hbuilt fun t ht => ?_
  have hslate := State.basket_of_slate (hz ▸ State.admitRow_slate s.opened i)
  rw [ht.rows, ht.hamper, hslate]
  exact ⟨hfinds.rows, hnow⟩

end

end

end Sys2Proof.Machine
end

section
/-! SUPPORT. A build with room for one row and two requests that decode (R375). -/
namespace Sys2Proof.Machine

open Sys2Proof

section
variable {s : State} {i j : Nat} {h g : Hamper}

theorem State.hamper_of_two {u : State} (hij : i ≠ j) (htwo : u.srv.hampers = [(i, h), (j, g)] ∨ u.srv.hampers = [(j, g), (i, h)]) :
    u.hamper i = h ∧ u.hamper j = g := by
  rcases htwo with hu | hu <;> rw [State.hamper, State.hamper, hu]
  · exact ⟨if_pos rfl, (if_neg hij).trans (if_pos rfl)⟩
  · exact ⟨(if_neg hij.symm).trans (if_pos rfl), if_pos rfl⟩

/-- Of two requests the one of the higher PRIORITY is ranked first. -/
theorem State.ranked_two {u : State} (hij : i ≠ j) (htwo : u.srv.hampers = [(i, h), (j, g)] ∨ u.srv.hampers = [(j, g), (i, h)])
    {p : Hamper → Bool} (hp : p h = true ∧ p g = true) (hprio : g.priority < h.priority) : u.ranked p = [i, j] := by
  obtain ⟨hi, hj⟩ := State.hamper_of_two hij htwo
  have hne : (g.priority == h.priority) = false := beq_eq_false_iff_ne.2 (Nat.ne_of_lt hprio)
  rcases htwo with hu | hu
  · rw [State.ranked, hu]
    simp [sortBy, insertBy, hp.1, hp.2, hi, hj, Nat.not_lt.2 hprio.le, hne]
  · rw [State.ranked, hu]
    simp [sortBy, insertBy, hp.1, hp.2, hi, hj, hprio]

theorem State.refreshed_hamper (u : State) (k n : Nat) : (u.refreshed k).hamper n = u.hamper n := by
  rw [State.refreshed, State.budgetRefresh_hamper]
  rfl

theorem State.Among.refreshed {u : State} {l : List Nat} (hu : u.Among l) (k : Nat) : (u.refreshed k).Among l :=
  hu.of_srv (congrArg Srv.hampers (State.budgetRefresh_srv _ (u.modSrv fun v => { v with drafts := setOpt v.drafts k none }) _) : _)

/-- A request that finds no room is held, for no cause of its own. -/
theorem State.placeDecode_full {u : State} (start k : Nat) (hfull : u.rf Reg.srvStepCfg 0 13 ≤ u.srv.basket.rows.length) :
    u.placeDecode start k = (u.refreshed k).held k 0 := by
  have hroom : (u.refreshed k).rowRoom = false := by
    rw [← Bool.not_eq_true]
    exact fun h => absurd (State.rowRoom_rows (u.refreshed_slate k) h) (Nat.not_lt.2 hfull)
  rw [State.placeDecode_eq]
  dsimp only
  rw [hroom]
  rfl

section
variable (hs : Builds s) (hij : i ≠ j) (htwo : s.srv.hampers = [(i, h), (j, g)] ∨ s.srv.hampers = [(j, g), (i, h)])
  (hruns : s.ctxRuns h.ctx = true) (hruns' : s.ctxRuns g.ctx = true) (hq : s.srv.queries = []) (hcap : s.rf Reg.srvStepCfg 0 13 = 1)
  (htokens : 0 < (s.r32 Reg.srvStepTokens).toNat) (hprio : g.priority < h.priority) (hd : Decodes s i h (s.draftOf i).tokens.length)
  (hg : g.state = 3)
include hij htwo hq hcap htokens hd hg

/-- The first of the two requests has its row; the second is as it was. -/
theorem State.two_first : ∃ z : State, s.opened.placeDecode s.stepAt i = z ∧ z.Among [3, 4] ∧ (z.hamper i).state = 3 ∧ z.hamper j = g
    ∧ z.srv.basket.rows.map (·.hamper) = [i] ∧ z.rf Reg.srvStepCfg 0 13 = 1 := by
  obtain ⟨hi, hj⟩ := State.hamper_of_two hij htwo
  obtain ⟨hfinds, -, -, hnow⟩ := State.opened_refreshed hq hi
  have hstate : h.state ∈ [3, 4] := by
    rcases hd.1 with h3 | ⟨h4, -⟩
    · rw [h3]; decide
    · rw [h4]; decide
  have hamong : (s.opened.refreshed i).Among [3, 4] := by
    intro e he
    have hmem : e = (i, h) ∨ e = (j, g) := by
      rw [hfinds.hampers] at he
      rcases htwo with hu | hu <;> rw [hu] at he <;> simp at he <;> tauto
    rcases hmem with rfl | rfl
    · exact hstate
    · simp [hg]
  have hrow := State.opened_placeDecode hq hi (by omega) htokens hd
  have hplacing : Placing (s.r32 Reg.srvStepCfg) (s.opened.placeDecode s.stepAt i) :=
    Placing.places (s.resolved (ownKey 11)).cleared_placing (State.placeDecode_places s.opened s.stepAt i)
  obtain ⟨r, hr, hri, -⟩ := (s.opened.refreshed i).decodeRow_rows s.stepAt i (h.len + 1 + (s.draftOf i).tokens.length) (s.draftOf i)
  obtain ⟨p, q, hfirst⟩ := (s.opened.refreshed i).decodeRow_hamper s.stepAt i (h.len + 1 + (s.draftOf i).tokens.length) (s.draftOf i) i
  obtain ⟨p', q', hsecond⟩ := (s.opened.refreshed i).decodeRow_hamper s.stepAt i (h.len + 1 + (s.draftOf i).tokens.length) (s.draftOf i) j
  rw [if_pos rfl] at hfirst
  rw [if_neg hij.symm, hfinds.hamper, hj] at hsecond
  rw [hfinds.rows, List.nil_append] at hr
  refine ⟨_, rfl, ?_, ?_, ?_, ?_, ?_⟩
  · rw [hrow]
    exact hamong.decodeRow _ _ _ _ (hnow ▸ hstate) (by decide)
  · rw [hrow, hfirst]
  · rw [hrow, hsecond]
  · rw [hrow, hr, List.map_singleton, hri]
  · rw [State.rf, hplacing.word]
    exact hcap

include hs hruns hruns' hprio

/-- With room for one row the request of the higher PRIORITY has it, and the other is held from DECODE. -/
theorem completes_build_two :
    Completes .basketBuild s fun t =>
      t.srv.basket.rows.map (·.hamper) = [i] ∧ (t.hamper i).state = 3 ∧ (t.hamper j).state = 4 ∧ (t.hamper j).heldFrom = 3
      ∧ (t.hamper j).hold = 0 := by
  obtain ⟨hi, hj⟩ := State.hamper_of_two hij htwo
  obtain ⟨z, hz, hamong, hfirst, hsecond, hrows, hcfg⟩ := State.two_first hij htwo hq hcap htokens hd hg
  have hlen : z.srv.basket.rows.length = 1 := by rw [← List.length_map, hrows]; rfl
  have hheld : z.placeDecode s.stepAt j = (z.refreshed j).held j 0 := State.placeDecode_full _ _ (by rw [hcfg, hlen])
  have hopened : s.opened.srv.hampers = [(i, h), (j, g)] ∨ s.opened.srv.hampers = [(j, g), (i, h)] := by
    rwa [(State.opened_finds hq).hampers]
  have hbuilt : s.built = (z.refreshed j).held j 0 := by
    have hpair (f : State → Nat → State) : s.opened.each [i, j] f = f (f s.opened i) j := rfl
    rw [State.built_eq]
    refine State.placed_decode ?_ ((hamong.refreshed j).held (by decide) 0)
    rw [State.stageDecode, State.ranked_two hij hopened ⟨?_, ?_⟩ hprio]
    · have hdecodes : (s.opened.hamper i).state = 3 ∨ (s.opened.hamper i).state = 4 := by
        rw [(State.opened_finds hq).hamper, hi]
        exact hd.1.imp_right And.left
      rw [hpair, if_pos hdecodes, hz, if_pos (Or.inl (by rw [hsecond, hg])), hheld]
    · rcases hd.1 with h | h <;> simp [h, State.opened_ctxRuns hq, hruns]
    · simp [hg, State.opened_ctxRuns hq, hruns']
  refine completes_placed hs hbuilt fun t ht => ?_
  rw [ht.rows, ht.hamper, ht.hamper, State.held_hamper, if_neg hij, State.held_hamper, if_pos rfl, State.refreshed_hamper,
    State.basket_of_slate ((State.held_slate ..).trans (State.refreshed_slate ..))]
  exact ⟨hrows, hfirst, rfl, rfl, rfl⟩

end

end

end Sys2Proof.Machine
end

section
/-! PROOF. O53: the events of the serving firmware. -/
namespace Sys2Proof.Machine

open Sys2Proof

/-- Settles O53: each event by what the firmware makes of its books, clause by clause. -/
theorem firmwareEvents : Obligations.FirmwareEvents := by
  unfold Obligations.FirmwareEvents
  refine ⟨fun s v wrote hs h => completes_srvTail_taken wrote hs h, fun s v wrote hs h => completes_srvTail_ignored wrote hs h,
    fun s v hs => completes_srvCons v hs, fun s n hs hrel h => completes_coreBeat n hs hrel h,
    fun s hs hrun hrel h => completes_trackerStart hs hrun hrel h, ?swap, ?restore, ?thermos,
    fun s i hs hst howed hmoving hin => completes_pageRelease hs hst howed hmoving hin,
    fun s i hs hst hnone h => completes_thermosExpiry hs hst hnone h,
    fun s i at_ hs hst hat h => completes_thermosRelease hs hst hat h,
    fun s i hs h0 h8 h10 hfirst hdead hmiss h => completes_ttftExpiry hs h0 h8 h10 hfirst hdead hmiss h,
    fun s hs => completes_build_step hs, ?alone, ?two,
    fun s k r x hd h => completes_row_stale hd h, ?clean, ?failed, ?reload,
    fun s at_ hs hat hle h => completes_rerunRelease hs hat hle h, ?poison, fun s n hs => completes_dataPoison_other n hs⟩
  case swap =>
    exact fun s i e hs hst => ⟨completes_swap_ok hs hst, completes_swap_retry hs hst, completes_swap_fault hs hst⟩
  case restore =>
    exact fun s i e hs hst => ⟨completes_restore_ok hs hst, completes_restore_retry hs hst, completes_restore_fault hs hst⟩
  case thermos =>
    exact fun s i e p hs hst hin hp =>
      ⟨completes_thermos_ok hs hst hin hp, completes_thermos_retry hs hst hin hp, completes_thermos_back hs hst hin hp⟩
  case alone =>
    exact fun s i h hs ha => ⟨completes_build_row ha hs, completes_build_poor ha hs, completes_build_swapped ha hs,
      completes_build_chunk ha hs, fun hst hlen himport =>
        ⟨completes_build_admit ha hs hst hlen himport, completes_build_defer ha hs hst hlen himport⟩⟩
  case two =>
    exact fun s i j h g hs hij htwo hruns hruns' hq hcap htokens hprio hd hg =>
      completes_build_two hs hij htwo hruns hruns' hq hcap htokens hprio hd hg
  case clean =>
    exact fun s k r x h tok a hr hh htok ha => ⟨completes_row_stop hr hh htok, completes_row_decode hr hh ha,
      completes_row_chunk hr hh, completes_row_final hr hh htok⟩
  case failed =>
    exact fun s k r x => ⟨completes_row_fault, completes_row_poisoned, fun w hr hx hit => completes_row_weights hr hx hit⟩
  case reload =>
    exact fun s page frame wrote w hs hw hlive => ⟨completes_reload_lost hs hw hlive, completes_reload_read hs hw hlive⟩
  case poison =>
    exact fun s n i hs hrun h0 h10 => ⟨completes_dataPoison hs h0 h10 (State.dataPoison_hamper hrun),
      fun k r hrow hi hgen w hw => completes_dataPoison hs h0 h10 (State.dataPoison_row hrun hrow hi hgen hw)⟩

end Sys2Proof.Machine
end
